-- ==== Sys2Proof/Word.lean ====
section
/-! DEFINITION. The word types of the T940 (R5, R226, R246): bytes, 32-bit lanes and scalars, 64-bit
pairs, 96-bit lane sets. -/

namespace Sys2Proof

/-- One byte of memory. -/
abbrev Byte := BitVec 8

/-- A scalar register, or one lane of a vector register (R246). -/
abbrev Word := BitVec 32

/-- A 64-bit pair, a virtual address or a PC (R60, R284). -/
abbrev DWord := BitVec 64

/-- A set of lanes: bit l names lane l, and bits 0 to 31 are s0, 32 to 63 s1, 64 to 95 s2 (R249). -/
abbrev LaneSet := BitVec 96

end Sys2Proof
end

