-- ==== Sys2Proof/Config.lean ====
section
/-! DEFINITION. The free values of the model: what the spec leaves open, as constants with no body. No proof can
see a value of one of them. notes/assumptions 6 and 9 to 12 say where each is used. -/

namespace Sys2Proof.Config

/-- A free choice of the machine, one for each number of State.draws (entry 6). -/
opaque freeChoice : Nat → Nat

/-- Which code within the bound of R232 and R347 a special function returns, by opcode, format and operand
code, rounding code (entry 9). The functions are deterministic (R337), so this is a function of the operands. -/
opaque ulpChoice : Nat → Nat → Nat → Nat → Nat

/-- The data byte of a poisoned half-line that a host read returns (R86, R450; entry 6). -/
opaque poisonByte : Nat → Byte

/-- A byte that the spec leaves open, one for each number of State.draws: what a PCIe read returns that the host does not
complete with data (entry 6). -/
opaque freeByte : Nat → Byte

/-- The 56 payload bytes of a flit, by packet and flit: the spec gives the content of a packet no layout (entry 63). -/
opaque packetContent : Nat → Nat → BitVec 448

/-- Whether another package answers an offset of its own as unbacked (R63): its map is its own (entry 64). -/
opaque farUnbacked : Nat → Nat → Bool

/-- The status a media job's input ends with, by the job's settings and input bytes: 0, 1 or 2 (entry 10). -/
opaque mediaStatus : List Byte → List Byte → Nat

/-- How many coding rows a media job finishes (entry 10). -/
opaque mediaRows : List Byte → List Byte → Nat

/-- How many filtered rows a coding row of a media job needs before it reads its references (entry 10). -/
opaque mediaNeeds : List Byte → List Byte → Nat → Nat

/-- A header field of a picture of a bitstream, by settings, input, picture and field: 0 width, 1 height, 2 bit depth, 3 chroma
format, 4 profile, 5 level as 10 times its major number plus its minor number (entry 10). -/
opaque mediaHeader : List Byte → List Byte → Nat → Nat → Nat

/-- The picture that a coding row belongs to, and the coding row of a luma position of a picture, by settings and input
(entry 10). -/
opaque mediaPicture : List Byte → List Byte → Nat → Nat
opaque mediaRowAt : List Byte → List Byte → Nat → Nat → Nat → Nat

/-- The sample of a coding row at a plane and a position in it, by settings, input, what the rows up to this one read of
filtered rows, and row (entry 10). -/
opaque mediaSample : List Byte → List Byte → List (List Byte) → Nat → Nat → Nat → Nat → Nat

/-- The compressed bytes of a media encode job (entry 10). -/
opaque mediaStream : List Byte → List Byte → List Byte

/-- The signature of an attestation report, by the report's bytes (R112; entry 11). -/
opaque attestSign : List Byte → List Byte

/-- The device's certificate bytes (R112; entry 11). -/
opaque attestCert : List Byte

/-- A 384-bit digest as the ROM computes it over bytes (R112; entry 11). -/
opaque romDigest : List Byte

/-- The serial number held in fuses (R105; entry 11). -/
opaque serial : List Byte

/-- The fuse block's bytes (R112; entry 11). -/
opaque fuses : List Byte

end Sys2Proof.Config
end

