-- ==== Sys2Proof/Machine/Float.lean ====
section
/-! DEFINITION. Floating-point formats, exact values, the one rounding, and the arithmetic of f32, f64, f16, bf16
and the narrow formats on their bit codes (10 R229 to R238, 15 R340 to R353). A code is a Nat below 2^width;
every function answers the result's code and the flags of R234 that it raises. -/

namespace Sys2Proof.Machine

/-- A floating-point format (R229): `e` exponent bits, `m` fraction bits, the bias, whether all-ones exponents
are infinities and NaNs, and whether the one all-ones code is a NaN (fp8e4m3). -/
structure Fmt where
  e : Nat
  m : Nat
  bias : Nat
  ieee : Bool
  oneNan : Bool
  deriving DecidableEq, Repr

def fmtF64 : Fmt := ⟨11, 52, 1023, true, false⟩
def fmtF32 : Fmt := ⟨8, 23, 127, true, false⟩
def fmtF16 : Fmt := ⟨5, 10, 15, true, false⟩
def fmtBf16 : Fmt := ⟨8, 7, 127, true, false⟩
def fmtE5m2 : Fmt := ⟨5, 2, 15, true, false⟩
def fmtE4m3 : Fmt := ⟨4, 3, 7, false, true⟩
def fmtE3m2 : Fmt := ⟨3, 2, 3, false, false⟩
def fmtE2m3 : Fmt := ⟨2, 3, 1, false, false⟩
def fmtE2m1 : Fmt := ⟨2, 1, 1, false, false⟩

def Fmt.signBit (f : Fmt) : Nat := 2 ^ (f.e + f.m)

/-- The code of the largest finite magnitude. -/
def Fmt.maxCode (f : Fmt) : Nat :=
  if f.ieee then (2 ^ f.e - 1) * 2 ^ f.m - 1
  else if f.oneNan then 2 ^ (f.e + f.m) - 2 else 2 ^ (f.e + f.m) - 1

/-- The code of +∞ in a format that has infinities. -/
def Fmt.infCode (f : Fmt) : Nat := (2 ^ f.e - 1) * 2 ^ f.m

/-- The canonical NaN (R230); a format without NaNs has +0 in its place (R235). -/
def Fmt.nanCode (f : Fmt) : Nat :=
  if f.ieee then f.infCode + 2 ^ (f.m - 1) else if f.oneNan then 2 ^ (f.e + f.m) - 1 else 0

/-- The exponent of the smallest subnormal. -/
def Fmt.qmin (f : Fmt) : Int := 1 - (f.bias : Int) - (f.m : Int)

/-- The value of a code: a NaN, an infinity, or (−1)^neg · mag · 2^ex. -/
inductive FVal where
  | nan (signalling : Bool)
  | inf (neg : Bool)
  | fin (neg : Bool) (mag : Nat) (ex : Int)
  deriving DecidableEq, Repr

/-- R229, R230. -/
def Fmt.val (f : Fmt) (code : Nat) : FVal :=
  let neg := (code / f.signBit) % 2 == 1
  let mag := code % f.signBit
  let ebits := mag / 2 ^ f.m
  let frac := mag % 2 ^ f.m
  if f.ieee && ebits == 2 ^ f.e - 1 then
    if frac == 0 then .inf neg else .nan (decide (frac < 2 ^ (f.m - 1)))
  else if f.oneNan && mag == f.signBit - 1 then .nan false
  else if ebits == 0 then .fin neg frac f.qmin
  else .fin neg (2 ^ f.m + frac) ((ebits : Int) - 1 + f.qmin)

/-- The flags of sr.fpflags (R234): INV bit 0, DZ 1, OFL 2, UFL 3, INX 4, TERN 5. -/
abbrev FpFlags := BitVec 6
def flNone : FpFlags := 0x00#6
def flInv : FpFlags := 0x01#6
def flDz : FpFlags := 0x02#6
def flOfl : FpFlags := 0x04#6
def flUfl : FpFlags := 0x08#6
def flInx : FpFlags := 0x10#6
def flTern : FpFlags := 0x20#6
def flIf (c : Bool) (f : FpFlags) : FpFlags := if c then f else flNone

/-- The rounding modes of R231. -/
inductive Rm where
  | rne | rtz | rdn | rup | rna
  deriving DecidableEq, Repr

/-- The mode of a code the checks have accepted; a code they reject reads as RNE. -/
def Rm.ofCode (c : Nat) : Rm :=
  if c == 1 then .rtz else if c == 2 then .rdn else if c == 3 then .rup else if c == 4 then .rna else .rne

/-- Whether the magnitude is raised by one unit: `sig` kept, `rem` of `2^d` cut off. -/
def roundsUp (rm : Rm) (neg : Bool) (sig rem d : Nat) : Bool :=
  match rm with
  | .rtz => false
  | .rdn => neg && rem != 0
  | .rup => !neg && rem != 0
  | .rna => decide (2 ^ d ≤ 2 * rem)
  | .rne => decide (2 ^ d < 2 * rem) || (2 * rem == 2 ^ d && sig % 2 == 1)

/-- mag · 2^ex rounded to a multiple of 2^q; answers the multiple and whether it is inexact. -/
def roundAt (rm : Rm) (neg : Bool) (mag : Nat) (ex q : Int) : Nat × Bool :=
  if q ≤ ex then (mag * 2 ^ (ex - q).toNat, false)
  else
    let d := (q - ex).toNat
    let sig := mag / 2 ^ d
    let rem := mag % 2 ^ d
    (if roundsUp rm neg sig rem d then sig + 1 else sig, rem != 0)

/-- What a result past the largest finite value becomes: the arithmetic rule of R232, the plain narrowing rule
of R235 (saturate), or its `.nan` form. -/
inductive OverflowRule where
  | arith | saturate | nanForm
  deriving DecidableEq, Repr

def overflowCode (f : Fmt) (o : OverflowRule) (rm : Rm) (neg : Bool) : Nat :=
  match o with
  | .saturate => f.maxCode
  | .nanForm => if f.ieee then f.infCode else f.nanCode
  | .arith =>
    match rm, neg with
    | .rne, _ => f.infCode
    | .rna, _ => f.infCode
    | .rtz, _ => f.maxCode
    | .rdn, true => f.infCode
    | .rdn, false => f.maxCode
    | .rup, true => f.maxCode
    | .rup, false => f.infCode

def withSign (f : Fmt) (neg : Bool) (mag : Nat) : Nat := if neg then f.signBit + mag else mag

/-- A NaN result has sign 0 in every format that has a sign-less canonical NaN (R230). -/
def signedCode (f : Fmt) (neg : Bool) (mag : Nat) : Nat :=
  if mag == f.nanCode && !f.ieee && f.oneNan then mag else withSign f neg mag

/-- The number of bits of a Nat. -/
def bitLen (n : Nat) : Nat := if n == 0 then 0 else Nat.log2 n + 1

/-- The one rounding (R232, R235): the exact value (−1)^neg · mag · 2^ex into format f. Under ftz a subnormal
result becomes a zero of its sign (R233). Tininess is detected after rounding. -/
def roundTo (f : Fmt) (rm : Rm) (o : OverflowRule) (ftz : Bool) (neg : Bool) (mag : Nat) (ex : Int) :
    Nat × FpFlags :=
  if mag == 0 then (withSign f neg 0, flNone)
  else
    let top := ex + (bitLen mag : Int) - 1
    let qn := top - (f.m : Int)
    let q := max qn f.qmin
    let (sig, inx) := roundAt rm neg mag ex q
    let code := (q - f.qmin).toNat * 2 ^ f.m + sig
    let (sigU, _) := roundAt rm neg mag ex qn
    let tiny := decide (qn < f.qmin) && decide (sigU < 2 ^ (f.m + (f.qmin - qn).toNat))
    if f.maxCode < code then
      (signedCode f neg (overflowCode f o rm neg), flOfl ||| flInx)
    else if ftz && code != 0 && decide (code < 2 ^ f.m) then (withSign f neg 0, flUfl ||| flInx)
    else (withSign f neg code, flIf inx flInx ||| flIf (inx && tiny) flUfl)

/-- A value as an exact dyadic integer at exponent `ex`. -/
def signedMag (neg : Bool) (mag : Nat) : Int := if neg then -(mag : Int) else (mag : Int)

/-- Under ftz a subnormal input reads as a zero of its sign (R233). -/
def Fmt.read (f : Fmt) (ftz : Bool) (code : Nat) : FVal :=
  match f.val code with
  | .fin neg mag ex => if ftz && decide (mag < 2 ^ f.m) then .fin neg 0 f.qmin else .fin neg mag ex
  | v => v

def FVal.isNan : FVal → Bool
  | .nan _ => true
  | _ => false

def FVal.isSnan : FVal → Bool
  | .nan b => b
  | _ => false

def FVal.isZero : FVal → Bool
  | .fin _ m _ => m == 0
  | _ => false

def FVal.neg? : FVal → Bool
  | .inf n => n
  | .fin n _ _ => n
  | .nan _ => false

def FVal.negate : FVal → FVal
  | .inf n => .inf !n
  | .fin n m e => .fin (!n) m e
  | .nan b => .nan b

/-- The exact product; the second part is 0 × ∞ (R340). -/
def FVal.mul : FVal → FVal → FVal × Bool
  | .nan _, _ => (.nan false, false)
  | _, .nan _ => (.nan false, false)
  | .inf a, .inf b => (.inf (a != b), false)
  | .inf a, .fin b m _ => if m == 0 then (.nan false, true) else (.inf (a != b), false)
  | .fin a m _, .inf b => if m == 0 then (.nan false, true) else (.inf (a != b), false)
  | .fin a m e, .fin b n g => (.fin (a != b) (m * n) (e + g), false)

/-- The least exponent among the finite terms. -/
def minExp : List FVal → Int → Int
  | [], a => a
  | .fin _ _ e :: r, a => minExp r (min a e)
  | _ :: r, a => minExp r a

def sumAt (q : Int) : List FVal → Int
  | [] => 0
  | .fin n m e :: r => signedMag n (m * 2 ^ (e - q).toNat) + sumAt q r
  | _ :: r => sumAt q r

/-- The exact sum of terms as one value, with whether it is an invalid sum of opposite infinities. A zero sum
has the sign of its terms when they agree, and otherwise −0 in RDN and +0 in the other modes (R340). -/
def sumExact (rm : Rm) (ts : List FVal) : FVal × Bool :=
  if ts.any FVal.isNan then (.nan false, false)
  else
    let pinf := ts.any (fun t => t == .inf false)
    let ninf := ts.any (fun t => t == .inf true)
    if pinf && ninf then (.nan false, true)
    else if pinf then (.inf false, false)
    else if ninf then (.inf true, false)
    else
      let q := minExp ts 0
      let x := sumAt q ts
      if x == 0 then
        let neg := if ts.all FVal.neg? then true else if ts.all (fun t => !t.neg?) then false else rm == .rdn
        (.fin neg 0 q, false)
      else (.fin (decide (x < 0)) x.natAbs q, false)

/-- A sum rounded to zero from nonzero terms of opposite sign is +0, and −0 in RDN (R340). -/
def zeroSumSign (f : Fmt) (rm : Rm) (ts : List FVal) (exactZero : Bool) (code : Nat) : Nat :=
  let pos := ts.any (fun t => !t.isZero && !t.neg?)
  let neg := ts.any (fun t => !t.isZero && t.neg?)
  if !exactZero && code % f.signBit == 0 && pos && neg then withSign f (rm == .rdn) 0 else code

/-- The rounded result of a value (an infinity stays; a NaN is the canonical NaN). -/
def roundVal (f : Fmt) (rm : Rm) (ftz : Bool) (v : FVal) : Nat × FpFlags :=
  match v with
  | .nan _ => (f.nanCode, flNone)
  | .inf n => (withSign f n f.infCode, flNone)
  | .fin n m e => roundTo f rm .arith ftz n m e

/-- The rounded sum of exact terms, with INV for opposite infinities. -/
def sumRound (f : Fmt) (rm : Rm) (ftz : Bool) (ts : List FVal) : Nat × FpFlags :=
  let (v, bad) := sumExact rm ts
  let (c, fl) := roundVal f rm ftz v
  let (c0, _) := roundVal f rm false v
  let c' := if c0 % f.signBit == 0 then zeroSumSign f rm ts v.isZero c else c
  (c', fl ||| flIf bad flInv)

/-- fadd, dadd (R340). -/
def fAdd (f : Fmt) (rm : Rm) (ftz : Bool) (a b : Nat) : Nat × FpFlags :=
  let x := f.read ftz a
  let y := f.read ftz b
  let (c, fl) := sumRound f rm ftz [x, y]
  (c, fl ||| flIf (x.isSnan || y.isSnan) flInv)

/-- fsub (R340): A − B; a NaN B keeps its kind. -/
def fSub (f : Fmt) (rm : Rm) (ftz : Bool) (a b : Nat) : Nat × FpFlags :=
  let x := f.read ftz a
  let y := f.read ftz b
  let (c, fl) := sumRound f rm ftz [x, y.negate]
  (c, fl ||| flIf (x.isSnan || y.isSnan) flInv)

/-- fmul, dmul (R340). -/
def fMul (f : Fmt) (rm : Rm) (ftz : Bool) (a b : Nat) : Nat × FpFlags :=
  let x := f.read ftz a
  let y := f.read ftz b
  let (p, bad) := x.mul y
  let (c, fl) := roundVal f rm ftz p
  (c, fl ||| flIf (bad || x.isSnan || y.isSnan) flInv)

/-- ffma, dfma (R340): 0 × ∞ sets INV even when C is a NaN. -/
def fFma (f : Fmt) (rm : Rm) (ftz : Bool) (a b c : Nat) : Nat × FpFlags :=
  let x := f.read ftz a
  let y := f.read ftz b
  let z := f.read ftz c
  let (p, bad) := x.mul y
  let (r, fl) := sumRound f rm ftz [p, z]
  (r, fl ||| flIf (bad || x.isSnan || y.isSnan || z.isSnan) flInv)

/-- A total order on the non-NaN values of a format as integers: −0 below +0 (R341). -/
def Fmt.key (f : Fmt) (code : Nat) : Int :=
  if (code / f.signBit) % 2 == 1 then -((code % f.signBit : Nat) : Int) - 1 else ((code % f.signBit : Nat) : Int)

/-- The code read under ftz: a subnormal is a zero of its sign (R341). -/
def Fmt.flush (f : Fmt) (ftz : Bool) (code : Nat) : Nat :=
  let mag := code % f.signBit
  if ftz && mag != 0 && decide (mag < 2 ^ f.m) then code - mag else code

def pickLeast (f : Fmt) : List Nat → Option Nat
  | [] => none
  | c :: r => match pickLeast f r with
    | none => some c
    | some d => if f.key c ≤ f.key d then some c else some d

def pickGreatest (f : Fmt) : List Nat → Option Nat
  | [] => none
  | c :: r => match pickGreatest f r with
    | none => some c
    | some d => if f.key d ≤ f.key c then some c else some d

/-- fmin, fmin3, dmin and fmax, fmax3, dmax (R341). -/
def fMinMax (f : Fmt) (isMax ftz : Bool) (xs : List Nat) : Nat × FpFlags :=
  let snan := xs.any (fun c => (f.val c).isSnan)
  let ys := (xs.map (f.flush ftz)).filter (fun c => !(f.val c).isNan)
  let r := if isMax then pickGreatest f ys else pickLeast f ys
  (r.getD f.nanCode, flIf snan flInv)

/-- The sign of A − B for values that are not NaNs, with −0 equal to +0. -/
def FVal.cmp : FVal → FVal → Int
  | .nan _, _ => 0
  | _, .nan _ => 0
  | .inf a, .inf b => if a == b then 0 else if a then -1 else 1
  | .inf a, .fin _ _ _ => if a then -1 else 1
  | .fin _ _ _, .inf b => if b then 1 else -1
  | .fin a m e, .fin b n g =>
    let q := min e g
    signedMag a (m * 2 ^ (e - q).toNat) - signedMag b (n * 2 ^ (g - q).toNat)

/-- The relation of a SUB code on a sign: eq, ne, lt, le, gt, ge (R332, R343, R362). -/
def relHolds (cond : Nat) (d : Int) : Bool :=
  if cond == 0 then d == 0 else if cond == 1 then d != 0 else if cond == 2 then decide (d < 0)
  else if cond == 3 then decide (d ≤ 0) else if cond == 4 then decide (0 < d) else decide (0 ≤ d)

/-- Three-valued codes of R243. -/
inductive Tri where
  | f | t | u
  deriving DecidableEq, Repr

def Tri.ofBool (b : Bool) : Tri := if b then .t else .f

/-- fcmp, dcmp (R343). -/
def fCmp (f : Fmt) (ftz : Bool) (cond : Nat) (a b : Nat) : Tri × FpFlags :=
  let x := f.read ftz a
  let y := f.read ftz b
  if x.isNan || y.isNan then
    (.u, flIf (x.isSnan || y.isSnan || decide (2 ≤ cond)) flInv)
  else (Tri.ofBool (relHolds cond (x.cmp y)), flNone)

/-- fclass (R344): the class number of a code, read without flushing. -/
def fClass (f : Fmt) (a : Nat) : Nat :=
  match f.val a with
  | .nan s => if s then 0 else 1
  | .inf n => if n then 2 else 9
  | .fin n m _ =>
    if m == 0 then (if n then 5 else 6)
    else if m < 2 ^ f.m then (if n then 4 else 7)
    else (if n then 3 else 8)

/-- frnd (R345): an integral value of the same format; only a signalling NaN sets a flag. -/
def fRnd (f : Fmt) (rm : Rm) (ftz : Bool) (a : Nat) : Nat × FpFlags :=
  match f.read ftz a with
  | .nan s => (f.nanCode, flIf s flInv)
  | .inf n => (withSign f n f.infCode, flNone)
  | .fin n m e =>
    let (sig, _) := roundAt rm n m e (max e 0)
    ((roundTo f .rne .arith false n sig (max e 0)).1, flNone)

/-- fscale (R346): A × 2^n rounded once. -/
def fScale (f : Fmt) (rm : Rm) (ftz : Bool) (a : Nat) (n : Int) : Nat × FpFlags :=
  match f.read ftz a with
  | .nan s => (f.nanCode, flIf s flInv)
  | .inf g => (withSign f g f.infCode, flNone)
  | .fin g m e => roundTo f rm .arith ftz g m (e + n)

/-- fgetexp (R346): floor(log2 |A|) as a value of A's format. -/
def fGetexp (f : Fmt) (ftz : Bool) (a : Nat) : Nat × FpFlags :=
  match f.read ftz a with
  | .nan s => (f.nanCode, flIf s flInv)
  | .inf _ => (f.infCode, flNone)
  | .fin _ m e =>
    if m == 0 then (withSign f true f.infCode, flDz)
    else
      let x := e + (bitLen m : Int) - 1
      ((roundTo f .rne .arith false (decide (x < 0)) x.natAbs 0).1, flNone)

/-- fdiv, ddiv (R348): the quotient carried to enough bits with a sticky last bit, then rounded once. -/
def fDiv (f : Fmt) (rm : Rm) (ftz : Bool) (a b : Nat) : Nat × FpFlags :=
  let x := f.read ftz a
  let y := f.read ftz b
  let s := flIf (x.isSnan || y.isSnan) flInv
  match x, y with
  | .nan _, _ => (f.nanCode, s)
  | _, .nan _ => (f.nanCode, s)
  | .inf _, .inf _ => (f.nanCode, flInv)
  | .inf p, .fin q _ _ => (withSign f (p != q) f.infCode, flNone)
  | .fin p _ _, .inf q => (withSign f (p != q) 0, flNone)
  | .fin p m e, .fin q n g =>
    if n == 0 then
      if m == 0 then (f.nanCode, flInv) else (withSign f (p != q) f.infCode, flDz)
    else if m == 0 then (withSign f (p != q) 0, flNone)
    else
      let k := 2 * f.m + 8 + bitLen n
      let num := m * 2 ^ k
      let quo := num / n
      let st := if num % n == 0 then 0 else 1
      roundTo f rm .arith ftz (p != q) (2 * quo + st) (e - g - (k : Int) - 1)

def isqrtLoop : Nat → Nat → Nat → Nat
  | 0, _, x => x
  | k + 1, n, x => let y := (x + n / x) / 2; if y < x then isqrtLoop k n y else x

/-- The integer square root, by Newton's iteration from above. -/
def isqrt (n : Nat) : Nat := if n == 0 then 0 else isqrtLoop (bitLen n + 8) n (2 ^ (bitLen n / 2 + 1))

/-- fsqrt, dsqrt (R348). -/
def fSqrt (f : Fmt) (rm : Rm) (ftz : Bool) (a : Nat) : Nat × FpFlags :=
  match f.read ftz a with
  | .nan s => (f.nanCode, flIf s flInv)
  | .inf true => (f.nanCode, flInv)
  | .inf false => (f.infCode, flNone)
  | .fin n m e =>
    if m == 0 then (withSign f n 0, flNone)
    else if n then (f.nanCode, flInv)
    else
      let k := 2 * f.m + 8
      let odd := e % 2 == 1
      let m' := if odd then 2 * m else m
      let e' := if odd then e - 1 else e
      let num := m' * 2 ^ (2 * k)
      let r := isqrt num
      let st := if r * r == num then 0 else 1
      roundTo f rm .arith ftz false (2 * r + st) (e' / 2 - (k : Int) - 1)

/-- The narrowing rows of R235: `nanForm` selects the `.nan` form. UFL is reported only where `ufl` says so. -/
def fNarrow (src dst : Fmt) (rm : Rm) (nanForm ftzIn ftzOut ufl : Bool) (a : Nat) : Nat × FpFlags :=
  match src.read ftzIn a with
  | .nan s =>
    if dst.ieee || dst.oneNan then (dst.nanCode, flIf s flInv) else (0, flInv)
  | .inf n =>
    if nanForm then (signedCode dst n (overflowCode dst .nanForm rm n), flNone)
    else (withSign dst n dst.maxCode, flOfl ||| flInx)
  | .fin n m e =>
    let (c, fl) := roundTo dst rm (if nanForm then .nanForm else .saturate) ftzOut n m e
    (c, if ufl then fl else fl &&& ~~~flUfl)

/-- The widening row of R235: exact. -/
def fWiden (src dst : Fmt) (ftzIn : Bool) (a : Nat) : Nat × FpFlags :=
  match src.read ftzIn a with
  | .nan s => (dst.nanCode, flIf s flInv)
  | .inf n => (withSign dst n dst.infCode, flNone)
  | .fin n m e => ((roundTo dst .rne .arith false n m e).1, flNone)

/-- Float to integer (R235): round, then saturate to [lo, hi]; a NaN gives 0. -/
def fToInt (src : Fmt) (rm : Rm) (ftz : Bool) (lo hi : Int) (a : Nat) : Int × FpFlags :=
  match src.read ftz a with
  | .nan _ => (0, flInv)
  | .inf n => (if n then lo else hi, flInv)
  | .fin n m e =>
    let (sig, inx) := roundAt rm n m e (max e 0)
    let x := signedMag n (sig * 2 ^ (max e 0).toNat)
    if x < lo then (lo, flInv ||| flIf inx flInx) else if hi < x then (hi, flInv ||| flIf inx flInx)
    else (x, flIf inx flInx)

/-- Integer to float (R235): an integer beyond f16's range saturates. -/
def fOfInt (dst : Fmt) (rm : Rm) (x : Int) : Nat × FpFlags :=
  roundTo dst rm .saturate false (decide (x < 0)) x.natAbs 0

/-- fdot2, fdot4 (R353): C plus the products, one rounding; any NaN term, 0 × ∞ or opposite infinities give
the canonical NaN with INV. -/
def fDot (rm : Rm) (ftz : Bool) (as bs : List FVal) (c : FVal) : Nat × FpFlags :=
  let ps := List.zipWith (fun a b => (FVal.mul a b).1) as bs
  let (v, _) := sumExact rm (c :: ps)
  match v with
  | .nan _ => (fmtF32.nanCode, flInv)
  | _ => sumRound fmtF32 rm ftz (c :: ps)

end Sys2Proof.Machine
end

