-- ==== Sys2Proof/Machine/IntervalMath.lean ====
section
/-! DEFINITION. Intervals as pairs of bound codes of f32 or f64: reading points, outward rounding, the set operations,
midpoints and comparisons (10 R241 to R243, 16 R356 to R363). -/

namespace Sys2Proof.Machine

/-- The codes of the two bounds (R241). -/
structure Ivl where
  lo : Nat
  hi : Nat
  deriving DecidableEq, Repr

def negInf (f : Fmt) : Nat := withSign f true f.infCode
def negMax (f : Fmt) : Nat := withSign f true f.maxCode

/-- [−∞, +∞]. -/
def Ivl.entire (f : Fmt) : Ivl := ⟨negInf f, f.infCode⟩

/-- A zero bound is +0 (R241). -/
def plusZero (f : Fmt) (c : Nat) : Nat := if c % f.signBit == 0 then 0 else c

/-- A point read as an interval, with INV for a NaN (R356). -/
def Ivl.ofPoint (f : Fmt) (c : Nat) : Ivl × FpFlags :=
  match f.val c with
  | .nan _ => (Ivl.entire f, flInv)
  | .inf true => (⟨negInf f, negMax f⟩, flNone)
  | .inf false => (⟨f.maxCode, f.infCode⟩, flNone)
  | .fin _ _ _ => (⟨plusZero f c, plusZero f c⟩, flNone)

/-- A pair of bounds is valid (R241). -/
def Ivl.valid (f : Fmt) (i : Ivl) : Bool :=
  let a := f.val i.lo
  let b := f.val i.hi
  !a.isNan && !b.isNan && a != .inf false && b != .inf true && decide (a.cmp b ≤ 0)

/-- Rounds an exact lower or upper bound outward; only INX is reported (R241). -/
def boundOf (f : Fmt) (up : Bool) (v : FVal) : Nat × FpFlags :=
  match v with
  | .nan _ => (if up then f.infCode else negInf f, flNone)
  | .inf n => (withSign f n f.infCode, flNone)
  | .fin n m e =>
    let (c, fl) := roundTo f (if up then .rup else .rdn) .arith false n m e
    (plusZero f c, fl &&& flInx)

def Ivl.outward (f : Fmt) (lo hi : FVal) : Ivl × FpFlags :=
  let (a, fa) := boundOf f false lo
  let (b, fb) := boundOf f true hi
  (⟨a, b⟩, fa ||| fb)

/-- A bound product: 0 × ∞ is 0 (R241). -/
def boundMul (a b : FVal) : FVal :=
  match a.mul b with
  | (_, true) => .fin false 0 0
  | (p, false) => p

def boundAdd (a b : FVal) : FVal := (sumExact .rne [a, b]).1
def boundMin (a b : FVal) : FVal := if a.cmp b ≤ 0 then a else b
def boundMax (a b : FVal) : FVal := if a.cmp b ≤ 0 then b else a

/-- A bound quotient with a sticky last bit; x/∞ is 0. The divisor is not 0. -/
def boundDiv (f : Fmt) (a b : FVal) : FVal :=
  match a, b with
  | .fin p m e, .fin q n g =>
    let k := 2 * f.m + 8 + bitLen n
    let num := m * 2 ^ k
    let quo := num / n
    .fin (p != q) (2 * quo + (if num % n == 0 then 0 else 1)) (e - g - (k : Int) - 1)
  | .inf p, b => .inf (p != b.neg?)
  | _, _ => .fin false 0 0

def boundSqrt (f : Fmt) (a : FVal) : FVal :=
  match a with
  | .fin _ m e =>
    let k := 2 * f.m + 8
    let m' := if e % 2 == 1 then 2 * m else m
    let e' := if e % 2 == 1 then e - 1 else e
    let num := m' * 2 ^ (2 * k)
    let r := isqrt num
    .fin false (2 * r + (if r * r == num then 0 else 1)) (e' / 2 - (k : Int) - 1)
  | v => v

def fvZero : FVal := .fin false 0 0

/-- iadd, isub, imul, isqr (R359). -/
def Ivl.add (f : Fmt) (a b : Ivl) : Ivl × FpFlags :=
  Ivl.outward f (boundAdd (f.val a.lo) (f.val b.lo)) (boundAdd (f.val a.hi) (f.val b.hi))

def Ivl.sub (f : Fmt) (a b : Ivl) : Ivl × FpFlags :=
  Ivl.outward f (boundAdd (f.val a.lo) (f.val b.hi).negate) (boundAdd (f.val a.hi) (f.val b.lo).negate)

def Ivl.mul (f : Fmt) (a b : Ivl) : Ivl × FpFlags :=
  let p := boundMul (f.val a.lo) (f.val b.lo)
  let q := boundMul (f.val a.lo) (f.val b.hi)
  let r := boundMul (f.val a.hi) (f.val b.lo)
  let t := boundMul (f.val a.hi) (f.val b.hi)
  Ivl.outward f (boundMin (boundMin p q) (boundMin r t)) (boundMax (boundMax p q) (boundMax r t))

def Ivl.sqr (f : Fmt) (a : Ivl) : Ivl × FpFlags :=
  let l := f.val a.lo
  let h := f.val a.hi
  let ll := boundMul l l
  let hh := boundMul h h
  if l.cmp fvZero ≤ 0 && 0 ≤ h.cmp fvZero then Ivl.outward f fvZero (boundMax ll hh)
  else Ivl.outward f (boundMin ll hh) (boundMax ll hh)

/-- The quotient by a divisor interval with 0 ≤ B.lo and 0 < B.hi. -/
def Ivl.divPos (f : Fmt) (al ah bl bh : FVal) : Ivl × FpFlags :=
  let lo :=
    if 0 ≤ al.cmp fvZero then boundDiv f al bh
    else if bl.isZero then .inf true else boundDiv f al bl
  let hi :=
    if 0 < ah.cmp fvZero then (if bl.isZero then .inf false else boundDiv f ah bl)
    else boundDiv f ah bh
  Ivl.outward f lo hi

/-- idiv (R359): none when B = [0, 0]. -/
def Ivl.div (f : Fmt) (a b : Ivl) : Option (Ivl × FpFlags) :=
  let al := f.val a.lo
  let ah := f.val a.hi
  let bl := f.val b.lo
  let bh := f.val b.hi
  if bl.isZero && bh.isZero then none
  else if bl.cmp fvZero < 0 && 0 < bh.cmp fvZero then
    some (if al.isZero && ah.isZero then (⟨0, 0⟩, flNone) else (Ivl.entire f, flNone))
  else if 0 ≤ bl.cmp fvZero then some (Ivl.divPos f al ah bl bh)
  else some (Ivl.divPos f ah.negate al.negate bh.negate bl.negate)

/-- isqrt (R359): none when A.hi < 0. -/
def Ivl.sqrt (f : Fmt) (a : Ivl) : Option (Ivl × FpFlags) :=
  let l := f.val a.lo
  let h := f.val a.hi
  if h.cmp fvZero < 0 then none
  else some (Ivl.outward f (if l.cmp fvZero < 0 then fvZero else boundSqrt f l) (boundSqrt f h))

/-- ihull (R360). -/
def Ivl.hull (f : Fmt) (a b : Ivl) : Ivl :=
  ⟨if (f.val a.lo).cmp (f.val b.lo) ≤ 0 then a.lo else b.lo,
   if (f.val a.hi).cmp (f.val b.hi) ≤ 0 then b.hi else a.hi⟩

/-- iisect (R360): none when the sets do not meet. -/
def Ivl.isect (f : Fmt) (a b : Ivl) : Option Ivl :=
  if (f.val a.hi).cmp (f.val b.lo) < 0 || (f.val b.hi).cmp (f.val a.lo) < 0 then none
  else some ⟨if (f.val a.lo).cmp (f.val b.lo) ≤ 0 then b.lo else a.lo,
    if (f.val a.hi).cmp (f.val b.hi) ≤ 0 then a.hi else b.hi⟩

/-- Half a value, exactly. -/
def FVal.half : FVal → FVal
  | .fin n m e => .fin n m (e - 1)
  | v => v

/-- The midpoint of R242. -/
def Ivl.mid (f : Fmt) (a : Ivl) : Nat :=
  match f.val a.lo, f.val a.hi with
  | .inf _, .inf _ => 0
  | .inf _, _ => negMax f
  | _, .inf _ => f.maxCode
  | l, h =>
    let m := (roundVal f .rne false (sumExact .rne [l.half, h.half]).1).1
    if (f.val m).cmp l < 0 then a.lo else if h.cmp (f.val m) < 0 then a.hi else m

/-- iwid (R361). -/
def Ivl.width (f : Fmt) (a : Ivl) : Nat × FpFlags :=
  match f.val a.lo, f.val a.hi with
  | .inf _, _ => (f.infCode, flNone)
  | _, .inf _ => (f.infCode, flNone)
  | l, h =>
    let (c, fl) := roundVal f .rup false (sumExact .rne [h, l.negate]).1
    (plusZero f c, fl &&& flInx)

/-- The relations of R362. -/
def Ivl.ltRel (f : Fmt) (a b : Ivl) : Tri :=
  if (f.val a.hi).cmp (f.val b.lo) < 0 then .t
  else if 0 ≤ (f.val a.lo).cmp (f.val b.hi) then .f else .u

def Ivl.leRel (f : Fmt) (a b : Ivl) : Tri :=
  if (f.val a.hi).cmp (f.val b.lo) ≤ 0 then .t
  else if 0 < (f.val a.lo).cmp (f.val b.hi) then .f else .u

def Ivl.eqT (f : Fmt) (a b : Ivl) : Bool :=
  (f.val a.lo).cmp (f.val a.hi) == 0 && (f.val a.lo).cmp (f.val b.lo) == 0 && (f.val b.lo).cmp (f.val b.hi) == 0

def Ivl.eqF (f : Fmt) (a b : Ivl) : Bool :=
  (f.val a.hi).cmp (f.val b.lo) < 0 || (f.val b.hi).cmp (f.val a.lo) < 0

def Ivl.cmp (f : Fmt) (cond : Nat) (a b : Ivl) : Tri :=
  if cond == 0 then (if Ivl.eqT f a b then .t else if Ivl.eqF f a b then .f else .u)
  else if cond == 1 then (if Ivl.eqF f a b then .t else if Ivl.eqT f a b then .f else .u)
  else if cond == 2 then Ivl.ltRel f a b
  else if cond == 3 then Ivl.leRel f a b
  else if cond == 4 then Ivl.ltRel f b a
  else Ivl.leRel f b a

/-- iset (R358): a lower point of +∞ gives the largest finite, an upper of −∞ its negative; none when empty. -/
def Ivl.set (f : Fmt) (a b : Nat) : Option (Ivl × FpFlags) :=
  if (f.val a).isNan || (f.val b).isNan then some (Ivl.entire f, flInv)
  else
    let lo := (Ivl.ofPoint f a).1.lo
    let hi := (Ivl.ofPoint f b).1.hi
    if 0 < (f.val lo).cmp (f.val hi) then none else some (⟨lo, hi⟩, flNone)

/-- iset.imm (R358): the point A with radius r; none for a negative radius. -/
def Ivl.setRadius (f : Fmt) (a r : Nat) : Option (Ivl × FpFlags) :=
  if (f.val a).isNan || (f.val r).isNan then some (Ivl.entire f, flInv)
  else if (f.val r).cmp fvZero < 0 then none
  else
    let p := (Ivl.ofPoint f a).1
    let rv := f.val r
    let lo := match rv with
      | .inf _ => .inf true
      | _ => boundAdd (f.val p.lo) rv.negate
    let hi := match rv with
      | .inf _ => .inf false
      | _ => boundAdd (f.val p.hi) rv
    some (Ivl.outward f lo hi)

end Sys2Proof.Machine
end

