-- ==== Sys2Proof/Syntax.lean ====
section
/-! DEFINITION. The instructions and events of the T940 as syntax: one constructor for each row of the
spec's table. Porier instructions carry the fields of their format (R274 to R278); an event carries what
identifies the occurrence. -/

namespace Sys2Proof

/-- The three instruction lengths (R269). -/
inductive InstrLen where
  | l64 | l96 | l128
  deriving DecidableEq, Repr

/-- The fields of an A64 or A96 instruction but for OPC and LEN (R274, R275). `ext` holds bits [95:64] of
an A96 and is zero in an A64. -/
structure AForm where
  len96 : Bool
  dst   : BitVec 8
  srca  : BitVec 8
  aLast : Bool
  aTrap : Bool
  srcb  : BitVec 8
  bLast : Bool
  bTrap : Bool
  gidx  : BitVec 3
  gsense : BitVec 2
  ty    : BitVec 4
  /-- CTL, bits [54:47]: SUB in [7:5], NAN [4], SAT [3], RM [2:0] (R276). -/
  ctl   : BitVec 8
  rsv   : Bool
  aux   : BitVec 8
  ext   : BitVec 32
  deriving DecidableEq, Repr

/-- The fields of a B64 or B96 instruction but for OPC and LEN (R277). `off21` is bits [63:43]; `ext` holds
bits [95:64] of a B96 and is zero in a B64. -/
structure BForm where
  len96 : Bool
  dst   : BitVec 8
  srca  : BitVec 8
  aLast : Bool
  aTrap : Bool
  srcb  : BitVec 8
  bLast : Bool
  bTrap : Bool
  gidx  : BitVec 3
  gsense : BitVec 2
  off21 : BitVec 21
  ext   : BitVec 32
  deriving DecidableEq, Repr

/-- The fields of an M128 instruction but for OPC and LEN (R278). -/
structure MForm where
  d     : BitVec 8
  addr  : BitVec 8
  adLast : Bool
  adTrap : Bool
  idx   : BitVec 8
  ixLast : Bool
  ixTrap : Bool
  gidx  : BitVec 3
  gsense : BitVec 2
  twf   : BitVec 4
  ctl   : BitVec 8
  dLast : Bool
  x     : BitVec 8
  imm   : BitVec 32
  scope : BitVec 3
  ord   : BitVec 2
  hint  : BitVec 3
  cnt   : BitVec 2
  cwe   : Bool
  opx   : BitVec 21
  deriving DecidableEq, Repr

/-- The two host ports (R95). -/
inductive Port where
  | a | b
  deriving DecidableEq, Repr

/-- A requester of the command semaphore: Port A, Port B or MGMT, codes 0 to 2 (R99). -/
inductive Requester where
  | a | b | mgmt
  deriving DecidableEq, Repr

/-- A link end of this package: a grid link of a die at the first of two routers, a bridge port at a router, the I/O die's
end of an I/O-die bridge port, or a Ulain port (R26, R30, R39). -/
inductive LinkId where
  | grid (die row col peerRow peerCol : Nat)
  | bridge (die row col : Nat)
  | io (die row col : Nat)
  | ulain (port : Nat)
  deriving DecidableEq, Repr

/-- A router of a die (R26). -/
structure RouterId where
  die : Nat
  row : Nat
  col : Nat
  deriving DecidableEq, Repr

/-- The outcome of the lane test of R34: for a Ulain port the good lanes; for a grid link or bridge port
whether all lanes pass, the failing lanes lie in one half, or neither; and the failures met on each lane. -/
inductive LaneTest where
  | full
  | half
  | none
  | lanes (good : BitVec 8)
  deriving DecidableEq, Repr

/-- A party of a home's directory: an agent of a die of a package, or the host on a port (R70, R81). -/
inductive Who where
  | agent (chip die : Nat)
  | host (p : Port)
  deriving DecidableEq, Repr

/-- The instruction behind a store, kept for the record of a suppressed trigger (R140, R190), with the address and size of each lane's
bytes. -/
structure Raiser where
  hatch : Nat
  core : Nat
  pc : Nat
  va : Nat
  lanes : LaneSet
  kind : Nat
  stores : List (Nat × Nat) := []
  deriving DecidableEq, Repr

/-- A line's 128 bytes with the poisoned sectors, the highest cascade depth of the stores in it with the store that has it, and the
bytes that only stores made again by a replay have written (R42, R69, R84, R135, R140). -/
structure LineData where
  bytes  : List Byte
  poison : BitVec 4
  depth  : Nat
  src    : Option Raiser := none
  quiet  : BitVec 128 := 0
  deriving DecidableEq, Repr

/-- What a snoop response tells the home (R83, R433, R435): whether the agent sent the line to the
requester, whether it keeps a copy, and whether its copy was M or O. -/
structure SnoopAnswer where
  dataSent : Bool
  keeps    : Bool
  dirty    : Bool
  deriving DecidableEq, Repr

/-- The state in which a requester takes line data (R433, R82). -/
inductive Grant where
  | shared | exclusive | modified
  deriving DecidableEq, Repr

/-- What commits at a slice (R135): a pending store of this package to a line, or a store of another
package or of Stylus applied at its home here. -/
inductive StoreSource where
  | op (id line : Nat)
  | remote (pa : Nat) (bytes : List Byte) (depth : Nat)
  | remoteAtomic (pa opcode : Nat) (form : MForm) (x d depth : Nat)
  deriving DecidableEq, Repr

/-- A PCIe completion for an MT 4 access (R90, R92). -/
inductive PcieCompletion where
  | data (bytes : List Byte)
  | unsupported
  | abort
  deriving DecidableEq, Repr

/-- Where a dispatcher takes a trigger entry from (R136, R137). -/
inductive TriggerSource where
  | queue (die slice : Nat)
  | ring (watch : Nat)
  deriving DecidableEq, Repr

/-- What one package asks of every other of its domain: the steps of a freeze (R397) and of a thaw (R398) of a freeze-table entry
with its use count, a drain of every core (R393), and what `cachectl` does to one line or to all (R316); and the
answer (entry 69). -/
inductive DomainAct where
  | freeze (entry gen ctx base size : Nat)
  | frozen (entry gen : Nat)
  | thaw (entry gen : Nat)
  | thawed (entry gen : Nat)
  | drain
  | clean (line : Option Nat) (inv : Bool) (scope : Nat)
  | done
  deriving DecidableEq, Repr

/-- What an event concerns: the fields an event's constructor names (its docstring lists them) say which die, line,
operation or message it is about; the others are not read. -/
structure Arg where
  /-- A compute die, 0 to 3, or the I/O die 4. -/
  die : Nat := 0
  /-- A core of the package: die * 64 + core of the die. -/
  core : Nat := 0
  partition : Nat := 0
  /-- A resident hatch and one of its two path slots. -/
  hatch : Nat := 0
  slot : Nat := 0
  /-- An operation in flight. -/
  op : Nat := 0
  /-- A line: its physical address divided by 128. -/
  line : Nat := 0
  /-- A package of the domain. -/
  chip : Nat := 0
  port : Port := .a
  /-- A Ulain port, 0 to 11. -/
  uport : Nat := 0
  link : LinkId := .ulain 0
  router : RouterId := ⟨0, 0, 0⟩
  lanes : LaneTest := .full
  seq : Nat := 0
  flit : BitVec 512 := 0
  /-- A sensor reading in tenths of a degree Celsius. -/
  temp : Nat := 0
  watts : Nat := 0
  peer : Nat := 0
  good : BitVec 8 := 0
  hops : Nat := 0
  /-- A byte offset of a package or window, or a 64-byte half's number, or a physical address. -/
  offset : Nat := 0
  who : Who := .agent 0 0
  answer : SnoopAnswer := ⟨false, false, false⟩
  grant : Grant := .shared
  data : LineData := { bytes := [], poison := 0, depth := 0 }
  bytes : List Byte := []
  src : StoreSource := .op 0 0
  trig : TriggerSource := .ring 0
  compl : PcieCompletion := .unsupported
  readers : List Requester := []
  req : Requester := .a
  word : Word := 0
  chan : Nat := 0
  walk : Nat := 0
  shoot : Nat := 0
  engine : Nat := 0
  watch : Nat := 0
  granule : Nat := 0
  block : Nat := 0
  /-- A freeze-table entry. -/
  entry : Nat := 0
  /-- A read of another package that its line's directory does not track (R72, R73). -/
  untracked : Bool := false
  /-- The core of another package that a release puts on a line's list; the event then stores nothing (R77). -/
  listed : Option Nat := none
  /-- A `sema` or `waddr` of another package is taken back from its word's home; the event then stores nothing (R388, R395). -/
  withdrawn : Bool := false
  /-- The place of a waiting `sema` or `waddr` of another package among the operations of its word's home, 0 before it has one (R395). -/
  ticket : Nat := 0
  /-- What another package asks of the whole domain, or its answer; `op` is then the number of the request (entry 69). -/
  act : Option DomainAct := none
  /-- The failing reset step, 0 for none. -/
  failStep : Nat := 0
  /-- The SOURCE of a fatal error. -/
  source : Nat := 0
  deriving DecidableEq, Repr

/-- The instructions and events of the T940: one constructor for each row of spec/opcode_table.json.
An instruction carries its fields; what an event is about stands in Machine.State.arg, and what a command is about in
the command buffer. The constructors with fields come first. -/
inductive Instr where
  /-- NOP (R296): Has no effect. -/
  | nop (len : InstrLen) (upper : BitVec 118)
  /-- BRA (R297): Branches its active lanes to a relative target, moving or splitting the path. -/
  | bra (f : BForm)
  /-- BRU (R297): Moves the whole path to a relative target when any lane is active, never splitting. -/
  | bru (f : BForm)
  /-- BRT (R297): Sends T lanes and U lanes to two targets and F lanes through, splitting up to three ways. -/
  | brt (f : BForm)
  /-- CALL (R297): Branches active lanes to a relative target and writes the link to a scalar pair. -/
  | call (f : BForm)
  /-- RET (R297): Branches active lanes to the address in a scalar pair. -/
  | ret (f : AForm)
  /-- JMPI (R299): Branches indirectly to a pad whose tag matches, trapping CFI_TAG otherwise. -/
  | jmpi (f : BForm)
  /-- CALLI (R299): Calls indirectly through a scalar pair to a matching pad and writes the link. -/
  | calli (f : BForm)
  /-- PAD (R299): Marks an indirect-branch landing pad with a tag and otherwise acts as nop. -/
  | pad (f : AForm)
  /-- JOIN (R169): Removes the path from its split record and ends it, or continues as the merged path when the record empties. -/
  | join (f : AForm)
  /-- YIELD (R162): Makes its path not ready until another path issues or 64 idle clocks pass. -/
  | yield (f : AForm)
  /-- PRIO (R306): Sets the path's written priority. -/
  | prio (f : AForm)
  /-- LOOP (R300): Pushes a counted loop entry and enters its body, or skips it for a zero count. -/
  | loop (f : BForm)
  /-- BRK (R303): Pops n loop levels and moves to the end PC of the last one popped. -/
  | brk (f : BForm)
  /-- CONT (R303): Moves to the end PC of the innermost loop, starting its next iteration or ending it. -/
  | cont (f : BForm)
  /-- PUSHP (R307): Pushes a predicate-stack entry from a predicate and narrows the mask to its T lanes. -/
  | pushp (f : AForm)
  /-- INVP (R307): Swaps T and F in the top predicate-stack entry and sets the mask to its T lanes. -/
  | invp (f : AForm)
  /-- POPP (R307): Restores the mask from the top predicate-stack entry and pops it. -/
  | popp (f : AForm)
  /-- EXIT (R308): Drains and releases, then ends the path or removes its active lanes from the domain. -/
  | exit (f : AForm)
  /-- TRAP (R309): Traps SOFTWARE precisely with its code when any lane is active. -/
  | trap (f : AForm)
  /-- RETT (R172): Ends the trap handler and resumes the trapping path after the trapping instruction. -/
  | rett (f : AForm)
  /-- RETT_RETRY (R172): Ends the trap handler and resumes the trapping path at the frame PC. -/
  | rettRetry (f : AForm)
  /-- REGION (R311): Waits for counters and stores to drain and writes the hatch's region record for replay. -/
  | region (f : AForm)
  /-- BRKPT (R309): Traps BREAKPOINT precisely when any lane is active. -/
  | brkpt (f : AForm)
  /-- RDSR (R312): Reads a special register into a scalar, capturing the cycle counter or popping an SFRQ record where the register says. -/
  | rdsr (f : AForm)
  /-- WRSR (R312): Writes a scalar to a writable special register. -/
  | wrsr (f : AForm)
  /-- VOTE (R314): Reduces a predicate over active lanes to a single result or lane mask. -/
  | vote (f : AForm)
  /-- ECALL (R309): Traps SOFTWARE with 0x100 plus its code when any lane is active. -/
  | ecall (f : AForm)
  /-- TLBINV (R315): Releases and removes TLB and walk-cache entries by page, context or all on every die. -/
  | tlbinv (f : AForm)
  /-- CACHECTL (R316): Publishes and optionally invalidates a line or every line in the caches of the chosen scope. -/
  | cachectl (f : AForm)
  /-- LSCONV (R317): Converts unowned ways of the core between L1 and local store and returns the count. -/
  | lsconv (f : AForm)
  /-- PROBE (R318): Translates a VA as a load or store without trapping and returns the leaf and fault cause. -/
  | probe (f : AForm)
  /-- ERRINJ (R319): Corrupts the check bits of the sector at a VA to inject an ECC or poison error. -/
  | errinj (f : AForm)
  /-- ADD (R323): Adds per element, wrapping or saturating. -/
  | add (f : AForm)
  /-- SUB (R323): Subtracts per element, wrapping or saturating. -/
  | sub (f : AForm)
  /-- ADDC (R324): Adds with a carry in and out through a predicate. -/
  | addc (f : AForm)
  /-- SUBB (R324): Subtracts with a borrow in and out through a predicate. -/
  | subb (f : AForm)
  /-- ADD64 (R323): Adds 64-bit pairs, wrapping or saturating. -/
  | add64 (f : AForm)
  /-- SUB64 (R323): Subtracts 64-bit pairs, wrapping or saturating. -/
  | sub64 (f : AForm)
  /-- MUL (R323): Multiplies per element, keeping the low bits or saturating. -/
  | mul (f : AForm)
  /-- MULHI (R325): Writes the high half of the exact product. -/
  | mulhi (f : AForm)
  /-- MULW (R325): Writes the exact 64-bit product of two 32-bit values to a pair. -/
  | mulw (f : AForm)
  /-- MAD (R323): Multiplies and adds per element, wrapping or saturating. -/
  | mad (f : AForm)
  /-- MADW (R325): Writes A times B plus a 64-bit C to a pair. -/
  | madw (f : AForm)
  /-- DIV (R326): Divides by truncation, trapping INT_DIVIDE on a zero divisor unless .nz. -/
  | div (f : AForm)
  /-- REM (R326): Writes the truncated remainder, trapping INT_DIVIDE on a zero divisor unless .nz. -/
  | rem (f : AForm)
  /-- MIN (R323): Writes the lesser element by the type's signedness. -/
  | min (f : AForm)
  /-- MAX (R323): Writes the greater element by the type's signedness. -/
  | max (f : AForm)
  /-- CLAMP (R323): Clamps A between B and C. -/
  | clamp (f : AForm)
  /-- ABS (R323): Writes the absolute value, wrapping or saturating. -/
  | abs (f : AForm)
  /-- NEG (R323): Writes the negation, wrapping or saturating. -/
  | neg (f : AForm)
  /-- AND (R327): Bitwise AND. -/
  | and (f : AForm)
  /-- OR (R327): Bitwise OR. -/
  | or (f : AForm)
  /-- XOR (R327): Bitwise XOR. -/
  | xor (f : AForm)
  /-- ANDN (R327): Bitwise A AND NOT B. -/
  | andn (f : AForm)
  /-- NOT (R327): Bitwise complement. -/
  | not (f : AForm)
  /-- BITF (R327): Computes any bitwise function of three inputs from two truth tables selected by C. -/
  | bitf (f : AForm)
  /-- SHL (R328): Shifts each element left. -/
  | shl (f : AForm)
  /-- SHR (R328): Shifts each element right logically. -/
  | shr (f : AForm)
  /-- SAR (R328): Shifts each element right arithmetically. -/
  | sar (f : AForm)
  /-- ROT (R328): Rotates left by B mod 32. -/
  | rot (f : AForm)
  /-- DSH (R328): Shifts the 64-bit concatenation of C and A and keeps one half. -/
  | dsh (f : AForm)
  /-- SHL64 (R328): Shifts a 64-bit pair left. -/
  | shl64 (f : AForm)
  /-- SHR64 (R328): Shifts a 64-bit pair right, logical or arithmetic by type. -/
  | shr64 (f : AForm)
  /-- BXT (R329): Extracts a bit field, zero- or sign-extended. -/
  | bxt (f : AForm)
  /-- BINS (R329): Inserts a bit field of A into B. -/
  | bins (f : AForm)
  /-- BFSET (R329): Writes a word with the named field set. -/
  | bfset (f : AForm)
  /-- SEXT (R329): Sign-extends A from bit n. -/
  | sext (f : AForm)
  /-- BCNT (R330): Counts the one bits. -/
  | bcnt (f : AForm)
  /-- CLZ (R330): Counts leading zeros. -/
  | clz (f : AForm)
  /-- CTZ (R330): Counts trailing zeros. -/
  | ctz (f : AForm)
  /-- BITREV (R330): Reverses the bits. -/
  | bitrev (f : AForm)
  /-- BSHUF (R330): Builds each byte from a byte of A or a constant by selector. -/
  | bshuf (f : AForm)
  /-- CMP (R332): Compares 32-bit values and writes T or F to a predicate. -/
  | cmp (f : AForm)
  /-- CMP64 (R332): Compares 64-bit values and writes T or F to a predicate. -/
  | cmp64 (f : AForm)
  /-- SEL (R333): Selects B or C per lane by a three-valued predicate. -/
  | sel (f : AForm)
  /-- MOV (R331): Copies a 32-bit value or immediate unchanged. -/
  | mov (f : AForm)
  /-- MOV64 (R331): Copies a 64-bit pair or widened immediate. -/
  | mov64 (f : AForm)
  /-- LEA (R334): Forms a 64-bit address A plus extended B shifted. -/
  | lea (f : AForm)
  /-- SAD (R335): Adds the sum of absolute differences to C. -/
  | sad (f : AForm)
  /-- DP2 (R335): Adds a dot product of two 16-bit elements to C. -/
  | dp2 (f : AForm)
  /-- DP4 (R335): Adds a dot product of four 8-bit elements to C. -/
  | dp4 (f : AForm)
  /-- DP8 (R335): Adds a dot product of eight 4-bit elements to C. -/
  | dp8 (f : AForm)
  /-- CVTI (R336): Converts between integer types, packing, selecting or narrowing. -/
  | cvti (f : AForm)
  /-- FADD (R340): Adds floats with one rounding. -/
  | fadd (f : AForm)
  /-- FSUB (R340): Subtracts floats with one rounding. -/
  | fsub (f : AForm)
  /-- FMUL (R340): Multiplies floats with one rounding. -/
  | fmul (f : AForm)
  /-- FFMA (R340): Fused multiply-add with one rounding. -/
  | ffma (f : AForm)
  /-- FMIN (R341): Returns the least non-NaN operand. -/
  | fmin (f : AForm)
  /-- FMAX (R341): Returns the greatest non-NaN operand. -/
  | fmax (f : AForm)
  /-- FMIN3 (R341): Returns the least of three non-NaN operands. -/
  | fmin3 (f : AForm)
  /-- FMAX3 (R341): Returns the greatest of three non-NaN operands. -/
  | fmax3 (f : AForm)
  /-- FNEG (R342): Inverts the sign bit. -/
  | fneg (f : AForm)
  /-- FABS (R342): Clears the sign bit. -/
  | fabs (f : AForm)
  /-- FCPSGN (R342): Copies the sign of B onto A. -/
  | fcpsgn (f : AForm)
  /-- FCMP (R343): Compares f32 values, writing T, F or U for unordered. -/
  | fcmp (f : AForm)
  /-- FCLASS (R344): Tests A's class against a class mask into a predicate. -/
  | fclass (f : AForm)
  /-- FRND (R345): Rounds to an integral value of the same format. -/
  | frnd (f : AForm)
  /-- FSCALE (R346): Multiplies by a power of two with one rounding. -/
  | fscale (f : AForm)
  /-- FGETEXP (R346): Writes floor of log2 of the magnitude. -/
  | fgetexp (f : AForm)
  /-- FDIV (R347): Divides with correct rounding. -/
  | fdiv (f : AForm)
  /-- FSQRT (R347): Square root with correct rounding. -/
  | fsqrt (f : AForm)
  /-- FRCP (R347): Reciprocal within 2 ulp. -/
  | frcp (f : AForm)
  /-- FRSQ (R347): Reciprocal square root within 2 ulp. -/
  | frsq (f : AForm)
  /-- FEX2 (R347): Base-2 exponential within 2 ulp. -/
  | fex2 (f : AForm)
  /-- FLG2 (R347): Base-2 logarithm within 2 ulp. -/
  | flg2 (f : AForm)
  /-- FEXP (R347): Natural exponential within 2 ulp. -/
  | fexp (f : AForm)
  /-- FLOG (R347): Natural logarithm within 2 ulp. -/
  | flog (f : AForm)
  /-- FSIN (R347): Sine within 2 ulp. -/
  | fsin (f : AForm)
  /-- FCOS (R347): Cosine within 2 ulp. -/
  | fcos (f : AForm)
  /-- FTANH (R347): Hyperbolic tangent within 2 ulp. -/
  | ftanh (f : AForm)
  /-- FSIG (R347): Logistic sigmoid within 2 ulp. -/
  | fsig (f : AForm)
  /-- CVT (R349): Converts between float types, widening or narrowing. -/
  | cvt (f : AForm)
  /-- CVTFI (R350): Converts a float to a saturated integer. -/
  | cvtfi (f : AForm)
  /-- CVTIF (R350): Converts an integer to a float. -/
  | cvtif (f : AForm)
  /-- PACK (R351): Converts lanes to a matrix format and packs them as a bit stream, with MX scales in D+1. -/
  | pack (f : AForm)
  /-- UNPACK (R352): Unpacks a matrix-format stream to f32 or i32 per lane. -/
  | unpack (f : AForm)
  /-- FDOT2 (R353): Adds a two-element f16 or bf16 dot product to an f32 with one rounding. -/
  | fdot2 (f : AForm)
  /-- FDOT4 (R353): Adds a four-element fp8 dot product to an f32 with one rounding. -/
  | fdot4 (f : AForm)
  /-- DADD (R340): Adds f64 pairs with one rounding. -/
  | dadd (f : AForm)
  /-- DMUL (R340): Multiplies f64 pairs with one rounding. -/
  | dmul (f : AForm)
  /-- DFMA (R340): Fused f64 multiply-add. -/
  | dfma (f : AForm)
  /-- DMIN (R341): Returns the lesser non-NaN f64. -/
  | dmin (f : AForm)
  /-- DMAX (R341): Returns the greater non-NaN f64. -/
  | dmax (f : AForm)
  /-- DCMP (R343): Compares f64 values into a three-valued predicate. -/
  | dcmp (f : AForm)
  /-- DDIV (R347): Divides f64 with correct rounding. -/
  | ddiv (f : AForm)
  /-- DSQRT (R347): f64 square root with correct rounding. -/
  | dsqrt (f : AForm)
  /-- DRCP (R347): f64 reciprocal with correct rounding. -/
  | drcp (f : AForm)
  /-- DRSQ (R347): f64 reciprocal square root within 1 ulp. -/
  | drsq (f : AForm)
  /-- ISET (R358): Builds an interval from two points or a point and radius. -/
  | iset (f : AForm)
  /-- IPT (R358): Builds a point interval. -/
  | ipt (f : AForm)
  /-- IADD (R359): Adds intervals with outward rounding. -/
  | iadd (f : AForm)
  /-- ISUB (R359): Subtracts intervals with outward rounding. -/
  | isub (f : AForm)
  /-- IMUL (R359): Multiplies intervals with outward rounding. -/
  | imul (f : AForm)
  /-- ISQR (R359): Squares an interval tightly. -/
  | isqr (f : AForm)
  /-- IDIV (R359): Divides intervals, empty for a zero divisor interval. -/
  | idiv (f : AForm)
  /-- ISQRT (R359): Interval square root, empty for a wholly negative operand. -/
  | isqrt (f : AForm)
  /-- IHULL (R360): Writes the hull of two intervals. -/
  | ihull (f : AForm)
  /-- IISECT (R360): Writes the intersection of two intervals, trapping or flagging when empty. -/
  | iisect (f : AForm)
  /-- IMID (R361): Writes an interval's midpoint. -/
  | imid (f : AForm)
  /-- IWID (R361): Writes an interval's width rounded up. -/
  | iwid (f : AForm)
  /-- IEXT (R361): Extracts the lower or upper bound. -/
  | iext (f : AForm)
  /-- ICMP (R362): Compares intervals into T, F or U. -/
  | icmp (f : AForm)
  /-- ISPLIT (R363): Splits an interval at its midpoint into two registers. -/
  | isplit (f : AForm)
  /-- IBISECT (R364): Keeps the lower halves and spawns a continuation hatch for the upper halves. -/
  | ibisect (f : AForm)
  /-- LPERM (R367): Gathers each lane's value from a lane index. -/
  | lperm (f : AForm)
  /-- LPUSH (R367): Scatters each lane's value to a lane index. -/
  | lpush (f : AForm)
  /-- LBCAST (R367): Broadcasts one lane's value. -/
  | lbcast (f : AForm)
  /-- LMATCH (R368): Writes the lowest active lane holding an equal value. -/
  | lmatch (f : AForm)
  /-- LFIRST (R368): Writes the value of the lowest active lane. -/
  | lfirst (f : AForm)
  /-- LCOMP (R368): Compacts the values of T lanes into the low active lanes. -/
  | lcomp (f : AForm)
  /-- SCAN (R369): Writes segmented inclusive or exclusive prefix combinations. -/
  | scan (f : AForm)
  /-- RED (R370): Reduces each segment's active lanes to one value. -/
  | red (f : AForm)
  /-- PAND (R372): Kleene AND of predicates. -/
  | pand (f : AForm)
  /-- POR (R372): Kleene OR of predicates. -/
  | por (f : AForm)
  /-- PXOR (R372): Kleene XOR of predicates. -/
  | pxor (f : AForm)
  /-- PNOT (R372): Swaps T and F, keeping U. -/
  | pnot (f : AForm)
  /-- PSET (R373): Sets predicate codes from a value or a constant code. -/
  | pset (f : AForm)
  /-- PMOV (R373): Moves predicate codes to or from predicates, vectors or scalar groups. -/
  | pmov (f : AForm)
  /-- PCNT (R373): Counts active lanes holding a code. -/
  | pcnt (f : AForm)
  /-- LD (R379): Loads per lane from memory. -/
  | ld (f : MForm)
  /-- ST (R379): Stores per lane to memory. -/
  | st (f : MForm)
  /-- LDB (R376): Loads a contiguous block across lanes from a scalar base. -/
  | ldb (f : MForm)
  /-- STB (R376): Stores a contiguous block across lanes to a scalar base. -/
  | stb (f : MForm)
  /-- LDL (R379): Loads per lane from local store. -/
  | ldl (f : MForm)
  /-- STL (R379): Stores per lane to local store. -/
  | stl (f : MForm)
  /-- LDLB (R381): Loads one local-store value and broadcasts it to every active lane. -/
  | ldlb (f : MForm)
  /-- LDLX (R380): Loads n registers from local store in lane-major order. -/
  | ldlx (f : MForm)
  /-- STLX (R380): Stores n registers to local store in lane-major order. -/
  | stlx (f : MForm)
  /-- LDU (R381): Loads once into scalar registers. -/
  | ldu (f : MForm)
  /-- STU (R381): Stores scalar registers once. -/
  | stu (f : MForm)
  /-- LDC (R382): Loads from frozen or read-only pages through untracked replicas. -/
  | ldc (f : MForm)
  /-- LDIV (R383): Loads intervals and sets their tags. -/
  | ldiv (f : MForm)
  /-- STIV (R383): Stores interval bounds. -/
  | stiv (f : MForm)
  /-- PRF (R385): Prefetches lines without faulting. -/
  | prf (f : MForm)
  /-- STZ (R386): Stores zero bytes per lane. -/
  | stz (f : MForm)
  /-- DSC (R218): Discards whole lines, leaving old contents or zeros. -/
  | dsc (f : MForm)
  /-- SDRAIN (R387): Waits until every earlier store has committed or made its record and its traps are taken. -/
  | sdrain (f : MForm)
  /-- WADDR (R388): Sleeps with acquire until a word meets a condition. -/
  | waddr (f : MForm)
  /-- LDT (R384): Loads per lane, reporting faults and poison in a predicate instead of trapping. -/
  | ldt (f : MForm)
  /-- ATOM (R389): Performs an integer atomic per lane at the home. -/
  | atom (f : MForm)
  /-- ATOMF (R390): Performs a float add, min or max atomic per lane. -/
  | atomf (f : MForm)
  /-- ATOMD (R392): Holds a float contribution at the home for a deterministic flush. -/
  | atomd (f : MForm)
  /-- ATOMFLUSH (R392): Flushes held contributions at each named address in key order as one store. -/
  | atomflush (f : MForm)
  /-- ATOML (R389): Performs an integer atomic in local store. -/
  | atoml (f : MForm)
  /-- ATOMFL (R390): Performs a float atomic in local store. -/
  | atomfl (f : MForm)
  /-- CAS (R391): Compares and swaps per lane in memory. -/
  | cas (f : MForm)
  /-- CAS128 (R391): Compares and swaps 16 bytes per lane. -/
  | cas128 (f : MForm)
  /-- CASL (R391): Compares and swaps per lane in local store. -/
  | casl (f : MForm)
  /-- FENCE (R393): Orders earlier and later accesses as acquire, release or acq_rel. -/
  | fence (f : MForm)
  /-- BAR (R394): Drains and waits at the block barrier. -/
  | bar (f : MForm)
  /-- GBAR (R394): Drains and waits at a sync-group barrier. -/
  | gbar (f : MForm)
  /-- LBAR (R394): Drains and waits at the launch barrier of a co-operative launch. -/
  | lbar (f : MForm)
  /-- SEMA (R395): Waits until a word reaches an amount and decrements it or reads it. -/
  | sema (f : MForm)
  /-- SEMV (R395): Adds to a semaphore word at its home, waking waiters. -/
  | semv (f : MForm)
  /-- FREEZE (R397): Allocates a freeze-table entry and starts freezing a VA range, returning a handle. -/
  | freeze (f : MForm)
  /-- THAW (R398): Starts thawing the entry named by a freeze handle, returning a thaw handle. -/
  | thaw (f : MForm)
  /-- FWAIT (R399): Waits for a freeze or thaw handle's completion point. -/
  | fwait (f : MForm)
  /-- MLOAD (R402): Queues a weight load into the inactive bank. -/
  | mload (f : MForm)
  /-- MSWAP (R404): Exchanges the active and inactive weight banks. -/
  | mswap (f : MForm)
  /-- MMUL (R406): Multiplies strided activation rows by dense weights into a tile. -/
  | mmul (f : MForm)
  /-- MGMUL (R406): Multiplies gathered activation rows by dense weights into a tile. -/
  | mgmul (f : MForm)
  /-- MSP (R406): Multiplies strided rows by sparse weights into a tile. -/
  | msp (f : MForm)
  /-- MGSP (R406): Multiplies gathered rows by sparse weights into a tile. -/
  | mgsp (f : MForm)
  /-- MLDMETA (R403): Loads N-of-8 sparsity metadata into the inactive bank. -/
  | mldmeta (f : MForm)
  /-- MZERO (R407): Zeroes the active rows of a tile. -/
  | mzero (f : MForm)
  /-- MRD (R407): Reads tile columns into vector registers. -/
  | mrd (f : MForm)
  /-- MWR (R407): Writes vector registers into tile columns. -/
  | mwr (f : MForm)
  /-- MST (R409): Stores active tile rows to memory or local store in a chosen format. -/
  | mst (f : MForm)
  /-- MRED (R408): Adds the sum of active rows of one tile into every active row of another. -/
  | mred (f : MForm)
  /-- MSCALE (R407): Scales tile rows or columns by a vector. -/
  | mscale (f : MForm)
  /-- MACC (R407): Adds one tile into another. -/
  | macc (f : MForm)
  /-- CPY (R413): Queues a linear byte copy. -/
  | cpy (f : MForm)
  /-- CPY2 (R413): Queues a two-dimensional copy. -/
  | cpy2 (f : MForm)
  /-- CPYG (R413): Queues a gather copy of one row per lane. -/
  | cpyg (f : MForm)
  /-- CPYD (R413): Queues a copy into another core's local store of the block. -/
  | cpyd (f : MForm)
  /-- CPYF (R413): Queues a fill of the destination with one word. -/
  | cpyf (f : MForm)
  /-- CPYR (R413): Queues an element-wise add of source into destination. -/
  | cpyr (f : MForm)
  /-- CPYMX (R413): Queues a copy of MX elements and their scales. -/
  | cpymx (f : MForm)
  /-- CWAIT (R415): Waits until an engine counter is at most n. -/
  | cwait (f : MForm)
  /-- CCNT (R415): Reads an engine counter into a scalar. -/
  | ccnt (f : MForm)
  /-- LAUNCH_INSN (R416): Releases and hands a launch record to the dispatcher. -/
  | launchInsn (f : MForm)
  /-- KWAIT (R417): Waits until every producer has triggered or ended and then acquires. -/
  | kwait (f : MForm)
  /-- KTRIG (R417): Releases and records the block's trigger for dependent launches once. -/
  | ktrig (f : MForm)
  /-- SPAWN (R418): Releases, writes a continuation image and queues a one-hatch continuation at a target. -/
  | spawn (f : MForm)
  /-- COLD_RESET (R21): Power-on or release from thermal trip runs every reset step of R22 and leaves HBM retrained and all tables cleared. Arg: failStep. -/
  | coldReset
  /-- WARM_RESET (R21): Assertion of both PERST# pins, or the end of DEVICE_RESET, runs R22 from step 3 with HBM kept in self-refresh and discards dirty cache data. Arg: failStep. -/
  | warmReset
  /-- PORT_RESET (R21): Assertion of one port's PERST# resets that port's link and function only and releases the command semaphore if that port held it. Arg: port. -/
  | portReset
  /-- FUNCTION_LEVEL_RESET (R102): A Function Level Reset of a port's T940 function releases the command semaphore while any running command runs to completion. Arg: port. -/
  | functionLevelReset
  /-- HOST_LINK_LOSS (R102): Loss of a host port's link releases the semaphore if that port held it, and the running command completes. Arg: port. -/
  | hostLinkLoss
  /-- PROCHOT_ASSERT (R16): Assertion of PROCHOT# forces issue throttling to half of issue slots on every compute die unless deeper throttling applies. -/
  | prochotAssert
  /-- PROCHOT_DEASSERT (R16): Deassertion of PROCHOT# removes its throttle depth, leaving the deepest of thermal and cap throttling. -/
  | prochotDeassert
  /-- THERMAL_STEP (R15): Every 24,000 clocks the hottest sensor reading deepens, holds or lifts thermal throttling by one sixteenth. Arg: temp, die. -/
  | thermalStep
  /-- THERMAL_TRIP (R15): A sensor reading of 110 C or more asserts THERMTRIP#, powers off all compute dies and sends ERR_FATAL on both ports. Arg: temp, die. -/
  | thermalTrip
  /-- CAP_WINDOW_END (R18): At the end of each 240,000-clock window cap throttling deepens, lifts or holds by one sixteenth according to the averaged package power. Arg: watts. -/
  | capWindowEnd
  /-- DIE_IDLE_TIMEOUT (R19): A die in AUTO mode with no resident block and no queued work for 2,400,000 clocks moves from POWERED to GATING. Arg: die. -/
  | dieIdleTimeout
  /-- GATING_DONE (R19): The 4,800-clock power-down ends and the die's cores become GATED with cycle counters held. Arg: die. -/
  | gatingDone
  /-- DIE_WAKE (R20): Work for a GATING or GATED die starts its return to POWERED, the wake winning over a simultaneous idle or power-down end. Arg: die. -/
  | dieWake
  /-- WAKING_DONE (R19): The 48,000-clock power-up ends and the die becomes POWERED, releasing its queued work. Arg: die. -/
  | wakingDone
  /-- FLIT_RECEIVE (R33): A receiver checks a flit's CRC and sequence, accepts it in order, drops duplicates, or discards it and later flits and sends a NACK. Arg: link, flit. -/
  | flitReceive
  /-- ACK_RECEIVE (R33): An ACKSEQ at or beyond held flits frees them from the sender's replay buffer. Arg: link, seq. -/
  | ackReceive
  /-- NACK_RECEIVE (R33): On a NACK the sender resends every held flit after the named SEQ in order and counts a replay. Arg: link, seq. -/
  | nackReceive
  /-- REPLAY_TIMEOUT (R33): When ACKSEQ makes no progress for 4,096 clocks the sender replays from its oldest held flit. Arg: link. -/
  | replayTimeout
  /-- RETRAIN_START (R34): 32 CRC errors within 2^20 flits, or one flit failing 8 replays in a row, stops the link and starts lane testing. Arg: link. -/
  | retrainStart
  /-- RETRAIN_DONE (R34): At the end of retraining the link resumes at full or half width and replays unacknowledged flits, or goes down. Arg: link, lanes. -/
  | retrainDone
  /-- ULAIN_TRAINED (R39): An enabled Ulain port finishes training and enters UP with its peer chip id recorded. Arg: uport, peer, good. -/
  | ulainTrained
  /-- ULAIN_FORWARD (R40): An I/O die forwards a packet between packages on the port its routing mask and PA bits select. Arg: uport, chip, offset, hops. -/
  | ulainForward
  /-- ROUTER_IDLE_TIMEOUT (R37): A router idle with no buffered flit, owed credit or unacknowledged flit for 1,024 clocks moves to DOWNING. Arg: router. -/
  | routerIdleTimeout
  /-- ROUTER_DOWNING_END (R37): After 16 quiescing clocks the router enters DOWN with buffers off. Arg: router. -/
  | routerDowningEnd
  /-- ROUTER_WAKE (R38): A wake from a neighbour or agent returns a DOWNING router to ACTIVE or moves a DOWN router to WAKING. Arg: router. -/
  | routerWake
  /-- ROUTER_WAKING_END (R37): After 64 relock clocks the router becomes ACTIVE and waiting flits proceed. Arg: router. -/
  | routerWakingEnd
  /-- CHANNEL_ACCESS (R58): A channel serves the next sectors by its precedence order, filling the channel cache and checking ECC. Arg: chan. -/
  | channelAccess
  /-- PATROL_SCRUB (R43): The patrol scrubber reads and corrects lines so every line of every stack is scrubbed within 2^40 clocks. Arg: line. -/
  | patrolScrub
  /-- FADE_DECREMENT (R54): Every 1,024th miss completed by a channel cache decrements the fade counter of every active window with lines there. Arg: chan. -/
  | fadeDecrement
  /-- WALK_COMPLETE (R67): A page walk finishes, sets A or D by compare-and-set, fills TLBs and serves every attached miss, or restarts if stale. Arg: walk. -/
  | walkComplete
  /-- SHOOTDOWN_COMPLETE (R68): An invalidation completes on a die once every stale walk has discarded its result. Arg: die, shoot. -/
  | shootdownComplete
  /-- STORE_COMMIT (R135): A store, atomic write, copy write or engine write commits at its slice and is compared with the bytes it replaces. Arg: src; from another package also who and op, or who and listed for a release that a line's list is to take, or who, op and withdrawn for a `sema` or `waddr` that waits no more. -/
  | storeCommit
  /-- STORE_FAULT (R190): A store that faults in translation, or a suppressed trigger, makes a 32-byte record in the core's SFRQ. Arg: op. -/
  | storeFault
  /-- LOAD_DATA_RETURN (R59): Load data arrives in the hatch's registers and the destination becomes full when the whole request group has arrived. Arg: op, line. -/
  | loadDataReturn
  /-- RD_REQUEST (R433): A home receives RD and serves it from memory or forwards FWD_S to the owner. Arg: who, line, untracked. -/
  | rdRequest
  /-- RDX_REQUEST (R81): A home receives RDX, invalidates sharers and obtains data from the owner or memory. Arg: who, line. -/
  | rdxRequest
  /-- UPG_REQUEST (R82): A home serves UPG by invalidating other sharers, or as RDX if the requester is no longer a sharer. Arg: who, line. -/
  | upgRequest
  /-- WB_REQUEST (R83): A home receives WB, writes the data to memory and returns WB_ACK at once. Arg: who, line, data. -/
  | wbRequest
  /-- FWD_S (R434): An agent receiving FWD_S publishes its L1 copies, sends the line to the requester and keeps a shared copy. Arg: die, line, who. -/
  | fwdS
  /-- FWD_X (R434): An agent receiving FWD_X publishes and invalidates its L1 copies and sends the line to the requester. Arg: die, line, who. -/
  | fwdX
  /-- INV (R82): An agent receiving INV invalidates its copy and its L1 copies and sends INV_ACK. Arg: die, line. -/
  | inv
  /-- PUB (R78): A forced publish makes writable L1 holders and lazy-release cores publish the line. Arg: die, line, who. -/
  | pub
  /-- INV_ACK (R81): A home in a transient state counts an INV_ACK and leaves the state on the last response. Arg: who, line. -/
  | invAck
  /-- UPG_ACK (R81): An agent receiving UPG_ACK moves from S to M and its waiting store commits. Arg: die, line. -/
  | upgAck
  /-- WB_ACK (R83): An agent receiving WB_ACK frees its write-back buffer entry. Arg: die, line. -/
  | wbAck
  /-- SNOOP_RESPONSE (R435): A home receives a snoop response and completes its transient state, sending written-back data itself when DATA_SENT is 0. Arg: who, line, answer. -/
  | snoopResponse
  /-- DATA_RESPONSE (R82): A requester receives line data on DAT and takes it as the answer to its outstanding request. Arg: die, line, data, grant. -/
  | dataResponse
  /-- WRITE_PERMISSION_REQUEST (R75): An L1 asks its coherence point for write permission and receives an exclusive or privatised copy, or causes a merge. Arg: op, line. -/
  | writePermissionRequest
  /-- MASK_EXTENSION (R75): A privatised holder asks to extend its byte mask and is granted it if no other holder owns the byte, otherwise a merge follows. Arg: op, line. -/
  | maskExtension
  /-- PACKAGE_FAILURE (R84): A failed package is removed from every directory entry, lines it owned dirty are poisoned, and waiting states complete. Arg: chip, uport. -/
  | packageFailure
  /-- HOST_READ (R87): A CXL.mem read is served as a system-scope acquire, returning poison for unbacked or poisoned halves. Arg: port, offset, grant (what the answer lets the host hold). -/
  | hostRead
  /-- HOST_WRITE (R87): A CXL.mem write of one 64-byte half-line merges L1 holders and is applied at the home, triggering if watched. Arg: port, offset, bytes. -/
  | hostWrite
  /-- BIRSP (R88): A BIRsp from the host, with any dirty data written at the home, lets the waiting device request proceed. Arg: port, offset, bytes. -/
  | birsp
  /-- SNPDATA (R89): The host agent slice answers SnpData after taking the actions of R78 for the line. Arg: port, line. -/
  | snpdata
  /-- SNPINV (R89): The host agent slice answers SnpInv after publishing the line and invalidates its copy. Arg: port, line. -/
  | snpinv
  /-- SNPCUR (R89): The host agent slice answers SnpCur with the current published data. Arg: port, line. -/
  | snpcur
  /-- HOST_CACHE_RESPONSE (R89): The host answers a CXL.cache RdShared, RdOwn or RdOwnNoData request and the host agent slice takes the line. Arg: port, line, bytes, grant (what the host gives). -/
  | hostCacheResponse
  /-- MT4_COMPLETION (R90): A PCIe read, zero-length read or AtomicOp completion returns to the device for an MT 4 access, or reports an unsupported atomic. Arg: op, compl. -/
  | mt4Completion
  /-- CMD_SEM_READ (R99): A read of CMD_SEM grants a free semaphore to the reader by round-robin or returns the refused value and holder. Arg: readers. -/
  | cmdSemRead
  /-- CMD_SEM_RELEASE (R99): A write of 1 by the holder releases the semaphore, at once or when the running command completes, and signals refused ports. Arg: req, word. -/
  | cmdSemRelease
  /-- REGISTER_WRITE (R98): A write to any other management-window register or CMD_BUF is applied, or dropped and counted when not allowed. Arg: req, offset, word. -/
  | registerWrite
  /-- IDENTIFY (R105): Returns DEV_ID, DEV_STATUS, ROM digest, serial and chip id. -/
  | identify
  /-- GET_CAPS (R105): Returns the device's capacities, backed bytes, AtomicOp support, link and engine status. -/
  | getCaps
  /-- CTX_CREATE (R105): Creates a context with a given page-table root and kind and returns the lowest free id. -/
  | ctxCreate
  /-- CTX_DESTROY (R105): Destroys a context not named by a live launch or active watch. -/
  | ctxDestroy
  /-- MAP_REGION (R47): Checks and loads or deactivates a GF(2) region slot, switching the map in one step under R48. -/
  | mapRegion
  /-- QUERY_MAP (R49): Returns the region slot, DRAM coordinates, home slice and channel cache of a domain PA. -/
  | queryMap
  /-- WATCH_ATTACH (R134): Checks and installs a watch entry in every home slice, shoots down translations, sweeps its bitmap and assigns a launch id. -/
  | watchAttach
  /-- WATCH_DETACH (R106): Stops new triggers of a watch and dispatches those already pending before completing. -/
  | watchDetach
  /-- LAUNCH (R123): Checks a launch record, assigns a launch id and queues its blocks at the dispatchers. -/
  | launch
  /-- SUSPEND (R152): Stops a launch's admission, halts its resident hatches and saves their whole state to a save area. -/
  | suspend
  /-- RESUME (R153): Re-checks a suspended launch and admits its saved blocks and then its unstarted blocks. -/
  | resume
  /-- KILL (R155): Discards a launch's resident blocks without replay, drops its queued blocks and held atomd contributions. -/
  | kill
  /-- PIN_WINDOW (R52): Pins a range of domain memory in the channel caches and returns a window id with fade counter 255. -/
  | pinWindow
  /-- UNPIN_WINDOW (R55): Deactivates a pinned window without counting a fade. -/
  | unpinWindow
  /-- FREEZE_LIST (R105): Returns the active freeze-table entries with their ranges, contexts and states. -/
  | freezeList
  /-- FORCE_THAW (R105): Thaws a freeze-table entry as a thaw does and completes when that thaw completes. -/
  | forceThaw
  /-- ERR_LOG_READ (R105): Returns up to the requested number of error records from a given sequence number. -/
  | errLogRead
  /-- ERR_LOG_CLEAR (R105): Clears the error log and the saturating error, link, memory, coherence and engine counters. -/
  | errLogClear
  /-- ERR_INJECT (R110): Injects an injectable event, corrupting check bits at a PA for ECC and poison codes. -/
  | errInject
  /-- ENGINE_RESET (R120): Resets one media engine without an error event or DPC, losing only its running job. -/
  | engineReset
  /-- SET_CHIP (R107): Sets the package's chip id while every Ulain port is DISABLED or DOWN. -/
  | setChip
  /-- PORT_ENABLE (R107): Sets the enable mask of the Ulain ports that are not UP. -/
  | portEnable
  /-- ROUTE (R107): Loads the per-chip Ulain routing masks while every port is DISABLED or DOWN. -/
  | route
  /-- RETRAIN (R107): Retrains a named Ulain port, grid link or bridge port, restoring full width if possible. -/
  | retrain
  /-- QUERY (R107): Returns the CRC, replay, retraining and lane-failure counts of a named link. -/
  | query
  /-- ROUTER_PM (R107): Enables or disables router power-down per die. -/
  | routerPm
  /-- POWER_SET (R108): POWER_CTL SUB 0 sets the package cap and the per-die gating mode. -/
  | powerSet
  /-- POWER_QUERY (R108): POWER_CTL SUB 1 returns the cap, measured power, die gating states and throttle depths. -/
  | powerQuery
  /-- ATTEST (R112): Builds and signs an attestation report over the nonce and digests of the device's tables. -/
  | attest
  /-- DEVICE_RESET (R105): Completes with status OK and then begins a warm reset. -/
  | deviceReset
  /-- ENGINE_JOB_DISPATCH (R116): A trigger for a media engine clears its pending bit and hands the granule's job record to the idle engine. Arg: engine, watch, granule. -/
  | engineJobDispatch
  /-- ENGINE_ROW_DONE (R119): With FILTER set the engine finishes a coding row and adds 1 to the ROW word with release. Arg: engine. -/
  | engineRowDone
  /-- ENGINE_FILT_WAKE (R119): A store raising FILT lets an engine waiting for a reference row proceed. Arg: engine. -/
  | engineFiltWake
  /-- ENGINE_JOB_DONE (R118): The engine ends a job and stores its completion record with release, or ends it with a fault status. Arg: engine. -/
  | engineJobDone
  /-- MEDIA_FATAL (R111): A fatal engine error signals ERR_FATAL, triggers DPC, resets the engine and holds it CONTAINED. Arg: engine. -/
  | mediaFatal
  /-- DPC_STATUS_CLEAR (R111): Host clearing of DPC Trigger Status releases a contained engine to IDLE. Arg: engine. -/
  | dpcStatusClear
  /-- TRIGGER_DISPATCH (R138): A dispatcher takes a queue or ring entry, test-and-clears its pending bit and queues a block or job. Arg: trig. -/
  | triggerDispatch
  /-- SWEEP_SCAN (R137): In sweep mode the scan dispatches set bits at the sweep depth and ends sweep after a qualifying pass. Arg: watch. -/
  | sweepScan
  /-- BLOCK_ADMISSION (R129): A dispatcher admits the best waiting block, taking slots, floors, ways and tiles in one step and converting local store. Arg: die. -/
  | blockAdmission
  /-- SPAWN_PLACEMENT (R146): A queued spawn continuation is placed as a one-hatch block on the spawner's die and starts with an acquire. Arg: core. -/
  | spawnPlacement
  /-- PRIORITY_AGING (R128): Every 2,400,000 clocks of waiting a queued block's effective priority rises by one up to 7. Arg: block. -/
  | priorityAging
  /-- PREEMPTION (R133): A block waiting 240,000 clocks for resources held by lower-priority blocks causes the youngest pre-emptible one to be discarded. Arg: die. -/
  | preemption
  /-- REGISTER_BOUND_DISCARD (R178): A register-bound partition discards and replays the youngest block holding registers above its floor. Arg: core, partition. -/
  | registerBoundDiscard
  /-- PROMOTION (R161): Every 4,096 issue opportunities passed over raise a ready path's promotion by one. Arg: hatch, slot. -/
  | promotion
  /-- YIELD_TIMEOUT (R162): A yielded path becomes ready again after 64 clocks in which no other path of the partition was ready. Arg: hatch, slot. -/
  | yieldTimeout
  /-- WADDR_TIMEOUT (R388): A sleeping waddr on memory re-evaluates its word after 65,536 clocks. Arg: hatch, slot. -/
  | waddrTimeout
  /-- SFRQ_TRAP (R191): A hatch holding a store-fault record traps at its next instruction boundary outside a handler. Arg: hatch, slot. -/
  | sfrqTrap
  /-- ENGINE_FAULT_TRAP (R411): A pending matrix engine fault traps ENGINE_FAULT at the next boundary outside a handler. Arg: hatch, slot. -/
  | engineFaultTrap
  /-- MATRIX_ENGINE_STEP (R185): The matrix engine takes the owning block's next array instruction by hatch round-robin and executes it as one tile operation. Arg: core. -/
  | matrixEngineStep
  /-- COPY_COMPLETE (R187): A copy finishes its writes, writes its completion word with release and completes for c0, or stops at a fault with an SFRQ record. Arg: op. -/
  | copyComplete
  /-- LAUNCH_ACCEPTED (R416): The dispatcher accepts or rejects a launch instruction's record and the instruction completes for c3, writing its result pair. Arg: op. -/
  | launchAccepted
  /-- FREEZE_COMPLETE (R397): After its shootdown and publishes a freeze entry becomes FROZEN at completion point C, completing its fwait waiters. Arg: entry. -/
  | freezeComplete
  /-- THAW_COMPLETE (R398): After the last replica invalidation is acknowledged F is cleared, the entry is freed and C' is reached. Arg: entry. -/
  | thawComplete
  /-- HOST_LINK_UP (R23): A host port's link trains and enumerates, after power-on, a port reset, a loss of link or a DPC, and the port can again reach the management window and CXL.mem. Arg: port. -/
  | hostLinkUp
  /-- INTERNAL_FATAL (R109): A fatal fault arises of itself in a block of the device, is counted and logged as INTERNAL_FATAL, and ERR_FATAL is signalled while the device runs on. Arg: source, block. -/
  | internalFatal
  /-- COPY_MATRIX_ENGINE_RESET (R150): A reset of a core's copy engine or matrix engine loses one of a block's operations and forces a transient-fault discard and replay of the block. Arg: core, op. -/
  | copyMatrixEngineReset
  deriving DecidableEq, Repr

end Sys2Proof
end

