-- ==== Sys2Proof/Machine/State.lean ====
section
/-! DEFINITION. The state of one T940 package as plain data, and its value right after reset. INVENTORY.md lists every
field with the rule that names it and its reset value. -/

namespace Sys2Proof.Machine

/-- Lane values of one physical vector register: 96 words (R175). -/
abbrev Lanes := List Word

/-- A predicate register: one three-valued code per lane (R251). -/
abbrev PredReg := List Tri

/-! ### Cores, hatches and paths (08, 11) -/

/-- A vector register (R175, R247). `tag` 0 plain, 1 FP32 interval, 2 and 3 the low and high registers of an FP64
interval pair; `hi` is empty unless the register carries a tag. An unmapped register holds no physical register. -/
structure VReg where
  mapped : Bool
  tag : Nat
  lo : Lanes
  hi : Lanes
  deriving DecidableEq, Repr

/-- A loop-stack entry: body start, end offset, remaining iterations (R164). -/
structure LoopEntry where
  start : Nat
  len : Nat
  remaining : Nat
  deriving DecidableEq, Repr

/-- What a path waits on; `none` when its next instruction may issue (R160, R162, R388, R394, R395, R417). -/
inductive Wait where
  /-- Ready to try its next instruction. -/
  | none
  /-- Yielded, with the clock and the number of instructions its partition had issued (R162). -/
  | yield (since issued : Nat)
  /-- Asleep in waddr on a memory or local-store word, with the clock of the last evaluation (R388). -/
  | waddr (mem : Bool) (addr since : Nat)
  /-- In arrival order at a sema word (R395). -/
  | sema (pa since : Nat)
  /-- Arrived at a barrier: 0 bar, 1 + g gbar g, 257 lbar (R394). -/
  | barrier (which : Nat)
  /-- Every participant has arrived: the barrier completes with this status. -/
  | depart (status : Nat)
  /-- In `tlbinv` until an invalidation completes on every die (R315). -/
  | shoot (id : Nat)
  deriving DecidableEq, Repr

/-- One path of a hatch (R164). -/
structure Path where
  pc : Nat
  domain : LaneSet
  mask : LaneSet
  /-- The bits in which the second copy of s0 to s2 differs (R195). -/
  maskDiff : LaneSet
  prio : Nat
  /-- The loop stack, innermost first; at most four entries. -/
  loops : List LoopEntry
  split : Option Nat
  handler : Bool
  /-- Promotion and issue opportunities passed over since the last rise (R161). -/
  promo : Nat
  passed : Nat
  /-- How many instructions its partition had issued when it issued last (R160). -/
  lastIssue : Nat
  wait : Wait
  deriving DecidableEq, Repr

/-- A split record held on chip (R168). -/
structure SplitRec where
  idx : Nat
  outstanding : LaneSet
  domain : LaneSet
  parent : Option Nat
  prio : Nat
  handler : Bool
  use : Nat
  deriving DecidableEq, Repr

/-- A pending matrix engine fault (R410, R411). -/
structure EngineFault where
  cause : Nat
  subCause : Nat
  opcode : Nat
  addr : Nat
  deriving DecidableEq, Repr

/-- A resident hatch (R246, and the machinery of 08). `inst` numbers it; `block` names its block instance. -/
structure Hatch where
  inst : Nat
  block : Nat
  /-- s9, the hatch index in the block (R250, R146). -/
  index : Nat
  core : Nat
  partition : Nat
  /-- Admission order, the age of R160. -/
  age : Nat
  slot0 : Option Path
  slot1 : Option Path
  v : List VReg
  /-- Registers whose value is still to be written (R179): bit r of v, s and p. -/
  emptyV : BitVec 64
  emptyS : BitVec 128
  emptyP : BitVec 8
  /-- Those of them whose value is written and whose producer ends with the next clock (R158; entry 67). -/
  lateV : BitVec 64
  lateS : BitVec 128
  lateP : BitVec 8
  /-- s0 to s127; entries 0 to 3 are not read, because the mask and path registers belong to the paths. -/
  s : List Word
  /-- The second copy of the scalars in a protected launch (R195). -/
  shadow : List Word
  p : List PredReg
  /-- The predicate stack, top first (R252). -/
  pstack : List PredReg
  /-- Accumulator tiles: rows of 64 words each (R182). -/
  tiles : List (List (List Word))
  /-- Outstanding and held operation ids of c0 to c3, oldest first (R189). -/
  c0 : List Nat
  c1 : List Nat
  c2 : List Nat
  c3 : List Nat
  fpflags : BitVec 6
  trapcode : Nat
  trapinfo : Nat
  trapaddr : Nat
  trapmask : LaneSet
  /-- The cycle counter captured by the last read of sr 0x00 (R13). -/
  cycleHi : Option Nat
  depth : Nat
  status : Nat
  /-- The hatch area's address (R125). -/
  area : Nat
  /-- Sizes, in 64-byte entries, of the records on the divergence stack, top first (R167). -/
  dstack : List Nat
  /-- Records on the stack that belong to a running trap handler, counted from the top. -/
  dstackHandler : Nat
  splits : List SplitRec
  /-- Indices of the split table in use, on chip or in the hatch area. -/
  splitUsed : BitVec 64
  splitHandler : BitVec 64
  /-- Indices whose record the hatch area holds as valid (R168). -/
  splitOut : BitVec 64
  handler : Bool
  /-- No region-ending operation since the last region or the start (R149). -/
  clean : Bool
  regionDone : Bool
  spawned : Bool
  imageValid : Bool
  /-- No restart point: the next rett ends the hatch (R151). -/
  noRestart : Bool
  /-- The handler was started by a replay: `rett` continues at the restart PC itself (R150). -/
  atRestart : Bool
  /-- Lines read by relaxed loads since the last acquire, at most 64, and whether there were more (R393). -/
  readLines : List Nat
  readMany : Bool
  /-- Scope of a narrow release fence still to be carried by the next store (R393). -/
  fenceRel : Bool
  /-- Host ports written through MT 4 since the last release: bit 0 port A, bit 1 port B (R90). -/
  mt4Ports : BitVec 2
  engFaults : List EngineFault
  /-- Departures and barrier statuses due: barriers at which the next departure gives status 1 (R173, R394). -/
  abandoned : List Nat
  /-- Stores issued since the restart point, and how many of them a replay repeats (R135, R148). -/
  stores : Nat
  repeats : Nat
  deriving DecidableEq, Repr

/-- A store-fault record (R190). -/
structure SfrRec where
  hatch : Nat
  code : Nat
  cause : Nat
  kind : Nat
  level : Nat
  pc : Nat
  va : Nat
  lanes : LaneSet
  deriving DecidableEq, Repr

/-- A TLB entry (R65). `size` is the level of the page it maps: 1, 2 or 3; `page` is VA[51:16] of its first piece. -/
structure TlbEntry where
  ctx : Nat
  page : Nat
  level : Nat
  pa : Nat
  r : Bool
  w : Bool
  x : Bool
  u : Bool
  mt : Nat
  watch : Bool
  d : Bool
  f : Bool
  frz : Bool
  deriving DecidableEq, Repr

/-- How an L1 holds a line (R73 to R75, R382, R90). -/
inductive L1Kind where
  | read | exclusive | privatised | replica | ldcReplica | mt4
  deriving DecidableEq, Repr

/-- An L1 line (R74 to R79). `mask` is the byte mask the coherence point has recorded for this holder. -/
structure L1Line where
  line : Nat
  kind : L1Kind
  bytes : List Byte
  poison : BitVec 4
  dirty : BitVec 128
  mask : BitVec 128
  /-- A narrow release's location, still dirty (R79). -/
  narrow : Bool
  /-- The highest cascade depth of the stores in it (R69), and the store that has it. -/
  depth : Nat
  src : Option Raiser
  /-- Dirty bytes that only stores made again by a replay have written (R135). -/
  quiet : BitVec 128
  use : Nat
  deriving DecidableEq, Repr

/-- An SRAM way's use (R130, R180): L1, unowned local store, or a block's local store with the bytes and the poisoned
32-byte sectors it holds (R186, R410). -/
inductive Way where
  | l1
  | free
  | owned (block : Nat) (bytes : List Host.Cell) (bad : List Nat)
  deriving DecidableEq, Repr

/-- A weight bank (R183, R402, R403). Weights, scales and metadata are held as their column bytes. -/
structure Bank where
  fmt : Nat
  k : Nat
  cols : List (List Byte)
  scales : List (List Byte)
  /-- N of N-of-8 metadata, 0 for a dense bank. -/
  metaN : Nat
  metas : List (List Byte)
  deriving DecidableEq, Repr

/-- What a core records of a lazy or narrow release (R77, R79): its location, and the lines that were dirty then and that
have not left the L1 since. -/
structure Release where
  line : Nat
  lines : List Nat
  deriving DecidableEq, Repr

/-- What an issued instruction still holds (R158, R160): its partition and pipe, the clock of its issue, the clock from which the pipe
is free, and the clock from which an instruction that depends on the registers it wrote may issue. -/
structure Taken where
  hatch : Nat
  partition : Nat
  pipe : Nat
  since : Nat
  free : Nat
  due : Nat
  v : BitVec 64
  s : BitVec 128
  p : BitVec 8
  deriving DecidableEq, Repr

/-- A core (R157, R180 to R190). -/
structure Core where
  cycle : Nat
  ways : List Way
  l1 : List L1Line
  tlb : List TlbEntry
  sfrq : List SfrRec
  /-- Records that found the queue full (R193). -/
  sfrWait : List SfrRec
  releases : List Release
  owner : Option Nat
  active : Bank
  inactive : Bank
  /-- The matrix queue: operation ids in arrival order (R185). -/
  mqueue : List Nat
  lastServed : Nat
  spawnQ : List Nat
  /-- Instructions issued by each partition, and the clock of each partition's last issue (R162, R178). -/
  issued : List Nat
  lastIssue : List Nat
  taken : List Taken
  deriving DecidableEq, Repr

/-! ### Operations in flight (08 R186, R189) -/

/-- One lane's access of an operation: address, translation, bytes. `fault` is 0 or a trap code. -/
structure LaneAcc where
  lane : Nat
  va : Nat
  /-- Translated: `pa`, `mt`, `frozen`, `watch` or `fault`, `cause`, `level` hold. -/
  tr : Bool
  pa : Nat
  mt : Nat
  frozen : Bool
  watch : Bool
  bytes : List Byte
  poison : Bool
  fault : Nat
  cause : Nat
  level : Nat
  done : Bool
  deriving DecidableEq, Repr

/-- An operation in flight: the instruction, who issued it, what it captured at issue. -/
structure Op where
  id : Nat
  hatch : Nat
  /-- The slot of the issuing path. -/
  slot : Nat
  block : Nat
  core : Nat
  ctx : Nat
  depth : Nat
  pc : Nat
  what : Instr
  active : LaneSet
  lanes : List LaneAcc
  /-- Scalar and vector operands captured at issue. -/
  vals : List Nat
  vecs : List (List Nat)
  /-- Lines or sectors done so far. -/
  prog : Nat
  done : Bool
  /-- A store made again by a replay: it raises no trigger (R135, R148). -/
  silent : Bool
  deriving DecidableEq, Repr

/-! ### Launches, watches, blocks (07) -/

/-- A launch record as the device keeps it (R122), with its sync-group table (R144). -/
structure LaunchRec where
  entry : Nat
  trap : Nat
  args : Nat
  blocks : Nat
  hatches : Nat
  coop : Bool
  prot : Bool
  redme : Bool
  ftz : Bool
  dep : Bool
  local_ : Nat
  floor : Nat
  peak : Nat
  tiles : Nat
  prio : Nat
  depthLimit : Nat
  pool : Nat
  producers : List Nat
  spill : Nat
  groups : List (List Nat)
  deriving DecidableEq, Repr

/-- Whether a launch takes admissions (R152). -/
inductive LaunchPhase where
  | running | suspended
  deriving DecidableEq, Repr

/-- A launch (R124, R143, R146, R152, R155). -/
structure Launch where
  id : Nat
  rcd : LaunchRec
  ctx : Nat
  recVa : Nat
  /-- Started by a watch (R134), and the watch while it is attached. -/
  watched : Bool
  watch : Option Nat
  phase : LaunchPhase
  spawnSerial : Nat
  /-- The next block index of each die's dispatcher still to enter its queue (R127), and when the launch was queued. -/
  nextIdx : List Nat
  queuedAt : Nat
  deriving DecidableEq, Repr

/-- The saved state of a block of a suspended launch (R152): the device's own form. -/
structure SavedBlock where
  inst : Nat
  hatches : List Hatch
  localBytes : List (List (List Host.Cell × List Nat))
  sfr : List SfrRec
  /-- What the record said at the suspension, for R154. -/
  rcd : LaunchRec
  deriving DecidableEq, Repr

/-- How one hatch of a discarded block starts again (R148, R150, R151): in its trap handler where `code` is not 0. -/
structure Restart where
  index : Nat
  inst : Nat
  code : Nat
  info : Nat
  /-- The continuation image is valid (R151). -/
  imageValid : Bool
  repeats : Nat
  abandoned : List Nat
  deriving DecidableEq, Repr

/-- Where a block stands. -/
inductive BlockPhase where
  | queued | resident | suspended | ended
  deriving DecidableEq, Repr

/-- A block instance (R127 to R133, R143 to R149). -/
structure Block where
  inst : Nat
  launch : Nat
  index : Nat
  die : Nat
  phase : BlockPhase
  triggered : Bool
  /-- A continuation's slot address (R146), and the index of its one hatch. -/
  spawnArea : Option Nat
  sole : Nat
  /-- The first line of a triggered block's granule, and their number (R138). -/
  granule : Nat
  granuleN : Nat
  trigArg : Nat
  depth : Nat
  effPrio : Nat
  agedFrom : Nat
  queuedAt : Nat
  age : Nat
  cores : List Nat
  areas : List Nat
  exited : List Nat
  ktrig : Bool
  /-- Arrivals at each barrier: (which, hatch index). -/
  arrived : List (Nat × Nat)
  /-- Groups counted by a hardware unit (R145). -/
  hwGroups : List Nat
  /-- Physical registers of a continuation's image, in order: register and tag; and its first twelve scalars (R364, R365). -/
  spawnRegs : List (Nat × Nat)
  spawnS : List Word
  /-- A discarded block: how its hatches restart (R148, R150); or a suspended one (R152). -/
  replay : Bool
  restart : List Restart
  saved : Option SavedBlock
  /-- A fault on the pool at its admission has been logged (R447). -/
  areaFault : Bool
  deriving DecidableEq, Repr

/-- A watch entry (R106, R134 to R137). -/
structure Watch where
  id : Nat
  base : Nat
  size : Nat
  target : Nat
  bitmap : Nat
  ring : Nat
  ringN : Nat
  granule : Nat
  engine : Bool
  depthLimit : Nat
  ctx : Nat
  ctxMask : Nat
  argBase : Nat
  launch : Nat
  rd : Nat
  wr : Nat
  sweep : Bool
  sweepDepth : Nat
  scanPos : Nat
  passClean : Bool
  detaching : Bool
  deriving DecidableEq, Repr

/-- A trigger entry (R136). -/
structure TrigEntry where
  watch : Nat
  depth : Nat
  granule : Nat
  deriving DecidableEq, Repr

/-- A held atomd contribution (R219, R220). -/
structure Contrib where
  launch : Nat
  inst : Nat
  pa : Nat
  mt : Nat
  f64 : Bool
  value : Nat
  blockIdx : Nat
  hatchIdx : Nat
  lane : Nat
  arrival : Nat
  /-- The entry of the spill buffer that holds it, where it was spilled (R220). -/
  spilled : Option Nat
  deriving DecidableEq, Repr

/-- A trigger raised by a store that has just committed: watch, granule, depth, PA (R135, R140). -/
structure Raise where
  watch : Nat
  granule : Nat
  depth : Nat
  pa : Nat
  src : Option Raiser
  deriving DecidableEq, Repr

structure Sched where
  nextSeq : Nat
  launches : List Launch
  watches : List Watch
  /-- Entries of each home slice's trigger queue, tagged with die * 32 + slice, oldest first. -/
  trigQ : List (Nat × TrigEntry)
  blocks : List Block
  contribs : List Contrib
  /-- Triggers raised in the step being made, settled before it ends. -/
  raised : List Raise
  deriving DecidableEq, Repr

/-! ### What leaves and enters the package -/

/-- A coherence request (R80); for a host line RdShared, RdOwn and RdOwnNoData (R89). -/
inductive CohReq where
  | rd | rdx | upg
  deriving DecidableEq, Repr

/-- The traffic classes, each with a virtual channel of its own on every link (R28). -/
inductive TrafficClass where
  | req | snp | rsp | dat | trg | mgt
  deriving DecidableEq, Repr

/-- A coherence message to another package: `who` is the requester of a request and the agent that a snoop or an answer
concerns, `peer` the requester that a forwarded line goes to. Coher.lean lists the kinds. -/
structure ChipMsg where
  chip : Nat
  kind : Nat
  who : Who
  line : Nat
  data : LineData := { bytes := [], poison := 0, depth := 0 }
  peer : Option Who := none
  answer : SnoopAnswer := ⟨false, false, false⟩
  /-- The bytes of a store, the operation that the home is to answer, and an atomic: opcode, form, PA and operands. -/
  mask : BitVec 128 := 0
  op : Nat := 0
  atom : Option (Nat × MForm × Nat × Nat × Nat) := none
  /-- What is asked of every package of the domain, or the answer to it (entry 69). -/
  act : Option DomainAct := none
  deriving DecidableEq, Repr

/-- A message that has left the package, by what it is. -/
inductive OutMsg where
  | msix (p : Port) (vector : Nat)
  | aer (p : Port) (cls event : Nat)
  | readData (who : Requester) (value : Word)
  | memData (p : Port) (offset : Nat) (bytes : List Byte) (poisoned : Bool)
  | memDone (p : Port) (offset : Nat)
  | biSnp (p : Port) (half : Nat) (inv : Bool)
  | cacheReq (p : Port) (line : Nat) (k : CohReq)
  | cacheEvict (p : Port) (line : Nat) (bytes : List Byte) (dirty : Bool)
  | snpResp (p : Port) (line : Nat) (bytes : List Byte)
  | pcieRead (p : Port) (op addr len : Nat)
  | pcieWrite (p : Port) (addr : Nat) (bytes : List Byte)
  | pcieAtomic (p : Port) (op addr kind : Nat) (operand compare : Nat)
  | flit (l : LinkId) (flit : BitVec 512)
  | ulain (port chip pa hops : Nat)
  | toChip (port hops : Nat) (m : ChipMsg)
  | pin (which : Nat) (asserted : Bool)
  deriving DecidableEq, Repr

/-- An event or completion: which row, and what it concerns. -/
structure Event where
  what : Instr
  arg : Arg
  deriving DecidableEq, Repr

/-- A path of a resident hatch, or none: the issuing path of an instruction. -/
structure PathRef where
  hatch : Nat
  slot : Nat
  deriving DecidableEq, Repr

/-! ### Package, fabric, memory side, translation, coherence (01 to 04) -/

/-- The STATE field of DEV_STATUS (R22, R23). -/
inductive DevState where
  | reset | selftest | fuses | logic | memory | links | ready | failed
  deriving DecidableEq, Repr

inductive GateState where
  | powered | gating | gated | waking
  deriving DecidableEq, Repr

structure Die where
  onMode : Bool
  gate : GateState
  gateSince : Nat
  pmOff : Bool
  deriving DecidableEq, Repr

structure Pkg where
  devState : DevState
  failStep : Nat
  warm : Bool
  perstA : Bool
  perstB : Bool
  thermtrip : Bool
  prochot : Bool
  thermalDepth : Nat
  capW : Nat
  capDepth : Nat
  measuredW : Nat
  /-- The clocks of the last thermal step and of the end of the last power window (R15, R18). -/
  thermalAt : Nat
  capAt : Nat
  deriving DecidableEq, Repr

inductive LinkUp where
  | up | retraining | down
  deriving DecidableEq, Repr

/-- A flit that a link end has sent and that is not yet acknowledged (R33): its SEQ and KIND, and which flit of which
packet it is. -/
structure HeldFlit where
  seq : Nat
  kind : Nat
  cls : TrafficClass
  packet : Nat
  index : Nat
  deriving DecidableEq, Repr

/-- Both directions of one link end (R28, R32 to R35, R41). -/
structure Link where
  id : LinkId
  nextSeq : Nat
  /-- The replay buffer: unacknowledged flits, oldest first. -/
  held : List HeldFlit
  /-- For each class the buffers that the other end has free, and the buffer credits not yet given back to it (R28). -/
  credits : List Nat
  owed : List Nat
  /-- The class that the round-robin arbitration looks at first (R28). -/
  turn : Nat
  /-- The clock at which the running retraining began (R34). -/
  since : Nat
  replays : Nat
  ackAt : Nat
  lastGood : Nat
  discarding : Bool
  /-- Flits received, and the counts at which the last CRC errors were met, oldest first (R34). -/
  winFlits : Nat
  winErrors : List Nat
  state : LinkUp
  half : Bool
  crc : Nat
  replayCount : Nat
  retrains : Nat
  laneFails : List Nat
  deriving DecidableEq, Repr

inductive RouterState where
  | active | downing | down | waking
  deriving DecidableEq, Repr

structure Router where
  id : RouterId
  state : RouterState
  since : Nat
  deriving DecidableEq, Repr

inductive UlainState where
  | disabled | training | up | down
  deriving DecidableEq, Repr

structure UlainPort where
  state : UlainState
  enabled : Bool
  peer : Nat
  good : BitVec 8
  half : Bool
  deriving DecidableEq, Repr

/-- Where a packet stands, or goes: a router of a die, the I/O die, or another package. -/
inductive Station where
  | router (id : RouterId)
  | io
  | chip (c : Nat)
  deriving DecidableEq, Repr

/-- What a packet carries: a message of this package, one to another package, or a packet that passes through it. -/
inductive Cargo where
  | event (e : Event)
  | chip (m : ChipMsg)
  | forward (chip pa hops : Nat)
  deriving DecidableEq, Repr

/-- A packet that has not reached the end of its route (R27 to R31): where it stands, the links still to take, its flits,
how many of them have been put on the first of those links and how many have been accepted there, and the link whose
buffers it fills. -/
structure Packet where
  id : Nat
  cls : TrafficClass
  src : Station
  dst : Station
  here : Station
  pa : Option Nat
  route : List LinkId
  size : Nat
  sent : Nat
  got : Nat
  hops : Nat
  fills : Option LinkId
  /-- Its last flit has left the package. -/
  out : Bool
  cargo : Cargo
  deriving DecidableEq, Repr

structure Fabric where
  links : List Link
  routers : List Router
  ulain : List UlainPort
  chipId : Nat
  routes : List (BitVec 12)
  failedChips : List Nat
  /-- Packets under way, oldest first, those for which no route remains, and the number of the next one. -/
  packets : List Packet
  lost : List Packet
  nextPacket : Nat
  deriving DecidableEq, Repr

/-- An active region (R45). -/
structure Region where
  base : Nat
  k : Nat
  rowBase : Nat
  rows : List Nat
  deriving DecidableEq, Repr

/-- A line of a channel cache (R51, R53). -/
structure ChanLine where
  line : Nat
  valid : BitVec 4
  pinned : Option Nat
  use : Nat
  deriving DecidableEq, Repr

/-- A pending request of a channel (R57, R58): line, sectors, the group's sequence tag, arrival clock, whether it is a single
request outside every group, the core and hatch it is tagged with, and the number of sectors that its group has on the channel. -/
structure ChanReq where
  line : Nat
  sectors : BitVec 4
  group : Nat
  at_ : Nat
  single : Bool
  core : Nat
  hatch : Nat
  count : Nat
  deriving DecidableEq, Repr

structure Channel where
  lines : List ChanLine
  misses : Nat
  pending : List ChanReq
  serving : Option Nat
  openRow : Option Nat
  /-- Lines brought in by a miss whose reader has not taken them yet: that read is no hit (R54). -/
  fresh : List Nat
  deriving DecidableEq, Repr

/-- A pinned window (R52, R54). -/
structure Window where
  base : Nat
  size : Nat
  fade : Nat
  /-- The clock of the last hit: a decrement of the same clock is without effect (R54). -/
  hitAt : Option Nat
  deriving DecidableEq, Repr

structure MemSide where
  regions : List (Option Region)
  /-- Channels that have held anything since reset: (channel, state). -/
  chans : List (Nat × Channel)
  windows : List (Option Window)
  fadeCount : Nat
  pinOverflow : Nat
  scrubNext : Nat
  deriving DecidableEq, Repr

/-- A context (R61, R105). -/
structure Ctx where
  root : Nat
  kernel : Bool
  deriving DecidableEq, Repr

/-- A load, atomic, fetch or device access that waits for a walk: the core, the address and the access (0 load, 1 store, 2 atomic,
3 fetch), and which path or event makes it. -/
structure Miss where
  core : Nat
  va : Nat
  kind : Nat
  cur : Option PathRef
  arg : Arg
  deriving DecidableEq, Repr

/-- A page walk in flight or waiting (R65, R67): `queued` while all 64 of the die are busy. -/
structure Walk where
  id : Nat
  die : Nat
  ctx : Nat
  page : Nat
  /-- The level of the leaf that the walk finds, as its page table stood when it began: the large page that it covers. -/
  level : Nat
  /-- The attached stores, and the other misses attached. -/
  ops : List Nat
  misses : List Miss
  stale : Bool
  queued : Bool
  deriving DecidableEq, Repr

/-- A walk that ended in a fault, kept for the access that waits for it: the trap code, cause and level, or for poison the
address as its cause. -/
structure WalkFault where
  miss : Miss
  ctx : Nat
  code : Nat
  cause : Nat
  level : Nat
  deriving DecidableEq, Repr

/-- What an invalidation covers (R68, R315). -/
inductive ShootKind where
  | page (ctx va : Nat)
  | ctx (c : Nat)
  | all
  | range (ctx base size : Nat) (setF clearF : Bool)
  deriving DecidableEq, Repr

structure Shoot where
  id : Nat
  die : Nat
  kind : ShootKind
  deriving DecidableEq, Repr

structure Trans where
  ctxs : List (Option Ctx)
  /-- Router TLB entries: (die * 8 + compute router in the order of R449, entry), newest first. -/
  routerTlb : List (Nat × TlbEntry)
  /-- Walk-cache entries: (die, context, level, index bits, table PA). -/
  walkCache : List (Nat × Nat × Nat × Nat × Nat)
  walks : List Walk
  faults : List WalkFault
  shoots : List Shoot
  /-- Physical 64 KiB pages frozen for host writes: first page and count (R446). -/
  frozenPages : List (Nat × Nat)
  deriving DecidableEq, Repr

inductive Moesi where
  | m | o | e | s | i
  deriving DecidableEq, Repr

/-- A line of an agent slice or host agent slice (R80, R83, R89). -/
structure Agent where
  die : Nat
  line : Nat
  st : Moesi
  data : LineData
  wbBuf : Bool
  pending : Option CohReq
  deriving DecidableEq, Repr

inductive DirState where
  | unc | sh | ex | ow | busyRd | busyRx | busyUp | busyPub | busyRec
  deriving DecidableEq, Repr

/-- A home directory entry (R71, R77, R81). -/
structure DirEntry where
  line : Nat
  st : DirState
  owner : Option Who
  sharers : List Who
  req : Option (Who × CohReq)
  awaiting : List Who
  wbSeen : Bool
  /-- The owner's snoop response in the transient state, once it has come. -/
  answer : Option SnoopAnswer
  queue : List (Who × CohReq)
  /-- The lazy-release list (R77): package and core. -/
  lazy : List (Nat × Nat)
  /-- The owner was granted M, by RDX or UPG (R84). -/
  granted : Bool
  use : Nat
  deriving DecidableEq, Repr

/-- A host-directory entry for a 64-byte half on one port: held in S, or in E or M (R88). -/
structure HostDirEntry where
  port : Port
  half : Nat
  excl : Bool
  use : Nat
  deriving DecidableEq, Repr

/-- An untracked read-only replica in an agent slice (R73). -/
structure Replica where
  die : Nat
  line : Nat
  bytes : List Byte
  poison : BitVec 4
  deriving DecidableEq, Repr

/-- An acquire that waits for the other packages that hold a line, and whether they have done (R78): the line, and which
path or event acquires. -/
structure Acquire where
  line : Nat
  cur : Option PathRef
  arg : Arg
  done : Bool
  deriving DecidableEq, Repr

/-- What a path or an event of this package has asked of every other package (entry 69), and the chips whose answer is awaited. -/
structure DomainAsk where
  key : Nat
  what : DomainAct
  cur : Option PathRef
  arg : Arg
  wait : List Nat
  deriving DecidableEq, Repr

structure Coh where
  agents : List Agent
  replicas : List Replica
  acquires : List Acquire
  asked : List DomainAsk
  /-- Reads asked of another package's home for a line that is not to be tracked: die and line (R72, R73). -/
  untracked : List (Nat × Nat)
  /-- Lines that a die has just been granted: die, line, and the clock until which the access that asked for it goes first
  (entry 64). -/
  granted : List (Nat × Nat × Nat)
  dir : List DirEntry
  hostDir : List HostDirEntry
  /-- BISnp messages without their BIRsp: port, half, and whether it is BISnpInv (R88). -/
  bisnp : List (Port × Nat × Bool)
  forcedPub : Nat
  widen : Nat
  merge : Nat
  recalls : Nat
  bisnpCount : Nat
  poisonLine : Nat
  deadHome : Nat
  deriving DecidableEq, Repr

/-! ### Host ports, commands, errors, media engines (05, 06) -/

/-- A host port: its link, its AtomicOp settings (R92), the AER masks, status bits and severity of internal errors (R109), the size
of its DVSEC range (R86), and BAR2: component registers that have been written, by offset, the twelve words of the MSI-X
table, and its pending bits (R96). -/
structure PortState where
  link : Bool
  atomicOp : Bool
  cas128 : Bool
  maskCorr : Bool
  maskUncorr : Bool
  statCorr : Bool
  statUncorr : Bool
  sevUncorr : Bool
  dvsecSize : Nat
  component : List (Nat × Nat)
  msixTable : List Nat
  pba : Nat
  deriving DecidableEq, Repr

/-- An error-log record (R110). -/
structure ErrRec where
  seq : Nat
  cls : Nat
  source : Nat
  event : Nat
  where_ : Nat
  info : Nat
  addr : Nat
  ticks : Nat
  deriving DecidableEq, Repr

structure HostIf where
  portA : PortState
  portB : PortState
  semHolder : Option Requester
  /-- Where the round-robin pointer of R100 stands. -/
  semNext : Requester
  semReleasePending : Bool
  semRefused : List Requester
  cmdLen : Nat
  cmdOpcode : Nat
  cmdBusy : Bool
  cmdDone : Bool
  cmdRespLen : Nat
  cmdStatus : Nat
  cmdHeld : Bool
  cmdBuf : List Byte
  cmdDropped : Nat
  errCorr : Nat
  errNonfatal : Nat
  errFatal : Nat
  errLost : Nat
  errLog : List ErrRec
  errSeq : Nat
  errFirst : List (Nat × Nat)
  deriving DecidableEq, Repr

inductive EngState where
  | idle | run | waitFilt | reset | contained
  deriving DecidableEq, Repr

/-- A running media job (R116 to R119). -/
structure MediaJob where
  ctx : Nat
  watch : Nat
  /-- The job record as read at dispatch, what the coding depends on (operation, flags, parameter block), the input. -/
  record : List Byte
  settings : List Byte
  input : List Byte
  /-- What the rows so far have read of the filtered rows before them, row by row (R119). -/
  refs : List (List Byte)
  /-- Coding rows finished, output bytes written, and the status the job will end with, once known. -/
  row : Nat
  out : Nat
  status : Nat
  /-- The samples of the row have been written, and ROW does not count it yet (R119); or the bitstream of an encode job has been
  written. -/
  toCount : Bool := false
  deriving DecidableEq, Repr

structure Engine where
  state : EngState
  lastStatus : Nat
  jobs : Nat
  lost : Nat
  faults : Nat
  job : Option MediaJob
  pending : List (Nat × Nat)
  deriving DecidableEq, Repr

/-! ### Freeze (17) -/

inductive FreezeState where
  | free | freezing | frozen | thawing
  deriving DecidableEq, Repr

/-- A freeze-table entry (R396 to R399). -/
structure FreezeEnt where
  gen : Nat
  state : FreezeState
  ctx : Nat
  base : Nat
  size : Nat
  thawIssued : Bool
  /-- A thaw that waits for this freeze's completion point; in a thaw, that its shootdown has begun. -/
  thawWanted : Bool
  deriving DecidableEq, Repr

/-! ### Moves -/

/-- Which agent moves next, where the model is told: take the next outside event, deliver the k-th message in flight, let
a path issue, or let the clock tick (entry 5). -/
inductive Turn where
  | arrive
  | deliver (k : Nat)
  | issue (p : PathRef)
  | tick
  deriving DecidableEq, Repr

/-- What an access of the step being made needs before it can be made: sectors from a channel, a line with no copy beyond its
home here, a current copy of a line, an acquire at the other packages that hold a line, a page walk, a line of MT 4, or what
every other package is to do (entries 64, 69). -/
inductive Want where
  | chan (line : Nat) (sectors : BitVec 4)
  | own (line : Nat)
  | read (line : Nat)
  | publish (line : Nat)
  | walk (core ctx va kind : Nat)
  | mt4 (core line : Nat)
  | domain (a : DomainAct)
  deriving DecidableEq, Repr

/-- The state of one T940 package. -/
structure State where
  pkg : Pkg
  dies : List Die
  fab : Fabric
  /-- HBM by DRAM location, and memory beyond the package by PA: address and byte, addresses rising, no entry 0. -/
  mem : List Host.Cell
  /-- Bytes published at home slices and not yet written to HBM, by PA, addresses rising (R70). -/
  slices : List Host.Cell
  /-- Poisoned sectors and sectors with a single-bit error, by storage sector, rising (R43). -/
  poison : List Nat
  ecc1 : List Nat
  /-- Poisoned sectors of the published bytes, by PA divided by 32, rising. -/
  slicePoison : List Nat
  ms : MemSide
  tr : Trans
  coh : Coh
  host : HostIf
  out : List OutMsg
  media : List Engine
  sched : Sched
  cores : List Core
  hatches : List Hatch
  ops : List Op
  freeze : List FreezeEnt
  /-- 2.4 GHz clocks since cold reset (entry 4). -/
  clock : Nat
  /-- What the event being served concerns. -/
  arg : Arg
  /-- Model fields (entry 5): outside events still to arrive, the order of moves, messages in flight, the issuing
  path, the paths found not ready since the last event, the number of free choices made, the next instance number. -/
  inbox : List Event
  turns : List Turn
  net : List Event
  /-- Messages in flight that found that they must wait; they are tried again after the next change. -/
  parked : List Event
  cur : Option PathRef
  /-- The pipe of the issuing instruction (R158, R161). -/
  pipe : Nat
  stalled : List PathRef
  /-- Those of the stalled paths that found no register to allocate (R177, R178). -/
  dry : List PathRef
  draws : Nat
  nextId : Nat
  /-- What the step being made lacks; empty between steps (entry 64). -/
  wants : List Want
  deriving DecidableEq, Repr

/-- Why the machine stops. -/
inductive Fault where
  /-- An instruction is executed with no issuing path. Raised by exec of an instruction when State.cur names no path
  of a resident hatch; no step does so. Safe. -/
  | noIssuingPath
  deriving DecidableEq, Repr

/-- Why an instruction has no meaning here. -/
inductive Refusal where
  /-- The instruction has no meaning yet. Raised by Dispatch only. Safe. -/
  | notModelled (mnemonic : String)
  deriving DecidableEq, Repr

/-! ### Reset -/

def VReg.unmapped : VReg := ⟨false, 0, [], []⟩

/-- Row i of the default matrix as a word (R50): x[i] with its XOR terms. -/
def defaultRow (i : Nat) : Nat :=
  2 ^ i + (if 3 ≤ i ∧ i ≤ 16 then 2 ^ (i + 14) else 0)

def defaultRegion (i : Nat) : Region :=
  ⟨i * 2 ^ 38, 38, i * 16384, (List.range 31).map defaultRow⟩

def Bank.zero : Bank := ⟨0, 0, [], [], 0, []⟩

def Core.reset : Core :=
  { cycle := 0, ways := List.replicate 2 Way.free ++ List.replicate 14 Way.l1, l1 := [], tlb := [], sfrq := [], sfrWait := [], releases := []
    owner := none, active := Bank.zero, inactive := Bank.zero, mqueue := [], lastServed := 0, spawnQ := []
    issued := List.replicate 8 0, lastIssue := List.replicate 8 0, taken := [] }

def Die.reset : Die := ⟨false, .powered, 0, false⟩

/-- Buffers of a virtual channel at each end of a link: the spec gives no number (entry 63). -/
def vcDepth : Nat := 16

def Link.reset (id : LinkId) (st : LinkUp) : Link :=
  { id := id, nextSeq := 0, held := [], credits := List.replicate 6 vcDepth, owed := List.replicate 6 0, turn := 0, since := 0
    replays := 0, ackAt := 0, lastGood := 0x1FF, discarding := false
    winFlits := 0, winErrors := [], state := st, half := false, crc := 0, replayCount := 0, retrains := 0
    laneFails := [] }

/-- The masks of the AER bits and of the MSI-X vectors are set, as PCI Express resets them (entry 66). -/
def PortState.reset : PortState := ⟨true, true, true, true, true, false, false, false, 2 ^ 40, [], [0, 0, 0, 1, 0, 0, 0, 1, 0, 0, 0, 1], 0⟩

def Engine.reset : Engine := ⟨.idle, 0, 0, 0, 0, none, []⟩

def FreezeEnt.reset : FreezeEnt := ⟨0, .free, 0, 0, 0, false, false⟩

def Pkg.reset : Pkg := ⟨.reset, 0, false, false, false, false, false, 0, 2800, 0, 0, 0, 0⟩

def UlainPort.reset : UlainPort := ⟨.disabled, false, 0, 0, false⟩

def routerIds : List RouterId :=
  (List.range 4).flatMap (fun d => (List.range 4).flatMap (fun r => (List.range 6).map (fun c => ⟨d, r, c⟩)))

def Fabric.reset : Fabric :=
  { links := []
    routers := routerIds.map (fun r => ⟨r, .active, 0⟩)
    ulain := List.replicate 12 UlainPort.reset, chipId := 0, routes := List.replicate 16 0#12, failedChips := []
    packets := [], lost := [], nextPacket := 0 }

def MemSide.reset : MemSide :=
  { regions := (List.range 3).map (fun i => some (defaultRegion i)) ++ List.replicate 13 none
    chans := [], windows := List.replicate 32 none, fadeCount := 0, pinOverflow := 0, scrubNext := 0 }

def Trans.reset : Trans :=
  { ctxs := List.replicate 64 none, routerTlb := [], walkCache := [], walks := [], faults := [], shoots := [], frozenPages := [] }

def Coh.reset : Coh :=
  { agents := [], replicas := [], acquires := [], asked := [], untracked := [], granted := [], dir := [], hostDir := [], bisnp := [], forcedPub := 0, widen := 0, merge := 0, recalls := 0
    bisnpCount := 0, poisonLine := 0, deadHome := 0 }

def HostIf.reset : HostIf :=
  { portA := PortState.reset, portB := PortState.reset, semHolder := none, semNext := .a
    semReleasePending := false, semRefused := [], cmdLen := 0, cmdOpcode := 0, cmdBusy := false, cmdDone := false
    cmdRespLen := 0, cmdStatus := 0, cmdHeld := false, cmdBuf := [], cmdDropped := 0, errCorr := 0
    errNonfatal := 0, errFatal := 0, errLost := 0, errLog := [], errSeq := 0, errFirst := [] }

def Sched.reset : Sched :=
  { nextSeq := 1, launches := [], watches := [], trigQ := [], blocks := [], contribs := [], raised := [] }

/-- The machine right after reset: every unit is at its reset value, and STATE is RESET (R23); READY comes with the last step of
the reset sequence (R22, entry 2). -/
def State.reset : State :=
  { pkg := Pkg.reset, dies := List.replicate 4 Die.reset, fab := Fabric.reset, mem := [], slices := [], poison := []
    ecc1 := [], slicePoison := [], ms := MemSide.reset, tr := Trans.reset, coh := Coh.reset, host := HostIf.reset, out := []
    media := List.replicate 4 Engine.reset, sched := Sched.reset, cores := List.replicate 256 Core.reset
    hatches := [], ops := [], freeze := List.replicate 64 FreezeEnt.reset, clock := 0, arg := {}, inbox := []
    turns := [], net := [], parked := [], cur := none, pipe := 0, stalled := [], dry := [], draws := 0, nextId := 1
    wants := [] }

end Sys2Proof.Machine
end

