-- ==== Sys2Proof/Machine/Bits.lean ====
section
/-! DEFINITION. Bytes, bit fields and lane sets: the helpers that every other file uses. -/

namespace Sys2Proof.Machine

/-- The bytes of a number, low byte first (R5). -/
def natBytes : Nat → Nat → List Byte
  | 0, _ => []
  | n + 1, v => BitVec.ofNat 8 v :: natBytes n (v / 256)

/-- The number of a list of bytes, low byte first (R5). -/
def bytesNat : List Byte → Nat
  | [] => 0
  | b :: r => b.toNat + 256 * bytesNat r

/-- n bytes of a list from an offset; bytes past its end are zero. -/
def sliceBytes (bs : List Byte) (off n : Nat) : List Byte := (List.range n).map (fun i => bs.getD (off + i) 0)

/-- A list of bytes with `new` written at an offset. -/
def spliceBytes (bs : List Byte) (off : Nat) (new : List Byte) : List Byte :=
  bs.take off ++ new ++ bs.drop (off + new.length)

/-- A little-endian field of a list of bytes. -/
def fieldAt (bs : List Byte) (off n : Nat) : Nat := bytesNat (sliceBytes bs off n)

/-- Bits [hi:lo] of a number. -/
def bitsOf (v hi lo : Nat) : Nat := v / 2 ^ lo % 2 ^ (hi + 1 - lo)

def bitAt (v i : Nat) : Bool := v / 2 ^ i % 2 == 1

/-- An unsigned number of w bits read as signed. -/
def sxt (w v : Nat) : Int := if 2 ^ (w - 1) ≤ v % 2 ^ w then (v % 2 ^ w : Nat) - (2 ^ w : Nat) else (v % 2 ^ w : Nat)

/-- An integer modulo 2^w. -/
def wrapN (w : Nat) (x : Int) : Nat := (x % (2 ^ w : Nat)).toNat

def natOfBool (b : Bool) : Nat := if b then 1 else 0

/-- The lanes of a set, ascending. -/
def lanesOf (m : LaneSet) : List Nat := (List.range 96).filter (fun l => m.getLsbD l)

/-- The set of one lane. -/
def laneBit (l : Nat) : LaneSet := BitVec.ofNat 96 (2 ^ l)

/-- The set of a list of lanes. -/
def laneSet (ls : List Nat) : LaneSet := ls.foldl (fun m l => m ||| laneBit l) 0

def allLanes : LaneSet := BitVec.allOnes 96

/-- The visible lanes 0 to 47 of protected mode (R195). -/
def protLanes : LaneSet := BitVec.ofNat 96 (2 ^ 48 - 1)

/-- A list of n elements by index. -/
def tabulate {α : Type} (n : Nat) (f : Nat → α) : List α := (List.range n).map f

/-- The first element with a property, and the others in order. -/
def takeFirst {α : Type} (p : α → Bool) : List α → Option (α × List α)
  | [] => none
  | x :: r => if p x then some (x, r) else (takeFirst p r).map (fun (y, q) => (y, x :: q))

/-- The element with the least key; the earliest among equals. -/
def leastBy {α : Type} (key : α → Nat) : List α → Option α
  | [] => none
  | x :: r =>
    match leastBy key r with
    | none => some x
    | some y => if key x ≤ key y then some x else some y

/-- The element with the greatest key; the earliest among equals. -/
def greatestBy {α : Type} (key : α → Nat) : List α → Option α
  | [] => none
  | x :: r =>
    match greatestBy key r with
    | none => some x
    | some y => if key y ≤ key x then some x else some y

/-- Applies f to every element with a property. -/
def updWhere {α : Type} (p : α → Bool) (f : α → α) (xs : List α) : List α := xs.map (fun x => if p x then f x else x)

/-- A list without repeats, keeping first occurrences. -/
def dedup {α : Type} [BEq α] : List α → List α
  | [] => []
  | x :: r => x :: (dedup r).filter (fun y => !(y == x))

/-- Counters of 32 bits saturate (R56, R94, R98). -/
def satInc (n : Nat) : Nat := min (n + 1) 0xFFFFFFFF

def satAdd (n k : Nat) : Nat := min (n + k) 0xFFFFFFFF

end Sys2Proof.Machine
end

