-- ==== Sys2Proof/Machine/Keccak.lean ====
section
/-! DEFINITION. SHA3-256 (FIPS 202), which the attestation report uses (05 R112). -/

namespace Sys2Proof.Machine

/-- The 25 lanes of the state, lane (x, y) at x + 5 y. -/
abbrev KState := List (BitVec 64)

def KState.lane (a : KState) (x y : Nat) : BitVec 64 := a.getD (x % 5 + 5 * (y % 5)) 0

/-- A state from its lanes by column and row. -/
def kTab (f : Nat → Nat → BitVec 64) : KState := (List.range 25).map (fun i => f (i % 5) (i / 5))

def kTheta (a : KState) : KState :=
  let c := (List.range 5).map (fun x => (List.range 5).foldl (fun v y => v ^^^ a.lane x y) 0)
  let d := (List.range 5).map (fun x => c.getD ((x + 4) % 5) 0 ^^^ (c.getD ((x + 1) % 5) 0).rotateLeft 1)
  kTab (fun x y => a.lane x y ^^^ d.getD x 0)

/-- Rotation offsets of rho, lane (x, y) at x + 5 y. -/
def kRho : List Nat :=
  [0, 1, 62, 28, 27, 36, 44, 6, 55, 20, 3, 10, 43, 25, 39, 41, 45, 15, 21, 8, 18, 2, 61, 56, 14]

/-- Rho and then pi. -/
def kRhoPi (a : KState) : KState :=
  kTab (fun x y => (a.lane (x + 3 * y) x).rotateLeft (kRho.getD ((x + 3 * y) % 5 + 5 * x) 0))

def kChi (a : KState) : KState := kTab (fun x y => a.lane x y ^^^ (~~~(a.lane (x + 1) y) &&& a.lane (x + 2) y))

/-- The round constants. -/
def kConst : List Nat :=
  [0x0000000000000001, 0x0000000000008082, 0x800000000000808A, 0x8000000080008000, 0x000000000000808B, 0x0000000080000001,
    0x8000000080008081, 0x8000000000008009, 0x000000000000008A, 0x0000000000000088, 0x0000000080008009, 0x000000008000000A] ++
  [0x000000008000808B, 0x800000000000008B, 0x8000000000008089, 0x8000000000008003, 0x8000000000008002, 0x8000000000000080,
    0x000000000000800A, 0x800000008000000A, 0x8000000080008081, 0x8000000000008080, 0x0000000080000001, 0x8000000080008008]

def kRound (a : KState) (rc : Nat) : KState :=
  (kChi (kRhoPi (kTheta a))).zipIdx.map (fun x => if x.2 == 0 then x.1 ^^^ BitVec.ofNat 64 rc else x.1)

def keccakF (a : KState) : KState := kConst.foldl kRound a

/-- The rate of SHA3-256 in bytes. -/
def shaRate : Nat := 136

/-- One block of the rate absorbed. -/
def shaAbsorb (a : KState) (block : List Byte) : KState :=
  keccakF (a.zipIdx.map (fun x => if x.2 < 17 then x.1 ^^^ BitVec.ofNat 64 (fieldAt block (8 * x.2) 8) else x.1))

/-- The padded message. -/
def shaPad (m : List Byte) : List Byte :=
  let z := shaRate - 1 - m.length % shaRate
  if z == 0 then m ++ [0x86] else m ++ [0x06] ++ List.replicate (z - 1) 0 ++ [0x80]

def sha3_256 (m : List Byte) : List Byte :=
  let p := shaPad m
  let blocks := (List.range (p.length / shaRate)).map (fun i => sliceBytes p (shaRate * i) shaRate)
  ((blocks.foldl shaAbsorb (List.replicate 25 0)).take 4).flatMap (fun l => natBytes 8 l.toNat)

end Sys2Proof.Machine
end

