-- ==== Sys2Proof/Machine/Fields.lean ====
section
/-! DEFINITION. The field and specifier rules of step 6 of R272, as one description for each opcode: which operand kinds
each slot takes, which types, control subfields and guards it accepts. The first rule broken, in ascending order of the
field's lowest bit, gives the cause and slot codes of R272. -/

namespace Sys2Proof

/-! The fields of CTL (R276), of the register form's upper word (R275) and the branch offset (R277). -/

def AForm.rm (f : AForm) : Nat := f.ctl.toNat % 8
def AForm.satBit (f : AForm) : Bool := f.ctl.getLsbD 3
def AForm.nanBit (f : AForm) : Bool := f.ctl.getLsbD 4
def AForm.sub (f : AForm) : Nat := f.ctl.toNat / 32
def AForm.immForm (f : AForm) : Bool := f.len96 && f.srcb == 0xF0#8
def AForm.moda (f : AForm) : BitVec 12 := f.ext.extractLsb' 0 12
def AForm.modb (f : AForm) : BitVec 12 := f.ext.extractLsb' 12 12
def AForm.cLast (f : AForm) : Bool := f.ext.getLsbD 24
def AForm.cTrap (f : AForm) : Bool := f.ext.getLsbD 25
def AForm.ctl2 (f : AForm) : BitVec 6 := f.ext.extractLsb' 26 6
def AForm.regForm (f : AForm) : Bool := f.len96 && !f.immForm

def AForm.tyN (f : AForm) : Nat := f.ty.toNat
def AForm.imm (f : AForm) : Nat := f.ext.toNat

/-- The length of an instruction in bytes. -/
def AForm.len (f : AForm) : Nat := if f.len96 then 12 else 8
def BForm.len (f : BForm) : Nat := if f.len96 then 12 else 8

def MForm.rm (f : MForm) : Nat := f.ctl.toNat % 8
def MForm.satBit (f : MForm) : Bool := f.ctl.getLsbD 3
def MForm.nanBit (f : MForm) : Bool := f.ctl.getLsbD 4
def MForm.sub (f : MForm) : Nat := f.ctl.toNat / 32

/-- The branch offset field of a B-format instruction other than brt, sign-extended (R277). -/
def BForm.off (f : BForm) : Int := if f.len96 then f.ext.toInt else f.off21.toInt

end Sys2Proof

namespace Sys2Proof.Machine

/-- A broken field rule: the ILLEGAL_OPERAND cause and the slot code (R272). -/
structure FieldFault where
  cause : Nat
  slot : Nat
  deriving DecidableEq, Repr

/-- What the checks read beside the word: a user context, the hatch's tiles, protected mode (R272, R182, R195). -/
structure FieldCtx where
  user : Bool
  tiles : Nat
  prot : Bool
  deriving DecidableEq, Repr

/-- The operand kinds of R282 that a slot takes, and how many consecutive registers an operand names. -/
structure SlotRule where
  used : Bool := true
  v : Bool := false
  s : Bool := false
  p : Bool := false
  acc : Bool := false
  lane : Bool := false
  zero : Bool := false
  ones : Bool := false
  imm : Bool := false
  null : Bool := false
  width : Nat := 1
  deriving DecidableEq, Repr

def slotNone : SlotRule := { used := false }
def slotV : SlotRule := { v := true }
def slotVN : SlotRule := { v := true, null := true }
def slotS : SlotRule := { s := true }
def slotSN : SlotRule := { s := true, null := true }
def slotVS : SlotRule := { v := true, s := true }
def slotVSN : SlotRule := { v := true, s := true, null := true }
def slotVSK : SlotRule := { v := true, s := true, lane := true, zero := true, ones := true }
def slotVSKI : SlotRule := { v := true, s := true, lane := true, zero := true, ones := true, imm := true }
def slotSZ : SlotRule := { s := true, zero := true }
def slotSZO : SlotRule := { s := true, zero := true, ones := true }
def slotSK : SlotRule := { s := true, lane := true, zero := true, ones := true }
def slotP : SlotRule := { p := true }
def slotAcc : SlotRule := { acc := true }
def slotVSZ : SlotRule := { v := true, s := true, zero := true }
def slotVZ : SlotRule := { v := true, zero := true }
def slotIvl : SlotRule := { v := true, s := true, zero := true, ones := true }
def slotIvlI : SlotRule := { v := true, s := true, zero := true, ones := true, imm := true }
def SlotRule.two (r : SlotRule) : SlotRule := { r with width := 2 }
def SlotRule.four (r : SlotRule) : SlotRule := { r with width := 4 }
def SlotRule.times (r : SlotRule) (w : Nat) : SlotRule := { r with width := w }

/-- The operand a specifier names (R282). -/
inductive SpecKind where
  | v (r : Nat) | s (r : Nat) | p (r : Nat) | acc (r : Nat) | lane | zero | ones | imm | null | reserved
  deriving DecidableEq, Repr

def specKind (x : BitVec 8) : SpecKind :=
  let n := x.toNat
  if n < 0x40 then .v n
  else if n < 0xC0 then .s (n - 0x40)
  else if n < 0xC8 then .p (n - 0xC0)
  else if n < 0xD0 then .acc (n - 0xC8)
  else if n == 0xD0 then .lane
  else if n == 0xD1 then .zero
  else if n == 0xD2 then .ones
  else if n == 0xF0 then .imm
  else if n == 0xFF then .null
  else .reserved

/-- Whether a group of w scalars from base takes in s3 (R284). -/
def groupHasS3 (base w : Nat) : Bool := decide (base ≤ 3) && decide (3 < base + w)

/-- R282 to R285 for one specifier: the cause of its first fault. -/
def specCause (ctx : FieldCtx) (r : SlotRule) (isDst immHere : Bool) (x : BitVec 8) : Option Nat :=
  if !r.used then (if x == 0 then none else some 0x01)
  else match specKind x with
    | .reserved => some 0x02
    | .imm => if immHere then (if r.imm then none else some 0x03) else some 0x11
    | .v n => if !r.v then some 0x03 else if n % r.width == 0 then none else some 0x04
    | .s n =>
      if !r.s then some 0x03 else if n % r.width != 0 then some 0x04
      else if isDst && groupHasS3 n r.width then some 0x13 else none
    | .p _ => if r.p then none else some 0x03
    | .acc n => if !r.acc then some 0x03 else if n < ctx.tiles then none else some 0x10
    | .lane => if r.lane then none else some 0x03
    | .zero => if r.zero then none else some 0x03
    | .ones => if r.ones then none else some 0x03
    | .null => if r.null then none else some 0x03

def isVec (x : BitVec 8) : Bool := match specKind x with
  | .v _ => true
  | _ => false

def isScal (x : BitVec 8) : Bool := match specKind x with
  | .s _ => true
  | _ => false

def isPred (x : BitVec 8) : Bool := match specKind x with
  | .p _ => true
  | _ => false

def specIs (x : BitVec 8) (k : SpecKind) : Bool := specKind x == k

/-- R285: a last-use bit stands on vector specifiers only; on an unused field it must be zero (R283). -/
def lastCause (r : SlotRule) (x : BitVec 8) (bit : Bool) : Option Nat :=
  if !bit then none else if !r.used then some 0x01 else if isVec x then none else some 0x05

/-- R285: an empty-trap bit stands on vector, scalar and predicate specifiers. -/
def trapCause (r : SlotRule) (x : BitVec 8) (bit : Bool) : Option Nat :=
  if !bit then none else if !r.used then some 0x01
  else if isVec x || isScal x || isPred x then none else some 0x05

/-- Segment sizes of R288; 0 for a reserved code. -/
def segSize (code : Nat) : Nat := [1, 2, 3, 4, 6, 8, 12, 16, 24, 32, 48, 96].getD code 0

/-- R288, R289: cause 0x06 for a modifier that is not accepted. -/
def modCause (ctx : FieldCtx) (vecHere : Bool) (m : BitVec 12) : Option Nat :=
  if m == 0 then none
  else if !vecHere then some 0x06
  else
    let cls := (m >>> 10).toNat
    let seg := segSize ((m >>> 6).toNat % 16)
    let d := m.toNat % 64
    if cls == 0 || seg == 0 || (ctx.prot && seg == 96) || decide (seg ≤ d) then some 0x06
    else if cls == 2 && [3, 6, 12, 24, 48, 96].contains seg then some 0x06
    else none

/-- How an opcode uses the RM subfield (R231, R276, R294, R354). -/
inductive RmRule where
  | unused | mode | conv | interval | scope
  deriving DecidableEq, Repr

def rmCause (r : RmRule) (rm : Nat) : Option Nat :=
  match r with
  | .unused => if rm == 0 then none else some 0x01
  | .mode => if rm < 4 then none else some 0x08
  | .interval => if rm < 4 then none else some 0x08
  | .conv => if rm < 5 then none else some 0x08
  | .scope => if rm < 5 then none else some 0x09

/-- What an A-format opcode accepts. `c` is the source C slot of a three-source opcode; otherwise `aux` says which
AUX values are accepted. `subOk`, `typeOk` judge SUB and TYPE. `extra` holds the rules that span fields, each at
the place of its lowest field: on D, A, B, TYPE and AUX. -/
structure ARule where
  len64 : Bool := true
  len96 : Bool := true
  dst : SlotRule := slotNone
  a : SlotRule := slotNone
  b : SlotRule := slotNone
  c : SlotRule := slotNone
  three : Bool := false
  auxOk : Nat → Bool := fun x => x == 0
  guard : Bool := true
  typeOk : Nat → Bool := fun t => t == 0
  rm : RmRule := .unused
  sat : Bool := false
  nan : Bool := false
  subOk : Nat → Bool := fun x => x == 0
  ctlFree : Bool := false
  mods : Bool := true
  dstExtra : Option Nat := none
  aExtra : Option Nat := none
  bExtra : Option Nat := none
  typeExtra : Option Nat := none
  subExtra : Option Nat := none
  auxExtra : Option FieldFault := none

/-- The first fault of a list of checks in field order. -/
def firstFault : List (Option FieldFault) → Option FieldFault
  | [] => none
  | some x :: _ => some x
  | none :: r => firstFault r

def ff (slot : Nat) (c : Option Nat) : Option FieldFault := c.map (fun x => ⟨x, slot⟩)

def orElse (a b : Option Nat) : Option Nat := match a with
  | some x => some x
  | none => b

/-- R287, and R295, R374, R417 for opcodes that take no guard. -/
def guardFault (allowed : Bool) (gidx : BitVec 3) (gsense : BitVec 2) : Option FieldFault :=
  if !allowed then (if gidx == 0 && gsense == 0 then none else some ⟨0x13, 0⟩)
  else if gsense == 0 && gidx != 0 then some ⟨0x0E, 0⟩ else none

/-- A vector instruction: some specifier it uses is a vector register or the lane index (R286). -/
def aHasVector (r : ARule) (f : AForm) : Bool :=
  (r.a.used && (isVec f.srca || specIs f.srca .lane)) ||
  (r.b.used && (isVec f.srcb || specIs f.srcb .lane)) ||
  (r.three && (isVec f.aux || specIs f.aux .lane))

/-- Whether cause 0x12 does not apply: red, vote, pmov, pcnt, lfirst (R286). -/
def scalarDstOk (op : Nat) : Bool := [0x97, 0x19, 0x9D, 0x9E, 0x94].contains op

/-- Step 6 of R272 for an A-format instruction. -/
def aFault (ctx : FieldCtx) (op : Nat) (r : ARule) (f : AForm) : Option FieldFault :=
  let b := fun (c : Bool) (x : Nat) => if c then none else some (FieldFault.mk x 0)
  firstFault [
    ff 1 (specCause ctx r.dst true false f.dst),
    ff 1 (if isScal f.dst && r.dst.used && aHasVector r f && !scalarDstOk op then some 0x12 else none),
    ff 1 r.dstExtra,
    ff 2 (specCause ctx r.a false false f.srca),
    ff 2 r.aExtra,
    ff 2 (lastCause r.a f.srca f.aLast),
    ff 2 (trapCause r.a f.srca f.aTrap),
    ff 3 (specCause ctx r.b false f.len96 f.srcb),
    ff 3 r.bExtra,
    ff 3 (lastCause r.b f.srcb f.bLast),
    ff 3 (trapCause r.b f.srcb f.bTrap),
    guardFault r.guard f.gidx f.gsense,
    b (r.typeOk f.ty.toNat) 0x07,
    ff 0 r.typeExtra,
    (if r.ctlFree then none else firstFault [
      ff 0 (rmCause r.rm f.rm),
      b (r.sat || !f.satBit) 0x01,
      b (r.nan || !f.nanBit) 0x01,
      b (r.subOk f.sub) 0x01]),
    ff 0 r.subExtra,
    b (!f.rsv) 0x01,
    (if r.three then ff 4 (specCause ctx r.c false false f.aux) else b (r.auxOk f.aux.toNat) 0x01),
    r.auxExtra,
    (if !f.regForm then none else firstFault [
      ff 2 (modCause ctx (r.a.used && r.mods && isVec f.srca) f.moda),
      ff 3 (modCause ctx (r.b.used && r.mods && isVec f.srcb) f.modb),
      (if r.three then ff 4 (lastCause r.c f.aux f.cLast) else b (!f.cLast) 0x01),
      (if r.three then ff 4 (trapCause r.c f.aux f.cTrap) else b (!f.cTrap) 0x01),
      b (f.ctl2 == 0) 0x01])]

/-- Register width of an operand whose type is one of the 64-bit codes (R226). -/
def tyRegs (t : Nat) : Nat := if t == 0xA || t == 0xB || t == 0xC then 2 else 1

def isW32 (t : Nat) : Bool := t == 1 || t == 2
def isPk (t : Nat) : Bool := decide (3 ≤ t) && decide (t ≤ 6)
def isW32Pk (t : Nat) : Bool := decide (1 ≤ t) && decide (t ≤ 6)
def isSigned (t : Nat) : Bool := t == 2 || t == 4 || t == 6 || t == 0xC
def isW64 (t : Nat) : Bool := t == 0xB || t == 0xC
def isF (t : Nat) : Bool := t == 7 || t == 8 || t == 9
def isIntTy (t : Nat) : Bool := isW32Pk t || isW64 t

/-- How cvti combines a source and a destination type (R336). -/
inductive CvtiRow where
  | whole | pack | select | same | bad
  deriving DecidableEq, Repr

def cvtiRow (src dst : Nat) : CvtiRow :=
  let s32 := isW32 src
  let s16 := src == 3 || src == 4
  let s8 := src == 5 || src == 6
  let d32 := isW32 dst
  let d16 := dst == 3 || dst == 4
  let d8 := dst == 5 || dst == 6
  if (s32 || isW64 src) && (d32 || isW64 dst) then .whole
  else if s32 && d16 then .pack
  else if s16 && d8 then .pack
  else if s16 && d32 then .select
  else if s8 && d16 then .select
  else if (s16 && d16 || s8 && d8) && src != dst then .same
  else .bad

/-- How cvt combines a source and a destination type (R349): `.select` is f16x2 or bf16x2 to f32. -/
def cvtRow (src dst : Nat) : CvtiRow :=
  if src == 7 && dst == 0xA || src == 0xA && dst == 7 then .whole
  else if src == 7 && (dst == 8 || dst == 9) then .pack
  else if (src == 8 || src == 9) && dst == 7 then .select
  else if src == 8 && dst == 9 || src == 9 && dst == 8 then .same
  else .bad

/-- A widening row of cvt (R349). -/
def cvtWidens (src dst : Nat) : Bool := src == 7 && dst == 0xA || (src == 8 || src == 9) && dst == 7

/-- How cvtfi (R350) reads its source: the accepted pairs. -/
def cvtfiOk (src dst : Nat) : Bool := (isF src || src == 0xA) && (isW32 dst || isW64 dst)

/-- The accepted pairs of cvtif (R350). -/
def cvtifOk (src dst : Nat) : Bool :=
  (isW32 src || isW64 src) && (dst == 7 || dst == 0xA || (dst == 8 || dst == 9) && isW32 src)

/-- The special registers of R254 that rdsr and wrsr reach: readable numbers and those a wrsr is not refused on. -/
def srListed (n : Nat) : Bool := decide (n ≤ 0x19)
def srWritable (n : Nat) : Bool := n == 2 || n == 3 || decide (4 ≤ n) && decide (n ≤ 0xB) || n == 0xF
def srHandler (n : Nat) : Bool := decide (4 ≤ n) && decide (n ≤ 0xB)

def intRule (op : Nat) (f : AForm) : ARule :=
  let t := f.ty.toNat
  let sub01 : Nat → Bool := fun x => decide (x ≤ 1)
  let bin : ARule := { dst := slotVSN, a := slotVSK, b := slotVSKI, typeOk := isW32Pk }
  let una : ARule := { dst := slotVSN, a := slotVSK, typeOk := fun x => x == 0 }
  let three : ARule :=
    { len64 := false, three := true, dst := slotVSN, a := slotVSK, b := slotVSKI, c := slotVSK, typeOk := isW32Pk }
  let b32 : Nat → Bool := fun x => x == 0
  match op with
  | 0x20 => { bin with sat := true }
  | 0x21 => { bin with sat := true }
  | 0x22 => { bin with dst := slotVN, typeOk := isW32, subOk := sub01, auxOk := fun x => decide (x < 8) }
  | 0x23 => { bin with dst := slotVN, typeOk := isW32, subOk := sub01, auxOk := fun x => decide (x < 8) }
  | 0x24 => { bin with dst := slotVSN.two, a := slotVSK.two, b := slotVSKI.two, typeOk := isW64, sat := true }
  | 0x25 => { bin with dst := slotVSN.two, a := slotVSK.two, b := slotVSKI.two, typeOk := isW64, sat := true }
  | 0x26 => { bin with sat := true }
  | 0x27 => { bin with typeOk := fun x => isW32 x || x == 3 || x == 4 }
  | 0x28 => { bin with dst := slotVSN.two, typeOk := isW32 }
  | 0x29 => { three with sat := true }
  | 0x2A => { three with dst := slotVSN.two, c := slotVSK.two, typeOk := isW32 }
  | 0x2B => { bin with typeOk := isW32, sat := true, subOk := sub01 }
  | 0x2C => { bin with typeOk := isW32, subOk := sub01 }
  | 0x2D => bin
  | 0x2E => bin
  | 0x2F => three
  | 0x30 => { una with typeOk := fun x => x == 2 || x == 4 || x == 6, sat := true }
  | 0x31 => { una with typeOk := fun x => x == 2 || x == 4 || x == 6, sat := true }
  | 0x32 => { bin with typeOk := b32 }
  | 0x33 => { bin with typeOk := b32 }
  | 0x34 => { bin with typeOk := b32 }
  | 0x35 => { bin with typeOk := b32 }
  | 0x36 => una
  | 0x37 => { three with typeOk := b32, ctlFree := true }
  | 0x38 => { bin with typeOk := fun x => decide (x ≤ 6) }
  | 0x39 => { bin with typeOk := fun x => x == 0 || x == 1 || x == 3 || x == 5 }
  | 0x3A => { bin with typeOk := fun x => x == 2 || x == 4 || x == 6 }
  | 0x3B => { bin with typeOk := b32 }
  | 0x3C => { three with typeOk := b32, subOk := sub01 }
  | 0x3D => { bin with dst := slotVSN.two, a := slotVSK.two, typeOk := isW64 }
  | 0x3E => { bin with dst := slotVSN.two, a := slotVSK.two, typeOk := isW64 }
  | 0x3F => { bin with typeOk := isW32 }
  | 0x40 => { three with typeOk := b32 }
  | 0x41 => una
  | 0x42 => { bin with typeOk := fun x => x == 2 }
  | 0x43 => una
  | 0x44 => una
  | 0x45 => una
  | 0x46 => una
  | 0x47 => { bin with typeOk := b32 }
  | 0x48 => { bin with
      dst := slotP, typeOk := fun x => decide (x ≤ 2), subOk := fun x => decide (x ≤ 5)
      typeExtra := if t == 0 && decide (2 ≤ f.sub) && decide (f.sub ≤ 5) then some 0x07 else none }
  | 0x49 => { bin with
      dst := slotP, a := slotVSK.two, b := slotVSKI.two, typeOk := isW64, subOk := fun x => decide (x ≤ 5) }
  | 0x4A => { three with dst := slotVN, a := slotP, typeOk := b32, subOk := fun x => decide (x ≤ 2) }
  | 0x4B =>
    if f.immForm then
      { dst := slotVSN, a := slotVSK, b := slotVSKI, typeOk := fun x => decide (x ≤ 9)
        aExtra := if specIs f.srca .zero then none else some 0x01 }
    else { una with typeOk := fun x => decide (x ≤ 9), bExtra := if f.srcb == 0xF0#8 then some 0x11 else none }
  | 0x4C =>
    if f.immForm then
      { dst := slotVSN.two, a := slotVSK.two, b := slotVSKI, typeOk := fun x => decide (0xA ≤ x) && decide (x ≤ 0xC)
        aExtra := if specIs f.srca .zero then none else some 0x01 }
    else { dst := slotVSN.two, a := slotVSK.two, typeOk := fun x => decide (0xA ≤ x) && decide (x ≤ 0xC) }
  | 0x4D => { bin with
      dst := slotVSN.two, a := slotVSZ.two, typeOk := isW32, auxOk := fun x => decide (x < 8) }
  | 0x4E => three
  | 0x4F => { three with typeOk := fun x => x == 3 || x == 4, sat := true, subOk := sub01 }
  | 0x50 => { three with typeOk := fun x => x == 5 || x == 6, sat := true, subOk := sub01 }
  | 0x51 => { three with typeOk := fun x => x == 5 || x == 6, sat := true, subOk := sub01 }
  | _ =>
    let src := f.aux.toNat % 16
    let row := cvtiRow src t
    { dst := slotVSN.times (tyRegs t), a := slotVSK.times (tyRegs src)
      b := if row == .pack then slotVSK else slotNone
      typeOk := isIntTy, typeExtra := if row == .bad then some 0x07 else none
      sat := true, subOk := fun x => x == 0 || x == 1 && row == .select
      auxOk := fun x => decide (x < 16) }

def floatRule (op : Nat) (f : AForm) : ARule :=
  let t := f.ty.toNat
  let w := tyRegs t
  let isFd : Nat → Bool := fun x => isF x || x == 0xA
  let f64 : Nat → Bool := fun x => x == 0xA
  let f32 : Nat → Bool := fun x => x == 7
  let cond : Nat → Bool := fun x => decide (x ≤ 5)
  let src := f.aux.toNat % 16
  let bin : ARule := { dst := slotVSN, a := slotVSK, b := slotVSKI, typeOk := isF }
  let una : ARule := { dst := slotVSN, a := slotVSK, typeOk := isF }
  let d2 : ARule := { dst := slotVSN.two, a := slotVSK.two, b := slotVSKI.two, typeOk := f64 }
  let three : ARule :=
    { len64 := false, three := true, dst := slotVSN, a := slotVSK, b := slotVSKI, c := slotVSK, typeOk := isF }
  match op with
  | 0x53 => { bin with rm := .mode }
  | 0x54 => { bin with rm := .mode }
  | 0x55 => { bin with rm := .mode }
  | 0x56 => { three with rm := .mode }
  | 0x57 => bin
  | 0x58 => bin
  | 0x59 => three
  | 0x5A => three
  | 0x5B => { una with dst := slotVSN.times w, a := slotVSK.times w, typeOk := isFd }
  | 0x5C => { una with dst := slotVSN.times w, a := slotVSK.times w, typeOk := isFd }
  | 0x5D => { bin with dst := slotVSN.times w, a := slotVSK.times w, b := slotVSKI.times w, typeOk := isFd }
  | 0x5E => { bin with dst := slotP, typeOk := f32, subOk := cond }
  | 0x5F => { bin with dst := slotP, a := slotVSK.times w, typeOk := fun x => x == 7 || x == 0xA }
  | 0x60 => { una with dst := slotVSN.times w, a := slotVSK.times w, typeOk := isFd, rm := .mode }
  | 0x61 => { bin with dst := slotVSN.times w, a := slotVSK.times w, typeOk := isFd, rm := .mode }
  | 0x62 => { una with dst := slotVSN.times w, a := slotVSK.times w, typeOk := isFd }
  | 0x63 => { bin with rm := .mode }
  | 0x6F =>
    let row := cvtRow src t
    { dst := slotVSN.times w, a := slotVSK.times (tyRegs src), b := if row == .pack then slotVSK else slotNone
      typeOk := isFd, typeExtra := if row == .bad then some 0x07 else none
      rm := .conv, nan := !cvtWidens src t, subOk := fun x => x == 0 || x == 1 && row == .select
      auxOk := fun x => decide (x < 16) }
  | 0x70 =>
    { dst := slotVSN.times w, a := slotVSK.times (tyRegs src)
      typeOk := fun x => isW32 x || isW64 x, typeExtra := if cvtfiOk src t then none else some 0x07
      rm := .conv, subOk := fun x => x == 0 || x == 1 && (src == 8 || src == 9), auxOk := fun x => decide (x < 16) }
  | 0x71 =>
    { dst := slotVSN.times w, a := slotVSK.times (tyRegs src)
      b := if t == 8 || t == 9 then slotVSK else slotNone
      typeOk := isFd, typeExtra := if cvtifOk src t then none else some 0x07
      rm := .conv, auxOk := fun x => decide (x < 16) }
  | 0x72 =>
    let int := decide (0xA ≤ src)
    let small := decide (4 ≤ src) && src != 7
    { dst := { v := true, null := true, width := if src == 7 || src == 8 || src == 9 then 2 else 1 }, a := slotV
      mods := false
      typeOk := fun x => x == 7 || x == 2
      typeExtra := if decide (0xC < src) || (int != (t == 2)) then some 0x07 else none
      rm := .conv, sat := src != 0xC, nan := int || !small
      auxOk := fun x => decide (x < 16) }
  | 0x73 =>
    let int := decide (0xA ≤ src)
    { dst := slotVN, a := slotV, b := if src == 7 || src == 8 || src == 9 then slotV else slotNone
      mods := false
      typeOk := fun x => x == 7 || x == 2
      typeExtra := if decide (0xC < src) || (int != (t == 2)) then some 0x07 else none
      auxOk := fun x => decide (x < 16) }
  | 0x74 => { three with typeOk := f32, rm := .mode, subOk := fun x => decide (x ≤ 1) }
  | 0x75 => { three with typeOk := f32, rm := .mode, subOk := fun x => decide (x ≤ 3) }
  | 0x76 => { d2 with rm := .mode }
  | 0x77 => { d2 with rm := .mode }
  | 0x78 => { d2 with len64 := false, three := true, c := slotVSK.two, rm := .mode }
  | 0x79 => d2
  | 0x7A => d2
  | 0x7B => { d2 with dst := slotP, subOk := cond }
  | 0x7C => { d2 with rm := .mode }
  | 0x7D => { d2 with b := slotNone, rm := .mode }
  | 0x7E => { d2 with b := slotNone, rm := .mode }
  | 0x7F => { d2 with b := slotNone, rm := .mode }
  | _ => { una with rm := .mode }

/-- Registers of an interval operand: a pair under f64 (R355). -/
def ivlRule (op : Nat) (f : AForm) : ARule :=
  let w := tyRegs f.ty.toNat
  let ty : Nat → Bool := fun x => x == 7 || x == 0xA
  let iD := slotV.times w
  let iS := slotIvl.times w
  let iB := slotIvlI.times w
  let pForm := 4 ≤ f.sub
  let pAux : Nat → Bool := fun x => if pForm then decide (x < 8) else x == 0
  let pSub : Nat → Bool := fun x => x == 0 || x == 4
  let bin : ARule := { dst := iD, a := iS, b := iB, typeOk := ty, rm := .interval }
  let una : ARule := { dst := iD, a := iS, typeOk := ty, rm := .interval }
  match op with
  | 0x80 => { bin with
      subOk := fun x => x == 0 || x == 1 || x == 4 || x == 5, auxOk := pAux
      bExtra := if f.sub % 2 == 1 && !f.immForm then some 0x03 else none }
  | 0x81 => { una with subOk := pSub, auxOk := pAux }
  | 0x82 => bin
  | 0x83 => bin
  | 0x84 => bin
  | 0x85 => una
  | 0x86 => { bin with subOk := pSub, auxOk := pAux }
  | 0x87 => { una with subOk := pSub, auxOk := pAux }
  | 0x88 => bin
  | 0x89 => { bin with subOk := pSub, auxOk := pAux }
  | 0x8A => una
  | 0x8B => una
  | 0x8C => { una with subOk := fun x => decide (x ≤ 1) }
  | 0x8D => { bin with dst := slotP, subOk := fun x => decide (x ≤ 5) }
  | 0x8E => { una with
      auxOk := fun _ => true
      auxExtra :=
        let hi := f.aux
        match ff 4 (specCause ⟨false, 0, false⟩ iD true false hi) with
        | some x => some x
        | none => if f.dst == hi then some ⟨0x13, 0⟩ else none }
  | _ => { una with b := { s := true, zero := true, width := 2 } }

/-- A group of w scalars must end by s127 (R373, R314). -/
def scalGroupCause (x : BitVec 8) (w : Nat) (isDst : Bool) : Option Nat :=
  match specKind x with
  | .s n => if 128 < n + w then some 0x02 else if isDst && groupHasS3 n w then some 0x13 else none
  | _ => none

def laneRule (op : Nat) (f : AForm) (ctx : FieldCtx) : ARule :=
  let w := tyRegs f.ty.toNat
  let ty : Nat → Bool := fun x => x == 0 || x == 0xB
  let opTypes : Nat → Bool := fun x =>
    (decide (f.sub ≤ 2) || decide (5 < f.sub)) && (x == 1 || x == 2 || x == 7 || x == 0xA) || decide (2 < f.sub) && x == 0
  let segBad := ctx.prot && f.aux.toNat % 16 == 11
  match op with
  | 0x90 => { dst := slotV.times w, a := slotVSK.times w, b := slotV, typeOk := ty }
  | 0x91 => { dst := slotV.times w, a := slotVSK.times w, b := slotV, typeOk := ty
              dstExtra := if f.dst == f.srca then some 0x01 else none }
  | 0x92 => { dst := slotV.times w, a := slotV.times w, b := { s := true, imm := true }, typeOk := ty }
  | 0x93 => { dst := slotV.times w, a := slotV.times w, typeOk := ty }
  | 0x94 => { dst := slotVS.times w, a := ({ v := true, lane := true, zero := true, ones := true } : SlotRule).times w
              typeOk := ty }
  | 0x95 => { dst := slotV.times w, a := slotV.times w, b := slotP, typeOk := ty }
  | 0x96 => { dst := slotV.times w, a := slotV.times w, subOk := fun x => decide (x ≤ 5)
              typeOk := opTypes
              auxOk := fun x => decide (x < 32) && decide (x % 16 < 12)
              auxExtra := if segBad then some ⟨0x06, 0⟩ else none }
  | 0x97 => { dst := slotVS.times w, a := slotV.times w, subOk := fun x => decide (x ≤ 5)
              typeOk := opTypes
              auxOk := fun x => decide (x < 12)
              auxExtra := if segBad then some ⟨0x06, 0⟩ else none
              dstExtra := if isScal f.dst && f.aux.toNat != 11 && decide (f.aux.toNat < 12) then some 0x12 else none }
  | 0x98 => { dst := slotP, a := slotP, b := slotP }
  | 0x99 => { dst := slotP, a := slotP, b := slotP }
  | 0x9A => { dst := slotP, a := slotP, b := slotP }
  | 0x9B => { dst := slotP, a := slotP }
  | 0x9C =>
    { dst := slotP, a := slotVSK, subOk := fun x => decide (x ≤ 4)
      aExtra := if 1 ≤ f.sub ∧ f.sub ≤ 3 ∧ !specIs f.srca .zero then some 0x01 else none }
  | 0x9D =>
    { dst := { p := true, v := true, s := true }, a := { p := true, v := true, s := true }
      dstExtra := scalGroupCause f.dst 6 true
      aExtra := orElse (if isPred f.dst || isPred f.srca then none else some 0x03) (scalGroupCause f.srca 6 false) }
  | _ => { dst := slotVS, a := slotP, subOk := fun x => decide (x ≤ 2) }

/-- A control opcode in A64 (R295). -/
def ctlRule (op : Nat) (f : AForm) : ARule :=
  let base : ARule := { len96 := false, guard := false }
  let g : ARule := { len96 := false }
  let byteAux : Nat → Bool := fun _ => true
  match op with
  | 0x05 => { g with a := slotS.two }
  | 0x08 => { base with auxOk := byteAux }
  | 0x0B => { base with auxOk := fun x => decide (x < 8) }
  | 0x0F => { base with a := slotP }
  | 0x12 => g
  | 0x13 => { g with auxOk := byteAux }
  | 0x14 => { base with subOk := fun x => decide (x ≤ 1) }
  | 0x15 => { base with a := slotSZ.four }
  | 0x16 => { g with auxOk := byteAux }
  | 0x17 => { g with
      dst := slotS, auxOk := byteAux
      dstExtra := match specKind f.dst with
        | .s n => if f.aux.toNat == 0x0D then
            (if n % 8 != 0 then some 0x04 else if n == 0 then some 0x13 else none) else none
        | _ => none
      auxExtra := if srListed f.aux.toNat then none else some ⟨0x0F, 0⟩ }
  | 0x18 => { g with
      a := slotSZO, auxOk := byteAux
      auxExtra := if srWritable f.aux.toNat then none else some ⟨0x0F, 0⟩ }
  | 0x19 => { g with
      dst := slotS, a := slotP, subOk := fun x => decide (x ≤ 5)
      dstExtra := if f.sub == 4 || f.sub == 5 then scalGroupCause f.dst 3 true else none }
  | 0x1A => { g with auxOk := byteAux }
  | 0x1B => { g with
      a := slotSZ.two, b := slotSZ, subOk := fun x => decide (x ≤ 2)
      aExtra := if 1 ≤ f.sub ∧ f.sub ≤ 2 ∧ !specIs f.srca .zero then some 0x01 else none
      bExtra := if f.sub == 2 && !specIs f.srcb .zero then some 0x01 else none }
  | 0x1C => { g with
      a := slotSZ.two, rm := .scope, subOk := fun x => decide (x ≤ 3)
      aExtra := if 2 ≤ f.sub ∧ f.sub ≤ 3 ∧ !specIs f.srca .zero then some 0x01 else none }
  | 0x1D => { g with
      dst := slotSN, subOk := fun x => decide (x ≤ 1), auxOk := fun x => decide (1 ≤ x) && decide (x ≤ 12) }
  | 0x1E => { g with dst := slotS.two, a := slotS.two, subOk := fun x => decide (x ≤ 1) }
  | 0x1F => { g with dst := slotSN, a := slotS, b := slotS.two }
  | _ => base

/-- The rule of an A-format opcode. -/
def aRule (ctx : FieldCtx) (op : Nat) (f : AForm) : ARule :=
  if op < 0x20 then ctlRule op f
  else if op < 0x53 then intRule op f
  else if op < 0x80 then floatRule op f
  else if op < 0x90 then ivlRule op f
  else laneRule op f ctx

/-- Step 6 of R272 for an A-format instruction of opcode `op`. -/
def aFieldFault (ctx : FieldCtx) (op : Nat) (f : AForm) : Option FieldFault := aFault ctx op (aRule ctx op f) f

/-- Whether the opcode allows the A-format length (R291). -/
def aLenOk (op : Nat) (f : AForm) : Bool :=
  let r := aRule ⟨false, 8, false⟩ op f
  if f.len96 then r.len96 else r.len64

/-- Step 6 of R272 for a B-format instruction (R295, R299, R300, R303). -/
def bFieldFault (ctx : FieldCtx) (op : Nat) (f : BForm) : Option FieldFault :=
  let d := if op == 0x04 || op == 0x07 then slotS.two else slotNone
  let a := if op == 0x03 then slotP else if op == 0x06 || op == 0x07 then slotS.two
    else if op == 0x0C then slotSZO else slotNone
  let guard := op != 0x0C
  let offBad : Option FieldFault :=
    if op == 0x06 || op == 0x07 then (if 0 ≤ f.off ∧ f.off ≤ 255 then none else some ⟨0x01, 0⟩)
    else if op == 0x0D then (if 1 ≤ f.off ∧ f.off ≤ 4 then none else some ⟨0x01, 0⟩)
    else if op == 0x0E then (if f.off == 0 then none else some ⟨0x01, 0⟩)
    else if op == 0x0C then (if 4 * f.off ≤ (if f.len96 then 12 else 8) then some ⟨0x13, 0⟩ else none)
    else none
  firstFault [
    ff 1 (specCause ctx d true false f.dst),
    ff 2 (specCause ctx a false false f.srca),
    ff 2 (lastCause a f.srca f.aLast),
    ff 2 (trapCause a f.srca f.aTrap),
    ff 3 (specCause ctx slotNone false false f.srcb),
    ff 3 (lastCause slotNone f.srcb f.bLast),
    ff 3 (trapCause slotNone f.srcb f.bTrap),
    guardFault guard f.gidx f.gsense,
    (if f.len96 && op != 0x03 && f.off21 != 0 then some ⟨0x01, 0⟩ else none),
    offBad]

/-- Whether the opcode allows the B-format length (R291). -/
def bLenOk (op : Nat) (f : BForm) : Bool := f.len96 || op != 0x03

end Sys2Proof.Machine
end

