-- ==== Sys2Proof/Machine/FieldsM.lean ====
section
/-! DEFINITION. The field rules of the M128 opcodes 0x9F to 0xDF (12 R278 to R281, R292; 17 R374, R375; 18 R400, R401). -/

namespace Sys2Proof.Machine

/-- What an M128 opcode accepts. `dIsDst` says that D is written; `opxMask` holds the OPX bits used. -/
structure MRule where
  d : SlotRule := slotNone
  dIsDst : Bool := true
  addr : SlotRule := slotNone
  idx : SlotRule := slotNone
  x : SlotRule := slotNone
  twfOk : Nat → Bool := fun t => t == 0
  rm : RmRule := .unused
  sat : Bool := false
  nan : Bool := false
  subOk : Nat → Bool := fun x => x == 0
  imm : Bool := false
  scopeMax : Nat := 0
  ordOk : Nat → Bool := fun o => o == 0
  hint : Bool := false
  cnt : Nat := 0
  cwe : Bool := false
  opxMask : Nat := 0
  guard : Bool := true
  dExtra : Option Nat := none
  xExtra : Option Nat := none
  immExtra : Option Nat := none
  opxExtra : Option Nat := none

/-- The counter class of an opcode (R292). -/
def cntClass (op : Nat) : Nat :=
  if op ≤ 0xAF || op == 0xB2 || (0xB3 ≤ op && op ≤ 0xBB) || op == 0xC0 || op == 0xC1 then 2
  else if 0xC5 ≤ op && op ≤ 0xD2 then 1
  else if op == 0xDC || op == 0xDF then 3 else 0

/-- Registers of one lane's data at a memory width (R279). -/
def twfRegs (t : Nat) : Nat := if t == 5 then 2 else if t == 6 then 4 else 1

/-- Bytes of one lane's access at a memory width (R279). -/
def twfBytes (t : Nat) : Nat :=
  if t ≤ 1 then 1 else if t ≤ 3 then 2 else if t == 4 then 4 else if t == 5 then 8 else 16

def memTwf : Nat → Bool := fun t => decide (t ≤ 6)
def ordLd : Nat → Bool := fun o => o == 0 || o == 1
def ordSt : Nat → Bool := fun o => o == 0 || o == 2
def ordAny : Nat → Bool := fun o => decide (o ≤ 3)
def isAtomTy (t : Nat) : Bool := isW32 t || isW64 t
def isAtomfTy (t : Nat) : Bool := isF t || t == 0xA
def isCasTy (t : Nat) : Bool := t == 0 || isW32 t || isW64 t
def slotA2 : SlotRule := { v := true, s := true, width := 2 }
def slotS2 : SlotRule := { s := true, width := 2 }
def slotA32 : SlotRule := slotVSZ

/-- A field that spans registers past v63 (R380, R401). -/
def vecGroupCause (x : BitVec 8) (n : Nat) : Option Nat :=
  match specKind x with
  | .v r => if 64 < r + n then some 0x02 else none
  | _ => none

def memRule (op : Nat) (f : MForm) : MRule :=
  let t := f.twf.toNat
  let w := twfRegs t
  let tw := tyRegs t
  let aop := f.opx.toNat % 16
  let ld : MRule :=
    { d := slotVN.times w, addr := slotA2, idx := slotVSK, twfOk := memTwf, imm := true, scopeMax := 4
      ordOk := ordLd, hint := true, cnt := 2 }
  let st : MRule := { ld with d := slotVSK.times w, dIsDst := false, ordOk := ordSt }
  let at_ : MRule :=
    { d := slotVN.times tw, addr := slotA2, idx := slotVSK, x := slotVSK.times tw, twfOk := isAtomTy, imm := true
      scopeMax := 4, ordOk := ordAny, cnt := 2, opxMask := 15 }
  let atTwf : Nat → Bool := fun y => isAtomTy y && !((aop == 8 || aop == 9) && isSigned y)
  let atOpx : Option Nat := if aop ≤ 9 then none else some 0x01
  let atfOpx : Option Nat := if aop == 0 || aop == 2 || aop == 3 then none else some 0x01
  match op with
  | 0x9F => ld
  | 0xA0 => st
  | 0xA1 => { ld with addr := slotS2, idx := slotSZ }
  | 0xA2 => { st with addr := slotS2, idx := slotSZ }
  | 0xA3 => { ld with addr := slotA32, scopeMax := 1 }
  | 0xA4 => { st with addr := slotA32, scopeMax := 1 }
  | 0xA5 => { ld with d := slotV.times w, addr := slotSZ, idx := slotSZ, twfOk := fun y => decide (y ≤ 5), scopeMax := 1 }
  | 0xA6 => { ld with
      d := slotV, addr := slotSZ, idx := slotSZ, twfOk := fun y => y == 4, scopeMax := 1, opxMask := 7
      dExtra := vecGroupCause f.d (f.opx.toNat % 8 + 1) }
  | 0xA7 => { st with
      d := slotV, addr := slotSZ, idx := slotSZ, twfOk := fun y => y == 4, scopeMax := 1, opxMask := 7
      dExtra := vecGroupCause f.d (f.opx.toNat % 8 + 1) }
  | 0xA8 => { ld with d := slotSN.times w, addr := slotS2, idx := slotSZ }
  | 0xA9 => { st with d := slotSK.times w, addr := slotS2, idx := slotSZ }
  | 0xAA => ld
  | 0xAB => { ld with d := slotV.times (if t == 6 then 2 else 1), twfOk := fun y => y == 5 || y == 6 }
  | 0xAC => { st with d := slotV.times (if t == 6 then 2 else 1), twfOk := fun y => y == 5 || y == 6 }
  | 0xAD => { ld with d := slotNone, twfOk := fun y => y == 0, scopeMax := 0, ordOk := fun o => o == 0 }
  | 0xAE => { st with d := slotNone }
  | 0xAF => { st with d := slotNone, twfOk := fun y => y == 0, scopeMax := 0, ordOk := fun o => o == 0, hint := false }
  | 0xB0 => {}
  | 0xB1 =>
    { d := slotSN, addr := if f.opx.getLsbD 0 then slotS2 else slotSZ, idx := slotSZ, x := slotSZO
      twfOk := fun y => y == 4, subOk := fun y => decide (y ≤ 3), imm := true
      scopeMax := if f.opx.getLsbD 0 then 4 else 1, ordOk := fun o => o == 1, opxMask := 1 }
  | 0xB2 => { ld with x := slotP }
  | 0xB3 => { at_ with twfOk := atTwf, opxExtra := atOpx }
  | 0xB4 => { at_ with twfOk := isAtomfTy, opxExtra := atfOpx }
  | 0xB5 => { at_ with
      d := slotNone, twfOk := fun y => y == 7 || y == 0xA, scopeMax := 0, ordOk := fun o => o == 0, opxMask := 0 }
  | 0xB6 => { at_ with
      d := slotNone, x := slotNone, twfOk := fun y => y == 7 || y == 0xA, scopeMax := 0, ordOk := fun o => o == 0
      opxMask := 0 }
  | 0xB7 => { at_ with addr := slotA32, scopeMax := 1, twfOk := atTwf, opxExtra := atOpx }
  | 0xB8 => { at_ with addr := slotA32, scopeMax := 1, twfOk := isAtomfTy, opxExtra := atfOpx }
  | 0xB9 => { at_ with d := slotV.times tw, twfOk := isCasTy, opxMask := 0 }
  | 0xBA => { at_ with d := slotV.four, x := slotV.four, twfOk := fun y => y == 0, opxMask := 0 }
  | 0xBB => { at_ with d := slotV.times tw, addr := slotA32, scopeMax := 1, twfOk := isCasTy, opxMask := 0 }
  | 0xBC => { scopeMax := 4, ordOk := fun o => o != 0, guard := false }
  | 0xBD => { d := slotSN, guard := false }
  | 0xBE => { d := slotSN, guard := false, imm := true }
  | 0xBF => { d := slotSN, guard := false }
  | 0xC0 =>
    { d := slotSN.times tw, addr := slotS2, idx := slotSZ, x := slotSZO.times tw
      twfOk := fun y => y == 1 || y == 0xB, subOk := fun y => decide (y ≤ 1), imm := true, scopeMax := 4
      ordOk := ordLd, cnt := 2 }
  | 0xC1 =>
    { addr := slotS2, idx := slotSZ, x := slotSZO.times tw, twfOk := fun y => y == 1 || y == 0xB, imm := true
      scopeMax := 4, ordOk := ordSt, cnt := 2 }
  | 0xC2 => { d := slotS, addr := slotS2, x := slotS2, imm := true }
  | 0xC3 => { d := slotS, x := slotS }
  | _ => { d := slotSN, x := slotS }

def engineRule (op : Nat) (f : MForm) : MRule :=
  let t := f.twf.toNat
  let opx := f.opx.toNat
  let sp := f.opx.getLsbD 0
  let adr := if sp then slotSZ else slotS2
  let fmt : Nat → Bool := fun y => decide (y ≤ 0xC)
  let n := opx % 8 + 1
  let mx := mfMx t
  let mm : MRule :=
    { d := slotAcc, addr := slotSZ, idx := slotSZ, x := slotS, twfOk := fmt, imm := true, cnt := 1
      opxMask := 0xFFFFF, opxExtra := if mx || opx % 0x100000 == 0 then none else some 0x01 }
  let mg : MRule :=
    { d := slotAcc, addr := slotSZ, idx := slotV, x := slotVZ, twfOk := fmt, imm := true, cnt := 1
      xExtra := if mx || specIs f.x .zero then none else some 0x01 }
  let copySrc := if sp then slotSZ else slotS2
  let cpy : MRule :=
    { d := if f.cwe then slotSZ else slotNone, dIsDst := false, addr := copySrc, idx := slotS
      x := if f.opx.getLsbD 1 then slotSZ else slotS2, imm := f.cwe, hint := true, cwe := true, opxMask := 3 }
  match op with
  | 0xC5 => { addr := adr, idx := slotSZ, x := slotS, twfOk := fmt, imm := true, cnt := 1, opxMask := 1 }
  | 0xC6 => { cnt := 1 }
  | 0xC7 => mm
  | 0xC8 => mg
  | 0xC9 => mm
  | 0xCA => mg
  | 0xCB => { addr := adr, idx := slotSZ, subOk := fun y => decide (y ≤ 2), imm := true, cnt := 1, opxMask := 1 }
  | 0xCC => { d := slotAcc, cnt := 1 }
  | 0xCD => { d := slotV, x := slotAcc, imm := true, cnt := 1, opxMask := 7
              dExtra := vecGroupCause f.d n
              immExtra := if 64 < f.imm.toNat + n then some 0x01 else none }
  | 0xCE => { d := slotAcc, x := slotV, imm := true, cnt := 1, opxMask := 7
              xExtra := vecGroupCause f.x n
              immExtra := if 64 < f.imm.toNat + n then some 0x01 else none }
  | 0xCF =>
    let raw := f.sub % 2 == 1
    { addr := adr, idx := slotS, x := slotAcc, imm := true, cnt := 1, opxMask := 1
      twfOk := fun y => if raw then y == 0 else decide (y ≤ 3) || y == 0xA
      rm := .mode, sat := t == 0xA && !raw, nan := !raw && t != 0xA, subOk := fun y => decide (y ≤ 1) }
  | 0xD0 => { d := slotAcc, x := slotAcc, cnt := 1, subOk := fun y => decide (y ≤ 1) }
  | 0xD1 => { d := slotAcc, x := slotV, cnt := 1, subOk := fun y => decide (y ≤ 1), rm := .mode }
  | 0xD2 => { d := slotAcc, x := slotAcc, cnt := 1, subOk := fun y => decide (y ≤ 1) }
  | 0xD3 => cpy
  | 0xD4 => { cpy with idx := slotS.four }
  | 0xD5 => { cpy with addr := if sp then slotV else slotV.two }
  | 0xD6 => { cpy with opxMask := 15, opxExtra := if f.opx.getLsbD 1 then none else some 0x01 }
  | 0xD7 => cpy
  | 0xD8 => { cpy with twfOk := fun y => isAtomTy y || isAtomfTy y }
  | 0xD9 => { cpy with twfOk := mfMx }
  | 0xDA => { imm := true, opxMask := 3, immExtra := if f.imm.toNat ≤ 255 then none else some 0x01 }
  | 0xDB => { d := slotS, opxMask := 3 }
  | 0xDC => { d := slotS.two, addr := slotS2, imm := true, cnt := 3 }
  | 0xDD => { guard := false }
  | 0xDE => { guard := false }
  | _ => { x := slotSZ.two, imm := true, cnt := 3 }
where
  mfMx (t : Nat) : Bool := t == 7 || t == 8 || t == 9

def mRule (op : Nat) (f : MForm) : MRule := if op < 0xC5 then memRule op f else engineRule op f

/-- Step 6 of R272 for an M128 instruction of opcode `op`. -/
def mFieldFault (ctx : FieldCtx) (op : Nat) (f : MForm) : Option FieldFault :=
  let r := mRule op f
  let b := fun (c : Bool) (x : Nat) => if c then none else some (FieldFault.mk x 0)
  let sc := f.scope.toNat
  firstFault [
    ff 1 (specCause ctx r.d r.dIsDst false f.d),
    ff 1 r.dExtra,
    ff 2 (specCause ctx r.addr false false f.addr),
    ff 2 (lastCause r.addr f.addr f.adLast),
    ff 2 (trapCause r.addr f.addr f.adTrap),
    ff 3 (specCause ctx r.idx false false f.idx),
    ff 3 (lastCause r.idx f.idx f.ixLast),
    ff 3 (trapCause r.idx f.idx f.ixTrap),
    guardFault r.guard f.gidx f.gsense,
    b (r.twfOk f.twf.toNat) 0x07,
    ff 0 (rmCause r.rm f.rm),
    b (r.sat || !f.satBit) 0x01,
    b (r.nan || !f.nanBit) 0x01,
    b (r.subOk f.sub) 0x01,
    ff 1 (lastCause r.d f.d f.dLast),
    ff 4 (specCause ctx r.x false false f.x),
    ff 4 r.xExtra,
    b (r.imm || f.imm == 0) 0x01,
    ff 0 r.immExtra,
    (if 5 ≤ sc then some ⟨0x09, 0⟩ else if r.scopeMax < sc then some ⟨0x01, 0⟩ else none),
    b (r.ordOk f.ord.toNat) 0x0A,
    b (f.hint == 0 || r.hint && decide (f.hint.toNat ≤ 4)) 0x0B,
    b (f.cnt.toNat == r.cnt) 0x0C,
    b (r.cwe || !f.cwe) 0x0D,
    b (f.opx.toNat &&& r.opxMask == f.opx.toNat) 0x01,
    ff 0 r.opxExtra]

end Sys2Proof.Machine
end

