-- ==== Sys2Proof/Decode.lean ====
section
/-! DEFINITION. Decoding a Porier instruction word and encoding one (12 R269, R274 to R278, R290, R291). Decoding is total:
a word is an instruction or is rejected by name. The byte and word layouts are written once, as fields of one 128-bit
word whose low bits come first in memory. -/

namespace Sys2Proof

/-- Why a word is no instruction (steps 2 and 4 of R272). -/
inductive DecodeError where
  /-- Bits [1:0] are 0b11. -/
  | lengthCode
  /-- Opcode 0xE0 to 0xFF. -/
  | opcode
  /-- A length that the opcode map does not allow for the opcode. -/
  | length
  /-- Fewer bytes were given than the length code asks for. -/
  | truncated
  deriving DecidableEq, Repr

/-- An instruction by format: its opcode and fields. -/
inductive Form where
  | event
  | nop (len : InstrLen) (upper : BitVec 118)
  | a (op : Nat) (f : AForm)
  | b (op : Nat) (f : BForm)
  | m (op : Nat) (f : MForm)
  deriving DecidableEq, Repr

def bit1 (b : Bool) : BitVec 1 := BitVec.ofBool b

/-- The word of an A64 or A96 instruction (R274, R275). -/
def AForm.word (op : Nat) (f : AForm) : BitVec 128 :=
  (0#32 ++ f.ext ++ f.aux ++ bit1 f.rsv ++ f.ctl ++ f.ty ++ f.gsense ++ f.gidx ++ bit1 f.bTrap ++ bit1 f.bLast ++
    f.srcb ++ bit1 f.aTrap ++ bit1 f.aLast ++ f.srca ++ f.dst ++ BitVec.ofNat 8 op ++ bit1 false ++ bit1 f.len96)

/-- The fields of the word of an A64 or A96 instruction. -/
def AForm.ofWord (w : BitVec 128) : AForm :=
  { len96 := w.getLsbD 0
    dst := w.extractLsb' 10 8
    srca := w.extractLsb' 18 8
    aLast := w.getLsbD 26
    aTrap := w.getLsbD 27
    srcb := w.extractLsb' 28 8
    bLast := w.getLsbD 36
    bTrap := w.getLsbD 37
    gidx := w.extractLsb' 38 3
    gsense := w.extractLsb' 41 2
    ty := w.extractLsb' 43 4
    ctl := w.extractLsb' 47 8
    rsv := w.getLsbD 55
    aux := w.extractLsb' 56 8
    ext := if w.getLsbD 0 then w.extractLsb' 64 32 else 0#32 }

/-- The word of a B64 or B96 instruction (R277). -/
def BForm.word (op : Nat) (f : BForm) : BitVec 128 :=
  (0#32 ++ f.ext ++ f.off21 ++ f.gsense ++ f.gidx ++ bit1 f.bTrap ++ bit1 f.bLast ++
    f.srcb ++ bit1 f.aTrap ++ bit1 f.aLast ++ f.srca ++ f.dst ++ BitVec.ofNat 8 op ++ bit1 false ++ bit1 f.len96)

/-- The fields of the word of a B64 or B96 instruction. -/
def BForm.ofWord (w : BitVec 128) : BForm :=
  { len96 := w.getLsbD 0
    dst := w.extractLsb' 10 8
    srca := w.extractLsb' 18 8
    aLast := w.getLsbD 26
    aTrap := w.getLsbD 27
    srcb := w.extractLsb' 28 8
    bLast := w.getLsbD 36
    bTrap := w.getLsbD 37
    gidx := w.extractLsb' 38 3
    gsense := w.extractLsb' 41 2
    off21 := w.extractLsb' 43 21
    ext := if w.getLsbD 0 then w.extractLsb' 64 32 else 0#32 }

/-- The word of an M128 instruction (R278). -/
def MForm.word (op : Nat) (f : MForm) : BitVec 128 :=
  (f.opx ++ bit1 f.cwe ++ f.cnt ++ f.hint ++ f.ord ++ f.scope ++ f.imm ++ f.x ++ bit1 f.dLast ++ f.ctl ++ f.twf ++
    f.gsense ++ f.gidx ++ bit1 f.ixTrap ++ bit1 f.ixLast ++ f.idx ++ bit1 f.adTrap ++ bit1 f.adLast ++ f.addr ++ f.d ++
    BitVec.ofNat 8 op ++ bit1 true ++ bit1 false)

/-- The fields of the word of an M128 instruction. -/
def MForm.ofWord (w : BitVec 128) : MForm :=
  { d := w.extractLsb' 10 8
    addr := w.extractLsb' 18 8
    adLast := w.getLsbD 26
    adTrap := w.getLsbD 27
    idx := w.extractLsb' 28 8
    ixLast := w.getLsbD 36
    ixTrap := w.getLsbD 37
    gidx := w.extractLsb' 38 3
    gsense := w.extractLsb' 41 2
    twf := w.extractLsb' 43 4
    ctl := w.extractLsb' 47 8
    dLast := w.getLsbD 55
    x := w.extractLsb' 56 8
    imm := w.extractLsb' 64 32
    scope := w.extractLsb' 96 3
    ord := w.extractLsb' 99 2
    hint := w.extractLsb' 101 3
    cnt := w.extractLsb' 104 2
    cwe := w.getLsbD 106
    opx := w.extractLsb' 107 21 }

/-- The two length bits (R269). -/
def InstrLen.code : InstrLen → BitVec 2
  | .l64 => 0#2
  | .l96 => 1#2
  | .l128 => 2#2

def InstrLen.bytes : InstrLen → Nat
  | .l64 => 8
  | .l96 => 12
  | .l128 => 16

/-- The word of an instruction by its format. An event has no word. -/
def Form.word : Form → BitVec 128
  | .event => 0#128
  | .nop len u => u ++ 0#8 ++ len.code
  | .a op f => f.word op
  | .b op f => f.word op
  | .m op f => f.word op

/-- The instruction's length in bytes. -/
def Form.bytes : Form → Nat
  | .event => 0
  | .nop len _ => len.bytes
  | .a _ f => if f.len96 then 12 else 8
  | .b _ f => if f.len96 then 12 else 8
  | .m _ _ => 16

/-- The opcodes of the B formats (R291). -/
def isBOpcode (op : Nat) : Bool :=
  op == 1 || op == 2 || op == 3 || op == 4 || op == 6 || op == 7 || op == 0xC || op == 0xD || op == 0xE

/-- The length named by bits [1:0] (R269). -/
def lenOfWord (w : BitVec 128) : Option InstrLen :=
  if w.extractLsb' 0 2 == 0#2 then some .l64
  else if w.extractLsb' 0 2 == 1#2 then some .l96
  else if w.extractLsb' 0 2 == 2#2 then some .l128
  else none

/-- The word's format and fields, with the checks of steps 2 and 4 of R272. The bits above the length do not belong
to the instruction. -/
def parseWord (w : BitVec 128) : Except DecodeError Form :=
  match lenOfWord w with
  | none => .error .lengthCode
  | some len =>
    let op := (w.extractLsb' 2 8).toNat
    if 0xE0 ≤ op then .error .opcode
    else if op == 0 then
      .ok (.nop len (match len with
        | .l64 => (w.extractLsb' 10 54).zeroExtend 118
        | .l96 => (w.extractLsb' 10 86).zeroExtend 118
        | .l128 => w.extractLsb' 10 118))
    else if 0x9F ≤ op then (if len == .l128 then .ok (.m op (MForm.ofWord w)) else .error .length)
    else if len == .l128 then .error .length
    else if isBOpcode op then
      (if Machine.bLenOk op (BForm.ofWord w) then .ok (.b op (BForm.ofWord w)) else .error .length)
    else if Machine.aLenOk op (AForm.ofWord w) then .ok (.a op (AForm.ofWord w)) else .error .length

/-- The format, opcode and fields of an instruction; an event has none (R290). -/
def Instr.form : Instr → Form
  | .coldReset => .event
  | .warmReset => .event
  | .portReset => .event
  | .functionLevelReset => .event
  | .hostLinkLoss => .event
  | .prochotAssert => .event
  | .prochotDeassert => .event
  | .thermalStep => .event
  | .thermalTrip => .event
  | .capWindowEnd => .event
  | .dieIdleTimeout => .event
  | .gatingDone => .event
  | .dieWake => .event
  | .wakingDone => .event
  | .flitReceive => .event
  | .ackReceive => .event
  | .nackReceive => .event
  | .replayTimeout => .event
  | .retrainStart => .event
  | .retrainDone => .event
  | .ulainTrained => .event
  | .ulainForward => .event
  | .routerIdleTimeout => .event
  | .routerDowningEnd => .event
  | .routerWake => .event
  | .routerWakingEnd => .event
  | .channelAccess => .event
  | .patrolScrub => .event
  | .fadeDecrement => .event
  | .walkComplete => .event
  | .shootdownComplete => .event
  | .storeCommit => .event
  | .storeFault => .event
  | .loadDataReturn => .event
  | .rdRequest => .event
  | .rdxRequest => .event
  | .upgRequest => .event
  | .wbRequest => .event
  | .fwdS => .event
  | .fwdX => .event
  | .inv => .event
  | .pub => .event
  | .invAck => .event
  | .upgAck => .event
  | .wbAck => .event
  | .snoopResponse => .event
  | .dataResponse => .event
  | .writePermissionRequest => .event
  | .maskExtension => .event
  | .packageFailure => .event
  | .hostRead => .event
  | .hostWrite => .event
  | .birsp => .event
  | .snpdata => .event
  | .snpinv => .event
  | .snpcur => .event
  | .hostCacheResponse => .event
  | .mt4Completion => .event
  | .cmdSemRead => .event
  | .cmdSemRelease => .event
  | .registerWrite => .event
  | .identify => .event
  | .getCaps => .event
  | .ctxCreate => .event
  | .ctxDestroy => .event
  | .mapRegion => .event
  | .queryMap => .event
  | .watchAttach => .event
  | .watchDetach => .event
  | .launch => .event
  | .suspend => .event
  | .resume => .event
  | .kill => .event
  | .pinWindow => .event
  | .unpinWindow => .event
  | .freezeList => .event
  | .forceThaw => .event
  | .errLogRead => .event
  | .errLogClear => .event
  | .errInject => .event
  | .engineReset => .event
  | .setChip => .event
  | .portEnable => .event
  | .route => .event
  | .retrain => .event
  | .query => .event
  | .routerPm => .event
  | .powerSet => .event
  | .powerQuery => .event
  | .attest => .event
  | .deviceReset => .event
  | .engineJobDispatch => .event
  | .engineRowDone => .event
  | .engineFiltWake => .event
  | .engineJobDone => .event
  | .mediaFatal => .event
  | .dpcStatusClear => .event
  | .triggerDispatch => .event
  | .sweepScan => .event
  | .blockAdmission => .event
  | .spawnPlacement => .event
  | .priorityAging => .event
  | .preemption => .event
  | .registerBoundDiscard => .event
  | .promotion => .event
  | .yieldTimeout => .event
  | .waddrTimeout => .event
  | .sfrqTrap => .event
  | .engineFaultTrap => .event
  | .matrixEngineStep => .event
  | .copyComplete => .event
  | .launchAccepted => .event
  | .freezeComplete => .event
  | .thawComplete => .event
  | .nop len u => .nop len u
  | .bra f => .b 0x01 f
  | .bru f => .b 0x02 f
  | .brt f => .b 0x03 f
  | .call f => .b 0x04 f
  | .ret f => .a 0x05 f
  | .jmpi f => .b 0x06 f
  | .calli f => .b 0x07 f
  | .pad f => .a 0x08 f
  | .join f => .a 0x09 f
  | .yield f => .a 0x0A f
  | .prio f => .a 0x0B f
  | .loop f => .b 0x0C f
  | .brk f => .b 0x0D f
  | .cont f => .b 0x0E f
  | .pushp f => .a 0x0F f
  | .invp f => .a 0x10 f
  | .popp f => .a 0x11 f
  | .exit f => .a 0x12 f
  | .trap f => .a 0x13 f
  | .rett f => .a 0x14 f
  | .rettRetry f => .a 0x14 f
  | .region f => .a 0x15 f
  | .brkpt f => .a 0x16 f
  | .rdsr f => .a 0x17 f
  | .wrsr f => .a 0x18 f
  | .vote f => .a 0x19 f
  | .ecall f => .a 0x1A f
  | .tlbinv f => .a 0x1B f
  | .cachectl f => .a 0x1C f
  | .lsconv f => .a 0x1D f
  | .probe f => .a 0x1E f
  | .errinj f => .a 0x1F f
  | .add f => .a 0x20 f
  | .sub f => .a 0x21 f
  | .addc f => .a 0x22 f
  | .subb f => .a 0x23 f
  | .add64 f => .a 0x24 f
  | .sub64 f => .a 0x25 f
  | .mul f => .a 0x26 f
  | .mulhi f => .a 0x27 f
  | .mulw f => .a 0x28 f
  | .mad f => .a 0x29 f
  | .madw f => .a 0x2A f
  | .div f => .a 0x2B f
  | .rem f => .a 0x2C f
  | .min f => .a 0x2D f
  | .max f => .a 0x2E f
  | .clamp f => .a 0x2F f
  | .abs f => .a 0x30 f
  | .neg f => .a 0x31 f
  | .and f => .a 0x32 f
  | .or f => .a 0x33 f
  | .xor f => .a 0x34 f
  | .andn f => .a 0x35 f
  | .not f => .a 0x36 f
  | .bitf f => .a 0x37 f
  | .shl f => .a 0x38 f
  | .shr f => .a 0x39 f
  | .sar f => .a 0x3A f
  | .rot f => .a 0x3B f
  | .dsh f => .a 0x3C f
  | .shl64 f => .a 0x3D f
  | .shr64 f => .a 0x3E f
  | .bxt f => .a 0x3F f
  | .bins f => .a 0x40 f
  | .bfset f => .a 0x41 f
  | .sext f => .a 0x42 f
  | .bcnt f => .a 0x43 f
  | .clz f => .a 0x44 f
  | .ctz f => .a 0x45 f
  | .bitrev f => .a 0x46 f
  | .bshuf f => .a 0x47 f
  | .cmp f => .a 0x48 f
  | .cmp64 f => .a 0x49 f
  | .sel f => .a 0x4A f
  | .mov f => .a 0x4B f
  | .mov64 f => .a 0x4C f
  | .lea f => .a 0x4D f
  | .sad f => .a 0x4E f
  | .dp2 f => .a 0x4F f
  | .dp4 f => .a 0x50 f
  | .dp8 f => .a 0x51 f
  | .cvti f => .a 0x52 f
  | .fadd f => .a 0x53 f
  | .fsub f => .a 0x54 f
  | .fmul f => .a 0x55 f
  | .ffma f => .a 0x56 f
  | .fmin f => .a 0x57 f
  | .fmax f => .a 0x58 f
  | .fmin3 f => .a 0x59 f
  | .fmax3 f => .a 0x5A f
  | .fneg f => .a 0x5B f
  | .fabs f => .a 0x5C f
  | .fcpsgn f => .a 0x5D f
  | .fcmp f => .a 0x5E f
  | .fclass f => .a 0x5F f
  | .frnd f => .a 0x60 f
  | .fscale f => .a 0x61 f
  | .fgetexp f => .a 0x62 f
  | .fdiv f => .a 0x63 f
  | .fsqrt f => .a 0x64 f
  | .frcp f => .a 0x65 f
  | .frsq f => .a 0x66 f
  | .fex2 f => .a 0x67 f
  | .flg2 f => .a 0x68 f
  | .fexp f => .a 0x69 f
  | .flog f => .a 0x6A f
  | .fsin f => .a 0x6B f
  | .fcos f => .a 0x6C f
  | .ftanh f => .a 0x6D f
  | .fsig f => .a 0x6E f
  | .cvt f => .a 0x6F f
  | .cvtfi f => .a 0x70 f
  | .cvtif f => .a 0x71 f
  | .pack f => .a 0x72 f
  | .unpack f => .a 0x73 f
  | .fdot2 f => .a 0x74 f
  | .fdot4 f => .a 0x75 f
  | .dadd f => .a 0x76 f
  | .dmul f => .a 0x77 f
  | .dfma f => .a 0x78 f
  | .dmin f => .a 0x79 f
  | .dmax f => .a 0x7A f
  | .dcmp f => .a 0x7B f
  | .ddiv f => .a 0x7C f
  | .dsqrt f => .a 0x7D f
  | .drcp f => .a 0x7E f
  | .drsq f => .a 0x7F f
  | .iset f => .a 0x80 f
  | .ipt f => .a 0x81 f
  | .iadd f => .a 0x82 f
  | .isub f => .a 0x83 f
  | .imul f => .a 0x84 f
  | .isqr f => .a 0x85 f
  | .idiv f => .a 0x86 f
  | .isqrt f => .a 0x87 f
  | .ihull f => .a 0x88 f
  | .iisect f => .a 0x89 f
  | .imid f => .a 0x8A f
  | .iwid f => .a 0x8B f
  | .iext f => .a 0x8C f
  | .icmp f => .a 0x8D f
  | .isplit f => .a 0x8E f
  | .ibisect f => .a 0x8F f
  | .lperm f => .a 0x90 f
  | .lpush f => .a 0x91 f
  | .lbcast f => .a 0x92 f
  | .lmatch f => .a 0x93 f
  | .lfirst f => .a 0x94 f
  | .lcomp f => .a 0x95 f
  | .scan f => .a 0x96 f
  | .red f => .a 0x97 f
  | .pand f => .a 0x98 f
  | .por f => .a 0x99 f
  | .pxor f => .a 0x9A f
  | .pnot f => .a 0x9B f
  | .pset f => .a 0x9C f
  | .pmov f => .a 0x9D f
  | .pcnt f => .a 0x9E f
  | .ld f => .m 0x9F f
  | .st f => .m 0xA0 f
  | .ldb f => .m 0xA1 f
  | .stb f => .m 0xA2 f
  | .ldl f => .m 0xA3 f
  | .stl f => .m 0xA4 f
  | .ldlb f => .m 0xA5 f
  | .ldlx f => .m 0xA6 f
  | .stlx f => .m 0xA7 f
  | .ldu f => .m 0xA8 f
  | .stu f => .m 0xA9 f
  | .ldc f => .m 0xAA f
  | .ldiv f => .m 0xAB f
  | .stiv f => .m 0xAC f
  | .prf f => .m 0xAD f
  | .stz f => .m 0xAE f
  | .dsc f => .m 0xAF f
  | .sdrain f => .m 0xB0 f
  | .waddr f => .m 0xB1 f
  | .ldt f => .m 0xB2 f
  | .atom f => .m 0xB3 f
  | .atomf f => .m 0xB4 f
  | .atomd f => .m 0xB5 f
  | .atomflush f => .m 0xB6 f
  | .atoml f => .m 0xB7 f
  | .atomfl f => .m 0xB8 f
  | .cas f => .m 0xB9 f
  | .cas128 f => .m 0xBA f
  | .casl f => .m 0xBB f
  | .fence f => .m 0xBC f
  | .bar f => .m 0xBD f
  | .gbar f => .m 0xBE f
  | .lbar f => .m 0xBF f
  | .sema f => .m 0xC0 f
  | .semv f => .m 0xC1 f
  | .freeze f => .m 0xC2 f
  | .thaw f => .m 0xC3 f
  | .fwait f => .m 0xC4 f
  | .mload f => .m 0xC5 f
  | .mswap f => .m 0xC6 f
  | .mmul f => .m 0xC7 f
  | .mgmul f => .m 0xC8 f
  | .msp f => .m 0xC9 f
  | .mgsp f => .m 0xCA f
  | .mldmeta f => .m 0xCB f
  | .mzero f => .m 0xCC f
  | .mrd f => .m 0xCD f
  | .mwr f => .m 0xCE f
  | .mst f => .m 0xCF f
  | .mred f => .m 0xD0 f
  | .mscale f => .m 0xD1 f
  | .macc f => .m 0xD2 f
  | .cpy f => .m 0xD3 f
  | .cpy2 f => .m 0xD4 f
  | .cpyg f => .m 0xD5 f
  | .cpyd f => .m 0xD6 f
  | .cpyf f => .m 0xD7 f
  | .cpyr f => .m 0xD8 f
  | .cpymx f => .m 0xD9 f
  | .cwait f => .m 0xDA f
  | .ccnt f => .m 0xDB f
  | .launchInsn f => .m 0xDC f
  | .kwait f => .m 0xDD f
  | .ktrig f => .m 0xDE f
  | .spawn f => .m 0xDF f
  | .hostLinkUp => .event
  | .internalFatal => .event
  | .copyMatrixEngineReset => .event

def aOpcodes0 : List (Nat × (AForm → Instr)) := [
  (0x05, .ret), (0x08, .pad), (0x09, .join), (0x0A, .yield), (0x0B, .prio), (0x0F, .pushp),
  (0x10, .invp), (0x11, .popp), (0x12, .exit), (0x13, .trap), (0x14, .rett), (0x15, .region),
  (0x16, .brkpt), (0x17, .rdsr), (0x18, .wrsr), (0x19, .vote), (0x1A, .ecall), (0x1B, .tlbinv),
  (0x1C, .cachectl), (0x1D, .lsconv), (0x1E, .probe), (0x1F, .errinj), (0x20, .add), (0x21, .sub),
  (0x22, .addc), (0x23, .subb), (0x24, .add64), (0x25, .sub64), (0x26, .mul), (0x27, .mulhi),
  (0x28, .mulw), (0x29, .mad)]

def aOpcodes1 : List (Nat × (AForm → Instr)) := [
  (0x2A, .madw), (0x2B, .div), (0x2C, .rem), (0x2D, .min), (0x2E, .max), (0x2F, .clamp),
  (0x30, .abs), (0x31, .neg), (0x32, .and), (0x33, .or), (0x34, .xor), (0x35, .andn),
  (0x36, .not), (0x37, .bitf), (0x38, .shl), (0x39, .shr), (0x3A, .sar), (0x3B, .rot),
  (0x3C, .dsh), (0x3D, .shl64), (0x3E, .shr64), (0x3F, .bxt), (0x40, .bins), (0x41, .bfset),
  (0x42, .sext), (0x43, .bcnt), (0x44, .clz), (0x45, .ctz), (0x46, .bitrev), (0x47, .bshuf),
  (0x48, .cmp), (0x49, .cmp64)]

def aOpcodes2 : List (Nat × (AForm → Instr)) := [
  (0x4A, .sel), (0x4B, .mov), (0x4C, .mov64), (0x4D, .lea), (0x4E, .sad), (0x4F, .dp2),
  (0x50, .dp4), (0x51, .dp8), (0x52, .cvti), (0x53, .fadd), (0x54, .fsub), (0x55, .fmul),
  (0x56, .ffma), (0x57, .fmin), (0x58, .fmax), (0x59, .fmin3), (0x5A, .fmax3), (0x5B, .fneg),
  (0x5C, .fabs), (0x5D, .fcpsgn), (0x5E, .fcmp), (0x5F, .fclass), (0x60, .frnd), (0x61, .fscale),
  (0x62, .fgetexp), (0x63, .fdiv), (0x64, .fsqrt), (0x65, .frcp), (0x66, .frsq), (0x67, .fex2),
  (0x68, .flg2), (0x69, .fexp)]

def aOpcodes3 : List (Nat × (AForm → Instr)) := [
  (0x6A, .flog), (0x6B, .fsin), (0x6C, .fcos), (0x6D, .ftanh), (0x6E, .fsig), (0x6F, .cvt),
  (0x70, .cvtfi), (0x71, .cvtif), (0x72, .pack), (0x73, .unpack), (0x74, .fdot2), (0x75, .fdot4),
  (0x76, .dadd), (0x77, .dmul), (0x78, .dfma), (0x79, .dmin), (0x7A, .dmax), (0x7B, .dcmp),
  (0x7C, .ddiv), (0x7D, .dsqrt), (0x7E, .drcp), (0x7F, .drsq), (0x80, .iset), (0x81, .ipt),
  (0x82, .iadd), (0x83, .isub), (0x84, .imul), (0x85, .isqr), (0x86, .idiv), (0x87, .isqrt),
  (0x88, .ihull), (0x89, .iisect)]

def aOpcodes4 : List (Nat × (AForm → Instr)) := [
  (0x8A, .imid), (0x8B, .iwid), (0x8C, .iext), (0x8D, .icmp), (0x8E, .isplit), (0x8F, .ibisect),
  (0x90, .lperm), (0x91, .lpush), (0x92, .lbcast), (0x93, .lmatch), (0x94, .lfirst), (0x95, .lcomp),
  (0x96, .scan), (0x97, .red), (0x98, .pand), (0x99, .por), (0x9A, .pxor), (0x9B, .pnot),
  (0x9C, .pset), (0x9D, .pmov), (0x9E, .pcnt)]

/-- The opcode map of R290 for the A format. -/
def aOpcodes : List (Nat × (AForm → Instr)) := aOpcodes0 ++ aOpcodes1 ++ aOpcodes2 ++ aOpcodes3 ++ aOpcodes4

def bOpcodes0 : List (Nat × (BForm → Instr)) := [
  (0x01, .bra), (0x02, .bru), (0x03, .brt), (0x04, .call), (0x06, .jmpi), (0x07, .calli),
  (0x0C, .loop), (0x0D, .brk), (0x0E, .cont)]

/-- The opcode map of R290 for the B format. -/
def bOpcodes : List (Nat × (BForm → Instr)) := bOpcodes0

def mOpcodes0 : List (Nat × (MForm → Instr)) := [
  (0x9F, .ld), (0xA0, .st), (0xA1, .ldb), (0xA2, .stb), (0xA3, .ldl), (0xA4, .stl),
  (0xA5, .ldlb), (0xA6, .ldlx), (0xA7, .stlx), (0xA8, .ldu), (0xA9, .stu), (0xAA, .ldc),
  (0xAB, .ldiv), (0xAC, .stiv), (0xAD, .prf), (0xAE, .stz), (0xAF, .dsc), (0xB0, .sdrain),
  (0xB1, .waddr), (0xB2, .ldt), (0xB3, .atom), (0xB4, .atomf), (0xB5, .atomd), (0xB6, .atomflush),
  (0xB7, .atoml), (0xB8, .atomfl), (0xB9, .cas), (0xBA, .cas128), (0xBB, .casl), (0xBC, .fence),
  (0xBD, .bar), (0xBE, .gbar)]

def mOpcodes1 : List (Nat × (MForm → Instr)) := [
  (0xBF, .lbar), (0xC0, .sema), (0xC1, .semv), (0xC2, .freeze), (0xC3, .thaw), (0xC4, .fwait),
  (0xC5, .mload), (0xC6, .mswap), (0xC7, .mmul), (0xC8, .mgmul), (0xC9, .msp), (0xCA, .mgsp),
  (0xCB, .mldmeta), (0xCC, .mzero), (0xCD, .mrd), (0xCE, .mwr), (0xCF, .mst), (0xD0, .mred),
  (0xD1, .mscale), (0xD2, .macc), (0xD3, .cpy), (0xD4, .cpy2), (0xD5, .cpyg), (0xD6, .cpyd),
  (0xD7, .cpyf), (0xD8, .cpyr), (0xD9, .cpymx), (0xDA, .cwait), (0xDB, .ccnt), (0xDC, .launchInsn),
  (0xDD, .kwait), (0xDE, .ktrig)]

def mOpcodes2 : List (Nat × (MForm → Instr)) := [
  (0xDF, .spawn)]

/-- The opcode map of R290 for the M format. -/
def mOpcodes : List (Nat × (MForm → Instr)) := mOpcodes0 ++ mOpcodes1 ++ mOpcodes2

/-- The entry of an opcode. -/
def opLookup {α : Type} (op : Nat) : List (Nat × α) → Option α
  | [] => none
  | (o, x) :: r => if op == o then some x else opLookup op r

/-- The instruction of a format, opcode and fields. `rett` and `rett.retry` share opcode 0x14 (R310). -/
def Form.instr : Form → Option Instr
  | .event => none
  | .nop len u => some (.nop len u)
  | .a op f =>
    if op == 0x14 && f.sub == 1 then some (.rettRetry f) else (opLookup op aOpcodes).map (fun c => c f)
  | .b op f => (opLookup op bOpcodes).map (fun c => c f)
  | .m op f => (opLookup op mOpcodes).map (fun c => c f)

/-- Decodes a word whose low bits come first in memory. -/
def decodeWord (w : BitVec 128) : Except DecodeError Instr :=
  match parseWord w with
  | .error e => .error e
  | .ok f =>
    match f.instr with
    | some i => .ok i
    | none => .error .opcode

/-- The word of an instruction. -/
def Instr.word (i : Instr) : BitVec 128 := i.form.word

/-- The length of an instruction in bytes; 0 for an event. -/
def Instr.bytes (i : Instr) : Nat := i.form.bytes

/-- The first n bytes of a word, low byte first (R5, R269). -/
def wordBytes (w : BitVec 128) : Nat → List Byte
  | 0 => []
  | n + 1 => w.extractLsb' 0 8 :: wordBytes (w >>> 8) n

/-- The bytes of an instruction in memory. -/
def encode (i : Instr) : List Byte := wordBytes i.word i.bytes

/-- The word of a list of bytes, low byte first. -/
def bytesWord : List Byte → BitVec 128
  | [] => 0#128
  | b :: r => b.zeroExtend 128 ||| (bytesWord r <<< 8)

/-- Decodes the instruction at the head of a list of bytes and answers it with the bytes left over. -/
def decode (bs : List Byte) : Except DecodeError (Instr × List Byte) :=
  let w := bytesWord (bs.take 16)
  match lenOfWord w with
  | none => if bs.length < 4 then .error .truncated else .error .lengthCode
  | some len =>
    if bs.length < len.bytes then .error .truncated
    else match decodeWord w with
      | .error e => .error e
      | .ok i => .ok (i, bs.drop len.bytes)

/-- The instruction read from bits numbered as spec/opcode_table.json numbers them; the bits above nbits are 0. -/
def decodeTableWord (nbits w : Nat) : Option Instr :=
  match decodeWord (BitVec.ofNat 128 (w % 2 ^ nbits)) with
  | .ok i => some i
  | .error _ => none

end Sys2Proof
end

