-- ==== Sys2Proof/Machine/Formats.lean ====
section
/-! DEFINITION. The matrix formats (10 R228, R236 to R240): element widths and values, block scales, narrowing into a
format, weight packing, sparse metadata, and matrix accumulation (R244). -/

namespace Sys2Proof.Machine

/-- Bits of one element of a matrix format code (R228); 0 for a reserved code. -/
def mfBits (c : Nat) : Nat :=
  [16, 16, 8, 8, 6, 6, 4, 8, 6, 4, 8, 4, 2].getD c 0

def mfIsMx (c : Nat) : Bool := c == 7 || c == 8 || c == 9
def mfIsInt (c : Nat) : Bool := c == 10 || c == 11 || c == 12

/-- The element format of a floating or MX code. -/
def mfFloat (c : Nat) : Fmt :=
  [fmtBf16, fmtF16, fmtE4m3, fmtE5m2, fmtE3m2, fmtE2m3, fmtE2m1, fmtE4m3, fmtE2m3, fmtE2m1].getD c fmtF32

/-- The element exponent emax of an MX format (R238). -/
def mfEmax (c : Nat) : Int := if c == 7 then 8 else 2

/-- The signed value of an integer-format code (R237): tern2 code 0b10 reads as 0. -/
def mfInt (c code : Nat) : Int :=
  if c == 12 then (if code == 1 then 1 else if code == 3 then -1 else 0)
  else
    let w := mfBits c
    if 2 ^ (w - 1) ≤ code then (code : Int) - (2 ^ w : Nat) else (code : Int)

/-- An element read as a value, with its E8M0 scale when the format is MX (R236); the flag is TERN (R237). -/
def mfVal (c code scale : Nat) : FVal :=
  if mfIsInt c then let x := mfInt c code; .fin (decide (x < 0)) x.natAbs 0
  else if mfIsMx c then
    if scale == 0xFF then .nan false
    else match (mfFloat c).val code with
      | .fin n m e => .fin n m (e + (scale : Int) - 127)
      | v => v
  else (mfFloat c).val code

def mfTern (c code : Nat) : Bool := c == 12 && code == 2

/-- The block scale of R238 over the block's source codes in f32. -/
def mxScale (c : Nat) (xs : List Nat) : Nat :=
  let vs := xs.map fmtF32.val
  if vs.any FVal.isNan then 0xFF
  else if vs.any (fun v => v == .inf true || v == .inf false) then 0xFE
  else
    let tops := vs.filterMap (fun v => match v with
      | .fin _ m e => if m == 0 then none else some (e + (bitLen m : Int) - 1)
      | _ => none)
    match tops with
    | [] => 0
    | t :: r =>
      let s := r.foldl max t - mfEmax c
      (127 + min (max s (-127)) 127).toNat

/-- An f32 code divided by 2^(scale − 127) and narrowed into the element format (R238). -/
def mxElem (c scale : Nat) (rm : Rm) (nanForm ftz : Bool) (x : Nat) : Nat × FpFlags :=
  if scale == 0xFF then (0, flNone)
  else
    let dst := mfFloat c
    match fmtF32.read ftz x with
    | .nan s => (dst.nanCode, flIf s flInv)
    | .inf n =>
      if nanForm then (signedCode dst n (overflowCode dst .nanForm rm n), flNone)
      else (withSign dst n dst.maxCode, flOfl ||| flInx)
    | .fin n m e =>
      let (r, fl) := roundTo dst rm (if nanForm then .nanForm else .saturate) false n m (e - (scale : Int) + 127)
      (r, fl &&& ~~~flUfl)

/-- Bit p of a list of bytes. -/
def bytesBits (bs : List Byte) (off w : Nat) : Nat :=
  let i := off / 8
  let v := (bs.getD i 0).toNat + 256 * (bs.getD (i + 1) 0).toNat + 65536 * (bs.getD (i + 2) 0).toNat
  (v / 2 ^ (off % 8)) % 2 ^ w

/-- Element k of an activation row: low bits first, never pre-shuffled (R405). -/
def rowElem (c : Nat) (bs : List Byte) (k : Nat) : Nat := bytesBits bs (k * mfBits c) (mfBits c)

/-- Element k of a weight column, in the packing of R239. -/
def colElem (c : Nat) (bs : List Byte) (k : Nat) : Nat :=
  let w := mfBits c
  if w == 4 then
    let u := k / 128
    let j := k % 128
    bytesBits bs (512 * u + 4 * ((j % 16) * 8 + j / 16)) 4
  else if w == 2 then
    let u := k / 256
    let j := k % 256
    bytesBits bs (512 * u + 2 * ((j % 16) * 16 + j / 16)) 2
  else bytesBits bs (k * w) w

/-- Bytes of one weight column of K elements (R239). -/
def colBytes (c k : Nat) : Nat := k * mfBits c / 8

/-- The 4-bit metadata entry of stored element j of a column whose metadata bytes are given (R240): its position
within its group of 8. -/
def metaPos (bs : List Byte) (j : Nat) : Nat := bytesBits bs (4 * j) 4 % 8

/-- One group of 32 products summed exactly and rounded once to `f` (R244). -/
def groupSum (f : Fmt) (ts : List FVal) : Nat :=
  match (sumExact .rne ts).1 with
  | .nan _ => f.nanCode
  | v => (roundVal f .rne false v).1

/-- The accumulator after the groups in ascending order (R244); the products are in groups of 32. -/
def accGroups (f : Fmt) : Nat → List FVal → Nat → Nat
  | 0, _, acc => acc
  | n + 1, ts, acc =>
    accGroups f n (ts.drop 32) ((sumRound f .rne false [f.val acc, f.val (groupSum f (ts.take 32))]).1)

/-- Float accumulation of R244 over a list of products in K order. -/
def accFloat (f : Fmt) (acc : Nat) (ts : List FVal) : Nat := accGroups f ((ts.length + 31) / 32) ts acc

/-- Integer accumulation of R244. -/
def accInt (acc : Nat) (xs : List Int) : Nat := (((acc : Int) + xs.foldl (· + ·) 0) % 4294967296).toNat

end Sys2Proof.Machine
end

