-- ==== Sys2Proof/Machine/Mem.lean ====
section
/-! DEFINITION. Storage: the cell list, the GF(2) address map (R44 to R46), the bytes and poison of a line at its home,
the channel caches (R51 to R58), and the error log (R109, R110). -/

namespace Sys2Proof.Machine

/-! ### Cells -/

/-- The byte at an address of a cell list; an address not listed reads 0 (entry 1). -/
def cellGet (a : Nat) : List Host.Cell → Byte
  | [] => 0
  | (k, b) :: r => if k = a then b else cellGet a r

/-- Writes a byte, keeping the list in address order with no entry 0. -/
def cellSet (a : Nat) (b : Byte) : List Host.Cell → List Host.Cell
  | [] => if b = 0 then [] else [(a, b)]
  | (k, c) :: r =>
    if a < k then (if b = 0 then (k, c) :: r else (a, b) :: (k, c) :: r)
    else if k = a then (if b = 0 then r else (a, b) :: r)
    else (k, c) :: cellSet a b r

/-- Writes bytes at rising addresses. -/
def cellSetBytes (a : Nat) : List Byte → List Host.Cell → List Host.Cell
  | [], m => m
  | b :: r, m => cellSetBytes (a + 1) r (cellSet a b m)

/-- n bytes from an address. -/
def cellBytes (m : List Host.Cell) (a n : Nat) : List Byte := (List.range n).map (fun i => cellGet (a + i) m)

/-- Strictly rising addresses, all at or above a bound. -/
def cellsRise : Nat → List Host.Cell → Bool
  | _, [] => true
  | lo, (k, _) :: r => decide (lo ≤ k) && cellsRise (k + 1) r

/-- The canonical form of memory: rising addresses and no entry equal to what an unlisted address reads as. -/
def Memory.wf (m : List Host.Cell) : Bool := cellsRise 0 m && m.all (fun c => c.2 != 0)

/-- The overlay of published bytes: an entry of 0 is kept, because it hides the byte below. -/
def overGet (a : Nat) : List Host.Cell → Option Byte
  | [] => none
  | (k, b) :: r => if k = a then some b else overGet a r

def overSet (a : Nat) (b : Byte) : List Host.Cell → List Host.Cell
  | [] => [(a, b)]
  | (k, c) :: r =>
    if a < k then (a, b) :: (k, c) :: r
    else if k = a then (a, b) :: r
    else (k, c) :: overSet a b r

def overSetBytes (a : Nat) : List Byte → List Host.Cell → List Host.Cell
  | [], m => m
  | b :: r, m => overSetBytes (a + 1) r (overSet a b m)

/-! ### Physical addresses (R44 to R46) -/

def lineOf (pa : Nat) : Nat := pa / 128
def offsetInLine (pa : Nat) : Nat := pa % 128
def paIsHost (pa : Nat) : Bool := bitAt pa 51
def paChip (pa : Nat) : Nat := bitsOf pa 50 47
def paOffset (pa : Nat) : Nat := pa % 2 ^ 47
def lineIsHost (line : Nat) : Bool := paIsHost (line * 128)
def lineChip (line : Nat) : Nat := paChip (line * 128)

/-- Whether the line's home is in this package. -/
def lineIsOwn (s : State) (line : Nat) : Bool := !lineIsHost line && lineChip line == s.fab.chipId

/-- The parity of the low k bits of a number. -/
def parityN : Nat → Nat → Bool
  | 0, _ => false
  | k + 1, n => xor (n % 2 == 1) (parityN k (n / 2))

/-- The active region that holds a package offset (R45). -/
def regionOf (s : State) (off : Nat) : Option Region :=
  (s.ms.regions.filterMap id).find? (fun r => decide (r.base ≤ off) && decide (off < r.base + 2 ^ r.k))

/-- The slot number of that region. -/
def regionSlot (s : State) (off : Nat) : Option Nat :=
  (List.range 16).find? (fun i => match s.ms.regions.getD i none with
    | some r => decide (r.base ≤ off) && decide (off < r.base + 2 ^ r.k)
    | none => false)

/-- y = M · x over GF(2), as a number whose bit i is y[i] (R45). -/
def gf2Mul (n : Nat) (rows : List Nat) (x : Nat) : Nat :=
  (List.range n).foldl (fun a i => a + (if parityN n (Nat.land (rows.getD i 0) x) then 2 ^ i else 0)) 0

/-- The DRAM line of a package offset: memory row above the 17 coordinate bits (R45); none when it is not backed. -/
def dramLine (s : State) (off : Nat) : Option Nat :=
  match regionOf s off with
  | none => none
  | some r =>
    let y := gf2Mul (r.k - 7) r.rows ((off - r.base) / 128)
    some ((r.rowBase + y / 131072) * 131072 + y % 131072)

/-- Coordinates of a DRAM line (R45). -/
def dlColumn (d : Nat) : Nat := d % 8
def dlChannel (d : Nat) : Nat := bitsOf d 7 3
def dlStack (d : Nat) : Nat := bitsOf d 11 8
def dlPseudo (d : Nat) : Nat := bitsOf d 12 12
def dlGroup (d : Nat) : Nat := bitsOf d 14 13
def dlBank (d : Nat) : Nat := bitsOf d 16 15
def dlRow (d : Nat) : Nat := d / 131072

/-- The channel cache's number, the home die and the home slice (R46). -/
def dlCache (d : Nat) : Nat := dlStack d * 32 + dlChannel d
def dlDie (d : Nat) : Nat := dlStack d / 4
def dlSlice (d : Nat) : Nat := dlStack d % 4 * 8 + dlChannel d / 4

/-- The DRAM line of a line whose home is here. -/
def lineDram (s : State) (line : Nat) : Option Nat :=
  if lineIsOwn s line then dramLine s (paOffset (line * 128)) else none

/-- The die of a line's coherence point for host lines (R70). -/
def hostDie (line : Nat) : Nat := line % 4
def hostSlice (line : Nat) : Nat := line / 64 % 32

/-- The DRAM line that gives a domain line its slice number: for a line of another package by this package's own map, because
agent slices take the home slice's number (R70; entry 22). -/
def sliceDram (s : State) (line : Nat) : Option Nat := dramLine s (paOffset (line * 128))

/-- The home die of a line homed here, or the die of its host agent slice (R46, R70). -/
def homeDie (s : State) (line : Nat) : Nat :=
  if lineIsHost line then hostDie line else match lineDram s line with
    | some d => dlDie d
    | none => 0

def homeSlice (s : State) (line : Nat) : Nat :=
  if lineIsHost line then hostSlice line else match sliceDram s line with
    | some d => dlSlice d
    | none => 0

/-- The set of a slice's directory and agent array for a line, one of 2,048 (R71). The spec gives no index: coordinates that vary
among the lines of one slice are taken (entry 22). -/
def sliceSet (s : State) (line : Nat) : Nat :=
  if lineIsHost line then line / 4 % 16 + 16 * (line / 2048 % 128)
  else match sliceDram s line with
    | some d => dlColumn d + 8 * (dlChannel d % 4) + 32 * (d / 4096 % 64)
    | none => line % 2048

/-- Where a line is stored: its DRAM line, or a place above every DRAM line for memory beyond the package. A line of this
package outside every region has no place. -/
def lineKey (s : State) (line : Nat) : Option Nat :=
  if lineIsOwn s line then dramLine s (paOffset (line * 128)) else some (2 ^ 45 + line)

/-- A domain PA that no active region of the package that holds it backs (R44, R63): another package answers for its own. -/
def paUnbacked (s : State) (pa : Nat) : Bool :=
  !paIsHost pa && (if paChip pa == s.fab.chipId then (regionOf s (paOffset pa)).isNone
    else !s.fab.failedChips.contains (paChip pa) && Config.farUnbacked (paChip pa) (paOffset pa))

/-! ### A line at its home -/

/-- The 128 bytes of a line at its home, or as last observed for memory beyond the package. -/
def homeRead (s : State) (line : Nat) : List Byte :=
  match lineKey s line with
  | none => List.replicate 128 0
  | some k => (List.range 128).map (fun i => match overGet (line * 128 + i) s.slices with
    | some b => b
    | none => cellGet (k * 128 + i) s.mem)

/-- Whether every byte of a sector of a line has been published over what HBM holds. -/
def sectorOver (s : State) (line q : Nat) : Bool := (List.range 32).all (fun i => (overGet (line * 128 + 32 * q + i) s.slices).isSome)

/-- The poisoned sectors of a line (R43): poisoned as published, or in HBM where HBM still holds a part of it. -/
def homePoison (s : State) (line : Nat) : BitVec 4 :=
  match lineKey s line with
  | none => 0
  | some k => BitVec.ofNat 4 ((List.range 4).foldl (fun a q =>
      a + (if s.slicePoison.contains (line * 4 + q) || (s.poison.contains (k * 4 + q) && !(lineIsOwn s line && sectorOver s line q)) then 2 ^ q
        else 0)) 0)

/-- A sorted list of sectors with one added or removed. -/
def sectorAdd (x : Nat) : List Nat → List Nat
  | [] => [x]
  | y :: r => if x < y then x :: y :: r else if x = y then y :: r else y :: sectorAdd x r

def sectorDel (x : Nat) (xs : List Nat) : List Nat := xs.filter (fun y => y != x)

/-- The sectors of a line that n bytes at an offset cover wholly. -/
def wholeSectors (off n : Nat) : List Nat :=
  (List.range 4).filter (fun i => decide (off ≤ 32 * i) && decide (32 * i + 32 ≤ off + n))

/-- The sectors that n bytes at an offset touch. -/
def touchedSectors (off n : Nat) : List Nat :=
  (List.range 4).filter (fun i => decide (off < 32 * i + 32) && decide (32 * i < off + n) && decide (0 < n))

/-- Sectors written wholly are clean as published; in memory beyond the package the marks go at once. What HBM holds beneath
keeps its marks until the bytes are written to it (R43, R319). -/
def cleanSectors (s : State) (line key : Nat) (qs : List Nat) : State :=
  if lineIsOwn s line then { s with slicePoison := s.slicePoison.filter (fun x => !(qs.map (line * 4 + ·)).contains x) }
  else { s with
    poison := s.poison.filter (fun x => !(qs.map (key * 4 + ·)).contains x)
    ecc1 := s.ecc1.filter (fun x => !(qs.map (key * 4 + ·)).contains x) }

/-- Writes bytes of a line at its home. -/
def homeWrite (s : State) (line off : Nat) (bs : List Byte) : State :=
  match lineKey s line with
  | none => s
  | some k =>
    let s := cleanSectors s line k (wholeSectors off bs.length)
    if lineIsOwn s line then { s with slices := overSetBytes (line * 128 + off) bs s.slices }
    else { s with mem := cellSetBytes (k * 128 + off) bs s.mem }

/-- Marks sectors of a line as poisoned, as its home holds them. -/
def homeSetPoison (s : State) (line : Nat) (p : BitVec 4) : State :=
  let qs := (List.range 4).filter (fun i => p.getLsbD i)
  match lineKey s line with
  | none => s
  | some k =>
    if lineIsOwn s line then { s with slicePoison := qs.foldl (fun a i => sectorAdd (line * 4 + i) a) s.slicePoison }
    else { s with poison := qs.foldl (fun a i => sectorAdd (k * 4 + i) a) s.poison }

/-- Bytes of a masked write: those whose mask bit is set are replaced. -/
def maskBytes (old new : List Byte) (mask : BitVec 128) : List Byte :=
  (List.range 128).map (fun i => if mask.getLsbD i then new.getD i 0 else old.getD i 0)

/-- Writes the masked bytes of a line at its home (R76). -/
def homeWriteMask (s : State) (line : Nat) (bs : List Byte) (mask : BitVec 128) : State :=
  match lineKey s line with
  | none => s
  | some k =>
    let at_ := (List.range 128).filter (fun i => mask.getLsbD i)
    let s := cleanSectors s line k ((List.range 4).filter (fun q => (List.range 32).all (fun i => mask.getLsbD (32 * q + i))))
    if lineIsOwn s line then { s with slices := at_.foldl (fun m i => overSet (line * 128 + i) (bs.getD i 0) m) s.slices }
    else { s with mem := at_.foldl (fun m i => cellSet (k * 128 + i) (bs.getD i 0) m) s.mem }

/-- The sectors of a line that are poisoned as published, and those that replace what HBM holds. -/
def pubPoison (s : State) (line : Nat) : List Nat := (List.range 4).filter (fun q => s.slicePoison.contains (line * 4 + q))
def pubWhole (s : State) (line : Nat) : List Nat := (List.range 4).filter (fun q => sectorOver s line q && !s.slicePoison.contains (line * 4 + q))

/-- Writes a line's published bytes to HBM (R21, R316): a sector replaced wholly has new check bits, and poison goes with its
bytes (R43). -/
def flushLine (s : State) (line : Nat) : State :=
  match lineKey s line with
  | none => s
  | some k =>
    let here := s.slices.filter (fun c => c.1 / 128 == line)
    let clean := (pubWhole s line).map (k * 4 + ·)
    let bad := (pubPoison s line).map (k * 4 + ·)
    { s with
      mem := here.foldl (fun m c => cellSet (k * 128 + c.1 % 128) c.2 m) s.mem
      slices := s.slices.filter (fun c => c.1 / 128 != line)
      poison := bad.foldl (fun a x => sectorAdd x a) (s.poison.filter (fun x => !clean.contains x))
      ecc1 := s.ecc1.filter (fun x => !clean.contains x && !bad.contains x)
      slicePoison := s.slicePoison.filter (fun x => x / 4 != line) }

/-- Writes every published byte to HBM. -/
def flushAll (s : State) : State :=
  (dedup (s.slices.map (fun c => c.1 / 128) ++ s.slicePoison.map (· / 4))).foldl flushLine s

/-! ### Errors (R109, R110, R445) -/

def Port.idx : Port → Nat
  | .a => 0
  | .b => 1

def State.port (s : State) (p : Port) : PortState := match p with
  | .a => s.host.portA
  | .b => s.host.portB

def State.emit (s : State) (m : OutMsg) : State := { s with out := s.out ++ [m] }

def State.updPort (s : State) (p : Port) (f : PortState → PortState) : State :=
  match p with
  | .a => { s with host := { s.host with portA := f s.host.portA } }
  | .b => { s with host := { s.host with portB := f s.host.portB } }

/-- AER signalling of one event on one port whose link is up: its status bit is set, and a message goes out unless it is masked. -/
def aerSignal (s : State) (p : Port) (cls event : Nat) : State :=
  let q := s.port p
  let masked := if cls == 0 then q.maskCorr else q.maskUncorr
  let s := if q.link then s.updPort p (fun q => if cls == 0 then { q with statCorr := true } else { q with statUncorr := true }) else s
  if q.link && !masked then s.emit (.aer p cls event) else s

/-- Sends an MSI-X vector on a port whose link is up; one that its table entry masks is noted as pending (R96, R97). -/
def sendVector (s : State) (p : Port) (v : Nat) : State :=
  let q := s.port p
  if !q.link then s
  else if bitAt (q.msixTable.getD (4 * v + 3) 0) 0 then
    s.updPort p (fun q => { q with pba := if bitAt q.pba v then q.pba else q.pba + 2 ^ v })
  else s.emit (.msix p v)

/-- Counts and logs an event (R109); a record that enters the log sends MSI-X vector 1 (R97). TICKS counts 800 MHz clocks. -/
def recordError (s : State) (cls source event where_ info addr : Nat) : State :=
  let h := s.host
  let h := if cls == 0 then { h with errCorr := satInc h.errCorr }
    else if cls == 1 then { h with errNonfatal := satInc h.errNonfatal }
    else { h with errFatal := satInc h.errFatal }
  let first := !h.errFirst.contains (event, where_)
  let want := decide (0 < cls) || first
  let h := if cls == 0 && first then { h with errFirst := (event, where_) :: h.errFirst } else h
  let h := if !want then h
    else if 1024 ≤ h.errLog.length then { h with errLost := satInc h.errLost }
    else { h with
      errLog := h.errLog ++ [⟨h.errSeq, cls, source, event, where_, info, addr, s.clock / 3⟩]
      errSeq := (h.errSeq + 1) % 2 ^ 32 }
  let stored := want && decide (s.host.errLog.length < 1024)
  let s := { s with host := h }
  let vec := fun (s : State) (p : Port) => if stored then sendVector s p 1 else s
  vec (vec s .a) .b

/-- Counts, logs and signals an event on both ports (R109). -/
def logError (s : State) (cls source event where_ info addr : Nat) : State :=
  aerSignal (aerSignal (recordError s cls source event where_ info addr) .a cls event) .b cls event

/-! ### Channel caches and pinned windows (R51 to R55) -/

def Channel.empty : Channel := ⟨[], 0, [], none, none, []⟩

def State.chan (s : State) (c : Nat) : Channel := ((s.ms.chans.find? (fun x => x.1 == c)).map (·.2)).getD Channel.empty

/-- Keyed update of an association list kept in key order. -/
def assocSet {α : Type} (k : Nat) (v : α) : List (Nat × α) → List (Nat × α)
  | [] => [(k, v)]
  | (j, w) :: r => if k < j then (k, v) :: (j, w) :: r else if j = k then (k, v) :: r else (j, w) :: assocSet k v r

def State.setChan (s : State) (c : Nat) (ch : Channel) : State :=
  { s with ms := { s.ms with chans := assocSet c ch s.ms.chans } }

/-- The active window that holds a package offset (R52). -/
def windowOf (s : State) (off : Nat) : Option Nat :=
  (List.range 32).find? (fun i => match s.ms.windows.getD i none with
    | some w => decide (w.base ≤ off) && decide (off < w.base + w.size)
    | none => false)

/-- A hit on a line of a window sets its fade counter to 255, also where a decrement comes in the same clock (R54). -/
def windowHit (s : State) (off : Nat) : State :=
  match windowOf s off with
  | none => s
  | some i => match s.ms.windows.getD i none with
    | none => s
    | some w => { s with ms := { s.ms with windows := s.ms.windows.set i (some { w with fade := 255, hitAt := some s.clock }) } }

/-- Posts a message in flight. -/
def State.post (s : State) (what : Instr) (arg : Arg) : State := { s with net := s.net ++ [⟨what, arg⟩] }

/-- A channel cache's set of a DRAM line: 256 sets (R51). The spec gives no index; the column and the lowest bits above the
coordinates that are fixed in one cache are taken: pseudo-channel, bank group and bank (entry 65). -/
def chanSet (d : Nat) : Nat := dlColumn d + 8 * (d / 4096 % 32)

/-- Fills sectors of a line into its channel cache (R51, R53): a line of an active window is pinned unless its set
already holds 12 pinned lines. -/
def chanFill (s : State) (line : Nat) (sectors : BitVec 4) : State :=
  match lineDram s line with
  | none => s
  | some d =>
    let c := dlCache d
    let ch := s.chan c
    match ch.lines.find? (fun l => l.line == line) with
    | some _ =>
      let more := fun (l : ChanLine) => { l with valid := l.valid ||| sectors, use := s.clock }
      s.setChan c { ch with lines := updWhere (fun l => l.line == line) more ch.lines }
    | none =>
      let same := ch.lines.filter (fun l => (lineDram s l.line).map chanSet == some (chanSet d))
      let pins := (same.filter (fun l => l.pinned.isSome)).length
      let win := windowOf s (paOffset (line * 128))
      let full := win.isSome && decide (12 ≤ pins)
      let s := if full then { s with ms := { s.ms with pinOverflow := satInc s.ms.pinOverflow } } else s
      let lines := if same.length < 16 then ch.lines else
        match leastBy (·.use) (same.filter (fun l => l.pinned.isNone)) with
        | none => ch.lines
        | some v => ch.lines.filter (fun l => l.line != v.line)
      s.setChan c { ch with lines := lines ++ [⟨line, sectors, if full then none else win, s.clock⟩] }

/-- Corrects the single-bit errors of the sectors read (R43). -/
def eccRead (s : State) (line : Nat) (sectors : BitVec 4) : State :=
  match lineDram s line with
  | none => s
  | some d =>
    let hit := (List.range 4).filter (fun i => sectors.getLsbD i && s.ecc1.contains (d * 4 + i))
    hit.foldl (fun s i =>
      logError { s with ecc1 := sectorDel (d * 4 + i) s.ecc1 } 0 0 0x0001 (dlStack d) 0 (line * 128 + 32 * i)) s

/-- The sectors of a line that its channel cache holds. -/
def chanValid (s : State) (line : Nat) : BitVec 4 :=
  match lineDram s line with
  | none => 0
  | some d => ((s.chan (dlCache d)).lines.find? (fun l => l.line == line)).elim 0 (·.valid)

/-- One completed miss of a channel cache: every 1,024th posts FADE_DECREMENT (R54). -/
def chanMiss (s : State) (c : Nat) : State :=
  let ch := s.chan c
  let s := s.setChan c { ch with misses := ch.misses + 1 }
  if (ch.misses + 1) % 1024 == 0 then s.post .fadeDecrement { chan := c } else s

/-- Reads sectors of a line from HBM into its channel cache: those that it lacks are a miss (R51, R54). -/
def chanServe (s : State) (line : Nat) (sectors : BitVec 4) : State :=
  match lineDram s line with
  | none => s
  | some d =>
    let need := sectors &&& ~~~(chanValid s line)
    if need == 0 then chanFill s line sectors
    else
      let s := chanMiss (chanFill (eccRead s line need) line sectors) (dlCache d)
      s.setChan (dlCache d) { s.chan (dlCache d) with fresh := (s.chan (dlCache d)).fresh ++ [line] }

/-- Whether the sectors asked for are at hand: published in the slice, or in the channel cache (R51, R70). -/
def sectorsReady (s : State) (line : Nat) (sectors : BitVec 4) : Bool :=
  (List.range 4).all (fun q => !sectors.getLsbD q || (chanValid s line).getLsbD q || sectorOver s line q)

/-- A read that finds its sectors at hand: a hit of the channel cache where it holds them, unless it is the read whose miss
brought them in (R51, R54). -/
def chanHit (s : State) (line : Nat) (sectors : BitVec 4) : State :=
  match lineDram s line with
  | none => s
  | some d =>
    let c := dlCache d
    let ch := s.chan c
    if ch.fresh.contains line then s.setChan c { ch with fresh := ch.fresh.erase line }
    else if sectors &&& ~~~(chanValid s line) != 0 || sectors == 0 then s
    else windowHit (chanFill s line sectors) (paOffset (line * 128))

def State.want (s : State) (w : Want) : State := if s.wants.contains w then s else { s with wants := s.wants ++ [w] }

/-- Reads sectors of a line from its memory side (R58, R59). Where they are not at hand the step waits for the channel. -/
def chanRead (s : State) (line : Nat) (sectors : BitVec 4) : State :=
  if (lineDram s line).isNone then s
  else if sectorsReady s line sectors then chanHit s line sectors else s.want (.chan line sectors)

/-- The sectors of an access as a mask. -/
def sectorMask (off n : Nat) : BitVec 4 :=
  BitVec.ofNat 4 ((touchedSectors off n).foldl (fun a i => a + 2 ^ i) 0)

end Sys2Proof.Machine
end

