-- ==== Sys2Proof/Machine/Access.lean ====
section
/-! DEFINITION. Finding and changing one hatch, path, core, block, launch, agent or directory entry of the state. -/

namespace Sys2Proof.Machine

def State.hatch? (s : State) (inst : Nat) : Option Hatch := s.hatches.find? (fun h => h.inst == inst)

def State.updHatch (s : State) (inst : Nat) (f : Hatch → Hatch) : State :=
  { s with hatches := updWhere (fun h => h.inst == inst) f s.hatches }

def Hatch.path? (h : Hatch) (slot : Nat) : Option Path := if slot == 0 then h.slot0 else h.slot1

def Hatch.setPath (h : Hatch) (slot : Nat) (p : Option Path) : Hatch :=
  if slot == 0 then { h with slot0 := p } else { h with slot1 := p }

def State.updPath (s : State) (inst slot : Nat) (f : Path → Path) : State :=
  s.updHatch inst (fun h => h.setPath slot ((h.path? slot).map f))

def State.core (s : State) (c : Nat) : Core := s.cores.getD c Core.reset

def State.updCore (s : State) (c : Nat) (f : Core → Core) : State := { s with cores := s.cores.set c (f (s.core c)) }

def coreDie (c : Nat) : Nat := c / 64

def State.block? (s : State) (inst : Nat) : Option Block := s.sched.blocks.find? (fun b => b.inst == inst)

def State.updBlock (s : State) (inst : Nat) (f : Block → Block) : State :=
  { s with sched := { s.sched with blocks := updWhere (fun b => b.inst == inst) f s.sched.blocks } }

def State.launch? (s : State) (id : Nat) : Option Launch := s.sched.launches.find? (fun l => l.id == id)

def State.updLaunch (s : State) (id : Nat) (f : Launch → Launch) : State :=
  { s with sched := { s.sched with launches := updWhere (fun l => l.id == id) f s.sched.launches } }

def State.watch? (s : State) (id : Nat) : Option Watch := s.sched.watches.find? (fun w => w.id == id)

def State.updWatch (s : State) (id : Nat) (f : Watch → Watch) : State :=
  { s with sched := { s.sched with watches := updWhere (fun w => w.id == id) f s.sched.watches } }

def State.op? (s : State) (id : Nat) : Option Op := s.ops.find? (fun o => o.id == id)

def State.updOp (s : State) (id : Nat) (f : Op → Op) : State := { s with ops := updWhere (fun o => o.id == id) f s.ops }

def State.dropOp (s : State) (id : Nat) : State := { s with ops := s.ops.filter (fun o => o.id != id) }

def State.ctx? (s : State) (c : Nat) : Option Ctx := s.tr.ctxs.getD c none

def ctxKernel (s : State) (c : Nat) : Bool := (s.ctx? c).elim false (·.kernel)

/-- A fresh instance or operation number. -/
def State.fresh (s : State) : Nat × State := (s.nextId, { s with nextId := s.nextId + 1 })

/-- A free choice of the machine below n (entry 6). -/
def State.choose (s : State) (n : Nat) : Nat × State := (Config.freeChoice s.draws % n, { s with draws := s.draws + 1 })

/-- A line of bytes that nothing determines (entry 6). -/
def State.openLine (s : State) : List Byte × State :=
  ((List.range 128).map (fun i => Config.freeByte (s.draws + i)), { s with draws := s.draws + 128 })

/-- The launch of a hatch. -/
def launchOf (s : State) (h : Hatch) : Option Launch := (s.block? h.block).bind (fun b => s.launch? b.launch)

/-- The empty launch record: what a hatch whose block is gone reads. -/
def LaunchRec.zero : LaunchRec :=
  { entry := 0, trap := 0, args := 0, blocks := 0, hatches := 0, coop := false, prot := false, redme := false
    ftz := false, dep := false, local_ := 0, floor := 0, peak := 0, tiles := 0, prio := 0, depthLimit := 0, pool := 0
    producers := [], spill := 0, groups := [] }

def recOf (s : State) (h : Hatch) : LaunchRec := (launchOf s h).elim LaunchRec.zero (·.rcd)
def ctxOf (s : State) (h : Hatch) : Nat := (launchOf s h).elim 0 (·.ctx)
def hatchKernel (s : State) (h : Hatch) : Bool := ctxKernel s (ctxOf s h)

/-- Everything that was waiting is tried again after a change. A path that found no register keeps its place (R177). -/
def State.wake (s : State) : State := { s with net := s.parked ++ s.net, parked := [], stalled := [] }

/-- Wakes a path that sleeps on a word for which `hit` holds (R388, R395). -/
def Path.wakeIf (hit : Bool → Nat → Bool) (p : Path) : Path :=
  match p.wait with
  | .waddr mem a _ => if hit mem a then { p with wait := .none } else p
  | .sema pa _ => if hit true pa then { p with wait := .none } else p
  | _ => p

def wakePaths (s : State) (who : Hatch → Bool) (hit : Bool → Nat → Bool) : State :=
  { s with hatches := updWhere who (fun h =>
      { h with slot0 := h.slot0.map (Path.wakeIf hit), slot1 := h.slot1.map (Path.wakeIf hit) }) s.hatches }

/-- A store, publish or forced publish of a line lets the paths that sleep on a word of it look again (R388). -/
def wakeLine (s : State) (line : Nat) : State := wakePaths s (fun _ => true) (fun mem a => mem && a / 128 == line)

/-- A write to a block's local store on a core lets its sleepers look again (R388). -/
def wakeLocal (s : State) (block core : Nat) : State :=
  wakePaths s (fun h => h.block == block && h.core == core) (fun mem _ => !mem)

/-! ### L1 lines -/

/-- A line as it comes into an L1. -/
def L1Line.fresh (line : Nat) (kind : L1Kind) (bs : List Byte) (p : BitVec 4) (mask : BitVec 128) : L1Line :=
  { line := line, kind := kind, bytes := bs, poison := p, dirty := 0, mask := mask, narrow := false, depth := 0, src := none
    quiet := 0, use := 0 }

def Core.line? (c : Core) (line : Nat) : Option L1Line := c.l1.find? (fun l => l.line == line)

def Core.updLine (c : Core) (line : Nat) (f : L1Line → L1Line) : Core :=
  { c with l1 := updWhere (fun l => l.line == line) f c.l1 }

def Core.dropLine (c : Core) (line : Nat) : Core := { c with l1 := c.l1.filter (fun l => l.line != line) }

/-- Whether an L1 kind may hold stores (R74, R75). -/
def L1Kind.writable : L1Kind → Bool
  | .exclusive => true
  | .privatised => true
  | _ => false

/-- Whether a copy is an untracked replica (R73, R382). -/
def L1Kind.replica_ : L1Kind → Bool
  | .replica => true
  | .ldcReplica => true
  | _ => false

/-- The cores of a die. -/
def dieCores (d : Nat) : List Nat := (List.range 64).map (fun i => d * 64 + i)

/-- The cores of a die with a property, by number. -/
def coresOn (s : State) (d : Nat) (p : Core → Bool) : List Nat :=
  (((s.cores.zipIdx.drop (64 * d)).take 64).filter (fun x => p x.1)).map (·.2)

/-- The cores of a die that hold a line writable. -/
def writersOn (s : State) (d line : Nat) : List Nat :=
  coresOn s d (fun k => (k.line? line).elim false (fun l => l.kind.writable))

/-- The cores of a die that hold a line. -/
def holdersOn (s : State) (d line : Nat) : List Nat := coresOn s d (fun k => (k.line? line).isSome)

/-! ### Agents and directory -/

def agentAt (s : State) (d line : Nat) : Option Agent :=
  s.coh.agents.find? (fun a => a.die == d && a.line == line && !a.wbBuf)

def updCoh (s : State) (f : Coh → Coh) : State := { s with coh := f s.coh }

def setAgent (s : State) (a : Agent) : State :=
  updCoh s (fun c => { c with
    agents := c.agents.filter (fun x => !(x.die == a.die && x.line == a.line && x.wbBuf == a.wbBuf)) ++ [a] })

def dropAgent (s : State) (d line : Nat) : State :=
  updCoh s (fun c => { c with agents := c.agents.filter (fun x => !(x.die == d && x.line == line && !x.wbBuf)) })

def dropBuffer (s : State) (d line : Nat) : State :=
  updCoh s (fun c => { c with agents := c.agents.filter (fun x => !(x.die == d && x.line == line && x.wbBuf)) })

def bufferAt (s : State) (d line : Nat) : Option Agent :=
  s.coh.agents.find? (fun a => a.die == d && a.line == line && a.wbBuf)

def DirEntry.empty (line : Nat) : DirEntry := ⟨line, .unc, none, [], none, [], false, none, [], [], false, 0⟩

def dirAt (s : State) (line : Nat) : DirEntry := (s.coh.dir.find? (fun e => e.line == line)).getD (DirEntry.empty line)

/-- Stores a directory entry; an entry that records nothing is dropped. -/
def setDir (s : State) (e : DirEntry) : State :=
  let idle := e.st == .unc && e.queue.isEmpty && e.lazy.isEmpty && e.req.isNone
  updCoh s (fun c => { c with
    dir := c.dir.filter (fun x => x.line != e.line) ++ (if idle then [] else [{ e with use := s.clock }]) })

def Moesi.holds : Moesi → Bool
  | .i => false
  | _ => true

def Moesi.dirty : Moesi → Bool
  | .m => true
  | .o => true
  | _ => false

end Sys2Proof.Machine
end

