-- ==== Sys2Proof/Machine/Links.lean ====
section
/-! DEFINITION. The fabric (02 R26 to R40, R449): where agents are attached, the routes of packets, the virtual channels and
credits of a link, flits and replay buffers, and the routers' wake. A packet moves in the step that sends it as far as
nothing holds it back (entry 63). -/

namespace Sys2Proof.Machine

/-! ### Where agents are attached (R26, R449) -/

/-- The compute router of a core: r = 0 to 7 in row-major order over rows 1 and 2, columns 1 to 4. -/
def coreRouter (c : Nat) : RouterId := ⟨coreDie c, 1 + c % 64 / 8 / 4, 1 + c % 64 / 8 % 4⟩

/-- The cluster of a core at its router (R449). -/
def coreCluster (c : Nat) : Nat := c % 8 / 2

/-- The 16 slice routers of a die in row-major order; two slices are attached to each (which two, entry 63). -/
def sliceRouters : List (Nat × Nat) :=
  (List.range 6).map (fun c => (0, c)) ++ [(1, 0), (1, 5), (2, 0), (2, 5)] ++ (List.range 6).map (fun c => (3, c))

def sliceRouter (die slice : Nat) : RouterId :=
  let rc := sliceRouters.getD (slice / 2) (0, 0)
  ⟨die, rc.1, rc.2⟩

/-- The router of a die's dispatcher. -/
def dispatcherRouter (die : Nat) : RouterId := ⟨die, 1, 0⟩

/-- The router of the slice that serves a line on a die: its home slice, an agent slice or the host agent slice (R70). -/
def lineRouter (s : State) (die line : Nat) : Station := .router (sliceRouter die (homeSlice s line))

/-! ### Bridges (R30, R31) -/

/-- The bridge ports of a die towards a peer, in the order of R30: a compute die d XOR k for k = 1 to 3, the I/O die for 0. -/
def peerPorts (k : Nat) : List (Nat × Nat) :=
  if k == 1 then [(0, 0), (0, 1), (0, 2), (0, 3)] else if k == 2 then [(3, 0), (3, 1), (3, 2), (3, 3)]
  else if k == 3 then [(0, 4), (0, 5), (3, 4), (3, 5)] else [(1, 0), (2, 0), (1, 5), (2, 5)]

/-- The peer that a bridge port's router serves. -/
def portPeer (r c : Nat) : Nat := ((List.range 4).find? (fun k => (peerPorts k).contains (r, c))).getD 0

/-- The other end of a link of the package. -/
def peerEnd : LinkId → Option LinkId
  | .grid d r c pr pc => some (.grid d pr pc r c)
  | .bridge d r c => some (if portPeer r c == 0 then .io d r c else .bridge (Nat.xor d (portPeer r c)) r c)
  | .io d r c => some (.bridge d r c)
  | .ulain _ => none

/-- The router at this end of a link. -/
def linkRouter : LinkId → Option RouterId
  | .grid d r c _ _ => some ⟨d, r, c⟩
  | .bridge d r c => some ⟨d, r, c⟩
  | .io _ _ _ => none
  | .ulain _ => none

/-- Where a link leads. -/
def linkTo (id : LinkId) (chip : Nat) : Station :=
  match peerEnd id with
  | none => .chip chip
  | some e => (linkRouter e).elim .io .router

/-! ### Links -/

def State.link? (s : State) (id : LinkId) : Option Link := s.fab.links.find? (fun l => l.id == id)

def State.link (s : State) (id : LinkId) : Link := (s.link? id).getD (Link.reset id .up)

/-- Changes a link end; one that has carried nothing yet begins at its reset state. -/
def State.updLink (s : State) (id : LinkId) (f : Link → Link) : State :=
  let l := f (s.link id)
  { s with fab := { s.fab with
    links := if (s.link? id).isSome then updWhere (fun x => x.id == id) (fun _ => l) s.fab.links else s.fab.links ++ [l] } }

def ulainUp (s : State) (p : Nat) : Bool := (s.fab.ulain.getD p UlainPort.reset).state == .up

/-- Whether a link can carry flits: both its ends are up, and a Ulain port has trained. -/
def linkUp (s : State) (id : LinkId) : Bool :=
  (s.link id).state == .up && (match id with
    | .ulain p => ulainUp s p
    | _ => (peerEnd id).elim true (fun e => (s.link e).state == .up))

/-- Whether a link is not out of service: it may be retraining. -/
def linkLives (s : State) (id : LinkId) : Bool :=
  (s.link id).state != .down && (match id with
    | .ulain p => ulainUp s p
    | _ => (peerEnd id).elim true (fun e => (s.link e).state != .down))

/-! ### Routes (R27, R31, R35, R40) -/

/-- One straight hop of a grid: the direct link, or around it through a third router of the same row or column (R35). -/
def straight (s : State) (d : Nat) (a b : Nat × Nat) : Option (List LinkId) :=
  let lk := fun (x y : Nat × Nat) => LinkId.grid d x.1 x.2 y.1 y.2
  if a == b then some []
  else if linkLives s (lk a b) then some [lk a b]
  else
    let third := if a.1 == b.1 then (List.range 6).map (fun c => (a.1, c)) else (List.range 4).map (fun r => (r, a.2))
    (third.find? (fun x => x != a && x != b && linkLives s (lk a x) && linkLives s (lk x b))).map (fun x => [lk a x, lk x b])

/-- The way across a grid: the row link and then the column link (R27). -/
def gridRoute (s : State) (d : Nat) (a b : Nat × Nat) : Option (List LinkId) := do
  let row ← straight s d a (a.1, b.2)
  let col ← straight s d (a.1, b.2) b
  return row ++ col

/-- The port of a list that the address selects, or the next one that is in service (R31, R35). -/
def pickPort {α : Type} (ports : List α) (i : Nat) (ok : α → Bool) : Option α :=
  (ports.drop (i % ports.length) ++ ports.take (i % ports.length)).find? ok

/-- The bridge port of a die towards a peer: by PA[8:7] for a line, else by the sending router's column (R31). -/
def bridgeFor (s : State) (d k : Nat) (pa : Option Nat) (col : Nat) : Option (Nat × Nat) :=
  pickPort (peerPorts k) (pa.elim (col % 4) (fun a => bitsOf a 8 7)) (fun x => linkLives s (.bridge d x.1 x.2))

/-- The set ports of a chip's mask (R39). -/
def routePorts (s : State) (chip : Nat) : List Nat := (List.range 12).filter (fun p => (s.fab.routes.getD chip 0).getLsbD p)

/-- The Ulain port for a PA: the set port that R40 names, or the next set port that is UP. -/
def forwardPort (s : State) (chip pa : Nat) : Option Nat := pickPort (routePorts s chip) (bitsOf pa 14 7) (fun p => ulainUp s p && linkLives s (.ulain p))

/-- The links from one station to another; none when no route remains (R36). -/
def routeFrom (s : State) (src dst : Station) (pa : Option Nat) : Option (List LinkId) :=
  match src, dst with
  | .router a, .router b =>
    if a.die == b.die then gridRoute s a.die (a.row, a.col) (b.row, b.col)
    else do
      let x ← bridgeFor s a.die (Nat.xor a.die b.die) pa a.col
      let out ← gridRoute s a.die (a.row, a.col) x
      let inn ← gridRoute s b.die x (b.row, b.col)
      return out ++ [.bridge a.die x.1 x.2] ++ inn
  | .router a, .chip c => do
    let x ← bridgeFor s a.die 0 pa a.col
    let out ← gridRoute s a.die (a.row, a.col) x
    let p ← forwardPort s c (pa.getD 0)
    return out ++ [.bridge a.die x.1 x.2, .ulain p]
  | .router a, .io => do
    let x ← bridgeFor s a.die 0 pa a.col
    let out ← gridRoute s a.die (a.row, a.col) x
    return out ++ [.bridge a.die x.1 x.2]
  | .io, .router b => do
    let x ← bridgeFor s b.die 0 pa b.col
    let inn ← gridRoute s b.die x (b.row, b.col)
    return .io b.die x.1 x.2 :: inn
  | .io, .chip c => (forwardPort s c (pa.getD 0)).map (fun p => [.ulain p])
  | .io, .io => some []
  | .chip _, _ => none

/-! ### Flits (R32) -/

/-- One bit of the reflected CRC-32C. -/
def crcBit (c : BitVec 32) : BitVec 32 := if c.getLsbD 0 then (c >>> 1) ^^^ 0x82F63B78 else c >>> 1

def crcByte (c : BitVec 32) (b : Byte) : BitVec 32 :=
  (List.range 8).foldl (fun c _ => crcBit c) (c ^^^ b.setWidth 32)

/-- CRC-32C of bytes. -/
def crc32c (bs : List Byte) : BitVec 32 := ~~~(bs.foldl crcByte 0xFFFFFFFF)

def flitBytes (f : BitVec 512) : List Byte := (List.range 64).map (fun i => f.extractLsb' (8 * i) 8)
def flitHeader (f : BitVec 512) : Nat := (f.extractLsb' 0 32).toNat
def flitKind (f : BitVec 512) : Nat := bitsOf (flitHeader f) 31 29
def flitSeq (f : BitVec 512) : Nat := bitsOf (flitHeader f) 28 20
def flitAck (f : BitVec 512) : Nat := bitsOf (flitHeader f) 19 11
def flitVc (f : BitVec 512) : Nat := bitsOf (flitHeader f) 10 8
def flitCredit (f : BitVec 512) : Nat := bitsOf (flitHeader f) 7 0

/-- A flit without a CRC error: its CRC holds, and no reserved value is in its header. -/
def flitGood (f : BitVec 512) : Bool :=
  crc32c ((flitBytes f).take 60) == f.extractLsb' 480 32 && decide (flitKind f < 7) && decide (flitVc f < 6) && decide (flitCredit f < 64)

/-- Whether a flit takes part in the sequence. -/
def flitCounts (f : BitVec 512) : Bool := decide (1 ≤ flitKind f) && decide (flitKind f ≤ 4)

/-- A flit of its header fields and payload, with its CRC. -/
def flitOf (kind seq ack vc credit : Nat) (payload : BitVec 448) : BitVec 512 :=
  let header := BitVec.ofNat 32 (kind % 8 * 2 ^ 29 + seq % 512 * 2 ^ 20 + ack % 512 * 2 ^ 11 + vc % 8 * 2 ^ 8 + credit % 256)
  let body := header.setWidth 480 ||| (payload.setWidth 480 <<< 32)
  let crc := crc32c ((List.range 60).map (fun i => body.extractLsb' (8 * i) 8))
  body.setWidth 512 ||| (crc.setWidth 512 <<< 480)

def TrafficClass.code : TrafficClass → Nat
  | .req => 0
  | .snp => 1
  | .rsp => 2
  | .dat => 3
  | .trg => 4
  | .mgt => 5

def classes : List TrafficClass := [.req, .snp, .rsp, .dat, .trg, .mgt]

/-! ### Credits (R28) -/

def creditAdd (xs : List Nat) (c n : Nat) : List Nat := xs.modify c (· + n)

/-- The CREDIT field of the next flit of a link end: one credit of each class that is owed. -/
def creditBits (l : Link) : Nat := (List.range 6).foldl (fun a c => a + (if l.owed.getD c 0 == 0 then 0 else 2 ^ c)) 0

/-- The credits of a CREDIT field have been given back. -/
def payCredits (l : Link) : Link := { l with owed := l.owed.map (· - 1) }

/-- Takes the credits that a received flit returns. -/
def takeCredits (s : State) (id : LinkId) (bits : Nat) : State :=
  s.updLink id (fun l => { l with credits := l.credits.zipIdx.map (fun x => x.1 + (if bitAt bits x.2 then 1 else 0)) })

/-- An ACK or NACK flit: no sequence number, the last good SEQ, zero payload (R32). A link inside the package carries what
it says to the other end. -/
def emitControl (s : State) (id : LinkId) (kind : Nat) : State :=
  let l := s.link id
  let s := s.updLink id payCredits
  s.emit (.flit id (flitOf kind 0 l.lastGood 0 (creditBits l) 0))

/-- A held flit as it is sent: with the acknowledgement and credits of now, and its packet's content (entry 63). -/
def heldBits (l : Link) (f : HeldFlit) : BitVec 512 :=
  flitOf f.kind f.seq l.lastGood f.cls.code (creditBits l) (Config.packetContent f.packet f.index)

/-! ### Routers (R37, R38) -/

def State.router (s : State) (id : RouterId) : Router := (s.fab.routers.find? (fun r => r.id == id)).getD ⟨id, .active, 0⟩

def setRouter (s : State) (id : RouterId) (st : RouterState) : State :=
  let up := fun (r : Router) => { r with state := st, since := s.clock }
  { s with fab := { s.fab with routers := updWhere (fun r => r.id == id) up s.fab.routers } }

/-- A wake takes precedence over power-down (R38): also over one that ends in the same clock. -/
def wakeRouter (s : State) (id : RouterId) : State :=
  match (s.router id).state with
  | .active => setRouter s id .active
  | .downing => setRouter s id .active
  | .down => if (s.router id).since == s.clock then setRouter s id .active else setRouter s id .waking
  | .waking => s

def routersOf (id : LinkId) : List RouterId := (linkRouter id).toList ++ ((peerEnd id).bind linkRouter).toList

/-- Wakes the routers at both ends of a link: a flit is held for them. -/
def wakeEnds (s : State) (id : LinkId) : State := (routersOf id).foldl wakeRouter s

def endsActive (s : State) (id : LinkId) : Bool := (routersOf id).all (fun r => (s.router r).state == .active)

/-! ### Moving packets (R28, R33) -/

/-- The KIND of the n-th flit of a packet (R32): a single flit, a head, a body or the tail. -/
def flitKindOf (p : Packet) : Nat :=
  if p.size == 1 then 4 else if p.sent == 0 then 1 else if p.sent + 1 == p.size then 3 else 2

def updPacket (s : State) (id : Nat) (f : Packet → Packet) : State :=
  { s with fab := { s.fab with packets := updWhere (fun p => p.id == id) f s.fab.packets } }

def dropPacket (s : State) (id : Nat) : State :=
  { s with fab := { s.fab with packets := s.fab.packets.filter (fun p => p.id != id) } }

/-- The packets that wait to put a flit of a class on a link. -/
def waitingFor (s : State) (id : LinkId) (c : TrafficClass) : List Packet :=
  s.fab.packets.filter (fun p => p.route.head? == some id && p.cls == c && decide (p.sent < p.size))

/-- The round-robin choice among the classes that have both a flit and a credit (R28). -/
def arbitrate (s : State) (id : LinkId) : Option Packet :=
  let l := s.link id
  (classes.drop l.turn ++ classes.take l.turn).findSome? (fun c =>
    if l.credits.getD c.code 0 == 0 then none else (waitingFor s id c).head?)

/-- A link end gives back the buffer that a flit of a packet left (R28). -/
def freeBuffer (s : State) (p : Packet) (n : Nat) : State :=
  match p.fills with
  | none => s
  | some id => s.updLink id (fun l => { l with credits := creditAdd l.credits p.cls.code n })

/-- What a packet carries is handed over at the end of its route, with the sender's router, which tells its stream (R29), and the
clock (R81). -/
def handOver (s : State) (p : Packet) : State :=
  match p.cargo with
  | .event e =>
    let from_ : RouterId := match p.src with
      | .router r => r
      | _ => ⟨4, 0, 0⟩
    { s with net := s.net ++ [{ e with arg := { e.arg with router := from_, seq := s.clock } }] }
  | .chip _ => s
  | .forward _ _ _ => s

/-- What a Ulain port carries out once the last flit of a packet is on it. -/
def handOut (s : State) (port : Nat) (p : Packet) : State :=
  match p.cargo with
  | .event _ => s
  | .chip m => s.emit (.toChip port (p.hops + 1) m)
  | .forward chip pa hops => s.emit (.ulain port chip pa (hops + 1))

/-- A packet has crossed a link: it stands at the next station, or has arrived. -/
def crossed (s : State) (p : Packet) (id : LinkId) : State :=
  let q : Packet := { p with here := linkTo id 0, route := p.route.tail, sent := 0, got := 0, hops := p.hops + 1, fills := some id }
  if q.route.isEmpty then handOver (freeBuffer (dropPacket s p.id) q q.size) q
  else updPacket s p.id (fun _ => q)

/-- A flit is accepted at the other end of a link inside the package, which acknowledges it (R33). -/
def acceptFlit (s : State) (id peer : LinkId) (f : HeldFlit) : State :=
  let s := s.updLink peer (fun l => { l with lastGood := f.seq, discarding := false, winFlits := l.winFlits + 1 })
  let s := s.updLink id (fun l => { l with held := l.held.filter (fun x => x.seq != f.seq), replays := 0, ackAt := s.clock })
  match s.fab.packets.find? (fun p => p.id == f.packet) with
  | none => s
  | some p =>
    let p := { p with got := p.got + 1 }
    if p.got == p.size then crossed s p id else updPacket s p.id (fun _ => p)

/-- Puts the next flit of a packet on a link (R33): it is held until it is acknowledged. -/
def sendFlit (s : State) (id : LinkId) (p : Packet) : State :=
  let l := s.link id
  let f : HeldFlit := ⟨l.nextSeq, flitKindOf p, p.cls, p.id, p.sent⟩
  let s := (routersOf id).foldl (fun s r => setRouter s r .active) s
  let s := s.updLink id (fun l => { l with
    nextSeq := (l.nextSeq + 1) % 512, held := l.held ++ [f], credits := l.credits.modify p.cls.code (· - 1)
    turn := (p.cls.code + 1) % 6, ackAt := if l.held.isEmpty then s.clock else l.ackAt })
  let s := freeBuffer s p 1
  let s := updPacket s p.id (fun p => { p with sent := p.sent + 1 })
  match peerEnd id, id with
  | some e, _ => acceptFlit s id e f
  | none, .ulain port =>
    let s := (s.updLink id payCredits).emit (.flit id (heldBits l f))
    if p.sent + 1 == p.size && !p.out then handOut (updPacket s p.id (fun q => { q with out := true })) port p else s
  | none, _ => s

/-- Whether a link takes a flit now: it is in service, its replay buffer has room and its routers are active. -/
def linkReady (s : State) (id : LinkId) : Bool :=
  linkUp s id && decide ((s.link id).held.length < 256) && endsActive s id

/-- The links at which packets wait. -/
def pumpLinks (s : State) : List LinkId := dedup ((s.fab.packets.filter (fun p => decide (p.sent < p.size))).filterMap (fun p => p.route.head?))

/-- One flit moves, if any can. -/
def pumpOnce (s : State) : Option State :=
  (pumpLinks s).findSome? (fun id => if linkReady s id then (arbitrate s id).map (sendFlit s id) else none)

/-- Wakes the routers that flits are held for (R38). -/
def wakeHeld (s : State) : State := (pumpLinks s).foldl (fun s id => if endsActive s id then s else wakeEnds s id) s

/-- Flits move until none can; a packet that has come to a router wakes the next one. -/
def pumpN : Nat → State → State
  | 0, s => wakeHeld s
  | n + 1, s => let s := wakeHeld s
    match pumpOnce s with
    | none => s
    | some s => pumpN n s

/-- Flits move as long as any can; a router that one is held for is woken (R38). -/
def pump (s : State) : State :=
  if s.fab.packets.isEmpty then s
  else pumpN (s.fab.packets.foldl (fun a p => a + p.size * p.route.length) 0) s

/-- Sends a packet of n flits. One with nowhere to go stays behind as lost (R36). -/
def inject (s : State) (cls : TrafficClass) (src dst : Station) (pa : Option Nat) (n : Nat) (cargo : Cargo) : State :=
  let p : Packet :=
    { id := s.fab.nextPacket, cls := cls, src := src, dst := dst, here := src, pa := pa, route := [], size := n, sent := 0, got := 0
      hops := 0, fills := none, out := false, cargo := cargo }
  let s : State := { s with fab := { s.fab with nextPacket := s.fab.nextPacket + 1 } }
  match routeFrom s src dst pa with
  | none => { s with fab := { s.fab with lost := s.fab.lost ++ [p] } }
  | some [] => handOver s p
  | some r => pump { s with fab := { s.fab with packets := s.fab.packets ++ [{ p with route := r }] } }

/-- Flits of a packet of a class: data do not fit in one payload of 56 bytes (R32, entry 63). -/
def classFlits : TrafficClass → Nat
  | .dat => 3
  | _ => 1

/-- Sends a message of this package for a line, or for none. -/
def State.send (s : State) (cls : TrafficClass) (src dst : Station) (line : Option Nat) (what : Instr) (arg : Arg) : State :=
  inject s cls src dst (line.map (· * 128)) (classFlits cls) (.event ⟨what, arg⟩)

/-- Sends a coherence message to another package (R39, R40). -/
def sendChip (s : State) (cls : TrafficClass) (src : Station) (m : ChipMsg) : State :=
  inject s cls src (.chip m.chip) (some (m.line * 128)) (if m.data.bytes.isEmpty then 1 else 3)
    (.chip { m with data := { m.data with src := none } })

/-- The other packages of the domain: those that a routing mask reaches and that have not failed (R39, R84). -/
def otherChips (s : State) : List Nat :=
  (List.range 16).filter (fun c => c != s.fab.chipId && !(routePorts s c).isEmpty && !s.fab.failedChips.contains c)

/-- What is asked of another package as one of the domain, under a number, or the answer under that number (entry 69). -/
def sendDomain (s : State) (cls : TrafficClass) (chip key : Nat) (a : DomainAct) : State :=
  sendChip s cls .io { chip := chip, kind := 21, who := .agent s.fab.chipId 0, line := 0, op := key, act := some a }

/-- Tells every other package something that it need not answer. -/
def tellDomain (s : State) (a : DomainAct) : State := (otherChips s).foldl (fun s c => sendDomain s .snp c 0 a) s

/-- Packets leave a link that is out of service and go on from where they stand, in their order; flits that were accepted
are not sent again (R29, R35). -/
def reroute (s : State) : State :=
  let bad := fun (p : Packet) => p.route.any (fun id => !linkLives s id)
  let plan := fun (p : Packet) => (routeFrom s p.here p.dst p.pa).map (fun r => { p with route := r, sent := p.got, size := p.size })
  let keep := s.fab.packets.filterMap (fun p => if bad p then plan p else some p)
  let lost := s.fab.packets.filter (fun p => bad p && (plan p).isNone)
  pump { s with fab := { s.fab with packets := keep, lost := s.fab.lost ++ lost } }

/-- Whether an end of a router's links holds a flit, owes a credit, or a packet stands at it (R37). -/
def routerHolds (s : State) (id : RouterId) : Bool :=
  s.fab.links.any (fun l => linkRouter l.id == some id && (!l.held.isEmpty || l.owed.any (· != 0))) ||
  s.fab.packets.any (fun p => p.here == .router id)

/-- The stream of a message of the fabric (R29): its class, the router that sent it and the agent it goes to. Other events have
none. -/
def Event.stream (s : State) (e : Event) : Option (TrafficClass × RouterId × Station) :=
  let home := fun (c : TrafficClass) => some (c, e.arg.router, lineRouter s (homeDie s e.arg.line) e.arg.line)
  let agent := fun (c : TrafficClass) => some (c, e.arg.router, lineRouter s e.arg.die e.arg.line)
  match e.what with
  | .rdRequest => home .req
  | .rdxRequest => home .req
  | .upgRequest => home .req
  | .wbRequest => home .req
  | .fwdS => agent .snp
  | .fwdX => agent .snp
  | .inv => agent .snp
  | .pub => agent .snp
  | .invAck => home .rsp
  | .snoopResponse => home .rsp
  | .upgAck => agent .rsp
  | .wbAck => agent .rsp
  | .dataResponse => agent .dat
  | .triggerDispatch => some (.trg, e.arg.router, .router (dispatcherRouter e.arg.die))
  | .spawnPlacement => some (.trg, e.arg.router, .router (dispatcherRouter (coreDie e.arg.core)))
  | _ => none

end Sys2Proof.Machine
end

