-- ==== Sys2Proof/Machine/Coherence.lean ====
section
/-! DEFINITION. Coherence (04): commits at a home and the triggers they raise, publishing, draining, merging, taking a
line for its home, the requests an agent sends, and reading a line for a core. The messages themselves are served in
Coher.lean. -/

namespace Sys2Proof.Machine

/-! ### Commits and triggers raised (R69, R135, R140) -/

/-- The granules of a watch that some byte of a line changes. -/
def changedGranules (w : Watch) (pa : Nat) (old new : List Byte) : List Nat :=
  let at_ := (List.range 128).filter (fun i =>
    decide (w.base ≤ pa + i) && decide (pa + i < w.base + w.size) && old.getD i 0 != new.getD i 0)
  dedup (at_.map (fun i => (pa + i - w.base) / 2 ^ w.granule))

/-- The first byte of a granule, by its place in its line, that a commit changes. -/
def firstChange (w : Watch) (pa : Nat) (old new : List Byte) (g : Nat) : Nat :=
  ((List.range 128).find? (fun i => decide (w.base + g * 2 ^ w.granule ≤ pa + i) && decide (pa + i < w.base + (g + 1) * 2 ^ w.granule) &&
    old.getD i 0 != new.getD i 0)).getD 0

/-- Where the bytes of a mask that go on without a gap up to byte i begin. -/
def runStart (mask : BitVec 128) : Nat → Nat
  | 0 => 0
  | i + 1 => if mask.getLsbD i then runStart mask i else i + 1

/-- The address of the store that changes byte i of a line (R140): the lane's of the storing instruction, or else where the written
bytes begin. Of a line that comes back whole the byte is all that is known (DEDUCED, entry 70). -/
def storeAt (pa i : Nat) (mask : BitVec 128) (src : Option Raiser) : Nat :=
  match src.bind (fun r => r.stores.find? (fun x => decide (x.1 ≤ pa + i) && decide (pa + i < x.1 + x.2))) with
  | some x => x.1
  | none => if mask == BitVec.allOnes 128 then pa + i else pa + runStart mask i

/-- Notes the triggers of a commit of masked bytes: `depth` is the trigger's depth (R140). A watch being detached takes none (R106). -/
def raiseTriggers (s : State) (line : Nat) (old new : List Byte) (mask : BitVec 128) (depth : Nat) (src : Option Raiser) : State :=
  let pa := line * 128
  let rs := (s.sched.watches.filter (fun w => !w.detaching)).flatMap (fun w =>
    (changedGranules w pa old new).map (fun g => (⟨w.id, g, depth, storeAt pa (firstChange w pa old new g) mask src, src⟩ : Raise)))
  { s with sched := { s.sched with raised := s.sched.raised ++ rs } }

/-- Commits masked bytes of a line at its home or host agent slice. `trig` holds the trigger's depth and its store; none
for a commit that raises nothing; bytes of `quiet` are silent (R135). -/
def homeCommit (s : State) (line : Nat) (bs : List Byte) (mask : BitVec 128) (trig : Option (Nat × Option Raiser))
    (quiet : BitVec 128 := 0) : State :=
  let old := homeRead s line
  let s' := wakeLine (homeWriteMask s line bs mask) line
  match trig with
  | none => s'
  | some (d, src) => raiseTriggers s' line old (maskBytes old bs (mask &&& ~~~quiet)) mask d src

def maskOf (off n : Nat) : BitVec 128 := BitVec.ofNat 128 ((2 ^ n - 1) * 2 ^ off)

/-- Bytes of one access placed in a line. -/
def lineImage (off : Nat) (bs : List Byte) : List Byte := spliceBytes (List.replicate 128 0) off bs

/-- The dies whose L1s one coherence point serves, point by point: a host line has one point in the package (R70). -/
def linePoints (line : Nat) : List (List Nat) := if lineIsHost line then [[0, 1, 2, 3]] else [[0], [1], [2], [3]]

/-- The die whose coherence point serves a core of die d for a line, and the dies that share it (R70). -/
def pointDie (d line : Nat) : Nat := if lineIsHost line then hostDie line else d
def pointDies (d line : Nat) : List Nat := if lineIsHost line then [0, 1, 2, 3] else [d]

def writersAt (s : State) (ds : List Nat) (line : Nat) : List Nat := ds.flatMap (fun d => writersOn s d line)
def holdersAt (s : State) (ds : List Nat) (line : Nat) : List Nat := ds.flatMap (fun d => holdersOn s d line)

/-- Whether die d holds the line's home (R70). -/
def isHomeDie (s : State) (d line : Nat) : Bool := lineIsOwn s line && homeDie s line == d

/-- Poison that a masked write leaves: a sector written wholly is clean. -/
def poisonAfter (p : BitVec 4) (mask : BitVec 128) : BitVec 4 :=
  BitVec.ofNat 4 ((List.range 4).foldl (fun a q =>
    a + (if p.getLsbD q && !((List.range 32).all (fun i => mask.getLsbD (32 * q + i))) then 2 ^ q else 0)) 0)

/-- A line holds a store of a depth: the highest is kept, with its store (R69, R140). -/
def noteStore (d : LineData) (depth : Nat) (src : Option Raiser) : LineData :=
  if d.depth < depth || d.depth == depth && d.src.isNone then { d with depth := depth, src := src } else d

/-- Writes masked bytes into the coherence point of a die (R70, R76). At the home, and at a host agent slice, the bytes
are compared for triggers, but for those of `quiet`; `depth` is the highest depth of the stores. -/
def pointWrite (s : State) (d line : Nat) (bs : List Byte) (mask : BitVec 128) (depth : Nat) (src : Option Raiser)
    (quiet : BitVec 128) : State :=
  if isHomeDie s d line then homeCommit s line bs mask (some (depth + 1, src)) quiet
  else match agentAt s d line with
    | none => homeCommit s line bs mask (some (depth + 1, src)) quiet
    | some a =>
      let new := maskBytes a.data.bytes bs mask
      let s := if lineIsHost line then raiseTriggers s line a.data.bytes (maskBytes a.data.bytes bs (mask &&& ~~~quiet)) mask (depth + 1) src else s
      let st := if a.st == .e then Moesi.m else a.st
      let data := noteStore { a.data with
        bytes := new, poison := poisonAfter a.data.poison mask, quiet := a.data.quiet &&& ~~~mask ||| quiet &&& mask } depth src
      wakeLine (setAgent s { a with st := st, data := data }) line

/-! ### Release records and lists (R77) -/

/-- A core leaves the lazy-release list of a line whose home is here. -/
def quitList (s : State) (c line : Nat) : State :=
  let e := dirAt s line
  if e.lazy.contains (s.fab.chipId, c) then setDir s { e with lazy := e.lazy.erase (s.fab.chipId, c) } else s

/-- A line has left a core unpublished bytes no more: it leaves the records of the core's releases, and the core the lists of
those that have no line left. -/
def leaveReleases (s : State) (c line : Nat) : State :=
  let hit := (s.core c).releases.filter (fun r => r.lines.contains line)
  if hit.isEmpty then s
  else
    let drop := fun (r : Release) => { r with lines := r.lines.filter (fun x => x != line) }
    let gone := hit.filter (fun r => (drop r).lines.isEmpty)
    let s := s.updCore c (fun k => { k with releases := (k.releases.filter (fun r => !gone.contains r)).map drop })
    gone.foldl (fun s r => quitList s c r.line) s

/-- The lines that a core holds dirty. -/
def dirtyLines (s : State) (c : Nat) : List Nat := ((s.core c).l1.filter (fun l => l.dirty != 0)).map (·.line)

/-- A core records which dirty lines belong to a release of a line. -/
def noteRelease (s : State) (c line : Nat) : State :=
  let mine := ((s.core c).releases.filter (fun r => r.line == line)).flatMap (·.lines)
  let lines := dedup (mine ++ (dirtyLines s c).filter (fun x => x != line))
  s.updCore c (fun k => { k with releases := k.releases.filter (fun r => r.line != line) ++ [⟨line, lines⟩] })

/-! ### Publishing and draining (R76 to R79) -/

/-- Writes the dirty bytes of one L1 line into its coherence point and clears the mask. Read copies in the other L1s of the point
fall (R209). -/
def publishBytes (s : State) (c line : Nat) : State :=
  match (s.core c).line? line with
  | none => s
  | some l =>
    if l.dirty == 0 then s
    else
      let s := pointWrite s (pointDie (coreDie c) line) line l.bytes l.dirty l.depth l.src l.quiet
      let clean := fun (x : L1Line) => { x with dirty := 0, narrow := false, depth := 0, src := none, quiet := 0 }
      let s := leaveReleases (s.updCore c (fun k => k.updLine line clean)) c line
      (holdersAt s (pointDies (coreDie c) line) line).foldl (fun s o =>
        if o != c && ((s.core o).line? line).elim false (fun x => x.kind == .read) then s.updCore o (fun k => k.dropLine line) else s) s

/-- A core drains for a release (R76): the lines that the release found dirty are published. -/
def drainFor (s : State) (c line : Nat) : State :=
  let lines := ((s.core c).releases.filter (fun r => r.line == line)).flatMap (·.lines)
  let s := lines.foldl (fun s x => publishBytes s c x) s
  s.updCore c (fun k => { k with releases := k.releases.filter (fun r => r.line != line) })

/-- A core drains for all that it has released or stored: every dirty line is published. -/
def drainCore (s : State) (c : Nat) : State :=
  let rs := (s.core c).releases
  let s := (dirtyLines s c).foldl (fun s x => publishBytes s c x) s
  rs.foldl (fun s r => quitList s c r.line) (if rs.isEmpty then s else s.updCore c (fun k => { k with releases := [] }))

/-- Publishes one L1 line; a narrow one drains for its release first (R79). -/
def publishRaw (s : State) (c line : Nat) : State :=
  publishBytes (if ((s.core c).line? line).elim false (·.narrow) then drainFor s c line else s) c line

/-- A forced publish of one core's copy (R78, R79). -/
def forcePublish (s : State) (c line : Nat) : State :=
  match (s.core c).line? line with
  | none => s
  | some l =>
    if !l.kind.writable then s
    else
      let s := updCoh s (fun x => { x with forcedPub := satInc x.forcedPub })
      publishRaw (if l.narrow then updCoh s (fun x => { x with widen := satInc x.widen }) else s) c line

/-- Drops every tracked L1 copy of a line at a point. -/
def dropCopies (s : State) (ds : List Nat) (line : Nat) : State :=
  (holdersAt s ds line).foldl (fun s c =>
    if ((s.core c).line? line).elim false (fun l => !l.kind.replica_) then s.updCore c (fun k => k.dropLine line) else s) s

/-- Every writable L1 copy of a line at a point is published (R434). -/
def publishDie (s : State) (ds : List Nat) (line : Nat) : State := (writersAt s ds line).foldl (fun s c => publishRaw s c line) s

/-- Writable copies become read copies (R434). -/
def demoteDie (s : State) (ds : List Nat) (line : Nat) : State :=
  (writersAt s ds line).foldl (fun s c => s.updCore c (fun k => k.updLine line (fun l => { l with kind := .read, mask := 0 }))) s

/-- Whether some writable copy at a point is privatised (R75). -/
def privatisedOn (s : State) (ds : List Nat) (line : Nat) : Bool :=
  (writersAt s ds line).any (fun c => ((s.core c).line? line).elim false (fun l => l.kind == .privatised))

/-- A merge at a point (R75): every holder publishes and invalidates. -/
def mergeDie (s : State) (ds : List Nat) (line : Nat) : State :=
  let ws := writersAt s ds line
  let s := if ws.isEmpty then s else updCoh s (fun x => { x with merge := satInc x.merge })
  ws.foldl (fun s c => s.updCore c (fun k => k.dropLine line)) (publishDie s ds line)

/-- A merge only where privatised copies exist; the copies are published either way. -/
def settleDie (s : State) (ds : List Nat) (line : Nat) : State :=
  if privatisedOn s ds line then mergeDie s ds line else publishDie s ds line

/-- The forced publishes of a line at a point; privatised copies are merged by them (R75, R78). -/
def forceDie (s : State) (ds : List Nat) (line : Nat) : State :=
  let split := privatisedOn s ds line
  let s := (writersAt s ds line).foldl (fun s c => forcePublish s c line) s
  if split then mergeDie s ds line else s

/-! ### Parties of other packages -/

def foreignWho (s : State) : Who → Bool
  | .agent c _ => c != s.fab.chipId
  | .host _ => false

/-- The agents of other packages that hold a line whose home is here. -/
def foreignHolders (s : State) (line : Nat) : List Who :=
  if !lineIsOwn s line then [] else ((dirAt s line).owner.toList ++ (dirAt s line).sharers).filter (foreignWho s)

/-- Whether another package holds such a line, or takes part in its transient state. -/
def foreignHolds (s : State) (line : Nat) : Bool :=
  lineIsOwn s line && (let e := dirAt s line
    (e.owner.toList ++ e.sharers ++ e.awaiting ++ (e.req.map (·.1)).toList).any (foreignWho s))

/-! ### Failed packages (R85) -/

def lineDead (s : State) (line : Nat) : Bool := !lineIsHost line && s.fab.failedChips.contains (lineChip line)

/-! ### Actions of the whole domain (entry 69) -/

/-- Whether a request is the issuing path's or the served event's own for an action. -/
def DomainAsk.mine (s : State) (a : DomainAct) (x : DomainAsk) : Bool := x.what == a && x.cur == s.cur && x.arg == s.arg

/-- Whether every other package of the domain has answered the issuing path's or the served event's request. -/
def domainDone (s : State) (a : DomainAct) : Bool := (otherChips s).isEmpty || s.coh.asked.any (fun x => x.mine s a && x.wait.isEmpty)

def dropAsk (s : State) (a : DomainAct) : State := updCoh s (fun c => { c with asked := c.asked.filter (fun x => !x.mine s a) })

/-- Every other package of the domain does something, and answers, before the step goes on. -/
def domainAct (s : State) (a : DomainAct) : State := if domainDone s a then dropAsk s a else s.want (.domain a)

/-! ### Acquires (R78) -/

/-- Whether an acquire of a line has work at other packages: at the agents and on the lists of a line homed here, or at the home
of a line homed elsewhere. -/
def acquiresAfar (s : State) (line : Nat) : Bool :=
  if lineIsHost line || lineDead s line then false
  else if lineIsOwn s line then !(foreignHolders s line).isEmpty || (dirAt s line).lazy.any (fun x => x.1 != s.fab.chipId)
  else true

/-- An acquire whose work at other packages is done goes on; another waits for it. -/
def acquireAfar (s : State) (line : Nat) : State :=
  let mine := fun (a : Acquire) => a.line == line && a.cur == s.cur && a.arg == s.arg
  if s.coh.acquires.any (fun a => mine a && a.done) then updCoh s (fun c => { c with acquires := c.acquires.filter (fun a => !mine a) })
  else if acquiresAfar s line then s.want (.publish line) else s

/-- The actions of an acquire on a line within this package (R78): listed cores drain, and writable L1 copies are published. -/
def publishHere (s : State) (line : Nat) : State :=
  let mine := (dirAt s line).lazy.filter (fun x => x.1 == s.fab.chipId)
  let s := mine.foldl (fun s x => drainFor s x.2 line) s
  let s := if mine.isEmpty then s else setDir s { dirAt s line with lazy := (dirAt s line).lazy.filter (fun x => x.1 != s.fab.chipId) }
  (linePoints line).foldl (fun s ds => forceDie s ds line) s

/-- The actions of an acquire on a line (R78): in this package at once, and at other packages by PUB. -/
def acquireLine (s : State) (line : Nat) : State := acquireAfar (publishHere s line) line

/-- The record of a lazy release (R77) at the coherence point, and at the home of another package. -/
def lazyRelease (s : State) (c line : Nat) : State :=
  let e := dirAt s line
  let s := noteRelease s c line
  if e.lazy.contains (s.fab.chipId, c) then s
  else
    let s := if lineIsOwn s line || lineIsHost line then s
      else sendChip s .req (.router (coreRouter c)) { chip := lineChip line, kind := 18, who := .agent s.fab.chipId (coreDie c), line := line }
    setDir s { e with lazy := e.lazy ++ [(s.fab.chipId, c)] }

/-- Whether a release of a line finds room on the list; a fifth core drains before its location is published (R77). -/
def lazyRoom (s : State) (c line : Nat) : Bool :=
  decide ((dirAt s line).lazy.length < 4) || (dirAt s line).lazy.contains (s.fab.chipId, c)

/-! ### Taking a line for its home (R91) -/

/-- A coherence message that is under way for a line: one that a home, an agent or a requester has still to receive. -/
def cohMessage : Instr → Bool
  | .fwdS => true
  | .fwdX => true
  | .inv => true
  | .pub => true
  | .invAck => true
  | .upgAck => true
  | .snoopResponse => true
  | .dataResponse => true
  | .wbRequest => true
  | .wbAck => true
  | _ => false

/-- The request event of a kind. -/
def cohReqEvent : CohReq → Instr
  | .rd => .rdRequest
  | .rdx => .rdxRequest
  | .upg => .upgRequest

/-- A line taken by its home in one step overtakes the messages under way for it: they are dropped, and each request of
this package that they served is made again (entry 7). -/
def overtake (s : State) (line : Nat) : State :=
  let other := fun (e : Event) => !(cohMessage e.what && e.arg.line == line)
  let s := { s with net := s.net.filter other, parked := s.parked.filter other }
  let e := dirAt s line
  let asked := fun (w : Who) (k : CohReq) =>
    (s.net ++ s.parked).any (fun e => e.what == cohReqEvent k && e.arg.who == w && e.arg.line == line) || e.queue.contains (w, k)
  let mine := (s.coh.agents.filter (fun a => a.line == line && !a.wbBuf)).filterMap (fun a =>
    a.pending.map (fun k => (Who.agent s.fab.chipId a.die, k)))
  let lost := dedup ((mine ++ e.req.toList).filter (fun x => !asked x.1 x.2))
  lost.foldl (fun s x => s.post (cohReqEvent x.2) { who := x.1, line := line }) s

/-- The agent of this package whose copy is dirty. -/
def dirtyAgent (s : State) (line : Nat) : Option Agent :=
  s.coh.agents.find? (fun a => a.line == line && a.st.dirty)

/-- The agent of this package that has a line of another home for itself. -/
def soleAgent (s : State) (line : Nat) : Option Agent :=
  s.coh.agents.find? (fun a => a.line == line && !a.wbBuf && (a.st == .m || a.st == .e))

/-- Whether a host's cache holds a half of a line in conflict with a device request (R88). -/
def hostConflicts (s : State) (line : Nat) (excl : Bool) : List HostDirEntry :=
  s.coh.hostDir.filter (fun e => e.half / 2 == line && (excl || e.excl))

/-- The entry of a line that its home alone holds. -/
def DirEntry.cleared (e : DirEntry) : DirEntry :=
  { e with st := .unc, owner := none, sharers := [], req := none, awaiting := [], wbSeen := false, answer := none, granted := false }

/-- Every L1 of the package publishes a line, merging where copies are privatised, and gives it up. -/
def mergeHolders (s : State) (line : Nat) : State :=
  (linePoints line).foldl (fun s ds => dropCopies (settleDie s ds line) ds line) s

/-- A dirty line that comes back to its home is written there, and raises its triggers. -/
def acceptData (s : State) (line : Nat) (d : LineData) : State :=
  homeSetPoison (homeCommit s line d.bytes (BitVec.allOnes 128) (some (d.depth + 1, d.src)) d.quiet) line d.poison

/-- Collects a line from every agent of this package at its home here, whose entry becomes UNC. -/
def collectLine (s : State) (line : Nat) : State :=
  let s := overtake s line
  let s := match dirtyAgent s line with
    | none => s
    | some a => acceptData s line a.data
  let keep := fun (a : Agent) => a.line != line || a.pending.isSome
  let s := updCoh s (fun c => { c with
    agents := (c.agents.filter keep).map (fun a => if a.line == line && !a.wbBuf then { a with st := .i } else a) })
  setDir s (dirAt s line).cleared

/-- Merges every L1 holder and collects the line from every agent of this package, so that the home, or the host agent
slice of a host line, holds the current bytes and no other copy exists (R71, R87, R91). A line that a host or another package holds,
or whose home is elsewhere, is asked for. -/
def takeLine (s : State) (line : Nat) : State :=
  let s := mergeHolders s line
  if lineIsHost line then s
  else if !lineIsOwn s line then (if (soleAgent s line).isSome || lineDead s line then s else s.want (.own line))
  else if foreignHolds s line || !(hostConflicts s line true).isEmpty then s.want (.own line)
  else collectLine s line

/-- The current coherent bytes and poison of a line, with no change. -/
def peekLine (s : State) (line : Nat) : List Byte × BitVec 4 :=
  match s.coh.agents.find? (fun a => a.line == line && a.st.holds) with
  | some a => (a.data.bytes, a.data.poison)
  | none => (homeRead s line, homePoison s line)

/-- n bytes of a line as they stand, with the poison of the sectors touched. -/
def peekPa (s : State) (pa n : Nat) : List Byte × Bool :=
  let (bs, p) := peekLine s (lineOf pa)
  (sliceBytes bs (offsetInLine pa) n, (touchedSectors (offsetInLine pa) n).any (fun q => p.getLsbD q))

/-- Whether a line's current bytes are at hand in this package. -/
def lineCurrent (s : State) (line : Nat) : Bool :=
  if s.coh.agents.any (fun a => a.line == line && a.st.holds) || lineDead s line then true
  else lineIsOwn s line && !((dirAt s line).owner.elim false (foreignWho s)) && (hostConflicts s line false).isEmpty

/-- An ordinary coherent read of n bytes of a line (R62): a single request to its channel (R59). -/
def coherentRead (s : State) (pa n : Nat) : State × List Byte × Bool :=
  let line := lineOf pa
  let s := if lineCurrent s line then s else s.want (.read line)
  let s := if s.coh.agents.any (fun a => a.line == line && a.st.holds) then s else chanRead s line (sectorMask (offsetInLine pa) n)
  (s, peekPa s pa n)

/-- Writes bytes into an agent that has a line for itself; in a host agent slice they are compared for triggers (R70). -/
def agentWrite (s : State) (a : Agent) (off : Nat) (bs : List Byte) (trig : Option (Nat × Option Raiser)) : State :=
  let new := maskBytes a.data.bytes (lineImage off bs) (maskOf off bs.length)
  let s := match trig with
    | none => s
    | some (d, src) => if lineIsHost a.line then raiseTriggers s a.line a.data.bytes new (maskOf off bs.length) d src else s
  let m := maskOf off bs.length
  let data : LineData := { a.data with
    bytes := new, poison := poisonAfter a.data.poison m, quiet := if trig.isNone then a.data.quiet ||| m else a.data.quiet &&& ~~~m }
  let data := if lineIsHost a.line then data else trig.elim data (fun x => noteStore data (x.1 - 1) x.2)
  wakeLine (setAgent s { a with st := .m, data := data }) a.line

/-- Writes bytes of one line where the line's home performs it: the line is taken, then written. A host line, and one homed on
another package, is written where this package owns it; a store to a failed package is discarded and counted (R85). -/
def pokePa (s : State) (pa : Nat) (bs : List Byte) (trig : Option (Nat × Option Raiser)) : State :=
  let line := lineOf pa
  let off := offsetInLine pa
  let s := takeLine s line
  if lineDead s line then updCoh s (fun c => { c with deadHome := satInc c.deadHome })
  else if lineIsOwn s line then homeCommit s line (lineImage off bs) (maskOf off bs.length) trig
  else match soleAgent s line with
    | some a => agentWrite s a off bs trig
    | none => homeCommit (s.want (.own line)) line (lineImage off bs) (maskOf off bs.length) trig

/-! ### Host copies (R88) -/

/-- Sends the BISnp a request needs, once each (R88). -/
def sendBisnp (s : State) (line : Nat) (excl : Bool) : State :=
  (hostConflicts s line excl).foldl (fun s e =>
    if s.coh.bisnp.contains (e.port, e.half, excl) then s
    else (updCoh s (fun c => { c with bisnp := c.bisnp ++ [(e.port, e.half, excl)], bisnpCount := satInc c.bisnpCount })).emit
      (.biSnp e.port e.half excl)) s

/-- Whether a request must wait for the host. -/
def hostHolds (s : State) (line : Nat) (excl : Bool) : Bool :=
  !lineIsHost line && !(hostConflicts s line excl).isEmpty

/-! ### Requests of an agent (R80 to R82, R89) -/

def portOfLine (line : Nat) : Port := if bitAt (line * 128) 50 then .b else .a

def CohReq.kind : CohReq → Nat
  | .rd => 0
  | .rdx => 1
  | .upg => 2

/-- Sends a request of die d for a line, unless one is outstanding. For a host line the host agent slice asks with RdShared, RdOwn, or
RdOwnNoData where it already holds the data (R89). -/
def askHome (s : State) (d line : Nat) (k : CohReq) : State :=
  let a := (agentAt s d line).getD ⟨d, line, .i, { bytes := List.replicate 128 0, poison := 0, depth := 0 }, false, none⟩
  if a.pending.isSome then s
  else
    let s := setAgent s { a with pending := some k }
    if lineIsHost line then s.emit (.cacheReq (portOfLine line) line k)
    else if lineIsOwn s line then
      s.send .req (lineRouter s d line) (lineRouter s (homeDie s line) line) (some line) (cohReqEvent k) { who := .agent s.fab.chipId d, line := line }
    else sendChip s .req (lineRouter s d line) { chip := lineChip line, kind := k.kind, who := .agent s.fab.chipId d, line := line }

/-! ### Replicas and reads that no directory tracks (R72, R73) -/

def replicaAt (s : State) (d line : Nat) : Option Replica := s.coh.replicas.find? (fun r => r.die == d && r.line == line)

def setReplica (s : State) (r : Replica) : State :=
  updCoh s (fun c => { c with replicas := c.replicas.filter (fun x => !(x.die == r.die && x.line == r.line)) ++ [r] })

def dropReplica (s : State) (d line : Nat) : State :=
  updCoh s (fun c => { c with replicas := c.replicas.filter (fun x => !(x.die == d && x.line == line)) })

/-- Asks the home of another package for a line that is not to be tracked, unless that is under way. -/
def askUntracked (s : State) (d line : Nat) : State :=
  if s.coh.untracked.contains (d, line) then s
  else sendChip (updCoh s (fun c => { c with untracked := c.untracked ++ [(d, line)] })) .req (lineRouter s d line)
    { chip := lineChip line, kind := 17, who := .agent s.fab.chipId d, line := line }

/-! ### L1 allocation -/

def l1Ways (c : Core) : Nat := (c.ways.filter (fun w => w == .l1)).length

/-- Puts a line into an L1 (R180: 512 sets over the ways in L1 use); a full set loses its least recently used line,
which is published first (R76). `old` allocates as least recently used (R280). -/
def l1Put (s : State) (c : Nat) (l : L1Line) (old : Bool) : State :=
  let k := s.core c
  let same := k.l1.filter (fun x => x.line % 512 == l.line % 512 && x.line != l.line)
  let s := if same.length < l1Ways k then s
    else match leastBy (·.use) same with
      | none => s
      | some v => (publishRaw s c v.line).updCore c (fun k => k.dropLine v.line)
  s.updCore c (fun k => { k.dropLine l.line with l1 := (k.dropLine l.line).l1 ++ [{ l with use := if old then 0 else s.clock }] })

/-! ### Reading a line for a core (R57, R59, R73, R78) -/

/-- How a load reads: memory type, frozen page, acquire, `ldc`, and the hint's allocation (R280). -/
structure ReadHow where
  mt : Nat
  frozen : Bool
  acquire : Bool
  ldc : Bool
  hint : Nat
  op : Nat
  deriving DecidableEq, Repr


end Sys2Proof.Machine
end

