-- ==== Sys2Proof/Machine/Directory.lean ====
section
/-! DEFINITION. What homes and agents send each other (04 R80), the directory's sets and recalls (R71), the publishes asked of
other packages (R78), and reading a line for a core (R57, R59, R72, R73). The messages are served in Coher.lean. -/

namespace Sys2Proof.Machine

/-! ### Messages (R80)

Kinds of a message to another package: 0 RD, 1 RDX, 2 UPG and 3 WB go to a line's home, with 4 a store, 16 an atomic, 17 a read
that is not to be tracked and 18 a release to be listed; to an agent go 5 to 7 data taken as shared, exclusive or modified, 8 FWD_S and
9 FWD_X with the requester, 10 INV, 11 UPG_ACK and 12 WB_ACK; 13 INV_ACK and 14 a snoop response go to a home, or to the agent whose
PUB they answer; 15 is PUB. The depth in 4 and 16 is that of the triggers they raise (R140). To the package of an operation go 19, the old value of its atomic, and 20, the acknowledgement of its
store; 21 concerns the whole domain, and 22 takes back the `sema` or `waddr` that 16 brought. -/

/-- A die of this package, if the party is one. -/
def ownDie (s : State) : Who → Option Nat
  | .agent c d => if c == s.fab.chipId then some d else none
  | .host _ => none

def whoChip : Who → Nat
  | .agent c _ => c
  | .host _ => 0

/-- Sends a message about a line from the slice of a die to an agent, of this package or another. -/
def sendTo (s : State) (cls : TrafficClass) (die : Nat) (w : Who) (line : Nat) (what : Instr) (arg : Arg) (m : ChipMsg) : State :=
  match ownDie s w with
  | some d => s.send cls (lineRouter s die line) (lineRouter s d line) (some line) what { arg with die := d, line := line }
  | none => sendChip s cls (lineRouter s die line) { m with chip := whoChip w, who := w, line := line }

def noData : LineData := { bytes := [], poison := 0, depth := 0 }

def chipMsg (kind : Nat) : ChipMsg := { chip := 0, kind := kind, who := .agent 0 0, line := 0 }

/-- The home's own die as a requester of its own line. -/
def selfWho (s : State) (line : Nat) : Who := .agent s.fab.chipId (homeDie s line)

def kindData : Grant → Nat
  | .shared => 5
  | .exclusive => 6
  | .modified => 7

/-- Data for a requester, from the home or from an owner on a die. -/
def sendData (s : State) (die : Nat) (w : Who) (line : Nat) (data : LineData) (g : Grant) : State :=
  sendTo s .dat die w line .dataResponse { data := data, grant := g } { chipMsg (kindData g) with data := data }

def sendInv (s : State) (line : Nat) (w : Who) : State := sendTo s .snp (homeDie s line) w line .inv {} (chipMsg 10)

/-- FWD_S and FWD_X name the requester that the owner forwards to. -/
def sendFwd (s : State) (line : Nat) (owner who : Who) (excl : Bool) : State :=
  sendTo s .snp (homeDie s line) owner line (if excl then .fwdX else .fwdS) { who := who }
    { chipMsg (if excl then 9 else 8) with peer := some who }

/-- PUB from a line's home, or from an agent that acquires a line of another home (R78). -/
def sendPub (s : State) (die line : Nat) (w : Who) : State :=
  sendTo s .snp die w line .pub { who := .agent s.fab.chipId die } { chipMsg 15 with peer := some (.agent s.fab.chipId die) }

/-- A snoop response to the line's home. -/
def answerHome (s : State) (d line : Nat) (a : SnoopAnswer) : State :=
  let me := Who.agent s.fab.chipId d
  if lineIsOwn s line then
    s.send .rsp (lineRouter s d line) (lineRouter s (homeDie s line) line) (some line) .snoopResponse { who := me, line := line, answer := a }
  else sendChip s .rsp (lineRouter s d line) { chip := lineChip line, kind := 14, who := me, line := line, answer := a }

/-! ### A line just granted (R82, R83)

The access that asked for a line goes before the next request or snoop for it, for 8 clocks; a snoop does not overtake the answer to an
older request of its agent (DESIGN CHOICE, entry 64). -/

def noteGrant (s : State) (d line : Nat) : State :=
  updCoh s (fun c => { c with
    granted := c.granted.filter (fun x => decide (s.clock < x.2.2) && !(x.1 == d && x.2.1 == line)) ++ [(d, line, s.clock + 8)] })

def justGranted (s : State) (d line : Nat) : Bool :=
  s.coh.granted.any (fun x => x.1 == d && x.2.1 == line && decide (s.clock < x.2.2))

/-- Whether an event answers a request of an agent. -/
def Event.grants (e : Event) (d line : Nat) : Bool :=
  (match e.what with
    | .dataResponse => true
    | .upgAck => true
    | _ => false) && e.arg.die == d && e.arg.line == line

/-- Whether an answer to an agent is under way within this package. -/
def grantUnderWay (s : State) (d line : Nat) : Bool :=
  s.net.any (fun e => e.grants d line) || s.parked.any (fun e => e.grants d line) ||
  s.fab.packets.any (fun p => match p.cargo with
    | .event e => e.grants d line
    | _ => false)

/-- Whether a snoop must wait at an agent. -/
def snoopWaits (s : State) (d line : Nat) : Bool := justGranted s d line || grantUnderWay s d line

/-! ### Evictions (R83) -/

/-- An agent evicts its line: the L1s of its point publish and give it up; a dirty line goes to the write-back buffer. -/
def evictAgent (s : State) (d line : Nat) : State :=
  let ds := pointDies d line
  let s := dropCopies (settleDie s ds line) ds line
  match agentAt s d line with
  | none => s
  | some a =>
    let s := dropAgent s d line
    if a.st.dirty then setAgent s { a with wbBuf := true, pending := none } else s

/-- WB, with the data of the write-back buffer, where there is any. -/
def sendWb (s : State) (d line : Nat) : State :=
  match bufferAt s d line with
  | none => s
  | some a =>
    let me := Who.agent s.fab.chipId d
    if lineIsOwn s line then
      inject s .req (lineRouter s d line) (lineRouter s (homeDie s line) line) (some (line * 128)) 3 (.event ⟨.wbRequest, { who := me, line := line }⟩)
    else sendChip s .req (lineRouter s d line) { chip := lineChip line, kind := 3, who := me, line := line, data := a.data }

/-! ### The directory's sets (R71) -/

def DirState.busy : DirState → Bool
  | .unc => false
  | .sh => false
  | .ex => false
  | .ow => false
  | _ => true

/-- Lines of some property that the L1s of a die hold with tracking, and the clocks of their last use. -/
def l1Tracked (s : State) (d : Nat) (p : Nat → Bool) : List (Nat × Nat) :=
  (coresOn s d (fun k => !k.l1.isEmpty)).flatMap (fun c =>
    ((s.core c).l1.filter (fun l => p l.line && !l.kind.replica_ && l.kind != .mt4)).map (fun l => (l.line, l.use)))

/-- Whether another line falls into the same set of the same slice's directory. -/
def sameSet (s : State) (line x : Nat) : Bool :=
  x != line && lineIsOwn s x && homeDie s x == homeDie s line && homeSlice s x == homeSlice s line && sliceSet s x == sliceSet s line

/-- The tracked lines of a line's set, each with its last use: lines that an agent, a host or an L1 of the home's die holds. -/
def setLines (s : State) (line : Nat) : List (Nat × Nat) :=
  let ls := (s.coh.dir.filter (fun e => sameSet s line e.line)).map (fun e => (e.line, e.use)) ++
    (s.coh.hostDir.filter (fun e => sameSet s line (e.half / 2))).map (fun e => (e.half / 2, e.use)) ++
    l1Tracked s (homeDie s line) (sameSet s line)
  (dedup (ls.map (·.1))).map (fun x => (x, ((ls.filter (fun y => y.1 == x)).map (·.2)).foldl max 0))

def lineTracked (s : State) (line : Nat) : Bool :=
  s.coh.dir.any (fun e => e.line == line) || s.coh.hostDir.any (fun e => e.half / 2 == line) ||
  !(l1Tracked s (homeDie s line) (· == line)).isEmpty

/-- The agents of other packages on a lazy-release list. -/
def lazyAfar (s : State) (line : Nat) : List Who :=
  dedup (((dirAt s line).lazy.filter (fun x => x.1 != s.fab.chipId)).map (fun x => Who.agent x.1 (coreDie x.2)))

/-- A recall (R71): this package's copies at once; those of other packages and hosts in the transient state BUSY_REC. -/
def recallLine (s : State) (line : Nat) : State × Bool :=
  let s := updCoh s (fun c => { c with recalls := satInc c.recalls })
  let mine := (dirAt s line).lazy.filter (fun x => x.1 == s.fab.chipId)
  let s := mine.foldl (fun s x => drainFor s x.2 line) s
  let s := if mine.isEmpty then s else setDir s { dirAt s line with lazy := (dirAt s line).lazy.filter (fun x => x.1 != s.fab.chipId) }
  let far := foreignHolders s line
  let pubs := (lazyAfar s line).filter (fun w => !far.contains w)
  if far.isEmpty && pubs.isEmpty && (hostConflicts s line true).isEmpty then (takeLine s line, true)
  else
    let e := dirAt s line
    let own := (e.owner.toList ++ e.sharers).filter (fun w => !foreignWho s w)
    let self := selfWho s line
    let s := mergeHolders s line
    let owner := e.owner
    let hosts := (hostConflicts s line true).map (fun e => Who.host e.port)
    let wait := far ++ own ++ pubs ++ hosts ++ (if owner.isSome then [self] else [])
    let s := setDir s { dirAt s line with
      st := .busyRec, req := some (self, .rdx), awaiting := dedup wait, wbSeen := false, answer := none, lazy := [] }
    let s := sendBisnp s line true
    let s := pubs.foldl (fun s w => sendPub s (homeDie s line) line w) s
    (far ++ own).foldl (fun s w => if owner == some w then sendFwd s line w self true else sendInv s line w) s |> (·, false)

/-- Makes room for an entry: a full set recalls the copies of its least recently used line that is in no transient state; the answer
is false while every line of the set is in one, or the recall goes on. -/
def dirRoom (s : State) (line : Nat) : State × Bool :=
  if lineTracked s line || (setLines s line).length < 16 then (s, true)
  else match leastBy (·.2) ((setLines s line).filter (fun x => !(dirAt s x.1).st.busy)) with
    | none => (s, false)
    | some v => recallLine s v.1

/-! ### Publishes asked of other packages (R78, R81) -/

/-- A home asks every agent of another package that holds a line, or has a core on its list, to publish: BUSY_PUB. `req` is an agent of
another package whose acquire it is. -/
def startPub (s : State) (line : Nat) (req : Option Who) : State :=
  let far := (dedup (foreignHolders s line ++ lazyAfar s line)).filter (fun w => req != some w)
  let e := dirAt s line
  let s := setDir s { e with
    st := .busyPub, req := req.map (·, .rd), awaiting := far, wbSeen := false, answer := none
    lazy := e.lazy.filter (fun x => x.1 == s.fab.chipId) }
  far.foldl (fun s w => sendPub s (homeDie s line) line w) s

/-- Every acquire of a line that waited for other packages may go on. -/
def acquiresDone (s : State) (line : Nat) : State :=
  updCoh s (fun c => { c with acquires := updWhere (fun a => a.line == line) (fun a => { a with done := true }) c.acquires })

/-! ### What a point may do now -/

/-- Whether the point of die d may serve a read now. -/
def pointReadable (s : State) (d line : Nat) : Bool :=
  if isHomeDie s d line then
    let e := dirAt s line
    (e.st == .unc || e.st == .sh) && !hostHolds s line false
  else (agentAt s d line).elim false (fun a => a.st.holds)

/-- Whether the point of die d may grant write permission now. -/
def pointExclusive (s : State) (d line : Nat) : Bool :=
  if isHomeDie s d line then (dirAt s line).st == .unc && !hostHolds s line true
  else (agentAt s d line).elim false (fun a => a.st == .m || a.st == .e)

/-- The bytes and poison at the point of die d. -/
def pointData (s : State) (d line : Nat) : List Byte × BitVec 4 :=
  if isHomeDie s d line then (homeRead s line, homePoison s line)
  else match agentAt s d line with
    | some a => (a.data.bytes, a.data.poison)
    | none => (homeRead s line, homePoison s line)

/-! ### Channel requests (R57, R58) -/

/-- Posts CHANNEL_ACCESS for a request that has been entered. -/
def enterRequest (s : State) (c : Nat) (r : ChanReq) : State :=
  let ch := s.chan c
  (s.setChan c { ch with pending := ch.pending ++ [r] }).post .channelAccess { chan := c }

/-- A single request for sectors that are not at hand, entered once (R59). -/
def chanAsk (s : State) (line : Nat) (sectors : BitVec 4) (group : Nat) (single : Bool) (core hatch : Nat) : State :=
  match lineDram s line with
  | none => s
  | some d =>
    if (s.chan (dlCache d)).pending.any (fun r => r.line == line && r.group == group) then s
    else enterRequest s (dlCache d) ⟨line, sectors, group, s.clock, single, core, hatch, 1⟩

/-- The line requests of one instruction enter together as a group (R57): each carries the number of sectors that the group has on
its channel. -/
def chanGroup (s : State) (ls : List (Nat × BitVec 4)) (group core hatch : Nat) : State :=
  let at_ := ls.filterMap (fun x => (lineDram s x.1).map (fun d => (x.1, x.2, dlCache d)))
  let bits := fun (m : BitVec 4) => ((List.range 4).filter (fun q => m.getLsbD q)).length
  at_.foldl (fun s x =>
    let n := ((at_.filter (fun y => y.2.2 == x.2.2)).map (fun y => bits y.2.1)).foldl (· + ·) 0
    enterRequest s x.2.2 ⟨x.1, x.2.1, group, s.clock, false, core, hatch, n⟩) s

/-! ### Reading a line for a core -/

def readKind (h : ReadHow) : L1Kind :=
  if h.frozen then .replica else if h.ldc then .ldcReplica else .read

/-- A line read for a core goes into its L1, unless the hint says that it does not (R280). -/
def fillL1 (s : State) (c line : Nat) (h : ReadHow) (bs : List Byte) (p : BitVec 4) : State × Option (List Byte × BitVec 4) :=
  if h.hint == 2 then (s, some (bs, p))
  else (l1Put s c (L1Line.fresh line (readKind h) bs p 0) (h.hint == 1), some (bs, p))

/-- What a home lacks to read a line's current bytes: the owner's data or a host's, or sectors of the channel; none when it can. -/
def homeLacks (s : State) (line : Nat) (sectors : BitVec 4) (c : Nat) (op : Nat) : Option State :=
  if !lineCurrent s line then
    some (if hostHolds s line false then sendBisnp s line false else askHome s (homeDie s line) line .rd)
  else if s.coh.agents.any (fun a => a.line == line && a.st.holds) || sectorsReady s line sectors then none
  else some (chanAsk s line sectors op false c 0)

/-- The bytes of a line that a home of another package sent without tracking it: a replica, which stays where it is to be one. -/
def takeUntracked (s : State) (d line : Nat) (keep : Bool) : State × Option (List Byte × BitVec 4) :=
  match replicaAt s d line with
  | some r => (if keep then s else dropReplica s d line, some (r.bytes, r.poison))
  | none => (askUntracked s d line, none)

/-- A load that makes an untracked replica (R73, R382): for a frozen page in the agent slice as well. -/
def readReplica (s : State) (c line : Nat) (sectors : BitVec 4) (h : ReadHow) : State × Option (List Byte × BitVec 4) :=
  let d := coreDie c
  let fill := fun (s : State) (x : List Byte × BitVec 4) => fillL1 s c line h x.1 x.2
  match (if h.frozen && !isHomeDie s d line then replicaAt s d line else none) with
  | some r => fill s (r.bytes, r.poison)
  | none =>
    if lineIsHost line then
      match (agentAt s (hostDie line) line).filter (fun a => a.st.holds) with
      | some a => fill s (a.data.bytes, a.data.poison)
      | none => (askHome s (hostDie line) line .rd, none)
    else if !lineIsOwn s line then
      if s.coh.agents.any (fun a => a.line == line && a.st.holds) then fill s (peekLine s line)
      else match takeUntracked s d line h.frozen with
        | (s, some x) => fill s x
        | (s, none) => (s, none)
    else
      let whole := h.frozen && !isHomeDie s d line
      match homeLacks s line (if whole then 0xF else sectors) c h.op with
      | some s => (s, none)
      | none =>
        let x := peekLine s line
        let s := chanHit s line sectors
        fill (if whole then setReplica s ⟨d, line, x.1, x.2⟩ else s) x

/-- A load of MT 2: performed at the home, allocated nowhere (R72). -/
def readUncached (s : State) (c line : Nat) (sectors : BitVec 4) (h : ReadHow) : State × Option (List Byte × BitVec 4) :=
  let s := (linePoints line).foldl (fun s ds => settleDie s ds line) s
  if lineIsOwn s line then
    match homeLacks s line sectors c h.op with
    | some s => (s, none)
    | none => (chanHit s line sectors, some (peekLine s line))
  else if s.coh.agents.any (fun a => a.line == line && a.st.holds) then (s, some (peekLine s line))
  else takeUntracked s (coreDie c) line false

/-- A load through the coherence point of the core's die. -/
def readPoint (s : State) (c line : Nat) (sectors : BitVec 4) (h : ReadHow) : State × Option (List Byte × BitVec 4) :=
  let d := pointDie (coreDie c) line
  let home := isHomeDie s d line
  if pointReadable s d line then
    if home && !sectorsReady s line sectors then (chanAsk s line sectors h.op false c 0, none)
    else match (if home && h.hint != 2 then dirRoom s line else (s, true)) with
      | (s, false) => (s, none)
      | (s, true) =>
        let s := if home then chanHit s line sectors else s
        fillL1 s c line h (pointData s d line).1 (pointData s d line).2
  else if home && hostHolds s line false then (sendBisnp s line false, none)
  else (askHome s d line .rd, none)

/-- Reads a line for a core. The second part is none while the load must wait, with what it asked for in the state. -/
def readLine (s : State) (c line : Nat) (sectors : BitVec 4) (h : ReadHow) : State × Option (List Byte × BitVec 4) :=
  let replica := ((s.core c).line? line).elim false (fun l => l.kind.replica_) || (h.frozen && (replicaAt s (coreDie c) line).isSome)
  if lineDead s line && !replica then (s, some (List.replicate 128 0, 0xF))
  else
    let s := if h.acquire then acquireLine s line else s
    let s := if h.acquire && ((s.core c).line? line).elim false (fun l => l.kind == .read || l.kind == .ldcReplica) then
      s.updCore c (fun k => k.dropLine line) else s
    match (if h.mt == 2 then none else (s.core c).line? line) with
    | some l => (s.updCore c (fun k => k.updLine line (fun x => { x with use := s.clock })), some (l.bytes, l.poison))
    | none =>
      if h.frozen || h.ldc then readReplica s c line sectors h
      else if h.mt == 2 then readUncached s c line sectors h
      else readPoint s c line sectors h

end Sys2Proof.Machine
end

