-- ==== Sys2Proof/Machine/Translate.lean ====
section
/-! DEFINITION. Virtual addresses, page tables, TLBs and walks (03 R60 to R68, R446). -/

namespace Sys2Proof.Machine

/-! Trap codes (R174). -/
def tcIllegalOpcode : Nat := 0x01
def tcIllegalOperand : Nat := 0x02
def tcFetchBoundary : Nat := 0x03
def tcPrivileged : Nat := 0x04
def tcRegEmpty : Nat := 0x05
def tcPstackOverflow : Nat := 0x06
def tcPstackUnderflow : Nat := 0x07
def tcPstackBranch : Nat := 0x08
def tcDivergeOverflow : Nat := 0x09
def tcLoopOverflow : Nat := 0x0A
def tcLoopMisuse : Nat := 0x0B
def tcCfiTag : Nat := 0x0C
def tcIntervalOperand : Nat := 0x0D
def tcIntervalEmpty : Nat := 0x0E
def tcAlign : Nat := 0x0F
def tcTranslation : Nat := 0x10
def tcProtection : Nat := 0x11
def tcWriteFrozen : Nat := 0x12
def tcCascadeDepth : Nat := 0x13
def tcPoison : Nat := 0x14
def tcShadowMismatch : Nat := 0x15
def tcAtomicUnsupported : Nat := 0x16
def tcBarrierAbandoned : Nat := 0x17
def tcIntDivide : Nat := 0x18
def tcSoftware : Nat := 0x19
def tcBreakpoint : Nat := 0x1A
def tcDoubleTrap : Nat := 0x1B
def tcSpawnOverflow : Nat := 0x1C
def tcEngineFault : Nat := 0x1D
def tcRestoreCapacity : Nat := 0x1E
def tcRegionMisuse : Nat := 0x1F

/-- What an access does (R63). -/
inductive AccKind where
  | load | store | atomic | fetch
  deriving DecidableEq, Repr

def AccKind.code : AccKind → Nat
  | .load => 0
  | .store => 1
  | .atomic => 2
  | .fetch => 3

def AccKind.ofCode (n : Nat) : AccKind := if n == 0 then .load else if n == 1 then .store else if n == 2 then .atomic else .fetch

/-- A canonical VA: bits [63:52] all equal bit 51 (R60). -/
def canonical (va : Nat) : Bool :=
  let top := va % 2 ^ 64 / 2 ^ 51
  top == 0 || top == 2 ^ 13 - 1

/-- The table index of a level (R61). -/
def vaIndex (va level : Nat) : Nat :=
  if level == 1 then bitsOf va 51 42 else if level == 2 then bitsOf va 41 29 else bitsOf va 28 16

/-- The page-offset bits of a leaf at a level (R61). -/
def pageBits (level : Nat) : Nat := if level == 1 then 42 else if level == 2 then 29 else 16

/-! Fields of a page-table entry (R62). -/
def pteV (e : Nat) : Bool := bitAt e 0
def pteR (e : Nat) : Bool := bitAt e 2
def pteW (e : Nat) : Bool := bitAt e 3
def pteX (e : Nat) : Bool := bitAt e 4
def pteU (e : Nat) : Bool := bitAt e 5
def pteMt (e : Nat) : Nat := bitsOf e 8 6
def pteWatch (e : Nat) : Bool := bitAt e 9
def pteFrz (e : Nat) : Bool := bitAt e 10
def pteA (e : Nat) : Bool := bitAt e 11
def pteD (e : Nat) : Bool := bitAt e 12
def ptePa (e : Nat) : Nat := bitsOf e 51 16 * 65536
def ptePointer (e : Nat) : Bool := !pteR e && !pteW e && !pteX e

/-- Order 5 of R63: an entry at a level whose reserved bits, pointer fields, memory type or alignment are wrong. -/
def pteMalformed (e level : Nat) : Bool :=
  bitsOf e 63 52 != 0 || bitsOf e 15 13 != 0 || bitAt e 1 ||
  (if ptePointer e then pteA e || pteD e || pteFrz e || pteWatch e || level == 3
   else decide (5 ≤ pteMt e) || (paIsHost (ptePa e) != decide (3 ≤ pteMt e)) || ptePa e % 2 ^ pageBits level != 0)

/-- What a walk finds. -/
inductive WalkRes where
  | fault (code cause level : Nat)
  | poison (pa level : Nat)
  | leaf (addr pte level : Nat)
  deriving DecidableEq, Repr

/-- Reads a page-table entry as an ordinary coherent read (R62), a single request to its channel (R59). -/
def readPte (s : State) (pa : Nat) : State × Nat × Bool :=
  let (s, bs, p) := coherentRead s pa 8
  (s, bytesNat bs, p)

/-- The walk of R63 from a level, with the pointer entries met on the way. -/
def walkLevels (s : State) (va : Nat) : Nat → Nat → Nat → List (Nat × Nat) → State × WalkRes × List (Nat × Nat)
  | 0, level, _, tr => (s, .fault tcTranslation 0x03 level, tr)
  | k + 1, level, table, tr =>
    let pa := table + 8 * vaIndex va level
    if paUnbacked s pa then (s, .fault tcTranslation 0x04 level, tr)
    else
      let (s, e, p) := readPte s pa
      if p || lineDead s (lineOf pa) then (s, .poison pa level, tr)
      else if !pteV e then (s, .fault tcTranslation 0x02 level, tr)
      else if pteMalformed e level then (s, .fault tcTranslation 0x03 level, tr)
      else if ptePointer e then walkLevels s va k (level + 1) (ptePa e) (tr ++ [(level, ptePa e)])
      else (s, .leaf pa e level, tr)

/-- A walk through the walk cache (R65): a cached level 2 or level 1 pointer shortens it, and the pointers met are kept; of 256 the
oldest goes (entry 65). -/
def walkFor (s : State) (die ctx va : Nat) : State × WalkRes :=
  let find := fun (level bits : Nat) =>
    (s.tr.walkCache.find? (fun x => x.1 == die && x.2.1 == ctx && x.2.2.1 == level && x.2.2.2.1 == bits)).map (·.2.2.2.2)
  let b2 := va % 2 ^ 52 / 2 ^ 29
  let b1 := va % 2 ^ 52 / 2 ^ 42
  let root := (s.ctx? ctx).elim 0 (·.root)
  let (s, r, trail) := match find 2 b2 with
    | some t => walkLevels s va 1 3 t []
    | none => match find 1 b1 with
      | some t => walkLevels s va 2 2 t []
      | none => walkLevels s va 3 1 root []
  let add := trail.map (fun (lv, t) => (die, ctx, lv, (if lv == 1 then b1 else b2), t))
  let mine := s.tr.walkCache.filter (fun x => x.1 == die && !add.contains x)
  let rest := s.tr.walkCache.filter (fun x => x.1 != die)
  ({ s with tr := { s.tr with walkCache := (add ++ mine).take 256 ++ rest } }, r)

/-! ### Freeze coverage (R66) -/

/-- Entries that count as active for a context. -/
def freezeActive (s : State) (ctx : Nat) : List FreezeEnt :=
  s.freeze.filter (fun e => e.state != .free && e.ctx == ctx)

/-- Whether an active entry covers the 64 KiB piece that holds a VA. -/
def freezeCovers (s : State) (ctx va : Nat) : Bool :=
  (freezeActive s ctx).any (fun e => decide (e.base ≤ va) && decide (va < e.base + e.size))

/-- Whether an active entry covers part of a leaf's range but not all of it. -/
def freezePartial (s : State) (ctx base bytes : Nat) : Bool :=
  (freezeActive s ctx).any (fun e =>
    decide (e.base < base + bytes) && decide (base < e.base + e.size) &&
    !(decide (e.base ≤ base) && decide (base + bytes ≤ e.base + e.size)))

/-- Whether a covering entry has reached its completion point: only then may a load make an untracked replica (R73). -/
def freezeFrozen (s : State) (ctx va : Nat) : Bool :=
  (freezeActive s ctx).any (fun e => decide (e.base ≤ va) && decide (va < e.base + e.size) && e.state == .frozen)

/-- Whether a physical page is frozen for host writes (R446). -/
def pageFrozen (s : State) (pa : Nat) : Bool :=
  s.tr.frozenPages.any (fun (p, n) => decide (p ≤ pa / 65536) && decide (pa / 65536 < p + n))

def addFrozen (s : State) (pa n : Nat) : State :=
  let x := (pa / 65536, n)
  if n == 0 || s.tr.frozenPages.contains x then s
  else { s with tr := { s.tr with frozenPages := s.tr.frozenPages ++ [x] } }

/-! ### TLB entries (R65, R66) -/

/-- The entry a leaf fills for an access: a 64 KiB piece where the freeze table covers the leaf in part. -/
def tlbOfLeaf (s : State) (ctx va pte level : Nat) : TlbEntry :=
  let bits := pageBits level
  let base := va / 2 ^ bits * 2 ^ bits
  let piece := level != 3 && freezePartial s ctx base (2 ^ bits)
  let lv := if piece then 3 else level
  let pb := pageBits lv
  let pa := ptePa pte + (va % 2 ^ bits) / 2 ^ pb * 2 ^ pb
  { ctx := ctx, page := va / 2 ^ pb, level := lv, pa := pa, r := pteR pte, w := pteW pte, x := pteX pte, u := pteU pte
    mt := pteMt pte, watch := pteWatch pte, d := pteD pte, f := pteFrz pte || freezeCovers s ctx va, frz := pteFrz pte }

def tlbHits (ctx va : Nat) (e : TlbEntry) : Bool := e.ctx == ctx && e.page == va / 2 ^ pageBits e.level

def tlbPa (e : TlbEntry) (va : Nat) : Nat := e.pa + va % 2 ^ pageBits e.level

/-- The L1 TLB of a core: most recently used first, 64 entries (R65). -/
def l1Tlb (s : State) (c ctx va : Nat) : Option TlbEntry := (s.core c).tlb.find? (tlbHits ctx va)

def l1TlbFill (s : State) (c va : Nat) (e : TlbEntry) : State :=
  s.updCore c (fun k => { k with tlb := (e :: k.tlb.filter (fun x => !tlbHits e.ctx va x)).take 64 })

/-- The number of a core's compute router in the package, die * 8 + r in the order of R449: its router TLB (R65). -/
def routerOf (c : Nat) : Nat := c / 8

def routerTlb (s : State) (c ctx va : Nat) : Option TlbEntry :=
  (s.tr.routerTlb.find? (fun x => x.1 == routerOf c && tlbHits ctx va x.2)).map (·.2)

/-- A fill of the router TLB, 128 sets of 16 ways: the set is the page number mod 128 and the oldest fill goes (entry 65). -/
def routerTlbFill (s : State) (c va : Nat) (e : TlbEntry) : State :=
  let r := routerOf c
  let others := s.tr.routerTlb.filter (fun x => !(x.1 == r && tlbHits e.ctx va x.2))
  let set := others.filter (fun x => x.1 == r && x.2.page % 128 == e.page % 128)
  let rest := others.filter (fun x => !(x.1 == r && x.2.page % 128 == e.page % 128))
  { s with tr := { s.tr with routerTlb := (r, e) :: set.take 15 ++ rest } }

/-- Sets A, and D for a store, by compare-and-set at the entry's home (R64); nothing is written when the table itself
lies in a frozen page, nor D through an entry of a frozen page. -/
def setAD (s : State) (addr pte : Nat) (store frozen : Bool) : State × Nat :=
  let want := pte + (if pteA pte then 0 else 2 ^ 11) + (if store && !frozen && !pteD pte then 2 ^ 12 else 0)
  if want == pte || pageFrozen s addr then (s, pte)
  else (pokePa s addr (natBytes 8 want) none, want)

/-- Order 7 of R63. -/
def permFault (kern : Bool) (k : AccKind) (e : TlbEntry) : Bool :=
  (!kern && !e.u) || match k with
    | .load => !e.r
    | .store => !e.w
    | .atomic => !(e.r && e.w)
    | .fetch => !e.x || (kern && e.u)

/-- What a translation gives. -/
inductive XRes where
  | ok (pa mt : Nat) (watch frozen wr : Bool)
  | fault (code cause level : Nat)
  | poison (pa level : Nat)
  deriving DecidableEq, Repr

def AccKind.writes : AccKind → Bool
  | .store => true
  | .atomic => true
  | _ => false

/-- Orders 6 to 8 of R63 on a TLB entry. -/
def judge (s : State) (kern : Bool) (k : AccKind) (va : Nat) (e : TlbEntry) (level : Nat) : XRes :=
  let pa := tlbPa e va
  if paUnbacked s pa then .fault tcTranslation 0x04 level
  else if permFault kern k e then .fault tcProtection 0x05 level
  else if k.writes && e.f then .fault tcWriteFrozen 0x06 level
  else .ok pa e.mt e.watch e.f e.w

/-- Walks, sets A and D, and fills both TLBs (R64 to R66, R446). -/
def walkFill (s : State) (c ctx va : Nat) (kern : Bool) (k : AccKind) : State × XRes :=
  let (s, r) := walkFor s (coreDie c) ctx va
  match r with
  | .fault code cause level => (s, .fault code cause level)
  | .poison pa level => (s, .poison pa level)
  | .leaf addr pte level =>
    let e0 := tlbOfLeaf s ctx va pte level
    match judge s kern k va e0 level with
    | .fault code cause lv =>
      -- the walk used the entry: A is set unless the PA is unbacked
      let (s, _) := if cause == 0x04 then (s, pte) else setAD s addr pte false e0.f
      (s, .fault code cause lv)
    | res =>
      let (s, pte) := setAD s addr pte k.writes e0.f
      let s := if pteFrz pte then addFrozen s (ptePa pte) (2 ^ (pageBits level - 16))
        else if e0.f then addFrozen s e0.pa (2 ^ (pageBits e0.level - 16)) else s
      let e := tlbOfLeaf s ctx va pte level
      (routerTlbFill (l1TlbFill s c va e) c va e, res)

/-- The entry of the core's or its router's TLB for an address. -/
def tlbAt (s : State) (c ctx va : Nat) : Option TlbEntry :=
  match l1Tlb s c ctx va with
  | some e => some e
  | none => routerTlb s c ctx va

/-- Whether an access needs a walk although an entry is there: a store that must set D first (R64). -/
def setsD (kern : Bool) (k : AccKind) (e : TlbEntry) : Bool := k.writes && !e.d && !e.f && !permFault kern k e

/-- Translates one access of a core (R60 to R66) in one go: a TLB hit needs no walk, and reports no level. -/
def translateNow (s : State) (c ctx : Nat) (kern : Bool) (k : AccKind) (va : Nat) : State × XRes :=
  if !canonical va then (s, .fault tcTranslation 0x01 0)
  else
    let va := va % 2 ^ 52
    match tlbAt s c ctx va with
    | some e => if setsD kern k e then walkFill s c ctx va kern k else (l1TlbFill s c va e, judge s kern k va e 0)
    | none => walkFill s c ctx va kern k

/-- Whether a translation needs a walk first (R64, R67, R190). -/
def needsWalk (s : State) (c ctx : Nat) (kern : Bool) (k : AccKind) (va : Nat) : Bool :=
  canonical va && (tlbAt s c ctx (va % 2 ^ 52)).elim true (setsD kern k)

/-- The miss that an access of the step being made would be. -/
def State.missOf (s : State) (c va : Nat) (k : AccKind) : Miss := ⟨c, va % 2 ^ 52, k.code, s.cur, s.arg⟩

def XRes.ofFault (f : WalkFault) : XRes := if f.code == tcPoison then .poison f.cause f.level else .fault f.code f.cause f.level

/-- Translates one access of a core. One that misses waits for a walk in flight (R67), whose fault it then takes. -/
def translate (s : State) (c ctx : Nat) (kern : Bool) (k : AccKind) (va : Nat) : State × XRes :=
  if !needsWalk s c ctx kern k va then translateNow s c ctx kern k va
  else
    let m := s.missOf c va k
    match s.tr.faults.find? (fun f => f.miss == m && f.ctx == ctx) with
    | some f => ({ s with tr := { s.tr with faults := s.tr.faults.erase f } }, .ofFault f)
    | none => translateNow (s.want (.walk c ctx (va % 2 ^ 52) k.code)) c ctx kern k va

/-! ### Walks in flight (R65, R67) -/

/-- The level of the leaf that a walk of an address would find. -/
def leafLevel (s : State) (ctx va : Nat) : Nat :=
  match walkLevels s va 3 1 ((s.ctx? ctx).elim 0 (·.root)) [] with
  | (_, .leaf _ _ level, _) => level
  | _ => 3

/-- Whether an address falls into the page that a walk is about, which may be a large one. -/
def Walk.covers (w : Walk) (die ctx va : Nat) : Bool :=
  w.die == die && w.ctx == ctx && w.page * 65536 / 2 ^ pageBits w.level == va / 2 ^ pageBits w.level

/-- Attaches a store or another miss to the walk of its page, starting one where none is in flight; the 65th of a die waits. -/
def attachWalk (s : State) (core ctx va : Nat) (ops : List Nat) (misses : List Miss) : State :=
  let die := coreDie core
  let va := va % 2 ^ 52
  let here := fun (w : Walk) => w.covers die ctx va
  if s.tr.walks.any here then
    let add := fun (w : Walk) => { w with ops := dedup (w.ops ++ ops), misses := dedup (w.misses ++ misses) }
    match s.tr.walks.find? here with
    | none => s
    | some x => { s with tr := { s.tr with walks := updWhere (fun w => w.id == x.id) add s.tr.walks } }
  else
    let busy := decide (64 ≤ (s.tr.walks.filter (fun w => w.die == die && !w.queued)).length)
    let (id, s) := s.fresh
    let w : Walk :=
      { id := id, die := die, ctx := ctx, page := va / 65536, level := leafLevel s ctx va, ops := ops, misses := misses, stale := false
        queued := busy }
    let s : State := { s with tr := { s.tr with walks := s.tr.walks ++ [w] } }
    if busy then s else s.post .walkComplete { walk := id }

/-- Starts the oldest waiting walk of a die; waiting misses of its page attach to it and leave the queue (R67). -/
def startQueued (s : State) (die : Nat) : State :=
  match s.tr.walks.find? (fun w => w.die == die && w.queued) with
  | none => s
  | some w =>
    let same := fun (x : Walk) => x.queued && x.id != w.id && w.covers x.die x.ctx (x.page * 65536)
    let mine := s.tr.walks.filter same
    let go := { w with queued := false, ops := dedup (w.ops ++ mine.flatMap (·.ops)), misses := dedup (w.misses ++ mine.flatMap (·.misses)) }
    ({ s with tr := { s.tr with walks := updWhere (fun x => x.id == w.id) (fun _ => go) (s.tr.walks.filter (fun x => !same x)) } } : State).post
      .walkComplete { walk := w.id }

/-- A walk ends for a miss attached to it: the TLBs are filled, or its fault is kept for the access that waits. -/
def endMiss (ctx : Nat) (s : State) (m : Miss) : State :=
  let k := AccKind.ofCode m.kind
  let keep := fun (s : State) (code cause level : Nat) =>
    ({ s with tr := { s.tr with faults := s.tr.faults ++ [⟨m, ctx, code, cause, level⟩] } } : State)
  if !needsWalk s m.core ctx (ctxKernel s ctx) k m.va then s
  else match walkFill s m.core ctx m.va (ctxKernel s ctx) k with
    | (s, .ok _ _ _ _ _) => s
    | (s, .fault code cause level) => keep s code cause level
    | (s, .poison pa level) => keep s tcPoison pa level

/-! ### Invalidation (R68, R315, R397) -/

/-- Whether an invalidation covers a TLB entry. -/
def shootCovers (k : ShootKind) (e : TlbEntry) : Bool :=
  let base := e.page * 2 ^ pageBits e.level
  match k with
  | .page ctx va => e.ctx == ctx && e.page == va % 2 ^ 52 / 2 ^ pageBits e.level
  | .ctx c => e.ctx == c
  | .all => true
  | .range ctx b n _ _ => e.ctx == ctx && decide (b < base + 2 ^ pageBits e.level) && decide (base < b + n)

/-- What an invalidation does to an entry it covers: removed, or F set where the range covers it wholly (R66). -/
def shootEntry (k : ShootKind) (e : TlbEntry) : Option TlbEntry :=
  if !shootCovers k e then some e
  else match k with
    | .range _ b n true _ =>
      let base := e.page * 2 ^ pageBits e.level
      if b ≤ base ∧ base + 2 ^ pageBits e.level ≤ b + n then some { e with f := true } else none
    | _ => none

/-- Whether an invalidation covers a walk's translation: some part of the page that it is about. -/
def shootWalk (k : ShootKind) (w : Walk) : Bool :=
  let bits := pageBits w.level
  let base := w.page * 65536 / 2 ^ bits * 2 ^ bits
  match k with
  | .page ctx va => w.ctx == ctx && base / 2 ^ bits == va % 2 ^ 52 / 2 ^ bits
  | .ctx c => w.ctx == c
  | .all => true
  | .range ctx b n _ _ => w.ctx == ctx && decide (b < base + 2 ^ bits) && decide (base < b + n)

/-- Removes or marks the entries of one die and marks its walks in flight stale (R68). -/
def shootDie (s : State) (d : Nat) (k : ShootKind) : State :=
  let s := (dieCores d).foldl (fun s c =>
    if (s.core c).tlb.isEmpty then s else s.updCore c (fun x => { x with tlb := x.tlb.filterMap (shootEntry k) })) s
  let rt := s.tr.routerTlb.filterMap (fun (r, e) =>
    if r / 8 == d then (shootEntry k e).map (fun e => (r, e)) else some (r, e))
  let wc := s.tr.walkCache.filter (fun x => !(x.1 == d && match k with
    | .page ctx va => x.2.1 == ctx && (if x.2.2.1 == 1 then x.2.2.2.1 == va % 2 ^ 52 / 2 ^ 42 else x.2.2.2.1 == va % 2 ^ 52 / 2 ^ 29)
    | .ctx c => x.2.1 == c
    | .all => true
    | .range ctx _ _ _ _ => x.2.1 == ctx))
  let ws := s.tr.walks.map (fun w => if w.die == d && !w.queued && shootWalk k w then { w with stale := true } else w)
  { s with tr := { s.tr with routerTlb := rt, walkCache := wc, walks := ws } }

/-- Starts an invalidation on every die and answers its number: it completes on a die by SHOOTDOWN_COMPLETE. -/
def startShoot (s : State) (k : ShootKind) : Nat × State :=
  let (n, s) := s.fresh
  let s := (List.range 4).foldl (fun s d =>
    let s := shootDie s d k
    ({ s with tr := { s.tr with shoots := s.tr.shoots ++ [Shoot.mk n d k] } } : State).post .shootdownComplete { die := d, shoot := n }) s
  (n, s)

/-- Whether an invalidation is still in progress on some die. -/
def shootBusy (s : State) (n : Nat) : Bool := s.tr.shoots.any (fun x => x.id == n)

/-- What an invalidation covers goes from every die at once: at the end of one that every die has made (R398). -/
def shootNow (s : State) (k : ShootKind) : State := (List.range 4).foldl (fun s d => shootDie s d k) s

end Sys2Proof.Machine
end

