-- ==== Sys2Proof/Machine/Device.lean ====
section
/-! DEFINITION. Accesses the device makes by virtual address through a launch's context (R447, R453): pools, hatch areas,
records. They are made at domain scope where the line's home performs them, and raise no trigger. -/

namespace Sys2Proof.Machine

/-- A device access that may fault: the error is the trap code and the PA, 0 when none was found (R447). -/
abbrev AreaM := EStateM (Nat × Nat) State

/-- The pieces of a range within lines: offset from its start, address, length. -/
def linePieces : Nat → Nat → Nat → Nat → List (Nat × Nat × Nat)
  | 0, _, _, _ => []
  | _, _, _, 0 => []
  | k + 1, off, a, n =>
    let m := min n (128 - a % 128)
    (off, a, m) :: linePieces k (off + m) (a + m) (n - m)

/-- The PA that an address leads to, where a translation finds one; 0 where it finds none (R447). -/
def foundPa (s : State) (c ctx va : Nat) : Nat :=
  match tlbAt s c ctx (va % 2 ^ 52) with
  | some e => tlbPa e (va % 2 ^ 52)
  | none => match (walkFor s (coreDie c) ctx (va % 2 ^ 52)).2 with
    | .leaf _ pte level => tlbPa (tlbOfLeaf s ctx (va % 2 ^ 52) pte level) (va % 2 ^ 52)
    | _ => 0

/-- The PA and the memory type of an address. -/
def devXlate (c ctx : Nat) (k : AccKind) (va : Nat) : AreaM (Nat × Nat) := fun s =>
  match translate s c ctx (ctxKernel s ctx) k va with
  | (s, .ok pa mt _ _ _) => .ok (pa, mt) s
  | (s, .fault code _ _) => .error (code, if canonical va then foundPa s c ctx va else 0) s
  | (s, .poison pa _) => .error (tcPoison, pa) s

/-- The instruction that stands for a read of an MT 4 line that no L1 keeps. -/
def mt4Read : Instr := .nop .l64 2

/-- A line of MT 4 read afresh (R90): the data of a PCIe read that has come back for this step, or a wait for one. -/
def freshMt4 (s : State) (core line : Nat) : State × List Byte :=
  match s.ops.find? (fun o => o.core == core && o.what == mt4Read && o.vals == [line] && o.done) with
  | some o => (s.updOp o.id (fun o => { o with prog := 1 }), (o.lanes.head?).elim [] (·.bytes))
  | none => (s.want (.mt4 core line), List.replicate 128 0)

/-- Reads n bytes of a line at domain scope (R78), with whether they are poisoned: a line of a failed package is (R85). -/
def domainRead (s : State) (core pa n mt : Nat) : State × List Byte × Bool :=
  let line := lineOf pa
  if lineDead s line then (s, List.replicate n 0, true)
  else if mt == 4 then
    let (s, bs) := freshMt4 s core line
    (s, sliceBytes bs (offsetInLine pa) n, false)
  else coherentRead (acquireLine s line) pa n

/-- Writes bytes of a line, raising no trigger; one of MT 4 by a posted write (R90). -/
def domainWrite (s : State) (pa mt : Nat) (bs : List Byte) : State :=
  if mt == 4 then s.emit (.pcieWrite (portOfLine (lineOf pa)) pa bs) else pokePa s pa bs none

/-- Reads one piece within a line. -/
def devReadPiece (c ctx va n : Nat) : AreaM (List Byte) := do
  let (pa, mt) ← devXlate c ctx .load va
  let s ← get
  let (s, bs, p) := domainRead s c pa n mt
  set s
  if p then throw (tcPoison, pa) else return bs

/-- Writes one piece within a line. -/
def devWritePiece (c ctx va : Nat) (bs : List Byte) : AreaM Unit := do
  let (pa, mt) ← devXlate c ctx .store va
  modify (fun s => domainWrite s pa mt bs)

def devReadPieces (c ctx : Nat) : List (Nat × Nat × Nat) → AreaM (List Byte)
  | [] => return []
  | (_, a, n) :: r => do
    let x ← devReadPiece c ctx a n
    let y ← devReadPieces c ctx r
    return x ++ y

/-- Reads n bytes at a VA through a context. -/
def devRead (c ctx va n : Nat) : AreaM (List Byte) := devReadPieces c ctx (linePieces (n / 128 + 2) 0 va n)

def devWritePieces (c ctx : Nat) (bs : List Byte) : List (Nat × Nat × Nat) → AreaM Unit
  | [] => return ()
  | (o, a, n) :: r => do
    devWritePiece c ctx a (sliceBytes bs o n)
    devWritePieces c ctx bs r

/-- Writes bytes at a VA through a context. -/
def devWrite (c ctx va : Nat) (bs : List Byte) : AreaM Unit :=
  devWritePieces c ctx bs (linePieces (bs.length / 128 + 2) 0 va bs.length)

/-! ### Pools (R125) -/

def poolBitmapBytes (n : Nat) : Nat := (n + 1023) / 1024 * 128

/-- Where the slots of a pool of n slots begin. -/
def poolSlotsAt (pool n : Nat) : Nat := pool + (0x80 + poolBitmapBytes n + 8 * n + 8191) / 8192 * 8192

def poolRingAt (pool n : Nat) : Nat := pool + 0x80 + poolBitmapBytes n

def slotAddr (pool n i : Nat) : Nat := poolSlotsAt pool n + i * 8192

/-- The number of slots, from the header. -/
def poolSlots (c ctx pool : Nat) : AreaM Nat := do
  let h ← devRead c ctx pool 4
  return bytesNat h

/-- The free slots of a pool, ascending. -/
def poolFree (c ctx pool : Nat) : AreaM (Nat × List Nat) := do
  let n ← poolSlots c ctx pool
  let bm ← devRead c ctx (pool + 0x80) ((n + 7) / 8)
  return (n, (List.range n).filter (fun i => !(bm.getD (i / 8) 0).getLsbD (i % 8)))

/-- Sets or clears a slot's bit and keeps the count of free slots. -/
def poolMark (c ctx pool i : Nat) (taken : Bool) (free : Nat) : AreaM Unit := do
  let b ← devRead c ctx (pool + 0x80 + i / 8) 1
  let v := (b.getD 0 0).toNat
  let bit := 2 ^ (i % 8)
  let v := if taken then (if bitAt v (i % 8) then v else v + bit) else (if bitAt v (i % 8) then v - bit else v)
  devWrite c ctx (pool + 0x80 + i / 8) (natBytes 1 v)
  devWrite c ctx (pool + 0x08) (natBytes 4 free)

/-- Takes k free slots, each a free choice (R125); none when fewer are free. -/
def poolTake (c ctx pool : Nat) : Nat → AreaM (Option (List Nat))
  | 0 => return some []
  | k + 1 => do
    let (n, fs) ← poolFree c ctx pool
    if fs.length < k + 1 then return none
    else
      let s ← get
      let (i, s) := s.choose fs.length
      set s
      let slot := fs.getD i 0
      poolMark c ctx pool slot true (fs.length - 1)
      let rest ← poolTake c ctx pool k
      return rest.map (fun r => slotAddr pool n slot :: r)

/-- Frees the slot at an address. -/
def poolRelease (c ctx pool addr : Nat) : AreaM Unit := do
  let (n, fs) ← poolFree c ctx pool
  let i := (addr - poolSlotsAt pool n) / 8192
  poolMark c ctx pool i false (fs.length + 1)

/-- A device access that belongs to no hatch: poison that it meets is logged at the slice (R445). -/
def AreaM.logged {α : Type} (m : AreaM α) : AreaM α := fun s =>
  match m s with
  | .error (code, pa) s =>
    .error (code, pa) (if code == tcPoison then logError s 1 2 0x0101 (homeDie s (lineOf pa)) 0 (pa / 32 * 32) else s)
  | r => r

/-- Runs a device access whose fault changes nothing more. -/
def AreaM.orElseState (m : AreaM Unit) (s : State) : State :=
  match m.run s with
  | .ok _ s => s
  | .error _ s => s

end Sys2Proof.Machine
end

