-- ==== Sys2Proof/Machine/Wants.lean ====
section
/-! DEFINITION. Accesses that must wait (entry 64): what a step lacks is asked for, and the step is made again once it is there.
So an access made within a step sees a line as the coherence protocol allows it, waits for its channel (03 R59) and for its page walk
(03 R65, R67). -/

namespace Sys2Proof.Machine

def Want.isChan : Want → Bool
  | .chan _ _ => true
  | _ => false

def Want.isWalk : Want → Bool
  | .walk _ _ _ _ => true
  | _ => false

/-- What a step asks for first: every walk; else the channel requests up to the first line that it must get, and that line. -/
def firstWants (ws : List Want) : List Want :=
  let walks := ws.filter Want.isWalk
  if walks.isEmpty then ws.takeWhile Want.isChan ++ (ws.dropWhile Want.isChan).take 1 else walks

/-- The die whose agent asks for a line of another package: one that holds it, or the die of its slice's number. -/
def askDie (s : State) (line : Nat) : Nat :=
  if lineIsHost line then hostDie line
  else if lineIsOwn s line then homeDie s line
  else ((s.coh.agents.find? (fun a => a.line == line && !a.wbBuf)).map (·.die)).getD 0

/-- Asks for a line with no copy beyond its home here, or for a host line or a line of another package in exclusive state. -/
def askOwn (s : State) (line : Nat) : State :=
  let d := askDie s line
  if lineIsOwn s line then
    let s := sendBisnp s line true
    if foreignHolds s line then askHome s d line .rdx else s
  else askHome s d line (if (agentAt s d line).elim false (fun a => a.st == .s || a.st == .o) then .upg else .rdx)

def askRead (s : State) (line : Nat) : State :=
  if hostHolds s line false then sendBisnp s line false else askHome s (askDie s line) line .rd

/-- Starts the part of an acquire that other packages have in it: BUSY_PUB at a home here, or PUB to another home (R78). -/
def askPublish (s : State) (line : Nat) : State :=
  let first := !s.coh.acquires.any (fun a => a.line == line && !a.done)
  let m : Acquire := ⟨line, s.cur, s.arg, false⟩
  let s := if s.coh.acquires.contains m then s else updCoh s (fun c => { c with acquires := c.acquires ++ [m] })
  if lineIsOwn s line then
    if (dirAt s line).st.busy then s
    else if (foreignHolders s line).isEmpty && (lazyAfar s line).isEmpty then acquiresDone s line else startPub s line none
  else if !first then s
  else sendChip s .snp (lineRouter s 0 line)
    { chipMsg 15 with chip := lineChip line, who := .agent s.fab.chipId 0, line := line, peer := some (.agent s.fab.chipId 0) }

/-- A read of a line of MT 4 (R90): one PCIe read, as an operation of its own. -/
def askMt4 (s : State) (core line : Nat) : State :=
  if s.ops.any (fun o => o.core == core && o.what == mt4Read && o.vals == [line]) then s
  else
    let (id, s) := s.fresh
    let o : Op :=
      { id := id, hatch := 2 ^ 64, slot := 0, block := 2 ^ 64, core := core, ctx := 0, depth := 0, pc := 0, what := mt4Read
        active := 0, lanes := [], vals := [line], vecs := [], prog := 0, done := false, silent := false }
    ({ s with ops := s.ops ++ [o] } : State).emit (.pcieRead (portOfLine line) id (line * 128) 128)

/-- Asks every other package of the domain for something, once (entry 69). -/
def askDomain (s : State) (a : DomainAct) : State :=
  if s.coh.asked.any (fun x => x.mine s a) then s
  else
    let (id, s) := s.fresh
    let s := updCoh s (fun c => { c with asked := c.asked ++ [⟨id, a, s.cur, s.arg, otherChips s⟩] })
    (otherChips s).foldl (fun s c => sendDomain s .snp c id a) s

def issueWant (s : State) (w : Want) : State :=
  match w with
  | .chan line sectors => chanAsk s line sectors (2 ^ 50) true 0 0
  | .own line => askOwn s line
  | .read line => askRead s line
  | .publish line => askPublish s line
  | .walk c ctx va k => attachWalk s c ctx va [] [⟨c, va, k, s.cur, s.arg⟩]
  | .mt4 c line => askMt4 s c line
  | .domain a => askDomain s a

/-- A step that lacked something: the state before it, with what it lacked asked for. -/
def lacking (before after : State) : State := (firstWants after.wants).foldl issueWant before

/-- The instruction of the issuing path, or the event being served, waits until the next change. -/
def waitAgain (before after : State) (what : Instr) : State :=
  let s := lacking before after
  match s.cur with
  | some r => { s with stalled := s.stalled ++ [r] }
  | none => { s with parked := s.parked ++ [⟨what, s.arg⟩] }

/-- What a step leaves: what its meaning answers, or, where an access of it must wait, the state before it. -/
def concluded (before after : State) (what : Instr) : State :=
  if after.wants.isEmpty then
    (if after.ops.any (fun o => o.what == mt4Read && o.prog == 1) then
      { after with ops := after.ops.filter (fun o => !(o.what == mt4Read && o.prog == 1)) } else after)
  else waitAgain before after what

end Sys2Proof.Machine
end

