-- ==== Sys2Proof/Machine/Trigger.lean ====
section
/-! DEFINITION. What becomes of the triggers that a commit raises (07 R136, R137, R140, R142, R448), and store-fault
records (08 R190, R193). -/

namespace Sys2Proof.Machine

/-- Makes a store-fault record for a resident hatch; one that finds the queue full waits behind it (R190, R193). -/
def pushSfr (s : State) (c : Nat) (r : SfrRec) : State :=
  if (s.hatch? r.hatch).isNone then s
  else s.updCore c (fun k =>
    if k.sfrq.length < 32 ∧ k.sfrWait = [] then { k with sfrq := k.sfrq ++ [r] } else { k with sfrWait := k.sfrWait ++ [r] })

/-- Moves waiting records into freed entries. -/
def Core.refillSfr (k : Core) : Core :=
  let n := 32 - k.sfrq.length
  { k with sfrq := k.sfrq ++ k.sfrWait.take n, sfrWait := k.sfrWait.drop n }

/-- Depth limits: 0 selects 4 (R106, R122). -/
def limitOf (x : Nat) : Nat := if x == 0 then 4 else x

/-- The lower of the watch's limit and its target record's (R140). -/
def watchLimit (s : State) (w : Watch) : Nat :=
  if w.engine then limitOf w.depthLimit
  else min (limitOf w.depthLimit) ((s.launch? w.launch).elim 15 (fun l => limitOf l.rcd.depthLimit))

def granulePa (w : Watch) (g : Nat) : Nat := w.base + g * 2 ^ w.granule

/-- The home die and slice of a granule's first line (R127, R136). -/
def granuleHome (s : State) (w : Watch) (g : Nat) : Nat × Nat :=
  let line := lineOf (granulePa w g)
  (homeDie s line, homeSlice s line)

/-- Enters sweep mode, logged once for each entry (R137). -/
def enterSweep (s : State) (w : Watch) (die depth : Nat) : State :=
  if w.sweep then s.updWatch w.id (fun w => { w with sweepDepth := max w.sweepDepth depth, passClean := false })
  else
    let s := logError s 1 2 0x0103 die w.id 0
    let s := s.updWatch w.id (fun w =>
      { w with sweep := true, sweepDepth := max w.sweepDepth depth, scanPos := 0, passClean := false })
    s.post .sweepScan { watch := w.id }

/-- A home slice tells the dispatcher of its die of an entry: a packet of class TRG (R28). -/
def tellDispatcher (s : State) (die slice : Nat) (t : TriggerSource) : State :=
  s.send .trg (.router (sliceRouter die slice)) (.router (dispatcherRouter die)) none .triggerDispatch { die := die, trig := t }

/-- A pending-bitmap or ring access by PA: a poisoned sector of a bitmap is rewritten as all ones first, which puts the
watch into sweep mode (R142, R448). Answers whether the sector was poisoned. -/
def bitmapReady (s : State) (w : Watch) (die pa : Nat) : State :=
  let (s, _, p) := coherentRead (takeLine s (lineOf pa)) pa 1
  if !p then s
  else
    let sec := pa / 32 * 32
    let s := pokePa s sec (List.replicate 32 0xFF) none
    enterSweep (logError s 1 2 0x0101 die 0 sec) w die 0

/-- Reads a granule's pending bit and writes it: the atomic OR and the atomic test-and-clear (R136, R138). -/
def bitSwap (s : State) (w : Watch) (g : Nat) (set : Bool) : Bool × State :=
  let pa := w.bitmap + g / 8
  let s := bitmapReady s w (granuleHome s w g).1 pa
  let b := bytesNat (peekPa s pa 1).1
  let old := bitAt b (g % 8)
  let new := if set then (if old then b else b + 2 ^ (g % 8)) else (if old then b - 2 ^ (g % 8) else b)
  (old, if new == b then s else pokePa s pa (natBytes 1 new) none)

/-- The 8-byte form of an entry (R136). -/
def trigWord (e : TrigEntry) : Nat := e.watch * 2 ^ 56 + e.depth * 2 ^ 52 + e.granule % 2 ^ 40

/-- Appends to the watch's spill ring; false when it is full, or its sector is poisoned (R136, R137, R448). -/
def ringPush (s : State) (w : Watch) (die : Nat) (e : TrigEntry) : Bool × State :=
  if w.ringN ≤ w.wr - w.rd then (false, s)
  else
    let pa := w.ring + 8 * (w.wr % w.ringN)
    let (s, _, bad) := coherentRead (takeLine s (lineOf pa)) pa 8
    if bad then (false, logError s 1 2 0x0101 die 0 (pa / 32 * 32))
    else
      let s := pokePa s pa (natBytes 8 (trigWord e)) none
      let s := s.updWatch w.id (fun w => { w with wr := w.wr + 1 })
      let (die, slice) := (homeDie s (lineOf w.ring), homeSlice s (lineOf w.ring))
      (true, tellDispatcher s die slice (.ring w.id))

/-- A home slice's queue, by die * 32 + slice. -/
def trigQueue (s : State) (q : Nat) : List TrigEntry := (s.sched.trigQ.filter (fun x => x.1 == q)).map (·.2)

/-- Settles one raised trigger (R136, R137, R140). -/
def settleOne (s : State) (r : Raise) : State :=
  match s.watch? r.watch with
  | none => s
  | some w =>
    let (die, slice) := granuleHome s w r.granule
    if watchLimit s w < r.depth then
      let s := logError s 1 2 0x0104 die w.id r.pa
      match r.src with
      | none => s
      | some x => pushSfr s x.core ⟨x.hatch, tcCascadeDepth, 0, x.kind, 0, x.pc, x.va, x.lanes⟩
    else
      let (old, s) := bitSwap s w r.granule true
      if old then s
      else match s.watch? r.watch with
        | none => s
        | some w =>
          let e : TrigEntry := ⟨w.id, r.depth, r.granule⟩
          if w.sweep then enterSweep s w die r.depth
          else if (trigQueue s (die * 32 + slice)).length < 128 then
            let s := { s with sched := { s.sched with trigQ := s.sched.trigQ ++ [(die * 32 + slice, e)] } }
            tellDispatcher s die slice (.queue die slice)
          else
            let (ok, s) := ringPush s w die e
            if ok then s else enterSweep s w die r.depth

/-- Settles every trigger raised in the step being made. The accesses that this takes do not trigger (R142). -/
def settle (s : State) : State :=
  match s.sched.raised with
  | [] => s
  | rs =>
    let t := rs.foldl settleOne s
    { t with sched := { t.sched with raised := [] } }

end Sys2Proof.Machine
end

