-- ==== Sys2Proof/Machine/Ends.lean ====
section
/-! DEFINITION. How hatches, blocks and launches end (08 R169, R173, 07 R155, 17 R394), and the flush of held `atomd`
contributions (09 R219, R220, R453). -/

namespace Sys2Proof.Machine

/-! ### Held contributions -/

/-- The key order of R219. -/
def Contrib.before (a b : Contrib) : Bool :=
  if a.blockIdx != b.blockIdx then decide (a.blockIdx < b.blockIdx)
  else if a.hatchIdx != b.hatchIdx then decide (a.hatchIdx < b.hatchIdx)
  else if a.lane != b.lane then decide (a.lane < b.lane)
  else decide (a.arrival < b.arrival)

def contribInsert (x : Contrib) : List Contrib → List Contrib
  | [] => [x]
  | y :: r => if y.before x then y :: contribInsert x r else x :: y :: r

def contribSort (xs : List Contrib) : List Contrib := xs.foldr contribInsert []

/-- The sum of R219, in the contributed type. -/
def contribSum (f64 : Bool) (v : Nat) (cs : List Contrib) : Nat :=
  cs.foldl (fun v c => (fAdd (if f64 then fmtF64 else fmtF32) .rne false v c.value).1) v

/-- The address of a spill entry (R220). -/
def spillAt (buf i : Nat) : Nat := buf + 0x80 + 32 * i

/-- Reads the spilled ones among some contributions back from the buffer; the second list holds those lost (R453). -/
def unspill (s : State) (c ctx buf : Nat) : List Contrib → State × List Contrib × List (Contrib × Nat)
  | [] => (s, [], [])
  | x :: r =>
    let (s, keep, lost) := unspill s c ctx buf r
    match x.spilled with
    | none => (s, x :: keep, lost)
    | some i =>
      match (devRead c ctx (spillAt buf i) 32).run s with
      | .ok bs s => (s, { x with value := fieldAt bs 8 8 } :: keep, lost)
      | .error (_, pa) s => (s, keep, (x, pa) :: lost)

/-- The die of the slice that holds a contribution (R219). -/
def Contrib.die (s : State) (x : Contrib) : Nat := homeDie s (lineOf x.pa)

/-- Logs the contributions lost, one record for each die that held some (R445, R453). -/
def logLost (s : State) (lost : List (Contrib × Nat)) : State :=
  (dedup (lost.map (fun x => x.1.die s))).foldl (fun s d =>
    let mine := lost.filter (fun x => x.1.die s == d)
    logError s 1 2 0x010A d mine.length ((mine.head?).elim 0 (·.2))) s

/-- Rewrites the buffer's USED field (R220). -/
def setUsed (s : State) (c ctx buf n : Nat) : State := AreaM.orElseState (devWrite c ctx (buf + 4) (natBytes 4 n)) s

/-- The contributions still spilled for a launch. -/
def spilledCount (s : State) (launch : Nat) : Nat :=
  (s.sched.contribs.filter (fun c => c.launch == launch && c.spilled.isSome)).length

/-- Flushes the contributions of one type at one address: one store at the home or the host agent slice, under the rules of the
memory type (R91, R219, R197). A page frozen since drops what a launch's end or a block's exit flushes (entry 56); an `atomflush`
translated before the freeze and commits (R222). -/
def flushOne (s : State) (core pa mt : Nat) (f64 : Bool) (cs : List Contrib) (depth : Nat) (src : Option Raiser) : State :=
  let n := if f64 then 8 else 4
  let line := lineOf pa
  let sum := fun (bs : List Byte) => natBytes n (contribSum f64 (bytesNat bs) (contribSort cs))
  if lineDead s line then updCoh s (fun c => { c with deadHome := satInc c.deadHome })
  else if mt == 4 then
    let (s, bs) := freshMt4 s core line
    s.emit (.pcieWrite (portOfLine line) pa (sum (sliceBytes bs (offsetInLine pa) n)))
  else
    let (s, bs, p) := coherentRead (takeLine s line) pa n
    if p then logError s 1 2 0x0101 (homeDie s line) 0 pa
    else if src.isNone && pageFrozen s pa then s
    else pokePa s pa (sum bs) (some (depth + 1, src))

/-- Flushes a launch's held contributions that satisfy a test, address by address. -/
def flushContribs (s : State) (launch core : Nat) (p : Contrib → Bool) (depth : Nat) (src : Option Raiser) : State :=
  let mine := s.sched.contribs.filter (fun c => c.launch == launch && p c)
  match mine with
  | [] => s
  | _ =>
    let (ctx, buf) := (s.launch? launch).elim (0, 0) (fun l => (l.ctx, l.rcd.spill))
    let rest := s.sched.contribs.filter (fun c => !(c.launch == launch && p c))
    let s := { s with sched := { s.sched with contribs := rest } }
    let (s, keep, lost) := unspill s core ctx buf mine
    let s := logLost s lost
    let s := if mine.any (fun c => c.spilled.isSome) then setUsed s core ctx buf (spilledCount s launch) else s
    (dedup (keep.map (fun c => (c.pa, c.mt, c.f64)))).foldl (fun s k =>
      flushOne s core k.1 k.2.1 k.2.2 (keep.filter (fun c => (c.pa, c.mt, c.f64) == k)) depth src) s

/-! ### Barriers (R394) -/

def barBlock : Nat := 0
def barGroup (g : Nat) : Nat := 1 + g
def barLaunch : Nat := 257

/-- Whether a hatch of a block counts as arrived at a barrier: arrived, exited or killed (R173, R394). -/
def Block.counted (b : Block) (which idx : Nat) : Bool := b.exited.contains idx || b.arrived.contains (which, idx)

/-- The hatch indexes of a block: a continuation is a block of one hatch (R146). -/
def Block.indexes (b : Block) (l : Launch) : List Nat :=
  if b.spawnArea.isSome then [b.sole] else List.range l.rcd.hatches

/-- Whether every participant of a block's barrier has arrived. -/
def barrierFull (s : State) (b : Block) (l : Launch) (which : Nat) : Bool :=
  let all := fun (b : Block) => (b.indexes l).all (fun i => b.counted which i)
  if which == barLaunch then l.nextIdx.all (fun i => decide (l.rcd.blocks ≤ i)) && s.sched.blocks.all (fun x => x.launch != b.launch || all x)
  else if which == barBlock then all b
  else (l.rcd.groups.getD (which - 1) []).all (fun i => b.counted which i)

/-- The in-memory counter of a group without a hardware unit (R145): the lowest member, and the offset in its hatch area. -/
def groupCounter (r : LaunchRec) (g : Nat) : Nat × Nat :=
  let low := fun (g : Nat) => ((r.groups.getD g []).foldl min 384)
  let rank := ((List.range g).filter (fun x => low x == low g)).length
  (low g, 0x1D00 + 8 * rank)

/-- Arrivals at such a group are counted in memory, also after the lowest member's hatch has gone (R145, R447; entry 23); `kill` says
what becomes of a hatch whose area faults. -/
def countGroupWith (kill : State → Nat → Nat → Nat → State) (s : State) (binst which : Nat) : State :=
  match s.block? binst with
  | none => s
  | some b => match s.launch? b.launch with
    | none => s
    | some l =>
      if which == barBlock || which == barLaunch || b.hwGroups.contains (which - 1) then s
      else
        let (m, off) := groupCounter l.rcd (which - 1)
        let n := if barrierFull s b l which then 0 else ((l.rcd.groups.getD (which - 1) []).filter (b.counted which)).length
        match (devWrite (b.cores.getD 0 (b.die * 64)) l.ctx (b.areas.getD m 0 + off) (natBytes 8 n)).run s with
        | .ok _ s => s
        | .error (code, pa) s => match s.hatches.find? (fun h => h.block == binst && h.index == m) with
          | none => logError s 1 3 0x010B (b.cores.getD 0 (b.die * 64)) code pa
          | some h => kill s h.inst code pa

/-- A waiting hatch departs with its status (R394). -/
def Hatch.depart (which : Nat) (h : Hatch) : Hatch :=
  let st := natOfBool (h.abandoned.contains which)
  let f := fun (p : Path) => if p.wait == .barrier which then { p with wait := .depart st } else p
  let waits := fun (p : Option Path) => p.elim false (fun p => p.wait == .barrier which)
  if waits h.slot0 || waits h.slot1 then
    { h with slot0 := h.slot0.map f, slot1 := h.slot1.map f, abandoned := h.abandoned.filter (fun w => w != which) }
  else h

/-- Departure of one barrier of a block, or of the launch's barrier, when it is full. -/
def tryDepart (s : State) (binst which : Nat) : State :=
  match s.block? binst with
  | none => s
  | some b => match s.launch? b.launch with
    | none => s
    | some l =>
      if !barrierFull s b l which then s
      else if which == barLaunch then
        let mine := fun (h : Hatch) => (s.block? h.block).elim false (fun x => x.launch == b.launch)
        let clear := fun (x : Block) => { x with arrived := x.arrived.filter (fun a => a.1 != which) }
        let s := { s with hatches := updWhere mine (Hatch.depart which) s.hatches }
        { s with sched := { s.sched with blocks := updWhere (fun x => x.launch == b.launch) clear s.sched.blocks } }
      else
        let s := { s with hatches := updWhere (fun h => h.block == binst) (Hatch.depart which) s.hatches }
        s.updBlock binst (fun x => { x with arrived := x.arrived.filter (fun a => a.1 != which) })

/-- Every barrier at which some hatch of the block has arrived. -/
def departAll (s : State) (binst : Nat) : State :=
  match s.block? binst with
  | none => s
  | some b => (dedup (b.arrived.map (·.1))).foldl (fun s w => tryDepart s binst w) s

/-- After an exit or a kill every barrier it may complete is looked at: those of its block and the launch's. -/
def departAround (s : State) (b : Block) : State :=
  let s := departAll s b.inst
  (s.sched.blocks.filter (fun x => x.launch == b.launch && x.arrived.any (fun a => a.1 == barLaunch))).foldl
    (fun s x => tryDepart s x.inst barLaunch) s

/-! ### Blocks and launches (R155, R184) -/

/-- Frees a block's ways: they become unowned local store (R130). -/
def freeWays (s : State) (b : Block) : State :=
  let free := fun (w : Way) => match w with
    | .owned o bs bad => if o == b.inst then Way.free else .owned o bs bad
    | w => w
  b.cores.foldl (fun s c => s.updCore c (fun k =>
    { k with ways := k.ways.map free, owner := if k.owner == some b.inst then none else k.owner })) s

/-- Whether every block of a launch has exited: none is queued, resident, suspended or still to be queued (R155). -/
def launchDone (s : State) (l : Launch) : Bool :=
  !(s.sched.blocks.any (fun b => b.launch == l.id)) && l.nextIdx.all (fun i => decide (l.rcd.blocks ≤ i))

/-- Completion of a launch that no attached watch holds: flush, publish, retire (R124, R155). -/
def completeLaunch (s : State) (id : Nat) : State :=
  match s.launch? id with
  | none => s
  | some l =>
    if l.watch.isSome || !launchDone s l then s
    else
      let s := if l.watched then s else flushContribs s id 0 (fun _ => true) 0 none
      let s := (List.range 256).foldl (fun s c => if (s.core c).l1.isEmpty then s else drainCore s c) s
      { s with sched := { s.sched with launches := s.sched.launches.filter (fun x => x.id != id) } }

/-- A block whose hatches have all ended leaves its cores (R155, R219). -/
def endBlock (s : State) (b : Block) : State :=
  let s := freeWays s b
  let c := b.cores.getD 0 0
  let s := match s.launch? b.launch with
    | none => s
    | some l =>
      let s := b.areas.foldl (fun s a => AreaM.orElseState (poolRelease c l.ctx l.rcd.pool a) s) s
      if l.watched then flushContribs s l.id c (fun x => x.inst == b.inst) b.depth none else s
  let s := { s with sched := { s.sched with blocks := s.sched.blocks.filter (fun x => x.inst != b.inst) } }
  completeLaunch s b.launch

/-- A spawn that has been made: its continuation is on its way to a queue, whatever becomes of the spawner (R146, R156). -/
def isSpawn (i : Instr) : Bool := match i with
  | .spawn _ => true
  | .ibisect _ => true
  | _ => false

/-- Operations that a kill discards: those of the hatch (R173), but for spawns made. -/
def dropHatchOps (s : State) (inst : Nat) : State :=
  let goes := fun (o : Op) => o.hatch == inst && !isSpawn o.what
  let gone := (s.ops.filter goes).map (·.id)
  let trim := fun (k : Core) => { k with mqueue := k.mqueue.filter (fun i => !gone.contains i) }
  { s with
    ops := s.ops.filter (fun o => !goes o)
    cores := s.cores.map (fun k => if k.mqueue.isEmpty then k else trim k) }

/-- Instructions that wait at a word and go with their path. -/
def waitsAtWord : Instr → Bool
  | .sema _ => true
  | .waddr _ => true
  | _ => false

/-- A hatch that ends waits for no word. -/
def dropWaits (s : State) (inst : Nat) : State :=
  { s with ops := s.ops.filter (fun o => !(o.hatch == inst && waitsAtWord o.what)) }

/-- Drops a hatch's store-fault records (R193). -/
def dropRecords (s : State) (c inst : Nat) : State :=
  s.updCore c (fun k => ({ k with
    sfrq := k.sfrq.filter (fun r => r.hatch != inst)
    sfrWait := k.sfrWait.filter (fun r => r.hatch != inst) } : Core).refillSfr)

/-- Marks the barriers that a killed hatch would have joined (R173, R394). -/
def markAbandoned (s : State) (b : Block) (l : LaunchRec) (idx : Nat) : State :=
  let groups := (List.range l.groups.length).filter (fun g => (l.groups.getD g []).contains idx)
  let add := fun (h : Hatch) =>
    let ws := (if h.block == b.inst then
      barBlock :: (groups.filter (fun g => (l.groups.getD g []).contains h.index)).map barGroup else []) ++ [barLaunch]
    { h with abandoned := dedup (h.abandoned ++ ws) }
  let near := fun (h : Hatch) => (s.block? h.block).elim false (fun x => x.launch == b.launch)
  { s with hatches := updWhere near add s.hatches }

/-- A hatch ends (R169, R173): it leaves the machine, counts as arrived at every barrier, and its block ends with its
last hatch. -/
def endHatchWith (kill : State → Nat → Nat → Nat → State) (s : State) (inst : Nat) (killed : Bool) : State :=
  match s.hatch? inst with
  | none => s
  | some h =>
    let s := dropRecords s h.core inst
    let s := if killed then dropHatchOps s inst else dropWaits s inst
    let s := { s with hatches := s.hatches.filter (fun x => x.inst != inst), dry := s.dry.filter (fun r => r.hatch != inst) }
    match s.block? h.block with
    | none => s
    | some b =>
      let rcd := recOf s h
      let s := s.updBlock b.inst (fun b => { b with exited := b.exited ++ [h.index] })
      let s := if killed then markAbandoned s b rcd h.index else s
      let groups := (List.range rcd.groups.length).filter (fun g => (rcd.groups.getD g []).contains h.index)
      let s := groups.foldl (fun s g => countGroupWith kill s b.inst (barGroup g)) s
      let s := departAround s b
      if s.hatches.any (fun x => x.block == b.inst) then s
      else match s.block? b.inst with
        | none => s
        | some b => endBlock s b

/-! ### Kills (R173, R197, R447) -/

def frameAt : Nat := 0x1800

/-- The kill's own writes to the trap frame, each made where it can be (R447). -/
def killFrame (h : Hatch) (ctx code pc : Nat) (s : State) : State :=
  let w := fun (s : State) (off : Nat) (bs : List Byte) => AreaM.orElseState (devWrite h.core ctx (h.area + frameAt + off) bs) s
  let s := w s 0x3E0 (natBytes 1 code)
  let s := w s 0x3E8 (natBytes 8 pc)
  let rd := fun (s : State) (off n : Nat) => match (devRead h.core ctx (h.area + frameAt + off) n).run s with
    | .ok bs s => (s, some (bytesNat bs))
    | .error _ s => (s, none)
  let (s, n) := rd s 0x3FC 4
  let s := match n with
    | some n => w s 0x3FC (natBytes 4 (n + 1))
    | none => s
  let (s, f) := rd s 0x001 1
  match f with
  | some f => w s 0x001 (natBytes 1 (if bitAt f 1 then f else f + 2))
  | none => s

/-- A hatch whose area faults is killed (R447); the kill of a hatch may meet a fault on the area of another. -/
def faultKill : Nat → State → Nat → Nat → Nat → State
  | 0, s, _, _, _ => s
  | n + 1, s, inst, code, pa => match s.hatch? inst with
    | none => s
    | some h =>
      let s := killFrame h (ctxOf s h) code (h.slot0.elim 0 (·.pc)) (logError s 1 3 0x010B h.core code pa)
      endHatchWith (faultKill n) s inst true

def endHatch (s : State) (inst : Nat) (killed : Bool) : State := endHatchWith (faultKill s.hatches.length) s inst killed

/-- An arrival is counted in memory where its group has no unit. -/
def countGroup (s : State) (binst which : Nat) : State := countGroupWith (faultKill s.hatches.length) s binst which

/-- Kills a hatch without a handler (R173). -/
def killHatch (s : State) (inst code pc : Nat) : State :=
  match s.hatch? inst with
  | none => s
  | some h => endHatch (killFrame h (ctxOf s h) code pc s) inst true

/-- A kill for poison consumed (R197, R445). -/
def poisonKill (s : State) (inst pc pa : Nat) : State :=
  match s.hatch? inst with
  | none => s
  | some h => killHatch (logError s 1 3 0x0101 h.core 0 pa) inst tcPoison pc

/-- A fault on a hatch area (R447). -/
def areaFault (s : State) (inst pc code pa : Nat) : State :=
  match s.hatch? inst with
  | none => s
  | some h => killHatch (logError s 1 3 0x010B h.core code pa) inst code pc

/-- Runs an access to a hatch's area; a fault kills the hatch. -/
def withArea (s : State) (inst pc : Nat) (m : AreaM Unit) : State :=
  match m.run s with
  | .ok _ s => s
  | .error (code, pa) s => areaFault s inst pc code pa

end Sys2Proof.Machine
end

