-- ==== Sys2Proof/Machine/Ops.lean ====
section
/-! DEFINITION. Paths, the divergence stack and split table (08 R164 to R169), retiring an instruction (13 R301), taking
a trap and returning from one (08 R170 to R173, 11 R255). -/

namespace Sys2Proof.Machine

/-! ### Path records (R164, R165) -/

/-- s3 as a path reads it (R165). -/
def s3Word (prot : Bool) (slot : Nat) (p : Path) : Nat :=
  p.prio % 8 * 8 + natOfBool prot * 4 + natOfBool p.handler * 2 + slot % 2

def Path.isYielded (p : Path) : Bool := match p.wait with
  | .yield _ _ => true
  | _ => false

/-- The 64-byte path record (R164). -/
def Path.record (prot : Bool) (slot : Nat) (p : Path) : List Byte :=
  natBytes 8 p.pc ++ natBytes 12 p.domain.toNat ++ natBytes 12 p.mask.toNat ++ natBytes 4 (s3Word prot slot p) ++
    natBytes 1 p.prio ++ natBytes 1 p.loops.length ++ natBytes 1 (p.split.getD 0xFF) ++
    natBytes 1 (natOfBool p.isYielded) ++ List.replicate 24 0

/-- A loop entry in 16 bytes (R164). -/
def LoopEntry.record (e : LoopEntry) : List Byte := natBytes 8 e.start ++ natBytes 4 e.len ++ natBytes 4 e.remaining

/-- The loop-stack extension: four entries, innermost last (R164). -/
def loopsRecord (ls : List LoopEntry) : List Byte :=
  let bs := ls.reverse.flatMap LoopEntry.record
  bs ++ List.replicate (64 - bs.length) 0

/-- The loop stack of an extension with n entries, innermost first. -/
def loopsOf (n : Nat) (bs : List Byte) : List LoopEntry :=
  ((List.range (min n 4)).map (fun i =>
    (⟨fieldAt bs (16 * i) 8, fieldAt bs (16 * i + 8) 4, fieldAt bs (16 * i + 12) 4⟩ : LoopEntry))).reverse

/-- The path of a record and its extension. -/
def pathOf (bs ext : List Byte) (handler : Bool) (clock : Nat) : Path :=
  let sp := fieldAt bs 0x26 1
  { pc := fieldAt bs 0 8, domain := BitVec.ofNat 96 (fieldAt bs 8 12), mask := BitVec.ofNat 96 (fieldAt bs 0x14 12)
    maskDiff := 0, prio := fieldAt bs 0x24 1 % 8, loops := loopsOf (fieldAt bs 0x25 1) ext
    split := if sp < 64 then some sp else none, handler := handler, promo := 0, passed := 0, lastIssue := 0
    wait := if fieldAt bs 0x27 1 % 2 == 1 then .yield clock 0 else .none }

/-- A new path. -/
def Path.start (pc : Nat) (domain : LaneSet) (prio : Nat) (handler : Bool) : Path :=
  { pc := pc, domain := domain, mask := domain, maskDiff := 0, prio := prio, loops := [], split := none, handler := handler
    promo := 0, passed := 0, lastIssue := 0, wait := .none }

/-! ### Hatch-area access by offset (R125) -/

def getHatch (inst : Nat) : AreaM Hatch := fun s =>
  match s.hatch? inst with
  | some h => .ok h s
  | none => .error (0, 0) s

def setHatch (inst : Nat) (f : Hatch → Hatch) : AreaM Unit := modify (fun s => s.updHatch inst f)

def areaRead (inst off n : Nat) : AreaM (List Byte) := do
  let h ← getHatch inst
  let s ← get
  devRead h.core (ctxOf s h) (h.area + off) n

def areaWrite (inst off : Nat) (bs : List Byte) : AreaM Unit := do
  let h ← getHatch inst
  let s ← get
  devWrite h.core (ctxOf s h) (h.area + off) bs

/-! ### Divergence stack (R167) -/

def Hatch.divDepth (h : Hatch) : Nat := h.dstack.foldl (· + ·) 0

def Path.entries (p : Path) : Nat := if p.loops.isEmpty then 1 else 2

/-- Pushes a path; the caller has checked that the entries fit. -/
def divPush (inst : Nat) (prot : Bool) (p : Path) : AreaM Unit := do
  let h ← getHatch inst
  let at_ := 64 * h.divDepth
  areaWrite inst at_ (p.record prot 0)
  if p.loops.isEmpty then pure () else areaWrite inst (at_ + 64) (loopsRecord p.loops)
  setHatch inst (fun h => { h with
    dstack := p.entries :: h.dstack
    dstackHandler := if p.handler then h.dstackHandler + 1 else h.dstackHandler
    imageValid := false })

/-- Loads the top path into a free slot, if the stack has one that the running level may take (R167). -/
def divLoad (inst slot : Nat) : AreaM Unit := do
  let h ← getHatch inst
  match h.dstack with
  | [] => pure ()
  | n :: rest =>
    if h.handler && h.dstackHandler == 0 then pure ()
    else
      let at_ := 64 * rest.foldl (· + ·) 0
      let bs ← areaRead inst at_ 64
      let ext ← if n == 2 then areaRead inst (at_ + 64) 64 else pure []
      let s ← get
      let p := pathOf bs ext h.handler s.clock
      setHatch inst (fun h => ({ h with dstack := rest, dstackHandler := h.dstackHandler - 1 } : Hatch).setPath slot (some p))

/-- A slot falls free and takes the top of the stack. -/
def freeSlot (inst slot : Nat) : AreaM Unit := do
  setHatch inst (fun h => h.setPath slot none)
  divLoad inst slot

/-! ### Split table (R168) -/

def SplitRec.record (r : SplitRec) : List Byte :=
  natBytes 12 r.outstanding.toNat ++ natBytes 12 r.domain.toNat ++ natBytes 1 (r.parent.getD 0xFF) ++ natBytes 1 r.prio ++
    natBytes 1 1 ++ natBytes 1 (natOfBool r.handler) ++ List.replicate 4 0

/-- The record of an entry of the table; one that is not VALID holds no lane. -/
def splitOf (idx : Nat) (bs : List Byte) (use : Nat) : SplitRec :=
  let pa := fieldAt bs 0x18 1
  { idx := idx, outstanding := if bitAt (fieldAt bs 0x1A 1) 0 then BitVec.ofNat 96 (fieldAt bs 0 12) else 0, domain := BitVec.ofNat 96 (fieldAt bs 0xC 12)
    parent := if pa < 64 then some pa else none, prio := fieldAt bs 0x19 1 % 8, handler := bitAt (fieldAt bs 0x1B 1) 0
    use := use }

def splitAt_ (idx : Nat) : Nat := 0x1000 + 32 * idx

def bit64 (i : Nat) : BitVec 64 := BitVec.ofNat 64 (2 ^ i)

/-- Puts a record into the on-chip cache of 8, writing the least recently used one back for room. -/
def splitPut (inst : Nat) (r : SplitRec) : AreaM Unit := do
  let h ← getHatch inst
  let others := h.splits.filter (fun x => x.idx != r.idx)
  if others.length < 8 then setHatch inst (fun h => { h with splits := others ++ [r] })
  else match leastBy (·.use) others with
    | none => pure ()
    | some v =>
      areaWrite inst (splitAt_ v.idx) v.record
      setHatch inst (fun h => { h with
        splits := others.filter (fun x => x.idx != v.idx) ++ [r], splitOut := h.splitOut ||| bit64 v.idx })

/-- Reads a record, from the cache or the hatch area. -/
def splitGet (inst idx : Nat) : AreaM SplitRec := do
  let h ← getHatch inst
  let s ← get
  match h.splits.find? (fun x => x.idx == idx) with
  | some r => return { r with use := s.clock }
  | none =>
    let bs ← areaRead inst (splitAt_ idx) 32
    return splitOf idx bs s.clock

/-- The lowest free index. -/
def splitFree (h : Hatch) : Option Nat := (List.range 64).find? (fun i => !h.splitUsed.getLsbD i)

def splitAlloc (inst : Nat) (r : SplitRec) : AreaM Unit := do
  setHatch inst (fun h => { h with
    splitUsed := h.splitUsed ||| bit64 r.idx
    splitHandler := if r.handler then h.splitHandler ||| bit64 r.idx else h.splitHandler })
  splitPut inst r

/-- Records that were written back and are freed read VALID = 0 in the hatch area. -/
def splitClear (inst : Nat) : List Nat → AreaM Unit
  | [] => pure ()
  | i :: r => do
    areaWrite inst (splitAt_ i + 0x1A) [0]
    splitClear inst r

def splitDrop (inst idx : Nat) : AreaM Unit := do
  let h ← getHatch inst
  splitClear inst (if h.splitOut.getLsbD idx then [idx] else [])
  setHatch inst (fun h => { h with
    splitOut := h.splitOut &&& ~~~(bit64 idx)
    splits := h.splits.filter (fun x => x.idx != idx)
    splitUsed := h.splitUsed &&& ~~~(bit64 idx)
    splitHandler := h.splitHandler &&& ~~~(bit64 idx) })

/-- Removes lanes from a record and its ancestors, freeing each that empties (R169, R308). -/
def splitRemove (inst : Nat) (lanes : LaneSet) : Nat → Option Nat → AreaM Unit
  | 0, _ => pure ()
  | _, none => pure ()
  | k + 1, some idx => do
    let r ← splitGet inst idx
    let out := r.outstanding &&& ~~~lanes
    if out == 0 then splitDrop inst idx else splitPut inst { r with outstanding := out }
    splitRemove inst lanes k r.parent

/-! ### Traps (R170 to R173) -/

/-- What a trap reports. -/
structure TrapReport where
  code : Nat
  info : Nat := 0
  addr : Nat := 0
  mask : LaneSet := 0
  deriving DecidableEq, Repr

/-- Whether a hatch's launch is protected. -/
def hatchProt (s : State) (h : Hatch) : Bool := (recOf s h).prot

def predBytes (p : PredReg) : List Byte :=
  natBytes 24 ((List.range 96).foldl (fun a l => a + (match p.getD l .f with
    | .f => 0
    | .t => 1
    | .u => 2) * 4 ^ l) 0)

def triOfCode (c : Nat) : Tri := if c == 0 then .f else if c == 1 then .t else .u

def predOfBytes (bs : List Byte) : PredReg :=
  let v := bytesNat bs
  (List.range 96).map (fun l => triOfCode (v / 4 ^ l % 4))

/-- Writes the trap frame (R171). -/
def writeFrame (inst : Nat) (prot : Bool) (slot pc : Nat) (t : TrapReport) : AreaM Unit := do
  let h ← getHatch inst
  let p := h.path? slot
  let q := h.path? (1 - slot)
  areaWrite inst frameAt (natBytes 1 t.code ++ natBytes 1 1)
  areaWrite inst (frameAt + 4) (natBytes 4 t.info ++ natBytes 8 pc ++ natBytes 8 t.addr ++ natBytes 12 t.mask.toNat ++
    natBytes 1 (if q.isSome then 2 else 1) ++ natBytes 1 h.pstack.length)
  match p with
  | some p => areaWrite inst (frameAt + 0x40) (p.record prot slot ++ loopsRecord p.loops)
  | none => pure ()
  match q with
  | some q => areaWrite inst (frameAt + 0xC0) (q.record prot (1 - slot) ++ loopsRecord q.loops)
  | none => pure ()
  if h.pstack.isEmpty then pure () else areaWrite inst (frameAt + 0x140) (h.pstack.reverse.flatMap predBytes)

/-- Starts the handler (R170). -/
def startHandler (inst entry : Nat) (domain : LaneSet) (t : TrapReport) : AreaM Unit := do
  modify (fun s => { s with dry := s.dry.filter (fun r => r.hatch != inst) })
  setHatch inst (fun h => { h with
    slot0 := some (Path.start entry domain 0 true)
    slot1 := none
    pstack := []
    handler := true
    dstackHandler := 0
    trapcode := t.code
    trapinfo := t.info
    trapaddr := t.addr
    trapmask := t.mask })

/-- Takes a trap of the path in a slot, with `sr.trappc` = pc. In a handler it is DOUBLE_TRAP (R173); POISON and
SHADOW_MISMATCH kill in any case. -/
def takeTrap (s : State) (inst slot pc : Nat) (t : TrapReport) : State :=
  match s.hatch? inst with
  | none => s
  | some h => match h.path? slot with
    | none => s
    | some p =>
      if t.code == tcPoison || t.code == tcShadowMismatch then killHatch s inst t.code pc
      else if h.handler then killHatch s inst tcDoubleTrap pc
      else
        let rcd := recOf s h
        withArea s inst pc (do
          writeFrame inst rcd.prot slot pc t
          startHandler inst rcd.trap p.domain t)

def wrap64 (n : Nat) : Nat := n % 2 ^ 64

/-- The end check (R301). -/
def endCheck (pc : Nat) : List LoopEntry → List LoopEntry × Nat
  | [] => ([], pc)
  | t :: r =>
    if pc == wrap64 (t.start + t.len) then
      if 1 < t.remaining then ({ t with remaining := t.remaining - 1 } :: r, t.start) else endCheck pc r
    else (t :: r, pc)

/-- Restores the slots and the predicate stack from the frame and ends the handler (R172): each path goes back to the
slot that its s3 names, and the trapping path resumes at `pc`, having fallen through to it where `fall` holds. -/
def restoreFrame (inst pc : Nat) (fall : Bool) : AreaM Unit := do
  let n ← areaRead inst (frameAt + 0x24) 2
  let s ← get
  let rec0 ← areaRead inst (frameAt + 0x40) 128
  let q0 := pathOf (rec0.take 64) (rec0.drop 64) false s.clock
  let p0 := if fall then { q0 with pc := (endCheck pc q0.loops).2, loops := (endCheck pc q0.loops).1 } else { q0 with pc := pc }
  let slot := fieldAt rec0 0x20 1 % 2
  let rec1 ← if fieldAt n 0 1 == 2 then areaRead inst (frameAt + 0xC0) 128 else pure []
  let p1 := if fieldAt n 0 1 == 2 then some (pathOf (rec1.take 64) (rec1.drop 64) false s.clock) else none
  let depth := min (fieldAt n 1 1) 16
  let st ← if depth == 0 then pure [] else areaRead inst (frameAt + 0x140) (24 * depth)
  let pst := ((List.range depth).map (fun i => predOfBytes (sliceBytes st (24 * i) 24))).reverse
  areaWrite inst (frameAt + 1) (natBytes 1 0)
  let h ← getHatch inst
  splitClear inst ((List.range 64).filter (fun i => h.splitHandler.getLsbD i && h.splitOut.getLsbD i))
  setHatch inst (fun h => ({ h with
    splitOut := h.splitOut &&& ~~~h.splitHandler
    pstack := pst
    handler := false
    atRestart := false
    dstack := h.dstack.drop h.dstackHandler
    dstackHandler := 0
    splits := h.splits.filter (fun r => !h.splitHandler.getLsbD r.idx)
    splitUsed := h.splitUsed &&& ~~~h.splitHandler
    splitHandler := 0 } : Hatch).setPath slot (some p0) |>.setPath (1 - slot) p1)

/-! ### Retiring (R301, R161, R162) -/

/-- A path arrives at a PC by falling through. -/
def Path.arrive (p : Path) (pc : Nat) : Path := { p with pc := (endCheck pc p.loops).2, loops := (endCheck pc p.loops).1 }

def Path.unyield (p : Path) : Path := if p.isYielded then { p with wait := .none } else p

/-! The pipes of R158 (15, "Pipe"): 0 vector ALU, 1 FP64 and special function, 2 memory, 3 scalar. -/
def pipeOf (op : Nat) (allScalar : Bool) (ty : Nat) : Nat :=
  if op < 0x20 || 0xC5 ≤ op then 3
  else if 0x9F ≤ op then 2
  else if allScalar then 3
  else if (0x63 ≤ op && op ≤ 0x6E) || (0x76 ≤ op && op ≤ 0x7F) || (0x53 ≤ op && op ≤ 0x8F && ty == 0xA) then 1 else 0

/-- What an issue does beside the instruction's effect: the path's promotion returns to zero, its partition has issued, and the
partition's other paths end their yields (R160 to R162, R178). -/
def noteIssue (s : State) (inst slot : Nat) : State :=
  match s.hatch? inst with
  | none => s
  | some h =>
    let near := fun (x : Hatch) => x.core == h.core && x.partition == h.partition
    let n := (s.core h.core).issued.getD h.partition 0 + 1
    let free := fun (x : Hatch) => { x with
      slot0 := if x.inst == inst && slot == 0 then x.slot0 else x.slot0.map Path.unyield
      slot1 := if x.inst == inst && slot != 0 then x.slot1 else x.slot1.map Path.unyield }
    let s := { s with hatches := updWhere near free s.hatches, dry := s.dry.filter (fun r => r != PathRef.mk inst slot) }
    let s := s.updPath inst slot (fun p => { p with promo := 0, passed := 0, lastIssue := n, wait := .none })
    s.updCore h.core (fun k => { k with
      issued := k.issued.set h.partition n
      lastIssue := k.lastIssue.set h.partition s.clock })

/-- The path moves past the instruction. -/
def retire (s : State) (inst slot pc len : Nat) : State :=
  noteIssue (s.updPath inst slot (fun p => p.arrive (wrap64 (pc + len)))) inst slot

/-- The path's instruction may not issue now. -/
def stall (s : State) : State :=
  let s := settle s
  match s.cur with
  | none => s
  | some r => { s with stalled := s.stalled ++ [r], dry := s.dry.filter (fun x => x != r) }

/-- The path's instruction finds no register to allocate; it keeps its place until it does (R177). -/
def stallDry (s : State) : State :=
  let s := settle s
  match s.cur with
  | none => s
  | some r => { s with stalled := s.stalled ++ [r], dry := if s.dry.contains r then s.dry else s.dry ++ [r] }

end Sys2Proof.Machine
end

