-- ==== Sys2Proof/Machine/Operands.lean ====
section
/-! DEFINITION. Operand forms (12 R282 to R289, 11 R247 to R251), the checks of R272 from step 4 on, register allocation
(08 R175 to R177) and full and empty registers (R179), and the completion of an instruction that writes registers. -/

namespace Sys2Proof.Machine

/-- An instruction about to issue: its hatch, path, slot, launch record, kind of context and active lanes. -/
structure Iss where
  h : Hatch
  p : Path
  slot : Nat
  rcd : LaunchRec
  kern : Bool
  act : LaneSet
  deriving DecidableEq, Repr

/-- The issuing path of the state (R160), every lane of its mask active. -/
def State.issuing (s : State) : Option Iss :=
  match s.cur with
  | none => none
  | some r => match s.hatch? r.hatch with
    | none => none
    | some h => match h.path? r.slot with
      | none => none
      | some p => some ⟨h, p, r.slot, recOf s h, hatchKernel s h, p.mask⟩

def Iss.inst (c : Iss) : Nat := c.h.inst
def Iss.prot (c : Iss) : Bool := c.rcd.prot

/-! ### Lanes (R195, R288, R289) -/

/-- Visible lanes: 96, or 48 in protected mode. -/
def visCount (prot : Bool) : Nat := if prot then 48 else 96

/-- The visible lane of a physical lane, and the physical lane of a visible one on the side of another physical lane. -/
def visLane (prot : Bool) (l : Nat) : Nat := if prot then l / 2 else l
def physLane (prot : Bool) (l j : Nat) : Nat := if prot then 2 * j + l % 2 else j

/-- The physical lanes of a set of visible lanes. -/
def physMask (prot : Bool) (m : LaneSet) : LaneSet :=
  if prot then laneSet ((List.range 96).filter (fun l => m.getLsbD (l / 2))) else m

/-- The lane that a modifier reads for a lane (R289). -/
def modLane (prot : Bool) (m : BitVec 12) (l : Nat) : Nat :=
  let cls := m.toNat / 1024
  let seg := segSize (m.toNat / 64 % 16)
  let d := m.toNat % 64
  let i := visLane prot l
  let base := i / seg * seg
  if cls == 0 then l
  else if cls == 1 then physLane prot l (base + (i - base + d) % seg)
  else if cls == 2 then physLane prot l (base + Nat.xor (i - base) d)
  else physLane prot l (base + d)

/-! ### Register values -/

def Hatch.vreg (h : Hatch) (r : Nat) : VReg := h.v.getD r VReg.unmapped

/-- One lane of a vector register; an unmapped register reads zero (R175). -/
def Hatch.vword (h : Hatch) (r l : Nat) : Word := (h.vreg r).lo.getD l 0
def Hatch.vhi (h : Hatch) (r l : Nat) : Word := (h.vreg r).hi.getD l 0

/-- A scalar register as a path reads it, on the main or the shadow side (R165, R195, R246, R249). -/
def Iss.sword (c : Iss) (shadow : Bool) (r : Nat) : Word :=
  if r < 3 then (if shadow then c.p.mask ^^^ c.p.maskDiff else c.p.mask).extractLsb' (32 * r) 32
  else if r == 3 then BitVec.ofNat 32 (s3Word c.prot c.slot c.p)
  else if shadow then c.h.shadow.getD r 0 else c.h.s.getD r 0

/-- The k-th word of an operand in a physical lane (R282, R284). -/
def Iss.opWord (c : Iss) (x : BitVec 8) (k l : Nat) : Word :=
  match specKind x with
  | .v r => c.h.vword (r + k) l
  | .s r => c.sword (c.prot && l % 2 == 1) (r + k)
  | .lane => if k == 0 then BitVec.ofNat 32 (visLane c.prot l) else 0
  | .ones => BitVec.allOnes 32
  | _ => 0

/-- An operand of w registers in a physical lane, through a lane modifier. An immediate is given already widened. -/
def Iss.val (c : Iss) (x : BitVec 8) (w : Nat) (m : BitVec 12) (imm : Nat) (l : Nat) : Nat :=
  if x == 0xF0#8 then imm
  else
    let j := if isVec x then modLane c.prot m l else l
    (List.range w).foldl (fun a k => a + (c.opWord x k j).toNat * 2 ^ (32 * k)) 0

/-- A scalar operand of w registers on the main side. -/
def Iss.sval (c : Iss) (x : BitVec 8) (w : Nat) : Nat := c.val x w 0 0 0

/-- Sources A, B and C of an A-format instruction. -/
def Iss.srcA (c : Iss) (f : AForm) (w l : Nat) : Nat := c.val f.srca w (if f.regForm then f.moda else 0) 0 l
def Iss.srcB (c : Iss) (f : AForm) (w imm l : Nat) : Nat :=
  if f.immForm then imm else c.val f.srcb w (if f.regForm then f.modb else 0) 0 l
def Iss.srcC (c : Iss) (f : AForm) (w l : Nat) : Nat := c.val f.aux w 0 0 l

/-- The predicate and the vector register that a specifier names. -/
def predReg (x : BitVec 8) : Nat := match specKind x with
  | .p r => r
  | _ => 0

def vecReg (x : BitVec 8) : Nat := match specKind x with
  | .v r => r
  | _ => 0

def Hatch.pcode (h : Hatch) (r l : Nat) : Tri := (h.p.getD r []).getD l .f

/-! ### Sources and destinations of an instruction -/

/-- A source: slot code, specifier, registers, empty-trap and last-use bits, and whether it is read as an interval. -/
structure SrcUse where
  slot : Nat
  spec : BitVec 8
  width : Nat
  etrap : Bool := false
  last : Bool := false
  ivl : Bool := false
  anyTag : Bool := false
  deriving DecidableEq, Repr

/-- What an instruction reads and writes, for the checks of R272, R179 and R176; `marks` where it marks its destinations empty
although its result is computed at the issue (R158). -/
structure Shape where
  srcs : List SrcUse := []
  dsts : List (BitVec 8 × Nat) := []
  marks : Bool := false
  deriving DecidableEq, Repr

def regRange (r w : Nat) : List Nat := (List.range w).map (fun k => r + k)

/-- Whether some register of an operand is empty (R179). -/
def Hatch.empty (h : Hatch) (x : BitVec 8) (w : Nat) : Bool :=
  match specKind x with
  | .v r => (regRange r w).any (fun i => h.emptyV.getLsbD i)
  | .s r => (regRange r w).any (fun i => h.emptyS.getLsbD i)
  | .p r => h.emptyP.getLsbD r
  | _ => false

/-- Whether an operand's tags are wrong for the instruction (R248). -/
def SrcUse.badTag (h : Hatch) (u : SrcUse) : Bool :=
  if u.anyTag then false
  else match specKind u.spec with
  | .v r =>
    let t := (h.vreg r).tag
    if !u.ivl then (regRange r u.width).any (fun i => (h.vreg i).tag != 0)
    else if u.width == 1 then !(t == 0 || t == 1)
    else !((t == 0 && (h.vreg (r + 1)).tag == 0) || (t == 2 && (h.vreg (r + 1)).tag == 3))
  | _ => false

/-- What the checks say: a trap, a wait, or go. -/
inductive Pre where
  | trap (code info : Nat)
  | wait
  | go
  deriving DecidableEq, Repr

def slotInfo (slot : Nat) : Nat := slot * 256

/-- Steps 7 and 8 of R272, then the waits of R179 and R287. -/
def preRegs (c : Iss) (sh : Shape) (gidx : BitVec 3) (gsense : BitVec 2) : Pre :=
  match sh.srcs.find? (fun u => u.badTag c.h) with
  | some u => .trap tcIntervalOperand (slotInfo u.slot)
  | none => match sh.srcs.find? (fun u => u.etrap && c.h.empty u.spec u.width) with
    | some u => .trap tcRegEmpty (slotInfo u.slot)
    | none =>
      if sh.srcs.any (fun u => c.h.empty u.spec u.width) || sh.dsts.any (fun d => c.h.empty d.1 d.2)
        || (gsense != 0 && c.h.emptyP.getLsbD gidx.toNat) then .wait else .go

/-- The active lanes (R249, R287). -/
def Iss.guarded (c : Iss) (gidx : BitVec 3) (gsense : BitVec 2) : LaneSet :=
  if gsense == 0 then c.p.mask
  else
    let want : Tri := if gsense == 1 then .t else if gsense == 2 then .f else .u
    laneSet ((List.range (visCount c.prot)).filter (fun l =>
      c.p.mask.getLsbD l && c.h.pcode gidx.toNat (physLane c.prot 0 l) == want))

/-- A privileged opcode in a user context (R293). -/
def privileged (op rm : Nat) : Bool := op == 0x1B || op == 0x1D || op == 0x1F || op == 0x1C && decide (2 ≤ rm)

def Iss.fieldCtx (c : Iss) : FieldCtx := ⟨!c.kern, c.rcd.tiles, c.prot⟩

/-- The low 32 bits of an instruction word (R272 step 4). -/
def word32 (w : BitVec 128) : Nat := (w.extractLsb' 0 32).toNat

/-- The predicate or second register that an A-format instruction also writes: the carry of `addc` and `subb` (R324), the
`.p` forms (R357), the second half of `isplit` (R363), the scales of an mx `pack` (R351). -/
def aPredDst (op : Nat) (f : AForm) : List (BitVec 8 × Nat) :=
  if op == 0x22 || op == 0x23 then [(0xC0#8 + f.aux, 1)]
  else if (op == 0x80 || op == 0x81 || op == 0x86 || op == 0x87 || op == 0x89) && decide (4 ≤ f.sub) then [(0xC0#8 + f.aux, 1)]
  else if op == 0x8E then [(f.aux, tyRegs f.ty.toNat)]
  else []

/-- Registers that a control instruction writes: `sr.sfrread` eight, the masks of `vote` three (R312, R314). -/
def aDstWidth (op : Nat) (f : AForm) (w : Nat) : Nat :=
  if op == 0x17 && f.aux == 0x0D#8 then 8 else if op == 0x19 && (f.sub == 4 || f.sub == 5) then 3 else w

/-- A-format instructions that mark their destinations empty whatever lanes they read (R158, R351, R354): `fdiv`, `fsqrt`, `fexp` to
`fsig`, `pack`, `unpack`, `ddiv` to `drsq`, `lmatch`, `lfirst`, `lcomp`, and `scan` and `red` over segments that do not divide
32. -/
def aMarks (op : Nat) (f : AForm) : Bool :=
  [0x63, 0x64, 0x69, 0x6A, 0x6B, 0x6C, 0x6D, 0x6E, 0x72, 0x73, 0x7C, 0x7D, 0x7E, 0x7F, 0x93, 0x94, 0x95].contains op ||
  (op == 0x96 || op == 0x97) && 32 % segSize (f.aux.toNat % 16) != 0

/-- The operands of an A-format instruction. `ivl` names the slots read as intervals. -/
def aShape (op : Nat) (r : ARule) (f : AForm) : Shape :=
  let ivl := decide (0x80 ≤ op) && decide (op ≤ 0x8F)
  let ai := ivl && !(op == 0x80 || op == 0x81)
  let a := if r.a.used then [SrcUse.mk 2 f.srca r.a.width f.aTrap f.aLast ai false] else []
  let b := if r.b.used then [SrcUse.mk 3 f.srcb r.b.width f.bTrap f.bLast (ivl && op != 0x80) false] else []
  let c := if r.three then
    [SrcUse.mk 4 f.aux r.c.width (f.regForm && f.cTrap) (f.regForm && f.cLast) false false] else []
  let six := fun (x : BitVec 8) => if isScal x then 6 else 1
  if op == 0x9D then
    { srcs := [SrcUse.mk 2 f.srca (six f.srca) f.aTrap f.aLast false false], dsts := [(f.dst, six f.dst)] }
  else { srcs := a ++ b ++ c, dsts := (if r.dst.used then [(f.dst, aDstWidth op f r.dst.width)] else []) ++ aPredDst op f
         marks := aMarks op f }

/-- Steps 4 to 8 of R272 for an A-format instruction, and its waits. -/
def preA (op : Nat) (f : AForm) (c : Iss) : Pre :=
  if !aLenOk op f then .trap tcIllegalOpcode (word32 (f.word op))
  else if !c.kern && privileged op f.rm then .trap tcPrivileged op
  else match aFieldFault c.fieldCtx op f with
    | some x => .trap tcIllegalOperand (x.cause + slotInfo x.slot)
    | none => preRegs c (aShape op (aRule c.fieldCtx op f) f) f.gidx f.gsense

def bShape (op : Nat) (f : BForm) : Shape :=
  let a := op == 0x03 || op == 0x06 || op == 0x07 || op == 0x0C
  let w := if op == 0x06 || op == 0x07 then 2 else 1
  { srcs := if a then [{ slot := 2, spec := f.srca, width := w, etrap := f.aTrap }] else []
    dsts := if op == 0x04 || op == 0x07 then [(f.dst, 2)] else [] }

def preB (op : Nat) (f : BForm) (c : Iss) : Pre :=
  if !bLenOk op f then .trap tcIllegalOpcode (word32 (f.word op))
  else match bFieldFault c.fieldCtx op f with
    | some x => .trap tcIllegalOperand (x.cause + slotInfo x.slot)
    | none => preRegs c (bShape op f) f.gidx f.gsense

/-- Whether D of an M128 opcode is read, and whether it is written. -/
def mReadsD (op : Nat) : Bool :=
  [0xA0, 0xA2, 0xA4, 0xA7, 0xA9, 0xAC, 0xB9, 0xBA, 0xBB].contains op || decide (0xD3 ≤ op) && decide (op ≤ 0xD9)

def mWritesD (op : Nat) : Bool :=
  [0x9F, 0xA1, 0xA3, 0xA5, 0xA6, 0xA8, 0xAA, 0xAB, 0xB1, 0xB2, 0xB3, 0xB4, 0xB7, 0xB8, 0xB9, 0xBA, 0xBB, 0xBD, 0xBE, 0xBF,
    0xC0, 0xC2, 0xC3, 0xC4, 0xCD, 0xDB, 0xDC].contains op

/-- Registers of the data group of `ldlx`, `stlx`, `mrd` and `mwr`. -/
def mGroup (op : Nat) (f : MForm) (w : Nat) : Nat :=
  if op == 0xA6 || op == 0xA7 || op == 0xCD then f.opx.toNat % 8 + 1 else w

/-- X of an M128 opcode is written by `ldt` only. -/
def mShape (op : Nat) (f : MForm) : Shape :=
  let r := mRule op f
  let src := fun (rule : SlotRule) (slot : Nat) (x : BitVec 8) (w : Nat) (t l ivl : Bool) =>
    if rule.used then [({ slot := slot, spec := x, width := w, etrap := t, last := l, ivl := ivl } : SrcUse)] else []
  let dw := mGroup op f r.d.width
  let xw := if op == 0xCE then f.opx.toNat % 8 + 1 else if op == 0xDF || op == 0xC5 then r.x.width else r.x.width
  { srcs := src r.addr 2 f.addr r.addr.width f.adTrap f.adLast false ++ src r.idx 3 f.idx r.idx.width f.ixTrap f.ixLast false ++
      (if mReadsD op then src r.d 1 f.d dw false f.dLast (op == 0xAC) else []) ++
      (if op == 0xB2 then [] else src r.x 4 f.x xw false false false)
    dsts := (if mWritesD op && r.d.used then [(f.d, dw)] else []) ++ (if op == 0xB2 then [(f.x, 1)] else [])
    marks := [0xA3, 0xA5, 0xA6, 0xB7, 0xB8, 0xBB].contains op }

def preM (op : Nat) (f : MForm) (c : Iss) : Pre :=
  match mFieldFault c.fieldCtx op f with
  | some x => .trap tcIllegalOperand (x.cause + slotInfo x.slot)
  | none => preRegs c (mShape op f) f.gidx f.gsense

/-! ### The frame of every instruction's meaning -/

/-- The end of a step: raised triggers are settled and everything that waits is tried again. -/
def finish (s : State) : State := (settle s).wake

/-- A trap of the issuing path at its own PC (R170, R272). -/
def Iss.trap (c : Iss) (s : State) (t : TrapReport) : State := finish (takeTrap s c.inst c.slot c.p.pc t)

/-- An instruction's meaning: its checks, and then its effect with the active lanes known. -/
def issueWith (pre : Iss → Pre) (gidx : BitVec 3) (gsense : BitVec 2) (eff : Iss → State → State) (s : State) :
    Host.Outcome State Fault Refusal :=
  match s.issuing with
  | none => .fault .noIssuingPath
  | some c => .next (match pre c with
    | .trap code info => c.trap s { code := code, info := info }
    | .wait => stall s
    | .go => eff { c with act := c.guarded gidx gsense } s)

def issueA (op : Nat) (f : AForm) (eff : Iss → State → State) (s : State) : Host.Outcome State Fault Refusal :=
  issueWith (preA op f) f.gidx f.gsense eff s

def issueB (op : Nat) (f : BForm) (eff : Iss → State → State) (s : State) : Host.Outcome State Fault Refusal :=
  issueWith (preB op f) f.gidx f.gsense eff s

def issueM (op : Nat) (f : MForm) (eff : Iss → State → State) (s : State) : Host.Outcome State Fault Refusal :=
  issueWith (preM op f) f.gidx f.gsense eff s

/-! ### Allocation (R175 to R177) -/

/-- Physical registers a hatch holds. -/
def Hatch.held (h : Hatch) : Nat :=
  h.v.foldl (fun a r => a + (if !r.mapped then 0 else if r.tag == 0 then 1 else 2)) 0

/-- The partition's pool: what is neither reserved nor allocated (R177). -/
def poolFreeRegs (s : State) (core part : Nat) : Nat :=
  256 - (s.hatches.filter (fun x => x.core == core && x.partition == part)).foldl
    (fun a x => a + max x.held (recOf s x).floor) 0

inductive Alloc where
  | ok | peak | dry
  deriving DecidableEq, Repr

/-- Whether an older hatch of the partition is stalled on allocation: freed registers are its first (R177; entry 67). -/
def olderDry (s : State) (h : Hatch) : Bool :=
  s.dry.any (fun r => (s.hatch? r.hatch).elim false (fun x =>
    x.inst != h.inst && x.core == h.core && x.partition == h.partition && decide (x.age < h.age)))

/-- Whether a hatch may become `h2` in its registers: its peak, and its partition's pool. -/
def allocTest (s : State) (c : Iss) (h2 : Hatch) : Alloc :=
  if h2.held ≤ c.h.held then .ok
  else if c.rcd.peak < h2.held then .peak
  else
    let need := max h2.held c.rcd.floor - max c.h.held c.rcd.floor
    if need == 0 || (decide (need ≤ poolFreeRegs s c.h.core c.h.partition) && !olderDry s c.h) then .ok else .dry

/-- Unmaps one register; a tagged pair goes whole (R248). -/
def Hatch.unmap (h : Hatch) (r : Nat) : Hatch :=
  let t := (h.vreg r).tag
  let h := { h with v := h.v.set r VReg.unmapped }
  if t == 2 then { h with v := h.v.set (r + 1) VReg.unmapped }
  else if t == 3 then { h with v := h.v.set (r - 1) VReg.unmapped } else h

/-- The vector registers of the destinations. -/
def dstRegs (ds : List (BitVec 8 × Nat)) : List Nat :=
  ds.flatMap (fun d => match specKind d.1 with
    | .v r => regRange r d.2
    | _ => [])

/-- Last-use frees (R176, R285). -/
def Hatch.freeLast (h : Hatch) (sh : Shape) : Hatch :=
  let keep := dstRegs sh.dsts
  sh.srcs.foldl (fun h u =>
    if !u.last then h
    else match specKind u.spec with
      | .v r => (regRange r u.width).foldl (fun h i => if keep.contains i then h else h.unmap i) h
      | _ => h) h

/-! ### Register writes -/

/-- One result of an instruction, by physical lane. -/
inductive Write where
  | reg (x : BitVec 8) (w : Nat) (val : Nat → Nat)
  | ivl (x : BitVec 8) (w : Nat) (val : Nat → Ivl)
  | pred (r : Nat) (val : Nat → Tri)
  /-- An interval written in some of the lanes only (R357). -/
  | ivlIn (x : BitVec 8) (w : Nat) (keep : LaneSet) (val : Nat → Ivl)
  /-- A vector register written in lanes of its own, whatever lanes are active (R351, R366). -/
  | regAt (r : Nat) (m : LaneSet) (val : Nat → Nat)

/-- Lane values with those of a set replaced. -/
def setLanes (old : Lanes) (m : LaneSet) (f : Nat → Word) : Lanes :=
  (List.range 96).map (fun l => if m.getLsbD l then f l else old.getD l 0)

/-- A plain write to a vector register (R175). -/
def Hatch.writeV (h : Hatch) (r : Nat) (m : LaneSet) (f : Nat → Word) : Hatch :=
  { h with v := h.v.set r ⟨true, 0, setLanes (h.vreg r).lo m f, []⟩ }

/-- An interval write (R175, R247). -/
def Hatch.writeIvl (h : Hatch) (r tag : Nat) (m : LaneSet) (lo hi : Nat → Word) : Hatch :=
  let old := h.vreg r
  { h with v := h.v.set r ⟨true, tag, setLanes old.lo m lo, setLanes old.hi m hi⟩ }

/-- Word k of a number. -/
def wordOf (v k : Nat) : Word := BitVec.ofNat 32 (v / 2 ^ (32 * k))

/-- A scalar write, to both sides (R195): s0 to s2 go to the path's mask, ANDed with its domain (R166); s3 is never a destination. -/
def writeScalar (hp : Hatch × Path) (r : Nat) (v sv : Word) : Hatch × Path :=
  let (h, p) := hp
  if r < 3 then
    let field := fun (v : Word) => (BitVec.ofNat 96 v.toNat) <<< (32 * r)
    let hole := (BitVec.ofNat 96 0xFFFFFFFF) <<< (32 * r)
    let put := fun (m : LaneSet) (v : Word) => (m &&& ~~~hole ||| field v) &&& p.domain
    (h, { p with mask := put p.mask v, maskDiff := put p.mask v ^^^ put (p.mask ^^^ p.maskDiff) sv })
  else if r == 3 then (h, p)
  else ({ h with s := h.s.set r v, shadow := h.shadow.set r sv }, p)

/-- Writes the low half of 96 predicate codes by lane (R251). -/
def Hatch.writeP (h : Hatch) (r : Nat) (m : LaneSet) (f : Nat → Tri) : Hatch :=
  { h with p := h.p.set r ((List.range 96).map (fun l => if m.getLsbD l then f l else (h.p.getD r []).getD l .f)) }

/-- Applies one result on the physical lanes of a set; a scalar takes the value of lane 0, and its shadow that of lane 1
in protected mode. -/
def applyWrite (prot : Bool) (m : LaneSet) (hp : Hatch × Path) : Write → Hatch × Path
  | .reg x w val => match specKind x with
    | .v r => ((List.range w).foldl (fun h k => h.writeV (r + k) m (fun l => wordOf (val l) k)) hp.1, hp.2)
    | .s r => (List.range w).foldl (fun hp k =>
        writeScalar hp (r + k) (wordOf (val 0) k) (wordOf (val (natOfBool prot)) k)) hp
    | _ => hp
  | .ivl x w val => match specKind x with
    | .v r => ((List.range w).foldl (fun h k => h.writeIvl (r + k) (if w == 1 then 1 else 2 + k) m
        (fun l => wordOf (val l).lo k) (fun l => wordOf (val l).hi k)) hp.1, hp.2)
    | _ => hp
  | .pred r val => (hp.1.writeP r m val, hp.2)
  | .ivlIn x w keep val => match specKind x with
    | .v r => ((List.range w).foldl (fun h k => h.writeIvl (r + k) (if w == 1 then 1 else 2 + k) (m &&& keep)
        (fun l => wordOf (val l).lo k) (fun l => wordOf (val l).hi k)) hp.1, hp.2)
    | _ => hp
  | .regAt r m' val => (hp.1.writeV r m' (fun l => wordOf (val l) 0), hp.2)

/-- Whether an instruction is all-scalar (R286): no source is a vector, the lane index or a predicate, and its
destinations are scalars or NULL. -/
def Shape.allScalar (sh : Shape) : Bool :=
  sh.srcs.all (fun u => !(isVec u.spec || specIs u.spec .lane || isPred u.spec)) &&
  sh.dsts.all (fun d => isScal d.1 || specIs d.1 .null)

/-- The physical lanes an instruction runs in: the active ones; for an all-scalar instruction lane 0 (and its shadow),
unless a guard leaves none active (R249, R286). -/
def Iss.execMask (c : Iss) (scalar guarded : Bool) : LaneSet :=
  if scalar then (if guarded && c.act == 0 then 0 else if c.prot then 3 else 1) else physMask c.prot c.act

/-- Marks the registers of destinations empty or full. -/
def Hatch.markEmpty (h : Hatch) (ds : List (BitVec 8 × Nat)) (on : Bool) : Hatch :=
  ds.foldl (fun h d => match specKind d.1 with
    | .v r =>
      let m := (regRange r d.2).foldl (fun m i => m ||| BitVec.ofNat 64 (2 ^ i)) 0#64
      { h with emptyV := if on then h.emptyV ||| m else h.emptyV &&& ~~~m }
    | .s r =>
      let m := (regRange r d.2).foldl (fun m i => m ||| BitVec.ofNat 128 (2 ^ i)) 0#128
      { h with emptyS := if on then h.emptyS ||| m else h.emptyS &&& ~~~m }
    | .p r =>
      let m := BitVec.ofNat 8 (2 ^ r)
      { h with emptyP := if on then h.emptyP ||| m else h.emptyP &&& ~~~m }
    | _ => h) h

/-- Marks destinations whose values are written as empty until the instruction's latency is over (R158, R179). -/
def Hatch.markLate (h : Hatch) (ds : List (BitVec 8 × Nat)) : Hatch :=
  let e := h.markEmpty ds true
  let d := ({ h with emptyV := 0, emptyS := 0, emptyP := 0 } : Hatch).markEmpty ds true
  { e with lateV := h.lateV ||| d.emptyV, lateS := h.lateS ||| d.emptyS, lateP := h.lateP ||| d.emptyP }

/-- What the instructions of a hatch wrote whose latency is over at a clock is full; the rest stays as it is (R158). -/
def Hatch.endLate (ts : List Taken) (clock : Nat) (h : Hatch) : Hatch :=
  let due := ts.filter (fun t => t.hatch == h.inst && decide (clock < t.due))
  let v := h.lateV &&& ~~~due.foldl (fun m (t : Taken) => m ||| t.v) 0#64
  let s := h.lateS &&& ~~~due.foldl (fun m (t : Taken) => m ||| t.s) 0#128
  let p := h.lateP &&& ~~~due.foldl (fun m (t : Taken) => m ||| t.p) 0#8
  { h with
    emptyV := h.emptyV &&& ~~~v, emptyS := h.emptyS &&& ~~~s, emptyP := h.emptyP &&& ~~~p
    lateV := h.lateV &&& ~~~v, lateS := h.lateS &&& ~~~s, lateP := h.lateP &&& ~~~p }

/-- Puts back a hatch and its issuing path. -/
def putIssue (s : State) (c : Iss) (hp : Hatch × Path) : State :=
  s.updHatch c.inst (fun _ => hp.1.setPath c.slot (some hp.2))

/-- Whether an instruction is a launch, whose id may be written after later instructions have issued (R416). -/
def isLaunchInsn : Instr → Bool
  | .launchInsn _ => true
  | _ => false

/-- The scalar registers that an instruction writes keep its values: a launch that issued before does not write them (R159). -/
def keepNewer (s : State) (inst : Nat) (ds : List (BitVec 8 × Nat)) : State :=
  if s.ops.any (fun o => o.hatch == inst && isLaunchInsn o.what) then
    let rs := ds.flatMap (fun d => match specKind d.1 with
      | .s r => regRange r d.2
      | _ => [])
    { s with ops := updWhere (fun o => o.hatch == inst && isLaunchInsn o.what) (fun o => { o with vecs := o.vecs ++ [rs] }) s.ops }
  else s

/-- An instruction that writes registers completes: last-use frees, allocation, results, flags, and on to the next
instruction. With no lane it has no effect (R249). -/
def complete (s : State) (c : Iss) (sh : Shape) (m : LaneSet) (ws : List Write) (fl : FpFlags) (len : Nat) : State :=
  if m == 0 then finish (retire s c.inst c.slot c.p.pc len)
  else
    let hp := ws.foldl (applyWrite c.prot m) (c.h.freeLast sh, c.p)
    match allocTest s c hp.1 with
    | .peak => c.trap s { code := tcIllegalOperand, info := 0x100 }
    | .dry => stallDry s
    | .ok =>
      let h := { hp.1 with fpflags := hp.1.fpflags ||| fl }
      let h := if sh.marks && !sh.allScalar then h.markLate sh.dsts else h
      finish (retire (putIssue (keepNewer s c.inst sh.dsts) c (h, hp.2)) c.inst c.slot c.p.pc len)

/-- An A-format instruction that computes its results lane by lane; `far` says whether the lanes that it reads make it mark its
destination empty (R354). -/
def aluExecFar (op : Nat) (f : AForm) (far : Iss → LaneSet → Bool) (ws : Iss → List Write) (fl : Iss → Nat → FpFlags) (s : State) :
    Host.Outcome State Fault Refusal :=
  issueA op f (fun c s =>
    let sh := aShape op (aRule c.fieldCtx op f) f
    let m := c.execMask sh.allScalar (f.gsense != 0)
    complete s c { sh with marks := sh.marks || far c m } m (ws c) ((lanesOf m).foldl (fun a l => a ||| fl c l) 0) f.len) s

def aluExec (op : Nat) (f : AForm) (ws : Iss → List Write) (fl : Iss → Nat → FpFlags) (s : State) :
    Host.Outcome State Fault Refusal := aluExecFar op f (fun _ _ => false) ws fl s

end Sys2Proof.Machine
end

