-- ==== Sys2Proof/Machine/Flags.lean ====
section
/-! DEFINITION. What a floating-point instruction computes beside its result: the rounding mode it names, the flush mode of
its launch and the sticky flags that its elements raise (10 R231, R233, R234). -/

namespace Sys2Proof

/-- The rounding mode that an A-format instruction names. -/
def AForm.mode (f : AForm) : Machine.Rm := Machine.Rm.ofCode f.rm

end Sys2Proof

namespace Sys2Proof.Machine

/-- The flags raised over a set of lanes. -/
def laneFlags (m : LaneSet) (f : Nat → FpFlags) : FpFlags := (lanesOf m).foldl (fun a l => a ||| f l) 0

/-- The ftz flag of the issuing hatch's launch (R233). -/
def Iss.ftz (c : Iss) : Bool := c.rcd.ftz

/-- Each element gives a code and flags: n elements of w bits in one value, and the flags together. -/
def packFlags (n w : Nat) (g : Nat → Nat × FpFlags) : Nat × FpFlags :=
  (List.range n).foldl (fun a j => (a.1 + (g j).1 % 2 ^ w * 2 ^ (w * j), a.2 ||| (g j).2)) (0, flNone)

end Sys2Proof.Machine
end

