-- ==== Sys2Proof/Machine/Special.lean ====
section
/-! DEFINITION. The special functions of 15 R347, R348: exact results are exact, every other result is a code within
2 ulp (drsq: 1 ulp) of the exact value, chosen by the free function Config.ulpChoice (entry 9). The exact value is
brought to 512 fractional bits in integers. -/

namespace Sys2Proof.Machine

/-- Fractional bits of the fixed-point values below. -/
def fxP : Nat := 512
def fxOne : Int := (2 ^ fxP : Nat)

/-- Fixed-point product, truncated toward −∞. -/
def fxMul (a b : Int) : Int := (a * b) / fxOne
def fxDiv (a b : Int) : Int := (a * fxOne) / b

/-- Σ t·r/(k·…): the Taylor sum of e^r from the term of index k. -/
def fxExpLoop : Nat → Int → Int → Int → Int → Int
  | 0, _, _, _, acc => acc
  | n + 1, r, k, t, acc => let t' := fxMul t r / k; fxExpLoop n r (k + 1) t' (acc + t')

/-- e^r for |r| at most 1. -/
def fxExpSmall (r : Int) : Int := fxExpLoop 120 r 1 fxOne fxOne

/-- Σ z^(2k+1)/(2k+1): the series of atanh z (alternating: of atan z). -/
def fxAtanLoop : Nat → Int → Int → Int → Bool → Int → Int
  | 0, _, _, _, _, acc => acc
  | n + 1, zz, k, t, alt, acc =>
    fxAtanLoop n zz (k + 2) (if alt then -(fxMul t zz) else fxMul t zz) alt (acc + t / k)

def fxAtanh (z : Int) : Int := fxAtanLoop 180 (fxMul z z) 1 z false 0
def fxAtanInv (n : Int) : Int := let z := fxOne / n; fxAtanLoop 120 (fxMul z z) 1 z true 0

/-- ln 2 = 2 atanh(1/3). -/
def fxLn2 : Int := 2 * fxAtanh (fxOne / 3)
/-- π by Machin's formula. -/
def fxPi : Int := 4 * (4 * fxAtanInv 5 - fxAtanInv 239)

/-- The dyadic m · 2^e in fixed point. -/
def fxOfDyadic (neg : Bool) (m : Nat) (e : Int) : Int :=
  let s := e + (fxP : Int)
  let x := if 0 ≤ s then m * 2 ^ s.toNat else m / 2 ^ (-s).toNat
  signedMag neg x

/-- An exact value near v · 2^sh as a magnitude, with a sticky last bit. -/
structure Approx where
  neg : Bool
  mag : Nat
  ex : Int
  deriving DecidableEq, Repr

def fxApprox (v : Int) (sh : Int) : Approx := ⟨decide (v < 0), 2 * v.natAbs + 1, sh - (fxP : Int) - 1⟩

/-- e^x · 1 for a fixed-point x of moderate size: 2^n · e^r with |r| ≤ ln 2. -/
def fxExp (x : Int) : Int × Int :=
  let n := x / fxLn2
  (fxExpSmall (x - n * fxLn2), n)

/-- ln of m · 2^e, m > 0. -/
def fxLog (m : Nat) (e : Int) : Int :=
  let k := e + (bitLen m : Int) - 1
  let y := fxOfDyadic false m (e - k)
  k * fxLn2 + 2 * fxAtanh (fxDiv (y - fxOne) (y + fxOne))

def fxSinLoop : Nat → Int → Int → Int → Int → Int
  | 0, _, _, _, acc => acc
  | n + 1, rr, k, t, acc => let t' := -(fxMul t rr) / (k * (k + 1)); fxSinLoop n rr (k + 2) t' (acc + t')

/-- Guard bits kept beyond the fixed point while a large argument is reduced modulo π/2. -/
def fxGuard : Nat := 160

/-- sin (shift = 0) or cos (shift = 1) of m · 2^e: the argument is reduced modulo π/2 on the exact dyadic. -/
def fxSinCos (shift : Nat) (neg : Bool) (m : Nat) (e : Int) : Int :=
  let x := fxOfDyadic neg m e
  let half := fxPi / 2
  let q := (2 * x + half) / (2 * half)
  let r := x - q * half
  let k := ((q + (shift : Int)) % 4).toNat
  let rr := fxMul r r
  let sin := fxSinLoop 80 rr 2 r r
  let cos := fxSinLoop 80 rr 1 fxOne fxOne
  if k == 0 then sin else if k == 1 then cos else if k == 2 then -sin else -cos

/-- The largest code whose value does not exceed the magnitude, not bounded by the format's range. -/
def truncCode (f : Fmt) (mag : Nat) (ex : Int) : Nat :=
  let top := ex + (bitLen mag : Int) - 1
  let q := max (top - (f.m : Int)) f.qmin
  (q - f.qmin).toNat * 2 ^ f.m + (roundAt .rtz false mag ex q).1

/-- An inexact special result: a code within `ulps` of the exact value, the choice free (R232, R347). -/
def specialFinish (f : Fmt) (rm : Rm) (ftz : Bool) (ulps : Nat) (pick : Nat) (v : Approx) : Nat × FpFlags :=
  let c0 := truncCode f v.mag v.ex
  if f.maxCode < c0 then (withSign f v.neg (overflowCode f .arith rm v.neg), flOfl ||| flInx)
  else
    let cand :=
      if ulps == 1 then c0 + pick % 2
      else if (c0 + 1) % 2 ^ f.m == 0 then c0 + pick % 3 - 1
      else c0 + pick % 4 - 1
    if f.maxCode < cand then (withSign f v.neg (overflowCode f .arith rm v.neg), flOfl ||| flInx)
    else if cand < 2 ^ f.m then
      (withSign f v.neg (if ftz then 0 else cand), flInx ||| flUfl)
    else (withSign f v.neg cand, flInx)

/-- The special functions by name. -/
inductive SpecialFn where
  | rcp | rsq | ex2 | lg2 | exp | log | sin | cos | tanh | sig
  deriving DecidableEq, Repr

/-- The result at an infinity or a zero (R348): none where the row names a function value. -/
def specialEdge (f : Fmt) (fn : SpecialFn) (v : FVal) : Option (Nat × FpFlags) :=
  let inf := f.infCode
  let ninf := withSign f true f.infCode
  let one := f.bias * 2 ^ f.m
  let half := (f.bias - 1) * 2 ^ f.m
  let nanI := (f.nanCode, flInv)
  match v with
  | .nan s => some (f.nanCode, flIf s flInv)
  | .inf n =>
    match fn with
    | .rcp => some (withSign f n 0, flNone)
    | .rsq => some (if n then nanI else (0, flNone))
    | .ex2 => some (if n then (0, flNone) else (inf, flNone))
    | .exp => some (if n then (0, flNone) else (inf, flNone))
    | .lg2 => some (if n then nanI else (inf, flNone))
    | .log => some (if n then nanI else (inf, flNone))
    | .sin => some nanI
    | .cos => some nanI
    | .tanh => some (withSign f n one, flNone)
    | .sig => some (if n then (0, flNone) else (one, flNone))
  | .fin n m _ =>
    if m == 0 then
      match fn with
      | .rcp => some (if n then ninf else inf, flDz)
      | .rsq => some (if n then ninf else inf, flDz)
      | .ex2 => some (one, flNone)
      | .exp => some (one, flNone)
      | .lg2 => some (ninf, flDz)
      | .log => some (ninf, flDz)
      | .sin => some (withSign f n 0, flNone)
      | .cos => some (one, flNone)
      | .tanh => some (withSign f n 0, flNone)
      | .sig => some (half, flNone)
    else if n && (fn == .rsq || fn == .lg2 || fn == .log) then some nanI else none

/-- m · 2^e as a power of two, when it is one. -/
def pow2Exp (m : Nat) (e : Int) : Option Int :=
  if m == 2 ^ (bitLen m - 1) then some (e + (bitLen m : Int) - 1) else none

/-- The exact value of a special function where it is a dyadic number (R347), as sign, magnitude and exponent. -/
def specialExact (fn : SpecialFn) (neg : Bool) (m : Nat) (e : Int) : Option (Bool × Nat × Int) :=
  match fn with
  | .rcp => (pow2Exp m e).map (fun k => (neg, 1, -k))
  | .rsq => (pow2Exp m e).bind (fun k => if k % 2 == 0 then some (false, 1, -(k / 2)) else none)
  | .ex2 =>
    if 0 ≤ e then
      if e ≤ 16 then some (false, 1, signedMag neg (m * 2 ^ e.toNat)) else none
    else if m % 2 ^ (-e).toNat == 0 then some (false, 1, signedMag neg (m / 2 ^ (-e).toNat)) else none
  | .lg2 => (pow2Exp m e).map (fun k => (decide (k < 0), k.natAbs, 0))
  | .log => if pow2Exp m e == some 0 then some (false, 0, 0) else none
  | _ => none

/-- A value past every overflow or underflow bound: 2^k for k = ±2^20. -/
def hugeApprox : Approx := ⟨false, 1, 1048576⟩
def tinyApprox : Approx := ⟨false, 1, -1048576⟩

/-- The exact value, approximated, of a special function at a finite nonzero value with no exact result. -/
def specialApprox (fn : SpecialFn) (neg : Bool) (m : Nat) (e : Int) : Approx :=
  let big := decide (12 < e + (bitLen m : Int))
  match fn with
  | .rcp => let k := bitLen m + 128; ⟨neg, 2 * (2 ^ k / m) + 1, -e - (k : Int) - 1⟩
  | .rsq =>
    let m' := if e % 2 == 1 then 2 * m else m
    let e' := if e % 2 == 1 then e - 1 else e
    let k := bitLen m' + 128
    ⟨false, 2 * isqrt (2 ^ (2 * k) / m') + 1, -(e' / 2) - (k : Int) - 1⟩
  | .ex2 =>
    if big then (if neg then tinyApprox else hugeApprox)
    else
      let x := fxOfDyadic neg m e
      let n := x / fxOne
      fxApprox (fxExpSmall (fxMul (x - n * fxOne) fxLn2)) n
  | .exp =>
    if big then (if neg then tinyApprox else hugeApprox)
    else let (v, n) := fxExp (fxOfDyadic neg m e); fxApprox v n
  | .lg2 => fxApprox (fxDiv (fxLog m e) fxLn2) 0
  | .log => fxApprox (fxLog m e) 0
  | .sin => fxApprox (fxSinCos 0 neg m e) 0
  | .cos => fxApprox (fxSinCos 1 neg m e) 0
  | .tanh =>
    let x := if 7 < e + (bitLen m : Int) then 64 * fxOne else fxOfDyadic false m e
    let (v, n) := fxExp (2 * x)
    let w := v * (2 ^ n.toNat : Nat)
    let a := fxApprox (fxDiv (w - fxOne) (w + fxOne)) 0
    { a with neg := neg }
  | .sig =>
    let x := if 8 < e + (bitLen m : Int) then (if neg then -256 * fxOne else 128 * fxOne) else fxOfDyadic neg m e
    let (v, n) := fxExp (-x)
    let w := if 0 ≤ n then v * (2 ^ n.toNat : Nat) else v / (2 ^ (-n).toNat : Nat)
    fxApprox (fxDiv fxOne (fxOne + w)) 0

/-- A special function of one element (R347, R348). -/
def fSpecial (f : Fmt) (fn : SpecialFn) (opc : Nat) (rm : Rm) (rmCode : Nat) (ftz : Bool) (a : Nat) :
    Nat × FpFlags :=
  let v := f.read ftz a
  match specialEdge f fn v with
  | some r => r
  | none =>
    match v with
    | .fin n m e =>
      match specialExact fn n m e with
      | some (n', m', e') => roundTo f rm .arith ftz n' m' e'
      | none =>
        let pick := Config.ulpChoice opc (64 * f.e + f.m) (f.flush ftz a) rmCode
        specialFinish f rm ftz 2 pick (specialApprox fn n m e)
    | _ => (f.nanCode, flNone)

/-- drcp (R347): correctly rounded. -/
def fDrcp (rm : Rm) (a : Nat) : Nat × FpFlags := fDiv fmtF64 rm false 0x3FF0000000000000 a

/-- drsq (R347): within 1 ulp. -/
def fDrsq (rm : Rm) (rmCode : Nat) (a : Nat) : Nat × FpFlags :=
  let v := fmtF64.val a
  match specialEdge fmtF64 .rsq v with
  | some r => r
  | none =>
    match v with
    | .fin n m e =>
      match specialExact .rsq n m e with
      | some (n', m', e') => roundTo fmtF64 rm .arith false n' m' e'
      | none =>
        let pick := Config.ulpChoice 0x7F (64 * fmtF64.e + fmtF64.m) a rmCode
        specialFinish fmtF64 rm false 1 pick (specialApprox .rsq n m e)
    | _ => (fmtF64.nanCode, flNone)

end Sys2Proof.Machine
end

