-- ==== Sys2Proof/Machine/FloatInst.lean ====
section
/-! DEFINITION. Floating-point instructions, opcodes 0x53 to 0x7F (15). -/

namespace Sys2Proof.Machine

/-! ### Elements (R339) -/

/-- The format, and the elements, of a float type. -/
def fmtOf (t : Nat) : Fmt := if t == 8 then fmtF16 else if t == 9 then fmtBf16 else if t == 0xA then fmtF64 else fmtF32
def fCount (t : Nat) : Nat := if t == 8 || t == 9 then 2 else 1
def fWidth (t : Nat) : Nat := if t == 8 || t == 9 then 16 else if t == 0xA then 64 else 32

/-- The immediate in a float slot: the high half of an f64 value. -/
def immF (t imm : Nat) : Nat := if t == 0xA then imm * 2 ^ 32 else imm

def floatA (c : Iss) (f : AForm) (l : Nat) : Nat := c.srcA f (tyRegs f.tyN) l
def floatB (c : Iss) (f : AForm) (l : Nat) : Nat := c.srcB f (tyRegs f.tyN) (immF f.tyN f.imm) l
def floatC (c : Iss) (f : AForm) (l : Nat) : Nat := c.srcC f (tyRegs f.tyN) l

/-- What an element operation is given beside its operands: format, mode and flush flag. -/
abbrev ElemFn := Fmt → Rm → Bool → Nat → Nat → Nat → Nat × FpFlags

/-- Every element of a lane through an operation. -/
def floatLane (g : ElemFn) (f : AForm) (c : Iss) (l : Nat) : Nat × FpFlags :=
  let t := f.tyN
  let w := fWidth t
  packFlags (fCount t) w (fun j => g (fmtOf t) f.mode c.ftz (elemAt w (floatA c f l) j) (elemAt w (floatB c f l) j)
    (elemAt w (floatC c f l) j))
where elemAt (w v j : Nat) : Nat := v / 2 ^ (w * j) % 2 ^ w

/-- An instruction whose result and flags come lane by lane, written to w registers. -/
def laneExec (op w : Nat) (f : AForm) (val : Iss → Nat → Nat × FpFlags) (s : State) : Host.Outcome State Fault Refusal :=
  aluExec op f (fun c => [.reg f.dst w (fun l => (val c l).1)]) (fun c l => (val c l).2) s

def floatExec (op : Nat) (f : AForm) (g : ElemFn) (s : State) : Host.Outcome State Fault Refusal :=
  laneExec op (tyRegs f.tyN) f (floatLane g f) s

/-! ### Arithmetic (R340) -/

def execFadd (f : AForm) (s : State) := floatExec 0x53 f (fun ft rm z a b _ => fAdd ft rm z a b) s
def execFsub (f : AForm) (s : State) := floatExec 0x54 f (fun ft rm z a b _ => fSub ft rm z a b) s
def execFmul (f : AForm) (s : State) := floatExec 0x55 f (fun ft rm z a b _ => fMul ft rm z a b) s
def execFfma (f : AForm) (s : State) := floatExec 0x56 f (fun ft rm z a b c => fFma ft rm z a b c) s
def execDadd (f : AForm) (s : State) := floatExec 0x76 f (fun ft rm _ a b _ => fAdd ft rm false a b) s
def execDmul (f : AForm) (s : State) := floatExec 0x77 f (fun ft rm _ a b _ => fMul ft rm false a b) s
def execDfma (f : AForm) (s : State) := floatExec 0x78 f (fun ft rm _ a b c => fFma ft rm false a b c) s

/-! ### Least and greatest (R341) -/

def execFmin (f : AForm) (s : State) := floatExec 0x57 f (fun ft _ z a b _ => fMinMax ft false z [a, b]) s
def execFmax (f : AForm) (s : State) := floatExec 0x58 f (fun ft _ z a b _ => fMinMax ft true z [a, b]) s
def execFmin3 (f : AForm) (s : State) := floatExec 0x59 f (fun ft _ z a b c => fMinMax ft false z [a, b, c]) s
def execFmax3 (f : AForm) (s : State) := floatExec 0x5A f (fun ft _ z a b c => fMinMax ft true z [a, b, c]) s
def execDmin (f : AForm) (s : State) := floatExec 0x79 f (fun ft _ _ a b _ => fMinMax ft false false [a, b]) s
def execDmax (f : AForm) (s : State) := floatExec 0x7A f (fun ft _ _ a b _ => fMinMax ft true false [a, b]) s

/-! ### Signs (R342) -/

/-- A code with its sign bit replaced. -/
def setSign (ft : Fmt) (a : Nat) (neg : Bool) : Nat := withSign ft neg (a % ft.signBit)
def signOf (ft : Fmt) (a : Nat) : Bool := a / ft.signBit % 2 == 1

def execFneg (f : AForm) (s : State) := floatExec 0x5B f (fun ft _ _ a _ _ => (setSign ft a (!signOf ft a), flNone)) s
def execFabs (f : AForm) (s : State) := floatExec 0x5C f (fun ft _ _ a _ _ => (setSign ft a false, flNone)) s
def execFcpsgn (f : AForm) (s : State) := floatExec 0x5D f (fun ft _ _ a b _ => (setSign ft a (signOf ft b), flNone)) s

/-! ### Compare and classify (R343, R344) -/

/-- A comparison of the type's values; f64 is never flushed. -/
def cmpExec (op : Nat) (f : AForm) (s : State) : Host.Outcome State Fault Refusal :=
  let g := fun (c : Iss) (l : Nat) => fCmp (fmtOf f.tyN) (c.ftz && f.tyN != 0xA) f.sub (floatA c f l) (floatB c f l)
  aluExec op f (fun c => [.pred (predReg f.dst) (fun l => (g c l).1)]) (fun c l => (g c l).2) s

def execFcmp (f : AForm) (s : State) := cmpExec 0x5E f s
def execDcmp (f : AForm) (s : State) := cmpExec 0x7B f s

/-- `fclass`: the bit of B that A's class selects. -/
def execFclass (f : AForm) (s : State) :=
  aluExec 0x5F f (fun c => [.pred (predReg f.dst) (fun l =>
    Tri.ofBool (bitAt (c.srcB f 1 f.imm l) (fClass (fmtOf f.tyN) (floatA c f l))))]) (fun _ _ => 0) s

/-! ### Rounding, scaling, exponents (R345, R346) -/

/-- Under ftz f64 values are not flushed (R337). -/
def flushFor (t : Nat) (z : Bool) : Bool := z && t != 0xA

def execFrnd (f : AForm) (s : State) := floatExec 0x60 f (fun ft rm z a _ _ => fRnd ft rm (flushFor f.tyN z) a) s

/-- `fscale`: B is an i32, or an i16 for each element. -/
def fscaleLane (f : AForm) (c : Iss) (l : Nat) : Nat × FpFlags :=
  let t := f.tyN
  let w := fWidth t
  let b := c.srcB f 1 f.imm l
  packFlags (fCount t) w (fun j => fScale (fmtOf t) f.mode (flushFor t c.ftz) (floatA c f l / 2 ^ (w * j) % 2 ^ w)
    (if fCount t == 2 then sxt 16 (b / 2 ^ (16 * j)) else sxt 32 b))

def execFscale (f : AForm) (s : State) := laneExec 0x61 (tyRegs f.tyN) f (fscaleLane f) s
def execFgetexp (f : AForm) (s : State) := floatExec 0x62 f (fun ft _ z a _ _ => fGetexp ft (flushFor f.tyN z) a) s

/-! ### Division, square root, special functions (R347, R348) -/

def execFdiv (f : AForm) (s : State) := floatExec 0x63 f (fun ft rm z a b _ => fDiv ft rm z a b) s
def execFsqrt (f : AForm) (s : State) := floatExec 0x64 f (fun ft rm z a _ _ => fSqrt ft rm z a) s
def execDdiv (f : AForm) (s : State) := floatExec 0x7C f (fun ft rm _ a b _ => fDiv ft rm false a b) s
def execDsqrt (f : AForm) (s : State) := floatExec 0x7D f (fun ft rm _ a _ _ => fSqrt ft rm false a) s
def execDrcp (f : AForm) (s : State) := floatExec 0x7E f (fun _ rm _ a _ _ => fDrcp rm a) s
def execDrsq (f : AForm) (s : State) := floatExec 0x7F f (fun _ rm _ a _ _ => fDrsq rm f.rm a) s

/-- A special function of every element, by its opcode. -/
def specialExec (op : Nat) (fn : SpecialFn) (f : AForm) (s : State) : Host.Outcome State Fault Refusal :=
  floatExec op f (fun ft rm z a _ _ => fSpecial ft fn op rm f.rm z a) s

def execFrcp (f : AForm) (s : State) := specialExec 0x65 .rcp f s
def execFrsq (f : AForm) (s : State) := specialExec 0x66 .rsq f s
def execFex2 (f : AForm) (s : State) := specialExec 0x67 .ex2 f s
def execFlg2 (f : AForm) (s : State) := specialExec 0x68 .lg2 f s
def execFexp (f : AForm) (s : State) := specialExec 0x69 .exp f s
def execFlog (f : AForm) (s : State) := specialExec 0x6A .log f s
def execFsin (f : AForm) (s : State) := specialExec 0x6B .sin f s
def execFcos (f : AForm) (s : State) := specialExec 0x6C .cos f s
def execFtanh (f : AForm) (s : State) := specialExec 0x6D .tanh f s
def execFsig (f : AForm) (s : State) := specialExec 0x6E .sig f s

/-! ### Conversions (R349, R350) -/

/-- One element of a narrowing row (R235). -/
def narrow (c : Iss) (f : AForm) (src dst a : Nat) : Nat × FpFlags :=
  fNarrow (fmtOf src) (fmtOf dst) f.mode f.nanBit (flushFor src c.ftz) c.ftz true a

/-- `cvt`: source type in AUX, destination in TYPE. -/
def cvtLane (f : AForm) (c : Iss) (l : Nat) : Nat × FpFlags :=
  let st := f.aux.toNat % 16
  let dt := f.tyN
  let a := c.srcA f (tyRegs st) l
  match cvtRow st dt with
  | .pack => packFlags 2 16 (fun j => narrow c f st dt (if j == 0 then a else c.srcB f 1 f.imm l))
  | .select => fWiden (fmtOf st) (fmtOf dt) c.ftz (a / 2 ^ (16 * (f.sub % 2)) % 2 ^ 16)
  | .whole =>
    if cvtWidens st dt then fWiden (fmtOf st) (fmtOf dt) c.ftz a else narrow c f st dt a
  | _ => packFlags 2 16 (fun j => narrow c f st dt (a / 2 ^ (16 * j) % 2 ^ 16))

def execCvt (f : AForm) (s : State) := laneExec 0x6F (tyRegs f.tyN) f (cvtLane f) s

/-- The range of an integer type. -/
def intLo (t : Nat) : Int := if isSigned t then -(2 ^ (tyBits t - 1) : Nat) else 0
where tyBits (t : Nat) : Nat := if isW64 t then 64 else 32

def intHi (t : Nat) : Int :=
  let w := if isW64 t then 64 else 32
  if isSigned t then (2 ^ (w - 1) : Nat) - 1 else (2 ^ w : Nat) - 1

def cvtfiLane (f : AForm) (c : Iss) (l : Nat) : Nat × FpFlags :=
  let st := f.aux.toNat % 16
  let a := c.srcA f (tyRegs st) l
  let e := if fCount st == 2 then a / 2 ^ (16 * (f.sub % 2)) % 2 ^ 16 else a
  let (x, fl) := fToInt (fmtOf st) f.mode (flushFor st c.ftz) (intLo f.tyN) (intHi f.tyN) e
  (wrapN (32 * tyRegs f.tyN) x, fl)

def execCvtfi (f : AForm) (s : State) := laneExec 0x70 (tyRegs f.tyN) f (cvtfiLane f) s

/-- `cvtif`. No integer converts to a subnormal, so ftz does not matter. -/
def cvtifLane (f : AForm) (c : Iss) (l : Nat) : Nat × FpFlags :=
  let st := f.aux.toNat % 16
  let dt := f.tyN
  let rd := fun (v : Nat) => if isSigned st then sxt (32 * tyRegs st) v else (v : Int)
  let a := c.srcA f (tyRegs st) l
  if fCount dt == 2 then packFlags 2 16 (fun j => fOfInt (fmtOf dt) f.mode (rd (if j == 0 then a else c.srcB f 1 f.imm l)))
  else fOfInt (fmtOf dt) f.mode (rd a)

def execCvtif (f : AForm) (s : State) := laneExec 0x71 (tyRegs f.tyN) f (cvtifLane f) s

/-! ### Pack and unpack (R351, R352) -/

/-- Word j of a register as one side's lanes show it; `side` is 0, or 1 for the shadow lanes. -/
def streamWord (c : Iss) (r side j : Nat) : Nat := (c.h.vword r (physLane c.prot side j)).toNat

/-- w bits of a register's lane stream from bit `off`. -/
def streamBits (c : Iss) (r side off w : Nat) : Nat :=
  let k := off / 32
  (streamWord c r side k + 2 ^ 32 * streamWord c r side (k + 1)) / 2 ^ (off % 32) % 2 ^ w

/-- The block scale of visible lane j: over the block's active lanes (R238, R351). -/
def packScale (f : AForm) (c : Iss) (side j : Nat) : Nat :=
  let ls := (List.range 32).filterMap (fun i =>
    let k := j / 32 * 32 + i
    if k < visCount c.prot && c.act.getLsbD k then
      some (fmtF32.flush c.ftz (c.srcA f 1 (physLane c.prot side k))) else none)
  mxScale (f.aux.toNat % 16) ls

/-- The element that `pack` makes of one source word. The elements of a block whose scale is 0xFF are not stated: a free
value (entry 6). -/
def packElem (f : AForm) (c : Iss) (scale x : Nat) : Nat × FpFlags :=
  let k := f.aux.toNat % 16
  if mfIsMx k then
    if scale == 0xFF then
      (Config.ulpChoice 0x72 k x f.rm % 2 ^ mfBits k, flIf (fmtF32.val x).isSnan flInv)
    else mxElem k scale f.mode f.nanBit c.ftz x
  else if k == 12 then
    let v := sxt 32 x
    (if 0 < v then 1 else if v < 0 then 3 else 0, flNone)
  else if mfIsInt k then
    let w := mfBits k
    let v := sxt 32 x
    (wrapN w (if f.satBit then max (-(2 ^ (w - 1) : Nat) : Int) (min ((2 ^ (w - 1) : Nat) - 1) v) else v), flNone)
  else fNarrow fmtF32 (mfFloat k) f.mode f.nanBit c.ftz (c.ftz && mfBits k == 16) (mfBits k == 16) x

/-- The element of visible lane j on one side. -/
def packOf (f : AForm) (c : Iss) (side j : Nat) : Nat × FpFlags :=
  packElem f c (if mfIsMx (f.aux.toNat % 16) then packScale f c side j else 0) (c.srcA f 1 (physLane c.prot side j))

/-- The visible lanes whose elements have bits in stream word i. -/
def packLanes (c : Iss) (b i : Nat) : List Nat :=
  (List.range (visCount c.prot)).filter (fun j => c.act.getLsbD j && decide (b * j < 32 * i + 32) && decide (32 * i < b * j + b))

/-- Stream word i of D after `pack`: the bits of active lanes' elements replaced. -/
def packWord (f : AForm) (c : Iss) (r side i : Nat) : Nat :=
  let b := mfBits (f.aux.toNat % 16)
  let put := fun (old : BitVec 64) (j : Nat) =>
    let at_ := b * j + 32 - 32 * i
    let hole := (BitVec.ofNat 64 (2 ^ b - 1)) <<< at_
    old &&& ~~~hole ||| ((BitVec.ofNat 64 ((packOf f c side j).1 % 2 ^ b)) <<< at_)
  (((packLanes c b i).foldl put ((BitVec.ofNat 64 (streamWord c r side i)) <<< 32)) >>> 32).toNat % 2 ^ 32

/-- The lane of one side that a physical lane belongs to. -/
def sideOf (prot : Bool) (l : Nat) : Nat := if prot then l % 2 else 0

/-- `pack` (R351): the packed stream in D, and the block scales in D + 1 for an mx format. -/
def packWrites (f : AForm) (c : Iss) : List Write :=
  let k := f.aux.toNat % 16
  let r := vecReg f.dst
  let touched := (List.range (visCount c.prot)).filter (fun i => !(packLanes c (mfBits k) i).isEmpty)
  let elems : List Write := if specIs f.dst .null then []
    else [.regAt r (physMask c.prot (laneSet touched)) (fun l => packWord f c r (sideOf c.prot l) (visLane c.prot l))]
  if mfIsMx k && !specIs f.dst .null then
    elems ++ [.regAt (r + 1) (physMask c.prot c.act) (fun l => packScale f c (sideOf c.prot l) (visLane c.prot l))]
  else elems

def execPack (f : AForm) (s : State) :=
  aluExec 0x72 f (packWrites f) (fun c l => (packOf f c (sideOf c.prot l) (visLane c.prot l)).2) s

/-- `unpack` (R352): the value of element l of A's stream. -/
def unpackLane (f : AForm) (c : Iss) (l : Nat) : Nat × FpFlags :=
  let k := f.aux.toNat % 16
  let b := mfBits k
  let code := streamBits c (vecReg f.srca) (sideOf c.prot l) (b * visLane c.prot l) b
  if mfIsInt k then (wrapN 32 (mfInt k code), flIf (mfTern k code) flTern)
  else if mfIsMx k then
    match mfVal k code (c.srcB f 1 0 l % 256) with
    | .nan _ => (fmtF32.nanCode, flNone)
    | v => roundVal fmtF32 .rne c.ftz v
  else match (mfFloat k).read (c.ftz && mfBits k == 16) code with
    | .nan sg => (fmtF32.nanCode, flIf sg flInv)
    | v => ((roundVal fmtF32 .rne false v).1, flNone)

def execUnpack (f : AForm) (s : State) := laneExec 0x73 1 f (unpackLane f) s

/-! ### Dot products (R353) -/

def execFdot2 (f : AForm) (s : State) :=
  let ft := if f.sub % 2 == 1 then fmtBf16 else fmtF16
  let els := fun (z : Bool) (v : Nat) => (List.range 2).map (fun j => ft.read z (v / 2 ^ (16 * j) % 2 ^ 16))
  laneExec 0x74 1 f (fun c l => fDot f.mode c.ftz (els c.ftz (c.srcA f 1 l)) (els c.ftz (c.srcB f 1 f.imm l))
    (fmtF32.read c.ftz (c.srcC f 1 l))) s

def execFdot4 (f : AForm) (s : State) :=
  let ft := fun (e5 : Bool) => if e5 then fmtE5m2 else fmtE4m3
  let els := fun (e5 : Bool) (v : Nat) => (List.range 4).map (fun j => (ft e5).val (v / 2 ^ (8 * j) % 2 ^ 8))
  laneExec 0x75 1 f (fun c l => fDot f.mode c.ftz (els (f.sub % 2 == 1) (c.srcA f 1 l))
    (els (f.sub / 2 % 2 == 1) (c.srcB f 1 f.imm l)) (fmtF32.read c.ftz (c.srcC f 1 l))) s

end Sys2Proof.Machine
end

