-- ==== Sys2Proof/Machine/Interval.lean ====
section
/-! DEFINITION. Interval instructions, opcodes 0x80 to 0x8E (16 R354 to R363); `ibisect` is with the spawns. -/

namespace Sys2Proof.Machine

/-! ### Reading (R356) -/

/-- One bound of a tagged register, w words. -/
def boundCode (c : Iss) (r w : Nat) (hi : Bool) (l : Nat) : Nat :=
  (List.range w).foldl (fun a k => a + (if hi then c.h.vhi (r + k) l else c.h.vword (r + k) l).toNat * 2 ^ (32 * k)) 0

/-- Bounds that are no interval of R241 (a lane that was inactive when its register got its tag): what an operation makes of
them is not stated, so free bounds stand for them (entry 6). -/
def soundBounds (ft : Fmt) (w : Nat) (i : Ivl) : Ivl :=
  if i.valid ft then i
  else ⟨Config.ulpChoice 0x80 w i.lo i.hi % 2 ^ (32 * w), Config.ulpChoice 0x81 w i.lo i.hi % 2 ^ (32 * w)⟩

/-- The bounds of a tagged vector operand, unchanged; none for a point. -/
def taggedAt (c : Iss) (x : BitVec 8) (w : Nat) (m : BitVec 12) (l : Nat) : Option Ivl :=
  match specKind x with
  | .v r =>
    if (c.h.vreg r).tag == 0 then none
    else
      let j := modLane c.prot m l
      some ⟨boundCode c r w false j, boundCode c r w true j⟩
  | _ => none

/-- An interval operand in a lane: a tagged register, or a point. -/
def ivlAt (c : Iss) (f : AForm) (x : BitVec 8) (m : BitVec 12) (isImm : Bool) (l : Nat) : Ivl × FpFlags :=
  let w := tyRegs f.tyN
  if isImm then Ivl.ofPoint (fmtOf f.tyN) (immF f.tyN f.imm)
  else match taggedAt c x w m l with
    | some i => (soundBounds (fmtOf f.tyN) w i, flNone)
    | none => Ivl.ofPoint (fmtOf f.tyN) (c.val x w m 0 l)

def ivlA (c : Iss) (f : AForm) (l : Nat) : Ivl × FpFlags := ivlAt c f f.srca (if f.regForm then f.moda else 0) false l
def ivlB (c : Iss) (f : AForm) (l : Nat) : Ivl × FpFlags := ivlAt c f f.srcb (if f.regForm then f.modb else 0) f.immForm l

/-! ### Results (R357, R359) -/

/-- What an interval operation gives in a lane: none for the empty set. -/
abbrev IvlFn := Iss → Nat → Option (Ivl × FpFlags)

/-- The lanes of a set that are not empty. -/
def fullLanes (m : LaneSet) (g : Nat → Option (Ivl × FpFlags)) : LaneSet := laneSet ((lanesOf m).filter (fun l => (g l).isSome))

/-- An instruction that writes an interval. The plain form traps INTERVAL_EMPTY when a lane is empty; the `.p` form notes
in a predicate which lanes are not. -/
def ivlExec (op : Nat) (f : AForm) (g : IvlFn) (s : State) : Host.Outcome State Fault Refusal :=
  issueA op f (fun c s =>
    let sh := aShape op (aRule c.fieldCtx op f) f
    let m := c.execMask false (f.gsense != 0)
    let good := fullLanes m (g c)
    let pForm := decide (4 ≤ f.sub)
    let bad := laneSet (((lanesOf (m &&& ~~~good))).map (visLane c.prot))
    let val := fun (l : Nat) => ((g c l).map (·.1)).getD ⟨0, 0⟩
    let fl := laneFlags good (fun l => ((g c l).map (·.2)).getD 0)
    if bad != 0 && !pForm then c.trap s { code := tcIntervalEmpty, mask := bad }
    else
      let ws : List Write := .ivlIn f.dst (tyRegs f.tyN) good val ::
        (if pForm then [.pred (f.aux.toNat % 8) (fun l => Tri.ofBool (good.getLsbD l))] else [])
      complete s c sh m ws fl f.len) s

/-- An operation on two interval operands that is never empty. -/
def ivlBin (op : Nat) (f : AForm) (g : Fmt → Ivl → Ivl → Ivl × FpFlags) (s : State) :=
  ivlExec op f (fun c l =>
    let (a, fa) := ivlA c f l
    let (b, fb) := ivlB c f l
    let (r, fr) := g (fmtOf f.tyN) a b
    some (r, fa ||| fb ||| fr)) s

/-- An operation on two interval operands that may be empty. -/
def ivlBinOpt (op : Nat) (f : AForm) (g : Fmt → Ivl → Ivl → Option (Ivl × FpFlags)) (s : State) :=
  ivlExec op f (fun c l =>
    let (a, fa) := ivlA c f l
    let (b, fb) := ivlB c f l
    (g (fmtOf f.tyN) a b).map (fun x => (x.1, fa ||| fb ||| x.2))) s

/-- An operation on one interval operand. -/
def ivlUn (op : Nat) (f : AForm) (g : Fmt → Ivl → Option (Ivl × FpFlags)) (s : State) :=
  ivlExec op f (fun c l =>
    let (a, fa) := ivlA c f l
    (g (fmtOf f.tyN) a).map (fun x => (x.1, fa ||| x.2))) s

def execIset (f : AForm) (s : State) :=
  ivlExec 0x80 f (fun c l =>
    let ft := fmtOf f.tyN
    if f.sub % 2 == 1 then Ivl.setRadius ft (floatA c f l) (floatB c f l) else Ivl.set ft (floatA c f l) (floatB c f l)) s

def execIpt (f : AForm) (s : State) := ivlExec 0x81 f (fun c l => some (Ivl.ofPoint (fmtOf f.tyN) (floatA c f l))) s
def execIadd (f : AForm) (s : State) := ivlBin 0x82 f Ivl.add s
def execIsub (f : AForm) (s : State) := ivlBin 0x83 f Ivl.sub s
def execImul (f : AForm) (s : State) := ivlBin 0x84 f Ivl.mul s
def execIsqr (f : AForm) (s : State) := ivlUn 0x85 f (fun ft a => some (Ivl.sqr ft a)) s
def execIdiv (f : AForm) (s : State) := ivlBinOpt 0x86 f Ivl.div s
def execIsqrt (f : AForm) (s : State) := ivlUn 0x87 f Ivl.sqrt s
def execIhull (f : AForm) (s : State) := ivlBin 0x88 f (fun ft a b => (Ivl.hull ft a b, flNone)) s
def execIisect (f : AForm) (s : State) := ivlBinOpt 0x89 f (fun ft a b => (Ivl.isect ft a b).map (fun i => (i, flNone))) s

/-! ### Plain results (R361), comparison (R362), splitting (R363) -/

/-- `imid` sets no flag, by R361's own words. -/
def execImid (f : AForm) (s : State) :=
  laneExec 0x8A (tyRegs f.tyN) f (fun c l => ((ivlA c f l).1.mid (fmtOf f.tyN), flNone)) s

def execIwid (f : AForm) (s : State) :=
  laneExec 0x8B (tyRegs f.tyN) f (fun c l =>
    let (a, fa) := ivlA c f l
    let (w, fw) := a.width (fmtOf f.tyN)
    (w, fa ||| fw)) s

def iextVal (f : AForm) (c : Iss) (l : Nat) : Nat :=
  let i := (taggedAt c f.srca (tyRegs f.tyN) (if f.regForm then f.moda else 0) l).getD (ivlA c f l).1
  if f.sub % 2 == 1 then i.hi else i.lo

def execIext (f : AForm) (s : State) := laneExec 0x8C (tyRegs f.tyN) f (fun c l => (iextVal f c l, flNone)) s

def execIcmp (f : AForm) (s : State) :=
  aluExec 0x8D f (fun c => [.pred (predReg f.dst) (fun l => Ivl.cmp (fmtOf f.tyN) f.sub (ivlA c f l).1 (ivlB c f l).1)])
    (fun c l => (ivlA c f l).2 ||| (ivlB c f l).2) s

/-- The halves of an interval at its midpoint. -/
def halves (ft : Fmt) (a : Ivl) : Ivl × Ivl := (⟨a.lo, a.mid ft⟩, ⟨a.mid ft, a.hi⟩)

def execIsplit (f : AForm) (s : State) :=
  let w := tyRegs f.tyN
  aluExec 0x8E f (fun c => [.ivl f.dst w (fun l => (halves (fmtOf f.tyN) (ivlA c f l).1).1),
    .ivl f.aux w (fun l => (halves (fmtOf f.tyN) (ivlA c f l).1).2)]) (fun c l => (ivlA c f l).2) s

end Sys2Proof.Machine
end

