-- ==== Sys2Proof/Machine/Drain.lean ====
section
/-! DEFINITION. Operations in flight and their counters (08 R189), and what orders memory: `sdrain` (R192), releases (04 R77,
R79, R90), the acquire of a core and of a fence (R78, R90, 17 R382, R393), the shadow comparison (08 R196). -/

namespace Sys2Proof.Machine

/-! ### Operations and counters (R189) -/

/-- A hatch's counter list of a class: 0 copies, 1 matrix, 2 vector memory, 3 launch and spawn. -/
def Hatch.count (h : Hatch) (cls : Nat) : List Nat :=
  if cls == 0 then h.c0 else if cls == 1 then h.c1 else if cls == 2 then h.c2 else h.c3

def Hatch.setCount (h : Hatch) (cls : Nat) (ids : List Nat) : Hatch :=
  if cls == 0 then { h with c0 := ids } else if cls == 1 then { h with c1 := ids }
  else if cls == 2 then { h with c2 := ids } else { h with c3 := ids }

/-- Whether one more operation of the class would take the counter to 256. -/
def Hatch.countFull (h : Hatch) (cls : Nat) : Bool := decide (255 ≤ (h.count cls).length)

/-- A counter falls while its oldest operation is complete. -/
def popDone (s : State) (inst : Nat) : State :=
  let live := s.ops.map (·.id)
  let trim := fun (ids : List Nat) => ids.dropWhile (fun i => !live.contains i)
  s.updHatch inst (fun h => { h with c0 := trim h.c0, c1 := trim h.c1, c2 := trim h.c2, c3 := trim h.c3 })

/-- Whether an instruction's operation writes memory: what `sdrain` waits for (R192). -/
def opWrites : Instr → Bool
  | .st _ => true
  | .stb _ => true
  | .stu _ => true
  | .stiv _ => true
  | .stz _ => true
  | .dsc _ => true
  | .atom _ => true
  | .atomf _ => true
  | .atomd _ => true
  | .atomflush _ => true
  | .cas _ => true
  | .cas128 _ => true
  | .semv _ => true
  | .mst _ => true
  | .cpy _ => true
  | .cpy2 _ => true
  | .cpyg _ => true
  | .cpyd _ => true
  | .cpyf _ => true
  | .cpyr _ => true
  | .cpymx _ => true
  | _ => false

/-- Whether an instruction's writes are plain stores or copies: those that a replay makes again without a trigger (R135,
R148). -/
def opPlain : Instr → Bool
  | .st _ => true
  | .stb _ => true
  | .stu _ => true
  | .stiv _ => true
  | .stz _ => true
  | .dsc _ => true
  | .mst _ => true
  | .cpy _ => true
  | .cpy2 _ => true
  | .cpyg _ => true
  | .cpyd _ => true
  | .cpyf _ => true
  | .cpyr _ => true
  | .cpymx _ => true
  | _ => false

/-- An operation begins: it counts in its class from now on, and among the stores since the restart point. -/
def addOp (s : State) (cls : Nat) (o : Op) : State :=
  let s := { s with ops := s.ops ++ [o] }
  let n := fun (h : Hatch) => if opPlain o.what && !h.handler then { h with stores := h.stores + 1 } else h
  s.updHatch o.hatch (fun h => (n h).setCount cls (h.count cls ++ [o.id]))

/-- A commit of a store made again by a replay raises nothing (R135). -/
def Op.quiet (o : Op) (before after : State) : State :=
  if o.silent then { after with sched := { after.sched with raised := before.sched.raised } } else after

/-- An operation completes. -/
def endOp (s : State) (o : Op) : State :=
  let s := if (s.core o.core).mqueue.contains o.id then
    s.updCore o.core (fun k => { k with mqueue := k.mqueue.filter (fun i => i != o.id) }) else s
  popDone (s.dropOp o.id) o.hatch

/-- A vector memory instruction that is complete at its issue still takes its turn in the count. -/
def noteDone (s : State) (inst cls : Nat) : State :=
  let (id, s) := s.fresh
  popDone (s.updHatch inst (fun h => h.setCount cls (h.count cls ++ [id]))) inst

/-- The issuing path with its hatch as it stands now. -/
def Iss.refresh (c : Iss) (s : State) : Iss := { c with h := (s.hatch? c.inst).getD c.h }

/-- A blank operation of the issuing path. -/
def newOp (s : State) (c : Iss) (what : Instr) (id : Nat) : Op :=
  { id := id, hatch := c.inst, slot := c.slot, block := c.h.block, core := c.h.core, ctx := ctxOf s c.h, depth := c.h.depth, pc := c.p.pc
    what := what, active := c.act, lanes := [], vals := [], vecs := [], prog := 0, done := false
    silent := opPlain what && !c.h.handler && decide (c.h.stores < c.h.repeats) }

/-- Whether an instruction's operation only reads memory: what an acquire fence waits for (R393), and what must be over
before a release is seen (R205, R206). -/
def opReads : Instr → Bool
  | .ld _ => true
  | .ldb _ => true
  | .ldu _ => true
  | .ldc _ => true
  | .ldiv _ => true
  | .ldt _ => true
  | _ => false

def loadsDone (s : State) (h : Hatch) : Bool := !s.ops.any (fun o => o.hatch == h.inst && opReads o.what)

/-- Whether a hatch has a store-fault record, made or waiting to be made. -/
def hasRecords (s : State) (h : Hatch) : Bool :=
  (s.core h.core).sfrq.any (fun r => r.hatch == h.inst) || (s.core h.core).sfrWait.any (fun r => r.hatch == h.inst)

/-- The condition of `sdrain` (R192, R194). -/
def drained (s : State) (h : Hatch) : Bool :=
  !(s.ops.any (fun o => o.hatch == h.inst && opWrites o.what)) && (h.handler || !hasRecords s h)

/-! ### Releases -/

/-- The zero-length reads that a release waits for (R90): an operation of the hatch for each port written, whose
instruction is `nop` and whose value is the port. -/
def zeroReads (s : State) (h : Hatch) : State :=
  [0, 1].foldl (fun s p =>
    if !h.mt4Ports.getLsbD p || s.ops.any (fun o => o.hatch == h.inst && o.what == .nop .l64 1 && o.vals == [p]) then s
    else
      let (id, s) := s.fresh
      let o : Op :=
        { id := id, hatch := h.inst, slot := 0, block := h.block, core := h.core, ctx := 0, depth := h.depth, pc := 0, what := .nop .l64 1
          active := 0, lanes := [], vals := [p], vecs := [], prog := 0, done := false, silent := false }
      ({ s with ops := s.ops ++ [o] } : State).emit (.pcieRead (if p == 0 then .a else .b) id 0 0)) s

/-- Whether a release may go ahead; what it waits for is asked for in the state. -/
def releaseReady (s : State) (h : Hatch) : State × Bool :=
  if !drained s h || !loadsDone s h then (s, false)
  else if h.mt4Ports != 0 then (zeroReads s h, false)
  else (s, true)

/-- A release with no location at device scope or wider: every earlier store is published (R76, R215, R315). -/
def releaseAll (s : State) (h : Hatch) : State := drainCore s h.core

/-- Runs an effect after a release with no location. The issuing path waits until the release may be made. -/
def afterRelease (c : Iss) (s : State) (k : State → State) : State :=
  match releaseReady s c.h with
  | (s, false) => stall s
  | (s, true) => k (releaseAll s c.h)

/-! ### Acquires -/

/-- What an acquire does in the acquiring core's L1: `ldc` replicas and lines of MT 4 go (R90, R382), and so do privatised
copies, whose other bytes may be older than what is acquired (R75, R206). -/
def acquireCore (s : State) (c : Nat) : State :=
  let s := ((s.core c).l1.filter (fun l => l.kind == .privatised)).foldl (fun s l =>
    (publishRaw s c l.line).updCore c (fun k => k.dropLine l.line)) s
  s.updCore c (fun k => { k with l1 := k.l1.filter (fun l => l.kind != .ldcReplica && l.kind != .mt4) })

/-- Every core of the package drains. -/
def drainAll (s : State) : State := (List.range 256).foldl (fun s c => if (s.core c).l1.isEmpty then s else drainCore s c) s

/-- The acquire part of a fence (R393). For more lines than the core tracks every core of the domain drains. -/
def acquireFence (s : State) (inst : Nat) : State :=
  match s.hatch? inst with
  | none => s
  | some h =>
    let s := if h.readMany then domainAct (drainAll s) .drain
      else h.readLines.foldl acquireLine s
    (acquireCore s h.core).updHatch inst (fun h => { h with readLines := [], readMany := false })

/-- Notes a line that a relaxed load has read (R393). -/
def noteRead (s : State) (inst line : Nat) : State :=
  s.updHatch inst (fun h =>
    if h.readMany || h.readLines.contains line then h
    else if 64 ≤ h.readLines.length then { h with readMany := true }
    else { h with readLines := h.readLines ++ [line] })

/-! ### Protected mode (R195, R196) -/

/-- Whether an operand is the same on both sides in every active lane. -/
def Iss.sameSides (c : Iss) (u : SrcUse) : Bool :=
  match specKind u.spec with
  | .v r => (lanesOf c.act).all (fun j => (regRange r u.width).all (fun i =>
      c.h.vword i (2 * j) == c.h.vword i (2 * j + 1) && c.h.vhi i (2 * j) == c.h.vhi i (2 * j + 1)))
  | .s r => (regRange r u.width).all (fun i => c.sword false i == c.sword true i)
  | .p r => (lanesOf c.act).all (fun j => c.h.pcode r (2 * j) == c.h.pcode r (2 * j + 1))
  | _ => true

/-- The comparison before a store, atomic or engine command. -/
def Iss.shadowOk (c : Iss) (sh : Shape) : Bool := !c.prot || sh.srcs.all c.sameSides

/-- An M128 instruction whose operands are compared first. -/
def issueMS (op : Nat) (f : MForm) (eff : Iss → State → State) (s : State) : Host.Outcome State Fault Refusal :=
  issueM op f (fun c s =>
    if c.shadowOk (mShape op f) then eff c s else finish (killHatch s c.inst tcShadowMismatch c.p.pc)) s

/-! ### Region-ending operations (R149) -/

/-- A region-ending operation has been executed. -/
def markDirty (s : State) (inst : Nat) : State := s.updHatch inst (fun h => { h with clean := false })

end Sys2Proof.Machine
end

