-- ==== Sys2Proof/Machine/Clock.lean ====
section
/-! DEFINITION. The passing of a clock (entry 4): cycle counters (01 R13) and the events that become due with time. -/

namespace Sys2Proof.Machine

/-- Posts an event unless it is already in flight. -/
def State.postOnce (s : State) (what : Instr) (arg : Arg) : State :=
  if s.net.contains ⟨what, arg⟩ || s.parked.contains ⟨what, arg⟩ then s else s.post what arg

/-- The cores of a die are powered (R19). -/
def diePowered (d : Die) : Bool := d.gate == .powered || d.gate == .gating

/-- Whether a die has a resident block or work for its dispatcher (R19). The blocks still to be queued of a suspended launch count
as such work (entry 67). -/
def dieBusy (s : State) (d : Nat) : Bool :=
  s.sched.blocks.any (fun b => b.die == d && (b.phase == .queued || b.phase == .resident)) ||
  s.sched.launches.any (fun l => !l.watched && decide (l.nextIdx.getD d 0 < l.rcd.blocks)) ||
  s.sched.trigQ.any (fun x => x.1 / 32 == d)

/-- The paths of a state. -/
def allPaths (s : State) : List (Hatch × Nat × Path) :=
  s.hatches.flatMap (fun h => (match h.slot0 with
    | some p => [(h, 0, p)]
    | none => []) ++ (match h.slot1 with
    | some p => [(h, 1, p)]
    | none => []))

/-- Whether a path may try its next instruction. -/
def pathReady (s : State) (h : Hatch) (slot : Nat) (p : Path) : Bool :=
  (match p.wait with
    | .none => true
    | .depart _ => true
    | _ => false) && !s.stalled.contains ⟨h.inst, slot⟩

/-- Waits that end with time (R162, R388). -/
def pathTimers (s : State) (x : Hatch × Nat × Path) : List Event :=
  let (h, slot, p) := x
  let arg : Arg := { hatch := h.inst, slot := slot }
  match p.wait with
  | .yield since _ =>
    let others := (allPaths s).any (fun y =>
      y.1.core == h.core && y.1.partition == h.partition && !(y.1.inst == h.inst && y.2.1 == slot) && pathReady s y.1 y.2.1 y.2.2)
    if since + 64 ≤ s.clock && !others then [⟨.yieldTimeout, arg⟩] else []
  | .sema _ since => if since + 65536 ≤ s.clock then [⟨.waddrTimeout, arg⟩] else []
  | .waddr true _ since => if since + 65536 ≤ s.clock then [⟨.waddrTimeout, arg⟩] else []
  | _ => []

/-- Gating and its delays (R19). -/
def dieTimers (s : State) (d : Nat) (x : Die) : List Event :=
  let arg : Arg := { die := d }
  match x.gate with
  | .powered => if !x.onMode && !dieBusy s d && x.gateSince + 2400000 ≤ s.clock then [⟨.dieIdleTimeout, arg⟩] else []
  | .gating => if dieBusy s d then [⟨.dieWake, arg⟩] else if x.gateSince + 4800 ≤ s.clock then [⟨.gatingDone, arg⟩] else []
  | .gated => if dieBusy s d then [⟨.dieWake, arg⟩] else []
  | .waking => if x.gateSince + 48000 ≤ s.clock then [⟨.wakingDone, arg⟩] else []

/-- Router power-down and its delays (R37). -/
def routerTimers (s : State) (r : Router) : List Event :=
  let arg : Arg := { router := r.id }
  match r.state with
  | .active => if !(s.dies.getD r.id.die Die.reset).pmOff && r.since + 1024 ≤ s.clock then [⟨.routerIdleTimeout, arg⟩] else []
  | .downing => if r.since + 16 ≤ s.clock then [⟨.routerDowningEnd, arg⟩] else []
  | .down => []
  | .waking => if r.since + 64 ≤ s.clock then [⟨.routerWakingEnd, arg⟩] else []

/-- Clocks that a retraining takes (R34). -/
def retrainTime : LinkId → Nat
  | .grid _ _ _ _ _ => 2400
  | .bridge _ _ _ => 4800
  | .io _ _ _ => 4800
  | .ulain _ => 48000

/-- The replay timer of a link (R33), and the end of a retraining (R34). -/
def linkTimers (s : State) (l : Link) : List Event :=
  if l.state == .up && !l.held.isEmpty && l.ackAt + 4096 ≤ s.clock then [⟨.replayTimeout, { link := l.id }⟩]
  else if l.state == .retraining && l.since + retrainTime l.id ≤ s.clock then [⟨.retrainDone, { link := l.id }⟩] else []

/-- Aging and pre-emption of queued blocks (R128, R133). -/
def blockTimers (s : State) (b : Block) : List Event :=
  if b.phase != .queued then []
  else (if b.effPrio < 7 && b.agedFrom + 2400000 ≤ s.clock then [⟨.priorityAging, { block := b.inst }⟩] else []) ++
    (if b.queuedAt + 240000 ≤ s.clock && (s.clock - b.queuedAt) % 240000 == 0 then [⟨.preemption, { die := b.die }⟩] else [])

/-- The hatches of a partition. -/
def partHatches (s : State) (core part : Nat) : List Hatch := s.hatches.filter (fun h => h.core == core && h.partition == part)

/-- Whether a path is stalled on allocation; and a hatch, when a path of it is and no other may go on (R177, R178). -/
def pathDry (s : State) (h : Hatch) (slot : Nat) : Bool := s.dry.contains ⟨h.inst, slot⟩

def hatchDry (s : State) (h : Hatch) : Bool :=
  let free := fun (slot : Nat) => (h.path? slot).elim false (fun p => !pathDry s h slot && pathReady s h slot p)
  (pathDry s h 0 || pathDry s h 1) && !free 0 && !free 1

/-- Register-bound partitions (R178): one of the two cases, found from the paths stalled on allocation. -/
def boundPartitions (s : State) : List (Nat × Nat) :=
  let parts := dedup ((s.hatches.filter (hatchDry s)).map (fun h => (h.core, h.partition)))
  parts.filter (fun (c, p) =>
    (partHatches s c p).all (hatchDry s) || decide ((s.core c).lastIssue.getD p 0 + 4096 ≤ s.clock))

/-- Events due now; a line is scrubbed every 128 clocks, so that every line is within 2^40 (R43). -/
def timersDue (s : State) : List Event :=
  (allPaths s).flatMap (pathTimers s) ++ s.dies.zipIdx.flatMap (fun x => dieTimers s x.2 x.1) ++
    s.fab.routers.flatMap (routerTimers s) ++ s.fab.links.flatMap (linkTimers s) ++ s.sched.blocks.flatMap (blockTimers s) ++
    (boundPartitions s).map (fun x => ⟨.registerBoundDiscard, { core := x.1, partition := x.2 }⟩) ++
    (if s.clock % 128 == 0 then [⟨.patrolScrub, {}⟩] else [])

/-- A powered die's idle time begins again while it is busy: looked at after every step (R19). -/
def dieBusyNote (s : State) (d : Nat) (x : Die) : Die :=
  if x.gate == .powered && (x.onMode || dieBusy s d) then { x with gateSince := s.clock } else x

def busyNote (s : State) : State := { s with dies := s.dies.zipIdx.map (fun x => dieBusyNote s x.2 x.1) }

/-- A router's idle time begins again while it holds a flit or owes a credit (R37). -/
def routerNote (s : State) : State :=
  if s.fab.links.isEmpty && s.fab.packets.isEmpty then s
  else
    let note := fun (r : Router) => if r.state == .active && routerHolds s r.id then { r with since := s.clock } else r
    { s with fab := { s.fab with routers := s.fab.routers.map note } }

/-- Whether the cores have left reset: step 4 of R22 clears them (R13). -/
def coresRun (s : State) : Bool := s.pkg.devState == .memory || s.pkg.devState == .links || s.pkg.devState == .ready

/-- What is still due of the registers of a hatch in the next clock. -/
def endLateAt (s : State) (h : Hatch) : Hatch := h.endLate (s.core h.core).taken (s.clock + 1)

/-- What issued instructions still hold at a clock. -/
def Core.endTaken (clock : Nat) (k : Core) : Core :=
  match k.taken with
  | [] => k
  | ts => { k with taken := ts.filter (fun t => decide (clock < t.free) || decide (clock < t.due)) }

/-- One clock passes: powered cores count it, what is due is posted, and everything that waits is tried again. -/
def tick (s : State) : State :=
  let run := coresRun s
  let s := routerNote { s with
    clock := s.clock + 1
    hatches := s.hatches.map (endLateAt s)
    cores := s.cores.zipIdx.map (fun x => Core.endTaken (s.clock + 1)
      (if run && diePowered (s.dies.getD (coreDie x.2) Die.reset) then { x.1 with cycle := (x.1.cycle + 1) % 2 ^ 64 } else x.1)) }
  ((timersDue s).foldl (fun s e => s.postOnce e.what e.arg) s).wake

end Sys2Proof.Machine
end

