-- ==== Sys2Proof/WellFormed.lean ====
section
/-! DEFINITION. Well-formed instructions: the canonical form of each format, the lengths of R291, and the field and
specifier rules of step 6 of R272 as a kernel context of an unprotected launch with all eight tiles sees them. -/

namespace Sys2Proof

open Machine

/-- The most permissive context: what it refuses, every context refuses. -/
def widest : FieldCtx := ⟨false, 8, false⟩

/-- An A form whose word says all of it: no upper word in the 64-bit form. -/
def AForm.canonical (f : AForm) : Bool := f.len96 || f.ext == 0

/-- As for the A forms. -/
def BForm.canonical (f : BForm) : Bool := f.len96 || f.ext == 0

/-- The bits above a `nop`'s length are not part of it (R296). -/
def nopCanonical (len : InstrLen) (upper : BitVec 118) : Bool :=
  match len with
  | .l64 => decide (upper.toNat < 2 ^ 54)
  | .l96 => decide (upper.toNat < 2 ^ 86)
  | .l128 => true

/-- Whether the word of an instruction says all of it. Events have no word. -/
def Form.canonical : Form → Bool
  | .event => false
  | .nop len u => nopCanonical len u
  | .a _ f => f.canonical
  | .b _ f => f.canonical
  | .m _ _ => true

/-- The opcode's length and field rules. -/
def Form.fieldsOk : Form → Bool
  | .event => true
  | .nop _ _ => true
  | .a op f => aLenOk op f && (aFieldFault widest op f).isNone
  | .b op f => bLenOk op f && (bFieldFault widest op f).isNone
  | .m op f => (mFieldFault widest op f).isNone

/-- `rett` and `rett.retry` share an opcode: SUB tells them apart (R310). -/
def Instr.subOk : Instr → Bool
  | .rett f => f.sub != 1
  | .rettRetry f => f.sub == 1
  | _ => true

/-- An instruction that its own word decodes to. -/
def Instr.encodable (i : Instr) : Bool :=
  i.form.canonical && i.subOk &&
  match i.form with
  | .a op f => aLenOk op f
  | .b op f => bLenOk op f
  | _ => true

/-- A well-formed instruction; an event is well-formed as it stands. -/
def Instr.wf (i : Instr) : Bool := i.form == .event || (i.encodable && i.form.fieldsOk)

end Sys2Proof
end

