-- ==== Sys2Proof/Machine/Fetch.lean ====
section
/-! DEFINITION. Issue choice (08 R160, 01 R15 to R18), fetching (12 R270, R271) and steps 1 to 4 of R272, and what the
machine does next. -/

namespace Sys2Proof.Machine

/-! ### Issue choice -/

/-- The deepest throttle of the package (R15, R16, R18): issue on 16 − k of every 16 clocks. -/
def throttleDepth (s : State) : Nat :=
  max (max s.pkg.thermalDepth s.pkg.capDepth) (if s.pkg.prochot then 8 else 0)

/-- Whether the clock is one on which partitions issue. -/
def issueSlot (s : State) : Bool := decide (s.clock % 16 < 16 - throttleDepth s)

/-- The effective priority of a path (R161). -/
def Path.effective (p : Path) : Nat := min 7 (p.prio + p.promo)

/-- Whether one candidate comes before another (R160): trap level, effective priority, age of the hatch, and within a
hatch the path that issued less recently. -/
def before (a b : Hatch × Nat × Path) : Bool :=
  let (h, _, p) := a
  let (g, _, q) := b
  if p.handler != q.handler then p.handler
  else if p.effective != q.effective then decide (q.effective < p.effective)
  else if h.age != g.age then decide (h.age < g.age)
  else if h.inst != g.inst then decide (h.inst < g.inst)
  else decide (p.lastIssue ≤ q.lastIssue)

def bestPath : List (Hatch × Nat × Path) → Option (Hatch × Nat × Path)
  | [] => none
  | x :: r => match bestPath r with
    | none => some x
    | some y => if before x y then some x else some y

/-- Whether a hatch may run now: its die is powered, and its launch is not suspended, but for a trap handler (R152). -/
def hatchRuns (s : State) (h : Hatch) : Bool :=
  (h.handler || (launchOf s h).elim true (fun l => l.phase == .running)) &&
  (s.dies.getD (coreDie h.core) Die.reset).gate == .powered

/-- The paths whose next instruction may be tried, in no order. -/
def readyPaths (s : State) : List (Hatch × Nat × Path) :=
  if !issueSlot s || s.pkg.devState != .ready then []
  else (allPaths s).filter (fun x => pathReady s x.1 x.2.1 x.2.2 && hatchRuns s x.1)

/-- What a partition has issued in this clock. -/
def issuedNow (s : State) (h : Hatch) : List Taken :=
  (s.core h.core).taken.filter (fun t => t.partition == h.partition && t.since == s.clock)

/-- In each clock a hatch issues once at most, and a partition three times (R157, R160). -/
def mayIssue (s : State) (h : Hatch) : Bool :=
  decide ((issuedNow s h).length < 3) && !(issuedNow s h).any (fun t => t.hatch == h.inst)

/-- The paths that may issue, in no order. -/
def candidates (s : State) : List (Hatch × Nat × Path) := (readyPaths s).filter (fun x => mayIssue s x.1)

/-! ### Deferred traps (R191, R194, R411) -/

/-- The oldest store-fault record of a hatch. -/
def oldestRecord (s : State) (h : Hatch) : Option SfrRec := (s.core h.core).sfrq.find? (fun r => r.hatch == h.inst)

/-- A deferred trap that is due at the next instruction boundary of a path. -/
def deferredTrap (s : State) (h : Hatch) : Option Instr :=
  if h.handler then none
  else if (oldestRecord s h).isSome then some .sfrqTrap
  else if !h.engFaults.isEmpty then some .engineFaultTrap else none

/-! ### Fetch -/

/-- What fetching an instruction gives. -/
inductive FetchRes where
  | bytes (bs : List Byte)
  | trap (t : TrapReport)
  | poison (pa : Nat)
  | wait
  deriving DecidableEq, Repr

/-- A frozen page whose loads may make untracked replicas (R73, R396): not while the freeze is still in progress. -/
def replicaOk (s : State) (ctx va : Nat) (frozen : Bool) : Bool :=
  frozen && (freezeFrozen s ctx va || !freezeCovers s ctx va)

/-- Reads a line that the host holds uncoherently (MT 4): its L1 copy, or a PCIe read that makes one (R90). A fetch
waits for it as an operation of its own. -/
def fetchMt4 (s : State) (h : Hatch) (line : Nat) : State × Option (List Byte × BitVec 4) :=
  match (s.core h.core).line? line with
  | some l => (s, some (l.bytes, l.poison))
  | none =>
    if s.ops.any (fun o => o.core == h.core && o.what == .nop .l64 0 && o.vals == [line]) then (s, none)
    else
      let (id, s) := s.fresh
      let o : Op :=
        { id := id, hatch := h.inst, slot := 0, block := h.block, core := h.core, ctx := 0, depth := h.depth, pc := 0, what := .nop .l64 0
          active := 0, lanes := [], vals := [line], vecs := [], prog := 0, done := false, silent := false }
      (({ s with ops := s.ops ++ [o] } : State).emit (.pcieRead (portOfLine line) id (line * 128) 128), none)

/-- Reads the aligned 32-byte block that holds a PC through the core's L1 (R271), from its start. -/
def fetchBlock (s : State) (h : Hatch) (p : Path) : State × FetchRes :=
  let ctx := ctxOf s h
  match translate s h.core ctx (ctxKernel s ctx) .fetch p.pc with
  | (s, .fault code cause level) => (s, .trap { code := code, info := cause + 256 * level, addr := p.pc })
  | (s, .poison pa _) => (s, .poison pa)
  | (s, .ok pa mt _ frozen _) =>
    let base := pa / 32 * 32
    let line := lineOf pa
    let (s, r) := if mt == 4 then fetchMt4 s h line
      else readLine s h.core line (sectorMask (offsetInLine base) 32)
        { mt := mt, frozen := replicaOk s ctx (p.pc % 2 ^ 52) frozen, acquire := false, ldc := false, hint := 0, op := 2 ^ 48 + h.core }
    match r with
    | none => (s, .wait)
    | some (bs, poison) =>
      if poison.getLsbD (offsetInLine base / 32) then (s, .poison pa)
      else (s, .bytes (sliceBytes bs (offsetInLine base) 32))

/-- Steps 2 to 4 of R272 on a fetched block, at an offset in it. -/
def checkWord (bs : List Byte) (off : Nat) : Except TrapReport Instr :=
  let w := bytesWord (sliceBytes bs off 16)
  match lenOfWord w with
  | none => .error { code := tcIllegalOpcode, info := word32 w }
  | some len =>
    if 32 < off + len.bytes then .error { code := tcFetchBoundary, info := len.bytes }
    else match decodeWord w with
      | .error _ => .error { code := tcIllegalOpcode, info := word32 w }
      | .ok i => .ok i

/-! ### What happens next -/

/-- The next thing: something that is already done, or an instruction or event to execute. -/
inductive Plan where
  | done (s : State)
  | run (i : Instr) (s : State)
  deriving DecidableEq, Repr

/-- Events that a compute die serves: its cores, slices, routers and dispatcher, and the engines that reach memory through them. A
die that a thermal trip has powered off serves none (R15; entry 68). -/
def dieServes : Instr → Bool
  | .coldReset => false
  | .warmReset => false
  | .portReset => false
  | .functionLevelReset => false
  | .hostLinkLoss => false
  | .hostLinkUp => false
  | .prochotAssert => false
  | .prochotDeassert => false
  | .thermalStep => false
  | .thermalTrip => false
  | .capWindowEnd => false
  | .ackReceive => false
  | .nackReceive => false
  | .flitReceive => false
  | .replayTimeout => false
  | .retrainStart => false
  | .retrainDone => false
  | .ulainTrained => false
  | .ulainForward => false
  | .packageFailure => false
  | .cmdSemRead => false
  | .cmdSemRelease => false
  | .registerWrite => false
  | .mediaFatal => false
  | .dpcStatusClear => false
  | .internalFatal => false
  | .identify => false
  | .getCaps => false
  | .ctxCreate => false
  | .ctxDestroy => false
  | .mapRegion => false
  | .queryMap => false
  | .watchAttach => false
  | .watchDetach => false
  | .launch => false
  | .suspend => false
  | .resume => false
  | .kill => false
  | .pinWindow => false
  | .unpinWindow => false
  | .freezeList => false
  | .forceThaw => false
  | .errLogRead => false
  | .errLogClear => false
  | .errInject => false
  | .engineReset => false
  | .setChip => false
  | .portEnable => false
  | .route => false
  | .retrain => false
  | .query => false
  | .routerPm => false
  | .powerSet => false
  | .powerQuery => false
  | .attest => false
  | .deviceReset => false
  | _ => true

/-- Serves an event: it concerns what its argument says, and no path issues. An instruction of a program is no event. -/
def serve (s : State) (e : Event) : Plan :=
  let s := { s with arg := e.arg, cur := none }
  if e.what.form == .event && !(s.pkg.thermtrip && dieServes e.what) then .run e.what s else .done s

/-- The pipe of a decoded instruction. -/
def instrPipe (i : Instr) : Nat :=
  match i.form with
  | .a op f => pipeOf op (aShape op (aRule widest op f) f).allScalar f.ty.toNat
  | .b op _ => pipeOf op true 0
  | .m op _ => pipeOf op false 0
  | _ => 3

/-- The registers that an instruction reads and writes, its guard among the first. -/
def instrShape (i : Instr) : Shape :=
  let guard := fun (gidx : BitVec 3) (gsense : BitVec 2) (sh : Shape) =>
    if gsense == 0 then sh else { sh with srcs := sh.srcs ++ [{ slot := 0, spec := 0xC0#8 + gidx.setWidth 8, width := 1 }] }
  match i.form with
  | .a op f => guard f.gidx f.gsense (aShape op (aRule widest op f) f)
  | .b op f => guard f.gidx f.gsense (bShape op f)
  | .m op f => guard f.gidx f.gsense (mShape op f)
  | _ => {}

/-- Clocks of occupancy and latency (R158) of a pipe and opcode. The latency of the memory pipe is that of its accesses, each of
which completes as an event. -/
def pipeTime (pipe op ty : Nat) : Nat × Nat :=
  let ivl := decide (0x80 ≤ op) && decide (op ≤ 0x8F)
  let mulDiv := op == 0x84 || op == 0x86
  match pipe with
  | 0 => if !ivl then (3, 6) else if mulDiv then (12, 15) else (6, 9)
  | 1 =>
    if ivl then
      if mulDiv then (48, 52)
      else if [0x82, 0x83, 0x88, 0x89, 0x8A, 0x8B, 0x8C, 0x8D].contains op then (12, 16) else (24, 28)
    else if [0x65, 0x66, 0x67, 0x68].contains op then (12, 12) else (12, 16)
  | 2 => (3, 0)
  | _ => (1, 2)

def instrTime (i : Instr) : Nat × Nat :=
  match i.form with
  | .a op f => pipeTime (instrPipe i) op f.ty.toNat
  | .b op _ => pipeTime (instrPipe i) op 0
  | .m op _ => pipeTime (instrPipe i) op 0
  | _ => (1, 2)

/-- Whether a register that an instruction reads is written by one whose latency is not over (R158). A register that is marked empty
is no such one: it waits or traps as R179 says. -/
def operandDue (s : State) (h : Hatch) (i : Instr) : Bool :=
  let due := (s.core h.core).taken.filter (fun t => t.hatch == h.inst && decide (s.clock < t.due))
  let g := { h with
    emptyV := due.foldl (fun m (t : Taken) => m ||| t.v) 0#64 &&& ~~~h.emptyV
    emptyS := due.foldl (fun m (t : Taken) => m ||| t.s) 0#128 &&& ~~~h.emptyS
    emptyP := due.foldl (fun m (t : Taken) => m ||| t.p) 0#8 &&& ~~~h.emptyP }
  !due.isEmpty && (instrShape i).srcs.any (fun u => g.empty u.spec u.width)

/-- Whether an instruction's pipe is free and the operands that its partition computes are available (R158, R160). -/
def pipeReady (s : State) (h : Hatch) (i : Instr) : Bool :=
  !(s.core h.core).taken.any (fun t => t.partition == h.partition && t.pipe == instrPipe i && decide (s.clock < t.free)) &&
  !operandDue s h i

/-- A path tries its next instruction: a deferred trap first, then fetch and decode. A path that the fetch itself ended
issues nothing. -/
def tryIssue (s : State) (h : Hatch) (slot : Nat) (p : Path) : Plan :=
  match deferredTrap s h with
  | some e => .run e { s with arg := { hatch := h.inst, slot := slot }, cur := none }
  | none =>
    let s := { s with cur := some ⟨h.inst, slot⟩, arg := {} }
    let (t, r) := fetchBlock s h p
    if !t.wants.isEmpty then .done (waitAgain s t .loadDataReturn)
    else match r with
    | .wait => .done (stall t)
    | .poison pa => .done (finish (poisonKill t h.inst p.pc pa))
    | .trap x => .done (finish (takeTrap t h.inst slot p.pc x))
    | .bytes bs =>
      match checkWord bs (p.pc % 32) with
      | .error x => .done (finish (takeTrap t h.inst slot p.pc x))
      | .ok i =>
        let t := { t with pipe := instrPipe i }
        if !pipeReady t h i then .done (stall t) else if t.issuing.isSome then .run i t else .done t

/-- Drops the k-th element. -/
def dropNth {α : Type} (xs : List α) (k : Nat) : List α := xs.take k ++ xs.drop (k + 1)

/-- Requests to a line's home (R81). -/
def homeRequest : Instr → Bool
  | .rdRequest => true
  | .rdxRequest => true
  | .upgRequest => true
  | _ => false

/-- The place of a requester among requests of one clock: the home's own die first, host ports last (R81). -/
def requesterNo (s : State) (line : Nat) : Who → Nat
  | .agent c d => if Who.agent c d == selfWho s line then 0 else 1 + c * 8 + d
  | .host p => 1000 + Port.idx p

/-- The oldest message of the stream of the k-th (R29). -/
def streamFirst (s : State) (k : Nat) : Nat :=
  match (s.net[k]?).bind (Event.stream s) with
  | none => k
  | some st => (s.net.findIdx? (fun e => e.stream s == some st)).getD k

/-- Of the requests for the same line that arrived in the same clock as the k-th message, the first to be served (R81). -/
def sameClockFirst (s : State) (k : Nat) : Nat :=
  match s.net[k]? with
  | none => k
  | some e =>
    if !homeRequest e.what then k
    else
      let same := s.net.zipIdx.filter (fun x => homeRequest x.1.what && x.1.arg.line == e.arg.line && x.1.arg.seq == e.arg.seq)
      (leastBy (fun x => requesterNo s e.arg.line x.1.arg.who) same).elim k (·.2)

/-- Serves the k-th message in flight, or the one that goes before it. -/
def serveNet (s : State) (k : Nat) : Plan :=
  let k := streamFirst s (sameClockFirst s (streamFirst s k))
  match s.net[k]? with
  | some e => serve { s with net := dropNth s.net k } e
  | none => .done s

/-- With no order of moves given: outside events first, then messages, then the best path, then the clock. -/
def planFree (s : State) : Plan :=
  match s.inbox with
  | e :: r => serve { s with inbox := r } e
  | [] =>
    if !s.net.isEmpty then serveNet s 0
    else match bestPath (candidates s) with
      | some (h, slot, p) => tryIssue s h slot p
      | none => .done (tick s)

/-- What happens next. A move that cannot be made is passed over. -/
def plan (s : State) : Plan :=
  match s.turns with
  | [] => planFree s
  | t :: r =>
    let s := { s with turns := r }
    match t with
    | .tick => .done (tick s)
    | .arrive => match s.inbox with
      | e :: q => serve { s with inbox := q } e
      | [] => .done s
    | .deliver k => serveNet s k
    | .issue ref => match (candidates s).find? (fun x => x.1.inst == ref.hatch && x.2.1 == ref.slot) with
      | some (h, slot, p) => tryIssue s h slot p
      | none => .done s

end Sys2Proof.Machine
end

