-- ==== Sys2Proof/Machine/MemForm.lean ====
section
/-! DEFINITION. What the memory instructions share (17 R374 to R378): lane addresses, alignment, translation of a group of
lanes, empty marks and allocation of destinations, local store (08 R180), and the order of a hatch's accesses. -/

namespace Sys2Proof

/-- The ordering of an M128 access (R199). -/
def MForm.acquires (f : MForm) : Bool := f.ord.getLsbD 0
def MForm.releases (f : MForm) : Bool := f.ord.getLsbD 1

end Sys2Proof

namespace Sys2Proof.Machine

/-! ### Addresses (R263, R376) -/

/-- The access size, which is also the alignment (R376). -/
def accSize (op : Nat) (f : MForm) : Nat :=
  if op == 0xAB || op == 0xAC then (if f.twf == 5#4 then 8 else 16)
  else if op == 0xAF then 128 else if op == 0xAD then 1 else twfBytes f.twf.toNat

/-- Base, index and offset of an address in a visible lane, before it wraps. -/
def addrParts (c : Iss) (f : MForm) (w j : Nat) : Nat × Int :=
  let l := physLane c.prot 0 j
  (c.val f.addr w 0 0 l, sxt 32 (c.val f.idx 1 0 0 l) + sxt 32 f.imm.toNat)

/-- The address of a visible lane of a memory form. -/
def memAddr (c : Iss) (f : MForm) (j : Nat) : Nat :=
  let (b, i) := addrParts c f 2 j
  wrapN 64 ((b : Int) + i)

/-- The address of a visible lane of `ldb` and `stb`: w bytes a lane from one base. -/
def blockAddr (c : Iss) (f : MForm) (w j : Nat) : Nat := wrap64 (memAddr c f 0 + j * w)

/-- A local-store address. -/
def localAddr (c : Iss) (f : MForm) (j : Nat) : Nat :=
  let (b, i) := addrParts c f 1 j
  wrapN 32 ((b : Int) + i)

/-- Whether a memory form is all-scalar: it runs once, at lane 0 (R286, R374). -/
def memOnce (op : Nat) (f : MForm) : Bool := (mShape op f).allScalar

/-- The issuing path with the lanes that a memory form runs in: an all-scalar one has the one lane 0, but none where its guard leaves
none active (R249, R286). -/
def Iss.forM (c : Iss) (op : Nat) (f : MForm) : Iss :=
  if memOnce op f && !(f.gsense != 0 && c.act == 0) then { c with act := 1 } else c

/-- The addresses of the lanes that an opcode runs in. -/
def laneAddrs (op : Nat) (f : MForm) (c : Iss) : List (Nat × Nat) :=
  (lanesOf c.act).map (fun j => (j, if op == 0xA1 || op == 0xA2 then blockAddr c f (accSize op f) j else memAddr c f j))

/-- A trap report of a form that runs once names the path's active lanes. -/
def TrapReport.ofOnce (t : TrapReport) (once : Bool) (act : LaneSet) : TrapReport := if once then { t with mask := act } else t

/-- The misaligned lanes, as an ALIGN report. -/
def alignFault (size : Nat) (as : List (Nat × Nat)) : Option TrapReport :=
  match as.filter (fun a => a.2 % size != 0) with
  | [] => none
  | a :: r => some { code := tcAlign, addr := a.2, mask := laneSet (a.1 :: r.map (·.1)) }

/-! ### Translation of lanes -/

/-- A lane's access before it is translated. -/
def LaneAcc.start (lane va : Nat) (bytes : List Byte) : LaneAcc :=
  { lane := lane, va := va, tr := false, pa := 0, mt := 0, frozen := false, watch := false, bytes := bytes, poison := false
    fault := 0, cause := 0, level := 0, done := false }

/-- A lane with the translation that an access gives. -/
def LaneAcc.resolve (s : State) (ctx : Nat) (a : LaneAcc) (r : XRes) : LaneAcc :=
  match r with
  | .ok pa mt watch frozen _ =>
    { a with tr := true, pa := pa, mt := mt, watch := watch, frozen := replicaOk s ctx (a.va % 2 ^ 52) frozen }
  | .fault code cause level => { a with tr := true, fault := code, cause := cause, level := level }
  | .poison pa _ => { a with tr := true, pa := pa, fault := tcPoison }

/-- `ldc` takes a frozen page or one that nothing can store to (R382). -/
def notConstant (ldc : Bool) (r : XRes) : XRes :=
  match r with
  | .ok _ _ _ frozen wr => if ldc && !frozen && wr then .fault tcProtection 0x08 0 else r
  | r => r

/-- Translates lanes in ascending order, walking where that is needed. -/
def resolveLanes (s : State) (core ctx : Nat) (kern : Bool) (k : AccKind) (ldc : Bool) :
    List LaneAcc → State × List LaneAcc
  | [] => (s, [])
  | a :: r =>
    let (s, x) := if a.tr then (s, a) else
      let (s, x) := translate s core ctx kern k a.va
      (s, a.resolve s ctx (notConstant ldc x))
    let (s, xs) := resolveLanes s core ctx kern k ldc r
    (s, x :: xs)

/-- The lanes of the fault that is reported: those with the code of the lowest faulting lane (R377). -/
def sameFault (as : List LaneAcc) : List LaneAcc :=
  match as.filter (fun a => a.fault != 0) with
  | [] => []
  | a :: r => a :: r.filter (fun b => b.fault == a.fault)

/-- The precise report of faulting lanes (R377); poison in a page table is no report. -/
def preciseFault (c : Iss) (once : Bool) (as : List LaneAcc) : Option TrapReport :=
  match sameFault as with
  | [] => none
  | a :: r => some
    { code := a.fault, info := a.cause + 256 * a.level, addr := a.va
      mask := if once then c.act else laneSet (a.lane :: r.map (·.lane)) }

/-- Traps for a fault, or kills for poison in a page table. -/
def Iss.faultLanes (c : Iss) (s : State) (once : Bool) (as : List LaneAcc) : Option State :=
  match as.find? (fun a => a.fault == tcPoison) with
  | some a => some (finish (poisonKill s c.inst c.p.pc a.pa))
  | none => (preciseFault c once as).map (fun t => c.trap s t)

/-! ### Destinations (R175 to R179) -/

/-- An asynchronous instruction issues: last-use frees, its destinations allocated by writes to no lane and marked empty,
and on to the next instruction. `k` goes on from the state after the issue. -/
def beginAsync (s : State) (c : Iss) (sh : Shape) (ws : List Write) (len : Nat) (k : State → State) : State :=
  let hp := ws.foldl (applyWrite c.prot 0) (c.h.freeLast sh, c.p)
  match allocTest s c hp.1 with
  | .peak => c.trap s { code := tcIllegalOperand, info := 0x100 }
  | .dry => stallDry s
  | .ok => finish (k (retire (putIssue (keepNewer s c.inst sh.dsts) c (hp.1.markEmpty sh.dsts true, c.p)) c.inst c.slot c.p.pc len))

/-- A write to no lane allocates vector registers; scalars have nothing to allocate. -/
def allocWrites (sh : Shape) (ivl : Bool) : List Write :=
  sh.dsts.filterMap (fun d => if isVec d.1 then
    some (if ivl then .ivl d.1 d.2 (fun _ => ⟨0, 0⟩) else .reg d.1 d.2 (fun _ => 0)) else none)

/-- Writes results to a hatch long after the issue, through the path that issued. -/
def lateWrite (s : State) (o : Op) (prot : Bool) (m : LaneSet) (ws : List Write) (sh : Shape) (fl : FpFlags) : State :=
  match s.hatch? o.hatch with
  | none => s
  | some h =>
    let p := (h.path? o.slot).getD (Path.start 0 0 0 false)
    let hp := ws.foldl (applyWrite prot m) (h, p)
    let h := ({ hp.1 with fpflags := hp.1.fpflags ||| fl } : Hatch).markEmpty sh.dsts false
    s.updHatch o.hatch (fun _ => h.setPath o.slot ((h.path? o.slot).map (fun _ => hp.2)))

/-! ### Data of a width (R279, R379) -/

/-- What a load of a width writes for its bytes. -/
def extend (twf : Nat) (bs : List Byte) : Nat :=
  let v := bytesNat bs
  if twf == 1 then wrapN 32 (sxt 8 v) else if twf == 3 then wrapN 32 (sxt 16 v) else v

/-! ### Local store (R180, R211) -/

/-- The ways a block owns on a core, ascending. -/
def ownedWays (s : State) (core block : Nat) : List Nat :=
  ((s.core core).ways.zipIdx.filter (fun x => match x.1 with
    | .owned b _ _ => b == block
    | _ => false)).map (·.2)

def wayByte (w : Way) (i : Nat) : Byte := match w with
  | .owned _ bs _ => cellGet i bs
  | _ => 0

def waySet (w : Way) (i : Nat) (v : Byte) : Way := match w with
  | .owned b bs bad => .owned b (cellSet i v bs) bad
  | w => w

def localByte (s : State) (core block a : Nat) : Byte :=
  wayByte ((s.core core).ways.getD ((ownedWays s core block).getD (a / 65536) 16) .free) (a % 65536)

def localRead (s : State) (core block a n : Nat) : List Byte := (List.range n).map (fun i => localByte s core block (a + i))

def localSetByte (s : State) (core block a : Nat) (v : Byte) : State :=
  let w := (ownedWays s core block).getD (a / 65536) 16
  s.updCore core (fun k => { k with ways := k.ways.modify w (fun x => waySet x (a % 65536) v) })

/-- The 32-byte sectors of local store that n bytes at an address touch, or cover wholly. -/
def sectorsOf (a n : Nat) : List Nat := (List.range (n / 32 + 2)).filterMap (fun i =>
  if 32 * (a / 32 + i) < a + n then some (a / 32 + i) else none)

def sectorsWhole (a n : Nat) : List Nat := (sectorsOf a n).filter (fun q => decide (a ≤ 32 * q) && decide (32 * q + 32 ≤ a + n))

/-- Marks or clears the poison of one sector of a block's local store. -/
def localMark (s : State) (core block q : Nat) (on : Bool) : State :=
  let w := (ownedWays s core block).getD (q / 2048) 16
  let up := fun (x : Way) => match x with
    | .owned b bs bad => Way.owned b bs (if on then sectorAdd (q % 2048) bad else sectorDel (q % 2048) bad)
    | x => x
  s.updCore core (fun k => { k with ways := k.ways.modify w up })

/-- Whether n bytes at a local-store address touch poison. -/
def localPoison (s : State) (core block a n : Nat) : Bool :=
  (sectorsOf a n).any (fun q => match (s.core core).ways.getD ((ownedWays s core block).getD (q / 2048) 16) .free with
    | .owned _ _ bad => bad.contains (q % 2048)
    | _ => false)

/-- Writes bytes of a block's local store, which clears the poison of the sectors written wholly, and lets its sleepers
look again (R388). -/
def localWrite (s : State) (core block a : Nat) (bs : List Byte) : State :=
  let s := bs.zipIdx.foldl (fun s x => localSetByte s core block (a + x.2) x.1) s
  let s := ((sectorsWhole a bs.length).filter (fun q => localPoison s core block (32 * q) 1)).foldl
    (fun s q => localMark s core block q false) s
  wakeLocal s block core

/-- Whether n bytes at a local-store address lie in the block's bytes. -/
def localOk (rcd : LaunchRec) (a n : Nat) : Bool := decide (a + n ≤ rcd.local_)

/-- LOCAL_RANGE lanes as faulting accesses (R180). -/
def localFaults (rcd : LaunchRec) (size : Nat) (as : List (Nat × Nat)) : List LaneAcc :=
  as.filterMap (fun a => if localOk rcd a.2 size then none else
    some { LaneAcc.start a.1 a.2 [] with tr := true, fault := tcProtection, cause := 0x07 })

/-! ### Records (R190) -/

/-- One record for each fault code among the lanes of a store, the code of the lowest lane first. -/
def faultRecords (o : Op) (kind : Nat) : Nat → List LaneAcc → List SfrRec
  | 0, _ => []
  | n + 1, as => match sameFault as with
    | [] => []
    | a :: r =>
      ⟨o.hatch, a.fault, a.cause, kind, a.level, o.pc, a.va, laneSet (a.lane :: r.map (·.lane))⟩ ::
        faultRecords o kind n (as.filter (fun b => b.fault != a.fault))

/-- Makes the records of a store's faulting lanes. -/
def recordFaults (s : State) (o : Op) (kind : Nat) (as : List LaneAcc) : State :=
  (faultRecords o kind 8 as).foldl (fun s r => pushSfr s o.core r) s

/-! ### The order of a hatch's accesses (R202, R205, R206) -/

/-- Whether an instruction is an acquire access, or a release access. -/
def instrForm (i : Instr) : Option (Nat × MForm) := match i.form with
  | .m op f => some (op, f)
  | _ => none

def Op.acquires (o : Op) : Bool := (instrForm o.what).elim false (fun x => x.2.acquires && decide (x.1 < 0xC5))
def Op.releases (o : Op) : Bool := (instrForm o.what).elim false (fun x => x.2.releases && decide (x.1 < 0xC5))

/-- A lane still to be performed. -/
def LaneAcc.pending (a : LaneAcc) : Bool := !a.done && a.fault == 0

/-- Whether an operation must wait for an older one of its hatch before it may act on a line: the older one has still to
act on the line or to find out, or is an acquire. A release waits for every older one. Stores through MT 4 keep their
order. -/
def olderBlocks (s : State) (o : Op) (line mt : Nat) : Bool :=
  s.ops.any (fun q => q.hatch == o.hatch && decide (q.id < o.id) && !waitsAtWord q.what && q.lanes.any (fun a => a.pending &&
    (!a.tr || lineOf a.pa == line || q.acquires || o.releases || mt == 4 && a.mt == 4 && opWrites q.what)))

/-- The event being served must wait: it is tried again after the next change. -/
def State.park (s : State) (what : Instr) : State := { s with parked := s.parked ++ [⟨what, s.arg⟩] }

/-- The line of a lane's access. -/
def LaneAcc.line (a : LaneAcc) : Nat := lineOf a.pa

/-- The distinct lines of accesses. -/
def linesOf (as : List LaneAcc) : List Nat := dedup (as.map LaneAcc.line)

/-- The sectors of a line that accesses of a size touch. -/
def sectorsAt (as : List LaneAcc) (line size : Nat) : BitVec 4 :=
  (as.filter (fun a => a.line == line)).foldl (fun m a => m ||| sectorMask (offsetInLine a.pa) size) 0

end Sys2Proof.Machine
end

