-- ==== Sys2Proof/Machine/Loads.lean ====
section
/-! DEFINITION. Loads and prefetches (17 R379 to R385): what happens at issue, and LOAD_DATA_RETURN, which brings a line's data
to the registers (03 R59). -/

namespace Sys2Proof.Machine

/-! ### The end of a load -/

/-- The access of a visible lane; the forms that run once have it at lane 0. -/
def Op.accOf (o : Op) (once : Bool) (j : Nat) : Option LaneAcc :=
  o.lanes.find? (fun a => a.lane == if once then 0 else j)

/-- The bytes of a physical lane. -/
def Op.bytesAt (o : Op) (once prot : Bool) (l : Nat) : List Byte := (o.accOf once (visLane prot l)).elim [] (·.bytes)

/-- The loaded interval of a lane: bounds that are not valid become the entire line and set INV (R383). -/
def loadedIvl (ft : Fmt) (w : Nat) (bs : List Byte) : Ivl × FpFlags :=
  let i : Ivl := ⟨plusZero ft (bytesNat (bs.take (4 * w))), plusZero ft (bytesNat ((bs.drop (4 * w)).take (4 * w)))⟩
  if i.valid ft then (i, flNone) else (Ivl.entire ft, flInv)

/-- What `ldt` writes to its predicate for a lane (R384). -/
def testCode (a : Option LaneAcc) : Tri := match a with
  | none => .f
  | some a => if a.fault == tcPoison || a.fault == 0 && a.poison then .u else if a.fault != 0 then .f else .t

/-- The results of a finished load, and its flags. -/
def loadResults (o : Op) (op : Nat) (f : MForm) (prot : Bool) (m : LaneSet) : List Write × FpFlags :=
  let once := memOnce op f
  let w := (mRule op f).d.width
  if op == 0xAB then
    let ft := if w == 1 then fmtF32 else fmtF64
    let at_ := fun (l : Nat) => loadedIvl ft w (o.bytesAt false prot l)
    ([.ivl f.d w (fun l => (at_ l).1)], (lanesOf m).foldl (fun a l => a ||| (at_ l).2) 0)
  else
    let d : Write := .reg f.d w (fun l => extend f.twf.toNat (o.bytesAt once prot l))
    (if op == 0xB2 then [d, .pred (predReg f.x) (fun l => testCode (o.accOf false (visLane prot l)))] else [d], 0)

/-- The lanes whose register a finished load writes: for `ldt` those that loaded. -/
def loadLanes (o : Op) (op : Nat) : LaneSet :=
  if op == 0xB2 then laneSet ((lanesOf o.active).filter (fun j => testCode (o.accOf false j) == .t)) else o.active

/-- Every lane of a load has its data: registers, tags and the predicate are written, and the acquire of an acquire load
takes effect in its core (R78, R90). Poison kills (R197). -/
def finishLoad (s : State) (o : Op) : State :=
  match instrForm o.what, s.hatch? o.hatch with
  | some (op, f), some h =>
    let prot := hatchProt s h
    match (if op == 0xB2 || op == 0xAD then none else o.lanes.find? (·.poison)) with
    | some a => poisonKill (endOp s o) o.hatch o.pc (a.pa / 32 * 32)
    | none =>
      let sh := mShape op f
      let m := physMask prot (loadLanes o op)
      let s :=
        if op == 0xAD then s
        else
          let r := loadResults o op f prot m
          let s := lateWrite s o prot m (r.1.take 1) sh r.2
          lateWrite s o prot (physMask prot o.active) (r.1.drop 1) sh 0
      let s := if f.acquires then acquireCore s o.core
        else (linesOf (o.lanes.filter (fun a => a.fault == 0 && a.mt != 4))).foldl (fun s ln => noteRead s o.hatch ln) s
      endOp s o
  | _, _ => endOp s o

/-- Gives the lanes of a line their bytes. -/
def fillLanes (o : Op) (line size : Nat) (bs : List Byte) (poison : BitVec 4) : Op :=
  { o with lanes := o.lanes.map (fun a =>
      if a.pending && a.line == line then
        let off := offsetInLine a.pa
        { a with
          bytes := sliceBytes bs off size
          poison := (touchedSectors off size).any (fun q => poison.getLsbD q)
          done := true }
      else a) }

/-- Data of a line has arrived for an operation. -/
def deliver (s : State) (o : Op) (line size : Nat) (bs : List Byte) (poison : BitVec 4) : State :=
  let o := fillLanes o line size bs poison
  if o.lanes.any LaneAcc.pending then s.updOp o.id (fun _ => o) else finishLoad (s.updOp o.id (fun _ => o)) o

/-- Reads an MT 4 line for an operation (R90): the L1's read copy, or one PCIe read, whose completion delivers the data. -/
def readMt4 (s : State) (o : Op) (line : Nat) (acquire : Bool) : State × Option (List Byte × BitVec 4) :=
  let s := if acquire then s.updCore o.core (fun k => { k with l1 := k.l1.filter (fun l => !(l.kind == .mt4 && l.line == line)) })
    else s
  match (s.core o.core).line? line with
  | some l => (s, some (l.bytes, l.poison))
  | none =>
    if o.vals.contains line then (s, none)
    else
      let s := s.updOp o.id (fun o => { o with vals := o.vals ++ [line] })
      (s.emit (.pcieRead (portOfLine line) o.id (line * 128) 128), none)

/-- LOAD_DATA_RETURN (R59). -/
def execLoadDataReturn (s : State) : Host.Outcome State Fault Refusal :=
  .next (match s.op? s.arg.op with
    | none => finish s
    | some o =>
      match instrForm o.what with
      | none => finish s
      | some (op, f) =>
        let line := s.arg.line
        let size := accSize op f
        let mine := o.lanes.filter (fun a => a.pending && a.line == line)
        match mine with
        | [] => finish s
        | a :: _ =>
          if olderBlocks s o line a.mt then s.park .loadDataReturn
          else
            let how : ReadHow :=
              { mt := a.mt, frozen := mine.all (·.frozen), acquire := f.acquires, ldc := op == 0xAA && a.mt < 2
                hint := f.hint.toNat, op := o.id }
            let (s, r) := if a.mt == 4 then readMt4 s o line f.acquires else readLine s o.core line (sectorsAt mine line size) how
            match r with
            | some (bs, p) => finish (deliver s o line size bs p)
            | none => if a.mt == 4 then settle s else (settle s).park .loadDataReturn)

/-! ### The issue of a load -/

/-- The lines of a load that the channels of the core's own die must bring, with their sectors: no L1 and no slice holds them. -/
def channelLines (s : State) (o : Op) (size : Nat) (ls : List Nat) : List (Nat × BitVec 4) :=
  let mine := o.lanes.filter LaneAcc.pending
  (ls.map (fun ln => (ln, sectorsAt mine ln size))).filter (fun x =>
    isHomeDie s (coreDie o.core) x.1 && mine.any (fun a => a.line == x.1 && a.mt != 4) && ((s.core o.core).line? x.1).isNone &&
    pointReadable s (coreDie o.core) x.1 && !sectorsReady s x.1 x.2)

/-- Posts the data return of each line of a load, whose channel requests enter as one group (R57). A load with no lane to wait for
is over at once. -/
def startLoad (s : State) (o : Op) (size : Nat) : State :=
  let ls := linesOf (o.lanes.filter LaneAcc.pending)
  let s := addOp s 2 o
  if ls.isEmpty then finishLoad s o
  else
    let s := chanGroup s (channelLines s o size ls) o.id o.core o.hatch
    ls.foldl (fun s ln => s.post .loadDataReturn { op := o.id, line := ln }) s

/-- A load of memory: alignment, translation with precise faults, and the issue (R376, R377). -/
def loadFrom (op : Nat) (f : MForm) (what : Instr) (s : State) : Host.Outcome State Fault Refusal :=
  issueM op f (fun c0 s =>
    let once := memOnce op f
    let c := c0.forM op f
    if c.act == 0 then finish (retire s c.inst c.slot c.p.pc 16)
    else if c.h.countFull 2 then stall s
    else
      let as := laneAddrs op f c
      match alignFault (accSize op f) as with
      | some t => c.trap s (t.ofOnce once c0.act)
      | none =>
        let (s, accs) := resolveLanes s c.h.core (ctxOf s c.h) c.kern .load (op == 0xAA)
          (as.map (fun a => LaneAcc.start a.1 a.2 []))
        match (if op == 0xB2 then none else c0.faultLanes s once accs) with
        | some s => s
        | none =>
          let sh := mShape op f
          beginAsync s c sh (allocWrites sh (op == 0xAB)) 16 (fun s =>
            let (id, s) := s.fresh
            startLoad s { newOp s c what id with lanes := accs } (accSize op f))) s

def execLd (f : MForm) (s : State) : Host.Outcome State Fault Refusal := loadFrom 0x9F f (.ld f) s
def execLdb (f : MForm) (s : State) : Host.Outcome State Fault Refusal := loadFrom 0xA1 f (.ldb f) s
def execLdu (f : MForm) (s : State) : Host.Outcome State Fault Refusal := loadFrom 0xA8 f (.ldu f) s
def execLdc (f : MForm) (s : State) : Host.Outcome State Fault Refusal := loadFrom 0xAA f (.ldc f) s
def execLdiv (f : MForm) (s : State) : Host.Outcome State Fault Refusal := loadFrom 0xAB f (.ldiv f) s
def execLdt (f : MForm) (s : State) : Host.Outcome State Fault Refusal := loadFrom 0xB2 f (.ldt f) s

/-! ### Prefetch (R385) -/

/-- A translation that sets no A or D bit and fills no TLB. -/
def peekXlate (s : State) (core ctx : Nat) (kern : Bool) (va : Nat) : State × XRes :=
  if !canonical va then (s, .fault tcTranslation 0x01 0)
  else
    let va := va % 2 ^ 52
    match tlbAt s core ctx va with
    | some e => (s, judge s kern .load va e 0)
    | none => match walkFor s (coreDie core) ctx va with
      | (s, .fault code cause level) => (s, .fault code cause level)
      | (s, .poison pa level) => (s, .poison pa level)
      | (s, .leaf _ pte level) => (s, judge s kern .load va (tlbOfLeaf s ctx va pte level) level)

/-- Lanes that would fault, and lanes of MT 4, are dropped. -/
def prefetchLanes (s : State) (c : Iss) : List (Nat × Nat) → State × List LaneAcc
  | [] => (s, [])
  | a :: r =>
    let (s, x) := peekXlate s c.h.core (ctxOf s c.h) c.kern a.2
    let acc := (LaneAcc.start a.1 a.2 []).resolve s (ctxOf s c.h) x
    let (s, xs) := prefetchLanes s c r
    (s, if acc.fault != 0 || acc.mt == 4 then xs else acc :: xs)

def execPrf (f : MForm) (s : State) : Host.Outcome State Fault Refusal :=
  issueM 0xAD f (fun c0 s =>
    let c := c0.forM 0xAD f
    if c.act == 0 then finish (retire s c.inst c.slot c.p.pc 16)
    else if c.h.countFull 2 then stall s
    else
      let (s, accs) := prefetchLanes s c (laneAddrs 0xAD f c)
      beginAsync s c (mShape 0xAD f) [] 16 (fun s =>
        let (id, s) := s.fresh
        startLoad s { newOp s c (.prf f) id with lanes := accs } (accSize 0xAD f))) s

/-! ### Loads of local store (R379 to R381) -/

/-- A local-store load: alignment, range, and the values, all at the issue (R211). `vals` gives the registers written. -/
def localLoad (op : Nat) (f : MForm) (size align : Nat) (addrs : Iss → List (Nat × Nat)) (val : State → Iss → List Write)
    (s : State) : Host.Outcome State Fault Refusal :=
  issueM op f (fun c0 s =>
    let once := memOnce op f
    let c := c0.forM op f
    if c.act == 0 then finish (retire s c.inst c.slot c.p.pc 16)
    else if c.h.countFull 2 then stall s
    else
      let as := addrs c
      match alignFault align as with
      | some t => c.trap s (t.ofOnce once c0.act)
      | none => match preciseFault c0 once (localFaults c.rcd size as) with
        | some t => c.trap s t
        | none =>
          if as.any (fun a => localPoison s c.h.core c.h.block a.2 size) then finish (poisonKill s c.inst c.p.pc 0) else
          let sh := mShape op f
          let s := if f.acquires then acquireCore s c.h.core else s
          match allocTest s c ((val s c).foldl (applyWrite c.prot 0) (c.h.freeLast sh, c.p)).1 with
          | .dry => stallDry s
          | _ =>
            let s := noteDone s c.inst 2
            complete s (c.refresh s) sh (physMask c.prot c.act) (val s c) 0 16) s

def localBytesOf (s : State) (c : Iss) (a n : Nat) : List Byte := localRead s c.h.core c.h.block a n

def execLdl (f : MForm) (s : State) : Host.Outcome State Fault Refusal :=
  let size := twfBytes f.twf.toNat
  localLoad 0xA3 f size size (fun c => (lanesOf c.act).map (fun j => (j, localAddr c f j)))
    (fun s c => [.reg f.d (mRule 0xA3 f).d.width (fun l =>
      extend f.twf.toNat (localBytesOf s c (localAddr c f (visLane c.prot l)) size))]) s

/-- `ldlb`: one value for every active lane. -/
def execLdlb (f : MForm) (s : State) : Host.Outcome State Fault Refusal :=
  let size := twfBytes f.twf.toNat
  localLoad 0xA5 f size size (fun c => (lanesOf c.act).map (fun j => (j, localAddr c f 0)))
    (fun s c => [.reg f.d (mRule 0xA5 f).d.width (fun _ => extend f.twf.toNat (localBytesOf s c (localAddr c f 0) size))]) s

/-- Registers of `ldlx` and `stlx`. -/
def groupCount (f : MForm) : Nat := f.opx.toNat % 8 + 1

/-- Where the words of a visible lane begin in lane-major order (R380). -/
def laneMajor (c : Iss) (f : MForm) (j : Nat) : Nat := (localAddr c f 0 + 4 * (j * groupCount f)) % 2 ^ 32

def execLdlx (f : MForm) (s : State) : Host.Outcome State Fault Refusal :=
  let n := groupCount f
  localLoad 0xA6 f (4 * n) 4 (fun c => (lanesOf c.act).map (fun j => (j, laneMajor c f j)))
    (fun s c => (List.range n).map (fun k => Write.reg (f.d + BitVec.ofNat 8 k) 1 (fun l =>
      bytesNat (localBytesOf s c (laneMajor c f (visLane c.prot l) + 4 * k) 4)))) s

end Sys2Proof.Machine
end

