-- ==== Sys2Proof/Machine/Stores.lean ====
section
/-! DEFINITION. Stores (17 R379, R386; 08 R190; 04 R74 to R79, R85, R90): the issue, translation after it, and the events that
commit a store: WALK_COMPLETE, STORE_FAULT, WRITE_PERMISSION_REQUEST, MASK_EXTENSION, STORE_COMMIT. -/

namespace Sys2Proof.Machine

/-! ### Walks for stores (R65, R67) -/

/-- Translates the lanes that need no walk, and attaches the others to walks. -/
def resolveHits (s : State) (core ctx : Nat) (kern : Bool) (k : AccKind) (op : Nat) : List LaneAcc → State × List LaneAcc
  | [] => (s, [])
  | a :: r =>
    let (s, x) := if a.tr then (s, a)
      else if needsWalk s core ctx kern k a.va then (attachWalk s core ctx a.va [op] [], a)
      else
        let (s, x) := translateNow s core ctx kern k a.va
        (s, a.resolve s ctx x)
    let (s, xs) := resolveHits s core ctx kern k op r
    (s, x :: xs)

/-! ### The parts of a store -/

/-- Where a translated lane is performed: at its line's home or beyond, or in the L1. -/
def homeStore (o : Op) (a : LaneAcc) : Bool :=
  a.mt == 1 || a.mt == 2 || a.mt == 4 || a.watch || (match o.what with
    | .dsc _ => true
    | .mst _ => true
    | _ => false)

/-- The events that perform the translated lanes of a store: STORE_FAULT for the faulting ones, and one for each line. -/
def dispatchStore (s : State) (o : Op) : State :=
  let s := if o.lanes.any (fun a => a.fault != 0) then s.post .storeFault { op := o.id } else s
  let good := o.lanes.filter LaneAcc.pending
  (linesOf good).foldl (fun s ln =>
    if (good.filter (fun a => a.line == ln)).any (homeStore o) then s.post .storeCommit { src := .op o.id ln, op := o.id, line := ln }
    else s.post .writePermissionRequest { op := o.id, line := ln }) s

/-- A store is over when no lane is left to perform or to record. -/
def storeOver (o : Op) : Bool := o.lanes.all (·.done)

def finishStore (s : State) (o : Op) : State :=
  if storeOver o then endOp (if o.acquires then acquireCore s o.core else s) o else s.updOp o.id (fun _ => o)

/-- Translates what can be translated; once every lane is, the store goes on (R190). -/
def advanceOp (s : State) (o : Op) : State :=
  let (s, lanes) := resolveHits s o.core o.ctx (ctxKernel s o.ctx) .store o.id o.lanes
  let o := { o with lanes := lanes }
  let s := s.updOp o.id (fun _ => o)
  if lanes.any (fun a => !a.tr) then s
  else match lanes.find? (fun a => a.fault == tcPoison) with
    | some a => poisonKill (endOp s o) o.hatch o.pc a.pa
    | none => dispatchStore s o

/-! ### Page walks in flight (R64, R67, R68) -/

/-- Translates lanes for which the walk of their page has come to its end. -/
def walkedLanes (s : State) (o : Op) : List LaneAcc → State × List LaneAcc
  | [] => (s, [])
  | a :: r =>
    let (s, x) := translateNow s o.core o.ctx (ctxKernel s o.ctx) .store a.va
    let (s, xs) := walkedLanes s o r
    (s, a.resolve s o.ctx x :: xs)

/-- WALK_COMPLETE: a stale walk starts again once the invalidations of its die are over; another serves everything attached to it,
which sets A and D and fills the TLBs. -/
def execWalkComplete (s : State) : Host.Outcome State Fault Refusal :=
  .next (match s.tr.walks.find? (fun w => w.id == s.arg.walk) with
    | none => finish s
    | some w =>
      if w.stale then
        let fresh := fun (w : Walk) => { w with stale := false }
        finish (({ s with tr := { s.tr with walks := updWhere (fun x => x.id == w.id) fresh s.tr.walks } } : State).post
          .walkComplete { walk := w.id })
      else if s.tr.shoots.any (fun x => x.die == w.die && shootWalk x.kind w) then s.park .walkComplete
      else
        let s : State := { s with tr := { s.tr with walks := s.tr.walks.filter (fun x => x.id != w.id) } }
        let s := startQueued s w.die
        let serve := fun (s : State) (id : Nat) => match s.op? id with
          | none => s
          | some o =>
            let (s, done) := walkedLanes s o (o.lanes.filter (fun a => !a.tr && w.covers w.die w.ctx (a.va % 2 ^ 52)))
            let put := fun (a : LaneAcc) => (done.find? (fun b => b.lane == a.lane && b.va == a.va)).getD a
            advanceOp s { o with lanes := o.lanes.map put }
        finish (w.misses.foldl (endMiss w.ctx) (w.ops.foldl serve s)))

/-- SHOOTDOWN_COMPLETE (R68): no stale walk of the die is left; a path that waits in `tlbinv` goes on with the last die. -/
def execShootdownComplete (s : State) : Host.Outcome State Fault Refusal :=
  let die := s.arg.die
  let n := s.arg.shoot
  .next (match s.tr.shoots.find? (fun x => x.die == die && x.id == n) with
    | none => finish s
    | some x =>
      if s.tr.walks.any (fun w => w.die == die && w.stale && shootWalk x.kind w) then s.park .shootdownComplete
      else
        let s : State := { s with tr := { s.tr with shoots := s.tr.shoots.filter (fun y => !(y.die == die && y.id == n)) } }
        let waiting := (allPaths s).filter (fun y => y.2.2.wait == .shoot n)
        finish (if shootBusy s n then s else waiting.foldl (fun s y => retire s y.1.inst y.2.1 y.2.2.pc 8) s))

/-- The kind of an operation's records (R190). -/
def recordKind (i : Instr) : Nat := match i with
  | .atom _ => 3
  | .atomf _ => 3
  | .atomd _ => 3
  | .atomflush _ => 3
  | .semv _ => 3
  | .cas _ => 3
  | .cas128 _ => 3
  | .sema _ => 3
  | .casl _ => 3
  | .atoml _ => 3
  | .atomfl _ => 3
  | .mst _ => 2
  | _ => 0

/-- STORE_FAULT (R190, R193): the faulting lanes write nothing and make their record. -/
def execStoreFault (s : State) : Host.Outcome State Fault Refusal :=
  .next (match s.op? s.arg.op with
    | none => finish s
    | some o =>
      let s := recordFaults s o (recordKind o.what) (o.lanes.filter (fun a => a.fault != 0 && !a.done))
      let mark := fun (a : LaneAcc) => if a.fault != 0 then { a with done := true } else a
      finish (finishStore s { o with lanes := o.lanes.map mark }))

/-! ### Committing to a line -/

/-- The bytes that a store's lanes put into a line, later lanes over earlier ones (R204), and their mask. -/
def storeImage (as : List LaneAcc) : List Byte × BitVec 128 :=
  as.foldl (fun x a =>
    let m := maskOf (offsetInLine a.pa) a.bytes.length
    (maskBytes x.1 (lineImage (offsetInLine a.pa) a.bytes) m, x.2 ||| m)) (List.replicate 128 0, 0)

/-- The raiser of a store's triggers. -/
def Op.raiser (o : Op) (as : List LaneAcc) : Raiser :=
  { hatch := o.hatch, core := o.core, pc := o.pc, va := (as.head?).elim 0 (·.va), lanes := laneSet (as.map (·.lane))
    kind := recordKind o.what, stores := as.map (fun a => (a.pa, a.bytes.length)) }

/-- The commit's trigger: none for a store made again by a replay (R135). -/
def Op.trig (o : Op) (as : List LaneAcc) : Option (Nat × Option Raiser) := if o.silent then none else some (o.depth + 1, some (o.raiser as))

/-- The release kind noted at issue: 0 none, 1 narrow, 2 wide (R77, R79). -/
def Op.relKind (o : Op) : Nat := o.vals.getD 0 0

def markDone (o : Op) (as : List LaneAcc) : Op :=
  { o with lanes := o.lanes.map (fun a => if as.contains a then { a with done := true } else a) }

/-- Puts bytes into a writable L1 line (R74); `quiet` for a store made again by a replay (R135). -/
def l1Store (s : State) (c line : Nat) (bs : List Byte) (mask : BitVec 128) (depth : Nat) (src : Raiser) (narrow quiet : Bool) : State :=
  let up := fun (l : L1Line) => { l with
    bytes := maskBytes l.bytes bs mask
    dirty := l.dirty ||| mask
    mask := if l.kind == .privatised then l.mask ||| mask else l.mask
    poison := poisonAfter l.poison mask
    narrow := l.narrow || narrow
    quiet := if quiet then l.quiet ||| mask else l.quiet &&& ~~~mask
    depth := if l.dirty == 0 then depth else max l.depth depth
    src := if l.dirty == 0 || l.depth < depth || l.src.isNone then some src else l.src
    use := s.clock }
  wakeLine (s.updCore c (fun k => k.updLine line up)) line

/-- A wide release of a location: with room on the list its core is listed once `publish` has published it; else the core drains
first (R77). -/
def wideRelease (s : State) (c line : Nat) (publish : State → State) : State :=
  if lazyRoom s c line then lazyRelease (publish s) c line else publish (drainCore s c)

/-- The effect of a release on its location, held in an L1 (R77, R79): a narrow one records what it covers. -/
def releaseLine (s : State) (c line kind : Nat) : State :=
  if kind == 0 then s
  else if kind == 1 then noteRelease s c line
  else wideRelease s c line (fun s => publishRaw s c line)

/-- A store performed in the L1. -/
def commitL1 (s : State) (o : Op) (line : Nat) (as : List LaneAcc) : State :=
  let (bs, mask) := storeImage as
  let s := l1Store s o.core line bs mask o.depth (o.raiser as) (o.relKind == 1) o.silent
  finishStore (releaseLine s o.core line o.relKind) (markDone o as)

def otherWriters (s : State) (c line : Nat) : List Nat :=
  (writersAt s (pointDies (coreDie c) line) line).filter (fun o => o != c)

/-- The bytes a writable copy counts as its own: the recorded mask of a privatised copy, else what is dirty (R75). -/
def ownMask (s : State) (c line : Nat) : BitVec 128 :=
  ((s.core c).line? line).elim 0 (fun l => if l.kind == .privatised then l.mask ||| l.dirty else l.dirty)

def mergePoint (s : State) (c line : Nat) : State := mergeDie s (pointDies (coreDie c) line) line

/-- Gives a core a writable copy with the point's data (R74, R75); read copies elsewhere fall. -/
def grantWrite (s : State) (c line : Nat) (kind : L1Kind) (mask : BitVec 128) : State :=
  let d := pointDie (coreDie c) line
  let (bs, p) := pointData s d line
  let drop := fun (s : State) (x : Nat) =>
    if x != c && ((s.core x).line? line).elim false (fun l => l.kind == .read) then s.updCore x (fun k => k.dropLine line) else s
  let s := (holdersAt s (pointDies (coreDie c) line) line).foldl drop s
  l1Put s c (L1Line.fresh line kind bs p mask) false

/-- Holders of a shared line are recorded with their masks as privatised copies. -/
def privatise (s : State) (c line : Nat) : State :=
  s.updCore c (fun k => k.updLine line (fun l => { l with
    kind := .privatised, mask := if l.kind == .privatised then l.mask ||| l.dirty else l.dirty }))

/-- Whether the point of a core's die may grant permission, with what it must ask for first (R74, R82, R88). -/
def pointGrants (s : State) (c line : Nat) (whole : Bool) : State × Bool :=
  let d := pointDie (coreDie c) line
  if isHomeDie s d line && hostHolds s line true then (sendBisnp s line true, false)
  else if !pointExclusive s d line then
    (askHome s d line (if (agentAt s d line).elim false (fun a => a.st == .s || a.st == .o) then .upg else .rdx), false)
  else if !isHomeDie s d line then (s, true)
  else match dirRoom s line with
    | (s, false) => (s, false)
    | (s, true) =>
      if whole then (s, true)
      else if sectorsReady s line 0xF then (chanHit s line 0xF, true)
      else (chanAsk s line 0xF (2 ^ 50 + c) true c 0, false)

/-- A store through a mapping of a failed package's memory (R85): each lane's store is counted (entry 67). -/
def dropDead (s : State) (o : Op) (as : List LaneAcc) : State :=
  finishStore (updCoh s (fun c => { c with deadHome := satAdd c.deadHome as.length })) (markDone o as)

/-- The lanes of an operation still to be performed in a line. -/
def Op.lanesAt (o : Op) (line : Nat) : List LaneAcc := o.lanes.filter (fun a => a.pending && a.line == line)

/-- WRITE_PERMISSION_REQUEST (R74, R75): the L1 holds the line writable, or gets permission, or causes a merge. -/
def execWritePermissionRequest (s : State) : Host.Outcome State Fault Refusal :=
  .next (match s.op? s.arg.op with
    | none => finish s
    | some o =>
      let line := s.arg.line
      let as := o.lanesAt line
      if as.isEmpty then finish s
      else if lineDead s line then finish (dropDead s o as)
      else if !(s.core o.core).sfrWait.isEmpty || olderBlocks s o line 0 then s.park .writePermissionRequest
      else
        let mask := (storeImage as).2
        match ((s.core o.core).line? line).filter (fun l => l.kind.writable) with
        | some l =>
          if l.kind == .privatised && (l.mask ||| l.dirty ||| mask) != (l.mask ||| l.dirty) then
            finish (s.post .maskExtension { op := o.id, line := line })
          else finish (commitL1 s o line as)
        | none =>
          match pointGrants s o.core line (mask == BitVec.allOnes 128) with
          | (s, false) => (settle s).park .writePermissionRequest
          | (s, true) =>
            let others := otherWriters s o.core line
            if others.isEmpty then finish (commitL1 (grantWrite s o.core line .exclusive 0) o line as)
            else if others.length < 8 && others.all (fun c => ownMask s c line &&& mask == 0) then
              let s := others.foldl (fun s c => privatise s c line) s
              finish (commitL1 (grantWrite s o.core line .privatised mask) o line as)
            else
              let s := mergePoint s o.core line
              finish (commitL1 (grantWrite s o.core line .exclusive 0) o line as))

/-- MASK_EXTENSION (R75). -/
def execMaskExtension (s : State) : Host.Outcome State Fault Refusal :=
  .next (match s.op? s.arg.op with
    | none => finish s
    | some o =>
      let line := s.arg.line
      let as := o.lanesAt line
      let mask := (storeImage as).2
      let held := ((s.core o.core).line? line).elim false (fun l => l.kind == .privatised)
      if as.isEmpty then finish s
      else if !(s.core o.core).sfrWait.isEmpty then s.park .maskExtension
      else if !held then finish (s.post .writePermissionRequest { op := o.id, line := line })
      else if (otherWriters s o.core line).all (fun c => ownMask s c line &&& mask == 0) then finish (commitL1 s o line as)
      else finish ((mergePoint s o.core line).post .writePermissionRequest { op := o.id, line := line }))

/-! ### Commits at the home (R72, R73, R90, R91) -/

/-- Whether a line's home, or the package's host agent slice, may perform an access now, with what it must ask for. -/
def homeReady (s : State) (line : Nat) : State × Bool :=
  if lineIsHost line then
    match agentAt s (hostDie line) line with
    | some a => if a.st == .m || a.st == .e then (s, true) else (askHome s (hostDie line) line (if a.st.holds then .upg else .rdx), false)
    | none => (askHome s (hostDie line) line .rdx, false)
  else if (dirAt s line).st.busy then (s, false)
  else if hostHolds s line true then (sendBisnp s line true, false)
  else (s, true)

/-- A hatch has written through MT 4 on a port (R90): a zero-length read sent before does not answer for this write. -/
def noteMt4 (s : State) (hatch : Nat) (p : Port) : State :=
  let late := fun (o : Op) => o.hatch == hatch && o.what == .nop .l64 1 && o.vals == [Port.idx p]
  let s : State := { s with ops := updWhere late (fun o => { o with prog := 1 }) s.ops }
  s.updHatch hatch (fun h => { h with mt4Ports := h.mt4Ports ||| BitVec.ofNat 2 (2 ^ (Port.idx p)) })

/-- Posted writes through MT 4, in lane order (R90). A release drains the core first. -/
def commitMt4 (s : State) (o : Op) (as : List LaneAcc) (data : LaneAcc → List Byte) : State :=
  let s := if o.relKind != 0 then drainCore s o.core else s
  let s := as.foldl (fun s a =>
    let p := portOfLine a.line
    let s := s.emit (.pcieWrite p a.pa (data a))
    let s := s.updCore o.core (fun k => { k with l1 := k.l1.filter (fun l => !(l.kind == .mt4 && l.line == a.line)) })
    noteMt4 s o.hatch p) s
  finishStore s (markDone o as)

/-- Whether lanes are stores of MT 1, or are performed like them (R72, R73). -/
def throughL1 (as : List LaneAcc) : Bool := as.any (fun a => a.mt == 1 || a.watch && a.mt != 2)

/-- A store of MT 1 updates the L1 copy of its core: the copy that it had is put back with the line's new bytes (R72). -/
def keepCopy (before s : State) (c line : Nat) : State :=
  let had := ((before.core c).line? line).elim false (fun l => l.kind == .read)
  let d := coreDie c
  if !had then s
  else if lineIsHost line || isHomeDie s d line then
    l1Put s c (L1Line.fresh line .read (pointData s (pointDie d line) line).1 (pointData s (pointDie d line) line).2 0) false
  else if (agentAt s d line).isSome || (dirAt s line).st != .unc then s
  else
    let data : LineData := { bytes := homeRead s line, poison := homePoison s line, depth := 0 }
    let s := setDir (setAgent s ⟨d, line, .s, data, false, none⟩) { dirAt s line with st := .sh, sharers := [.agent s.fab.chipId d] }
    l1Put s c (L1Line.fresh line .read data.bytes data.poison 0) false

/-- What a store puts into a line: for `dsc` its old contents or zeros, as the device chooses (R218). -/
def storeOf (s : State) (o : Op) (as : List LaneAcc) : State × Option (List Byte × BitVec 128) :=
  match o.what with
  | .dsc _ =>
    let (pick, s) := s.choose 2
    (s, if pick == 1 then some (List.replicate 128 0, BitVec.allOnes 128) else none)
  | _ => (s, some (storeImage as))

def isDsc : Instr → Bool
  | .dsc _ => true
  | _ => false

/-- A store performed at the home of its line, here or at the host agent slice: write-through, uncached or watched, or a discard
(R73, R218). -/
def commitHome (s : State) (o : Op) (line : Nat) (as : List LaneAcc) : State :=
  let before := s
  let store := fun (s : State) =>
    let s := takeLine s line
    match storeOf s o as with
    | (s, none) => s
    | (s, some (bs, mask)) =>
      let quiet := if isDsc o.what || o.silent then mask else 0
      match (if lineIsHost line then agentAt s (hostDie line) line else none) with
      | some _ => pointWrite s (hostDie line) line bs mask o.depth (some (o.raiser as)) quiet
      | none => homeCommit s line bs mask (some (o.depth + 1, some (o.raiser as))) quiet
  let s := if o.relKind != 0 then wideRelease s o.core line store else store s
  finishStore (if throughL1 as then keepCopy before s o.core line else s) (markDone o as)

/-- A line whose home is in another package. -/
def lineFar (s : State) (line : Nat) : Bool := !lineIsOwn s line && !lineIsHost line

/-- A store to a line homed on another package goes there (R73, R141), and is done when the home acknowledges it. -/
def sendStore (s : State) (o : Op) (line : Nat) (as : List LaneAcc) : State :=
  match storeOf s o as with
  | (s, none) => finishStore s (markDone o as)
  | (s, some (bs, mask)) =>
    let quiet := if isDsc o.what || o.silent then mask else 0
    let s := if o.relKind != 0 && !lazyRoom s o.core line then drainCore s o.core else s
    let s := sendChip s .req (.router (coreRouter o.core))
      { chip := lineChip line, kind := 4, who := .agent s.fab.chipId (coreDie o.core), line := line, mask := mask, op := o.id
        data := { bytes := bs, poison := 0, depth := o.depth + 1, quiet := quiet } }
    s.updOp o.id (fun _ => { o with vals := o.vals ++ [line] })

/-- Whether a store to a line of another package is under way. -/
def Op.sentTo (o : Op) (line : Nat) : Bool := (o.vals.drop 1).contains line

/-- The home has acknowledged: copies of the line that are still here take the bytes (R72), and a release is listed (R77). -/
def storeAcked (s : State) (o : Op) (line : Nat) (as : List LaneAcc) : State :=
  let (bs, mask) := if isDsc o.what then (List.replicate 128 0, BitVec.allOnes 128) else storeImage as
  let s := s.updCore o.core (fun k => k.updLine line (fun l => if l.kind == .read then { l with bytes := maskBytes l.bytes bs mask } else l))
  let s := match agentAt s (coreDie o.core) line with
    | some a => if a.st == .s then setAgent s { a with data := { a.data with bytes := maskBytes a.data.bytes bs mask } } else s
    | none => s
  let s := if o.relKind != 0 && lazyRoom s o.core line then lazyRelease s o.core line else s
  finishStore (wakeLine s line) (markDone o as)

/-- STORE_COMMIT of a store instruction's line; the atomics are in Atomics.lean. -/
def commitStoreLine (s : State) (o : Op) (line : Nat) : State :=
  let as := o.lanesAt line
  match as with
  | [] => finish s
  | a :: _ =>
    if lineDead s line then finish (dropDead s o as)
    else if !(s.core o.core).sfrWait.isEmpty || olderBlocks s o line a.mt then s.park .storeCommit
    else if a.mt == 4 then
      match o.what with
      | .dsc _ =>
        let (pick, s) := s.choose 2
        finish (if pick == 1 then commitMt4 s o as (fun _ => List.replicate 128 0) else finishStore s (markDone o as))
      | _ => finish (commitMt4 s o as (·.bytes))
    else if lineFar s line then finish (if o.sentTo line then storeAcked s o line as else sendStore s o line as)
    else match homeReady s line with
      | (s, false) => (settle s).park .storeCommit
      | (s, true) => finish (commitHome s o line as)

/-! ### The issue of a store -/

/-- A store's data, low bytes first, by visible lane. -/
def storeData (op : Nat) (f : MForm) (c : Iss) (j : Nat) : List Byte :=
  let l := physLane c.prot 0 j
  let size := accSize op f
  if op == 0xAE || op == 0xAF then List.replicate size 0
  else if op == 0xAC then
    let w := (mRule op f).d.width
    let ft := if w == 1 then fmtF32 else fmtF64
    let i := match taggedAt c f.d w 0 l with
      | some i => i
      | none => (Ivl.ofPoint ft (c.val f.d w 0 0 l)).1
    natBytes (4 * w) i.lo ++ natBytes (4 * w) i.hi
  else natBytes size (c.val f.d (mRule op f).d.width 0 0 l)

/-- The flags of a store: `stiv` of a plain NaN sets INV (R356, R383). -/
def storeFlags (op : Nat) (f : MForm) (c : Iss) : FpFlags :=
  if op == 0xAC then
    let w := (mRule op f).d.width
    let at_ := fun (j : Nat) =>
      let l := physLane c.prot 0 j
      if (taggedAt c f.d w 0 l).isSome then flNone else (Ivl.ofPoint (if w == 1 then fmtF32 else fmtF64) (c.val f.d w 0 0 l)).2
    (lanesOf c.act).foldl (fun a j => a ||| at_ j) flNone
  else flNone

/-- How far a release reaches: a store of a narrow scope, or the first after a narrow release fence, is narrow (R79, R393). -/
def relOf (f : MForm) (c : Iss) : Nat := if f.releases then (if f.scope.toNat < 2 then 1 else 2) else if c.h.fenceRel then 1 else 0

/-- A store to memory: alignment is precise, everything else follows the issue (R190, R376, R377). -/
def storeTo (op : Nat) (f : MForm) (what : Instr) (s : State) : Host.Outcome State Fault Refusal :=
  issueMS op f (fun c0 s =>
    let c := c0.forM op f
    if c.act == 0 then finish (retire s c.inst c.slot c.p.pc 16)
    else if c.h.countFull 2 then stall s
    else
      let as := laneAddrs op f c
      match alignFault (accSize op f) as with
      | some t => c.trap s (t.ofOnce (memOnce op f) c0.act)
      | none =>
        match (if f.releases then releaseReady s c.h else (s, true)) with
        | (s, false) => stall s
        | (s, true) =>
          let accs := as.map (fun a => LaneAcc.start a.1 a.2 (storeData op f c a.1))
          beginAsync s c (mShape op f) [] 16 (fun s =>
            let (id, s) := s.fresh
            let o := { newOp s c what id with lanes := accs, vals := [relOf f c] }
            let s := s.updHatch c.inst (fun h =>
              { h with fenceRel := false, clean := h.clean && !f.releases, fpflags := h.fpflags ||| storeFlags op f c })
            advanceOp (addOp s 2 o) o)) s

def execSt (f : MForm) (s : State) : Host.Outcome State Fault Refusal := storeTo 0xA0 f (.st f) s
def execStb (f : MForm) (s : State) : Host.Outcome State Fault Refusal := storeTo 0xA2 f (.stb f) s
def execStu (f : MForm) (s : State) : Host.Outcome State Fault Refusal := storeTo 0xA9 f (.stu f) s
def execStiv (f : MForm) (s : State) : Host.Outcome State Fault Refusal := storeTo 0xAC f (.stiv f) s
def execStz (f : MForm) (s : State) : Host.Outcome State Fault Refusal := storeTo 0xAE f (.stz f) s
def execDsc (f : MForm) (s : State) : Host.Outcome State Fault Refusal := storeTo 0xAF f (.dsc f) s

/-! ### Stores to local store (R180, R211, R380) -/

/-- A local-store store: out-of-range lanes make a record of kind 0, the others are written in lane order. -/
def localStore (op : Nat) (f : MForm) (what : Instr) (size align : Nat) (addrs : Iss → List (Nat × Nat))
    (data : Iss → Nat → List Byte) (s : State) : Host.Outcome State Fault Refusal :=
  issueMS op f (fun c0 s =>
    let c := c0.forM op f
    if c.act == 0 then finish (retire s c.inst c.slot c.p.pc 16)
    else if c.h.countFull 2 || !(s.core c.h.core).sfrWait.isEmpty then stall s
    else
      let as := addrs c
      match alignFault align as with
      | some t => c.trap s (t.ofOnce (memOnce op f) c0.act)
      | none =>
        match (if f.releases then releaseReady s c.h else (s, true)) with
        | (s, false) => stall s
        | (s, true) =>
          let bad := localFaults c.rcd size as
          let s := (as.filter (fun a => localOk c.rcd a.2 size)).foldl
            (fun s a => localWrite s c.h.core c.h.block a.2 (data c a.1)) s
          let s := recordFaults s { newOp s c what 0 with id := 0 } 0 bad
          let s := noteDone s c.inst 2
          let s := s.updHatch c.inst (fun h => ({ h with clean := h.clean && !f.releases } : Hatch).freeLast (mShape op f))
          finish (retire s c.inst c.slot c.p.pc 16)) s

def execStl (f : MForm) (s : State) : Host.Outcome State Fault Refusal :=
  let size := twfBytes f.twf.toNat
  localStore 0xA4 f (.stl f) size size (fun c => (lanesOf c.act).map (fun j => (j, localAddr c f j)))
    (fun c j => natBytes size (c.val f.d (mRule 0xA4 f).d.width 0 0 (physLane c.prot 0 j))) s

def execStlx (f : MForm) (s : State) : Host.Outcome State Fault Refusal :=
  let n := groupCount f
  localStore 0xA7 f (.stlx f) (4 * n) 4 (fun c => (lanesOf c.act).map (fun j => (j, laneMajor c f j)))
    (fun c j => natBytes (4 * n) (c.val f.d n 0 0 (physLane c.prot 0 j))) s

end Sys2Proof.Machine
end

