-- ==== Sys2Proof/Machine/Atomics.lean ====
section
/-! DEFINITION. Atomics, compare-and-swap and the deterministic adds (17 R389 to R392, 09 R219, R220; 04 R91 to R93), and the
events STORE_COMMIT and MT4_COMPLETION. -/

namespace Sys2Proof.Machine

/-! ### What an atomic computes -/

/-- The new value of an integer atomic of w bits (R389). -/
def atomNew (op w : Nat) (signed : Bool) (old x : Nat) : Nat :=
  let less := if signed then decide (sxt w x < sxt w old) else decide (x < old)
  match op with
  | 0 => (old + x) % 2 ^ w
  | 1 => (old + 2 ^ w - x) % 2 ^ w
  | 2 => if less then x else old
  | 3 => if less then old else x
  | 4 => Nat.land old x
  | 5 => Nat.lor old x
  | 6 => Nat.xor old x
  | 7 => x
  | 8 => if x ≤ old then 0 else old + 1
  | _ => if old == 0 || x < old then x else old - 1

/-- One element of a float atomic (R390): no flag, subnormals honoured. -/
def atomfElem (ft : Fmt) (op old x : Nat) : Nat :=
  if op == 0 then (fAdd ft .rne false old x).1 else (fMinMax ft (op == 3) false [old, x]).1

def atomfNew (op t old x : Nat) : Nat :=
  let ft := fmtOf t
  let w := fWidth t
  (List.range (fCount t)).foldl (fun a j =>
    a + atomfElem ft op (old / 2 ^ (w * j) % 2 ^ w) (x / 2 ^ (w * j) % 2 ^ w) % 2 ^ w * 2 ^ (w * j)) 0

/-- Bytes of one atomic access. -/
def atomBytes (op : Nat) (f : MForm) : Nat := if op == 0xBA then 16 else 4 * tyRegs f.twf.toNat

/-- What an atomic writes for an old value, X and D; none when it writes nothing. -/
def atomResult (op : Nat) (f : MForm) (old x d : Nat) : Option Nat :=
  let t := f.twf.toNat
  if op == 0xB3 || op == 0xB7 then some (atomNew (f.opx.toNat % 16) (32 * tyRegs t) (isSigned t) old x)
  else if op == 0xB4 || op == 0xB8 then some (atomfNew (f.opx.toNat % 16) t old x)
  else if op == 0xC1 then some ((old + x) % 2 ^ (32 * tyRegs t))
  else if old == x then some d else none

/-! ### Operands by lane -/

/-- X and D of a visible lane. -/
def xOf (op : Nat) (f : MForm) (c : Iss) (j : Nat) : Nat := c.val f.x (mRule op f).x.width 0 0 (physLane c.prot 0 j)
def dOf (op : Nat) (f : MForm) (c : Iss) (j : Nat) : Nat :=
  if mReadsD op then c.val f.d (mRule op f).d.width 0 0 (physLane c.prot 0 j) else 0

/-- What an operation captured for a lane: X, then D. -/
def Op.xAt (o : Op) (a : LaneAcc) : Nat := (o.vecs.getD 0 []).getD a.lane 0
def Op.dAt (o : Op) (a : LaneAcc) : Nat := (o.vecs.getD 1 []).getD a.lane 0

/-- The captured operands, by visible lane. -/
def captured (op : Nat) (f : MForm) (c : Iss) : List (List Nat) :=
  [(List.range 96).map (fun j => if c.act.getLsbD j then xOf op f c j else 0),
   (List.range 96).map (fun j => if c.act.getLsbD j then dOf op f c j else 0)]

/-! ### The end of an atomic -/

/-- Whether an operation has a register to write. -/
def hasDst (op : Nat) (f : MForm) : Bool := mWritesD op && !specIs f.d .null && (mRule op f).d.used

/-- Every lane is performed: D receives the old values, in ascending lane order. Poison kills (R197). -/
def finishAtomic (s : State) (o : Op) (op : Nat) (f : MForm) : State :=
  match s.hatch? o.hatch with
  | none => endOp s o
  | some h =>
    let prot := hatchProt s h
    match o.lanes.find? (·.poison) with
    | some a => poisonKill (endOp s o) o.hatch o.pc (a.pa / 32 * 32)
    | none =>
      let w := (mRule op f).d.width
      let s := if hasDst op f then
        lateWrite s o prot (physMask prot o.active)
          [.reg f.d w (fun l => bytesNat (o.bytesAt false prot l))] { dsts := [(f.d, w)] } 0 else s
      let s := if f.acquires then acquireCore s o.core else s
      endOp s o

/-! ### Lanes in order -/

/-- Performs the pending lanes of an operation in ascending order, as many as this step can; true when all are performed.
`ready` says whether a lane may be performed now, with what it asks for. A lane that lacks something ends the step's share. -/
def runLanes (ready : State → LaneAcc → State × Bool) (one : State → LaneAcc → State × LaneAcc) :
    Bool → State → List LaneAcc → State × List LaneAcc × Bool
  | _, s, [] => (s, [], true)
  | moved, s, a :: r =>
    if !a.pending then
      let (s, xs, ok) := runLanes ready one moved s r
      (s, a :: xs, ok)
    else
      let (t, go) := ready s a
      if !t.wants.isEmpty then (if moved then s else t, a :: r, false)
      else if !go then (t, a :: r, false)
      else
        let (t, x) := one t a
        if !t.wants.isEmpty then (if moved then s else t, a :: r, false)
        else
          let (s, xs, ok) := runLanes ready one true t r
          (s, x :: xs, ok)

/-- Puts the lanes back into their operation; one that has performed them all ends with `last`. -/
def afterLanes (x : State × List LaneAcc × Bool) (o : Op) (last : State → Op → State) : State :=
  let s := x.1.updOp o.id (fun q => { q with lanes := x.2.1 })
  if !x.2.2 then (settle s).wake.park .storeCommit else finish (last s { o with lanes := x.2.1 })

/-! ### Performing an atomic at its home (R85, R91) -/

/-- An atomic acts as a release by its ORD, or as the first store after a narrow release fence (R205, R393); at its home it is a wide
one (R79). -/
def Op.atomReleases (o : Op) : Bool := o.relKind != 0

/-- One lane at the line's home: what it leaves there, and the lane with its old value. -/
def atomLane (o : Op) (op : Nat) (f : MForm) (s : State) (a : LaneAcc) : State × LaneAcc :=
  let n := atomBytes op f
  if lineDead s a.line then (s, { a with done := true, poison := true, bytes := List.replicate n 0 })
  else
    let s := if f.acquires then acquireLine s a.line else s
    let room := lazyRoom s o.core a.line
    let s := if o.atomReleases && !room then drainCore s o.core else s
    let (s, bs, p) := coherentRead (takeLine s a.line) a.pa n
    if p then (s, { a with done := true, poison := true, bytes := bs })
    else
      let s := match atomResult op f (bytesNat bs) (o.xAt a) (o.dAt a) with
        | none => s
        | some v => pokePa s a.pa (natBytes n v) (o.trig [a])
      let s := if o.atomReleases && room then lazyRelease s o.core a.line else s
      (s, { a with done := true, bytes := bs })

/-- An atomic on a line of another package is performed at its home there (R91). The operation notes which lane is under way. -/
def sendAtomic (s : State) (o : Op) (op : Nat) (f : MForm) (a : LaneAcc) : State :=
  let s := if f.acquires then acquireLine s a.line else s
  let s := if o.atomReleases && !lazyRoom s o.core a.line then drainCore s o.core else s
  let s := sendChip s .req (.router (coreRouter o.core))
    { chip := lineChip a.line, kind := 16, who := .agent s.fab.chipId (coreDie o.core), line := a.line, op := o.id
      data := { bytes := [], poison := 0, depth := o.depth + 1 }, atom := some (op, f, a.pa, o.xAt a, o.dAt a) }
  s.updOp o.id (fun q => { q with prog := a.lane + 2 })

/-- The old value of a lane has come from another package. -/
def atomAnswered (s : State) (o : Op) (bs : List Byte) (poison : Bool) : State :=
  match o.lanes.find? (fun a => a.pending && a.lane + 2 == o.prog) with
  | none => s
  | some a =>
    let s := if o.atomReleases && !poison && lazyRoom s o.core a.line then lazyRelease s o.core a.line else s
    let put := fun (x : LaneAcc) => if x == a then { x with done := true, poison := poison, bytes := bs } else x
    wakeLine (s.updOp o.id (fun q => { q with prog := 0, lanes := q.lanes.map put })) a.line

/-- Whether a lane's line is ready for its atomic. -/
def atomReady (o : Op) (op : Nat) (f : MForm) (s : State) (a : LaneAcc) : State × Bool :=
  if olderBlocks s o a.line a.mt then (s, false)
  else if lineDead s a.line then (s, true)
  else if lineFar s a.line then (sendAtomic s o op f a, false)
  else homeReady s a.line

/-- STORE_COMMIT of an atomic: its lanes, one at a time (R204). -/
def commitAtomic (s : State) (o : Op) (op : Nat) (f : MForm) : State :=
  if !(s.core o.core).sfrWait.isEmpty || o.prog != 0 then s.park .storeCommit
  else afterLanes (runLanes (atomReady o op f) (atomLane o op f) false s o.lanes) o
    (fun s o => if o.lanes.any (fun a => a.fault != 0 && !a.done) then s else finishAtomic s o op f)

/-! ### Atomics on MT 4 (R90 to R93) -/

/-- Whether an atomic is one of R91's for MT 4, and the AtomicOp it becomes: 0 FetchAdd, 1 Swap, 2 CAS. -/
def mt4Kind (op : Nat) (f : MForm) : Option Nat :=
  let aop := f.opx.toNat % 16
  if op == 0xB3 then (if aop ≤ 1 then some 0 else if aop == 7 then some 1 else none)
  else if op == 0xB9 || op == 0xBA then some 2 else none

/-- The PCIe operand: a subtraction sends the two's complement. -/
def mt4Operand (op : Nat) (f : MForm) (o : Op) (a : LaneAcc) : Nat :=
  if op == 0xB3 then (if f.opx.toNat % 16 == 1 then (2 ^ (8 * atomBytes op f) - o.xAt a) % 2 ^ (8 * atomBytes op f) else o.xAt a)
  else o.dAt a

/-- The operation of the issuing path that waits at its PC. -/
def ownOp (s : State) (c : Iss) (what : Instr) : Option Op :=
  s.ops.find? (fun o => o.hatch == c.inst && o.slot == c.slot && o.pc == c.p.pc && o.what == what)

/-- An M128 instruction that may find its own operation waiting: its destination is empty for that alone (R374). `issue` makes its
checks. -/
def issueOwnBy (issue : (Iss → State → State) → State → Host.Outcome State Fault Refusal) (op : Nat) (f : MForm) (what : Instr)
    (eff : Iss → Option Op → State → State) (s : State) : Host.Outcome State Fault Refusal :=
  match (s.issuing).bind (fun c => ownOp s c what) with
  | none => issue (fun c s => eff c none s) s
  | some o => issue (fun c s => eff c (some o) s) (s.updHatch o.hatch (fun h => h.markEmpty (mShape op f).dsts false))

/-- The same with the comparison of the two sides (R196). -/
def issueOwn (op : Nat) (f : MForm) (what : Instr) (eff : Iss → Option Op → State → State) (s : State) :
    Host.Outcome State Fault Refusal := issueOwnBy (issueMS op f) op f what eff s

/-- The path waits with its destination empty; its operation stays. -/
def waitOwn (s : State) (c : Iss) (op : Nat) (f : MForm) : State :=
  s.updHatch c.inst (fun h => h.markEmpty (mShape op f).dsts true)

/-- The first lane on MT 4 still to be performed. -/
def Op.mt4Lane (o : Op) : Option LaneAcc := o.lanes.find? (fun a => a.pending && a.mt == 4)

/-- Sends the request of the first lane on MT 4 still to be performed. -/
def sendMt4 (s : State) (o : Op) (op : Nat) (f : MForm) (kind : Nat) : State :=
  match o.mt4Lane with
  | none => s
  | some a =>
    let p := portOfLine a.line
    noteMt4 (s.emit (.pcieAtomic p o.id a.pa kind (mt4Operand op f o a) (if kind == 2 then o.xAt a else 0))) o.hatch p

/-- The first event of an atomic whose lanes are performed at their homes. -/
def postAtomic (s : State) (o : Op) : State :=
  match o.lanes.find? LaneAcc.pending with
  | none => s
  | some a => s.post .storeCommit { src := .op o.id a.line, op := o.id, line := a.line }

/-- An atomic with a lane on MT 4: the path stays at the instruction until the last completion, so that
ATOMIC_UNSUPPORTED is precise (R92). Lanes on other memory are performed after it. -/
def atomMt4 (c : Iss) (own : Option Op) (s : State) (op : Nat) (f : MForm) (what : Instr) (lanes : List LaneAcc) : State :=
  let sh := mShape op f
  match own with
  | some o =>
    if o.prog == 1 then c.trap (endOp s o) { code := tcAtomicUnsupported }
    else if !o.done then stall (waitOwn s c op f)
    else beginAsync s c sh (allocWrites sh false) 16 (fun s =>
      if o.lanes.any LaneAcc.pending then postAtomic (s.updOp o.id (fun o => { o with done := false })) o else finishAtomic s o op f)
  | none =>
    match mt4Kind op f with
    | none => c.trap s { code := tcAtomicUnsupported }
    | some kind =>
      if lanes.any (fun a => a.fault == 0 && a.mt == 4 && !(s.port (portOfLine a.line)).atomicOp) then
        c.trap s { code := tcAtomicUnsupported }
      else match allocTest s c ((allocWrites sh false).foldl (applyWrite c.prot 0) (c.h.freeLast sh, c.p)).1 with
      | .peak => c.trap s { code := tcIllegalOperand, info := 0x100 }
      | _ =>
        let rel := relOf f c
        let s := if rel != 0 then drainCore s c.h.core else s
        let (id, s) := s.fresh
        let o := { newOp s c what id with lanes := lanes, vecs := captured op f c, vals := [rel] }
        let s := (markDirty s c.inst).updHatch c.inst (fun h => { h with fenceRel := false })
        let s := sendMt4 (addOp s 2 o) o op f kind
        stall (settle (waitOwn s c op f))

/-- MT4_COMPLETION (R90, R92): data of a read, the end of a zero-length read, or the old value of an AtomicOp. -/
def execMt4Completion (s : State) : Host.Outcome State Fault Refusal :=
  .next (match s.op? s.arg.op with
    | none => finish s
    | some o =>
      let line := s.arg.line
      let keep := fun (s : State) (bs : List Byte) => l1Put s o.core (L1Line.fresh line .mt4 bs 0 0) false
      let pad := fun (bs : List Byte) => sliceBytes bs 0 128
      match o.what, s.arg.compl with
      | .nop .l64 0, .data bs => finish (keep (s.dropOp o.id) (pad bs))
      | .nop .l64 0, _ => finish (keep (s.openLine.2.dropOp o.id) s.openLine.1)
      | .nop .l64 2, r =>
        let (bs, s) := match r with
          | .data bs => (pad bs, s)
          | _ => s.openLine
        finish (s.updOp o.id (fun o => { o with done := true, lanes := [LaneAcc.start 0 0 bs] }))
      | .nop _ _, _ =>
        let clear := fun (h : Hatch) => { h with mt4Ports := h.mt4Ports &&& ~~~(BitVec.ofNat 2 (2 ^ (o.vals.getD 0 0))) }
        finish (if o.prog == 1 then s.dropOp o.id else (s.dropOp o.id).updHatch o.hatch clear)
      | .waddr _, r =>
        let (bs, s) := match r with
          | .data bs => (pad bs, s)
          | _ => s.openLine
        let put := fun (a : LaneAcc) => { a with bytes := sliceBytes bs (offsetInLine a.pa) 4 }
        finish (s.updOp o.id (fun o => { o with prog := 2, lanes := o.lanes.map put }))
      | _, r => match instrForm o.what with
        | none => finish s
        | some (op, f) =>
          if decide (0xC5 ≤ op) then
            let (bs, s) := match r with
              | .data bs => (pad bs, s)
              | _ => s.openLine
            let put := fun (a : LaneAcc) => if a.line == line then { a with bytes := bs, done := true } else a
            finish (s.updOp o.id (fun o => { o with lanes := o.lanes.map put }))
          else if opReads o.what then
            let (bs, s) := match r with
              | .data bs => (pad bs, s)
              | _ => s.openLine
            finish (deliver (keep s bs) o line (accSize op f) bs 0)
          else match r with
            | .data bs =>
              let n := atomBytes op f
              let first := o.mt4Lane
              let put := fun (a : LaneAcc) => if first == some a then { a with bytes := sliceBytes bs 0 n, done := true } else a
              let o := { o with lanes := o.lanes.map put }
              let o := { o with done := o.mt4Lane.isNone }
              let s := s.updOp o.id (fun _ => o)
              let s := s.updCore o.core (fun k => { k with l1 := k.l1.filter (fun l => !(l.kind == .mt4 && l.line == line)) })
              finish (if o.done then s else sendMt4 s o op f ((mt4Kind op f).getD 0))
            | _ => finish (s.updOp o.id (fun o => { o with prog := 1, done := true })))

/-! ### The issue of an atomic -/

/-- An atomic on memory (R377, R389): with a destination its faults are precise; without one they make a record. -/
def atomMem (op : Nat) (f : MForm) (what : Instr) (s : State) : Host.Outcome State Fault Refusal :=
  issueOwn op f what (fun c0 own s =>
    let once := memOnce op f
    let c := c0.forM op f
    if own.isSome then atomMt4 c own s op f what []
    else if c.act == 0 then finish (retire s c.inst c.slot c.p.pc 16)
    else if c.h.countFull 2 then stall s
    else
      let as := laneAddrs op f c
      match alignFault (atomBytes op f) as with
      | some t => c.trap s (t.ofOnce once c0.act)
      | none =>
        match (if f.releases then releaseReady s c.h else (s, true)) with
        | (s, false) => stall s
        | (s, true) =>
          let (s, lanes) := resolveLanes s c.h.core (ctxOf s c.h) c.kern .atomic false (as.map (fun a => LaneAcc.start a.1 a.2 []))
          let poisoned := lanes.any (fun a => a.fault == tcPoison)
          let mt4 := op != 0xB6 && lanes.any (fun a => a.fault == 0 && a.mt == 4)
          match (if hasDst op f || poisoned || mt4 then c0.faultLanes s once lanes else none) with
          | some s => s
          | none =>
            if mt4 then atomMt4 c none s op f what lanes
            else
              let sh := mShape op f
              beginAsync s c sh (allocWrites sh false) 16 (fun s =>
                let (id, s) := s.fresh
                let o := { newOp s c what id with lanes := lanes, vecs := captured op f c, vals := [relOf f c] }
                let s := addOp ((markDirty s c.inst).updHatch c.inst (fun h => { h with fenceRel := false })) 2 o
                let s := if lanes.any (fun a => a.fault != 0) then s.post .storeFault { op := id } else s
                postAtomic s o)) s

def execAtom (f : MForm) (s : State) : Host.Outcome State Fault Refusal := atomMem 0xB3 f (.atom f) s
def execAtomf (f : MForm) (s : State) : Host.Outcome State Fault Refusal := atomMem 0xB4 f (.atomf f) s
def execCas (f : MForm) (s : State) : Host.Outcome State Fault Refusal := atomMem 0xB9 f (.cas f) s
def execCas128 (f : MForm) (s : State) : Host.Outcome State Fault Refusal := atomMem 0xBA f (.cas128 f) s

/-! ### Local-store atomics (R377, R389, R391) -/

/-- Performs lanes in ascending order; the second part holds each lane's old value. -/
def localAtoms (op : Nat) (f : MForm) (c : Iss) : State → List (Nat × Nat) → State × List (Nat × Nat)
  | s, [] => (s, [])
  | s, a :: r =>
    let n := atomBytes op f
    let old := bytesNat (localRead s c.h.core c.h.block a.2 n)
    let s := match atomResult op f old (xOf op f c a.1) (dOf op f c a.1) with
      | none => s
      | some v => localWrite s c.h.core c.h.block a.2 (natBytes n v)
    let (s, xs) := localAtoms op f c s r
    (s, (a.1, old) :: xs)

def atomLocal (op : Nat) (f : MForm) (what : Instr) (s : State) : Host.Outcome State Fault Refusal :=
  issueMS op f (fun c0 s =>
    let once := memOnce op f
    let c := c0.forM op f
    let n := atomBytes op f
    let as := (lanesOf c.act).map (fun j => (j, localAddr c f j))
    if c.act == 0 then finish (retire s c.inst c.slot c.p.pc 16)
    else if c.h.countFull 2 || !(s.core c.h.core).sfrWait.isEmpty then stall s
    else match alignFault n as with
      | some t => c.trap s (t.ofOnce once c0.act)
      | none =>
        let bad := localFaults c.rcd n as
        match (if hasDst op f then preciseFault c0 once bad else none) with
        | some t => c.trap s t
        | none =>
          if as.any (fun a => localOk c.rcd a.2 n && localPoison s c.h.core c.h.block a.2 n) then
            finish (poisonKill s c.inst c.p.pc 0)
          else
          match (if f.releases then releaseReady s c.h else (s, true)) with
          | (s, false) => stall s
          | (s, true) =>
            let sh := mShape op f
            let s := if f.acquires then acquireCore s c.h.core else s
            let w := (mRule op f).d.width
            match allocTest s c ((allocWrites sh false).foldl (applyWrite c.prot 0) (c.h.freeLast sh, c.p)).1 with
            | .dry => stallDry s
            | .peak => c.trap s { code := tcIllegalOperand, info := 0x100 }
            | .ok =>
              let (s, olds) := localAtoms op f c s (as.filter (fun a => localOk c.rcd a.2 n))
              let s := noteDone (markDirty s c.inst) c.inst 2
              let s := recordFaults s { newOp s c what 0 with id := 0 } 3 bad
              let old := fun (l : Nat) => ((olds.find? (fun x => x.1 == visLane c.prot l)).map (·.2)).getD 0
              complete s (c.refresh s) sh (physMask c.prot c.act) (if hasDst op f then [.reg f.d w old] else []) 0 16) s

def execAtoml (f : MForm) (s : State) : Host.Outcome State Fault Refusal := atomLocal 0xB7 f (.atoml f) s
def execAtomfl (f : MForm) (s : State) : Host.Outcome State Fault Refusal := atomLocal 0xB8 f (.atomfl f) s
def execCasl (f : MForm) (s : State) : Host.Outcome State Fault Refusal := atomLocal 0xBB f (.casl f) s

/-! ### Deterministic adds (R219, R220, R392, R453) -/

/-- The slice that holds an address's contributions: its home slice, or the host agent slice. -/
def contribSlice (s : State) (pa : Nat) : Nat := homeDie s (lineOf pa) * 32 + homeSlice s (lineOf pa)

/-- Contributions that a slice holds itself. -/
def sliceHeld (s : State) (q : Nat) : Nat :=
  (s.sched.contribs.filter (fun x => x.spilled.isNone && contribSlice s x.pa == q)).length

/-- The lowest free entry of a launch's spill buffer. -/
def freeSpill (s : State) (launch cap : Nat) : Option Nat :=
  let used := (s.sched.contribs.filter (fun x => x.launch == launch)).filterMap (·.spilled)
  (List.range (used.length + 1)).find? (fun i => !used.contains i && decide (i < cap))

/-- A spill entry (R220). -/
def Contrib.entry (x : Contrib) : List Byte :=
  natBytes 8 x.pa ++ natBytes 8 x.value ++ natBytes 4 x.blockIdx ++ natBytes 4 x.hatchIdx ++ natBytes 1 x.lane ++
    natBytes 1 (natOfBool x.f64) ++ natBytes 2 0 ++ natBytes 4 x.inst ++ natBytes 4 0

/-- What becomes of one contribution. -/
inductive Held where
  | ok (s : State)
  | full
  | fault (s : State) (code va : Nat)
  deriving DecidableEq, Repr

/-- A nonzero reserved field in a record that a slice or dispatcher of a die reads (R7, R445): one event for each reading of it
(entry 35). -/
def reservedRead (die : Nat) (nonzero : Bool) : AreaM Unit :=
  if nonzero then modify (fun s => logError s 0 2 0x0004 die 0 0) else pure ()

/-- The CAPACITY field of a spill buffer, whose reserved bytes are looked at with it. -/
def spillCapacity (core ctx buf die : Nat) : AreaM Nat := do
  let hd ← devRead core ctx buf 128
  reservedRead die ((hd.drop 8).any (fun b => b != 0))
  return fieldAt hd 0 4

/-- Holds one contribution: in its slice, or in the spill buffer. -/
def holdOne (s : State) (core ctx buf : Nat) (x : Contrib) : Held :=
  let add := fun (s : State) (x : Contrib) => { s with sched := { s.sched with contribs := s.sched.contribs ++ [x] } }
  if sliceHeld s (contribSlice s x.pa) < 4096 then .ok (add s x)
  else
    let lost := fun (s : State) (pa : Nat) => logError s 1 2 0x010A (x.die s) 1 pa
    match (spillCapacity core ctx buf (x.die s)).run s with
    | .error (code, pa) s => if code == tcPoison then .ok (lost s pa) else .fault s code buf
    | .ok cap s => match freeSpill s x.launch cap with
      | none => .full
      | some i =>
        match (devWrite core ctx (spillAt buf i) x.entry).run s with
        | .error (code, pa) s => if code == tcPoison then .ok (lost s pa) else .fault s code (spillAt buf i)
        | .ok _ s =>
          let s := add s { x with spilled := some i }
          .ok (setUsed s core ctx buf (spilledCount s x.launch))

/-- Holds the contributions of lanes; false when one finds no room. Spill faults make records (R453). -/
def holdAll (c : Iss) (core ctx buf : Nat) : State → List (LaneAcc × Contrib) → State × Bool
  | s, [] => (s, true)
  | s, (a, x) :: r =>
    match holdOne s core ctx buf x with
    | .full => (s, false)
    | .ok s => holdAll c core ctx buf s r
    | .fault s code va =>
      holdAll c core ctx buf (pushSfr s core ⟨c.inst, code, 0, 3, 0, c.p.pc, va, laneBit a.lane⟩) r

/-- A lane's contribution. -/
def contribOf (s : State) (c : Iss) (f : MForm) (a : LaneAcc) : Contrib :=
  let b := s.block? c.h.block
  { launch := (launchOf s c.h).elim 0 (·.id), inst := c.h.block, pa := a.pa, mt := a.mt, f64 := f.twf.toNat == 0xA
    value := xOf 0xB5 f c a.lane, blockIdx := b.elim 0 (·.index), hatchIdx := c.h.index, lane := a.lane
    arrival := s.nextId, spilled := none }

def execAtomd (f : MForm) (s : State) : Host.Outcome State Fault Refusal :=
  issueMS 0xB5 f (fun c0 s =>
    let c := c0.forM 0xB5 f
    if c.act == 0 then finish (retire s c.inst c.slot c.p.pc 16)
    else if c.h.countFull 2 || !(s.core c.h.core).sfrWait.isEmpty then stall s
    else
      let as := laneAddrs 0xB5 f c
      match alignFault (atomBytes 0xB5 f) as with
      | some t => c.trap s (t.ofOnce (memOnce 0xB5 f) c0.act)
      | none =>
        let ctx := ctxOf s c.h
        let (s, lanes) := resolveLanes s c.h.core ctx c.kern .atomic false (as.map (fun a => LaneAcc.start a.1 a.2 []))
        match lanes.find? (fun a => a.fault == tcPoison) with
        | some a => finish (poisonKill s c.inst c.p.pc a.pa)
        | none =>
          let good := lanes.filter (fun a => a.fault == 0)
          let (arrival, s) := s.fresh
          let xs := good.map (fun a => (a, { contribOf s c f a with arrival := arrival }))
          match holdAll c c.h.core ctx c.rcd.spill s xs with
          | (_, false) => stall s
          | (s, true) =>
            let s := recordFaults s (newOp s c (.atomd f) 0) 3 (lanes.filter (fun a => a.fault != 0))
            let s := noteDone (markDirty s c.inst) c.inst 2
            finish (retire (s.updHatch c.inst (fun h => h.freeLast (mShape 0xB5 f))) c.inst c.slot c.p.pc 16)) s

def execAtomflush (f : MForm) (s : State) : Host.Outcome State Fault Refusal := atomMem 0xB6 f (.atomflush f) s

/-- The flush of the contributions at one address that an `atomflush` names. -/
def flushLane (o : Op) (f64 : Bool) (s : State) (a : LaneAcc) : State × LaneAcc :=
  let launch := ((s.block? o.block).map (·.launch)).getD 0
  (flushContribs s launch o.core (fun x => x.pa == a.pa && x.f64 == f64) o.depth (some (o.raiser [a])), { a with done := true })

def flushReady (o : Op) (s : State) (a : LaneAcc) : State × Bool :=
  if olderBlocks s o a.line a.mt then (s, false)
  else if lineDead s a.line || a.mt == 4 || lineFar s a.line then (s, true) else homeReady s a.line

def commitFlush (s : State) (o : Op) (f : MForm) : State :=
  if !(s.core o.core).sfrWait.isEmpty then s.park .storeCommit
  else afterLanes (runLanes (flushReady o) (flushLane o (f.twf.toNat == 0xA)) false s o.lanes) o finishStore

/-! ### STORE_COMMIT (R135) -/

/-- An access of another package that is served at its home here: parked while the line is not ready, and answered with a message of
a kind. -/
def remoteServe (s : State) (pa kind : Nat) (k : State → State × LineData) : State :=
  match homeReady s (lineOf pa) with
  | (s, false) => (settle s).park .storeCommit
  | (s, true) =>
    let (s, d) := k s
    finish (if foreignWho s s.arg.who then
      sendChip s (if d.bytes.isEmpty then .rsp else .dat) (lineRouter s (homeDie s (lineOf pa)) (lineOf pa))
        { chipMsg kind with chip := whoChip s.arg.who, who := s.arg.who, line := lineOf pa, data := d, op := s.arg.op }
      else s)

/-- A store of another package or of Stylus (R141), acknowledged to another package; `depth` is that of its triggers (R140). -/
def remoteStore (s : State) (pa : Nat) (bs : List Byte) (depth : Nat) : State :=
  remoteServe s pa 20 (fun s => (pokePa s pa bs (some (depth, none)), noData))

/-- An atomic of another package (R91): the answer holds its old value. -/
def remoteAtomic (s : State) (pa op : Nat) (f : MForm) (x d depth : Nat) : State :=
  remoteServe s pa 19 (fun s =>
    let n := atomBytes op f
    let (s, bs, p) := coherentRead (takeLine s (lineOf pa)) pa n
    let s := if p then s else match atomResult op f (bytesNat bs) x d with
      | none => s
      | some v => pokePa s pa (natBytes n v) (some (depth, none))
    (s, { bytes := bs, poison := if p then 0xF else 0, depth := 0 }))

/-! #### `sema` and `waddr` of another package (R388, R395)

A `sema`, and a `waddr` on a line that is not cached (MT 2), waits at its word's home, in the place that it took on arrival: the event is
parked there until the condition holds and, for `.dec`, no older one waits on the word. -/

/-- The condition of `waddr` on the word (R388). -/
def waddrHolds (sub v x : Nat) : Bool :=
  if sub == 0 then v == x else if sub == 1 then v != x else if sub == 2 then decide (x ≤ v) else decide (v < x)

/-- Whether an event is a `.dec` on a word that another package waits in, with a place older than n. -/
def Event.semaBefore (e : Event) (pa n : Nat) : Bool :=
  match e.what, e.arg.src with
  | .storeCommit, .remoteAtomic p 0xC0 g _ _ _ => p == pa && g.sub == 0 && !e.arg.withdrawn && e.arg.ticket != 0 && decide (e.arg.ticket < n)
  | _, _ => false

/-- Whether an older `.dec` waiter on a word, of this package or another, holds back the one with place n. -/
def olderSema (s : State) (n pa : Nat) : Bool :=
  s.ops.any (fun q => decide (q.id < n) && (match q.what with
    | .sema g => g.sub == 0
    | _ => false) && q.lanes.any (fun a => a.pa == pa)) ||
  (s.parked ++ s.net).any (fun e => e.semaBefore pa n)

/-- A `sema` or `waddr` of another package at its word's home: it completes there, or waits. A waiting one is tried again once the word,
as it is published here, meets its condition, and every 65,536 clocks. -/
def remoteWait (s : State) (pa op : Nat) (f : MForm) (x depth : Nat) : State :=
  let dec := op == 0xC0 && f.sub == 0
  let n := if op == 0xC0 then atomBytes op f else 4
  let holds := fun (v : Nat) => if op == 0xC0 then decide (x ≤ v) else waddrHolds f.sub v x
  let first := s.arg.ticket == 0
  let s := if first then { s.fresh.2 with arg := { s.arg with ticket := s.fresh.1 } } else s
  let enough := lineCurrent s (lineOf pa) && holds (bytesNat (peekPa s pa n).1)
  if dec && olderSema s s.arg.ticket pa || !first && !enough && s.clock % 65536 != 0 then s.park .storeCommit
  else match homeReady s (lineOf pa) with
    | (s, false) => (settle s).park .storeCommit
    | (s, true) =>
      let (s, bs, p) := coherentRead (takeLine s (lineOf pa)) pa n
      let v := bytesNat bs
      if !p && !holds v then (settle s).park .storeCommit
      else
        let s := if p || !dec then s else pokePa s pa (natBytes n (v - x)) (some (depth, none))
        finish (sendChip s .dat (lineRouter s (homeDie s (lineOf pa)) (lineOf pa))
          { chipMsg 19 with chip := whoChip s.arg.who, who := s.arg.who, line := lineOf pa, op := s.arg.op
                            data := { bytes := bs, poison := if p then 0xF else 0, depth := 0 } })

/-- A waiting `sema` or `waddr` is taken back: its package tells the word's home, which forgets it. -/
def withdrawWait (s : State) : State :=
  let (line, who, op) := (s.arg.line, s.arg.who, s.arg.op)
  if lineFar s line then
    (if lineDead s line then s
    else sendChip s .req (.router (coreRouter s.arg.core)) { chipMsg 22 with chip := lineChip line, who := who, line := line, op := op })
  else
    let other := fun (e : Event) => !(e.arg.ticket != 0 && e.arg.who == who && e.arg.op == op)
    { s with net := s.net.filter other, parked := s.parked.filter other }

/-- A release of another package's core is listed at the line's home (R77). Where the list is full, its package is asked to publish,
and so to drain the core (entry 21). -/
def listRelease (s : State) (line chip core : Nat) : State :=
  let e := dirAt s line
  if e.st.busy then s.park .storeCommit
  else if e.lazy.contains (chip, core) then finish s
  else
    let listed := setDir s { e with lazy := e.lazy ++ [(chip, core)] }
    finish (if e.lazy.length < 4 then listed else startPub listed line none)

def execStoreCommit (s : State) : Host.Outcome State Fault Refusal :=
  .next (if s.arg.withdrawn then finish (withdrawWait s) else match s.arg.src with
    | .remote pa bs depth => match s.arg.listed with
      | some c => listRelease s (lineOf pa) (whoChip s.arg.who) c
      | none => remoteStore s pa bs depth
    | .remoteAtomic pa op f x d depth => if op == 0xC0 || op == 0xB1 then remoteWait s pa op f x depth else remoteAtomic s pa op f x d depth
    | .op id line => match s.op? id with
      | none => finish s
      | some o => match o.what, instrForm o.what with
        | .atomflush f, _ => commitFlush s o f
        | .nop .l64 3, _ =>
          let s := if lineDead s line then updCoh s (fun c => { c with deadHome := satInc c.deadHome }) else s
          finish { s with ops := s.ops.filter (fun x => x.id != id) }
        | _, some (op, f) => if op < 0xB0 || op == 0xCF then commitStoreLine s o line else commitAtomic s o op f
        | _, none => finish s)

end Sys2Proof.Machine
end

