-- ==== Sys2Proof/Machine/Engine.lean ====
section
/-! DEFINITION. What the matrix and copy engines share (08 R183 to R188; 18 R400 to R412): reading and writing memory a piece
at a time, and the records of their writes. -/

namespace Sys2Proof.Machine

/-- What reading one piece gives an engine: its bytes and the PA of a poisoned sector among them, a wait, a fault with its
address, or poison in a page table. -/
inductive PieceRes where
  | data (bs : List Byte) (bad : Option Nat)
  | wait
  | fault (code cause level va : Nat)
  | table (pa : Nat)
  deriving DecidableEq, Repr

/-- A line for an engine operation. One of MT 4 is read over PCIe, and waits in the operation (R90). -/
def engLine (s : State) (id core line : Nat) (sectors : BitVec 4) (mt : Nat) (frozen : Bool) :
    State × Option (List Byte × BitVec 4) :=
  if mt == 4 then
    match ((s.op? id).elim [] (·.lanes)).find? (fun a => a.line == line) with
    | some a => (s, if a.done then some (a.bytes, 0) else none)
    | none =>
      let a := { LaneAcc.start 0 0 [] with tr := true, pa := line * 128, mt := 4 }
      ((s.updOp id (fun o => { o with lanes := o.lanes ++ [a] })).emit (.pcieRead (portOfLine line) id (line * 128) 128), none)
  else readLine s core line sectors { mt := mt, frozen := frozen, acquire := false, ldc := false, hint := 2, op := id }

/-- Reads n bytes of memory at a VA, no more than one line of them, through an operation's context. -/
def engReadLine (s : State) (o : Op) (va n : Nat) : State × PieceRes :=
  match translate s o.core o.ctx (ctxKernel s o.ctx) .load va with
  | (s, .fault code cause level) => (s, .fault code cause level va)
  | (s, .poison pa _) => (s, .table pa)
  | (s, .ok pa mt _ frozen _) =>
    let off := offsetInLine pa
    let frz := replicaOk s o.ctx (va % 2 ^ 52) frozen
    match engLine s o.id o.core (lineOf pa) (sectorMask off n) mt frz with
    | (s, none) => (s, .wait)
    | (s, some (bs, p)) => (s, .data (sliceBytes bs off n)
        (((touchedSectors off n).find? (fun q => p.getLsbD q)).map (fun q => lineOf pa * 128 + 32 * q)))

/-- Reads n bytes, at most 128, that may lie in two lines. -/
def engRead (s : State) (o : Op) (va n : Nat) : State × PieceRes :=
  let m := min n (128 - va % 128)
  match engReadLine s o (wrap64 va) m with
  | (s, .data a pa) =>
    if n == m then (s, .data a pa)
    else match engReadLine s o (wrap64 (va + m)) (n - m) with
      | (s, .data b pb) => (s, .data (a ++ b) (pa <|> pb))
      | r => r
  | r => r

/-- The raiser of the triggers of an engine's write: its record has a kind of its own (R190). -/
def engRaiser (o : Op) (kind va : Nat) (lanes : LaneSet) : Raiser := ⟨o.hatch, o.core, o.pc, va, lanes, kind, []⟩

/-- Marks bytes of a line as poisoned where the line's current bytes are. -/
def markPoison (s : State) (line : Nat) (p : BitVec 4) : State :=
  match soleAgent s line with
  | some a => setAgent s { a with data := { a.data with poison := a.data.poison ||| p } }
  | none => homeSetPoison s line p

/-- A line of another package, written here, goes back to its home, which compares it for triggers (R73, R141). -/
def sendBack (s : State) (line : Nat) : State :=
  match (if lineFar s line then soleAgent s line else none) with
  | none => s
  | some a => sendWb (evictAgent s a.die line) a.die line

/-- Whether a store of a memory type, or of a watched page, is seen at its line's home at once (R72, R73). -/
def seenAtHome (mt : Nat) (watch : Bool) : Bool := watch || mt == 1 || mt == 2

/-- Writes bytes of one line where the line's home performs it, with their poison; false while it must wait. -/
def engWrite (s : State) (o : Op) (r : Raiser) (pa mt : Nat) (watch : Bool) (bs : List Byte) (bad : Bool) : State × Bool :=
  let line := lineOf pa
  if lineDead s line then (updCoh s (fun c => { c with deadHome := satInc c.deadHome }), true)
  else if !(s.core o.core).sfrWait.isEmpty then (s, false)
  else if mt == 4 then
    let s := s.emit (.pcieWrite (portOfLine line) pa bs)
    let s := s.updCore o.core (fun k => { k with l1 := k.l1.filter (fun l => !(l.kind == .mt4 && l.line == line)) })
    (noteMt4 s o.hatch (portOfLine line), true)
  else match homeReady s line with
    | (s, false) => (s, false)
    | (s, true) =>
      let s := pokePa s pa bs (if o.silent then none else some (o.depth + 1, some r))
      let s := if bad then markPoison s line (sectorMask (offsetInLine pa) bs.length) else s
      (if seenAtHome mt watch then sendBack s line else s, true)

/-- A deferred record of an operation (R188, R190). -/
def engRecord (s : State) (o : Op) (kind code cause level va : Nat) (lanes : LaneSet) : State :=
  if (s.hatch? o.hatch).isNone then s else pushSfr s o.core ⟨o.hatch, code, cause, kind, level, o.pc, va, lanes⟩

/-- The address of a form with a space bit: a pair in memory, or one register in local store (R402). -/
def engAddr (c : Iss) (f : MForm) : Nat := if f.opx.getLsbD 0 then localAddr c f 0 else memAddr c f 0

/-- The same with no index. -/
def engBase (c : Iss) (f : MForm) : Nat :=
  if f.opx.getLsbD 0 then wrapN 32 ((c.sval f.addr 1 : Int) + sxt 32 f.imm.toNat)
  else wrapN 64 ((c.sval f.addr 2 : Int) + sxt 32 f.imm.toNat)


end Sys2Proof.Machine
end

