-- ==== Sys2Proof/Machine/Copy.lean ====
section
/-! DEFINITION. The copy engine: opcodes 0xD3 to 0xDB (18 R412 to R415; 08 R186 to R188), and the event COPY_COMPLETE, which is
served once for each destination sector and completes the copy with the last. -/

namespace Sys2Proof.Machine

/-! ### Operands (R412, R413) -/

/-- One row of a copy: where it reads, where it writes, its bytes, and the lane it belongs to. -/
structure CopyRow where
  src : Nat
  dst : Nat
  len : Nat
  lane : Nat
  deriving DecidableEq, Repr

def srcLocal (f : MForm) : Bool := f.opx.getLsbD 0
def dstLocal (f : MForm) : Bool := f.opx.getLsbD 1

def spaceMod (loc : Bool) : Nat := if loc then 2 ^ 32 else 2 ^ 64

/-- The alignment unit: 4, or the element size of `cpyr`. -/
def copyUnit (op : Nat) (f : MForm) : Nat := if op == 0xD8 then 4 * tyRegs f.twf.toNat else 4

/-- Bytes of a row. -/
def copyLen (op : Nat) (f : MForm) (c : Iss) : Nat :=
  let n := c.sval f.idx 1
  if op == 0xD9 then n * mfBits f.twf.toNat / 8 + n / 32 else n

/-- The group of `cpy2`: row bytes, rows, pitches. -/
def copyGroup (f : MForm) (c : Iss) (k : Nat) : Nat := (wordOf (c.sval f.idx 4) k).toNat

def copySrc (f : MForm) (c : Iss) : Nat := c.sval f.addr (if srcLocal f then 1 else 2)
def copyDst (f : MForm) (c : Iss) : Nat := c.sval f.x (if dstLocal f then 1 else 2)

/-- The parameters a copy captures: first source and destination, row bytes, rows, pitches. -/
def copyVals (op : Nat) (f : MForm) (c : Iss) : List Nat :=
  if op == 0xD4 then [copySrc f c, copyDst f c, copyGroup f c 0, copyGroup f c 1, copyGroup f c 2, copyGroup f c 3]
  else if op == 0xD5 then [0, copyDst f c, copyLen op f c, (lanesOf c.act).length, 0, 0]
  else [copySrc f c, copyDst f c, copyLen op f c, 1, 0, 0]

/-- The source address of each visible lane of `cpyg`. -/
def gatherSrcs (f : MForm) (c : Iss) : List Nat :=
  (lanesOf c.act).map (fun j => c.val f.addr (if srcLocal f then 1 else 2) 0 0 (physLane c.prot 0 j))

/-- Row h of a copy. -/
def copyRow (op : Nat) (f : MForm) (vals srcs : List Nat) (act : LaneSet) (h : Nat) : CopyRow :=
  let v := fun (i : Nat) => vals.getD i 0
  if op == 0xD5 then
    let l := (lanesOf act).getD h 0
    ⟨srcs.getD h 0, (v 1 + l * v 2) % spaceMod (dstLocal f), v 2, l⟩
  else ⟨(v 0 + h * v 4) % spaceMod (srcLocal f), (v 1 + h * v 5) % spaceMod (dstLocal f), v 2, 0⟩

/-- What a row reads: the word of `cpyf`, or as much as it writes. -/
def readLen (op : Nat) (r : CopyRow) : Nat := if op == 0xD7 then min r.len 4 else r.len

/-! ### The checks at issue -/

/-- The cores of a block by rank (R131); the copying core where `cpyd` does not say otherwise. -/
def copyCore (s : State) (c : Iss) (op : Nat) (f : MForm) : Option Nat :=
  if op == 0xD6 then ((s.block? c.h.block).elim [] (·.cores))[f.opx.toNat / 4 % 4]? else some c.h.core

/-- The rows whose alignment decides that of all: every row of `cpyg`, and the first two otherwise. -/
def alignRows (op rows : Nat) : List Nat := if op == 0xD5 then List.range rows else if op == 0xD4 then List.range (max 1 (min 2 rows)) else [0]

/-- ALIGN for a row: the first of its source, destination and length that is not a multiple of the unit. -/
def rowAlign (c : Iss) (op unit : Nat) (r : CopyRow) : Option TrapReport :=
  match [r.src, r.dst, r.len].find? (fun a => a % unit != 0) with
  | none => none
  | some a => some { code := tcAlign, addr := a, mask := if op == 0xD5 then laneBit r.lane else c.act }

def rowRange (c : Iss) (op : Nat) (f : MForm) (r : CopyRow) : Option TrapReport :=
  let mask := if op == 0xD5 then laneBit r.lane else c.act
  if r.len == 0 then none
  else if srcLocal f && !localOk c.rcd r.src (readLen op r) then some { code := tcProtection, info := 0x07, addr := r.src, mask := mask }
  else if dstLocal f && !localOk c.rcd r.dst r.len then some { code := tcProtection, info := 0x07, addr := r.dst, mask := mask }
  else none

def wordCheck (c : Iss) (f : MForm) : Option TrapReport :=
  let a := f.imm.toNat
  if !f.cwe then none
  else if a % 4 != 0 then some { code := tcAlign, addr := a, mask := c.act }
  else if !localOk c.rcd a 4 then some { code := tcProtection, info := 0x07, addr := a, mask := c.act }
  else none

/-- The checks of R412, in the order of its list. -/
def copyCheck (s : State) (c : Iss) (op : Nat) (f : MForm) : Option TrapReport :=
  let vals := copyVals op f c
  let row := copyRow op f vals (gatherSrcs f c) c.act
  let rows := vals.getD 3 0
  if (copyCore s c op f).isNone then some { code := tcIllegalOperand, info := 0x13 }
  else if op == 0xD9 && c.sval f.idx 1 % 128 != 0 then some { code := tcIllegalOperand, info := 0x13 }
  else ((alignRows op rows).findSome? (fun h => rowAlign c op (copyUnit op f) (row h))) <|>
    ((List.range rows).findSome? (fun h => rowRange c op f (row h))) <|> wordCheck c f

/-! ### Issue -/

/-- Copies of a core in flight (R186). -/
def isCopy (i : Instr) : Bool := match instrForm i with
  | some (op, _) => decide (0xD3 ≤ op) && decide (op ≤ 0xD9)
  | none => false

def copiesOn (s : State) (core : Nat) : Nat := (s.ops.filter (fun o => o.core == core && isCopy o.what)).length

/-- `vals` of a copy's operation: what R413 names, the destination core, the completion value, the row in progress. -/
def copyExec (op : Nat) (f : MForm) (what : Instr) (s : State) : Host.Outcome State Fault Refusal :=
  issueMS op f (fun c s =>
    if c.act == 0 && (op == 0xD5 || f.gsense != 0) then finish (retire s c.inst c.slot c.p.pc 16)
    else if c.h.countFull 0 || decide (512 ≤ copiesOn s c.h.core) then stall s
    else match copyCheck s c op f with
      | some t => c.trap s t
      | none =>
        let core := (copyCore s c op f).getD 0
        beginAsync s c (mShape op f) [] 16 (fun s =>
          let (id, s) := s.fresh
          let o := { newOp s c what id with
            vals := copyVals op f c ++ [core, c.sval f.d 1, 0]
            vecs := [gatherSrcs f c, []] }
          (addOp s 0 o).post .copyComplete { op := id })) s

def execCpy (f : MForm) (s : State) : Host.Outcome State Fault Refusal := copyExec 0xD3 f (.cpy f) s
def execCpy2 (f : MForm) (s : State) : Host.Outcome State Fault Refusal := copyExec 0xD4 f (.cpy2 f) s
def execCpyg (f : MForm) (s : State) : Host.Outcome State Fault Refusal := copyExec 0xD5 f (.cpyg f) s
def execCpyd (f : MForm) (s : State) : Host.Outcome State Fault Refusal := copyExec 0xD6 f (.cpyd f) s
def execCpyf (f : MForm) (s : State) : Host.Outcome State Fault Refusal := copyExec 0xD7 f (.cpyf f) s
def execCpyr (f : MForm) (s : State) : Host.Outcome State Fault Refusal := copyExec 0xD8 f (.cpyr f) s
def execCpymx (f : MForm) (s : State) : Host.Outcome State Fault Refusal := copyExec 0xD9 f (.cpymx f) s

/-! ### The copy engine -/

/-- Elements added to those at the destination (R413). -/
def addElems (ty : Nat) (old new : List Byte) : List Byte :=
  let n := 4 * tyRegs ty
  (List.range (new.length / n)).flatMap (fun i =>
    let a := fieldAt old (n * i) n
    let b := fieldAt new (n * i) n
    natBytes n (if isAtomfTy ty then atomfNew 0 ty a b else (a + b) % 2 ^ (8 * n)))

/-- The bytes that a row reads at an offset for a destination sector, from where the copy's source is. -/
def copyRead (s : State) (o : Op) (op : Nat) (f : MForm) (r : CopyRow) (off n : Nat) : State × PieceRes :=
  let fill := o.vecs.getD 1 []
  let one := fun (a m : Nat) =>
    if srcLocal f then
      let a := a % 2 ^ 32
      (s, PieceRes.data (localRead s o.core o.block a m) (if localPoison s o.core o.block a m then some 0 else none))
    else engRead s o (wrap64 a) m
  if op != 0xD7 then one (r.src + off) n
  else match fill with
    | [] => one r.src 4
    | _ => (s, .data ((List.range n).map (fun i => BitVec.ofNat 8 (fill.getD (i % 4) 0))) (if fill.getD 4 0 == 1 then some 0 else none))

/-- The old bytes of a destination in MT 4 memory, which `cpyr` reads first. -/
def oldMt4 (s : State) (o : Op) (pa n : Nat) : State × Option (List Byte) :=
  match engLine s o.id o.core (lineOf pa) 0 4 false with
  | (s, none) => (s, none)
  | (s, some (bs, _)) => (s, some (sliceBytes bs (offsetInLine pa) n))

/-- Writes a sector's bytes at the destination: the end of the write, a wait, or a fault. -/
def copyWrite (s : State) (o : Op) (op : Nat) (f : MForm) (r : CopyRow) (off : Nat) (bs : List Byte) (bad : Bool) :
    State × PieceRes :=
  let n := bs.length
  let lanes := if op == 0xD5 then laneBit r.lane else 0
  if dstLocal f && !(s.core o.core).sfrWait.isEmpty then (s, .wait)
  else if dstLocal f then
    let core := o.vals.getD 6 0
    let a := (r.dst + off) % 2 ^ 32
    let was := op == 0xD8 && localPoison s core o.block a n
    let bs := if op == 0xD8 then addElems f.twf.toNat (localRead s core o.block a n) bs else bs
    let s := localWrite s core o.block a bs
    let s := if bad || was then (sectorsOf a n).foldl (fun s q => localMark s core o.block q true) s else s
    (s, .data [] none)
  else
    let va := wrap64 (r.dst + off)
    match translate s o.core o.ctx (ctxKernel s o.ctx) (if op == 0xD8 then .atomic else .store) va with
    | (s, .fault code cause level) => (s, .fault code cause level va)
    | (s, .poison pa _) => (s, .table pa)
    | (s, .ok pa mt watch _ _) =>
      let put := fun (s : State) (bs : List Byte) (bad : Bool) =>
        match engWrite s o (engRaiser o 1 va lanes) pa mt watch bs bad with
        | (s, true) => (s, PieceRes.data [] none)
        | (s, false) => (s, .wait)
      if op != 0xD8 then put s bs bad
      else if mt == 4 then match oldMt4 s o pa n with
        | (s, none) => (s, .wait)
        | (s, some old) => put s (addElems f.twf.toNat old bs) bad
      else
        let (s, old, was) := coherentRead (takeLine s (lineOf pa)) pa n
        put s (addElems f.twf.toNat old bs) (bad || was)

/-- The copy is over: its completion word is written, unless it was discarded (R187, R414). -/
def endCopy (s : State) (o : Op) (f : MForm) : State :=
  let s := if f.cwe && !o.done then localWrite s (o.vals.getD 6 0) o.block f.imm.toNat (natBytes 4 (o.vals.getD 7 0)) else s
  endOp s o

/-- One destination sector of a copy; false while it must wait. -/
def copyStep (s : State) (o : Op) (op : Nat) (f : MForm) : State × Bool :=
  let h := o.vals.getD 8 0
  let r := copyRow op f o.vals (o.vecs.getD 0 []) o.active h
  if o.vals.getD 3 0 ≤ h ∨ r.len = 0 then
    (if f.cwe && !(s.core o.core).sfrWait.isEmpty then (s, false) else (endCopy s o f, true))
  else
    let off := o.prog
    let n := min (r.len - off) (32 - (r.dst + off) % 32)
    let stop := fun (s : State) (x : PieceRes) => match x with
      | .fault code cause level va => (endOp (engRecord s o 1 code cause level va (if op == 0xD5 then laneBit r.lane else 0)) o, true)
      | .table pa => (poisonKill (endOp s o) o.hatch o.pc pa, true)
      | _ => (s, false)
    match copyRead s o op f r off n with
    | (s, .data bs bad) =>
      if op == 0xD7 && (o.vecs.getD 1 []).isEmpty then
        let keep := fun (o : Op) => { o with vecs := [o.vecs.getD 0 [], bs.map (·.toNat) ++ [natOfBool bad.isSome]] }
        ((s.updOp o.id keep).post .copyComplete { op := o.id }, true)
      else match copyWrite s ((s.op? o.id).getD o) op f r off bs bad.isSome with
        | (s, .data _ _) =>
          let next := if off + n < r.len then (off + n, h) else (0, h + 1)
          let go := fun (o : Op) => { o with prog := next.1, vals := o.vals.set 8 next.2 }
          let s := s.updOp o.id go
          if o.vals.getD 3 0 ≤ next.2 then (endCopy s o f, true) else (s.post .copyComplete { op := o.id }, true)
        | (s, x) => stop s x
    | (s, x) => stop s x

/-- COPY_COMPLETE (R186, R415). -/
def execCopyComplete (s : State) : Host.Outcome State Fault Refusal :=
  .next (match s.op? s.arg.op with
    | none => finish s
    | some o => match instrForm o.what with
      | none => finish s
      | some (op, f) => match copyStep s o op f with
        | (s, true) => finish s
        | (s, false) => (settle s).park .copyComplete)

/-! ### Counters (R415) -/

def execCwait (f : MForm) (s : State) : Host.Outcome State Fault Refusal :=
  issueM 0xDA f (fun c s =>
    if c.act == 0 && f.gsense != 0 then finish (retire s c.inst c.slot c.p.pc 16)
    else if (c.h.count (f.opx.toNat % 4)).length ≤ f.imm.toNat then finish (retire s c.inst c.slot c.p.pc 16)
    else stall s) s

def execCcnt (f : MForm) (s : State) : Host.Outcome State Fault Refusal :=
  issueM 0xDB f (fun c s =>
    if c.act == 0 && f.gsense != 0 then finish (retire s c.inst c.slot c.p.pc 16)
    else complete s c (mShape 0xDB f) (if c.prot then 3 else 1)
      [.reg f.d 1 (fun _ => (c.h.count (f.opx.toNat % 4)).length)] 0 16) s

end Sys2Proof.Machine
end

