-- ==== Sys2Proof/Machine/Control.lean ====
section
/-! DEFINITION. Control flow, opcodes 0x00 to 0x11 (13 R295 to R307): branches and splits, loops, `join`, `yield`, `prio` and
the predicate stack. -/

namespace Sys2Proof.Machine

/-- `nop` of any length only moves on (R296): the word of step 6 of R272 is checked first. -/
def execNop (len : InstrLen) (upper : BitVec 118) (s : State) : Host.Outcome State Fault Refusal :=
  issueWith (fun _ => if upper == 0 then .go else .trap tcIllegalOperand 0x01) 0 0
    (fun c s => finish (retire s c.inst c.slot c.p.pc len.bytes)) s

/-! ### Branches (R297, R298, R304) -/

/-- One moving side of a branch: its lanes, where it goes and its loop stack there. -/
structure Side where
  lanes : LaneSet
  target : Nat
  loops : List LoopEntry
  deriving DecidableEq, Repr

/-- One piece of a split path. -/
structure Piece where
  domain : LaneSet
  mask : LaneSet
  pc : Nat
  loops : List LoopEntry
  deriving DecidableEq, Repr

/-- Whether a PC lies in a loop body. -/
def LoopEntry.holds (e : LoopEntry) (pc : Nat) : Bool := decide (e.start ≤ pc) && decide (pc < e.start + e.len)

/-- A taken branch leaves the bodies that hold it and not its target (R304). -/
def unwind (pc target : Nat) : List LoopEntry → List LoopEntry
  | [] => []
  | t :: r => if t.holds pc && !t.holds target then unwind pc target r else t :: r

/-- The pieces of a path that a branch divides: the moving sides in order and the rest (R297). -/
def branchPieces (p : Path) (pc len : Nat) (sides : List Side) : List Piece :=
  let moved := sides.foldl (fun m x => m ||| x.lanes) 0
  let fall := p.mask &&& ~~~moved
  let left := p.domain &&& ~~~p.mask
  let (loops, next) := endCheck (wrap64 (pc + len)) p.loops
  let moving := sides.zipIdx.map (fun (x, i) =>
    (⟨if i == 0 && fall == 0 then x.lanes ||| left else x.lanes, x.lanes, x.target, x.loops⟩ : Piece))
  if fall == 0 then moving else moving ++ [⟨fall ||| left, fall, next, loops⟩]

/-- A piece as a path of its own. -/
def Piece.path (x : Piece) (p : Path) (idx : Nat) : Path :=
  { Path.start x.pc x.domain p.prio p.handler with mask := x.mask, loops := x.loops, split := some idx }

/-- Stack entries that a split needs. -/
def pushNeed (xs : List Piece) : Nat := xs.foldl (fun a x => a + (if x.loops.isEmpty then 1 else 2)) 0

/-- Every path of the hatch, or of its handler while one runs (R307). -/
def Hatch.pathCount (h : Hatch) : Nat :=
  natOfBool h.slot0.isSome + natOfBool h.slot1.isSome + (if h.handler then h.dstackHandler else h.dstack.length)

/-- The link of `call` and `calli`, written by the side that moves (R297). -/
def writeLink (c : Iss) (len : Nat) (link : Option (BitVec 8)) (hp : Hatch × Path) : Hatch × Path :=
  match link with
  | none => hp
  | some d => applyWrite c.prot 1 hp (.reg d 2 (fun _ => wrap64 (c.p.pc + len)))

/-- The split of R167: the first piece stays, the second takes the other slot where it is free, the rest is pushed. -/
def splitPath (c : Iss) (s : State) (len idx : Nat) (link : Option (BitVec 8)) (pieces : List Piece) : State :=
  let r : SplitRec := ⟨idx, c.p.domain, c.p.domain, c.p.split, c.p.prio, c.p.handler, s.clock⟩
  let other := (c.h.path? (1 - c.slot)).isNone
  match pieces with
  | [] => s
  | x :: rest =>
    let (h, p) := writeLink c len link (c.h, x.path c.p idx)
    let s := s.updHatch c.inst (fun _ => h.setPath c.slot (some p))
    let s := if other then
      match rest with
      | y :: _ => s.updHatch c.inst (fun h => h.setPath (1 - c.slot) (some (y.path c.p idx)))
      | [] => s
      else s
    withArea s c.inst c.p.pc (do
      splitAlloc c.inst r
      (if other then rest.drop 1 else rest).forM (fun y => divPush c.inst c.prot (y.path c.p idx)))

/-- A branch whose checks 1 to 3 of R298 are made: it falls through, moves the path, or splits it. `misuse` is check 5. -/
def branchTo (c : Iss) (s : State) (len : Nat) (misuse : Bool) (link : Option (BitVec 8)) (sides : List Side) : State :=
  let sides := sides.filter (fun x => x.lanes != 0)
  if sides.isEmpty then finish (retire s c.inst c.slot c.p.pc len)
  else
    let pieces := branchPieces c.p c.p.pc len sides
    match pieces with
    | [x] =>
      if misuse then c.trap s { code := tcLoopMisuse }
      else
        let (h, p) := writeLink c len link (c.h, { c.p with pc := x.pc, loops := x.loops })
        finish (noteIssue (s.updHatch c.inst (fun _ => h.setPath c.slot (some p))) c.inst c.slot)
    | _ =>
      if !c.h.pstack.isEmpty then c.trap s { code := tcPstackBranch }
      else if misuse then c.trap s { code := tcLoopMisuse }
      else
        let free := (c.h.path? (1 - c.slot)).isNone
        let need := pushNeed (pieces.drop (if free then 2 else 1))
        match splitFree c.h with
        | none => c.trap s { code := tcDivergeOverflow }
        | some idx =>
          if 64 < c.h.divDepth + need then c.trap s { code := tcDivergeOverflow }
          else finish (noteIssue (splitPath c s len idx link pieces) c.inst c.slot)

/-- A relative target (R270). -/
def relTarget (pc : Nat) (off : Int) : Nat := wrapN 64 ((pc : Int) + 4 * off)

def relSide (c : Iss) (lanes : LaneSet) (target : Nat) (keep : Bool) : Side :=
  ⟨lanes, target, if keep then c.p.loops else unwind c.p.pc target c.p.loops⟩

def execBra (f : BForm) (s : State) : Host.Outcome State Fault Refusal :=
  issueB 0x01 f (fun c s => branchTo c s f.len false none [relSide c c.act (relTarget c.p.pc f.off) false]) s

/-- `bru`: the whole path, when any lane is active. -/
def execBru (f : BForm) (s : State) : Host.Outcome State Fault Refusal :=
  issueB 0x02 f (fun c s =>
    if c.act == 0 then finish (retire s c.inst c.slot c.p.pc f.len)
    else
      let x := relSide c c.act (relTarget c.p.pc f.off) false
      finish (noteIssue (s.updPath c.inst c.slot (fun p => { p with pc := x.target, loops := x.loops })) c.inst c.slot)) s

/-- The active lanes in which a predicate holds a code; in protected mode the main side decides. -/
def lanesWith (c : Iss) (r : Nat) (t : Tri) : LaneSet :=
  laneSet ((lanesOf c.act).filter (fun l => c.h.pcode r (physLane c.prot 0 l) == t))

def execBrt (f : BForm) (s : State) : Host.Outcome State Fault Refusal :=
  issueB 0x03 f (fun c s =>
    let r := predReg f.srca
    branchTo c s f.len false none [relSide c (lanesWith c r .t) (relTarget c.p.pc f.off21.toInt) false,
      relSide c (lanesWith c r .u) (relTarget c.p.pc f.ext.toInt) false]) s

def execCall (f : BForm) (s : State) : Host.Outcome State Fault Refusal :=
  issueB 0x04 f (fun c s => branchTo c s f.len false (some f.dst) [relSide c c.act (relTarget c.p.pc f.off) true]) s

/-- Check 1 of R298: a target that is not a multiple of 4. -/
def execRet (f : AForm) (s : State) : Host.Outcome State Fault Refusal :=
  issueA 0x05 f (fun c s =>
    let target := c.sval f.srca 2
    if c.act != 0 && target % 4 != 0 then c.trap s { code := tcAlign, addr := target }
    else branchTo c s f.len false none [relSide c c.act target false]) s

/-- Check 3 of R298 (R299): what `sr.trapinfo` holds when the bytes of a block at an offset are not the expected `pad`. -/
def padInfo (bs : List Byte) (off tag : Nat) : Option Nat :=
  let w := bytesNat (sliceBytes bs off 8)
  if off + 8 ≤ 32 && w % 4 == 0 && bitsOf w 9 2 == 0x08 then
    let got := bitsOf w 63 56
    if got == tag then none else some (tag + 256 * got)
  else some (tag + 2 ^ 16)

/-- `jmpi` and `calli`: the target's block is fetched and must hold the expected `pad` (R298, R299). -/
def indirect (c : Iss) (s : State) (f : BForm) (link : Option (BitVec 8)) : State :=
  let target := c.sval f.srca 2
  if c.act == 0 then finish (retire s c.inst c.slot c.p.pc f.len)
  else if target % 4 != 0 then c.trap s { code := tcAlign, addr := target }
  else match fetchBlock s c.h { c.p with pc := target } with
    | (s, .wait) => stall s
    | (s, .poison pa) => finish (poisonKill s c.inst c.p.pc pa)
    | (s, .trap t) => c.trap s t
    | (s, .bytes bs) => match padInfo bs (target % 32) f.off.toNat with
      | some info => c.trap s { code := tcCfiTag, info := info, addr := target }
      | none => branchTo c s f.len false link [relSide c c.act target link.isSome]

def execJmpi (f : BForm) (s : State) : Host.Outcome State Fault Refusal := issueB 0x06 f (fun c s => indirect c s f none) s
def execCalli (f : BForm) (s : State) : Host.Outcome State Fault Refusal :=
  issueB 0x07 f (fun c s => indirect c s f (some f.dst)) s

/-- An A-format instruction that moves on after a change to the issuing path's hatch. -/
def moveOn (c : Iss) (s : State) (len : Nat) (g : Hatch → Hatch) : State :=
  finish (retire (s.updHatch c.inst g) c.inst c.slot c.p.pc len)

/-- `pad` acts as `nop` (R299). -/
def execPad (f : AForm) (s : State) : Host.Outcome State Fault Refusal := issueA 0x08 f (fun c s => moveOn c s f.len id) s

/-! ### Loops (R300 to R303) -/

def execLoop (f : BForm) (s : State) : Host.Outcome State Fault Refusal :=
  issueB 0x0C f (fun c s =>
    let count := c.sval f.srca 1
    let start := wrap64 (c.p.pc + f.len)
    let e := relTarget c.p.pc f.off
    let deep := match c.p.loops with
      | [] => false
      | t :: _ => decide (t.start + t.len < e)
    if deep then c.trap s { code := tcLoopMisuse }
    else if 4 ≤ c.p.loops.length then c.trap s { code := tcLoopOverflow }
    else if count == 0 then
      finish (noteIssue (s.updPath c.inst c.slot (fun p => p.arrive e)) c.inst c.slot)
    else
      finish (noteIssue (s.updPath c.inst c.slot (fun p =>
        { p with pc := start, loops := ⟨start, e - start, count⟩ :: p.loops })) c.inst c.slot)) s

/-- Where a loop exit arrives, by the end check of R301. -/
def loopSide (lanes : LaneSet) (e : Option LoopEntry) (rest : List LoopEntry) : Side :=
  match e with
  | none => ⟨lanes, 0, rest⟩
  | some e =>
    let (loops, pc) := endCheck (wrap64 (e.start + e.len)) rest
    ⟨lanes, pc, loops⟩

def execBrk (f : BForm) (s : State) : Host.Outcome State Fault Refusal :=
  issueB 0x0D f (fun c s =>
    let n := f.off.toNat
    branchTo c s f.len (decide (c.p.loops.length < n)) none
      [loopSide c.act (c.p.loops[n - 1]?) (c.p.loops.drop n)]) s

def execCont (f : BForm) (s : State) : Host.Outcome State Fault Refusal :=
  issueB 0x0E f (fun c s => branchTo c s f.len c.p.loops.isEmpty none [loopSide c.act c.p.loops.head? c.p.loops]) s

/-! ### `join`, `yield`, `prio` (R162, R163, R169, R305, R306) -/

/-- A path ends: its slot falls free, and with the last path the hatch ends (R169, R256). -/
def endPath (s : State) (inst slot pc : Nat) : State :=
  let s := withArea s inst pc (freeSlot inst slot)
  match s.hatch? inst with
  | none => s
  | some h => if h.slot0.isNone && h.slot1.isNone then endHatch s inst false else s

/-- `join` of a path with a split record (R169). -/
def joinRecord (c : Iss) (idx len : Nat) : AreaM Unit := do
  let r ← splitGet c.inst idx
  let out := r.outstanding &&& ~~~c.p.domain
  if out != 0 then
    splitPut c.inst { r with outstanding := out }
    modify (fun s => endPath (noteIssue s c.inst c.slot) c.inst c.slot c.p.pc)
  else
    splitDrop c.inst idx
    modify (fun s => retire (s.updPath c.inst c.slot (fun p =>
      { p with domain := r.domain, mask := r.domain, maskDiff := 0, prio := r.prio, split := r.parent })) c.inst c.slot c.p.pc len)

def execJoin (f : AForm) (s : State) : Host.Outcome State Fault Refusal :=
  issueA 0x09 f (fun c s =>
    if !c.h.pstack.isEmpty then c.trap s { code := tcPstackBranch }
    else match c.p.split with
      | none => finish (retire (s.updPath c.inst c.slot (fun p => { p with mask := p.domain, maskDiff := 0 })) c.inst c.slot c.p.pc f.len)
      | some idx => finish (withArea s c.inst c.p.pc (joinRecord c idx f.len))) s

def execYield (f : AForm) (s : State) : Host.Outcome State Fault Refusal :=
  issueA 0x0A f (fun c s =>
    let s := retire s c.inst c.slot c.p.pc f.len
    finish (s.updPath c.inst c.slot (fun p => { p with wait := .yield s.clock 0 }))) s

/-- A new written priority. It leaves the promotion as the issue leaves it (R306). -/
def setPrio (n : Nat) (slot : Nat) (h : Hatch) : Hatch := h.setPath slot ((h.path? slot).map (fun p => { p with prio := n }))

def execPrio (f : AForm) (s : State) : Host.Outcome State Fault Refusal :=
  issueA 0x0B f (fun c s => moveOn c s f.len (setPrio (f.aux.toNat % 8) c.slot)) s

/-! ### The predicate stack (R252, R307) -/

/-- The lanes in which an entry satisfies a test. -/
def entryLanes (e : PredReg) (t : Tri → Bool) : LaneSet := laneSet ((List.range 96).filter (fun l => t (e.getD l .f)))

/-- A new mask, within the path's domain (R166). -/
def Hatch.setMask (h : Hatch) (slot : Nat) (m : LaneSet) : Hatch :=
  h.setPath slot ((h.path? slot).map (fun p => { p with mask := m &&& p.domain, maskDiff := 0 }))

def execPushp (f : AForm) (s : State) : Host.Outcome State Fault Refusal :=
  issueA 0x0F f (fun c s =>
    if 1 < c.h.pathCount then c.trap s { code := tcPstackBranch }
    else if 16 ≤ c.h.pstack.length then c.trap s { code := tcPstackOverflow }
    else
      let e : PredReg := (List.range 96).map (fun l =>
        if !c.p.mask.getLsbD l then .u else if c.h.pcode (predReg f.srca) (physLane c.prot 0 l) == .t then .t else .f)
      moveOn c s f.len (fun h =>
        ({ h with pstack := e :: h.pstack } : Hatch).setMask c.slot (entryLanes e (fun t => t == .t)))) s

/-- T and F exchanged. -/
def Tri.swap : Tri → Tri
  | .t => .f
  | .f => .t
  | .u => .u

def execInvp (f : AForm) (s : State) : Host.Outcome State Fault Refusal :=
  issueA 0x10 f (fun c s => match c.h.pstack with
    | [] => c.trap s { code := tcPstackUnderflow }
    | e :: r =>
      let e := e.map Tri.swap
      moveOn c s f.len (fun h => ({ h with pstack := e :: r } : Hatch).setMask c.slot (entryLanes e (fun t => t == .t)))) s

def execPopp (f : AForm) (s : State) : Host.Outcome State Fault Refusal :=
  issueA 0x11 f (fun c s => match c.h.pstack with
    | [] => c.trap s { code := tcPstackUnderflow }
    | e :: r =>
      moveOn c s f.len (fun h => ({ h with pstack := r } : Hatch).setMask c.slot (entryLanes e (fun t => t != .u)))) s

end Sys2Proof.Machine
end

