-- ==== Sys2Proof/Machine/Sync.lean ====
section
/-! DEFINITION. Draining, waiting on words, fences, barriers and semaphores (17 R387, R388, R393 to R395, 09 R216). -/

namespace Sys2Proof.Machine

/-- `sdrain` (R192, R387). -/
def execSdrain (f : MForm) (s : State) : Host.Outcome State Fault Refusal :=
  issueM 0xB0 f (fun c s =>
    if c.act == 0 && f.gsense != 0 then finish (retire s c.inst c.slot c.p.pc 16)
    else if drained s c.h then finish (retire s c.inst c.slot c.p.pc 16) else stall s) s

/-- `fence` (R393): the release part, and then the acquire part. -/
def execFence (f : MForm) (s : State) : Host.Outcome State Fault Refusal :=
  issueM 0xBC f (fun c s =>
    match (if f.releases then releaseReady s c.h else (s, true)) with
    | (s, false) => stall s
    | (s, true) =>
      if f.acquires && !loadsDone s c.h then stall s
      else
        let narrow := f.scope.toNat < 2
        let s := if f.releases && !narrow then drainCore s c.h.core else s
        let s := if f.acquires then acquireFence s c.inst else s
        moveOn c s 16 (fun h =>
          { h with fenceRel := h.fenceRel || (f.releases && narrow), clean := h.clean && !f.releases })) s

/-! ### Barriers (R394) -/

/-- The barrier that an opcode names for a hatch; none where the instruction is not allowed. -/
def barrierOf (s : State) (c : Iss) (op : Nat) (f : MForm) : Option Nat :=
  let trig := (s.block? c.h.block).elim false (·.triggered)
  if c.p.handler || 1 < c.h.pathCount || c.h.divDepth != 0 then none
  else if op == 0xBD then some barBlock
  else if op == 0xBE then
    let g := f.imm.toNat
    if (c.rcd.groups.getD g []).contains c.h.index then some (barGroup g) else none
  else if trig then some barBlock
  else if c.rcd.coop then some barLaunch else none

/-- Departure: the acquire of the barrier, and the status to `sr.status` and D. -/
def departWith (c : Iss) (s : State) (op : Nat) (f : MForm) (st : Nat) : State :=
  if !loadsDone s c.h then stall s
  else
    let s := (acquireFence s c.inst).updHatch c.inst (fun h => { h with status := st })
    let m : LaneSet := if c.prot then 3 else 1
    complete s (c.refresh s) (mShape op f) m [.reg f.d 1 (fun _ => st)] 0 16

/-- Arrival: the release of the barrier, and the wait. -/
def arriveAt (c : Iss) (s : State) (which : Nat) : State :=
  afterRelease c s (fun s =>
    let s := markDirty s c.inst
    let me := (which, c.h.index)
    let s := s.updBlock c.h.block (fun b => { b with arrived := if b.arrived.contains me then b.arrived else b.arrived ++ [me] })
    let s := s.updPath c.inst c.slot (fun p => { p with wait := .barrier which })
    finish (tryDepart (countGroup s c.h.block which) c.h.block which))

def barrierExec (op : Nat) (f : MForm) (s : State) : Host.Outcome State Fault Refusal :=
  issueM op f (fun c s => match c.p.wait with
    | .depart st => departWith c s op f st
    | _ => match barrierOf s c op f with
      | none => c.trap s { code := tcIllegalOperand, info := 0x13 }
      | some which => arriveAt c s which) s

def execBar (f : MForm) (s : State) : Host.Outcome State Fault Refusal := barrierExec 0xBD f s
def execGbar (f : MForm) (s : State) : Host.Outcome State Fault Refusal := barrierExec 0xBE f s
def execLbar (f : MForm) (s : State) : Host.Outcome State Fault Refusal := barrierExec 0xBF f s

/-! ### `waddr` (R388) -/

/-- The operation that holds a sleeping path's place. -/
def sleepOp (s : State) (c : Iss) (what : Instr) (own : Option Op) (lanes : List LaneAcc) : Op × State :=
  match own with
  | some o => (o, s)
  | none =>
    let (id, s) := s.fresh
    let o := { newOp s c what id with lanes := lanes, active := 1 }
    (o, { s with ops := s.ops ++ [o] })

/-- The word is known: the instruction is over, or the path sleeps. -/
def waddrJudge (c : Iss) (s : State) (f : MForm) (o : Op) (mem : Bool) (addr v : Nat) : State :=
  if waddrHolds f.sub v (c.sval f.x 1) then
    let s := acquireCore (s.dropOp o.id) c.h.core
    complete s (c.refresh s) (mShape 0xB1 f) (if c.prot then 3 else 1) [.reg f.d 1 (fun _ => v)] 0 16
  else
    let s := (waitOwn s c 0xB1 f).updPath c.inst c.slot (fun p => { p with wait := .waddr mem addr s.clock })
    finish s

/-- A word of another package that is not cached (MT 2): the word's home watches it, and the path sleeps until the answer. -/
def waddrFar (c : Iss) (s : State) (f : MForm) (o : Op) (a : LaneAcc) : State :=
  let sleep := fun (s : State) =>
    finish ((waitOwn s c 0xB1 f).updPath c.inst c.slot (fun p => { p with wait := .waddr true a.pa s.clock }))
  if a.poison then finish (poisonKill (s.dropOp o.id) c.inst c.p.pc (a.pa / 32 * 32))
  else if a.done then waddrJudge c s f o true a.pa (bytesNat a.bytes)
  else if o.prog != 0 then sleep s
  else
    let s := sendChip s .req (.router (coreRouter o.core))
      { chip := lineChip a.line, kind := 16, who := .agent s.fab.chipId (coreDie o.core), line := a.line, op := o.id
        atom := some (0xB1, f, a.pa, c.sval f.x 1, 0) }
    sleep (s.updOp o.id (fun q => { q with prog := a.lane + 2 }))

/-- A word of memory. -/
def waddrMem (c : Iss) (own : Option Op) (s : State) (f : MForm) : State :=
  let va := memAddr c f 0
  match translate s c.h.core (ctxOf s c.h) c.kern .load va with
  | (s, .fault code cause level) => c.trap s { code := code, info := cause + 256 * level, addr := va, mask := c.act }
  | (s, .poison pa _) => finish (poisonKill s c.inst c.p.pc pa)
  | (s, .ok pa mt _ frozen _) =>
    let acc := { LaneAcc.start 0 va [] with tr := true, pa := pa, mt := mt }
    let (o, s) := sleepOp s c (.waddr f) own [acc]
    let line := lineOf pa
    if olderBlocks s o line mt then stall (waitOwn s c 0xB1 f)
    else if mt == 4 then
      if o.prog == 2 then
        let v := bytesNat ((o.lanes.head?).elim [] (·.bytes))
        waddrJudge c (s.updOp o.id (fun o => { o with prog := 0 })) f o true pa v
      else if o.prog == 1 then stall (waitOwn s c 0xB1 f)
      else
        let s := (s.updOp o.id (fun o => { o with prog := 1 })).emit (.pcieRead (portOfLine line) o.id (line * 128) 128)
        stall (waitOwn s c 0xB1 f)
    else if mt == 2 && lineFar s line && !lineDead s line then waddrFar c s f o ((o.lanes.head?).getD acc)
    else
      let how : ReadHow :=
        { mt := mt, frozen := replicaOk s (ctxOf s c.h) (va % 2 ^ 52) frozen, acquire := true, ldc := false, hint := 0, op := o.id }
      match readLine s c.h.core line (sectorMask (offsetInLine pa) 4) how with
      | (s, none) => stall (settle (waitOwn s c 0xB1 f))
      | (s, some (bs, p)) =>
        if p.getLsbD (offsetInLine pa / 32) then finish (poisonKill (s.dropOp o.id) c.inst c.p.pc (pa / 32 * 32))
        else waddrJudge c s f o true pa (bytesNat (sliceBytes bs (offsetInLine pa) 4))

/-- A word of local store. -/
def waddrLocal (c : Iss) (own : Option Op) (s : State) (f : MForm) : State :=
  let a := localAddr c f 0
  if !localOk c.rcd a 4 then c.trap s { code := tcProtection, info := 0x07, addr := a, mask := c.act }
  else if localPoison s c.h.core c.h.block a 4 then finish (poisonKill s c.inst c.p.pc 0)
  else
    let (o, s) := sleepOp s c (.waddr f) own []
    waddrJudge c s f o false a (bytesNat (localRead s c.h.core c.h.block a 4))

def execWaddr (f : MForm) (s : State) : Host.Outcome State Fault Refusal :=
  issueOwnBy (issueM 0xB1 f) 0xB1 f (.waddr f) (fun c own s =>
    let mem := f.opx.getLsbD 0
    let a := if mem then memAddr c f 0 else localAddr c f 0
    if c.act == 0 && f.gsense != 0 then finish (retire s c.inst c.slot c.p.pc 16)
    else if a % 4 != 0 then c.trap s { code := tcAlign, addr := a, mask := c.act }
    else if mem then waddrMem c own s f else waddrLocal c own s f) s

/-! ### Semaphores (R395) -/

/-- Whether an older `.dec` waiter on the same word holds this one back. -/
def heldBack (s : State) (o : Op) (pa : Nat) : Bool := olderSema s o.id pa

/-- `sema` on a word of another package: it is sent to the word's home, and its path waits for the answer. -/
def semaFar (c : Iss) (s : State) (f : MForm) (o : Op) (a : LaneAcc) : State :=
  let w := tyRegs f.twf.toNat
  let sleep := fun (s : State) => finish ((waitOwn s c 0xC0 f).updPath c.inst c.slot (fun p => { p with wait := .sema a.pa s.clock }))
  if a.poison then finish (poisonKill s c.inst c.p.pc (a.pa / 32 * 32))
  else if a.done then
    let s := endOp s o
    let s := if f.acquires then acquireCore s c.h.core else s
    complete s (c.refresh s) (mShape 0xC0 f) (if c.prot then 3 else 1) [.reg f.d w (fun _ => bytesNat a.bytes)] 0 16
  else if o.prog != 0 then sleep s
  else
    let s := if f.acquires then acquireLine s a.line else s
    let s := sendChip s .req (.router (coreRouter o.core))
      { chip := lineChip a.line, kind := 16, who := .agent s.fab.chipId (coreDie o.core), line := a.line, op := o.id
        data := { bytes := [], poison := 0, depth := o.depth + 1 }, atom := some (0xC0, f, a.pa, c.sval f.x w, 0) }
    sleep (s.updOp o.id (fun q => { q with prog := a.lane + 2 }))

/-- `sema` at its word's home (R395): it completes, or its path waits there. -/
def semaTry (c : Iss) (s : State) (f : MForm) (o : Op) (a : LaneAcc) : State :=
  let w := tyRegs f.twf.toNat
  let x := c.sval f.x w
  if lineDead s a.line then finish (poisonKill s c.inst c.p.pc a.pa)
  else if olderBlocks s o a.line 0 || f.sub != 1 && !(s.core c.h.core).sfrWait.isEmpty then stall (waitOwn s c 0xC0 f)
  else if lineFar s a.line then semaFar c s f o a
  else match homeReady s a.line with
    | (s, false) => stall (settle (waitOwn s c 0xC0 f))
    | (s, true) =>
      let s := if f.acquires then acquireLine s a.line else s
      let (s, bs, p) := coherentRead (takeLine s a.line) a.pa (4 * w)
      let v := bytesNat bs
      if p then finish (poisonKill s c.inst c.p.pc (a.pa / 32 * 32))
      else if x ≤ v ∧ (f.sub == 1 || !heldBack s o a.pa) then
        let s := endOp s o
        let s := if f.sub == 1 then s else pokePa s a.pa (natBytes (4 * w) (v - x)) (o.trig [a])
        let s := wakeLine (if f.acquires then acquireCore s c.h.core else s) a.line
        complete s (c.refresh s) (mShape 0xC0 f) (if c.prot then 3 else 1) [.reg f.d w (fun _ => v)] 0 16
      else finish ((waitOwn s c 0xC0 f).updPath c.inst c.slot (fun p => { p with wait := .sema a.pa s.clock }))

/-- The translation of a word that an instruction acts on once, with precise faults and MT 4 refused (R92, R377). -/
def onceAtomic (c : Iss) (s : State) (f : MForm) (precise : Bool) (k : State → LaneAcc → State) : State :=
  let va := memAddr c f 0
  let size := 4 * tyRegs f.twf.toNat
  if va % size != 0 then c.trap s { code := tcAlign, addr := va, mask := c.act }
  else
    let (s, x) := translate s c.h.core (ctxOf s c.h) c.kern .atomic va
    let a := (LaneAcc.start 0 va []).resolve s (ctxOf s c.h) x
    if a.fault == tcPoison then finish (poisonKill s c.inst c.p.pc a.pa)
    else if a.fault == 0 && a.mt == 4 then c.trap s { code := tcAtomicUnsupported, addr := va, mask := c.act }
    else if a.fault != 0 && precise then
      c.trap s { code := a.fault, info := a.cause + 256 * a.level, addr := va, mask := c.act }
    else k s a

def execSema (f : MForm) (s : State) : Host.Outcome State Fault Refusal :=
  issueOwn 0xC0 f (.sema f) (fun c own s =>
    if c.act == 0 && f.gsense != 0 then finish (retire s c.inst c.slot c.p.pc 16)
    else match own with
      | some o => (match o.lanes with
        | a :: _ => semaTry c s f o a
        | [] => stall s)
      | none =>
        if c.h.countFull 2 then stall s
        else onceAtomic c s f true (fun s a =>
          let (id, s) := s.fresh
          let o := { newOp s c (.sema f) id with lanes := [a], active := 1 }
          semaTry (c.refresh (addOp (markDirty s c.inst) 2 o)) (addOp (markDirty s c.inst) 2 o) f o a)) s

def execSemv (f : MForm) (s : State) : Host.Outcome State Fault Refusal :=
  issueMS 0xC1 f (fun c s =>
    if c.act == 0 && f.gsense != 0 then finish (retire s c.inst c.slot c.p.pc 16)
    else if c.h.countFull 2 then stall s
    else match (if f.releases then releaseReady s c.h else (s, true)) with
      | (s, false) => stall s
      | (s, true) => onceAtomic c s f false (fun s a =>
        let (id, s) := s.fresh
        let x := c.sval f.x (tyRegs f.twf.toNat)
        let o := { newOp s c (.semv f) id with lanes := [a], vecs := [[x], [0]], vals := [relOf f c], active := 1 }
        let s := (markDirty s c.inst).updHatch c.inst (fun h => { h with fenceRel := false })
        let s := retire (addOp s 2 o) c.inst c.slot c.p.pc 16
        finish (if a.fault != 0 then s.post .storeFault { op := id }
          else s.post .storeCommit { src := .op id a.line, op := id, line := a.line }))) s

end Sys2Proof.Machine
end

