-- ==== Sys2Proof/Machine/System.lean ====
section
/-! DEFINITION. `exit`, traps, `rett`, `region`, special registers, `vote` and the system controls, opcodes 0x12 to 0x1F (13 R308
to R319). -/

namespace Sys2Proof.Machine

/-! ### `exit` (R308, R169, R256) -/

/-- Lanes leave the path's domain, its mask and every record of its parent chain. -/
def leaveLanes (c : Iss) (lanes : LaneSet) : AreaM Unit := do
  splitRemove c.inst lanes 64 c.p.split
  setHatch c.inst (fun h => h.setPath c.slot ((h.path? c.slot).map (fun p =>
    { p with domain := p.domain &&& ~~~lanes, mask := p.mask &&& ~~~lanes, maskDiff := p.maskDiff &&& ~~~lanes })))

/-- The lanes that an `exit` takes: the whole domain, or the active ones under a guard. -/
def exitLanes (c : Iss) (guarded : Bool) : LaneSet := if guarded then c.act else c.p.domain

def execExit (f : AForm) (s : State) : Host.Outcome State Fault Refusal :=
  issueA 0x12 f (fun c s =>
    let lanes := exitLanes c (f.gsense != 0)
    if f.gsense != 0 && lanes == 0 then finish (retire s c.inst c.slot c.p.pc f.len)
    else afterRelease c s (fun s =>
      let s := withArea (markDirty s c.inst) c.inst c.p.pc (leaveLanes c lanes)
      if c.p.domain &&& ~~~lanes == 0 then finish (endPath (noteIssue s c.inst c.slot) c.inst c.slot c.p.pc)
      else finish (retire s c.inst c.slot c.p.pc f.len))) s

/-! ### Traps (R309) -/

/-- A trap that an instruction asks for, when any lane is active. -/
def softTrap (c : Iss) (s : State) (len code info : Nat) : State :=
  if c.act == 0 then finish (retire s c.inst c.slot c.p.pc len)
  else c.trap s { code := code, info := info, mask := c.act }

def execTrap (f : AForm) (s : State) : Host.Outcome State Fault Refusal :=
  issueA 0x13 f (fun c s => softTrap c s f.len tcSoftware f.aux.toNat) s

def execBrkpt (f : AForm) (s : State) : Host.Outcome State Fault Refusal :=
  issueA 0x16 f (fun c s => softTrap c s f.len tcBreakpoint f.aux.toNat) s

def execEcall (f : AForm) (s : State) : Host.Outcome State Fault Refusal :=
  issueA 0x1A f (fun c s => softTrap c s f.len tcSoftware (0x100 + f.aux.toNat)) s

/-! ### Return from a trap (R172, R255, R273, R310) -/

/-- A hatch whose image is gone has no restart point: `rett` ends it as an unguarded `exit` does (R151). -/
def endWhole (c : Iss) (s : State) : State :=
  afterRelease c s (fun s => finish (endHatch (noteIssue s c.inst c.slot) c.inst false))

/-- Resumes the interrupted paths. -/
def resumeAt (c : Iss) (s : State) (pc : Nat) (fall : Bool) : State :=
  finish (withArea (noteIssue s c.inst c.slot) c.inst c.p.pc (restoreFrame c.inst pc fall))

/-- The length of the instruction at the frame PC; length code 0b11 counts as 8 (R273). -/
def skipLength (bs : List Byte) (off : Nat) : Nat := (lenOfWord (bytesWord (sliceBytes bs off 16))).elim 8 InstrLen.bytes

/-- The frame's PC (R255). -/
def framePc (s : State) (h : Hatch) : EStateM.Result (Nat × Nat) State (List Byte) := (areaRead h.inst (frameAt + 8) 8).run s

/-- Both returns; `retry` resumes at the frame PC itself. -/
def returnFrom (c : Iss) (s : State) (retry : Bool) : State :=
  if !c.p.handler then c.trap s { code := tcIllegalOperand, info := 0x13 }
  else if c.h.noRestart then endWhole c s
  else match framePc s c.h with
    | .error (code, pa) s => finish (areaFault s c.inst c.p.pc code pa)
    | .ok bs s =>
      let pc := bytesNat bs
      if pc % 4 != 0 then c.trap s { code := tcAlign, addr := pc }
      else if retry || c.h.atRestart then resumeAt c s pc false
      else match fetchBlock s c.h { c.p with pc := pc } with
        | (s, .wait) => stall s
        | (s, .poison pa) => finish (poisonKill s c.inst c.p.pc pa)
        | (s, .trap t) => c.trap s t
        | (s, .bytes bs) => resumeAt c s (wrap64 (pc + skipLength bs (pc % 32))) true

def execRett (f : AForm) (s : State) : Host.Outcome State Fault Refusal := issueA 0x14 f (fun c s => returnFrom c s false) s
def execRettRetry (f : AForm) (s : State) : Host.Outcome State Fault Refusal := issueA 0x14 f (fun c s => returnFrom c s true) s

/-! ### `region` (R147, R149, R311) -/

def regionAt : Nat := 0x1C00

/-- The scalars named by the 128-bit mask in sA to sA+3. -/
def regionNames (c : Iss) (x : BitVec 8) : List Nat :=
  let m := c.val x (if isScal x then 4 else 1) 0 0 0
  (List.range 128).filter (fun n => bitAt m n)

/-- The region record (R147). -/
def regionRecord (c : Iss) (next : Nat) (loops : List LoopEntry) (names : List Nat) : List Byte :=
  let mask := names.foldl (fun a n => a + 2 ^ n) 0
  let vals := names.flatMap (fun n => natBytes 4 (c.sword false n).toNat)
  natBytes 8 next ++ natBytes 1 1 ++ natBytes 1 loops.length ++ natBytes 1 c.p.prio ++ natBytes 1 0 ++
    natBytes 12 c.p.domain.toNat ++ natBytes 16 mask ++ vals ++ List.replicate (64 - vals.length) 0 ++ loopsRecord loops

def execRegion (f : AForm) (s : State) : Host.Outcome State Fault Refusal :=
  issueA 0x15 f (fun c s =>
    let names := regionNames c f.srca
    if c.p.handler then finish (killHatch s c.inst tcDoubleTrap c.p.pc)
    else if 1 < c.h.pathCount then c.trap s { code := tcRegionMisuse, info := 2 }
    else if !c.h.pstack.isEmpty then c.trap s { code := tcRegionMisuse, info := 3 }
    else if 16 < names.length then c.trap s { code := tcRegionMisuse, info := 1 }
    else
      let busy := !(c.h.c0.isEmpty && c.h.c1.isEmpty && c.h.c2.isEmpty && c.h.c3.isEmpty)
      if busy || !drained s c.h || names.any (fun n => c.h.emptyS.getLsbD n) then stall s
      else
        let (loops, next) := endCheck (wrap64 (c.p.pc + f.len)) c.p.loops
        let s := withArea s c.inst c.p.pc (areaWrite c.inst regionAt (regionRecord c next loops names))
        moveOn c s f.len (fun h => { h with clean := true, regionDone := true, stores := 0, repeats := 0 })) s

/-! ### Special registers (R254, R312, R313) -/

/-- A record in its 32-byte form (R190). -/
def SfrRec.record (r : SfrRec) : Nat :=
  bytesNat (natBytes 1 r.code ++ natBytes 1 r.cause ++ natBytes 1 r.kind ++ natBytes 1 r.level ++ natBytes 8 r.pc ++
    natBytes 8 r.va ++ natBytes 12 r.lanes.toNat)

/-- The number of made records of a hatch (R191). -/
def sfrCount (s : State) (h : Hatch) : Nat := ((s.core h.core).sfrq.filter (fun r => r.hatch == h.inst)).length

/-- Pops a hatch's oldest record; waiting records move up (R191, R193). -/
def popSfr (s : State) (h : Hatch) : State × Nat :=
  match takeFirst (fun r : SfrRec => r.hatch == h.inst) (s.core h.core).sfrq with
  | none => (s, 0)
  | some (r, rest) => (s.updCore h.core (fun k => ({ k with sfrq := rest } : Core).refillSfr), r.record)

/-- Registers that a read returns with no effect, by number (R254). -/
def readSr (c : Iss) (s : State) (n : Nat) : Nat :=
  match n with
  | 0x02 => c.h.fpflags.toNat
  | 0x03 => natOfBool c.rcd.ftz
  | 0x04 => if c.h.handler then c.h.trapcode else 0
  | 0x06 => c.h.trapinfo
  | 0x07 => c.h.trapaddr % 2 ^ 32
  | 0x08 => c.h.trapaddr / 2 ^ 32
  | 0x09 => c.h.trapmask.toNat % 2 ^ 32
  | 0x0A => c.h.trapmask.toNat / 2 ^ 32 % 2 ^ 32
  | 0x0B => c.h.trapmask.toNat / 2 ^ 64
  | 0x0C => sfrCount s c.h
  | 0x0E => c.h.depth
  | 0x0F => c.p.prio
  | 0x10 => c.h.divDepth
  | 0x11 => c.h.pstack.length
  | 0x12 => c.p.loops.length
  | 0x13 => c.h.core
  | 0x14 => s.fab.chipId
  | 0x15 => (launchOf s c.h).elim 0 (·.id)
  | 0x16 => c.h.c0.length + 256 * c.h.c1.length + 65536 * c.h.c2.length + 2 ^ 24 * c.h.c3.length
  | 0x17 => c.h.area % 2 ^ 32
  | 0x18 => c.h.area / 2 ^ 32
  | 0x19 => c.h.status
  | _ => 0

/-- Whether some earlier instruction of the hatch may still set a flag: a matrix instruction (R234, R313). -/
def flagsPending (s : State) (h : Hatch) : Bool := s.ops.any (fun o => o.hatch == h.inst && h.c1.contains o.id)

/-- The registers of `rdsr` written, and on. -/
def srResult (c : Iss) (s : State) (f : AForm) (w v : Nat) : State :=
  let sh := aShape 0x17 (aRule c.fieldCtx 0x17 f) f
  complete s c sh (c.execMask true (f.gsense != 0)) [.reg f.dst w (fun _ => v)] 0 f.len

def execRdsr (f : AForm) (s : State) : Host.Outcome State Fault Refusal :=
  issueA 0x17 f (fun c s =>
    let n := f.aux.toNat
    if f.gsense != 0 && c.act == 0 then finish (retire s c.inst c.slot c.p.pc f.len)
    else if n == 0x00 then
      let v := (s.core c.h.core).cycle
      srResult { c with h := { c.h with cycleHi := some (v / 2 ^ 32) } } s f 1 v
    else if n == 0x01 then srResult c s f 1 (c.h.cycleHi.getD ((s.core c.h.core).cycle / 2 ^ 32))
    else if n == 0x02 && flagsPending s c.h then stall s
    else if n == 0x05 then
      match framePc s c.h with
      | .error (code, pa) s => finish (areaFault s c.inst c.p.pc code pa)
      | .ok bs s => srResult c s f 1 (wrapN 64 ((bytesNat bs : Int) - c.rcd.entry))
    else if n == 0x0D then
      let (s, v) := popSfr s c.h
      srResult c s f 8 v
    else srResult c s f 1 (readSr c s n)) s

/-- One 32-bit part of a wider number replaced. -/
def setWord (old k v : Nat) : Nat := old - old / 2 ^ (32 * k) % 2 ^ 32 * 2 ^ (32 * k) + v % 2 ^ 32 * 2 ^ (32 * k)

/-- A write to a trap register (R254). -/
def writeTrapReg (n v : Nat) (h : Hatch) : Hatch :=
  match n with
  | 0x04 => { h with trapcode := v }
  | 0x06 => { h with trapinfo := v }
  | 0x07 => { h with trapaddr := setWord h.trapaddr 0 v }
  | 0x08 => { h with trapaddr := setWord h.trapaddr 1 v }
  | 0x09 => { h with trapmask := BitVec.ofNat 96 (setWord h.trapmask.toNat 0 v) }
  | 0x0A => { h with trapmask := BitVec.ofNat 96 (setWord h.trapmask.toNat 1 v) }
  | 0x0B => { h with trapmask := BitVec.ofNat 96 (setWord h.trapmask.toNat 2 v) }
  | _ => h

def execWrsr (f : AForm) (s : State) : Host.Outcome State Fault Refusal :=
  issueA 0x18 f (fun c s =>
    let n := f.aux.toNat
    let v := c.sval f.srca 1
    if f.gsense != 0 && c.act == 0 then finish (retire s c.inst c.slot c.p.pc f.len)
    else if srHandler n && !c.p.handler then c.trap s { code := tcIllegalOperand, info := 0x0F }
    else if n == 0x0F && 7 < v then c.trap s { code := tcIllegalOperand, info := 0x0F }
    else if n == 0x02 then
      if flagsPending s c.h then stall s else moveOn c s f.len (fun h => { h with fpflags := BitVec.ofNat 6 v })
    else if n == 0x0F then moveOn c s f.len (setPrio v c.slot)
    else if n == 0x05 then
      let pc := wrapN 64 ((c.rcd.entry : Int) + sxt 32 v)
      let s := withArea s c.inst c.p.pc (areaWrite c.inst (frameAt + 8) (natBytes 8 pc))
      moveOn c s f.len id
    else moveOn c s f.len (writeTrapReg n v)) s

/-! ### `vote` (R314) -/

def voteResult (c : Iss) (r sub : Nat) : Nat :=
  let t := lanesWith c r .t
  let u := lanesWith c r .u
  if sub == 0 then natOfBool (t != 0)
  else if sub == 1 then natOfBool (t == c.act)
  else if sub == 2 then natOfBool (u != 0)
  else if sub == 3 then natOfBool (t == c.act || u == c.act || lanesWith c r .f == c.act)
  else if sub == 4 then t.toNat else u.toNat

def execVote (f : AForm) (s : State) : Host.Outcome State Fault Refusal :=
  issueA 0x19 f (fun c s =>
    let sh := aShape 0x19 (aRule c.fieldCtx 0x19 f) f
    complete s c sh (if c.act == 0 then 0 else if c.prot then 3 else 1)
      [.reg f.dst (aDstWidth 0x19 f 1) (fun _ => voteResult c (predReg f.srca) f.sub)] 0 f.len) s

/-! ### `tlbinv` (R315) -/

def tlbinvKind (c : Iss) (f : AForm) : ShootKind :=
  if f.sub == 0 then .page (c.sval f.srcb 1) (c.sval f.srca 2 % 2 ^ 52)
  else if f.sub == 1 then .ctx (c.sval f.srcb 1) else .all

/-- The path waits at the instruction until the invalidation is complete on every die. -/
def execTlbinv (f : AForm) (s : State) : Host.Outcome State Fault Refusal :=
  issueA 0x1B f (fun c s =>
    if f.gsense != 0 && c.act == 0 then finish (retire s c.inst c.slot c.p.pc f.len)
    else afterRelease c s (fun s =>
      let (n, s) := startShoot (markDirty s c.inst) (tlbinvKind c f)
      finish (s.updPath c.inst c.slot (fun p => { p with wait := .shoot n })))) s

/-! ### `cachectl` (R316) -/

/-- Publishes a line from one core's L1, and drops the copy where asked; replicas of frozen lines stay (R73). -/
def ctlCore (s : State) (core line : Nat) (inv : Bool) : State :=
  let s := publishRaw s core line
  if inv && ((s.core core).line? line).elim false (fun l => l.kind != .replica && l.kind != .mt4) then
    s.updCore core (fun k => k.dropLine line) else s

/-- Writes the dirty agent copy of a line homed here to its home and keeps it clean. -/
def cleanAgent (s : State) (line : Nat) : State :=
  match dirtyAgent s line with
  | none => s
  | some a =>
    let s := homeSetPoison (homeCommit s line a.data.bytes (BitVec.allOnes 128) (some (a.data.depth + 1, a.data.src)) a.data.quiet) line a.data.poison
    setAgent s { a with st := if a.st == .m then .e else .s, data := { a.data with depth := 0, src := none, quiet := 0 } }

/-- The agents of this package evict their copies of a line of another package: the dirty ones, or all; a dirty copy is
written back. -/
def evictCopies (s : State) (line : Nat) (all : Bool) : State :=
  let mine := s.coh.agents.filter (fun a => a.line == line && !a.wbBuf && a.pending.isNone && (all || a.st.dirty))
  mine.foldl (fun s a => sendWb (evictAgent s a.die line) a.die line) s

/-- The directory of a line whose owner's data the home holds now: an owner with sharers is one more sharer. -/
def settleOwner (s : State) (line : Nat) : State :=
  let e := dirAt s line
  if e.st != .ow then s
  else setDir s { e with st := .sh, sharers := e.sharers ++ e.owner.toList, owner := none }

/-- Writes an MT 3 line back to the host and gives it up (R89). -/
def returnHostLine (s : State) (line : Nat) : State :=
  match agentAt s (hostDie line) line with
  | none => s
  | some a =>
    let s := dropAgent s (hostDie line) line
    (homeWrite s line 0 a.data.bytes).emit (.cacheEvict (portOfLine line) line a.data.bytes a.st.dirty)

/-- One line in every cache of the package; scope 4 also returns host lines. -/
def ctlLine (s : State) (line : Nat) (inv : Bool) (scope : Nat) : State :=
  let s := (List.range 4).foldl (fun s d => (holdersOn s d line).foldl (fun s c => ctlCore s c line inv) s) s
  if lineIsHost line then (if scope == 4 then returnHostLine (takeLine s line) line else s)
  else if !lineIsOwn s line then evictCopies s line inv
  else
    let s := if inv then takeLine s line else settleOwner (cleanAgent s line) line
    let s := flushLine s line
    match lineDram s line with
    | none => s
    | some d =>
      let drop := fun (ch : Channel) => { ch with lines := ch.lines.filter (fun l => l.line != line) }
      if inv then s.setChan (dlCache d) (drop (s.chan (dlCache d))) else s

/-- Every line that some cache of the package holds. -/
def heldLines (s : State) : List Nat :=
  dedup (s.cores.flatMap (fun k => (k.l1.filter (fun l => !l.kind.replica_ && l.kind != .mt4)).map (·.line)) ++
    s.coh.agents.map (·.line) ++ s.slices.map (fun c => c.1 / 128) ++
    s.ms.chans.flatMap (fun x => x.2.lines.map (·.line)))

/-- Every line of one core. -/
def ctlCoreAll (s : State) (core : Nat) (inv : Bool) : State :=
  let s := drainCore s core
  if inv then s.updCore core (fun k => { k with l1 := k.l1.filter (fun l => l.kind == .replica || l.kind == .mt4) }) else s

/-- Every line in every cache of the package. -/
def ctlHeld (s : State) (inv : Bool) (scope : Nat) : State := (heldLines s).foldl (fun s l => ctlLine s l inv scope) s

/-- Scopes 3 and 4 reach every package of the domain. -/
def ctlFar (s : State) (line : Option Nat) (inv : Bool) (scope : Nat) : State :=
  if 3 ≤ scope then domainAct s (.clean line inv scope) else s

def ctlAll (s : State) (core : Nat) (inv : Bool) (scope : Nat) : State :=
  if scope < 2 then ctlCoreAll s core inv else ctlFar (ctlHeld s inv scope) none inv scope

/-- `cachectl` completes once no copy that it evicted waits for its home. -/
def ctlEnd (c : Iss) (f : AForm) (s : State) : State :=
  if 2 ≤ f.rm && s.coh.agents.any (·.wbBuf) then stall s else finish (retire s c.inst c.slot c.p.pc f.len)

def execCachectl (f : AForm) (s : State) : Host.Outcome State Fault Refusal :=
  issueA 0x1C f (fun c s =>
    let inv := f.sub == 1 || f.sub == 3
    if f.gsense != 0 && c.act == 0 then finish (retire s c.inst c.slot c.p.pc f.len)
    else if 2 ≤ f.sub then ctlEnd c f (ctlAll s c.h.core inv f.rm)
    else
      let va := c.sval f.srca 2
      match translate s c.h.core (ctxOf s c.h) c.kern .load va with
      | (s, .fault code cause level) => c.trap s { code := code, info := cause + 256 * level, addr := va, mask := c.act }
      | (s, .poison pa _) => finish (poisonKill s c.inst c.p.pc pa)
      | (s, .ok pa mt _ _ _) =>
        let line := lineOf pa
        let s := if mt == 4 then s
          else if f.rm < 2 then ctlCore s c.h.core line inv else ctlFar (ctlLine s line inv f.rm) (some line) inv f.rm
        ctlEnd c f s) s

/-! ### `lsconv` (R181, R317) -/

def isL1Way (w : Way) : Bool := w == .l1
def isFreeWay (w : Way) : Bool := w == .free

/-- The k highest-numbered ways that satisfy a test become another kind. -/
def convertWays (p : Way → Bool) (new : Way) (k : Nat) (ws : List Way) : List Way :=
  let idx := ((ws.zipIdx.filter (fun x => p x.1)).map (·.2)).reverse.take k
  ws.zipIdx.map (fun x => if idx.contains x.2 then new else x.1)

/-- Lines that the L1's remaining ways cannot hold are published and dropped; one held narrow or for a lazy release drains
the core first (R181). -/
def shrinkL1 (s : State) (c : Nat) : State :=
  let k := s.core c
  let n := l1Ways k
  let gone := k.l1.zipIdx.filter (fun x =>
    decide (n ≤ (k.l1.zipIdx.filter (fun y => y.1.line % 512 == x.1.line % 512 &&
      (decide (x.1.use < y.1.use) || x.1.use == y.1.use && decide (x.2 < y.2)))).length))
  let s := if gone.any (fun x => x.1.dirty != 0) then drainCore s c else s
  s.updCore c (fun k => { k with l1 := k.l1.filter (fun l => !(gone.map (·.1.line)).contains l.line) })

/-- Takes k L1 ways into local-store use (R181). -/
def waysToLocal (s : State) (c k : Nat) : State :=
  shrinkL1 (s.updCore c (fun x => { x with ways := convertWays isL1Way .free k x.ways })) c

def lsWays (k : Core) : Nat := (k.ways.filter (fun w => !isL1Way w)).length

def execLsconv (f : AForm) (s : State) : Host.Outcome State Fault Refusal :=
  issueA 0x1D f (fun c s =>
    let sh := aShape 0x1D (aRule c.fieldCtx 0x1D f) f
    let k := s.core c.h.core
    let n := f.aux.toNat
    let ls := lsWays k
    let count := if f.sub == 0 then min n (14 - ls) else min n (min (k.ways.filter isFreeWay).length (ls - 2))
    if f.gsense != 0 && c.act == 0 then finish (retire s c.inst c.slot c.p.pc f.len)
    else
      let s := if f.sub == 0 then waysToLocal s c.h.core count
        else s.updCore c.h.core (fun x => { x with ways := convertWays isFreeWay .l1 count x.ways })
      complete s c sh (c.execMask true (f.gsense != 0)) [.reg f.dst 1 (fun _ => count)] 0 f.len) s

/-! ### `probe` (R318) -/

/-- The result word of a probe. -/
def probeWord (s : State) (c : Iss) (k : AccKind) (va : Nat) (r : WalkRes) : Nat :=
  match r with
  | .fault _ cause level => level * 2 ^ 52 + cause * 256
  | .poison _ _ => 0
  | .leaf _ pte level =>
    let e := tlbOfLeaf s (ctxOf s c.h) va pte level
    let b := fun (v : Bool) (n : Nat) => natOfBool v * 2 ^ n
    let cause := match judge s c.kern k va e level with
      | .fault _ cause _ => cause
      | _ => 0
    b (pteR pte) 63 + b (pteW pte) 62 + b (pteX pte) 61 + b (pteU pte) 60 + level * 2 ^ 52 +
      (if c.kern then tlbPa e va / 65536 % 2 ^ 36 * 65536 else 0) + cause * 256 + b e.f 7 + b (pteWatch pte) 6 +
      pteMt pte * 8 + b (pteD pte) 2 + b (pteA pte) 1 + b (cause == 0) 0

def execProbe (f : AForm) (s : State) : Host.Outcome State Fault Refusal :=
  issueA 0x1E f (fun c s =>
    let sh := aShape 0x1E (aRule c.fieldCtx 0x1E f) f
    let va := c.sval f.srca 2
    let k := if f.sub == 0 then AccKind.load else .store
    let put := fun (s : State) (v : Nat) => complete s c sh (c.execMask true (f.gsense != 0)) [.reg f.dst 2 (fun _ => v)] 0 f.len
    if f.gsense != 0 && c.act == 0 then finish (retire s c.inst c.slot c.p.pc f.len)
    else if !canonical va then put s 0x100
    else match walkFor s (coreDie c.h.core) (ctxOf s c.h) (va % 2 ^ 52) with
      | (s, .poison pa _) => finish (poisonKill s c.inst c.p.pc pa)
      | (s, r) => put s (probeWord s c k (va % 2 ^ 52) r)) s

/-! ### `errinj` (R319, R110) -/

/-- A sector leaves its channel cache, so that the next read goes to HBM. -/
def chanForget (s : State) (pa : Nat) : State :=
  match lineDram s (lineOf pa) with
  | none => s
  | some d =>
    let ch := s.chan (dlCache d)
    let less := fun (l : ChanLine) => { l with valid := l.valid &&& ~~~(BitVec.ofNat 4 (2 ^ (offsetInLine pa / 32))) }
    if ch.lines.any (fun l => l.line == lineOf pa) then
      s.setChan (dlCache d) { ch with lines := updWhere (fun l => l.line == lineOf pa) less ch.lines } else s

/-- Corrupts the check bits of the sector that holds a PA: 0x0001 one bit, 0x0101 beyond correction. What is published of its line is
written to HBM first, so that the next read meets the corruption. -/
def injectSector (s : State) (pa code : Nat) : State :=
  let s := chanForget (flushLine s (lineOf pa)) pa
  match lineKey s (lineOf pa) with
  | none => s
  | some k =>
    let sec := k * 4 + offsetInLine pa / 32
    if code == 0x0001 then { s with ecc1 := sectorAdd sec s.ecc1 }
    else if code == 0x0101 then { s with poison := sectorAdd sec s.poison }
    else s

def execErrinj (f : AForm) (s : State) : Host.Outcome State Fault Refusal :=
  issueA 0x1F f (fun c s =>
    let sh := aShape 0x1F (aRule c.fieldCtx 0x1F f) f
    let code := c.sval f.srca 1 % 65536
    let va := c.sval f.srcb 2
    if f.gsense != 0 && c.act == 0 then finish (retire s c.inst c.slot c.p.pc f.len)
    else match translate s c.h.core (ctxOf s c.h) c.kern .store va with
      | (s, .fault tc cause level) => c.trap s { code := tc, info := cause + 256 * level, addr := va, mask := c.act }
      | (s, .poison pa _) => finish (poisonKill s c.inst c.p.pc pa)
      | (s, .ok pa mt _ _ _) =>
        let ok := (code == 0x0001 || code == 0x0101) && decide (mt < 3)
        let s := if ok then injectSector s pa code else s
        complete s c sh (c.execMask true (f.gsense != 0)) [.reg f.dst 1 (fun _ => natOfBool !ok)] 0 f.len) s

end Sys2Proof.Machine
end

