-- ==== Sys2Proof/Machine/Tables.lean ====
section
/-! DEFINITION. Page tables as a whole: every leaf of a context that lies in a range of addresses (03 R61, R62, R69; 17 R397). -/

namespace Sys2Proof.Machine

/-- A leaf entry: the address it maps, its level, where it stands and its value. -/
structure Leaf where
  va : Nat
  level : Nat
  addr : Nat
  pte : Nat
  deriving DecidableEq, Repr

/-- Entries of a table at a level (R61). -/
def tableCount (level : Nat) : Nat := if level == 1 then 1024 else 8192

/-- The entries of one table, by index, that may map some of [lo, hi). -/
def tableSpan (level base lo hi : Nat) : List Nat :=
  let size := 2 ^ pageBits level
  let first := (lo - base) / size
  let past := min (tableCount level) ((hi - base + size - 1) / size)
  (List.range (past - first)).map (fun i => first + i)

/-- The leaves below a table that map some of [lo, hi). Entries that a walk would fault on map nothing. -/
def leavesBelow (s : State) : Nat → Nat → Nat → Nat → Nat → Nat → List Leaf
  | 0, _, _, _, _, _ => []
  | k + 1, level, table, base, lo, hi =>
    (tableSpan level base lo hi).flatMap (fun i =>
      let addr := table + 8 * i
      let va := base + i * 2 ^ pageBits level
      if paUnbacked s addr then []
      else
        let (bs, p) := peekPa s addr 8
        let e := bytesNat bs
        if p || !pteV e || pteMalformed e level then []
        else if ptePointer e then leavesBelow s k (level + 1) (ptePa e) va lo hi
        else [⟨va, level, addr, e⟩])

/-- Reads the tables below a table as far as they map some of [lo, hi): ordinary coherent reads (R43, R62). -/
def readBelow : Nat → State → Nat → Nat → Nat → Nat → Nat → State
  | 0, s, _, _, _, _, _ => s
  | k + 1, s, level, table, base, lo, hi =>
    (tableSpan level base lo hi).foldl (fun s i =>
      let addr := table + 8 * i
      if paUnbacked s addr then s
      else
        let (s, e, p) := readPte s addr
        if p || !pteV e || pteMalformed e level || !ptePointer e then s
        else readBelow k s (level + 1) (ptePa e) (base + i * 2 ^ pageBits level) lo hi) s

/-- Reads the tables of a context that map some of [lo, hi). -/
def readTables (s : State) (ctx lo hi : Nat) : State :=
  match s.ctx? ctx with
  | none => s
  | some c => readBelow 3 s 1 c.root 0 lo hi

/-- The leaves of a context in [lo, hi) of the 52-bit addresses. -/
def leavesOf (s : State) (ctx lo hi : Nat) : List Leaf :=
  match s.ctx? ctx with
  | none => []
  | some c => leavesBelow s 3 1 c.root 0 lo hi

/-- The physical 64 KiB pages that a leaf maps within [lo, hi): first page and count. -/
def Leaf.pages (x : Leaf) (lo hi : Nat) : Nat × Nat :=
  let a := max lo x.va
  let b := min hi (x.va + 2 ^ pageBits x.level)
  (ptePa x.pte / 65536 + (a - x.va) / 65536, (b - a) / 65536)

/-- The physical pages of a range of a context. -/
def pagesOf (s : State) (ctx base size : Nat) : List (Nat × Nat) :=
  (leavesOf s ctx base (base + size)).map (fun x => x.pages base (base + size))

def inPages (ps : List (Nat × Nat)) (page : Nat) : Bool := ps.any (fun x => decide (x.1 ≤ page) && decide (page < x.1 + x.2))

/-- A set of pages without those of one range. -/
def cutPages (cut : Nat × Nat) (ps : List (Nat × Nat)) : List (Nat × Nat) :=
  ps.flatMap (fun x =>
    let e := x.1 + x.2
    let c := cut.1 + cut.2
    if e ≤ cut.1 ∨ c ≤ x.1 then [x]
    else (if x.1 < cut.1 then [(x.1, cut.1 - x.1)] else []) ++ (if c < e then [(c, e - c)] else []))

end Sys2Proof.Machine
end

