-- ==== Sys2Proof/Machine/Freeze.lean ====
section
/-! DEFINITION. Freezing and thawing ranges of addresses (17 R396 to R399; 09 R222 to R224, R446), and the events
FREEZE_COMPLETE and THAW_COMPLETE. -/

namespace Sys2Proof.Machine

/-! ### Handles (R396) -/

def refused : Nat := 0xFFFFFFFF

def freezeHandle (gen entry : Nat) (thaw : Bool) : Nat := gen % 2 ^ 24 * 256 + natOfBool thaw * 64 + entry % 64

/-- A handle whose reserved bit is zero; the refused value is not one. -/
def handleOk (h : Nat) : Bool := !bitAt h 7
def handleGen (h : Nat) : Nat := h / 256 % 2 ^ 24
def handleThaw (h : Nat) : Bool := bitAt h 6
def handleEntry (h : Nat) : Nat := h % 64

def State.frz (s : State) (i : Nat) : FreezeEnt := s.freeze.getD i FreezeEnt.reset

def State.updFrz (s : State) (i : Nat) (f : FreezeEnt → FreezeEnt) : State := { s with freeze := s.freeze.set i (f (s.frz i)) }

/-! ### Freeze (R397) -/

def freezeShoot (e : FreezeEnt) : ShootKind := .range e.ctx e.base e.size true false
def thawShoot (e : FreezeEnt) : ShootKind := .range e.ctx e.base e.size false true

/-- Whether an invalidation of a kind is in progress. -/
def shooting (s : State) (k : ShootKind) : Bool := s.tr.shoots.any (fun x => decide (x.kind = k))

/-- The active entries but one. -/
def otherEntries (s : State) (i : Nat) : List FreezeEnt :=
  (s.freeze.zipIdx.filter (fun x => x.2 != i && x.1.state != .free)).map (·.1)

def entryPages (s : State) (e : FreezeEnt) : List (Nat × Nat) := pagesOf s e.ctx e.base e.size

/-- Steps 1 and 2 in this package: the entry and the frozen pages are set at every home, and the shootdown begins. -/
def beginFreeze (s : State) (i : Nat) (e : FreezeEnt) : State :=
  let s := readTables s e.ctx e.base (e.base + e.size)
  let s := s.updFrz i (fun _ => e)
  let s := (entryPages s (s.frz i)).foldl (fun s x => addFrozen s (x.1 * 65536) x.2) s
  (startShoot s (freezeShoot (s.frz i))).2

def startFreeze (s : State) (i ctx base size : Nat) : State :=
  (beginFreeze s i ⟨((s.frz i).gen + 1) % 2 ^ 24, .freezing, ctx, base, size, false, false⟩).post .freezeComplete { entry := i }

/-- The checks of R397 on the operands. -/
def freezeCheck (c : Iss) (base size : Nat) : Option TrapReport :=
  let last := base + size - 1
  if base % 65536 != 0 then some { code := tcAlign, addr := base, mask := c.act }
  else if size == 0 || size % 65536 != 0 then some { code := tcIllegalOperand, info := 0x413 }
  else if !canonical base then some { code := tcTranslation, info := 0x01, addr := base, mask := c.act }
  else if 2 ^ 64 ≤ last || !canonical last then some { code := tcIllegalOperand, info := 0x413 }
  else none

/-- The base address of a form with an offset and no index. -/
def baseImm (c : Iss) (f : MForm) : Nat := wrapN 64 ((c.sval f.addr 2 : Int) + sxt 32 f.imm.toNat)

/-- D of a form that runs once. -/
def onceResult (c : Iss) (s : State) (op : Nat) (f : MForm) (w v : Nat) : State :=
  complete s (c.refresh s) (mShape op f) (if c.prot then 3 else 1) [.reg f.d w (fun _ => v)] 0 16

def execFreeze (f : MForm) (s : State) : Host.Outcome State Fault Refusal :=
  issueM 0xC2 f (fun c s =>
    let base := baseImm c f
    let size := c.sval f.x 2
    if c.act == 0 && f.gsense != 0 then finish (retire s c.inst c.slot c.p.pc 16)
    else match freezeCheck c base size with
      | some t => c.trap s t
      | none =>
        let ctx := ctxOf s c.h
        let va := base % 2 ^ 52
        let meets := fun (e : FreezeEnt) => e.state == .thawing && e.ctx == ctx && decide (e.base < va + size) && decide (va < e.base + e.size)
        if s.freeze.any meets then stall s
        else afterRelease c s (fun s =>
          let s := markDirty s c.inst
          let free := (s.freeze.zipIdx.filter (fun x => x.1.state == .free)).map (·.2)
          if free.isEmpty then onceResult c s 0xC2 f 1 refused
          else
            let (k, s) := s.choose free.length
            let i := free.getD k 0
            let s := startFreeze s i ctx va size
            onceResult c s 0xC2 f 1 (freezeHandle (s.frz i).gen i false))) s

/-- Whether a store that translated before the freeze has still to commit in its range. -/
def storesInRange (s : State) (e : FreezeEnt) : Bool :=
  s.ops.any (fun o => opWrites o.what && o.ctx == e.ctx && o.lanes.any (fun a =>
    a.pending && a.tr && decide (e.base ≤ a.va % 2 ^ 52) && decide (a.va % 2 ^ 52 < e.base + e.size)))

/-- The cores of a line's list drain, and its dirty copies are published: at other packages by PUB, and from an owner there by taking
the line back. -/
def publishListed (s : State) (line : Nat) : State :=
  let e := dirAt s line
  let s := (e.lazy.filter (fun x => x.1 == s.fab.chipId)).foldl (fun s x => drainFor s x.2 line) s
  let s := setDir s { dirAt s line with lazy := e.lazy.filter (fun x => x.1 != s.fab.chipId) }
  if e.owner.elim false (foreignWho s) then s.want (.own line) else if lineIsOwn s line then acquireAfar s line else s

/-- An agent's dirty copy of a line goes to the line's home. -/
def publishOwned (s : State) (line : Nat) : State :=
  if lineIsOwn s line then settleOwner (cleanAgent s line) line else evictCopies s line false

/-- Step 3: every dirty copy in some pages is published. -/
def publishPages (s : State) (inside : Nat → Bool) : State :=
  let here := fun (line : Nat) => !lineIsHost line && inside (line / 512)
  let listed := (s.coh.dir.filter (fun e => here e.line)).map (·.line)
  let s := listed.foldl publishListed s
  let dirty := dedup (s.cores.flatMap (fun k => (k.l1.filter (fun l => l.dirty != 0 && inside (l.line / 512))).map (·.line)))
  let s := dirty.foldl (fun s line => (linePoints line).foldl (fun s ds => settleDie s ds line) s) s
  let owned := dedup ((s.coh.agents.filter (fun a => a.st.dirty && !a.wbBuf && here a.line)).map (·.line))
  owned.foldl publishOwned s

/-- The pages of some entries. -/
def pagesOfAll (s : State) (es : List FreezeEnt) : List (Nat × Nat) := es.flatMap (entryPages s)

/-- The page tables of some entries' ranges are read. -/
def readEntries (s : State) (es : List FreezeEnt) : State := es.foldl (fun s e => readTables s e.ctx e.base (e.base + e.size)) s

/-- Step 1 of a thaw (R398). -/
def startThaw (s : State) (i : Nat) : State :=
  (s.updFrz i (fun e => { e with state := .thawing, thawIssued := true, thawWanted := false })).post .thawComplete { entry := i }

/-- Step 3 for an entry in this package, and whether a write-back of it is still under way. -/
def publishFrozen (s : State) (i : Nat) : State × Bool :=
  let e := s.frz i
  let done := (otherEntries s i).filter (fun x => x.state != .freezing)
  let s := readEntries s (e :: done)
  let inside := fun (p : Nat) => inPages (entryPages s e) p && !inPages (pagesOfAll s done) p
  let s := publishPages s inside
  (s, s.coh.agents.any (fun a => a.wbBuf && inside (a.line / 512)))

/-- What a freeze asks of the other packages: its steps 1 to 3 there. -/
def freezeAct (i : Nat) (e : FreezeEnt) : DomainAct := .freeze i e.gen e.ctx e.base e.size

/-- FREEZE_COMPLETE: once the shootdown is over and every store that translated before it has committed, the other packages do the
same, and steps 3 and 4 follow. -/
def execFreezeComplete (s : State) : Host.Outcome State Fault Refusal :=
  let i := s.arg.entry
  let e := s.frz i
  .next (
    if e.state != .freezing then finish s
    else if shooting s (freezeShoot e) || storesInRange s e then s.park .freezeComplete
    else
      let (s, waits) := publishFrozen (domainAct s (freezeAct i e)) i
      if waits then (settle s).wake.park .freezeComplete
      else
        let s := tellDomain (s.updFrz i (fun e => { e with state := .frozen })) (.frozen i e.gen)
        finish (if e.thawWanted then startThaw s i else s))

/-! ### Thaw (R398) -/

def execThaw (f : MForm) (s : State) : Host.Outcome State Fault Refusal :=
  issueM 0xC3 f (fun c s =>
    let h := c.sval f.x 1
    let i := handleEntry h
    let e := s.frz i
    if c.act == 0 && f.gsense != 0 then finish (retire s c.inst c.slot c.p.pc 16)
    else if !handleOk h || handleThaw h || e.state == .free || e.state == .thawing || e.gen != handleGen h || e.ctx != ctxOf s c.h then
      onceResult c (markDirty s c.inst) 0xC3 f 1 refused
    else if e.state == .freezing then stall s
    else onceResult c (startThaw (markDirty s c.inst) i) 0xC3 f 1 (freezeHandle e.gen i true)) s

/-- Step 2 of a thaw: every cache drops its replicas of the pages that no other active entry covers. -/
def dropReplicas (s : State) (mine kept : List (Nat × Nat)) : State :=
  let falls := fun (line : Nat) => inPages mine (line / 512) && !inPages kept (line / 512)
  let s : State := { s with cores := s.cores.map (fun k => { k with l1 := k.l1.filter (fun l => !(l.kind == .replica && falls l.line)) }) }
  updCoh s (fun c => { c with replicas := c.replicas.filter (fun r => !falls r.line) })

/-- Step 3 of a thaw: no translation of the range keeps F, and the pages leave the frozen sets of the homes. -/
def clearThaw (s : State) (i : Nat) : State :=
  let e := s.frz i
  let kept := pagesOfAll s (otherEntries s i)
  let s : State := { s with tr := { s.tr with frozenPages := (entryPages s e).foldl (fun ps x => cutPages x ps) s.tr.frozenPages } }
  kept.foldl (fun s x => addFrozen s (x.1 * 65536) x.2) s

/-- The entry is free, and nothing of the range keeps F. -/
def endThaw (s : State) (i : Nat) : State :=
  let e := s.frz i
  let s := clearThaw s i
  shootNow (s.updFrz i (fun e => { e with state := .free, thawWanted := false })) (thawShoot e)

/-- Steps 1 and 2 of a thaw in this package, and the shootdown of step 3, which `thawWanted` notes. -/
def beginThaw (s : State) (i : Nat) : State :=
  let e := s.frz i
  let s := (dropReplicas s (entryPages s e) (pagesOfAll s (otherEntries s i))).updFrz i (fun e =>
    { e with thawWanted := true })
  (startShoot s (thawShoot e)).2

/-- THAW_COMPLETE: once every package has dropped its replicas the shootdown of step 3 begins; once that is over here, the other
packages clear F as well, and then the entry is free. -/
def execThawComplete (s : State) : Host.Outcome State Fault Refusal :=
  let i := s.arg.entry
  let e := s.frz i
  .next (
    if e.state != .thawing then finish s
    else if e.thawWanted && shooting s (thawShoot e) then s.park .thawComplete
    else
      let s := readEntries s (e :: otherEntries s i)
      if !e.thawWanted then finish ((beginThaw (domainAct s (.thaw i e.gen)) i).post .thawComplete { entry := i })
      else if domainDone s (.thawed i e.gen) then finish (endThaw (dropAsk s (.thawed i e.gen)) i)
      else (settle (askDomain (clearThaw s i) (.thawed i e.gen))).park .thawComplete)

/-! ### What another package asks (entry 69) -/

/-- Another package's freeze: steps 1 to 3 here, and whether they are over. -/
def farFreeze (s : State) (i : Nat) (e : FreezeEnt) : State × Bool :=
  let s := if (s.frz i).state == .freezing && (s.frz i).gen == e.gen then s else beginFreeze s i e
  if shooting s (freezeShoot e) || storesInRange s e then (s, false)
  else
    let (s, waits) := publishFrozen s i
    (s, !waits)

/-- The last step of another package's thaw: F is cleared here by a shootdown, and the entry is free; and whether it is over. -/
def farThawed (s : State) (i gen : Nat) : State × Bool :=
  let e := s.frz i
  if e.state != .thawing || e.gen != gen then (s, true)
  else if e.thawWanted && shooting s (thawShoot e) then (s, false)
  else
    let s := readEntries s (e :: otherEntries s i)
    if e.thawWanted then (endThaw s i, true) else (beginThaw s i, false)

/-- What every package of the domain does at another's request, and whether it is over. -/
def serveDomain (s : State) (a : DomainAct) : State × Bool :=
  match a with
  | .freeze i gen ctx base size => farFreeze s i ⟨gen, .freezing, ctx, base, size, false, false⟩
  | .frozen i gen =>
    if (s.frz i).state != .freezing || (s.frz i).gen != gen then (s, true)
    else
      let s1 := s.updFrz i (fun e => { e with state := .frozen })
      (if (s.frz i).thawWanted then startThaw s1 i else s1, true)
  | .thaw i gen =>
    let e := s.frz i
    if e.gen != gen || e.state == .free then (s, true)
    else
      let s := readEntries s (e :: otherEntries s i)
      let s := dropReplicas s (entryPages s e) (pagesOfAll s (otherEntries s i))
      (s.updFrz i (fun e => { e with state := .thawing, thawIssued := true }), true)
  | .thawed i gen => farThawed s i gen
  | .drain => (drainAll s, true)
  | .clean line inv scope =>
    let s := match line with
      | some l => ctlLine s l inv scope
      | none => ctlHeld s inv scope
    (s, !s.coh.agents.any (·.wbBuf))
  | .done =>
    let from_ := fun (x : DomainAsk) => { x with wait := x.wait.filter (fun c => Who.agent c 0 != s.arg.who) }
    (updCoh s (fun c => { c with asked := updWhere (fun x => x.key == s.arg.op) from_ c.asked }), true)

/-- PUB as the message of another package that concerns the whole domain: done, and answered where an answer is awaited. -/
def execDomain (s : State) (a : DomainAct) : State :=
  match serveDomain s a with
  | (s, false) => (settle s).park .pub
  | (s, true) =>
    if s.arg.op == 0 || a == .done then finish s
    else finish (sendDomain s .rsp (whoChip s.arg.who) s.arg.op .done)

/-! ### `fwait` (R399) -/

/-- What `fwait` answers for a handle: 0 or 1, or none while it waits. -/
def fwaitAnswer (s : State) (h : Nat) : Option Nat :=
  let e := s.frz (handleEntry h)
  let d := (e.gen + 2 ^ 24 - handleGen h) % 2 ^ 24
  if !handleOk h then some 1
  else if 2 ^ 23 ≤ d then some 1
  else if d != 0 then some 0
  else if handleThaw h then (if !e.thawIssued then some 1 else if e.state == .free then some 0 else none)
  else if e.state == .freezing then none else some 0

def execFwait (f : MForm) (s : State) : Host.Outcome State Fault Refusal :=
  issueM 0xC4 f (fun c s =>
    if c.act == 0 && f.gsense != 0 then finish (retire s c.inst c.slot c.p.pc 16)
    else match fwaitAnswer s (c.sval f.x 1) with
      | none => stall s
      | some 0 => if !loadsDone s c.h then stall s else onceResult c (acquireFence s c.inst) 0xC4 f 1 0
      | some v => onceResult c s 0xC4 f 1 v) s

end Sys2Proof.Machine
end

