-- ==== Sys2Proof/Machine/Place.lean ====
section
/-! DEFINITION. Where the hatches of a block go (07 R129 to R132): the room of a core, and the dispatcher's choice of cores. -/

namespace Sys2Proof.Machine

/-- What a core can still give: hatches per partition, registers per partition, tiles, and the ways that blocks own. -/
structure Room where
  slots : List Nat
  regs : List Nat
  tiles : Nat
  ways : Nat
  deriving DecidableEq, Repr

def Room.empty : Room := ⟨List.replicate 8 0, List.replicate 8 256, 8, 0⟩

/-- Free hatch slots. -/
def Room.free (r : Room) : Nat := 96 - r.slots.foldl (· + ·) 0

def isOwned (w : Way) : Bool := match w with
  | .owned _ _ _ => true
  | _ => false

def roomOf (s : State) (c : Nat) : Room :=
  let hs := s.hatches.filter (fun h => h.core == c)
  { slots := tabulate 8 (fun p => (hs.filter (fun h => h.partition == p)).length)
    regs := tabulate 8 (fun p => poolFreeRegs s c p)
    tiles := 8 - hs.foldl (fun a h => a + (recOf s h).tiles) 0
    ways := ((s.core c).ways.filter isOwned).length }

/-- What the hatches of a block on one core take: partition and registers of each; tiles of each; ways. -/
structure Need where
  hatches : List (Nat × Nat)
  tiles : Nat
  ways : Nat
  deriving DecidableEq, Repr

def Need.count (n : Need) (p : Nat) : Nat := (n.hatches.filter (fun x => x.1 == p)).length
def Need.regs (n : Need) (p : Nat) : Nat := (n.hatches.filter (fun x => x.1 == p)).foldl (fun a x => a + x.2) 0

/-- R130 on one core. -/
def Room.fits (r : Room) (n : Need) : Bool :=
  decide (n.tiles * n.hatches.length ≤ r.tiles) && decide (r.ways + n.ways ≤ 14) &&
  (List.range 8).all (fun p => decide (r.slots.getD p 0 + n.count p ≤ 12) && decide (n.regs p ≤ r.regs.getD p 0))

def Room.take (r : Room) (n : Need) : Room :=
  { slots := tabulate 8 (fun p => r.slots.getD p 0 + n.count p), regs := tabulate 8 (fun p => r.regs.getD p 0 - n.regs p)
    tiles := r.tiles - n.tiles * n.hatches.length, ways := r.ways + n.ways }

/-- The hatches of a launch that a core can hold (R131). -/
def perCore (r : LaunchRec) : Nat :=
  let k := if r.floor == 0 then 96 else 8 * min 12 (256 / r.floor)
  if r.tiles == 0 then k else min k (8 / r.tiles)

def coresOf (r : LaunchRec) (hatches : Nat) : Nat := (hatches + perCore r - 1) / perCore r

/-- The local-store ways of a block on each of its cores (R130). -/
def waysOf (r : LaunchRec) : Nat := (r.local_ + 65535) / 65536

/-- What a rank of a block needs, for the positions of its hatches and the registers of each. -/
def needOf (r : LaunchRec) (hs : List (Nat × Nat)) (rank : Nat) : Need :=
  { hatches := (hs.filter (fun x => x.1 / perCore r == rank)).map (fun x => (x.1 % 8, x.2)), tiles := r.tiles, ways := waysOf r }

/-- The ways to choose k elements, in lexicographic order. -/
def choices : Nat → List Nat → List (List Nat)
  | 0, _ => [[]]
  | _, [] => []
  | k + 1, x :: r => (choices k r).map (fun c => x :: c) ++ choices (k + 1) r

/-- The sets of cores of a die, by rank, that can take a block of the record that has n hatches, of which `hs` are to run (R131). -/
def placesOn (room : Nat → Room) (die : Nat) (r : LaunchRec) (n : Nat) (hs : List (Nat × Nat)) : List (List Nat) :=
  let c := coresOf r n
  let cand := if c ≤ 1 then (dieCores die).map (fun x => [x])
    else (List.range 8).flatMap (fun q => choices c ((List.range 8).map (fun i => die * 64 + q * 8 + i)))
  cand.filter (fun cs => cs.zipIdx.all (fun x => (room x.1).fits (needOf r hs x.2)))

/-- The dispatcher's choice among them; none where the block does not fit. -/
def placeOn (room : Nat → Room) (die : Nat) (r : LaunchRec) (n : Nat) (hs : List (Nat × Nat)) : Option (List Nat) :=
  greatestBy (fun cs => cs.foldl (fun a x => min a (room x).free) 96) (placesOn room die r n hs)

/-- A fresh block's hatches: positions with the register floor. -/
def freshHatches (r : LaunchRec) (n : Nat) : List (Nat × Nat) := (List.range n).map (fun i => (i, r.floor))

/-- Places n fresh blocks on a die one after another; none where some block finds no place. -/
def placeMany (die : Nat) (r : LaunchRec) : Nat → (Nat → Room) → Option (List (List Nat) × (Nat → Room))
  | 0, room => some ([], room)
  | n + 1, room =>
    match placeOn room die r r.hatches (freshHatches r r.hatches) with
    | none => none
    | some cs =>
      let room' := fun x => match cs.idxOf? x with
        | some k => (room x).take (needOf r (freshHatches r r.hatches) k)
        | none => room x
      (placeMany die r n room').map (fun (rest, rm) => (cs :: rest, rm))

/-- The blocks of a launch on a die. -/
def blocksOn (blocks die : Nat) : Nat := (blocks + 3 - die) / 4

/-- Whether an empty package could hold a co-operative launch (R132). A die holds at most 6,144 hatches. -/
def coopFits (r : LaunchRec) : Bool :=
  (List.range 4).all (fun d =>
    decide (blocksOn r.blocks d ≤ 6144) && (placeMany d r (blocksOn r.blocks d) (fun _ => Room.empty)).isSome)

end Sys2Proof.Machine
end

