-- ==== Sys2Proof/Machine/Start.lean ====
section
/-! DEFINITION. A hatch and a block at their start (11 R246, R250, 07 R126). -/

namespace Sys2Proof.Machine

/-- The lanes a hatch starts with: all 96, or the 48 visible ones of protected mode (R250, R195). -/
def startDomain (prot : Bool) : LaneSet := if prot then protLanes else allLanes

/-- The scalar registers at start (R250); s0 to s3 belong to the path. -/
def startScalars (b : Block) (rcd : LaunchRec) (index : Nat) : List Word :=
  let trig := b.triggered
  let w := fun (v k : Nat) => wordOf v k
  [0, 0, 0, 0, w rcd.args 0, w rcd.args 1, w b.trigArg 0, w b.trigArg 1, BitVec.ofNat 32 b.index, BitVec.ofNat 32 index,
    BitVec.ofNat 32 rcd.hatches, BitVec.ofNat 32 (if trig then 1 else rcd.blocks)] ++ List.replicate 116 0

def emptyPreds : List PredReg := List.replicate 8 (List.replicate 96 .f)

/-- The tiles of a hatch: zero (R182). -/
def zeroTiles (n : Nat) : List (List (List Word)) := List.replicate n (List.replicate 96 (List.replicate 64 0))

/-- A hatch at its first start (R246, R250). -/
def newHatch (inst : Nat) (b : Block) (rcd : LaunchRec) (index core partition age area : Nat) : Hatch :=
  let ss := startScalars b rcd index
  { inst := inst, block := b.inst, index := index, core := core, partition := partition, age := age
    slot0 := some (Path.start rcd.entry (startDomain rcd.prot) 0 false), slot1 := none
    v := List.replicate 64 VReg.unmapped, emptyV := 0, emptyS := 0, emptyP := 0, lateV := 0, lateS := 0, lateP := 0, s := ss, shadow := ss, p := emptyPreds
    pstack := [], tiles := zeroTiles rcd.tiles, c0 := [], c1 := [], c2 := [], c3 := [], fpflags := 0, trapcode := 0
    trapinfo := 0, trapaddr := 0, trapmask := 0, cycleHi := none, depth := b.depth, status := 0, area := area, dstack := []
    dstackHandler := 0, splits := [], splitUsed := 0, splitHandler := 0, splitOut := 0, handler := false, clean := true
    regionDone := false, spawned := b.spawnArea.isSome, imageValid := b.spawnArea.isSome, noRestart := false, atRestart := false
    readLines := [], readMany := false, fenceRel := false, mt4Ports := 0, engFaults := [], abandoned := []
    stores := 0, repeats := 0 }

/-- A block as it enters a queue. -/
def newBlock (inst launch index die : Nat) (rcd : LaunchRec) (clock : Nat) : Block :=
  { inst := inst, launch := launch, index := index, die := die, phase := .queued, triggered := false, spawnArea := none
    sole := 0, granule := 0, granuleN := 0, trigArg := 0, depth := 0, effPrio := rcd.prio, agedFrom := clock, queuedAt := clock
    age := inst, cores := [], areas := [], exited := [], ktrig := false, arrived := [], hwGroups := []
    spawnRegs := [], spawnS := [], replay := false, restart := [], saved := none, areaFault := false }

end Sys2Proof.Machine
end

