-- ==== Sys2Proof/Machine/Launch.lean ====
section
/-! DEFINITION. Launch records and their checks (07 R122, R123, R144), launch ids (R124), the queues of the dispatchers (R127,
R128), `launch`, `kwait`, `ktrig` (18 R416, R417; R143) and LAUNCH_ACCEPTED. -/

namespace Sys2Proof.Machine

/-! ### Records (R122, R144, R125) -/

/-- The record as it stands, its sync groups apart; none where a limit of R122 fails. -/
def parseRecord (bs : List Byte) : Option LaunchRec :=
  let g := fieldAt bs
  let flags := g 0x1E 2
  let n := g 0x33 1
  let ids := (List.range 4).map (fun i => g (0x40 + 4 * i) 4)
  let r : LaunchRec :=
    { entry := g 0 8, trap := g 8 8, args := g 0x10 8, blocks := g 0x18 4, hatches := g 0x1C 2, coop := bitAt flags 0
      prot := bitAt flags 1, redme := bitAt flags 2, ftz := bitAt flags 3, dep := bitAt flags 4, local_ := g 0x20 4
      floor := g 0x24 1, peak := g 0x25 1, tiles := g 0x26 1, prio := g 0x27 1, depthLimit := g 0x32 1, pool := g 0x38 8
      producers := ids.take n, spill := g 0x50 8, groups := [] }
  let ok := canonical r.entry && r.entry % 4 == 0 && canonical r.trap && r.trap % 4 == 0 && r.trap != 0 &&
    decide (1 ≤ r.blocks) && decide (1 ≤ r.hatches) && decide (r.hatches ≤ 384) && decide (flags < 32) &&
    decide (r.local_ ≤ 917504) && decide (r.floor ≤ r.peak) && decide (1 ≤ r.peak) && decide (r.peak ≤ 128) &&
    decide (r.tiles ≤ 8) && decide (r.prio ≤ 7) && (g 0x30 2 == 0 || g 0x28 8 % 64 == 0) && decide (g 0x30 2 ≤ 256) &&
    decide (r.depthLimit ≤ 15) && decide (n ≤ 4) && (r.dep == decide (1 ≤ n)) && g 0x34 4 == 0 && r.pool % 8192 == 0 &&
    (ids.drop n).all (fun i => i == 0) && r.spill % 128 == 0 && g 0x5C 164 == 0 && decide (coresOf r r.hatches ≤ 4)
  if ok then some r else none

/-- Entry g of a sync-group table: its members. -/
def groupMembers (bs : List Byte) (g : Nat) : List Nat :=
  (List.range 384).filter (fun i => bitAt (fieldAt bs (64 * g) 48) i)

/-- R144. -/
def groupsOk (hatches n : Nat) (bs : List Byte) : Bool :=
  let gs := (List.range n).map (groupMembers bs)
  gs.zipIdx.all (fun x => !x.1.isEmpty && x.1.all (fun i => decide (i < hatches)) && fieldAt bs (64 * x.2 + 0x30) 2 == x.1.length) &&
    (List.range hatches).all (fun i => decide ((gs.filter (fun m => m.contains i)).length ≤ 4))

/-- The sync-group table and the pool header of a record, with their checks. -/
def checkTables (c ctx va n : Nat) (r : LaunchRec) : AreaM (Option LaunchRec) := do
  let tbl ← devRead c ctx va (64 * n)
  reservedRead (coreDie c) ((List.range n).any (fun g => fieldAt tbl (64 * g + 0x32) 14 != 0))
  let hd ← devRead c ctx r.pool 128
  reservedRead (coreDie c) (fieldAt hd 4 4 != 0 || fieldAt hd 0x14 108 != 0)
  let slots := fieldAt hd 0 4
  if groupsOk r.hatches n tbl && decide (r.hatches ≤ slots) && decide (slots ≤ 2 ^ 24) then
    return some { r with groups := (List.range n).map (groupMembers tbl) }
  else return none

/-- Reads and checks the record at a VA (R123): none where a check fails, among them a table or a pool header that cannot be
read. A record that cannot be read is a fault. Poison is logged (R445). -/
def readRecord (c ctx va : Nat) : AreaM (Option LaunchRec) := do
  let bs ← (devRead c ctx va 256).logged
  if va % 64 != 0 then return none
  else match parseRecord bs with
    | none => return none
    | some r => try (checkTables c ctx (fieldAt bs 0x28 8) (fieldAt bs 0x30 2) r).logged catch _ => return none

/-! ### Launch ids (R124) -/

def seqNorm (n : Nat) : Nat := (n - 1) % (2 ^ 28 - 1) + 1

def seqLive (s : State) (n : Nat) : Bool := s.sched.launches.any (fun l => l.id % 2 ^ 28 == n)

/-- The next id whose number is not live. -/
def takeId (s : State) : Option (Nat × State) :=
  let tries := min (s.sched.launches.length + 1) (2 ^ 28 - 1)
  (((List.range tries).map (fun i => seqNorm (s.sched.nextSeq + i))).find? (fun n => !seqLive s n)).map (fun n =>
    (s.fab.chipId * 2 ^ 28 + n, { s with sched := { s.sched with nextSeq := seqNorm (n + 1) } }))

/-! ### Queues (R127, R128) -/

/-- A block enters its die's queue. -/
def queueBlock (s : State) (b : Block) : State :=
  let s := { s with sched := { s.sched with blocks := s.sched.blocks ++ [b] } }
  let s := s.postOnce .blockAdmission { die := b.die }
  if b.die == 0 then s else s.postOnce .blockAdmission { die := 0 }

/-- The next block of a launch on a die enters the queue, at the age it has waited since the launch (R127, R128). -/
def queueHead (s : State) (id die age : Nat) : State :=
  match s.launch? id with
  | none => s
  | some l =>
    let i := l.nextIdx.getD die 0
    if l.rcd.blocks ≤ i then s
    else
      let (inst, s) := s.fresh
      let k := min (7 - l.rcd.prio) ((s.clock - l.queuedAt) / 2400000)
      let b := { newBlock inst id i die l.rcd l.queuedAt with
        effPrio := l.rcd.prio + k, agedFrom := l.queuedAt + k * 2400000, age := age }
      let s := s.updLaunch id (fun l => { l with nextIdx := l.nextIdx.set die (i + 4) })
      queueBlock s b

/-- A launch is queued: its first block on each die. -/
def queueLaunch (s : State) (id ctx va : Nat) (r : LaunchRec) : State :=
  let l : Launch :=
    { id := id, rcd := r, ctx := ctx, recVa := va, watched := false, watch := none, phase := .running, spawnSerial := 0, nextIdx := [0, 1, 2, 3]
      queuedAt := s.clock }
  let s := { s with sched := { s.sched with launches := s.sched.launches ++ [l] } }
  let (age, s) := s.fresh
  (List.range 4).foldl (fun s d => queueHead s id d age) s

/-- What becomes of a launch: its id, or the code of R416. -/
inductive LaunchRes where
  | ok (id : Nat)
  | fail (code : Nat)
  deriving DecidableEq, Repr

/-- Reads and checks a record, assigns an id, writes it into the record and queues the blocks (R123, R124, R127, R132). -/
def startLaunch (s : State) (core ctx va : Nat) : State × LaunchRes :=
  match (readRecord core ctx va).run s with
  | .error _ s => (s, .fail 1)
  | .ok none s => (s, .fail 2)
  | .ok (some r) s =>
    if r.coop && !coopFits r then (s, .fail 3)
    else match takeId s with
      | none => (s, .fail 4)
      | some (id, s') => match (devWrite core ctx (va + 0x58) (natBytes 4 id)).run s' with
        | .error _ s' => ({ s' with sched := { s'.sched with nextSeq := s.sched.nextSeq } }, .fail 1)
        | .ok _ s' => (queueLaunch s' id ctx va r, .ok id)

/-! ### `launch` (R416) -/

def execLaunchInsn (f : MForm) (s : State) : Host.Outcome State Fault Refusal :=
  issueMS 0xDC f (fun c s =>
    if c.act == 0 && f.gsense != 0 then finish (retire s c.inst c.slot c.p.pc 16)
    else if c.h.countFull 3 then stall s
    else afterRelease c s (fun s =>
      let (id, s) := s.fresh
      let o := { newOp s c (.launchInsn f) id with vals := [baseImm c f], active := 1 }
      let s := retire (addOp (markDirty s c.inst) 3 o) c.inst c.slot c.p.pc 16
      finish (s.post .launchAccepted { op := id }))) s

/-- What an accepted or rejected launch writes to its pair: not to a scalar that an instruction issued later has written (R159). -/
def launchWrites (o : Op) (d : BitVec 8) (v : Nat) : List Write :=
  match specKind d with
  | .s r => (List.range 2).filterMap (fun k =>
      if o.vecs.any (fun rs => rs.contains (r + k)) then none else some (.reg (d + BitVec.ofNat 8 k) 1 (fun _ => v / 2 ^ (32 * k) % 2 ^ 32)))
  | _ => []

/-- LAUNCH_ACCEPTED: the dispatcher's answer (R416 steps 3 and 4). -/
def execLaunchAccepted (s : State) : Host.Outcome State Fault Refusal :=
  .next (match s.op? s.arg.op with
    | none => finish s
    | some o => match o.what with
      | .launchInsn f =>
        let (s, r) := startLaunch s o.core o.ctx (o.vals.getD 0 0)
        let v := match r with
          | .ok id => id
          | .fail code => code * 2 ^ 32
        let prot := (s.hatch? o.hatch).elim false (hatchProt s)
        finish (endOp (lateWrite s o prot (if prot then 3 else 1) (launchWrites ((s.op? o.id).getD o) f.d v) {} 0) o)
      | _ => finish s)

/-! ### `kwait` and `ktrig` (R417, R143) -/

/-- Whether every block of a producer has triggered or exited; an id of no live launch, or of a watched one, is satisfied. -/
def producerDone (s : State) (id : Nat) : Bool :=
  match s.launch? id with
  | none => true
  | some l => l.watched || (l.nextIdx.all (fun i => decide (l.rcd.blocks ≤ i)) &&
      s.sched.blocks.all (fun b => b.launch != id || b.ktrig))

def execKwait (f : MForm) (s : State) : Host.Outcome State Fault Refusal :=
  issueM 0xDD f (fun c s =>
    let free := !c.rcd.dep || (s.block? c.h.block).elim true (·.triggered) || (launchOf s c.h).elim true (·.watched)
    if !(free || c.rcd.producers.all (producerDone s)) || !loadsDone s c.h then stall s
    else finish (retire (acquireFence s c.inst) c.inst c.slot c.p.pc 16)) s

def execKtrig (f : MForm) (s : State) : Host.Outcome State Fault Refusal :=
  issueM 0xDE f (fun c s => afterRelease c s (fun s =>
    let s := (markDirty s c.inst).updBlock c.h.block (fun b => { b with ktrig := true })
    finish (retire s c.inst c.slot c.p.pc 16))) s

end Sys2Proof.Machine
end

