-- ==== Sys2Proof/Machine/Sched.lean ====
section
/-! DEFINITION. The dispatchers: starting, discarding and restarting blocks (07 R126 to R133, R145, R147 to R151, R178), and
their events. -/

namespace Sys2Proof.Machine

/-! ### Hatches of a block -/

/-- How many hatches a block's record gives it: a continuation is a block of one hatch (R146). -/
def blockSize (b : Block) (r : LaunchRec) : Nat := if b.spawnArea.isSome then 1 else r.hatches

/-- The position in the block of a hatch index. -/
def hatchPos (b : Block) (idx : Nat) : Nat := if b.spawnArea.isSome then 0 else idx

/-- The hatches that a block's admission starts: positions and registers (R129, R154). -/
def toStart (b : Block) (r : LaunchRec) : List (Nat × Nat) :=
  match b.saved with
  | some sv => sv.hatches.map (fun h => (hatchPos b h.index, max h.held r.floor))
  | none => if b.replay then b.restart.map (fun x => (hatchPos b x.index, r.floor)) else freshHatches r (blockSize b r)

def areaOf (b : Block) (idx : Nat) : Nat := b.areas.getD (hatchPos b idx) 0

/-! ### Local store and barrier units (R130, R145) -/

/-- Gives a block w ways of a core, zero-filled, turning L1 ways into local store where too few are free (R130, R181). -/
def giveWays (s : State) (c inst w : Nat) : State :=
  let free := ((s.core c).ways.filter isFreeWay).length
  let s := if free < w then waysToLocal s c (w - free) else s
  let idx := (((s.core c).ways.zipIdx.filter (fun x => isFreeWay x.1)).map (·.2)).take w
  s.updCore c (fun k => { k with ways := k.ways.zipIdx.map (fun x => if idx.contains x.2 then Way.owned inst [] [] else x.1) })

/-- Puts saved bytes back into a block's ways on a core. -/
def fillWays (s : State) (c inst : Nat) (saved : List (List Host.Cell × List Nat)) : State :=
  let idx := ownedWays s c inst
  s.updCore c (fun k => { k with ways := k.ways.zipIdx.map (fun x =>
    match idx.idxOf? x.2 with
    | none => x.1
    | some j => match saved[j]? with
      | none => x.1
      | some (bs, bad) => Way.owned inst bs bad) })

/-- The core on which all members of a group lie, if one does. -/
def groupCore (cs : List Nat) (r : LaunchRec) (g : Nat) : Option Nat :=
  let ranks := dedup ((r.groups.getD g []).map (fun i => i / perCore r))
  match ranks with
  | [k] => cs[k]?
  | _ => none

/-- Units of a core in use by resident blocks. -/
def unitsUsed (s : State) (c : Nat) : Nat :=
  s.sched.blocks.foldl (fun a b =>
    a + (b.hwGroups.filter (fun g => (s.launch? b.launch).elim false (fun l => groupCore b.cores l.rcd g == some c))).length) 0

/-- The groups that get a unit, in ascending order (R145). -/
def takeUnits (s : State) (cs : List Nat) (r : LaunchRec) : List Nat :=
  (List.range r.groups.length).foldl (fun gs g =>
    match groupCore cs r g with
    | none => gs
    | some c =>
      let mine := (gs.filter (fun x => groupCore cs r x == some c)).length
      if unitsUsed s c + mine < 64 then gs ++ [g] else gs) []

/-! ### Starting hatches -/

def lanesOfBytes (bs : List Byte) (off : Nat) : Lanes := (List.range 96).map (fun l => BitVec.ofNat 32 (fieldAt bs (off + 4 * l) 4))

/-- Puts one physical register of a continuation image into its register: entry (r, t) is the low or only half of vr with
tag t, (r, t + 4) its hi half (R364). -/
def imageReg (h : Hatch) (x : (Nat × Nat) × Lanes) : Hatch :=
  let ((r, t), ls) := x
  let old := h.vreg r
  if t < 4 then { h with v := h.v.set r ⟨true, t, ls, old.hi⟩ } else { h with v := h.v.set r { old with hi := ls } }

/-- Gives a continuation the state of its image (R365, R151). -/
def fromImage (inst : Nat) (b : Block) : AreaM Unit := do
  let bs ← areaRead inst 0 (640 + 384 * b.spawnRegs.length)
  let s ← get
  let p := pathOf (bs.take 64) (sliceBytes bs 64 64) false s.clock
  let p := { p with split := none, wait := .none }
  let ss := (List.range 128).map (fun i => BitVec.ofNat 32 (fieldAt bs (128 + 4 * i) 4))
  let vs := b.spawnRegs.zipIdx.map (fun x => (x.1, lanesOfBytes bs (640 + 384 * x.2)))
  setHatch inst (fun h => vs.foldl imageReg ({ h with slot0 := some p, s := ss, shadow := ss, imageValid := true } : Hatch))

/-- The mask that a region record gives: recorded words of s0 to s2 within the domain, the domain's own where not named. -/
def recordMask (dom : LaneSet) (named : Nat → Option Word) : LaneSet :=
  let w := fun (r : Nat) => (BitVec.ofNat 96 ((named r).elim (dom.extractLsb' (32 * r) 32) id).toNat) <<< (32 * r)
  (w 0 ||| w 1 ||| w 2) &&& dom

/-- Gives a hatch the state of its region record (R147, R148). -/
def fromRecord (inst : Nat) (bs : List Byte) : AreaM Unit := do
  let m := fieldAt bs 0x18 16
  let names := (List.range 128).filter (fun n => bitAt m n)
  let named := fun (r : Nat) => (names.idxOf? r).map (fun i => BitVec.ofNat 32 (fieldAt bs (0x28 + 4 * i) 4))
  let dom : LaneSet := BitVec.ofNat 96 (fieldAt bs 0xC 12)
  let p := { Path.start (fieldAt bs 0 8) dom (fieldAt bs 0xA 1 % 8) false with
    mask := recordMask dom named, loops := loopsOf (fieldAt bs 9 1) (sliceBytes bs 0x68 64) }
  let put := fun (ss : List Word) => ss.zipIdx.map (fun x => if x.2 < 12 then x.1 else (named x.2).getD x.1)
  setHatch inst (fun h => { h with slot0 := some p, s := put h.s, shadow := put h.shadow, regionDone := true })

/-- Starts the handler of a replayed hatch (R150, R151, R154). -/
def restartHandler (inst code info : Nat) (none_ : Bool) : AreaM Unit := do
  let h ← getHatch inst
  let s ← get
  let rcd := recOf s h
  let p := h.slot0.getD (Path.start rcd.entry (startDomain rcd.prot) 0 false)
  let t : TrapReport := { code := code, info := info }
  writeFrame inst rcd.prot 0 p.pc t
  startHandler inst rcd.trap p.domain t
  setHatch inst (fun h => { h with atRestart := true, noRestart := none_ })

/-- A hatch that starts for the first time: no region record yet, and a continuation's image (R246, R365). -/
def firstStart (inst : Nat) (b : Block) : AreaM Unit := do
  areaWrite inst (regionAt + 8) (natBytes 1 0)
  if b.spawnArea.isSome then fromImage inst b else pure ()

/-- A hatch that starts again (R148, R150, R151). -/
def startAgain (inst : Nat) (b : Block) (x : Restart) : AreaM Unit := do
  let bs ← areaRead inst regionAt 256
  let valid := fieldAt bs 8 1 == 1
  let lost := !valid && b.spawnArea.isSome && !x.imageValid
  if valid then fromRecord inst bs
  else if b.spawnArea.isSome && x.imageValid then fromImage inst b else pure ()
  setHatch inst (fun h => { h with imageValid := x.imageValid, repeats := x.repeats, abandoned := x.abandoned })
  if lost then restartHandler inst tcEngineFault (x.info % 8 + 8) true
  else if x.code != 0 then restartHandler inst x.code x.info false else pure ()

/-- A fresh hatch of a block, with a continuation's first scalars. -/
def baseHatch (s : State) (inst : Nat) (b : Block) (r : LaunchRec) (idx age : Nat) : Hatch :=
  let pos := hatchPos b idx
  let h := newHatch inst b r idx (b.cores.getD (pos / perCore r) 0) (pos % 8) age (areaOf b idx)
  if b.spawnArea.isNone then h
  else
    let ss := b.spawnS ++ List.replicate (128 - b.spawnS.length) 0
    { h with s := ss, shadow := ss }

/-- Starts one hatch; a fault on its area kills it (R447). -/
def runHatch (s : State) (h : Hatch) (m : AreaM Unit) : State :=
  withArea { s with hatches := s.hatches ++ [h] } h.inst (h.slot0.elim 0 (·.pc)) m

/-- Puts a saved hatch on its new core; its waits are tried again (R152, R153). -/
def resumeHatch (s : State) (b : Block) (r : LaunchRec) (age : Nat) (h : Hatch) : State :=
  let pos := hatchPos b h.index
  let rest := fun (p : Path) => if p.isYielded then { p with wait := .yield s.clock 0 } else p
  let h := { h with slot0 := h.slot0.map rest, slot1 := h.slot1.map rest }
  { s with hatches := s.hatches ++ [{ h with core := b.cores.getD (pos / perCore r) 0, partition := pos % 8, age := age }] }

/-- The hatches of a block start, or go on (R148, R153, R246). -/
def startHatches (s : State) (b : Block) (l : Launch) : State :=
  let (age, s) := s.fresh
  match b.saved with
  | some sv =>
    let s := sv.hatches.foldl (fun s h => resumeHatch s b l.rcd age h) s
    let s := b.cores.zipIdx.foldl (fun s x => fillWays s x.1 b.inst (sv.localBytes.getD x.2 [])) s
    sv.sfr.foldl (fun s x => pushSfr s ((s.hatch? x.hatch).elim 0 (·.core)) x) s
  | none =>
    if b.replay then b.restart.foldl (fun s x => runHatch s (baseHatch s x.inst b l.rcd x.index age) (startAgain x.inst b x)) s
    else
      let idx := if b.spawnArea.isSome then [b.sole] else List.range l.rcd.hatches
      idx.foldl (fun s i =>
        let (inst, s) := s.fresh
        runHatch s (baseHatch s inst b l.rcd i age) (firstStart inst b)) s

/-! ### Admission (R129) -/

/-- The acquire that a block begins with (R138 step 3, R215). -/
def startAcquire (s : State) (b : Block) : State :=
  let s := b.cores.foldl acquireCore s
  if b.spawnArea.isSome then s else (List.range b.granuleN).foldl (fun s i => acquireLine s (b.granule + i)) s

/-- A block takes its place: ways, units, hatches; and the next block of its launch on its die is looked at (R127, R129). -/
def admitAt (s : State) (b : Block) (l : Launch) (cs areas : List Nat) : State :=
  let first := !b.replay && b.saved.isNone && !b.triggered && b.spawnArea.isNone
  let s := cs.foldl (fun s c => giveWays s c b.inst (waysOf l.rcd)) s
  let units := if b.spawnArea.isSome then [] else takeUnits s cs l.rcd
  let b2 := { b with phase := .resident, cores := cs, areas := areas, hwGroups := units }
  let done := fun (_ : Block) => { b2 with replay := false, restart := [], saved := none, areaFault := false }
  let s := s.updBlock b.inst done
  let s := startAcquire (startHatches s b2 l) b2
  if first then queueHead s l.id b.die b.age else s

/-- Whether a fault on the pool at a block's admission has been logged: one for a co-operative launch, which is admitted whole. -/
def areaNoted (s : State) (b : Block) (l : Launch) : Bool :=
  if l.rcd.coop then s.sched.blocks.any (fun x => x.launch == b.launch && x.areaFault) else b.areaFault

/-- The hatch-area slots of a block: kept, or taken from the pool; a fault is logged once (R447). -/
def takeAreas (s : State) (b : Block) (l : Launch) : State × Option (List Nat) :=
  if !b.areas.isEmpty then (s, some b.areas)
  else
    let c := b.die * 64
    match (poolTake c l.ctx l.rcd.pool (blockSize b l.rcd)).run s with
    | .ok r s => (s, r)
    | .error (code, pa) t =>
      let s : State := { s with wants := t.wants }
      if areaNoted s b l then (s, none)
      else ((logError s 1 3 0x010B c code pa).updBlock b.inst (fun b => { b with areaFault := true }), none)

/-- The triggered blocks of a launch that are resident (R129). -/
def residentTriggered (s : State) (id : Nat) : Nat :=
  (s.sched.blocks.filter (fun b => b.launch == id && b.phase == .resident && b.triggered && b.spawnArea.isNone)).length

/-- Admits one block if it can be; the second part says whether it was. -/
def tryAdmit (s : State) (b : Block) : State × Bool :=
  match s.launch? b.launch with
  | none => (s, false)
  | some l =>
    if b.triggered && b.spawnArea.isNone && decide (l.rcd.blocks ≤ residentTriggered s l.id) then (s, false)
    else match placeOn (roomOf s) b.die l.rcd (blockSize b l.rcd) (toStart b l.rcd) with
      | none => (s, false)
      | some cs => match takeAreas s b l with
        | (s, none) => (s, false)
        | (s, some areas) => (admitAt s b l cs areas, true)

/-- The waiting first block of a launch on a die. -/
def headOf (s : State) (id die : Nat) : Option Block :=
  s.sched.blocks.find? (fun b => b.launch == id && b.die == die && b.phase == .queued && !b.replay && b.saved.isNone && b.spawnArea.isNone)

/-- Admits the next block of a co-operative launch on a die to given cores. -/
def admitHead (id die : Nat) (s : State × Bool) (cs : List Nat) : State × Bool :=
  if !s.2 then s
  else match headOf s.1 id die, s.1.launch? id with
    | some b, some l => match takeAreas s.1 b l with
      | (t, some areas) => (admitAt t b l cs areas, true)
      | (t, none) => (t, false)
    | _, _ => (s.1, false)

/-- A co-operative launch is admitted whole or not at all (R132); a fault that stopped it is logged all the same (R447). -/
def admitCoop (s : State) (b : Block) (l : Launch) : State × Bool :=
  let plan := (List.range 4).map (fun d => placeMany d l.rcd (min 6145 (blocksOn l.rcd.blocks d)) (roomOf s))
  let on := (List.range 4).all (fun d => blocksOn l.rcd.blocks d == 0 || (s.dies.getD d Die.reset).gate == .powered)
  if !on || plan.any (fun p => p.isNone) then (s, false)
  else
    let r := plan.zipIdx.foldl (fun (x : State × Bool) p => (p.1.elim [] (·.1)).foldl (admitHead l.id p.2) x) (s, true)
    if r.2 then r
    else
      let note := fun (b : Block) => { b with areaFault := b.areaFault || r.1.host != s.host }
      (({ s with host := r.1.host, out := r.1.out, wants := r.1.wants } : State).updBlock b.inst note, false)

/-! ### BLOCK_ADMISSION (R128, R129, R132) -/

/-- A block that a suspension saved and that has still to be admitted (R153, R154). -/
def Block.returns (b : Block) : Bool :=
  b.phase == .queued && (b.saved.isSome || b.restart.any (fun x => x.code == tcRestoreCapacity))

/-- Whether a block may be placed: its launch is not suspended, and saved blocks of a launch go before those not yet started
(R152, R153). -/
def mayPlace (s : State) (b : Block) : Bool :=
  (s.launch? b.launch).elim false (fun l => l.phase == .running) &&
  (b.returns || !s.sched.blocks.any (fun x => x.launch == b.launch && x.returns))

/-- The blocks that a die's dispatcher may place; a continuation once it has been placed before. -/
def waiting (s : State) (die : Nat) : List Block :=
  s.sched.blocks.filter (fun b =>
    b.die == die && b.phase == .queued && (b.spawnArea.isNone || b.replay || b.saved.isSome) && mayPlace s b)

/-- The order of a queue: effective priority, then age, then index (R128). -/
def Block.before (a b : Block) : Bool :=
  if a.effPrio != b.effPrio then decide (b.effPrio < a.effPrio)
  else if a.age != b.age then decide (a.age < b.age) else decide (a.index ≤ b.index)

def blockInsert (x : Block) : List Block → List Block
  | [] => [x]
  | y :: r => if x.before y then x :: y :: r else y :: blockInsert x r

/-- Whether a block waits for the whole of its co-operative launch. -/
def coopWaits (s : State) (b : Block) : Option Launch :=
  if b.triggered || b.replay || b.saved.isSome || b.spawnArea.isSome then none
  else (s.launch? b.launch).bind (fun l => if l.rcd.coop then some l else none)

def admitFirst (s : State) (die : Nat) : List Block → State × Bool
  | [] => (s, false)
  | b :: r =>
    let (s, ok) := match coopWaits s b with
      | some l => if die == 0 then admitCoop s b l else (s, false)
      | none => tryAdmit s b
    if ok then (s, true) else admitFirst s die r

/-- One admission of a die's dispatcher. A co-operative launch at the head holds back what does not come before it (R132). -/
def admitDie (s : State) (die : Nat) : State × Bool :=
  let q := (waiting s die).foldr blockInsert []
  match q with
  | [] => (s, false)
  | b :: r => if (coopWaits s b).isSome then admitFirst s die [b] else admitFirst s die (b :: r)

/-- The event waits while its die is not powered, or holds only blocks that find no place. -/
def execBlockAdmission (s : State) : Host.Outcome State Fault Refusal :=
  let d := s.arg.die
  .next (
    if (waiting s d).isEmpty then finish s
    else if (s.dies.getD d Die.reset).gate != .powered then s.park .blockAdmission
    else match admitDie s d with
      | (s, true) => finish (s.post .blockAdmission { die := d })
      | (s, false) => (settle s).park .blockAdmission)

def execPriorityAging (s : State) : Host.Outcome State Fault Refusal :=
  let due := fun (b : Block) => b.phase == .queued && decide (b.effPrio < 7) && decide (b.agedFrom + 2400000 ≤ s.clock)
  .next (finish (s.updBlock s.arg.block (fun b =>
    if due b then { b with effPrio := b.effPrio + 1, agedFrom := b.agedFrom + 2400000 } else b)))

/-! ### Discard (R148 to R150) -/

/-- Operations that do not keep a hatch from being discarded: loads, plain stores and copies (R149). -/
def opLoose (i : Instr) : Bool := match i with
  | .mst _ => false
  | .prf _ => true
  | .waddr _ => true
  | .nop _ _ => true
  | i => opPlain i || opReads i

def preemptible (s : State) (h : Hatch) : Bool :=
  decide (h.pathCount == 1) && h.dstack.isEmpty && !h.handler && h.clean && (!h.spawned || h.regionDone || h.imageValid) &&
  (s.ops.filter (fun o => o.hatch == h.inst)).all (fun o => opLoose o.what)

def blockHatches (s : State) (b : Block) : List Hatch := s.hatches.filter (fun h => h.block == b.inst)

/-- Whether local store of a block was filled by a hatch that has exited (R149, R150). -/
def localLost (s : State) (b : Block) : Bool :=
  !b.exited.isEmpty && b.cores.any (fun c => !(ownedWays s c b.inst).isEmpty)

def blockPreemptible (s : State) (b : Block) : Bool :=
  b.phase == .resident && !localLost s b && (blockHatches s b).all (preemptible s)

/-- What a discard keeps of the operations in flight: stores, and copies to memory, whose completion words are dropped
(R414), and spawns made, whose continuations start all the same (R146, R156). -/
def keepAtDiscard (o : Op) : Option Op :=
  if isCopy o.what then
    (instrForm o.what).bind (fun x => if dstLocal x.2 then none else some { o with done := true })
  else match o.what with
    | .mst _ => none
    | i => if opPlain i || isSpawn i then some o else none

def dropAtDiscard (s : State) (inst : Nat) : State :=
  let kept := s.ops.filterMap (fun o => if o.hatch == inst then keepAtDiscard o else some o)
  let gone := (s.ops.filter (fun o => o.hatch == inst && (keepAtDiscard o).isNone)).map (·.id)
  let trim := fun (k : Core) => if k.mqueue.isEmpty then k else { k with mqueue := k.mqueue.filter (fun i => !gone.contains i) }
  { s with ops := kept, cores := s.cores.map trim }

/-- Why a block is discarded: at a moment when it is pre-emptible, by a transient fault, or for registers (R148, R150,
R178). -/
inductive Discard where
  | clean | transient | registers
  deriving DecidableEq, Repr

/-- How a hatch restarts: in its handler where it was not pre-emptible, or where local store was lost. -/
def restartOf (s : State) (b : Block) (why : Discard) (h : Hatch) : Restart :=
  let pre := preemptible s h
  let lost := localLost s b
  let bits := match why with
    | .clean => 0
    | .transient => natOfBool (!pre) + 4 * natOfBool lost
    | .registers => (if !pre || lost then 3 else 0) + 4 * natOfBool lost
  { index := h.index, inst := h.inst, code := if bits == 0 then 0 else tcEngineFault, info := bits
    imageValid := h.imageValid, repeats := max h.stores h.repeats, abandoned := h.abandoned }

/-- Discards a resident block; it waits to be placed again with the priority it had (R128, R133, R148). -/
def discardBlock (s : State) (b : Block) (why : Discard) : State :=
  let hs := blockHatches s b
  let rs := hs.map (restartOf s b why)
  let s := hs.foldl (fun s h => dropRecords (dropAtDiscard s h.inst) h.core h.inst) s
  let s : State := { s with hatches := s.hatches.filter (fun h => h.block != b.inst) }
  let s := freeWays s b
  let again := fun (b : Block) => { b with
    phase := .queued, replay := true, restart := rs, cores := [], arrived := [], hwGroups := []
    queuedAt := s.clock, agedFrom := s.clock }
  (s.updBlock b.inst again).postOnce .blockAdmission { die := b.die }

/-- The youngest block among some: the one admitted last. -/
def blockAdmitted (s : State) (b : Block) : Nat := ((blockHatches s b).map (·.age)).foldl max 0

/-- The state with some blocks gone from their cores. -/
def withoutBlocks (s : State) (bs : List Block) : State :=
  bs.foldl (fun s b => freeWays { s with hatches := s.hatches.filter (fun h => h.block != b.inst) } b) s

/-- The core sets on which a block, or its launch's share of the die where it is co-operative, finds room. -/
def placesFor (s : State) (b : Block) (l : Launch) : List (List Nat) :=
  match coopWaits s b with
  | some l => ((placeMany b.die l.rcd (min 6145 (blocksOn l.rcd.blocks b.die)) (roomOf s)).map (·.1)).getD []
  | none => placesOn (roomOf s) b.die l.rcd (blockSize b l.rcd) (toStart b l.rcd)

/-- The resident blocks of lower effective priority that hold what a block of a die waits for: it finds no room, and would find
some on their cores without them. A block that waits for anything else pre-empts none. -/
def blocksInWay (s : State) (b : Block) : List Block :=
  match s.launch? b.launch with
  | none => []
  | some l =>
    let lower := s.sched.blocks.filter (fun r => r.die == b.die && r.phase == .resident && decide (r.effPrio < b.effPrio))
    if !(placesFor s b l).isEmpty then []
    else
      let ok := placesFor (withoutBlocks s lower) b l
      lower.filter (fun r => ok.any (fun cs => cs.any (fun c => r.cores.contains c)))

/-- PREEMPTION (R133). -/
def execPreemption (s : State) : Host.Outcome State Fault Refusal :=
  let late := s.sched.blocks.filter (fun b =>
    b.die == s.arg.die && b.phase == .queued && decide (b.queuedAt + 240000 ≤ s.clock) && mayPlace s b)
  .next (match greatestBy (blockAdmitted s) ((late.flatMap (blocksInWay s)).filter (blockPreemptible s)) with
    | none => finish s
    | some b => finish (discardBlock s b .clean))

/-- REGISTER_BOUND_DISCARD (R178). -/
def execRegisterBoundDiscard (s : State) : Host.Outcome State Fault Refusal :=
  let (c, p) := (s.arg.core, s.arg.partition)
  let above := (partHatches s c p).filter (fun h => decide ((recOf s h).floor < h.held))
  let pick := fun (q : Block → Bool) => greatestBy (·.age) (above.filter (fun h => (s.block? h.block).elim false q))
  .next (
    if !(boundPartitions s).contains (c, p) then finish s
    else match pick (blockPreemptible s) with
      | some h => finish ((s.block? h.block).elim s (fun b => discardBlock s b .clean))
      | none => match pick (fun _ => true) with
        | some h => finish ((s.block? h.block).elim s (fun b => discardBlock s b .registers))
        | none => finish s)

/-- COPY_MATRIX_ENGINE_RESET: an operation of a copy or matrix engine is lost (R150). -/
def execCopyMatrixEngineReset (s : State) : Host.Outcome State Fault Refusal :=
  .next (match s.op? s.arg.op with
    | none => finish s
    | some o =>
      let engine := (instrForm o.what).elim false (fun x => decide (0xC5 ≤ x.1) && decide (x.1 ≤ 0xD9))
      if !engine || o.core != s.arg.core then finish s
      else
        match s.block? o.block with
        | none => finish (endOp s o)
        | some b => finish (if b.phase == .resident then (discardBlock s b .transient).dropOp o.id else endOp s o))

end Sys2Proof.Machine
end

