-- ==== Sys2Proof/Machine/Spawn.lean ====
section
/-! DEFINITION. `spawn` and `ibisect` (18 R418, 16 R364, R365; 07 R146, R215) and SPAWN_PLACEMENT. -/

namespace Sys2Proof.Machine

/-! ### The continuation's image (R364) -/

/-- The registers that a 64-bit mask names. -/
def namedRegs (m : Nat) : List Nat := (List.range 64).filter (fun r => bitAt m r)

/-- The physical registers of some registers, in image order: see `imageReg`. -/
def imageRegs (h : Hatch) (rs : List Nat) : List (Nat × Nat) :=
  rs.flatMap (fun r =>
    let x := h.vreg r
    if !x.mapped then [] else if x.tag == 0 then [(r, 0)] else [(r, x.tag), (r, x.tag + 4)])

def imageLanes (h : Hatch) (x : Nat × Nat) : Lanes := if x.2 < 4 then (h.vreg x.1).lo else (h.vreg x.1).hi

/-- The scalars of a continuation: copied, s8 and s9 as R146 says. -/
def spawnScalars (c : Iss) (blockIdx serial : Nat) : List Word :=
  (List.range 128).map (fun r =>
    if r == 8 then BitVec.ofNat 32 blockIdx else if r == 9 then BitVec.ofNat 32 (384 + serial) else c.sword false r)

def lanesBytes (ls : Lanes) : List Byte := (List.range 96).flatMap (fun l => natBytes 4 (ls.getD l 0).toNat)

/-- The image in the slot: path record and loop extension, scalars, registers. -/
def spawnImage (h : Hatch) (p : Path) (prot : Bool) (ss : List Word) (regs : List (Nat × Nat)) : List Byte :=
  p.record prot 0 ++ loopsRecord p.loops ++ ss.flatMap (fun w => natBytes 4 w.toNat) ++
    regs.flatMap (fun x => lanesBytes (imageLanes h x))

/-! ### The spawn (R146, R418) -/

/-- What a spawn's slot needs: a free one, and a serial in range. -/
def spawnRoom (s : State) (c : Iss) : EStateM.Result (Nat × Nat) State Bool :=
  match (poolFree c.h.core (ctxOf s c.h) c.rcd.pool).run s with
  | .ok (_, fs) s => .ok (!fs.isEmpty && (launchOf s c.h).elim false (fun l => decide (l.spawnSerial ≤ 2 ^ 32 - 385))) s
  | .error e s => .error e s

/-- Queues the continuation of a spawn whose image is to go into a slot: its block, and the operation that counts in c3. -/
def queueSpawn (s : State) (c : Iss) (what : Instr) (pb : Block) (l : Launch) (regs : List (Nat × Nat)) (area : Nat) : State :=
  let (inst, s) := s.fresh
  let (id, s) := s.fresh
  let ss := spawnScalars c pb.index l.spawnSerial
  let b := { newBlock inst l.id pb.index pb.die l.rcd s.clock with
    triggered := pb.triggered, spawnArea := some area, sole := 384 + l.spawnSerial, granule := pb.granule
    trigArg := pb.trigArg, depth := c.h.depth, areas := [area], spawnRegs := regs, spawnS := ss.take 12 }
  let s : State := { s with sched := { s.sched with blocks := s.sched.blocks ++ [b] } }
  let s := s.updLaunch l.id (fun l => { l with spawnSerial := l.spawnSerial + 1 })
  let o := { newOp s c what id with vals := [inst], active := 1 }
  (addOp (markDirty s c.inst) 3 o).post .spawnPlacement { core := c.h.core }

/-- The path with which the continuation of a spawn starts (R365, R418). -/
def spawnPath (c : Iss) (pc : Nat) : Path :=
  { c.p with pc := pc, domain := c.act, mask := c.act, maskDiff := 0, split := none, handler := false, wait := .none }

/-- Takes a slot, queues the continuation and writes its image. -/
def doSpawn (c : Iss) (s : State) (what : Instr) (pc : Nat) (h : Hatch) (regs : List (Nat × Nat)) : State :=
  match s.block? c.h.block, launchOf s c.h with
  | some pb, some l =>
    let ctx := ctxOf s c.h
    match (poolTake c.h.core ctx c.rcd.pool 1).run s with
    | .error (code, pa) s => areaFault s c.inst c.p.pc code pa
    | .ok none s => s
    | .ok (some as) s =>
      let area := as.getD 0 0
      withArea (queueSpawn s c what pb l regs area) c.inst c.p.pc
        (devWrite c.h.core ctx area (spawnImage h (spawnPath c pc) c.prot (spawnScalars c pb.index l.spawnSerial) regs))
  | _, _ => s

/-- The checks that `spawn` and `ibisect` make before any effect: `count` images, `peak` also the register peak. -/
def spawnChecked (c : Iss) (s : State) (len count : Nat) (peak : Bool) (go : State → State) : State :=
  if c.p.handler then c.trap s { code := tcIllegalOperand, info := 0x13 }
  else if c.act == 0 then finish (retire s c.inst c.slot c.p.pc len)
  else if 9 < count then c.trap s { code := tcIllegalOperand, info := 0x13 }
  else if peak && decide (c.rcd.peak < count) then c.trap s { code := tcIllegalOperand, info := 0x100 }
  else match spawnRoom s c with
    | .error (code, pa) s => finish (areaFault s c.inst c.p.pc code pa)
    | .ok false s => c.trap s { code := tcSpawnOverflow }
    | .ok true s => if c.h.countFull 3 then stall s else afterRelease c s go

/-- Whether a register to be copied is still to be written. -/
def copyWaits (c : Iss) (rs : List Nat) : Bool := c.h.emptyS != 0 || rs.any (fun r => c.h.emptyV.getLsbD r)

def execSpawn (f : MForm) (s : State) : Host.Outcome State Fault Refusal :=
  issueMS 0xDF f (fun c s =>
    let names := namedRegs (c.sval f.x 2)
    let regs := imageRegs c.h names
    if copyWaits c names then stall s
    else spawnChecked c s 16 regs.length false (fun s =>
      let pc := wrapN 64 ((c.p.pc : Int) + 4 * sxt 32 f.imm.toNat)
      finish (retire (doSpawn c s (.spawn f) pc c.h regs) c.inst c.slot c.p.pc 16))) s

def execIbisect (f : AForm) (s : State) : Host.Outcome State Fault Refusal :=
  issueA 0x8F f (fun c s =>
    let w := tyRegs f.tyN
    let sh := aShape 0x8F (aRule c.fieldCtx 0x8F f) f
    let m := physMask c.prot c.act
    let half := fun (l : Nat) => halves (fmtOf f.tyN) (ivlA c f l).1
    let ds := regRange (vecReg f.dst) w
    let names := (namedRegs (c.sval f.srcb 2)).filter (fun r => !ds.contains r)
    let up := (applyWrite c.prot m (c.h, c.p) (.ivl f.dst w (fun l => (half l).2))).1
    let regs := imageRegs up ds ++ imageRegs c.h names
    let lower : Write := .ivl f.dst w (fun l => (half l).1)
    let fl := (lanesOf m).foldl (fun a l => a ||| (ivlA c f l).2) 0
    if copyWaits c names then stall s
    else spawnChecked c s f.len regs.length true (fun s =>
      match allocTest s c (applyWrite c.prot m (c.h.freeLast sh, c.p) lower).1 with
      | .dry => stallDry s
      | .peak => c.trap s { code := tcIllegalOperand, info := 0x100 }
      | .ok =>
        let s := doSpawn c s (.ibisect f) (wrap64 (c.p.pc + f.len)) up regs
        complete s (c.refresh s) sh m [lower] fl f.len)) s

/-! ### SPAWN_PLACEMENT (R146) -/

/-- Continuations that have not been placed yet. -/
def unplaced (b : Block) : Bool := b.phase == .queued && b.spawnArea.isSome && !b.replay && b.saved.isNone

/-- Those that stand in their pool's spawn ring: accepted, and in no core's queue. -/
def inRing (s : State) (b : Block) : Bool :=
  unplaced b && !s.cores.any (fun k => k.spawnQ.contains b.inst) && !s.ops.any (fun o => isSpawn o.what && o.vals == [b.inst])

/-- Notes a fault on a pool once for a block (R447). -/
def poolFault (s : State) (b : Block) (core code pa : Nat) : State :=
  if b.areaFault then s
  else (logError s 1 3 0x010B core code pa).updBlock b.inst (fun b => { b with areaFault := true })

/-- Appends a slot address to a pool's spawn ring. -/
def ringAppend (c ctx pool addr : Nat) : AreaM Unit := do
  let n ← poolSlots c ctx pool
  let wr ← devRead c ctx (pool + 0x10) 4
  devWrite c ctx (poolRingAt pool n + 8 * (bytesNat wr % n)) (natBytes 8 addr)
  devWrite c ctx (pool + 0x10) (natBytes 4 (bytesNat wr + 1))

/-- Takes the oldest slot address of a pool's spawn ring. -/
def ringTake (c ctx pool : Nat) : AreaM Nat := do
  let n ← poolSlots c ctx pool
  let rd ← devRead c ctx (pool + 0x0C) 4
  let e ← devRead c ctx (poolRingAt pool n + 8 * (bytesNat rd % n)) 8
  devWrite c ctx (pool + 0x0C) (natBytes 4 (bytesNat rd + 1))
  return bytesNat e

/-- The spawn queue, or the ring behind it, accepts a spawn of the core. -/
def acceptSpawn (s : State) (core : Nat) : State × Bool :=
  match s.ops.find? (fun o => o.core == core && isSpawn o.what) with
  | none => (s, false)
  | some o => match s.block? (o.vals.getD 0 0) with
    | none => (endOp s o, true)
    | some b =>
      if (s.core core).spawnQ.length < 64 then
        (endOp (s.updCore core (fun k => { k with spawnQ := k.spawnQ ++ [b.inst] })) o, true)
      else
        let pool := (s.launch? b.launch).elim 0 (·.rcd.pool)
        match (ringAppend core o.ctx pool (b.spawnArea.getD 0)).run s with
        | .ok _ s => (endOp s o, true)
        | .error (code, pa) s => (poolFault s b core code pa, false)

/-- Moves the oldest entry of a ring into a core's queue that has room. -/
def refillSpawn (s : State) (core : Nat) : State × Bool :=
  if 64 ≤ (s.core core).spawnQ.length then (s, false)
  else match s.sched.blocks.find? (inRing s) with
    | none => (s, false)
    | some b => match s.launch? b.launch with
      | none => (s, false)
      | some l => match (ringTake core l.ctx l.rcd.pool).run s with
        | .error (code, pa) s => (poolFault s b core code pa, false)
        | .ok a s =>
          let mine := fun (x : Block) => inRing s x && x.spawnArea == some a && (s.launch? x.launch).elim false (fun y => y.ctx == l.ctx)
          match s.sched.blocks.find? mine with
          | none => (s, true)
          | some x => (s.updCore core (fun k => { k with spawnQ := k.spawnQ ++ [x.inst] }), true)

/-- Whether a co-operative launch at the head of a die's queue holds a block back (R132). -/
def heldByCoop (s : State) (b : Block) : Bool :=
  match (waiting s b.die).foldr blockInsert [] with
  | [] => false
  | x :: _ => (coopWaits s x).isSome && decide (b.effPrio ≤ x.effPrio)

/-- Places the first continuation of a core's queue that can be placed. -/
def placeSpawn (s : State) (core : Nat) : List Nat → State × Bool
  | [] => (s, false)
  | i :: r =>
    match s.block? i with
    | none => (s.updCore core (fun k => { k with spawnQ := k.spawnQ.filter (fun x => x != i) }), true)
    | some b =>
      let (s, ok) := if mayPlace s b && !heldByCoop s b then tryAdmit s b else (s, false)
      if ok then (s.updCore core (fun k => { k with spawnQ := k.spawnQ.filter (fun x => x != i) }), true) else placeSpawn s core r

def execSpawnPlacement (s : State) : Host.Outcome State Fault Refusal :=
  let c := s.arg.core
  .next (
    let (s, a) := acceptSpawn s c
    let (s, b) := refillSpawn s c
    let (s, p) := placeSpawn s c (s.core c).spawnQ
    if a || b || p then finish (s.post .spawnPlacement { core := c })
    else if (s.core c).spawnQ.isEmpty && !s.ops.any (fun o => o.core == c && isSpawn o.what) then finish s
    else (settle s).park .spawnPlacement)

end Sys2Proof.Machine
end

