-- ==== Sys2Proof/Machine/Timers.lean ====
section
/-! DEFINITION. The deferred traps (08 R191, R194, 18 R411), the waits that end with time (08 R161, R162, 17 R388, R395). -/

namespace Sys2Proof.Machine

/-- A deferred trap of a path, at the next instruction boundary outside a handler. -/
def deferTrap (s : State) (pick : Hatch → Option TrapReport) (note : State → State) : State :=
  match s.hatch? s.arg.hatch with
  | none => finish s
  | some h => match h.path? s.arg.slot, pick h with
    | some p, some t => if h.handler then finish s else finish (takeTrap (note s) h.inst s.arg.slot p.pc t)
    | _, _ => finish s

/-- SFRQ_TRAP: the hatch's oldest record (R191). -/
def execSfrqTrap (s : State) : Host.Outcome State Fault Refusal :=
  .next (deferTrap s (fun h => (oldestRecord s h).map (fun r =>
    { code := r.code, info := r.cause % 256 + r.level % 4 * 256, addr := r.va, mask := r.lanes })) id)

def EngineFault.report (e : EngineFault) : TrapReport :=
  { code := tcEngineFault, info := e.cause % 256 * 2 ^ 8 + e.subCause % 256 * 2 ^ 16 + e.opcode % 256 * 2 ^ 24, addr := e.addr }

/-- ENGINE_FAULT_TRAP, once the hatch holds no store-fault record (R411). -/
def execEngineFaultTrap (s : State) : Host.Outcome State Fault Refusal :=
  .next (deferTrap s (fun h => if (oldestRecord s h).isSome then none else (h.engFaults.head?).map EngineFault.report)
    (fun s => s.updHatch s.arg.hatch (fun h => { h with engFaults := h.engFaults.drop 1 })))

/-- PROMOTION (R161). -/
def execPromotion (s : State) : Host.Outcome State Fault Refusal :=
  .next (finish (s.updPath s.arg.hatch s.arg.slot (fun p =>
    if p.handler || decide (7 ≤ p.prio + p.promo) then p else { p with promo := p.promo + 1 })))

/-- The path of an event wakes if its wait is of a kind. -/
def endWait (s : State) (ends : Wait → Bool) : State :=
  finish (s.updPath s.arg.hatch s.arg.slot (fun p => if ends p.wait then { p with wait := .none } else p))

/-- YIELD_TIMEOUT (R162). -/
def execYieldTimeout (s : State) : Host.Outcome State Fault Refusal :=
  .next (endWait s (fun w => match w with
    | .yield since _ => decide (since + 64 ≤ s.clock)
    | _ => false))

/-- WADDR_TIMEOUT: the word is looked at again (R388); a path that waits at a semaphore looks again too. -/
def execWaddrTimeout (s : State) : Host.Outcome State Fault Refusal :=
  .next (endWait s (fun w => match w with
    | .waddr _ _ since => decide (since + 65536 ≤ s.clock)
    | .sema _ since => decide (since + 65536 ≤ s.clock)
    | _ => false))

end Sys2Proof.Machine
end

