-- ==== Sys2Proof/Machine/Dispatchers.lean ====
section
/-! DEFINITION. Dispatching triggers (07 R136 to R138, R142, R448, R452): TRIGGER_DISPATCH, SWEEP_SCAN, and the scan of a
pending bitmap that WATCH_ATTACH and WATCH_DETACH share with it. -/

namespace Sys2Proof.Machine

def granulesOf (w : Watch) : Nat := w.size / 2 ^ w.granule

/-- Whether dispatch of a watch's work must wait: its launch is suspended (R152), or its engine is not idle (R111, R116). -/
def watchHeld (s : State) (w : Watch) : Bool :=
  if w.engine then
    let e := s.media.getD w.target Engine.reset
    e.state != .idle || !e.pending.isEmpty
  else (s.launch? w.launch).elim true (fun l => l.phase == .suspended)

/-- Queues the work of a granule whose pending bit has just been cleared (R126, R127, R138, R116). -/
def startWork (s : State) (w : Watch) (g depth : Nat) : State :=
  if w.engine then
    let add := fun (e : Engine) => { e with pending := e.pending ++ [(w.id, g)] }
    ({ s with media := s.media.modify w.target add } : State).post .engineJobDispatch { engine := w.target, watch := w.id, granule := g }
  else match s.launch? w.launch with
    | none => s
    | some l =>
      let (inst, s) := s.fresh
      let (age, s) := s.fresh
      let pa := granulePa w g
      queueBlock s { newBlock inst l.id 0 (granuleHome s w g).1 l.rcd s.clock with
        triggered := true, granule := lineOf pa, granuleN := (2 ^ w.granule + 127) / 128
        trigArg := wrap64 (w.argBase + g * 2 ^ w.granule), depth := depth, age := age }

/-- The test-and-clear of a granule's bit, and its work if the bit was set (R138). -/
def dispatchGranule (s : State) (id g depth : Nat) : State :=
  match s.watch? id with
  | none => s
  | some w =>
    let (old, s) := bitSwap s w g false
    if old then startWork s w g depth else s

/-- The first entry of a list of queue entries that may be dispatched now. -/
def takeQueued (s : State) (q : Nat) : Option (TrigEntry × List (Nat × TrigEntry)) :=
  (takeFirst (fun (x : Nat × TrigEntry) => x.1 == q && !(s.watch? x.2.watch).elim false (watchHeld s)) s.sched.trigQ).map
    (fun (x, r) => (x.2, r))

/-- An entry of a home slice's queue. -/
def dispatchQueue (s : State) (q : Nat) : State :=
  if !s.sched.trigQ.any (fun x => x.1 == q) then finish s
  else match takeQueued s q with
    | none => s.park .triggerDispatch
    | some (e, rest) => finish (dispatchGranule { s with sched := { s.sched with trigQ := rest } } e.watch e.granule e.depth)

/-- The oldest entry of a watch's spill ring; one that reads as poison is dropped (R448). -/
def dispatchRing (s : State) (w : Watch) : State :=
  if w.wr ≤ w.rd then finish s
  else if watchHeld s w then s.park .triggerDispatch
  else
    let pa := w.ring + 8 * (w.rd % w.ringN)
    let (s, bs, bad) := coherentRead (takeLine s (lineOf pa)) pa 8
    let s := s.updWatch w.id (fun w => { w with rd := w.rd + 1 })
    if bad then
      let die := homeDie s (lineOf w.ring)
      finish (enterSweep (logError s 1 2 0x0101 die 0 (pa / 32 * 32)) { w with rd := w.rd + 1 } die 0)
    else
      let v := bytesNat bs
      finish (dispatchGranule s w.id (v % 2 ^ 40) (bitsOf v 55 52))

def execTriggerDispatch (s : State) : Host.Outcome State Fault Refusal :=
  .next (match s.arg.trig with
    | .queue die slice => dispatchQueue s (die * 32 + slice)
    | .ring id => match s.watch? id with
      | none => finish s
      | some w => dispatchRing s w)

/-! ### Scans (R137) -/

inductive Scan where
  | held | more | pass
  deriving DecidableEq, Repr

/-- One move of a scan of a watch's bitmap from a granule: the next set bit in the line at the scan's place is dispatched, or
the scan goes on to the next line. The last part is the scan's new place. -/
def scanFrom (s : State) (w : Watch) (pos depth : Nat) : State × Scan × Nat :=
  let n := granulesOf w
  if n ≤ pos then (s, .pass, pos)
  else
    let k := pos / 1024
    let pa := w.bitmap + 128 * k
    let s := (List.range 4).foldl (fun s q => bitmapReady s w (granuleHome s w pos).1 (pa + 32 * q)) s
    let v := bytesNat (peekPa s pa 128).1
    let stop := min n (1024 * (k + 1))
    match ((List.range (stop - pos)).map (fun i => pos + i)).find? (fun i => bitAt v (i % 1024)) with
    | none => (s, .more, stop)
    | some i => if watchHeld s w then (s, .held, pos) else (dispatchGranule s w.id i depth, .more, i + 1)

/-- The end of a pass in sweep mode: sweep ends, or another pass begins. -/
def endPass (s : State) (w : Watch) : State :=
  if w.passClean then s.updWatch w.id (fun w => { w with sweep := false, sweepDepth := 0, scanPos := 0 })
  else (s.updWatch w.id (fun w => { w with scanPos := 0, passClean := w.wr == w.rd })).post .sweepScan { watch := w.id }

def execSweepScan (s : State) : Host.Outcome State Fault Refusal :=
  .next (match s.watch? s.arg.watch with
    | none => finish s
    | some w =>
      if !w.sweep then finish s
      else match scanFrom s w w.scanPos w.sweepDepth with
        | (s, .held, _) => (settle s).park .sweepScan
        | (s, .more, pos) => finish ((s.updWatch w.id (fun w => { w with scanPos := pos })).post .sweepScan { watch := w.id })
        | (s, .pass, _) => finish (endPass s w))

end Sys2Proof.Machine
end

