-- ==== Sys2Proof/Machine/Media.lean ====
section
/-! DEFINITION. The media engines (06 R114 to R121; 05 R111): jobs, coding rows, the row handoff, and their events. What a
bitstream decodes to, and what pictures encode to, are free values (entry 10). -/

namespace Sys2Proof.Machine

def State.engine (s : State) (e : Nat) : Engine := s.media.getD e Engine.reset
def State.updEngine (s : State) (e : Nat) (f : Engine → Engine) : State := { s with media := s.media.modify e f }

/-- The port that an engine's function lies behind (R95). -/
def enginePort (e : Nat) : Port := if e < 2 then .a else .b

/-! ### Engine accesses (R116, R118, R120) -/

/-- The instruction that stands for an engine's store on its way to another package. -/
def farWrite : Instr := .nop .l64 3

/-- An engine's store to a line of another package (R73, R141), which the home acknowledges; its triggers have depth 0. -/
def farStore (s : State) (e pa : Nat) (bs : List Byte) : State :=
  let line := lineOf pa
  let (id, s) := s.fresh
  let o : Op :=
    { id := id, hatch := 2 ^ 64, slot := 0, block := 2 ^ 64, core := 0, ctx := 0, depth := 0, pc := 0, what := farWrite
      active := 0, lanes := [], vals := [e, line], vecs := [], prog := 0, done := false, silent := false }
  sendChip { s with ops := s.ops ++ [o] } .req .io
    { chip := lineChip line, kind := 4, who := .agent s.fab.chipId 0, line := line, mask := maskOf (offsetInLine pa) bs.length, op := id
      data := { bytes := lineImage (offsetInLine pa) bs, poison := 0, depth := 0 } }

/-- Whether stores of an engine to another package are still to be acknowledged. -/
def farWaits (s : State) (e : Nat) : Bool := s.ops.any (fun o => o.what == farWrite && o.vals.head? == some e)

/-- Writes bytes of one line with the depth of an engine's store (R116): where the line's home performs it, or for MT 4 over
PCIe; to a failed package it is discarded and counted (R85). -/
def medPoke (s : State) (e pa mt : Nat) (bs : List Byte) : State :=
  if mt == 4 then s.emit (.pcieWrite (portOfLine (lineOf pa)) pa bs)
  else if lineFar s (lineOf pa) && !lineDead s (lineOf pa) then farStore s e pa bs
  else pokePa s pa bs (some (0, none))

def medWritePieces (e ctx : Nat) (bs : List Byte) (note : Nat → State → State) : List (Nat × Nat × Nat) → AreaM Unit
  | [] => return ()
  | (o, a, n) :: r => do
    let (pa, mt) ← devXlate 0 ctx .store a
    modify (fun s => note n (medPoke s e pa mt (sliceBytes bs o n)))
    medWritePieces e ctx bs note r

/-- Writes bytes at a VA of the target context. -/
def medWrite (e ctx va : Nat) (bs : List Byte) : AreaM Unit :=
  medWritePieces e ctx bs (fun _ s => s) (linePieces (bs.length / 128 + 2) 0 va bs.length)

/-- The running job has written n more bytes of its output. -/
def countOut (e n : Nat) (s : State) : State := s.updEngine e (fun x => { x with job := x.job.map (fun j => { j with out := j.out + n }) })

/-- Writes bytes of the job's output, each piece counted as it is written (R118). -/
def outWrite (e ctx va : Nat) (bs : List Byte) : AreaM Unit :=
  medWritePieces e ctx bs (countOut e) (linePieces (bs.length / 128 + 2) 0 va bs.length)

/-- A 32-bit word read with acquire at domain scope. -/
def medWord (ctx va : Nat) : AreaM Nat := do
  let bs ← devRead 0 ctx va 4
  return bytesNat bs

/-! ### Jobs (R117, R118) -/

def MediaJob.f (j : MediaJob) (off n : Nat) : Nat := fieldAt j.record off n
def MediaJob.op (j : MediaJob) : Nat := j.f 4 1
def MediaJob.filter (j : MediaJob) : Bool := bitAt (j.f 5 1) 0
def MediaJob.encodes (j : MediaJob) : Bool := decide (2 ≤ j.op)

/-- The limits of the job record. -/
def jobOk (j : MediaJob) : Bool :=
  decide (j.op ≤ 3) && decide (1 ≤ j.f 0x10 4) && (!j.filter || (j.f 0x20 8 % 4 == 0 && j.f 0x28 8 % 4 == 0)) && j.f 0x30 8 % 16 == 0

/-- The limits of an encode parameter block, with the largest picture of R114; 4:4:4 needs the profile that has it (entry 10). -/
def paramOk (op : Nat) (ps : List Byte) : Bool :=
  let g := fieldAt ps
  decide (1 ≤ g 0 2) && decide (g 0 2 ≤ 8192) && decide (1 ≤ g 2 2) && decide (g 2 2 ≤ if op == 2 then 4352 else 4320) &&
    (g 4 1 == 8 || g 4 1 == 10) && (g 5 1 == 0 || g 5 1 == 3 && g 0xA 1 == 1) && decide (g 7 1 ≤ 7) && decide (g 0xA 1 ≤ 1)

/-- The quantiser of a parameter block, clamped for VVC. -/
def clampParams (op : Nat) (ps : List Byte) : List Byte :=
  if op == 3 then spliceBytes ps 6 (natBytes 1 (min 63 (fieldAt ps 6 1))) else ps

/-- The engine's job ends with a status, known before every output byte is written. -/
def endJob (s : State) (e status : Nat) : State :=
  (s.updEngine e (fun x => { x with state := .run, job := x.job.map (fun j => { j with status := status }) })).post
    .engineJobDone { engine := e }

/-- The status that a fault of an access gives; poison is logged (R118, R445), a translation counted (R120). -/
def faultJob (s : State) (e code pa : Nat) : State :=
  if code == tcPoison then endJob (logError s 1 5 0x0101 e 0 pa) e 5
  else endJob (s.updEngine e (fun x => { x with faults := satInc x.faults })) e 3

/-- Reserved bytes of a job record or parameter block (R7, R445). -/
def reservedMedia (s : State) (e : Nat) (nonzero : Bool) : State := if nonzero then logError s 0 5 0x0004 e 0 0 else s

/-- Reads a job's parameters and input. -/
def readJob (j : MediaJob) : AreaM (List Byte × List Byte) := do
  let ps ← if j.encodes then devRead 0 j.ctx (j.f 0x38 8) 16 else pure []
  let input ← devRead 0 j.ctx (j.f 8 8) (j.f 0x10 4)
  return (ps, input)

/-- The job begins: its record is checked, its parameters and input are read (R116, R117). -/
def beginJob (s : State) (e : Nat) (j : MediaJob) : State :=
  let set := fun (s : State) (j : MediaJob) => s.updEngine e (fun x => { x with state := .run, job := some j })
  let s := reservedMedia s e (2 ≤ j.f 5 1 || j.f 6 2 != 0)
  if !jobOk j then endJob (set s j) e 2
  else match (readJob j).run s with
    | .error (code, pa) s => faultJob (set s j) e code pa
    | .ok (ps, input) s =>
      let s := reservedMedia s e (j.encodes && fieldAt ps 0xB 5 != 0)
      if j.encodes && !paramOk j.op ps then endJob (set s j) e 2
      else
        let j := { j with settings := natBytes 1 j.op ++ natBytes 1 (j.f 5 1 % 2) ++ (clampParams j.op ps).take 11, input := input }
        (set s j).post .engineRowDone { engine := e }

/-- A job as it is dispatched. -/
def newJob (w : Watch) (bs : List Byte) : MediaJob :=
  { ctx := w.ctx, watch := w.id, record := bs, settings := [], input := [], refs := [], row := 0, out := 0, status := 0 }

/-- ENGINE_JOB_DISPATCH: the job record is read with acquire (R116). One whose DONE_VA reads as poison names no completion record:
nothing is run; poison elsewhere in it ends the job with status POISON (R118). -/
def execEngineJobDispatch (s : State) : Host.Outcome State Fault Refusal :=
  let e := s.arg.engine
  let want := (s.arg.watch, s.arg.granule)
  .next (
    if !(s.engine e).pending.contains want then finish s
    else if (s.engine e).state != .idle then s.park .engineJobDispatch
    else
      let s := s.updEngine e (fun x => { x with pending := x.pending.erase want })
      match s.watch? want.1 with
      | none => finish s
      | some w =>
        let pa := granulePa w want.2
        let (s, lo, bad0) := coherentRead (acquireLine s (lineOf pa)) pa 32
        let (s, hi, bad1) := coherentRead s (pa + 32) 32
        let j := newJob w (lo ++ hi)
        finish (
          if bad1 then logError s 1 5 0x0101 e 0 (pa + 32)
          else if bad0 then faultJob (s.updEngine e (fun x => { x with state := .run, job := some j })) e tcPoison pa
          else beginJob s e j))

/-! ### Pictures (R114, R117)

Planar pictures, one after another from the start of the buffer, each plane's rows 256-byte aligned (entry 10). -/

/-- A header field of a picture of the job. -/
def MediaJob.header (j : MediaJob) (pic field : Nat) : Nat := Config.mediaHeader j.settings j.input pic field

/-- The limits of R114 for a picture that a job decodes. -/
def pictureOk (j : MediaJob) (pic : Nat) : Bool :=
  let h := j.header pic
  decide (1 ≤ h 0) && decide (h 0 ≤ 8192) && decide (1 ≤ h 1) && decide (h 1 ≤ if j.op == 0 then 4352 else 4320) &&
    (h 2 == 8 || h 2 == 10) && decide (h 3 ≤ 3) && decide (h 4 ≤ 1) && decide (h 5 ≤ if j.op == 0 then 63 else 62)

def MediaJob.sampleBytes (j : MediaJob) (pic : Nat) : Nat := if j.header pic 2 == 8 then 1 else 2

/-- Planes of a picture: chroma format 1 is monochrome. -/
def MediaJob.planes (j : MediaJob) (pic : Nat) : Nat := if j.header pic 3 == 1 then 1 else 3

/-- The factors by which a plane is smaller than the picture: format 0 is 4:2:0, 2 is 4:2:2, 3 is 4:4:4. -/
def MediaJob.shrink (j : MediaJob) (pic plane : Nat) : Nat × Nat :=
  if plane == 0 then (1, 1) else match j.header pic 3 with
    | 0 => (2, 2)
    | 2 => (2, 1)
    | _ => (1, 1)

/-- The width and the height of a plane. -/
def MediaJob.plane (j : MediaJob) (pic plane : Nat) : Nat × Nat :=
  let k := j.shrink pic plane
  ((j.header pic 0 + k.1 - 1) / k.1, (j.header pic 1 + k.2 - 1) / k.2)

/-- Bytes of a row of a plane. -/
def MediaJob.rowBytes (j : MediaJob) (pic plane : Nat) : Nat := ((j.plane pic plane).1 * j.sampleBytes pic + 255) / 256 * 256

/-- Where a plane of a picture begins in the buffer. -/
def MediaJob.planeAt (j : MediaJob) (pic plane : Nat) : Nat :=
  let size := fun (p q : Nat) => j.rowBytes p q * (j.plane p q).2
  ((List.range pic).flatMap (fun p => (List.range (j.planes p)).map (size p))).sum + ((List.range plane).map (size pic)).sum

/-- The places of a coding row: plane, position in it and offset in the buffer. -/
def rowPlaces (j : MediaJob) (row : Nat) : List (Nat × Nat × Nat × Nat) :=
  let pic := Config.mediaPicture j.settings j.input row
  (List.range (j.planes pic)).flatMap (fun p =>
    let k := j.shrink pic p
    (List.range (j.plane pic p).2).flatMap (fun y => ((List.range (j.plane pic p).1).filter (fun x =>
      Config.mediaRowAt j.settings j.input pic (x * k.1) (y * k.2) == row)).map (fun x =>
        (p, x, y, j.planeAt pic p + y * j.rowBytes pic p + x * j.sampleBytes pic))))

/-- The samples of a coding row: offset in the buffer and bytes. -/
def rowSamples (j : MediaJob) (row : Nat) : List (Nat × List Byte) :=
  let n := j.sampleBytes (Config.mediaPicture j.settings j.input row)
  (rowPlaces j row).map (fun (p, x, y, at_) => (at_, natBytes n (Config.mediaSample j.settings j.input j.refs row p x y)))

/-! ### Coding rows (R115, R119) -/

/-- Writes the samples of a row; the first past the capacity ends it. The answer is whether all of them fitted. -/
def writeRow (e : Nat) (j : MediaJob) : List (Nat × List Byte) → AreaM Bool
  | [] => return true
  | (off, bs) :: r =>
    if j.f 0x14 4 < off + bs.length then return false
    else do
      outWrite e j.ctx (wrap64 (j.f 0x18 8 + off)) bs
      writeRow e j r

/-- Reads places of the output buffer: samples of filtered rows. -/
def readPlaces (j : MediaJob) (n : Nat) : List Nat → AreaM (List Byte)
  | [] => return []
  | off :: r => do
    let x ← devRead 0 j.ctx (wrap64 (j.f 0x18 8 + off)) n
    let y ← readPlaces j n r
    return x ++ y

/-- Reads the samples of the given rows. -/
def readRows (j : MediaJob) : List Nat → AreaM (List Byte)
  | [] => return []
  | row :: r => do
    let x ← readPlaces j (j.sampleBytes (Config.mediaPicture j.settings j.input row)) ((rowPlaces j row).map (fun x => x.2.2.2))
    let y ← readRows j r
    return x ++ y

/-- How many rows must have been filtered before a row of a decode job with FILTER may be made (R119 step 4). -/
def rowNeeds (j : MediaJob) : Nat := if j.filter && !j.encodes then min j.row (Config.mediaNeeds j.settings j.input j.row) else 0

/-- Whether the rows that a row reads as references have been filtered. -/
def rowReady (j : MediaJob) : AreaM Bool :=
  if rowNeeds j == 0 then return true
  else do
    let n ← medWord j.ctx (j.f 0x28 8)
    return decide (rowNeeds j ≤ n)

/-- A row as the engine makes it: its references are read, and its samples written. The answer is the job with what it has read,
and whether all samples fitted. -/
def makeRow (e : Nat) (j : MediaJob) : AreaM (MediaJob × Bool) :=
  if j.encodes then return (j, true)
  else do
    let refs ← readRows j (List.range (rowNeeds j))
    let j := { j with refs := j.refs ++ [refs] }
    let ok ← writeRow e j (rowSamples j j.row)
    return (j, ok)

/-- ROW counts a row (R119 step 1). -/
def countRow (e : Nat) (j : MediaJob) : AreaM Unit := do
  let n ← medWord j.ctx (j.f 0x20 8)
  medWrite e j.ctx (j.f 0x20 8) (natBytes 4 (n + 1))

/-- The row is finished: with FILTER it is counted, once its samples have been written everywhere. -/
def endRow (s : State) (e : Nat) (j : MediaJob) : State :=
  let next := fun (s : State) => (s.updEngine e (fun x => { x with
    state := .run, job := x.job.map (fun y => { y with row := j.row + 1, refs := j.refs, toCount := false }) })).post .engineRowDone { engine := e }
  if !j.filter || j.encodes then next s
  else if farWaits s e then (s.updEngine e (fun x => { x with
    state := .run, job := x.job.map (fun y => { y with refs := j.refs, toCount := true }) })).park .engineRowDone
  else match (countRow e j).run s with
    | .error (code, pa) s => faultJob s e code pa
    | .ok _ s => next s

/-- One coding row of the running job, or its end. -/
def nextRow (s : State) (e : Nat) (j : MediaJob) : State :=
  if j.toCount then endRow s e j
  else if Config.mediaRows j.settings j.input ≤ j.row then endJob s e (Config.mediaStatus j.settings j.input % 3)
  else if !j.encodes && !pictureOk j (Config.mediaPicture j.settings j.input j.row) then endJob s e 2
  else match (rowReady j).run s with
    | .error (code, pa) s => faultJob s e code pa
    | .ok false s => (s.updEngine e (fun x => { x with state := .waitFilt })).post .engineFiltWake { engine := e }
    | .ok true s => match (makeRow e j).run s with
      | .error (code, pa) s => faultJob s e code pa
      | .ok (_, false) s => endJob s e 4
      | .ok (j, true) s => endRow s e j

def execEngineRowDone (s : State) : Host.Outcome State Fault Refusal :=
  let e := s.arg.engine
  .next (match (s.engine e).job with
    | some j =>
      if (s.engine e).state != .run then finish s
      else if j.toCount && farWaits s e then s.park .engineRowDone
      else finish (nextRow s e j)
    | none => finish s)

/-- ENGINE_FILT_WAKE: the engine looks at FILT again; it goes on waiting while FILT is too low (R119 step 4). -/
def execEngineFiltWake (s : State) : Host.Outcome State Fault Refusal :=
  let e := s.arg.engine
  .next (match (s.engine e).job with
    | none => finish s
    | some j =>
      if (s.engine e).state != .waitFilt then finish s
      else match (rowReady j).run s with
        | .error (code, pa) s => finish (faultJob s e code pa)
        | .ok false s => (settle s).park .engineFiltWake
        | .ok true s => finish ((s.updEngine e (fun x => { x with state := .run })).post .engineRowDone { engine := e }))

/-! ### The end of a job (R118) -/

/-- The bitstream of an encode job, as much of it as fits. -/
def writeStream (e : Nat) (j : MediaJob) : AreaM Unit :=
  outWrite e j.ctx (j.f 0x18 8) ((Config.mediaStream j.settings j.input).take (j.f 0x14 4))

/-- Stores the completion record, with release at domain scope. -/
def storeDone (e : Nat) (j : MediaJob) : AreaM Unit :=
  medWrite e j.ctx (j.f 0x30 8) (natBytes 4 (j.f 0 4) ++ natBytes 4 j.status ++ natBytes 8 j.out)

/-- The engine is idle again; its status register keeps the status of a record that was written. -/
def idleEngine (s : State) (e : Nat) : State := (s.updEngine e (fun x => { x with state := .idle, job := none })).wake

/-- The job ends with its record; a fault of the record's own store is counted unless the job has been counted (R120). -/
def finishJob (s : State) (e : Nat) (j : MediaJob) : State :=
  match (storeDone e j).run s with
  | .ok _ s => idleEngine (s.updEngine e (fun x => { x with lastStatus := j.status, jobs := satInc x.jobs })) e
  | .error (code, pa) s =>
    if code == tcPoison then idleEngine (if j.status == 5 then s else logError s 1 5 0x0101 e 0 pa) e
    else idleEngine (if j.status == 3 then s else s.updEngine e (fun x => { x with faults := satInc x.faults })) e

/-- Whether an encode job has its bitstream still to write. -/
def MediaJob.streams (j : MediaJob) : Bool := j.encodes && j.status == 0 && !j.toCount

/-- ENGINE_JOB_DONE: an encode job writes its bitstream; when every output byte has been written the completion record follows. -/
def execEngineJobDone (s : State) : Host.Outcome State Fault Refusal :=
  let e := s.arg.engine
  .next (match (s.engine e).job with
    | none => finish s
    | some j =>
      if (s.engine e).state != .run then finish s
      else if farWaits s e then s.park .engineJobDone
      else if j.streams then
        match (writeStream e j).run s with
        | .error (code, pa) s => finish (faultJob s e code pa)
        | .ok _ s =>
          let full := j.f 0x14 4 < (Config.mediaStream j.settings j.input).length
          finish ((s.updEngine e (fun x => { x with
            job := x.job.map (fun y => { y with toCount := true, status := if full then 4 else 0 }) })).post .engineJobDone { engine := e })
      else finish (finishJob s e j))

/-! ### Reset and containment (R111, R120) -/

/-- Whether an event is a step of a job of an engine. -/
def jobStep (e : Nat) (x : Event) : Bool :=
  x.arg.engine == e && (x.what == .engineJobDispatch || x.what == .engineRowDone || x.what == .engineFiltWake || x.what == .engineJobDone)

/-- The job that an engine runs, or has been handed, is lost, with its steps under way; the engine's registers return to their
reset values, but for the counters (R121). -/
def loseJob (s : State) (e : Nat) (st : EngState) : State :=
  let s : State := { s with net := s.net.filter (fun x => !jobStep e x), parked := s.parked.filter (fun x => !jobStep e x) }
  s.updEngine e (fun x => { x with
    state := st, lastStatus := 0, lost := if x.job.isSome || !x.pending.isEmpty then satInc x.lost else x.lost, job := none, pending := [] })

/-- MEDIA_FATAL: ERR_FATAL by the engine's function only; DPC holds the engine (R111). -/
def mediaFatal (s : State) (e : Nat) : State :=
  aerSignal (recordError (loseJob s e .contained) 2 5 0x0203 e 0 0) (enginePort e) 2 0x0203

def execMediaFatal (s : State) : Host.Outcome State Fault Refusal := .next (finish (mediaFatal s s.arg.engine))

/-- DPC_STATUS_CLEAR: the engine is released (R111). -/
def execDpcStatusClear (s : State) : Host.Outcome State Fault Refusal :=
  .next (finish (if (s.engine s.arg.engine).state == .contained then idleEngine s s.arg.engine else s))

end Sys2Proof.Machine
end

