-- ==== Sys2Proof/Machine/CmdIface.lean ====
section
/-! DEFINITION. The management window and the command interface (05 R96 to R105; 01 R23 to R25; 02 R41, 03 R56, 04 R94, 06 R121):
registers, the command semaphore, and how a command starts and completes. -/

namespace Sys2Proof.Machine

/-! ### Requesters and interrupts (R97) -/

def Requester.port? : Requester → Option Port
  | .a => some .a
  | .b => some .b
  | .mgmt => none

def portRequester : Port → Requester
  | .a => .a
  | .b => .b

/-- Holder codes (R99). -/
def reqCode : Requester → Nat
  | .a => 0
  | .b => 1
  | .mgmt => 2

/-- The requester after another in the order of R100. -/
def reqNext : Requester → Requester
  | .a => .b
  | .b => .mgmt
  | .mgmt => .a

/-! ### The command semaphore (R97, R99, R100, R102) -/

/-- The semaphore falls free: each port that was refused is told once (R97). -/
def freeSem (s : State) : State :=
  let told := s.host.semRefused
  let s : State := { s with host := { s.host with semHolder := none, semReleasePending := false, semRefused := [] } }
  [Port.a, Port.b].foldl (fun s p => if told.contains (portRequester p) then sendVector s p 2 else s) s

/-- The semaphore is taken from a port. -/
def dropSem (s : State) (p : Port) : State := if s.host.semHolder == some (portRequester p) then freeSem s else s

/-- The value a refused reader gets. -/
def semRefusal (h : Requester) : Word := BitVec.ofNat 32 (0x80000000 + reqCode h)

/-- The first contender at or after the pointer. -/
def firstAt (p : Requester) (rs : List Requester) : Option Requester :=
  [p, reqNext p, reqNext (reqNext p)].find? (fun r => rs.contains r)

/-- A read that is refused. -/
def refuseRead (h : Requester) (s : State) (r : Requester) : State :=
  let add := if s.host.semRefused.contains r then s.host.semRefused else s.host.semRefused ++ [r]
  ({ s with host := { s.host with semRefused := add } } : State).emit (.readData r (semRefusal h))

/-- Reads of CMD_SEM in one clock. -/
def semRead (s : State) (readers : List Requester) : State :=
  let rs := dedup readers
  match s.host.semHolder with
  | some h => rs.foldl (refuseRead h) s
  | none => match firstAt s.host.semNext rs with
    | none => s
    | some w =>
      let next := if 2 ≤ rs.length then reqNext w else s.host.semNext
      let s : State := { s with host := { s.host with semHolder := some w, semNext := next } }
      (rs.filter (fun r => r != w)).foldl (refuseRead w) (s.emit (.readData w 0))

def execCmdSemRead (s : State) : Host.Outcome State Fault Refusal := .next (finish (semRead s s.arg.readers))

/-- A write that is dropped (R99, R101). CMD_DROPPED saturates: the spec does not say what follows 0xFFFF_FFFF (entry 66). -/
def dropWrite (s : State) : State := { s with host := { s.host with cmdDropped := satInc s.host.cmdDropped } }

/-- A write to CMD_SEM. -/
def semWrite (s : State) (r : Requester) (v : Word) : State :=
  if s.host.semHolder != some r || v != 1 then dropWrite s
  else if s.host.cmdBusy then { s with host := { s.host with semReleasePending := true } }
  else freeSem s

def execCmdSemRelease (s : State) : Host.Outcome State Fault Refusal := .next (finish (semWrite s s.arg.req s.arg.word))

/-! ### Reading the management window (R98) -/

def devStateCode : DevState → Nat
  | .reset => 1
  | .selftest => 2
  | .fuses => 3
  | .logic => 4
  | .memory => 5
  | .links => 6
  | .ready => 7
  | .failed => 15

/-- DEV_ID and DEV_STATUS (R98, R23). -/
def regDevId : Nat := 0x09400100
def regDevStatus (s : State) : Nat := s.pkg.failStep * 256 + natOfBool s.pkg.warm * 128 + devStateCode s.pkg.devState

def regCmdStatus (s : State) : Nat :=
  natOfBool s.host.cmdBusy * 2 ^ 31 + natOfBool s.host.cmdDone * 2 ^ 30 + s.host.cmdRespLen * 256 + s.host.cmdStatus

def ulainCode : UlainState → Nat
  | .disabled => 0
  | .training => 1
  | .up => 2
  | .down => 3

/-- ULAIN_LANE_ERR: four bits for each lane. -/
def laneErr (l : Link) : Nat := (List.range 8).foldl (fun a i => a + min 15 (l.laneFails.getD i 0) * 16 ^ i) 0

/-- The registers of a Ulain port (R41). -/
def regUlain (s : State) (p r : Nat) : Nat :=
  let u := s.fab.ulain.getD p UlainPort.reset
  let l := s.link (.ulain p)
  if r == 0 then u.peer % 16 * 2 ^ 24 + u.good.toNat * 2 ^ 16 + natOfBool u.half * 8 + ulainCode u.state
  else if r == 4 then l.crc else if r == 8 then l.replayCount else if r == 12 then l.retrains
  else if r == 16 then laneErr l else 0

/-- MEM_WIN_STATUS and the memory-side counters (R56). -/
def regMemSide (s : State) (o : Nat) : Nat :=
  if o < 0x80 then match s.ms.windows.getD (o / 4) none with
    | none => 0
    | some w => 2 ^ 31 + w.fade * 2 ^ 16 + (w.size / 65536 - 1)
  else if o == 0x80 then s.ms.fadeCount else if o == 0x84 then s.ms.pinOverflow else 0

/-- The coherence counters (R94). -/
def regCoh (s : State) (o : Nat) : Nat :=
  [s.coh.forcedPub, s.coh.widen, s.coh.merge, s.coh.recalls, s.coh.bisnpCount, s.coh.poisonLine, s.coh.deadHome].getD (o / 4) 0

def engCode : EngState → Nat
  | .idle => 0
  | .run => 1
  | .waitFilt => 2
  | .reset => 3
  | .contained => 4

/-- The registers of an engine (R121). -/
def regMedia (s : State) (e r : Nat) : Nat :=
  let x := s.engine e
  if r == 0 then x.lastStatus % 16 * 2 ^ 24 + (x.job.elim 0 (·.watch)) % 256 * 2 ^ 16 +
    natOfBool (x.state == .contained) * 128 + engCode x.state
  else if r == 4 then x.jobs else if r == 8 then x.lost else if r == 12 then x.faults else 0

/-- The word that a read of the management window returns, CMD_SEM apart; an unlisted offset reads 0. -/
def mgmtRead (s : State) (o : Nat) : Word := BitVec.ofNat 32 (
  if o == 0x00 then regDevId
  else if o == 0x10 then regDevStatus s
  else if o == 0x24 then s.host.cmdLen * 256 + s.host.cmdOpcode
  else if o == 0x28 then regCmdStatus s
  else if o == 0x2C then s.host.cmdDropped
  else if o == 0x1000 then s.host.errCorr
  else if o == 0x1004 then s.host.errNonfatal
  else if o == 0x1008 then s.host.errFatal
  else if o == 0x100C then s.host.errLost
  else if o == 0x1010 then s.host.errLog.length
  else if 0x2000 ≤ o ∧ o < 0x2180 then regUlain s ((o - 0x2000) / 0x20) ((o - 0x2000) % 0x20)
  else if 0x3000 ≤ o ∧ o < 0x3100 then regMemSide s (o - 0x3000)
  else if 0x4000 ≤ o ∧ o < 0x4100 then regCoh s (o - 0x4000)
  else if 0x5000 ≤ o ∧ o < 0x5100 then regMedia s ((o - 0x5000) / 0x40) ((o - 0x5000) % 0x40)
  else if 0x8000 ≤ o ∧ o < 0x10000 then fieldAt s.host.cmdBuf (o - 0x8000) 4
  else 0)

/-- Whether an offset names a register. -/
def regListed (o : Nat) : Bool :=
  [0x00, 0x10, 0x20, 0x24, 0x28, 0x2C, 0x1000, 0x1004, 0x1008, 0x100C, 0x1010].contains o ||
  (decide (0x2000 ≤ o) && decide (o < 0x2180) && [0, 4, 8, 12, 16].contains (o % 0x20)) ||
  (decide (0x3000 ≤ o) && decide (o ≤ 0x3084) && o % 4 == 0) || (decide (0x4000 ≤ o) && decide (o ≤ 0x4018) && o % 4 == 0) ||
  (decide (0x5000 ≤ o) && decide (o < 0x5100) && [0, 4, 8, 12].contains (o % 0x40)) || (decide (0x8000 ≤ o) && decide (o < 0x10000))

/-! ### Completion of a command (R97, R102, R103) -/

/-- A buffer with bytes written at an offset. -/
def bufWrite (buf : List Byte) (off : Nat) (bs : List Byte) : List Byte :=
  sliceBytes buf 0 off ++ bs ++ buf.drop (off + bs.length)

/-- The command completes with a status and a response. -/
def completeCmd (s : State) (status : Nat) (resp : List Byte) : State :=
  let s : State := { s with host := { s.host with
    cmdBusy := false, cmdDone := true, cmdRespLen := resp.length, cmdStatus := status, cmdBuf := bufWrite s.host.cmdBuf 0 resp } }
  let s := match s.host.semHolder.bind Requester.port? with
    | none => s
    | some p => sendVector s p 0
  if s.host.semReleasePending then freeSem s else s

/-! Status codes (R104). -/
def stOk : Nat := 0x00
def stInvalidOpcode : Nat := 0x01
def stInvalidParam : Nat := 0x02
def stDeviceFailed : Nat := 0x03
def stMapOverlap : Nat := 0x04
def stMapSingular : Nat := 0x05
def stUnbacked : Nat := 0x06
def stWindowOverlap : Nat := 0x07
def stNoWindow : Nat := 0x08
def stNoContext : Nat := 0x09
def stNoWatch : Nat := 0x0A
def stWatchOverlap : Nat := 0x0B
def stNotFound : Nat := 0x0C
def stNoResource : Nat := 0x0D
def stInUse : Nat := 0x0E
def stLinkState : Nat := 0x0F
def stBadLength : Nat := 0x10

/-! ### The command table (R105) -/

/-- A command of the table: its length, the bytes of its request that are not reserved, and its row; none where a subcommand
is not one that is listed. -/
structure CmdEntry where
  len : Nat
  used : List (Nat × Nat)
  what : Option Instr
  deriving DecidableEq, Repr

/-- LINK_CTL's rows by subcommand (R107). -/
def linkEntry (sub : Nat) : CmdEntry :=
  if sub == 0 then ⟨40, [(0, 2)], some .setChip⟩
  else if sub == 1 then ⟨40, [(0, 1), (2, 2)], some .portEnable⟩
  else if sub == 2 then ⟨40, [(0, 1), (8, 32)], some .route⟩
  else if sub == 3 then ⟨40, [(0, 7)], some .retrain⟩
  else if sub == 4 then ⟨40, [(0, 7)], some .query⟩
  else if sub == 5 then ⟨40, [(0, 2)], some .routerPm⟩
  else ⟨40, [(0, 40)], none⟩

/-- POWER_CTL's rows by subcommand (R108). -/
def powerEntry (sub : Nat) : CmdEntry :=
  ⟨8, [(0, 1), (2, 3)], if sub == 0 then some .powerSet else if sub == 1 then some .powerQuery else none⟩

/-- The number of matrix words of a MAP_REGION request (R47). -/
def mapWords (k : Nat) : Nat := k - 7

def cmdEntry (op : Nat) (buf : List Byte) : Option CmdEntry :=
  let e := fun (len : Nat) (used : List (Nat × Nat)) (i : Instr) => some (⟨len, used, some i⟩ : CmdEntry)
  match op with
  | 0x01 => e 0 [] .identify
  | 0x02 => e 0 [] .getCaps
  | 0x10 => e 16 [(0, 9)] .ctxCreate
  | 0x11 => e 4 [(0, 1)] .ctxDestroy
  | 0x20 => e (16 + 8 * mapWords (fieldAt buf 1 1)) [(0, 4), (8, 8 + 8 * mapWords (fieldAt buf 1 1))] .mapRegion
  | 0x21 => e 8 [(0, 8)] .queryMap
  | 0x30 => e 64 [(0, 64)] .watchAttach
  | 0x31 => e 4 [(0, 1)] .watchDetach
  | 0x40 => e 16 [(0, 9)] .launch
  | 0x41 => e 24 [(0, 4), (8, 16)] .suspend
  | 0x42 => e 16 [(0, 4), (8, 8)] .resume
  | 0x43 => e 4 [(0, 4)] .kill
  | 0x50 => e 16 [(0, 16)] .pinWindow
  | 0x51 => e 4 [(0, 1)] .unpinWindow
  | 0x60 => e 0 [] .freezeList
  | 0x61 => e 4 [(0, 1)] .forceThaw
  | 0x70 => e 8 [(0, 6)] .errLogRead
  | 0x71 => e 0 [] .errLogClear
  | 0x72 => e 24 [(0, 2), (4, 12)] .errInject
  | 0x80 => e 4 [(0, 1)] .engineReset
  | 0x90 => some (linkEntry (fieldAt buf 0 1))
  | 0x91 => some (powerEntry (fieldAt buf 0 1))
  | 0xA0 => e 32 [(0, 32)] .attest
  | 0xF0 => e 0 [] .deviceReset
  | _ => none

/-- Whether a field of the request holds a reserved value, or a bit mask a bit that names nothing (R105, R107, R108; R7). -/
def maskRest (i : Instr) (buf : List Byte) : Bool :=
  match i with
  | .portEnable => 4096 ≤ fieldAt buf 2 2
  | .route => (List.range 16).any (fun c => decide (4096 ≤ fieldAt buf (8 + 2 * c) 2))
  | .routerPm => 16 ≤ fieldAt buf 1 1
  | .powerSet => 16 ≤ fieldAt buf 4 1
  | .ctxCreate => 2 ≤ fieldAt buf 8 1
  | _ => false

/-- A nonzero byte of a request that no field of it covers (R7, R105). -/
def requestReserved (e : CmdEntry) (buf : List Byte) : Bool :=
  (List.range e.len).any (fun i =>
    buf.getD i 0 != 0 && !e.used.any (fun u => decide (u.1 ≤ i) && decide (i < u.1 + u.2))) ||
  e.what.elim false (fun i => maskRest i buf)

/-- The commands that a failed device answers (R24). -/
def answersFailed (step : Nat) (i : Instr) : Bool :=
  match i with
  | .identify => true
  | .errLogRead => step != 2
  | .deviceReset => step != 2
  | _ => false

/-- The checks of R104 up to the command's own; a command that passes them runs next. One RESERVED_NONZERO is counted for a request,
however many reserved fields of it are nonzero; its WHERE is 0 where a held command's holder has lost the semaphore (entry 35). -/
def startCommand (s : State) : State :=
  let h := s.host
  match cmdEntry h.cmdOpcode h.cmdBuf with
  | none => completeCmd s stInvalidOpcode []
  | some e =>
    if h.cmdLen != e.len then completeCmd s stBadLength []
    else if s.pkg.devState == .failed && !(e.what.elim false (answersFailed s.pkg.failStep)) then completeCmd s stDeviceFailed []
    else
      let s := if requestReserved e h.cmdBuf then logError s 0 6 0x0004 (h.semHolder.elim 0 reqCode) 0 0 else s
      match e.what with
      | none => completeCmd s stInvalidParam []
      | some i => s.post i {}

/-- GO: the command starts, or is held until the device is READY (R25, R103). -/
def goCommand (s : State) : State :=
  let s : State := { s with host := { s.host with cmdBusy := true, cmdDone := false, cmdRespLen := 0, cmdStatus := 0 } }
  if s.pkg.devState == .ready || s.pkg.devState == .failed || s.host.cmdOpcode == 0x01 then startCommand s
  else { s with host := { s.host with cmdHeld := true } }

/-- A held command runs (R25). -/
def runHeld (s : State) : State :=
  if s.host.cmdHeld then startCommand { s with host := { s.host with cmdHeld := false } } else s

/-! ### Writing the management window (R98, R101, R103) -/

/-- A write to CMD_CTL. -/
def ctlWrite (s : State) (r : Requester) (v : Nat) : State :=
  let s := if bitsOf v 30 24 != 0 then logError s 0 4 0x0004 (reqCode r) 0 0 else s
  let s : State := { s with host := { s.host with cmdLen := bitsOf v 23 8, cmdOpcode := v % 256 } }
  if bitAt v 31 then goCommand s else s

/-- The reserved bits of a register that is only read (R23, R41, R56, R98, R103, R121). -/
def reservedBits (o : Nat) : Nat :=
  if o == 0x00 then 0xFF
  else if o == 0x10 then 0xFFFF0070
  else if o == 0x28 then 0x3F000000
  else if 0x2000 ≤ o ∧ o < 0x2180 ∧ o % 0x20 = 0 then 0xF000FFF0
  else if 0x3000 ≤ o ∧ o < 0x3080 then 0x7F000000
  else if 0x5000 ≤ o ∧ o < 0x5100 ∧ o % 0x40 = 0 then 0xF000FF70
  else 0

/-! BAR2 and the AER registers of a port's function (R96, R109). A write to offset 0x1_0000 + o of REGISTER_WRITE is one to offset o
of BAR2; 0x2_0000 + o stands for offset o of the function's AER capability (entry 66). -/

/-- An MSI-X table word; an entry that is unmasked while its vector is pending sends it. -/
def msixWrite (s : State) (p : Port) (i v : Nat) : State :=
  let s := s.updPort p (fun q => { q with msixTable := q.msixTable.set i v })
  let vec := i / 4
  if i % 4 == 3 && !bitAt v 0 && bitAt (s.port p).pba vec then sendVector (s.updPort p (fun q => { q with pba := q.pba - 2 ^ vec })) p vec
  else s

/-- A write to BAR2: component registers keep what is written; the pending bits are only read. -/
def bar2Write (s : State) (p : Port) (o v : Nat) : State :=
  if o < 0x8000 then s.updPort p (fun q => { q with component := assocSet o v q.component })
  else if o < 0x8030 then msixWrite s p ((o - 0x8000) / 4) v
  else s

/-- The word of BAR2 at an offset. -/
def bar2Read (s : State) (p : Port) (o : Nat) : Nat :=
  let q := s.port p
  if o < 0x8000 then ((q.component.find? (fun x => x.1 == o)).map (·.2)).getD 0
  else if o < 0x8030 then q.msixTable.getD ((o - 0x8000) / 4) 0
  else if o == 0x9000 then q.pba
  else 0

/-- The internal-error bits of the AER registers: status bits are cleared by writing one, and the severity bit is only read. -/
def aerWrite (s : State) (p : Port) (o v : Nat) : State :=
  let unc := bitAt v 22
  let cor := bitAt v 14
  if o == 0x04 then s.updPort p (fun q => { q with statUncorr := q.statUncorr && !unc })
  else if o == 0x08 then s.updPort p (fun q => { q with maskUncorr := unc })
  else if o == 0x10 then s.updPort p (fun q => { q with statCorr := q.statCorr && !cor })
  else if o == 0x14 then s.updPort p (fun q => { q with maskCorr := cor })
  else s

/-- A 32-bit write by a requester. A write that is dropped is not looked at for reserved bits (entry 35). -/
def regWrite (s : State) (r : Requester) (o : Nat) (v : Word) : State :=
  if o == 0x20 then semWrite s r v
  else if o == 0x24 || decide (0x8000 ≤ o) && decide (o < 0x10000) then
    if s.host.semHolder != some r || s.host.cmdBusy then dropWrite s
    else if o == 0x24 then ctlWrite s r v.toNat
    else { s with host := { s.host with cmdBuf := (bufWrite s.host.cmdBuf (o - 0x8000) (natBytes 4 v.toNat)).take 0x8000 } }
  else if let some p := (if 0x10000 ≤ o then Requester.port? r else none) then
    if o < 0x20000 then bar2Write s p (o - 0x10000) v.toNat else aerWrite s p (o - 0x20000) v.toNat
  else if (regListed o && v.toNat &&& reservedBits o == 0) || v == 0 then s
  else logError s 0 4 0x0004 (reqCode r) 0 0

def execRegisterWrite (s : State) : Host.Outcome State Fault Refusal :=
  .next (finish (regWrite s s.arg.req s.arg.offset s.arg.word))

/-! ### Running a command -/

/-- What a command does next: it completes, fails with a status, has made progress, or waits for a change. -/
inductive CmdRes where
  | done (resp : List Byte)
  | fail (status : Nat)
  | again
  | wait
  deriving DecidableEq, Repr

/-- Runs the body of a command. One that waits keeps its progress in the event. -/
def runCommand (what : Instr) (body : State → State × CmdRes) (s : State) : Host.Outcome State Fault Refusal :=
  .next (match body s with
    | (s, .done r) => finish (completeCmd s stOk r)
    | (s, .fail st) => finish (completeCmd s st [])
    | (s, .again) => finish (s.post what s.arg)
    | (s, .wait) => (settle s).park what)

/-- A field of the request. -/
def req (s : State) (off n : Nat) : Nat := fieldAt s.host.cmdBuf off n

end Sys2Proof.Machine
end

