-- ==== Sys2Proof/Machine/Reset.lean ====
section
/-! DEFINITION. Resets (01 R21 to R25), host-port resets and links (05 R102), thermal and power management (R15 to R20). -/

namespace Sys2Proof.Machine

/-! ### Host ports (R21, R102) -/

/-- PERST# of a port is asserted or released (R11, R21). -/
def setPerst (s : State) (p : Port) (on : Bool) : State :=
  { s with pkg := match p with
    | .a => { s.pkg with perstA := on }
    | .b => { s.pkg with perstB := on } }

/-- A port's function at its reset values: what the platform gives it stays. -/
def resetFunction (q : PortState) : PortState := { PortState.reset with link := q.link, atomicOp := q.atomicOp, cas128 := q.cas128 }

def otherPort : Port → Port
  | .a => .b
  | .b => .a

/-- PORT_RESET: PERST# of one port is asserted while the other's is not; its link and its function only are reset (R21). -/
def execPortReset (s : State) : Host.Outcome State Fault Refusal :=
  let p := s.arg.port
  let s := setPerst (setPerst s p true) (otherPort p) false
  .next (finish (dropSem (s.updPort p (fun q => { resetFunction q with link := false })) p))

/-- FUNCTION_LEVEL_RESET: the function's own settings and the semaphore (R102). Status and mask bits of AER stay (entry 66). -/
def execFunctionLevelReset (s : State) : Host.Outcome State Fault Refusal :=
  let p := s.arg.port
  let keep := fun (q : PortState) => { resetFunction q with
    maskCorr := q.maskCorr, maskUncorr := q.maskUncorr, statCorr := q.statCorr, statUncorr := q.statUncorr }
  .next (finish (dropSem (s.updPort p keep) p))

def execHostLinkLoss (s : State) : Host.Outcome State Fault Refusal :=
  let p := s.arg.port
  .next (finish (dropSem (s.updPort p (fun q => { q with link := false })) p))

/-- HOST_LINK_UP: the link has trained, so PERST# of the port has been released. -/
def execHostLinkUp (s : State) : Host.Outcome State Fault Refusal :=
  .next (finish ((setPerst s s.arg.port false).updPort s.arg.port (fun q => { q with link := true })))

def execInternalFatal (s : State) : Host.Outcome State Fault Refusal :=
  .next (finish (logError s 2 s.arg.source 0x0202 s.arg.block 0 0))

/-! ### Resets (R21 to R25) -/

/-- Storage that a warm reset keeps: the cells of HBM and of memory beyond the package, and the errors in HBM. What was
published but not yet written to HBM is lost. -/
def keepMemory (s t : State) : State := { t with mem := s.mem, poison := s.poison, ecc1 := s.ecc1 }

/-- The error log and its counters, which a warm reset keeps (entry 2). -/
def keepErrors (s t : State) : State :=
  let h := s.host
  { t with host := { t.host with
    errCorr := h.errCorr, errNonfatal := h.errNonfatal, errFatal := h.errFatal, errLost := h.errLost, errLog := h.errLog
    errSeq := h.errSeq, errFirst := h.errFirst } }

/-- What the outside keeps through any reset: the events still to arrive, what has left, the model's own fields, the board's
inputs, and the platform's port properties. -/
def keepOutside (s t : State) : State :=
  let port := fun (p q : PortState) => { q with atomicOp := p.atomicOp, cas128 := p.cas128 }
  { t with
    inbox := s.inbox, out := s.out, turns := s.turns, draws := s.draws, nextId := s.nextId
    pkg := { t.pkg with prochot := s.pkg.prochot, perstA := s.pkg.perstA, perstB := s.pkg.perstB }
    host := { t.host with portA := port s.host.portA t.host.portA, portB := port s.host.portB t.host.portB } }

/-- The host ports as a reset begins: after DEVICE_RESET the links stay; else PERST# is asserted and they train again. A port that was
refused the semaphore, and whose link is up, is told that it is free (R97, R102). -/
def resetPorts (s t : State) (warm fromCommand : Bool) : State :=
  let keep := fun (q p : PortState) => { q with link := fromCommand && p.link }
  let t := (t.updPort .a (fun q => keep q s.host.portA)).updPort .b (fun q => keep q s.host.portB)
  let t := if warm && !fromCommand then setPerst (setPerst t .a true) .b true else t
  freeSem { t with host := { t.host with semRefused := s.host.semRefused } }

/-- The state in which a reset begins. A cold reset clears all, and what was observed of host memory and of other packages' memory
is forgotten with it (entry 2); a warm one keeps memory, the log and the clock. -/
def beginReset (s : State) (warm fromCommand : Bool) : State :=
  let t := keepOutside s State.reset
  let t := if warm then { keepErrors s (keepMemory s t) with clock := s.clock } else t
  resetPorts s { t with pkg := { t.pkg with devState := .reset, warm := warm } } warm fromCommand

/-- Step 4 of R22: cores, slices and routers are cleared, with what was under way between them. -/
def clearLogic (s : State) : State :=
  { s with
    dies := State.reset.dies, cores := State.reset.cores, hatches := [], ops := [], slices := [], slicePoison := [], coh := Coh.reset
    tr := Trans.reset, net := [], parked := [], stalled := [], dry := []
    ms := { s.ms with chans := [] }, fab := { s.fab with routers := Fabric.reset.routers, packets := [], lost := [] } }

/-- Step 5: training of the HBM loses what a cold reset found there. -/
def trainMemory (s : State) (warm : Bool) : State := if warm then s else { s with mem := [], poison := [], ecc1 := [] }

/-- Step 7: the default maps are loaded, and the watch table, the freeze table and the launch state are cleared. -/
def loadDefaults (s : State) : State := { s with ms := MemSide.reset, sched := Sched.reset, freeze := State.reset.freeze }

/-- What a step of R22 does, beside showing itself in DEV_STATUS. -/
def stepWork (s : State) (n : Nat) (warm : Bool) : State :=
  if n == 4 then clearLogic s
  else if n == 5 then trainMemory s warm
  else if n == 6 then { s with fab := { s.fab with links := [] } }
  else if n == 7 then loadDefaults s
  else s

/-- What DEV_STATUS shows while a step of R22 runs. -/
def stepState (n : Nat) : DevState :=
  if n == 2 then .selftest else if n == 3 then .fuses else if n == 4 then .logic else if n == 5 then .memory
  else if n == 6 then .links else if n == 7 then .ready else .reset

/-- One step of a reset: the first begins it; each step that does not fail leads to the next (R22, R24). -/
def resetStep (s : State) (what : Instr) (warm : Bool) : State :=
  let n := s.arg.seq
  let arg := s.arg
  let first := if warm then 3 else 1
  let s := if n == 0 then beginReset s warm (arg.source == 1) else s
  let n := if n == 0 then first else n
  let s : State := stepWork { s with pkg := { s.pkg with devState := stepState n } } n warm
  if arg.failStep == n then runHeld { s with pkg := { s.pkg with devState := .failed, failStep := n } }
  else if n == 7 then runHeld s
  else s.post what { arg with seq := n + 1 }

def execColdReset (s : State) : Host.Outcome State Fault Refusal := .next (finish (resetStep s .coldReset false))

/-- WARM_RESET: only a cold reset recovers from a thermal trip (R15), and from a failure in step 2 (R24). -/
def execWarmReset (s : State) : Host.Outcome State Fault Refusal :=
  let coldOnly := s.pkg.thermtrip || s.pkg.devState == .failed && s.pkg.failStep == 2
  .next (finish (if coldOnly then s else resetStep s .warmReset true))

/-! ### Thermal limits (R15, R16) -/

def execProchotAssert (s : State) : Host.Outcome State Fault Refusal :=
  .next (finish { s with pkg := { s.pkg with prochot := true } })

def execProchotDeassert (s : State) : Host.Outcome State Fault Refusal :=
  .next (finish { s with pkg := { s.pkg with prochot := false } })

/-- Pin numbers of `OutMsg.pin`: THERMTRIP# is 0. -/
def pinThermtrip : Nat := 0

/-- Thermal trip: every compute die is off, and what ran on them is gone until a cold reset. -/
def thermalTrip (s : State) : State :=
  let off := fun (d : Die) => { d with gate := .gated, gateSince := s.clock }
  let s : State := { s with
    pkg := { s.pkg with thermtrip := true }, dies := s.dies.map off
    hatches := [], ops := [], net := [], parked := [], stalled := [], dry := [] }
  logError (s.emit (.pin pinThermtrip true)) 2 7 0x0200 s.arg.die 0 0

def execThermalTrip (s : State) : Host.Outcome State Fault Refusal :=
  .next (if s.pkg.thermtrip || decide (s.arg.temp < 1100) then finish s else thermalTrip s)

/-- Thermal throttling moves to a depth; the next move comes no sooner than 24,000 clocks later. -/
def setThermal (s : State) (k : Nat) : State :=
  if k == s.pkg.thermalDepth then s else { s with pkg := { s.pkg with thermalDepth := k, thermalAt := s.clock } }

/-- Whether 24,000 clocks have gone by since the last move; the first may come at once (entry 68). -/
def thermalDue (s : State) : Bool := s.pkg.thermalAt == 0 || decide (s.pkg.thermalAt + 24000 ≤ s.clock)

/-- THERMAL_STEP: the hottest reading, in tenths of a degree (R15). -/
def execThermalStep (s : State) : Host.Outcome State Fault Refusal :=
  let k := s.pkg.thermalDepth
  let t := s.arg.temp
  .next (
    if s.pkg.thermtrip then finish s
    else if 1100 ≤ t then thermalTrip s
    else if !thermalDue s then finish s
    else if 1000 ≤ t then finish (setThermal (if k == 0 then logError s 0 7 0x0003 s.arg.die 0 0 else s) (min 15 (k + 1)))
    else if t < 980 then finish (setThermal s (k - 1))
    else finish s)

/-- CAP_WINDOW_END: the average power of a window of 240,000 clocks, once the window has ended (R18). -/
def execCapWindowEnd (s : State) : Host.Outcome State Fault Refusal :=
  let w := s.arg.watts
  let k := s.pkg.capDepth
  let depth := if s.pkg.capW < w then min 15 (k + 1) else if w + 50 < s.pkg.capW then k - 1 else k
  .next (if s.clock < s.pkg.capAt + 240000 then s.park .capWindowEnd
    else finish { s with pkg := { s.pkg with measuredW := w, capDepth := depth, capAt := s.clock } })

/-! ### Core gating (R19, R20) -/

def State.die (s : State) (d : Nat) : Die := s.dies.getD d Die.reset
def State.updDie (s : State) (d : Nat) (f : Die → Die) : State := { s with dies := s.dies.modify d f }

def setGate (s : State) (d : Nat) (g : GateState) : State := s.updDie d (fun x => { x with gate := g, gateSince := s.clock })

def execDieIdleTimeout (s : State) : Host.Outcome State Fault Refusal :=
  let x := s.die s.arg.die
  let due := x.gate == .powered && !x.onMode && !dieBusy s s.arg.die && decide (x.gateSince + 2400000 ≤ s.clock)
  .next (finish (if due then setGate s s.arg.die .gating else s))

/-- The caches of a die's cores empty into their coherence points before the cores are off. -/
def emptyCores (s : State) (d : Nat) : State :=
  (dieCores d).foldl (fun s c =>
    if (s.core c).l1.isEmpty && (s.core c).tlb.isEmpty then s
    else (drainCore s c).updCore c (fun k => { k with l1 := [], tlb := [] })) s

/-- GATING_DONE: work that came meanwhile wins, and so does work that comes in the same clock, in wakeDie (R20). -/
def execGatingDone (s : State) : Host.Outcome State Fault Refusal :=
  let d := s.arg.die
  .next (finish (
    if (s.die d).gate != .gating then s
    else if dieBusy s d || (s.die d).onMode then setGate s d .powered
    else if (s.die d).gateSince + 4800 ≤ s.clock then setGate (emptyCores s d) d .gated else s))

def wakeDie (s : State) (d : Nat) : State :=
  if s.pkg.thermtrip then s
  else match (s.die d).gate with
    | .gating => setGate s d .powered
    | .gated => setGate s d (if (s.die d).gateSince == s.clock then .powered else .waking)
    | _ => s

def execDieWake (s : State) : Host.Outcome State Fault Refusal := .next (finish (wakeDie s s.arg.die))

def execWakingDone (s : State) : Host.Outcome State Fault Refusal :=
  let d := s.arg.die
  let due := (s.die d).gate == .waking && decide ((s.die d).gateSince + 48000 ≤ s.clock)
  .next (finish (if due then setGate s d .powered else s))

end Sys2Proof.Machine
end

