-- ==== Sys2Proof/Machine/MapCmds.lean ====
section
/-! DEFINITION. Commands on identity, contexts, the address map and pinned windows (05 R105; 03 R47 to R55). -/

namespace Sys2Proof.Machine

/-! ### IDENTIFY and GET_CAPS -/

def identifyResp (s : State) : List Byte :=
  natBytes 4 regDevId ++ natBytes 4 (regDevStatus s) ++ sliceBytes Config.romDigest 0 32 ++ sliceBytes Config.serial 0 8 ++
    natBytes 1 s.fab.chipId

def execIdentify (s : State) : Host.Outcome State Fault Refusal :=
  runCommand .identify (fun s => (s, .done (identifyResp s))) s

/-- Bytes backed by active regions. -/
def backedBytes (s : State) : Nat := (s.ms.regions.filterMap id).foldl (fun a r => a + 2 ^ r.k) 0

def atomicBits (p : PortState) : Nat := natOfBool p.atomicOp + 2 * natOfBool p.cas128

/-- A mask of the engines that are neither in reset nor contained (entry 30). -/
def enginesUp (s : State) : Nat :=
  (List.range 4).foldl (fun a e =>
    a + (if (s.engine e).state == .reset || (s.engine e).state == .contained then 0 else 2 ^ e)) 0

def capsResp (s : State) : List Byte :=
  natBytes 2 256 ++ natBytes 2 256 ++ natBytes 1 64 ++ natBytes 1 32 ++ natBytes 1 16 ++ natBytes 1 64 ++
    natBytes 8 (backedBytes s) ++ natBytes 1 (atomicBits s.host.portA + 4 * atomicBits s.host.portB) ++
    natBytes 1 (natOfBool s.host.portA.link + 2 * natOfBool s.host.portB.link) ++ natBytes 1 (enginesUp s)

def execGetCaps (s : State) : Host.Outcome State Fault Refusal :=
  runCommand .getCaps (fun s => (s, .done (capsResp s))) s

/-! ### Contexts (R61, R105) -/

/-- The root of a page table that a context may have. Host memory lies in no region. -/
def rootOk (s : State) (root : Nat) : Bool :=
  root % 65536 == 0 && decide (root < 2 ^ 51) && !paUnbacked s root

/-- A reserved kind is ignored: the context is a user context (R7). -/
def ctxCreate (s : State) : State × CmdRes :=
  if !rootOk s (req s 0 8) then (s, .fail stInvalidParam)
  else match s.tr.ctxs.idxOf? none with
    | none => (s, .fail stNoContext)
    | some i =>
      ({ s with tr := { s.tr with ctxs := s.tr.ctxs.set i (some ⟨req s 0 8, req s 8 1 == 1⟩) } }, .done (natBytes 1 i))

def execCtxCreate (s : State) : Host.Outcome State Fault Refusal := runCommand .ctxCreate ctxCreate s

/-- Whether a watch names a context: as its target's, or in its mask. -/
def watchNames (c : Nat) (w : Watch) : Bool := w.ctx == c || bitAt w.ctxMask c

/-- The second part of a command that has begun an invalidation of translations: it completes with it (R68). -/
def afterShoot (s : State) (r : CmdRes) : State × CmdRes := if shootBusy s s.arg.shoot then (s, .wait) else (s, r)

/-- A command begins an invalidation, and goes on with its second part. -/
def beginShoot (s : State) (k : ShootKind) : State × CmdRes :=
  let (n, s) := startShoot s k
  ({ s with arg := { s.arg with seq := 1, shoot := n } }, .again)

/-- Its translations go with a context. -/
def ctxDestroy (s : State) : State × CmdRes :=
  let c := req s 0 1
  if s.arg.seq != 0 then afterShoot s (.done [])
  else if (s.ctx? c).isNone then (s, .fail stNotFound)
  else if s.sched.launches.any (fun l => l.ctx == c) || s.sched.watches.any (watchNames c) then (s, .fail stInUse)
  else beginShoot { s with tr := { s.tr with ctxs := s.tr.ctxs.set c none } } (.ctx c)

def execCtxDestroy (s : State) : Host.Outcome State Fault Refusal := runCommand .ctxDestroy ctxDestroy s

/-! ### MAP_REGION (R47, R48) -/

/-- Gaussian elimination over GF(2) on the n low columns, the highest first: whether every column has a pivot. -/
def fullRank : Nat → List Nat → Bool
  | 0, _ => true
  | j + 1, rows => match takeFirst (fun r => bitAt r j) rows with
    | none => false
    | some (p, rest) => fullRank j (rest.map (fun r => if bitAt r j then Nat.xor r p else r))

/-- Two ranges that share a member: first members and sizes. -/
def rangesMeet (a n b m : Nat) : Bool := decide (a < b + m) && decide (b < a + n)

/-- Rows of DRAM that a region takes. -/
def regionRows (k : Nat) : Nat := 2 ^ (k - 24)

/-- The checks of R47, in order, on a slot and the region it is to hold. -/
def mapCheck (s : State) (slot : Nat) (r : Region) : Option Nat :=
  let n := r.k - 7
  let others := (s.ms.regions.zipIdx.filter (fun x => x.2 != slot)).filterMap (·.1)
  if 15 < slot || !(r.k == 0 || (decide (24 ≤ r.k) && decide (r.k ≤ 47))) || r.base % 2 ^ r.k != 0 ||
    (r.k != 0 && decide (2 ^ 47 < r.base + 2 ^ r.k)) || r.rows.any (fun w => decide (2 ^ n ≤ w)) then some stInvalidParam
  else if r.k == 0 then none
  else if 49152 < r.rowBase + regionRows r.k then some stInvalidParam
  else if others.any (fun x => rangesMeet x.base (2 ^ x.k) r.base (2 ^ r.k)) then some stMapOverlap
  else if others.any (fun x => rangesMeet x.rowBase (regionRows x.k) r.rowBase (regionRows r.k)) then some stMapOverlap
  else if !fullRank n r.rows then some stMapSingular
  else none

/-- The region of the request. -/
def reqRegion (s : State) : Region :=
  let k := req s 1 1
  ⟨req s 8 8, k, req s 2 2, (List.range (mapWords k)).map (fun i => req s (0x10 + 8 * i) 8)⟩

/-- Whether a line of this package lies in one of some ranges of offsets. -/
def lineInside (s : State) (rs : List Region) (line : Nat) : Bool :=
  lineIsOwn s line && rs.any (fun r => decide (r.base ≤ paOffset (line * 128)) && decide (paOffset (line * 128) < r.base + 2 ^ r.k))

/-- A line leaves every cache of the domain: it is written back, and every copy falls (R48). A replica of a frozen line stays, as R73
says. -/
def evictLine (s : State) (line : Nat) : State :=
  let s := if (dirAt s line).lazy.isEmpty then s else acquireLine s line
  let s := flushLine (takeLine s line) line
  match lineDram s line with
  | none => s
  | some d =>
    let ch := s.chan (dlCache d)
    s.setChan (dlCache d) { ch with lines := ch.lines.filter (fun l => l.line != line) }

/-- Every line that some cache of the package knows. -/
def knownLines (s : State) : List Nat :=
  dedup (heldLines s ++ s.coh.dir.map (·.line) ++ s.cores.flatMap (fun k => k.l1.map (·.line)) ++
    s.ms.chans.flatMap (fun x => x.2.pending.map (·.line)))

def evictLines (s : State) (p : Nat → Bool) : State := ((knownLines s).filter p).foldl evictLine s

/-- Whether a request to some lines is outstanding: at a channel, at a home, or on its way (R48). -/
def linesBusy (s : State) (p : Nat → Bool) : Bool :=
  s.ms.chans.any (fun x => x.2.pending.any (fun r => p r.line)) || s.coh.dir.any (fun e => e.st.busy && p e.line) ||
    s.coh.agents.any (fun a => (a.wbBuf || a.pending.isSome) && p a.line) ||
    (s.net ++ s.parked).any (fun e => (cohMessage e.what || homeRequest e.what) && p e.arg.line)

/-- Once every outstanding request to the old and the new range has completed under the old map, they are emptied and the slot
changes, in one step; the shootdown follows (R48, R68). -/
def mapRegion (s : State) : State × CmdRes :=
  let slot := req s 0 1
  let r := reqRegion s
  if s.arg.seq != 0 then afterShoot s (.done [])
  else match mapCheck s slot r with
    | some st => (s, .fail st)
    | none =>
      let old := (s.ms.regions.getD slot none).toList
      let new := if r.k == 0 then none else some r
      let inside := lineInside s (old ++ new.toList)
      if linesBusy s inside then (s, .wait)
      else
        let s := evictLines s inside
        beginShoot { s with ms := { s.ms with regions := s.ms.regions.set slot new } } .all

def execMapRegion (s : State) : Host.Outcome State Fault Refusal := runCommand .mapRegion mapRegion s

/-! ### QUERY_MAP (R49) -/

def queryResp (slot d : Nat) : List Byte :=
  natBytes 1 slot ++ natBytes 1 (dlStack d) ++ natBytes 1 (dlChannel d) ++ natBytes 1 (dlPseudo d) ++ natBytes 1 (dlGroup d) ++
    natBytes 1 (dlBank d) ++ natBytes 2 (dlRow d) ++ natBytes 1 (dlColumn d) ++ natBytes 1 (dlDie d) ++ natBytes 1 (dlSlice d) ++
    natBytes 1 0 ++ natBytes 2 (dlCache d)

def queryMap (s : State) : State × CmdRes :=
  let pa := req s 0 8 % 2 ^ 52
  if paIsHost pa || paChip pa != s.fab.chipId then (s, .fail stInvalidParam)
  else match regionSlot s (paOffset pa), dramLine s (paOffset pa) with
    | some slot, some d => (s, .done (queryResp slot d))
    | _, _ => (s, .fail stUnbacked)

def execQueryMap (s : State) : Host.Outcome State Fault Refusal := runCommand .queryMap queryMap s

/-! ### Pinned windows (R52 to R55) -/

/-- Whether n bytes from an offset lie in active regions; at most 16 regions are passed. -/
def rangeBacked (s : State) : Nat → Nat → Nat → Bool
  | _, _, 0 => true
  | 0, _, _ => false
  | k + 1, off, n => match regionOf s off with
    | none => false
    | some r => rangeBacked s k (r.base + 2 ^ r.k) (n - (r.base + 2 ^ r.k - off))

/-- Pins the lines of a window that a channel cache holds, at most 12 in a set (R53). -/
def pinLines (s : State) (w : Nat) (x : Window) (ch : Channel) : Channel :=
  let inside := fun (l : ChanLine) => decide (x.base ≤ paOffset (l.line * 128)) && decide (paOffset (l.line * 128) < x.base + x.size)
  let set := fun (l : ChanLine) => (lineDram s l.line).map chanSet
  let step := fun (done : List ChanLine) (l : ChanLine) =>
    let pins := (done ++ ch.lines.drop (done.length + 1)).filter (fun y => y.pinned.isSome && set y == set l)
    done ++ [if inside l && l.pinned.isNone && decide (pins.length < 12) then { l with pinned := some w } else l]
  { ch with lines := ch.lines.foldl step [] }

/-- PIN_WINDOW (R52). The spec does not say which free id it takes: the lowest (entry 32). -/
def pinWindow (s : State) : State × CmdRes :=
  let base := req s 0 8
  let size := req s 8 8
  let off := paOffset base
  if base % 65536 != 0 || size % 65536 != 0 || size == 0 || decide (2 ^ 32 < size) || decide (2 ^ 51 ≤ base) ||
    paChip base != s.fab.chipId || !rangeBacked s 17 off size then (s, .fail stInvalidParam)
  else if (s.ms.windows.filterMap id).any (fun x => rangesMeet x.base x.size off size) then (s, .fail stWindowOverlap)
  else match s.ms.windows.idxOf? none with
    | none => (s, .fail stNoWindow)
    | some w =>
      let x : Window := ⟨off, size, 255, none⟩
      let chans := s.ms.chans.map (fun c => (c.1, pinLines s w x c.2))
      ({ s with ms := { s.ms with windows := s.ms.windows.set w (some x), chans := chans } }, .done (natBytes 1 w))

def execPinWindow (s : State) : Host.Outcome State Fault Refusal := runCommand .pinWindow pinWindow s

/-- A window is deactivated: its lines are ordinary lines, its id is free (R55). -/
def dropWindow (s : State) (w : Nat) : State :=
  let loose := fun (l : ChanLine) => if l.pinned == some w then { l with pinned := none } else l
  { s with ms := { s.ms with
    windows := s.ms.windows.set w none
    chans := s.ms.chans.map (fun c => (c.1, { c.2 with lines := c.2.lines.map loose })) } }

def unpinWindow (s : State) : State × CmdRes :=
  let w := req s 0 1
  if (s.ms.windows.getD w none).isNone then (s, .fail stNoWindow) else (dropWindow s w, .done [])

def execUnpinWindow (s : State) : Host.Outcome State Fault Refusal := runCommand .unpinWindow unpinWindow s

end Sys2Proof.Machine
end

