-- ==== Sys2Proof/Machine/WatchCmds.lean ====
section
/-! DEFINITION. Commands on watches (05 R105, R106, R451; 07 R134; 03 R69) and on the freeze table (05 R105; 17 R398). -/

namespace Sys2Proof.Machine

/-! ### Watch images (R106, R134, R451) -/

/-- The watch that a 64-byte image describes, with the depth limit as written. -/
def watchOf (bs : List Byte) : Watch :=
  let g := fieldAt bs
  { id := 0, base := g 0 8, size := g 8 8, target := g 0x10 8, bitmap := g 0x18 8, ring := g 0x20 8, ringN := g 0x28 4
    granule := g 0x2C 1, engine := g 0x2D 1 == 1, depthLimit := g 0x2E 1, ctx := g 0x2F 1, ctxMask := g 0x30 8, argBase := g 0x38 8
    launch := 0, rd := 0, wr := 0, sweep := false, sweepDepth := 0, scanPos := 0, passClean := false, detaching := false }

/-- The image of a watch. -/
def watchImage (w : Watch) : List Byte :=
  natBytes 8 w.base ++ natBytes 8 w.size ++ natBytes 8 w.target ++ natBytes 8 w.bitmap ++ natBytes 8 w.ring ++ natBytes 4 w.ringN ++
    natBytes 1 w.granule ++ natBytes 1 (natOfBool w.engine) ++ natBytes 1 w.depthLimit ++ natBytes 1 w.ctx ++ natBytes 8 w.ctxMask ++
    natBytes 8 w.argBase

/-- Bytes of a watch's pending bitmap. -/
def bitmapBytes (w : Watch) : Nat := (w.size / 2 ^ w.granule + 1023) / 1024 * 128

/-- The range of a watch: memory of this package that is backed, or host memory. -/
def watchRangeOk (s : State) (w : Watch) : Bool :=
  if paIsHost w.base then decide (w.base + w.size ≤ 2 ^ 52)
  else decide (w.base < 2 ^ 51) && paChip w.base == s.fab.chipId && rangeBacked s 17 (paOffset w.base) w.size

/-- The limits of an image, and the placement of its bitmap and ring. -/
def watchOk (s : State) (w : Watch) (kind : Nat) : Bool :=
  let apart := fun (base size : Nat) => !rangesMeet base size w.bitmap (bitmapBytes w) && !rangesMeet base size w.ring (8 * w.ringN)
  w.base % 65536 == 0 && w.size % 65536 == 0 && decide (65536 ≤ w.size) && decide (w.size ≤ 2 ^ 46) && decide (w.base < 2 ^ 52) &&
    watchRangeOk s w && decide (kind ≤ 1) && (!w.engine || decide (w.target ≤ 3)) && w.bitmap % 128 == 0 && w.ring % 128 == 0 &&
    decide (w.bitmap < 2 ^ 52) && decide (w.ring < 2 ^ 52) &&
    decide (256 ≤ w.ringN) && decide (w.ringN ≤ 1048576) && ((List.range 13).any (fun i => w.ringN == 256 * 2 ^ i)) &&
    decide (6 ≤ w.granule) && decide (w.granule ≤ 12) && decide (w.depthLimit ≤ 15) && (s.ctx? w.ctx).isSome &&
    apart w.base w.size && s.sched.watches.all (fun x => apart x.base x.size)

/-- The lowest watch id that is free. -/
def freeWatch (s : State) : Option Nat := (List.range 256).find? (fun i => (s.watch? i).isNone)

/-! ### WATCH in page tables (R69) -/

/-- Sets or clears WATCH in every leaf of a context that maps some of a range of PAs, and drops its translations. -/
def markLeaves (s : State) (w : Watch) (on : Bool) (ctx : Nat) : State :=
  let s := readTables s ctx 0 (2 ^ 52)
  let hits := (leavesOf s ctx 0 (2 ^ 52)).filter (fun x =>
    pteWatch x.pte != on && rangesMeet (ptePa x.pte) (2 ^ pageBits x.level) w.base w.size)
  let s := hits.foldl (fun s x => pokePa s x.addr (natBytes 8 (if on then x.pte + 2 ^ 9 else x.pte - 2 ^ 9)) none) s
  if hits.isEmpty then s else (startShoot s (.ctx ctx)).2

def markContexts (s : State) (w : Watch) (on : Bool) : State :=
  ((List.range 64).filter (fun c => bitAt w.ctxMask c)).foldl (fun s c => markLeaves s w on c) s

/-- Whether the shootdowns of a watch's contexts are still in progress (R68). -/
def watchShooting (s : State) (w : Watch) : Bool := (List.range 64).any (fun c => bitAt w.ctxMask c && shooting s (.ctx c))

/-! ### WATCH_ATTACH -/

/-- The launch of a watch: its id is written into the record, and the device keeps the record (R123, R124). -/
def watchLaunch (s : State) (w : Watch) : State × Except Nat Nat :=
  match (readRecord 0 w.ctx w.target).run s with
  | .error _ s => (s, .error stInvalidParam)
  | .ok none s => (s, .error stInvalidParam)
  | .ok (some r) s => match takeId s with
    | none => (s, .error stNoResource)
    | some (n, s') => match ((devWrite 0 w.ctx (w.target + 0x58) (natBytes 4 n)).logged).run s' with
      | .error _ s' => ({ s' with sched := { s'.sched with nextSeq := s.sched.nextSeq } }, .error stInvalidParam)
      | .ok _ s =>
        let l : Launch :=
          { id := n, rcd := r, ctx := w.ctx, recVa := w.target, watched := true, watch := some w.id, phase := .running
            spawnSerial := 0, nextIdx := List.replicate 4 r.blocks, queuedAt := s.clock }
        ({ s with sched := { s.sched with launches := s.sched.launches ++ [l] } }, .ok n)

/-- The checks, in the order of R105, and the entry. -/
def attach (s : State) : State × Except Nat Nat :=
  let bs := sliceBytes s.host.cmdBuf 0 64
  let w := watchOf bs
  if !watchOk s w (fieldAt bs 0x2D 1) then (s, .error stInvalidParam)
  else match freeWatch s with
    | none => (s, .error stNoWatch)
    | some i =>
      let w := { w with id := i }
      if s.sched.watches.any (fun x => rangesMeet x.base x.size w.base w.size) then (s, .error stWatchOverlap)
      else
        let put := fun (s : State) (n : Nat) =>
          markContexts { s with sched := { s.sched with watches := s.sched.watches ++ [{ w with launch := n }] } } w true
        if w.engine then (put s 0, .ok i)
        else match watchLaunch s w with
          | (s, .error st) => (s, .error st)
          | (s, .ok n) => (put s n, .ok i)

/-- After the shootdown, the sweep of the bitmap once, at depth 0: one move each time the command runs. -/
def attachSweep (s : State) : State × CmdRes :=
  let i := s.arg.watch
  match s.watch? i with
  | none => (s, .done (natBytes 1 i))
  | some w => if watchShooting s w then (s, .wait) else match scanFrom s w s.arg.offset 0 with
    | (s, .held, _) => (s, .wait)
    | (s, .more, pos) => ({ s with arg := { s.arg with offset := pos } }, .again)
    | (s, .pass, _) => if (s.watch? i).elim false (·.sweep) then (s, .wait) else (s, .done (natBytes 1 i))

def watchAttach (s : State) : State × CmdRes :=
  if s.arg.seq != 0 then attachSweep s
  else match attach s with
    | (s, .error st) => (s, .fail st)
    | (s, .ok i) => ({ s with arg := { s.arg with seq := 1, watch := i, offset := 0 } }, .again)

def execWatchAttach (s : State) : Host.Outcome State Fault Refusal := runCommand .watchAttach watchAttach s

/-! ### WATCH_DETACH (R106) -/

/-- Whether some trigger of a watch is still queued or spilled, or has been handed to an engine that has not begun it. -/
def watchPending (s : State) (w : Watch) : Bool :=
  s.sched.trigQ.any (fun x => x.2.watch == w.id) || decide (w.rd < w.wr) || w.sweep || s.media.any (fun e => e.pending.any (fun x => x.1 == w.id))

/-- The watch is gone; its launch lives on until its blocks have ended (R124). -/
def dropWatch (s : State) (w : Watch) : State :=
  let s : State := { s with sched := { s.sched with watches := s.sched.watches.filter (fun x => x.id != w.id) } }
  if w.engine then s else completeLaunch (s.updLaunch w.launch (fun l => { l with watch := none })) w.launch

def watchDetach (s : State) : State × CmdRes :=
  match s.watch? (req s 0 1) with
  | none => (s, .fail stNotFound)
  | some w =>
    if s.arg.seq == 0 then
      if !w.engine && (s.launch? w.launch).elim false (fun l => l.phase == .suspended) then (s, .fail stInUse)
      else ({ s.updWatch w.id (fun w => { w with detaching := true }) with arg := { s.arg with seq := 1, offset := 0 } }, .again)
    else if s.arg.seq == 2 then (if watchShooting s w then (s, .wait) else (dropWatch s w, .done []))
    else if watchPending s w then (s, .wait)
    else match scanFrom s w s.arg.offset 0 with
      | (s, .held, _) => (s, .wait)
      | (s, .more, pos) => ({ s with arg := { s.arg with offset := pos } }, .again)
      | (s, .pass, _) => if (s.watch? w.id).elim false (watchPending s) then (s, .wait)
        else ({ markContexts s w false with arg := { s.arg with seq := 2 } }, .again)

def execWatchDetach (s : State) : Host.Outcome State Fault Refusal := runCommand .watchDetach watchDetach s

/-! ### FREEZE_LIST and FORCE_THAW -/

def freezeCode : FreezeState → Nat
  | .free => 0
  | .freezing => 1
  | .frozen => 2
  | .thawing => 3

def freezeListResp (s : State) : List Byte :=
  let es := s.freeze.zipIdx.filter (fun x => x.1.state != .free)
  natBytes 1 es.length ++ es.flatMap (fun x =>
    natBytes 8 x.1.base ++ natBytes 8 x.1.size ++ natBytes 1 x.1.ctx ++ natBytes 1 x.2 ++ natBytes 1 (freezeCode x.1.state) ++
      natBytes 5 0)

def execFreezeList (s : State) : Host.Outcome State Fault Refusal :=
  runCommand .freezeList (fun s => (s, .done (freezeListResp s))) s

/-- The thaw begins, or joins one that has begun, or follows the freeze's completion; the command completes with it. -/
def forceThaw (s : State) : State × CmdRes :=
  let i := req s 0 1
  let e := s.frz i
  if s.arg.seq != 0 then (if e.state == .free || e.gen != s.arg.granule then (s, .done []) else (s, .wait))
  else if 63 < i || e.state == .free then (s, .fail stNotFound)
  else
    let s : State := { s with arg := { s.arg with seq := 1, granule := e.gen } }
    match e.state with
    | .freezing => (s.updFrz i (fun e => { e with thawWanted := true }), .again)
    | .frozen => (startThaw s i, .again)
    | _ => (s, .again)

def execForceThaw (s : State) : Host.Outcome State Fault Refusal := runCommand .forceThaw forceThaw s

end Sys2Proof.Machine
end

