-- ==== Sys2Proof/Machine/AdminCmds.lean ====
section
/-! DEFINITION. Commands on errors, engines, links, power, attestation and reset (05 R105 to R112; 01 R18; 02 R34, R39). -/

namespace Sys2Proof.Machine

/-! ### The error log (R109, R110) -/

/-- An error record in its 32 bytes. -/
def ErrRec.bytes (r : ErrRec) : List Byte :=
  natBytes 4 r.seq ++ natBytes 1 r.cls ++ natBytes 1 r.source ++ natBytes 2 r.event ++ natBytes 4 r.where_ ++ natBytes 4 r.info ++
    natBytes 8 r.addr ++ natBytes 8 r.ticks

def errLogRead (s : State) : State × CmdRes :=
  let n := req s 4 2
  if n == 0 || decide (1023 < n) then (s, .fail stInvalidParam)
  else
    let rs := (s.host.errLog.filter (fun r => decide (req s 0 4 ≤ r.seq))).take n
    (s, .done (natBytes 4 rs.length ++ natBytes 4 0 ++ rs.flatMap ErrRec.bytes))

def execErrLogRead (s : State) : Host.Outcome State Fault Refusal := runCommand .errLogRead errLogRead s

/-- The log, and the counters of errors, links, memory, coherence and engines. -/
def clearErrors (s : State) : State :=
  let link := fun (l : Link) => { l with crc := 0, replayCount := 0, retrains := 0, laneFails := [] }
  let eng := fun (e : Engine) => { e with jobs := 0, lost := 0, faults := 0 }
  { s with
    host := { s.host with errCorr := 0, errNonfatal := 0, errFatal := 0, errLost := 0, errLog := [], errSeq := 0, errFirst := [] }
    fab := { s.fab with links := s.fab.links.map link }
    ms := { s.ms with fadeCount := 0, pinOverflow := 0 }
    coh := { s.coh with forcedPub := 0, widen := 0, merge := 0, recalls := 0, bisnpCount := 0, poisonLine := 0, deadHome := 0 }
    media := s.media.map eng }

def execErrLogClear (s : State) : Host.Outcome State Fault Refusal :=
  runCommand .errLogClear (fun s => (clearErrors s, .done [])) s

/-! ### Links (R33, R34, R107) -/

/-- WHERE of an event of a link (R445). -/
def linkWhere : LinkId → Nat
  | .ulain p => p
  | .grid d _ _ _ _ => 16 + d
  | .bridge d _ _ => 16 + d
  | .io d _ _ => 16 + d

/-- Changes both ends of a link; the other end of a Ulain link is in another package. -/
def updEnds (s : State) (id : LinkId) (f : Link → Link) : State :=
  let s := s.updLink id f
  (peerEnd id).elim s (fun e => s.updLink e f)

/-- Resends the held flits of a link end, in order, and counts the replay (R33). A link inside the package carries them to its other
end at once. -/
def replayLink (s : State) (id : LinkId) : State :=
  let l := s.link id
  let s := if (peerEnd id).isSome || l.held.isEmpty then s
    else l.held.foldl (fun s f => s.emit (.flit id (heldBits l f))) (s.updLink id payCredits)
  let count := fun (l : Link) => { l with replayCount := satInc l.replayCount, replays := l.replays + 1, ackAt := s.clock }
  logError (s.updLink id count) 0 1 0x0002 (linkWhere id) 0 0

/-- A link stops in both directions and its lanes are tested (R34). ULAIN_STATUS has no value for a port that retrains: it goes on
showing UP (entry 63). -/
def startRetrain (s : State) (id : LinkId) : State :=
  updEnds s id (fun l => { l with
    state := .retraining, since := s.clock, retrains := satInc l.retrains, winFlits := 0, winErrors := [], replays := 0, discarding := false })

/-- A link goes down at both ends (R35, R36): its event is logged, and the packets on it go on by another route, those flits again
that were not acknowledged. A packet with no route left is lost. -/
def linkDown (s : State) (id : LinkId) : State :=
  let s := logError (updEnds s id (fun l => { l with state := .down, held := [], replays := 0 })) 1 1 0x0105 (linkWhere id) 0 0
  reroute (match id with
    | .ulain p => { s with fab := { s.fab with
        ulain := s.fab.ulain.modify p (fun (u : UlainPort) => { u with state := .down, half := false }) } }
    | _ => s)

/-- The grid links and bridge ports of a die that have carried something. -/
def dieLinks (s : State) (d : Nat) : List LinkId :=
  (s.fab.links.map (·.id)).filter (fun i => linkWhere i == 16 + d)

/-- The link that a WHERE names; among several of a die, one of them by a free choice. -/
def linkOf (s : State) (w : Nat) : State × Option LinkId :=
  if w < 12 then (s, some (.ulain w))
  else match dieLinks s (w - 16) with
    | [] => (s, if 16 ≤ w ∧ w < 20 then some (.bridge (w - 16) 0 0) else none)
    | ids =>
      let (i, s) := s.choose ids.length
      (s, ids[i]?)

/-! ### ERR_INJECT (R110) -/

/-- What an injected link event does. -/
def injectLink (s : State) (w : Nat) (f : State → LinkId → State) : State :=
  match linkOf s w with
  | (s, none) => s
  | (s, some id) => f s id

def errInject (s : State) : State × CmdRes :=
  let code := req s 0 2
  let w := req s 4 4
  let pa := req s 8 8
  if code == 0x0001 || code == 0x0101 then
    if decide (2 ^ 51 ≤ pa) || paChip pa != s.fab.chipId || paUnbacked s pa then (s, .fail stInvalidParam)
    else (injectSector s pa code, .done [])
  else if code == 0x0002 then (injectLink s w replayLink, .done [])
  else if code == 0x0105 then (injectLink s w linkDown, .done [])
  else if code == 0x0203 then ((if w < 4 then mediaFatal s w else s), .done [])
  else (s, .fail stInvalidParam)

def execErrInject (s : State) : Host.Outcome State Fault Refusal := runCommand .errInject errInject s

/-! ### ENGINE_RESET (R111, R120) -/

/-- The engine is in reset, and then idle; a contained one stays contained until its DPC status is cleared. -/
def engineReset (s : State) : State × CmdRes :=
  let e := req s 0 1
  if 3 < e then (s, .fail stInvalidParam)
  else if (s.engine e).state == .contained then (s, .done [])
  else if s.arg.seq == 0 then ({ loseJob s e .reset with arg := { s.arg with seq := 1 } }, .again)
  else (idleEngine s e, .done [])

def execEngineReset (s : State) : Host.Outcome State Fault Refusal := runCommand .engineReset engineReset s

/-! ### LINK_CTL (R107, R39) -/

/-- Whether every Ulain port is DISABLED or DOWN. -/
def ulainQuiet (s : State) : Bool := s.fab.ulain.all (fun u => u.state == .disabled || u.state == .down)

/-- A new chip id: what is cached under the old addresses is written back first. -/
def setChip (s : State) : State × CmdRes :=
  if 15 < req s 1 1 then (s, .fail stInvalidParam)
  else if !ulainQuiet s then (s, .fail stLinkState)
  else
    let s := if req s 1 1 == s.fab.chipId then s else evictLines s (lineIsOwn s)
    ({ s with fab := { s.fab with chipId := req s 1 1 } }, .done [])

def execSetChip (s : State) : Host.Outcome State Fault Refusal := runCommand .setChip setChip s

/-- The state of a port whose enable is written: it trains when it becomes enabled, and is DISABLED when it is not. -/
def setEnable (u : UlainPort) (on : Bool) : UlainPort :=
  if on == u.enabled then u
  else if on then { u with enabled := true, state := .training }
  else { u with enabled := false, state := .disabled }

def portEnable (s : State) : State × CmdRes :=
  let m := req s 2 2
  if s.fab.ulain.zipIdx.any (fun x => x.1.state == .up && x.1.enabled != bitAt m x.2) then (s, .fail stLinkState)
  else ({ s with fab := { s.fab with ulain := s.fab.ulain.zipIdx.map (fun x => setEnable x.1 (bitAt m x.2)) } }, .done [])

def execPortEnable (s : State) : Host.Outcome State Fault Refusal := runCommand .portEnable portEnable s

def setRoutes (s : State) : State × CmdRes :=
  if !ulainQuiet s then (s, .fail stLinkState)
  else ({ s with fab := { s.fab with
    routes := (List.range 16).map (fun c => BitVec.ofNat 12 (req s (8 + 2 * c) 2)) } }, .done [])

def execRoute (s : State) : Host.Outcome State Fault Refusal := runCommand .route setRoutes s

/-- Whether a router has a bridge port (R26, R30). -/
def hasBridge (r c : Nat) : Bool := r == 0 || r == 3 || c == 0 || c == 5

/-- The link that a RETRAIN or QUERY names (R107). -/
def reqLink (s : State) : Option LinkId :=
  let kind := req s 1 1
  let d := req s 2 1
  let (r, c, pr, pc) := (req s 3 1, req s 4 1, req s 5 1, req s 6 1)
  let onGrid := fun (r c : Nat) => decide (r ≤ 3) && decide (c ≤ 5)
  if kind == 0 then (if d < 12 then some (.ulain d) else none)
  else if kind == 1 then
    if decide (d < 4) && onGrid r c && onGrid pr pc && ((r == pr) != (c == pc)) then some (.grid d r c pr pc) else none
  else if kind == 2 then (if decide (d < 4) && onGrid r c && hasBridge r c then some (.bridge d r c) else none)
  else none

/-- Whether a link can be retrained: a Ulain port that is UP or DOWN and enabled. -/
def trainable (s : State) : LinkId → Bool
  | .ulain p =>
    let u := s.fab.ulain.getD p UlainPort.reset
    u.enabled && (u.state == .up || u.state == .down)
  | _ => true

/-- A retraining that this command asks for may bring a link back to full width (R34). -/
def fullWidth (s : State) (id : LinkId) : State :=
  let s := updEnds s id (fun l => { l with half := false })
  match id with
  | .ulain p => { s with fab := { s.fab with ulain := s.fab.ulain.modify p (fun (u : UlainPort) => { u with half := false }) } }
  | _ => s

/-- The command completes when the link is no longer retraining. -/
def retrain (s : State) : State × CmdRes :=
  match reqLink s with
  | none => (s, .fail stInvalidParam)
  | some id =>
    if s.arg.seq != 0 then (if (s.link id).state == .retraining then (s, .wait) else (s, .done []))
    else if !trainable s id then (s, .done [])
    else ({ startRetrain (fullWidth s id) id with arg := { s.arg with seq := 1 } }, .again)

def execRetrain (s : State) : Host.Outcome State Fault Refusal := runCommand .retrain retrain s

def queryLink (s : State) : State × CmdRes :=
  match reqLink s with
  | none => (s, .fail stInvalidParam)
  | some id =>
    let l := s.link id
    (s, .done (natBytes 4 l.crc ++ natBytes 4 l.replayCount ++ natBytes 4 l.retrains ++ natBytes 4 (laneErr l)))

def execQuery (s : State) : Host.Outcome State Fault Refusal := runCommand .query queryLink s

/-- ROUTER_PM (R37). A router that is DOWNING or DOWN when power-down is disabled stays so until a flit wakes it: the spec does not
say that the command wakes it (entry 63). -/
def routerPm (s : State) : State × CmdRes :=
  let m := req s 1 1
  ({ s with dies := s.dies.zipIdx.map (fun x => { x.1 with pmOff := bitAt m x.2 }) }, .done [])

def execRouterPm (s : State) : Host.Outcome State Fault Refusal := runCommand .routerPm routerPm s

/-! ### POWER_CTL (R18, R108) -/

def powerSet (s : State) : State × CmdRes :=
  let cap := req s 2 2
  let on := req s 4 1
  if cap < 1000 || 2800 < cap || cap % 50 != 0 then (s, .fail stInvalidParam)
  else
    let s : State := { s with
      pkg := { s.pkg with capW := cap }
      dies := s.dies.zipIdx.map (fun x => { x.1 with onMode := bitAt on x.2 }) }
    (((List.range 4).filter (fun d => bitAt on d)).foldl wakeDie s, .done [])

def execPowerSet (s : State) : Host.Outcome State Fault Refusal := runCommand .powerSet powerSet s

def gateCode : GateState → Nat
  | .powered => 0
  | .gating => 1
  | .gated => 2
  | .waking => 3

def powerResp (s : State) : List Byte :=
  natBytes 2 s.pkg.capW ++ natBytes 2 s.pkg.measuredW ++ s.dies.flatMap (fun d => natBytes 1 (gateCode d.gate)) ++
    (List.range 4).flatMap (fun _ => natBytes 1 (throttleDepth s))

def execPowerQuery (s : State) : Host.Outcome State Fault Refusal :=
  runCommand .powerQuery (fun s => (s, .done (powerResp s))) s

/-! ### ATTEST (R112) -/

/-- A region slot as the digest takes it: 332 bytes. -/
def slotBytes (i : Nat) (r : Option Region) : List Byte :=
  match r with
  | none => List.replicate 332 0
  | some r => natBytes 1 i ++ natBytes 1 r.k ++ natBytes 2 r.rowBase ++ natBytes 8 r.base ++
      (List.range 40).flatMap (fun j => natBytes 8 (r.rows.getD j 0))

def slotsBytes (s : State) : List Byte := s.ms.regions.zipIdx.flatMap (fun x => slotBytes x.2 x.1)

def watchesBytes (s : State) : List Byte :=
  (List.range 256).flatMap (fun i => (s.watch? i).elim (List.replicate 64 0) watchImage)

def enableMask (s : State) : Nat := s.fab.ulain.zipIdx.foldl (fun a x => a + natOfBool x.1.enabled * 2 ^ x.2) 0

def routesBytes (s : State) : List Byte :=
  natBytes 1 s.fab.chipId ++ natBytes 2 (enableMask s) ++ s.fab.routes.flatMap (fun m => natBytes 2 m.toNat)

/-- Bytes 0x0000 to 0x00CF of the report. -/
def reportHead (s : State) (nonce : List Byte) : List Byte :=
  natBytes 4 0x09400A75 ++ natBytes 2 1 ++ natBytes 1 s.fab.chipId ++ natBytes 1 (devStateCode s.pkg.devState) ++
    sliceBytes Config.serial 0 8 ++ nonce ++ sliceBytes Config.romDigest 0 32 ++ sha3_256 Config.fuses ++
    sha3_256 (slotsBytes s) ++ sha3_256 (watchesBytes s) ++ sha3_256 (routesBytes s)

/-- The report: its signature, the identity key and the root's signature are what the device's keys make them (entry 11). -/
def report (s : State) (nonce : List Byte) : List Byte :=
  let h := reportHead s nonce
  h ++ sliceBytes (Config.attestSign (sha3_256 h)) 0 2420 ++ sliceBytes Config.attestCert 0 3732

def execAttest (s : State) : Host.Outcome State Fault Refusal :=
  runCommand .attest (fun s => (s, .done (report s (sliceBytes s.host.cmdBuf 0 32)))) s

/-! ### DEVICE_RESET -/

/-- The command completes, and the warm reset begins. -/
def execDeviceReset (s : State) : Host.Outcome State Fault Refusal :=
  runCommand .deviceReset (fun s => (s.post .warmReset { source := 1 }, .done [])) s

end Sys2Proof.Machine
end

