-- ==== Sys2Proof/Machine/Fabric.lean ====
section
/-! DEFINITION. What arrives on links, and the events of links and routers (02 R32 to R41): replay, retraining, Ulain ports, forwarding,
router power-down. -/

namespace Sys2Proof.Machine

/-! ### Replay (R33) -/

/-- Flits of packets have been acknowledged; a packet all of whose flits have been is gone. -/
def ackFlits (s : State) (fs : List HeldFlit) : State :=
  fs.foldl (fun s f => match s.fab.packets.find? (fun p => p.id == f.packet) with
    | none => s
    | some p => if p.got + 1 == p.size then dropPacket s p.id else updPacket s p.id (fun p => { p with got := p.got + 1 })) s

/-- Frees the held flits up to an acknowledged SEQ; the room lets others go. -/
def takeAck (s : State) (id : LinkId) (seq : Nat) : State :=
  match ((s.link id).held.map (·.seq)).idxOf? seq with
  | none => s
  | some i =>
    let fs := (s.link id).held.take (i + 1)
    pump (ackFlits (s.updLink id (fun l => { l with held := l.held.drop (i + 1), replays := 0, ackAt := s.clock })) fs)

/-- A replay is due: after eight without progress the link retrains instead (R34). -/
def replayOrTrain (s : State) (id : LinkId) : State :=
  let l := s.link id
  if l.held.isEmpty then s
  else if 8 ≤ l.replays then s.post .retrainStart { link := id } else replayLink s id

/-- KIND of an ACK and of a NACK. -/
def kindAck : Nat := 5
def kindNack : Nat := 6

/-- A CRC error: it is counted, everything up to the resent flit is discarded, and 32 of them in 2^20 flits retrain the
link (R33, R34). -/
def crcError (s : State) (id : LinkId) : State :=
  let note := fun (l : Link) => { l with
    crc := satInc l.crc, discarding := true
    winErrors := l.winErrors.filter (fun n => decide (l.winFlits < n + 2 ^ 20)) ++ [l.winFlits] }
  let s := emitControl (s.updLink id note) id kindNack
  if 32 ≤ (s.link id).winErrors.length then s.post .retrainStart { link := id } else s

/-- A good flit of the sequence: the next one is accepted, and the buffer that it leaves at once is owed to the sender (R28); an
accepted one is discarded; a later one means that one is missing. -/
def takeFlit (s : State) (id : LinkId) (seq vc : Nat) : State :=
  let l := s.link id
  if seq == (l.lastGood + 1) % 512 then
    emitControl (s.updLink id (fun l => { l with lastGood := seq, discarding := false, owed := creditAdd l.owed vc 1 })) id kindAck
  else if (l.lastGood + 512 - seq) % 512 < 256 then emitControl s id kindAck
  else if l.discarding then s
  else emitControl (s.updLink id (fun l => { l with discarding := true })) id kindNack

def receiveFlit (s : State) (id : LinkId) (f : BitVec 512) : State :=
  let s := s.updLink id (fun l => { l with winFlits := l.winFlits + 1 })
  if !flitGood f then crcError s id
  else
    let s := pump (takeAck (takeCredits s id (flitCredit f)) id (flitAck f))
    if flitKind f == kindNack then replayOrTrain s id
    else if flitCounts f then takeFlit s id (flitSeq f) (flitVc f) else s

/-! ### Routers (R37, R38) -/

def execRouterIdleTimeout (s : State) : Host.Outcome State Fault Refusal :=
  let id := s.arg.router
  let r := s.router id
  .next (finish (
    if r.state != .active || (s.die id.die).pmOff || s.clock < r.since + 1024 then s
    else if routerHolds s id then setRouter s id .active else setRouter s id .downing))

def execRouterDowningEnd (s : State) : Host.Outcome State Fault Refusal :=
  let id := s.arg.router
  let r := s.router id
  .next (finish (if r.state == .downing && decide (r.since + 16 ≤ s.clock) then setRouter s id .down else s))

def execRouterWake (s : State) : Host.Outcome State Fault Refusal := .next (finish (wakeRouter s s.arg.router))

/-- ROUTER_WAKING_END: what waits for the router moves on. -/
def execRouterWakingEnd (s : State) : Host.Outcome State Fault Refusal :=
  let id := s.arg.router
  let r := s.router id
  .next (finish (if r.state == .waking && decide (r.since + 64 ≤ s.clock) then pump (setRouter s id .active) else s))

/-! ### Events of a link -/

/-- FLIT_RECEIVE: a link that retrains or is down, or a Ulain port that has not trained, takes nothing (R25, R34); a flit for a router that is not active waits and wakes it. -/
def execFlitReceive (s : State) : Host.Outcome State Fault Refusal :=
  let id := s.arg.link
  .next (
    if !linkUp s id then finish s
    else match linkRouter id with
      | none => finish (receiveFlit s id s.arg.flit)
      | some r =>
        if (s.router r).state == .active then finish (receiveFlit (setRouter s r .active) id s.arg.flit)
        else (wakeRouter s r).park .flitReceive)

def execAckReceive (s : State) : Host.Outcome State Fault Refusal := .next (finish (takeAck s s.arg.link (s.arg.seq % 512)))

def execNackReceive (s : State) : Host.Outcome State Fault Refusal :=
  let id := s.arg.link
  .next (finish (if (s.link id).state == .up then replayOrTrain (takeAck s id (s.arg.seq % 512)) id else s))

def execReplayTimeout (s : State) : Host.Outcome State Fault Refusal :=
  let id := s.arg.link
  let l := s.link id
  .next (finish (if l.state == .up && decide (l.ackAt + 4096 ≤ s.clock) then replayOrTrain s id else s))

def execRetrainStart (s : State) : Host.Outcome State Fault Refusal :=
  let id := s.arg.link
  .next (finish (if (s.link id).state == .up && trainable s id then startRetrain s id else s))

/-- The lanes that passed: eight bits stand for the lanes of a Ulain port, and for the two halves of another link. -/
def goodLanes : LaneTest → BitVec 8
  | .full => 0xFF
  | .half => 0x0F
  | .none => 0
  | .lanes g => g

def lanesGood (g : BitVec 8) : Nat := ((List.range 8).filter (fun i => g.getLsbD i)).length

/-- The width that lanes allow: full, half, or none (R34). -/
inductive Width where
  | full | half | none
  deriving DecidableEq, Repr

def widthOf (id : LinkId) (g : BitVec 8) : Width :=
  match id with
  | .ulain _ => if g == 0xFF then .full else if 4 ≤ lanesGood g then .half else .none
  | _ => if g == 0xFF then .full else if g &&& 0x0F == 0x0F || g &&& 0xF0 == 0xF0 then .half else .none

/-- Counts each failing lane of a test (R41). -/
def countLanes (g : BitVec 8) (fails : List Nat) : List Nat :=
  (List.range 8).map (fun i => if g.getLsbD i then fails.getD i 0 else min 15 (fails.getD i 0 + 1))

/-- A link resumes at a width; one that ran at half width stays there unless a command asked for the retraining. What waited for it
moves on. -/
def resumeLink (s : State) (id : LinkId) (g : BitVec 8) (half : Bool) : State :=
  let s := updEnds s id (fun l => { l with state := .up, half := l.half || half, ackAt := s.clock })
  let s : State := match id with
    | .ulain p => { s with fab := { s.fab with
        ulain := s.fab.ulain.modify p (fun (u : UlainPort) => { u with state := .up, good := g, half := u.half || half }) } }
    | _ => s
  pump (if (s.link id).held.isEmpty then s else replayLink s id)

/-- RETRAIN_DONE, once the lane test has taken its time (R34). -/
def execRetrainDone (s : State) : Host.Outcome State Fault Refusal :=
  let id := s.arg.link
  let g := goodLanes s.arg.lanes
  .next (
    if (s.link id).state != .retraining then finish s
    else if s.clock < (s.link id).since + retrainTime id then s.park .retrainDone
    else
      let s := updEnds s id (fun l => { l with laneFails := countLanes g l.laneFails })
      match widthOf id g with
      | .full => finish (resumeLink s id g false)
      | .half => finish (resumeLink s id g true)
      | .none => finish (linkDown (match id with
        | .ulain p => { s with fab := { s.fab with ulain := s.fab.ulain.modify p (fun (u : UlainPort) => { u with good := g }) } }
        | _ => s) id))

/-- ULAIN_TRAINED (R39). -/
def execUlainTrained (s : State) : Host.Outcome State Fault Refusal :=
  let p := s.arg.uport
  let g := s.arg.good
  let set := fun (s : State) (f : UlainPort → UlainPort) => ({ s with fab := { s.fab with ulain := s.fab.ulain.modify p f } } : State)
  .next (finish (
    if (s.fab.ulain.getD p UlainPort.reset).state != .training then s
    else match widthOf (.ulain p) g with
      | .none => set s (fun u => { u with state := .down, good := g, half := false })
      | w =>
        let s := s.updLink (.ulain p) (fun _ => { Link.reset (.ulain p) .up with
          crc := (s.link (.ulain p)).crc, replayCount := (s.link (.ulain p)).replayCount, retrains := (s.link (.ulain p)).retrains
          laneFails := (s.link (.ulain p)).laneFails })
        set s (fun u => { u with state := .up, peer := s.arg.peer % 16, good := g, half := w == .half })))

/-! ### Forwarding between packages (R39, R40, R36) -/

/-- ULAIN_FORWARD: a packet that has made four hops is dropped; another goes on from the I/O die. One for which no route remains is
lost (R36). -/
def execUlainForward (s : State) : Host.Outcome State Fault Refusal :=
  let (chip, pa, hops) := (s.arg.chip, s.arg.offset, s.arg.hops)
  .next (finish (
    if chip == s.fab.chipId then s
    else if 4 ≤ hops then logError s 2 1 0x0201 s.arg.uport chip 0
    else inject s .req .io (.chip chip) (some pa) 1 (.forward chip pa hops)))

end Sys2Proof.Machine
end

