-- ==== Sys2Proof/Machine/MemorySide.lean ====
section
/-! DEFINITION. The memory side (03 R43, R51 to R59): the order in which a channel serves requests, patrol scrubbing, fading
of pinned windows. -/

namespace Sys2Proof.Machine

/-! ### CHANNEL_ACCESS (R58) -/

/-- The row of a line's DRAM location. -/
def rowOf (s : State) (line : Nat) : Nat := (lineDram s line).elim 0 dlRow

/-- The request that a channel serves next: one that has waited 2,048 clocks, then the group in service, then the oldest
group, where a memory-row hit is preferred between groups of equal age. Refresh is a matter of time alone (entry 13). -/
def nextRequest (s : State) (ch : Channel) : Option ChanReq :=
  match leastBy (·.at_) (ch.pending.filter (fun r => decide (r.at_ + 2048 ≤ s.clock))) with
  | some r => some r
  | none => match ch.serving.bind (fun g => ch.pending.find? (fun r => r.group == g && !r.single)) with
    | some r => some r
    | none =>
      let hit := fun (r : ChanReq) => if ch.openRow == some (rowOf s r.line) then 0 else 1
      leastBy (fun r => 2 * r.at_ + hit r) ch.pending

/-- Serves one request: the sectors that the channel cache lacks are read from HBM. The group in service stays so until its sectors
are finished, also where a request that has waited long goes between. -/
def serveRequest (s : State) (c : Nat) (r : ChanReq) : State :=
  let ch := s.chan c
  let rest := ch.pending.erase r
  let left := fun (g : Nat) => rest.any (fun x => x.group == g && !x.single)
  let serving := match ch.serving.filter left with
    | some g => some g
    | none => if !r.single && left r.group then some r.group else none
  let s := s.setChan c { ch with pending := rest, serving := serving, openRow := some (rowOf s r.line) }
  chanServe s r.line r.sectors

def execChannelAccess (s : State) : Host.Outcome State Fault Refusal :=
  let c := s.arg.chan
  .next (match nextRequest s (s.chan c) with
    | none => finish s
    | some r => finish (serveRequest s c r))

/-! ### PATROL_SCRUB (R43) -/

/-- Lines of HBM in the package: 16 stacks of 32 channels, with 2 · 4 · 4 banks of 49,152 rows of 8 lines. -/
def dramLines : Nat := 16 * 32 * 2 * 4 * 4 * 49152 * 8

/-- Solves M · x = y over GF(2): rows carry their bit of y above the n columns; used rows stand with their column. -/
def gf2Solve : Nat → List Nat → List (Nat × Nat) → List (Nat × Nat)
  | 0, _, used => used
  | j + 1, rows, used => match takeFirst (fun r => bitAt r j) rows with
    | none => gf2Solve j rows used
    | some (p, rest) =>
      let clear := fun (r : Nat) => if bitAt r j then Nat.xor r p else r
      gf2Solve j (rest.map clear) ((j, p) :: used.map (fun x => (x.1, clear x.2)))

/-- The PA of a DRAM line, where a region maps it. -/
def paOfDram (s : State) (d : Nat) : Option Nat :=
  ((s.ms.regions.filterMap id).find? (fun r => decide (r.rowBase ≤ dlRow d) && decide (dlRow d < r.rowBase + regionRows r.k))).map (fun r =>
    let n := r.k - 7
    let y := (dlRow d - r.rowBase) * 131072 + d % 131072
    let rows := (List.range n).map (fun i => r.rows.getD i 0 + natOfBool (bitAt y i) * 2 ^ n)
    let x := (gf2Solve n rows []).foldl (fun a p => a + (if bitAt p.2 n then 2 ^ p.1 else 0)) 0
    s.fab.chipId * 2 ^ 47 + r.base + 128 * x)

/-- Corrects the single-bit errors of a DRAM line; the scrub enters no cache and counts as no miss. -/
def scrubLine (s : State) (d : Nat) : State :=
  let hit := (List.range 4).filter (fun i => s.ecc1.contains (d * 4 + i))
  hit.foldl (fun s i =>
    logError { s with ecc1 := sectorDel (d * 4 + i) s.ecc1 } 0 0 0x0001 (dlStack d) 0 ((paOfDram s d).elim 0 (fun pa => pa + 32 * i))) s

/-- PATROL_SCRUB: the line named, or the scrubber's next one where the event names none. -/
def execPatrolScrub (s : State) : Host.Outcome State Fault Refusal :=
  .next (finish (
    if s.arg.line != 0 then (match lineDram s s.arg.line with
      | some d => scrubLine s d
      | none => s)
    else
      let d := s.ms.scrubNext
      scrubLine { s with ms := { s.ms with scrubNext := (d + 1) % dramLines } } d))

/-! ### FADE_DECREMENT (R54, R55) -/

/-- Whether a window contains a line of a channel cache. -/
def windowOn (s : State) (w : Window) (c : Nat) : Bool :=
  (List.range (w.size / 128)).any (fun i => (dramLine s (w.base + 128 * i)).elim false (fun d => dlCache d == c))

/-- One decrement of a window, without effect where the window was hit in this clock; at 0 it is deactivated. -/
def fadeOne (s : State) (i : Nat) : State :=
  match s.ms.windows.getD i none with
  | none => s
  | some w =>
    if w.hitAt == some s.clock then s
    else if w.fade ≤ 1 then
      let s := dropWindow s i
      { s with ms := { s.ms with fadeCount := satInc s.ms.fadeCount } }
    else { s with ms := { s.ms with windows := s.ms.windows.set i (some { w with fade := w.fade - 1 }) } }

def execFadeDecrement (s : State) : Host.Outcome State Fault Refusal :=
  let c := s.arg.chan
  let due := (List.range 32).filter (fun i => (s.ms.windows.getD i none).elim false (fun w => windowOn s w c))
  .next (finish (due.foldl fadeOne s))

end Sys2Proof.Machine
end

