-- ==== Sys2Proof/Machine/Coher.lean ====
section
/-! DEFINITION. The messages between homes and agent slices (04 R70, R71, R78 to R85; 23 R433 to R435). -/

namespace Sys2Proof.Machine

/-! ### What a home sends -/

/-- The bytes of a line from memory, read as a single request (R59). -/
def memoryData (s : State) (line : Nat) : State × LineData :=
  (chanRead s line 0xF, { bytes := homeRead s line, poison := homePoison s line, depth := 0 })

def sendMemory (s : State) (w : Who) (line : Nat) (g : Grant) : State :=
  let (s, d) := memoryData s line
  sendData s (homeDie s line) w line d g

def sendUpgAck (s : State) (w : Who) (line : Nat) : State := sendTo s .rsp (homeDie s line) w line .upgAck {} (chipMsg 11)

def sendWbAck (s : State) (w : Who) (line : Nat) : State := sendTo s .rsp (homeDie s line) w line .wbAck {} (chipMsg 12)

/-- A package that asked for a publish has its answer (R78). -/
def answerPub (s : State) (w : Who) (line : Nat) : State :=
  sendChip s .rsp (lineRouter s (homeDie s line) line) { chipMsg 14 with chip := whoChip w, who := w, line := line }

/-- The home's own request is answered: memory is current. -/
def selfDone (s : State) (line : Nat) : State :=
  let d := homeDie s line
  match agentAt s d line with
  | none => s
  | some a => if a.pending.isSome then noteGrant (dropAgent s d line) d line else s

/-- Every L1 of the home's die publishes and gives up a line that an agent is to hold exclusive, so that paths that sleep on a word of it
look again once the agent has written (R388). -/
def homeYields (s : State) (line : Nat) : State :=
  let ds := pointDies (homeDie s line) line
  wakeLine (dropCopies (settleDie s ds line) ds line) line

/-! ### Serving a request (R81, R82, R433) -/

/-- The owner and the sharers but for the requester. -/
def othersOf (e : DirEntry) (w : Who) : List Who := (e.owner.toList ++ e.sharers).filter (fun x => x != w)

/-- An entry in a transient state for a request. -/
def DirEntry.busyWith (e : DirEntry) (st : DirState) (w : Who) (k : CohReq) (wait : List Who) : DirEntry :=
  { e with st := st, req := some (w, k), awaiting := wait, wbSeen := false, answer := none }

/-- The line is the requester's alone; `granted` where it was given M (R84). -/
def grantAll (s : State) (e : DirEntry) (w : Who) (granted : Bool) : State :=
  if w == selfWho s e.line then selfDone (setDir s e.cleared) e.line
  else setDir s { e.cleared with st := .ex, owner := some w, granted := granted }

/-- RD of a line in UNC gives E, but S where a host holds a half of it, so that a store of the agent still asks (R88). -/
def serveRd (s : State) (e : DirEntry) (w : Who) : State :=
  let self := w == selfWho s e.line
  match e.owner with
  | some o =>
    let s := setDir s (e.busyWith .busyRd w .rd (o :: (if self then [w] else [])))
    sendFwd s e.line o w false
  | none =>
    if self then selfDone s e.line
    else if e.st == .sh || !(hostConflicts s e.line true).isEmpty then
      let sh := if e.sharers.contains w then e.sharers else e.sharers ++ [w]
      let s := if e.st == .sh then s else homeYields s e.line
      sendMemory (setDir s { dirAt s e.line with st := .sh, sharers := sh }) w e.line .shared
    else
      let s := homeYields s e.line
      sendMemory (grantAll s (dirAt s e.line) w false) w e.line .exclusive

def serveRdx (s : State) (e : DirEntry) (w : Who) : State :=
  let self := w == selfWho s e.line
  let others := othersOf e w
  let s := if self then s else homeYields s e.line
  match e.owner with
  | some o =>
    let rest := others.filter (fun x => x != o)
    let s := setDir s (e.busyWith .busyRx w .rdx (o :: rest ++ (if self then [w] else [])))
    rest.foldl (fun s x => sendInv s e.line x) (sendFwd s e.line o w true)
  | none =>
    if others.isEmpty then
      let s := grantAll s e w true
      if self then s else sendMemory s w e.line .modified
    else others.foldl (fun s x => sendInv s e.line x) (setDir s (e.busyWith .busyRx w .rdx others))

def serveUpg (s : State) (e : DirEntry) (w : Who) : State :=
  if !(e.sharers.contains w || (e.st == .ow && e.owner == some w)) then serveRdx s e w
  else
    let others := othersOf e w
    let s := homeYields s e.line
    if others.isEmpty then sendUpgAck (grantAll s e w true) w e.line
    else others.foldl (fun s x => sendInv s e.line x) (setDir s (e.busyWith .busyUp w .upg others))

/-- Serves a request, or puts it into the line's queue. The answer is false where it must be tried again: the home has just been
granted the line, a host copy is to come back, or the directory has no room. -/
def serveReq (s : State) (line : Nat) (w : Who) (k : CohReq) : State × Bool :=
  let e := dirAt s line
  if e.st.busy then (if e.queue.contains (w, k) then s else setDir s { e with queue := e.queue ++ [(w, k)] }, true)
  else if justGranted s (homeDie s line) line && w != selfWho s line then (s, false)
  else if hostHolds s line (k != .rd) then (sendBisnp s line (k != .rd), false)
  else match dirRoom s line with
    | (s, false) => (s, false)
    | (s, true) =>
      let e := dirAt s line
      (match k with
        | .rd => serveRd s e w
        | .rdx => serveRdx s e w
        | .upg => serveUpg s e w, true)

/-- A read that is not to be tracked (R72, R73): the current bytes, once they are at the home. -/
def serveUntracked (s : State) (line : Nat) (w : Who) : State × Bool :=
  if (dirAt s line).st.busy then (s, false)
  else
    let s := (linePoints line).foldl (fun s ds => settleDie s ds line) s
    match homeLacks s line 0xF 0 (2 ^ 49) with
    | some s => (s, false)
    | none =>
      let (bs, p) := peekLine s line
      (sendData s (homeDie s line) w line { bytes := bs, poison := p, depth := 0 } .shared, true)

def requestEvent (k : CohReq) (s : State) : Host.Outcome State Fault Refusal :=
  .next (match serveReq s s.arg.line s.arg.who k with
    | (s, true) => finish s
    | (s, false) => (settle s).park (cohReqEvent k))

def execRdRequest (s : State) : Host.Outcome State Fault Refusal :=
  if s.arg.untracked then
    .next (match serveUntracked s s.arg.line s.arg.who with
      | (s, true) => finish s
      | (s, false) => (settle s).park .rdRequest)
  else requestEvent .rd s
def execRdxRequest (s : State) : Host.Outcome State Fault Refusal := requestEvent .rdx s
def execUpgRequest (s : State) : Host.Outcome State Fault Refusal := requestEvent .upg s

/-! ### The end of a transient state (R81, R83, R435) -/

/-- The stable state of an entry's owner and sharers. -/
def stableOf (e : DirEntry) : DirState :=
  match e.owner with
  | some _ => if e.sharers.isEmpty then .ex else .ow
  | none => if e.sharers.isEmpty then .unc else .sh

/-- The requests that waited are served in arrival order. From the first that must be tried again they come back as messages, before all
others. -/
def popQueue (s : State) (line : Nat) : State :=
  let e := dirAt s line
  let r := e.queue.foldl (fun (r : State × List (Who × CohReq)) x =>
    if !r.2.isEmpty then (r.1, r.2 ++ [x])
    else match serveReq r.1 line x.1 x.2 with
      | (s, true) => (s, [])
      | (s, false) => (s, [x])) (setDir s { e with queue := [] }, [])
  let again := r.2.zipIdx.map (fun x => (⟨cohReqEvent x.1.2, { who := x.1.1, line := line, seq := 2 ^ 64 + x.2 }⟩ : Event))
  { r.1 with net := again ++ r.1.net }

/-- An entry that is stable again. -/
def settleDir (s : State) (e : DirEntry) : State :=
  popQueue (setDir s { e with
    st := stableOf e, req := none, awaiting := [], wbSeen := false, answer := none, granted := e.granted && e.owner.isSome }) e.line

/-- A party of a failed package, which takes no line any more (R84). -/
def whoFailed (s : State) : Who → Bool
  | .agent c _ => s.fab.failedChips.contains c
  | .host _ => false

/-- Writes a line to memory as poisoned (R84). -/
def poisonHome (s : State) (line : Nat) : State :=
  let s := logError (homeSetPoison s line 0xF) 1 2 0x0107 (homeDie s line) 0 (line * 128)
  updCoh s (fun c => { c with poisonLine := satInc c.poisonLine })

/-- A stable entry whose owner has failed: its line is read from the surviving sharer with the lowest requester number. Without
one, an owner in O, or one that was given M, held the only current bytes; whether one that was given E has written them is not known
here: a free choice (entry 6). -/
def failOwner (s : State) (e : DirEntry) : State :=
  match leastBy (requesterNo s e.line) e.sharers with
  | none =>
    let (m, s) := if e.granted then (1, s) else s.choose 2
    settleDir (if m == 1 then poisonHome s e.line else s) { e with owner := none }
  | some w => match (ownDie s w).bind (fun d => agentAt s d e.line) with
    | some a => settleDir (acceptData s e.line a.data) { e with owner := none }
    | none =>
      let self := selfWho s e.line
      let e := { e with owner := some w, sharers := e.sharers.filter (fun x => x != w) }
      sendFwd (setDir s (e.busyWith .busyRd self .rd [w, self])) e.line w self false

def addSharer (xs : List Who) (w : Who) : List Who := if xs.contains w then xs else xs ++ [w]

/-- The end of BUSY_RD: the owner's answer says whether it keeps the line, and as which owner. The home's own die reads the
line into memory. -/
def endRd (s : State) (e : DirEntry) (w : Who) (a : SnoopAnswer) : State :=
  let self := w == selfWho s e.line
  let sh := if self || whoFailed s w then e.sharers else addSharer e.sharers w
  let e2 := if a.keeps && a.dirty && !self then { e with sharers := sh, granted := true }
    else if a.keeps then { e with owner := none, sharers := e.owner.toList.foldl addSharer sh }
    else { e with owner := none, sharers := sh }
  let s := if a.dataSent || self then s else sendMemory s w e.line .shared
  settleDir (if self then selfDone s e.line else s) e2

/-- The end of BUSY_RX and BUSY_UP. -/
def endExclusive (s : State) (e : DirEntry) (w : Who) (k : CohReq) (sent : Bool) : State :=
  let self := w == selfWho s e.line
  if whoFailed s w then settleDir (if sent then poisonHome s e.line else s) { e with owner := none, sharers := [] }
  else
  let s := if self then s
    else if k == .upg then sendUpgAck s w e.line
    else if sent then s else sendMemory s w e.line .modified
  popQueue (grantAll s e w true) e.line

/-- The end of BUSY_PUB: the acquire whose publishes these were is told, in this package or another. -/
def endPub (s : State) (e : DirEntry) : State :=
  let s := match e.req with
    | some (w, _) => if foreignWho s w then answerPub s w e.line else acquiresDone s e.line
    | none => acquiresDone s e.line
  if e.owner.elim false (whoFailed s) then failOwner s { e with req := none } else settleDir s e

/-- The last response has come. -/
def endBusy (s : State) (e : DirEntry) (a : SnoopAnswer) : State :=
  match e.st, e.req with
  | .busyRd, some (w, _) => endRd s e w a
  | .busyRx, some (w, k) => endExclusive s e w k a.dataSent
  | .busyUp, some (w, k) => endExclusive s e w k a.dataSent
  | .busyPub, _ => endPub s e
  | .busyRec, _ => popQueue (setDir s e.cleared) e.line
  | _, _ => settleDir s e

/-- The owner's answer, or that of no copy. -/
def DirEntry.ownerAnswer (e : DirEntry) : SnoopAnswer := e.answer.getD ⟨false, false, false⟩

/-- A response of a party: the entry goes on once nobody is awaited. A dirty line that was answered from a write-back buffer
is in memory only when its WB has come. -/
def response (s : State) (line : Nat) (w : Who) (a : SnoopAnswer) : State :=
  let e := dirAt s line
  if !e.st.busy || !e.awaiting.contains w then s
  else
    let owner := e.owner == some w
    let self := selfWho s line
    -- the data that the home's own die waits for does not come where the owner sent none
    let left := (e.awaiting.filter (fun x => x != w)).filter (fun x => !(owner && !a.dataSent && x == self))
    let e := { e with awaiting := left, answer := if owner then some a else e.answer }
    if !left.isEmpty then setDir s e
    else
      let a := e.ownerAnswer
      if e.st == .busyRd && a.dirty && !a.keeps && a.dataSent && !e.wbSeen && (e.req.map (·.1)) != some self then setDir s e
      else endBusy s e a

/-- SNOOP_RESPONSE at a line's home, or at the agent whose PUB another package's home has answered. -/
def execSnoopResponse (s : State) : Host.Outcome State Fault Refusal :=
  .next (finish (if lineIsOwn s s.arg.line then response s s.arg.line s.arg.who s.arg.answer else acquiresDone s s.arg.line))

def execInvAck (s : State) : Host.Outcome State Fault Refusal :=
  .next (finish (response s s.arg.line s.arg.who ⟨false, false, false⟩))

/-! ### Write-backs (R83) -/

/-- WB at the home: an owner's data are written, and in a transient state the party's response still completes it. Data of a
party that no longer owns the line are older, and are not written. -/
def takeWb (s : State) (w : Who) (line : Nat) (d : LineData) : State :=
  let e := dirAt s line
  let s := sendWbAck s w line
  if e.owner != some w then s
  else
    let s := acceptData s line d
    let e := dirAt s line
    if !e.st.busy then settleDir s { e with owner := none }
    else if e.awaiting.isEmpty then endBusy s { e with wbSeen := true } e.ownerAnswer
    else setDir s { e with wbSeen := true }

/-- WB_REQUEST: for an agent of this package that still holds the line, the event is the eviction as well (entry 7). A host line goes
back to its host (R89). -/
def execWbRequest (s : State) : Host.Outcome State Fault Refusal :=
  let (w, line) := (s.arg.who, s.arg.line)
  .next (finish (match ownDie s w with
    | none => takeWb s w line s.arg.data
    | some d =>
      let held := (bufferAt s d line).isNone && (agentAt s d line).elim false (fun a => a.st.holds && a.pending.isNone)
      if lineIsHost line then (if held then returnHostLine (mergeHolders s line) line else s)
      else
        let s := if held then evictAgent s d line else s
        match bufferAt s d line with
        | none => s
        | some a => if lineIsOwn s line then takeWb s w line a.data else sendWb s d line))

def execWbAck (s : State) : Host.Outcome State Fault Refusal := .next (finish (dropBuffer s s.arg.die s.arg.line))

/-! ### Snoops at an agent (R83, R434, R435) -/

/-- What an owner keeps after FWD_S. Where the home itself has taken the bytes, none of them waits to be compared there any more
(R69). -/
def Agent.shared (a : Agent) (home : Bool) : Agent :=
  if home then { a with st := .s, data := { a.data with depth := 0, src := none, quiet := 0 } }
  else { a with st := if a.st == .m then .o else if a.st == .e then .s else a.st }

/-- FWD_S and FWD_X at an agent: the L1s of its point act first. Paths that sleep on a word of a line that goes look again (R388). -/
def forward (s : State) (d line : Nat) (w : Who) (excl : Bool) : State :=
  let ds := pointDies d line
  let s := publishDie s ds line
  let s := if excl then wakeLine (dropCopies s ds line) line else demoteDie s ds line
  let g := if excl then Grant.modified else .shared
  match (agentAt s d line).filter (fun a => a.st.holds) with
  | some a =>
    let s := if excl then (if a.pending.isNone then dropAgent s d line else setAgent s { a with st := .i })
      else setAgent s (a.shared (w == selfWho s line))
    answerHome (sendData s d w line a.data g) d line ⟨true, !excl, a.st.dirty⟩
  | none => match bufferAt s d line with
    | some a => answerHome (sendData s d w line a.data g) d line ⟨true, false, true⟩
    | none => answerHome s d line ⟨false, false, false⟩

def execFwdS (s : State) : Host.Outcome State Fault Refusal :=
  .next (if snoopWaits s s.arg.die s.arg.line then s.park .fwdS else finish (forward s s.arg.die s.arg.line s.arg.who false))
def execFwdX (s : State) : Host.Outcome State Fault Refusal :=
  .next (if snoopWaits s s.arg.die s.arg.line then s.park .fwdX else finish (forward s s.arg.die s.arg.line s.arg.who true))

/-- INV_ACK to the line's home. -/
def sendInvAck (s : State) (d line : Nat) : State :=
  let me := Who.agent s.fab.chipId d
  if lineIsOwn s line then
    s.send .rsp (lineRouter s d line) (lineRouter s (homeDie s line) line) (some line) .invAck { who := me, line := line }
  else sendChip s .rsp (lineRouter s d line) { chipMsg 13 with chip := lineChip line, who := me, line := line }

/-- INV at an agent. A request of its own that is outstanding stays so (R82), and paths that sleep on a word of the line look again (R388). -/
def invalidate (s : State) (d line : Nat) : State :=
  let ds := pointDies d line
  let s := dropCopies (publishDie s ds line) ds line
  let s := match agentAt s d line with
    | none => s
    | some a => if a.pending.isSome then setAgent s { a with st := .i } else dropAgent s d line
  sendInvAck (wakeLine s line) d line

def execInv (s : State) : Host.Outcome State Fault Refusal :=
  .next (if snoopWaits s s.arg.die s.arg.line then s.park .inv else finish (invalidate s s.arg.die s.arg.line))

/-- PUB of another package at a line's home here: the home publishes in its turn, and the other packages but the one that asks (R78). -/
def homePub (s : State) (line : Nat) (w : Who) : State :=
  let s := publishHere s line
  let far := (dedup (foreignHolders s line ++ lazyAfar s line)).filter (fun x => x != w)
  if !far.isEmpty then startPub s line (some w)
  else
    let lazy := (dirAt s line).lazy
    let s := if lazy.isEmpty then s else setDir s { dirAt s line with lazy := lazy.filter (fun x => x.1 == s.fab.chipId) }
    answerPub s w line

/-- PUB (R78): the writable L1 copies are published, and the cores of the point's lazy-release list drain. -/
def execPub (s : State) : Host.Outcome State Fault Refusal :=
  let (d, line, w) := (s.arg.die, s.arg.line, s.arg.who)
  .next (
    if let some a := s.arg.act then execDomain s a
    else if lineIsOwn s line && foreignWho s w then
      (if (dirAt s line).st.busy then s.park .pub else finish (homePub s line w))
    else
      let s := publishHere s line
      finish (answerHome s d line
        ⟨false, (agentAt s d line).elim false (fun a => a.st.holds), (agentAt s d line).elim false (fun a => a.st.dirty)⟩))

/-! ### Answers at a requester (R81, R82) -/

def execUpgAck (s : State) : Host.Outcome State Fault Refusal :=
  .next (finish (match agentAt s s.arg.die s.arg.line with
    | none => s
    | some a => if a.pending.isSome && a.st.holds then noteGrant (setAgent s { a with st := .m, pending := none }) s.arg.die s.arg.line else s))

def grantState : Grant → Moesi
  | .shared => .s
  | .exclusive => .e
  | .modified => .m

/-- Agents of a die whose lines share a set with a line, oldest first: their array is taken to have the directory's
organisation, 2,048 sets of 16 ways for each slice (entry 22). -/
def agentSet (s : State) (d line : Nat) : List Agent :=
  s.coh.agents.filter (fun a => a.die == d && a.line != line && !a.wbBuf && a.pending.isNone && homeSlice s a.line == homeSlice s line &&
    sliceSet s a.line == sliceSet s line)

/-- Makes room in an agent's set: its oldest line is evicted, and written back where it is dirty. -/
def agentRoom (s : State) (d line : Nat) : State :=
  match agentSet s d line with
  | v :: rest =>
    if rest.length < 15 then s
    else if lineIsHost v.line then returnHostLine (mergeHolders s v.line) v.line
    else sendWb (evictAgent s d v.line) d v.line
  | [] => s

/-- An agent takes a line as the answer to its request. The bytes of a line of another home are noted as they were observed. -/
def takeData (s : State) (d line : Nat) (data : LineData) (g : Grant) : State :=
  match agentAt s d line with
  | none => s
  | some a =>
    if a.pending.isNone then s
    else
      let s := if lineIsOwn s line then s else homeSetPoison (homeWrite s line 0 data.bytes) line data.poison
      noteGrant (setAgent (agentRoom s d line) { a with st := grantState g, data := data, pending := none }) d line

/-- The atomic of this package that an answer of another one belongs to. -/
def answeredAtomic (s : State) : Option Op := (s.op? s.arg.op).filter (fun o => s.arg.op != 0 && decide (2 ≤ o.prog))

/-- DATA_RESPONSE: the old value of an atomic, which is dropped where its operation is gone, bytes that no directory tracks, the line that an agent asked for, or at the home's own
die the line, which is written to memory. -/
def execDataResponse (s : State) : Host.Outcome State Fault Refusal :=
  let (d, line, data) := (s.arg.die, s.arg.line, s.arg.data)
  .next (finish (
    match answeredAtomic s with
    | some o => atomAnswered s o data.bytes (data.poison != 0)
    | none =>
      if s.arg.op != 0 then s
      else if s.coh.untracked.contains (d, line) then
        setReplica (updCoh s (fun c => { c with untracked := c.untracked.erase (d, line) })) ⟨d, line, data.bytes, data.poison⟩
      else if isHomeDie s d line then
        let me := selfWho s line
        if !(dirAt s line).st.busy || !(dirAt s line).awaiting.contains me then s
        else
          let s := acceptData s line data
          response (setDir s { dirAt s line with wbSeen := true }) line me ⟨true, false, false⟩
      else takeData s d line data s.arg.grant))

/-! ### Failed packages (R84, R85) -/

def ofChip (chip : Nat) : Who → Bool
  | .agent c _ => c == chip
  | .host _ => false

/-- A transient state goes on as though the package had answered with no copy; what was expected from it is poisoned. -/
def failBusy (s : State) (e : DirEntry) (chip : Nat) : State :=
  let lost := e.awaiting.filter (ofChip chip)
  let ownerLost := e.owner.elim false (fun o => lost.contains o) && !e.wbSeen && e.st != .busyPub
  let s := setDir s e
  let s := if !ownerLost then s
    else
      let s := poisonHome s e.line
      match e.req with
      | some (w, k) =>
        if w == selfWho s e.line || k == .upg then s
        else sendData (setDir s { dirAt s e.line with answer := some ⟨true, false, false⟩ }) (homeDie s e.line) w e.line
          { bytes := homeRead s e.line, poison := 0xF, depth := 0 } (if k == .rd then .shared else .modified)
      | none => s
  lost.foldl (fun s w => response s e.line w ⟨(dirAt s e.line).ownerAnswer.dataSent, false, false⟩) s

/-- One directory entry when a package fails. -/
def failEntry (chip : Nat) (s : State) (line : Nat) : State :=
  let had := dirAt s line
  let e := { had with
    sharers := had.sharers.filter (fun w => !ofChip chip w), queue := had.queue.filter (fun x => !ofChip chip x.1)
    lazy := had.lazy.filter (fun x => x.1 != chip) }
  if had.st.busy then failBusy s e chip
  else if had.owner.elim false (ofChip chip) then failOwner s { e with granted := e.granted || had.st == .ow }
  else settleDir s e

/-- Whether an operation has sent a store of a line to another package. -/
def storesAfar (o : Op) : Bool :=
  o.what == farWrite || (instrForm o.what).elim false (fun x => decide (x.1 < 0xB0) || x.1 == 0xCF)

/-- What this package has asked of homes on the failed one is answered by R85 when it is tried again. -/
def dropRequests (chip : Nat) (s : State) : State :=
  let theirs := fun (line : Nat) => !lineIsHost line && lineChip line == chip
  let s := updCoh s (fun c => { c with
    agents := c.agents.map (fun a => if theirs a.line then { a with pending := none } else a)
    untracked := c.untracked.filter (fun x => !theirs x.2)
    acquires := updWhere (fun a => theirs a.line) (fun a => { a with done := true }) c.acquires
    asked := c.asked.map (fun x => { x with wait := x.wait.filter (fun c => c != chip) }) })
  let again := s.ops.flatMap (fun o => if storesAfar o then ((o.vals.drop 1).filter theirs).map (fun l => (o.id, l)) else [])
  let asked := fun (o : Op) => decide (2 ≤ o.prog) && o.lanes.any (fun a => a.lane + 2 == o.prog && theirs a.line)
  let s : State := { s with ops := updWhere asked (fun o => { o with prog := 0 }) s.ops }
  let s := wakePaths s (fun _ => true) (fun mem a => mem && theirs (a / 128))
  again.foldl (fun s x => s.post .storeCommit { src := .op x.1 x.2 }) s

def execPackageFailure (s : State) : Host.Outcome State Fault Refusal :=
  let chip := s.arg.chip
  .next (finish (
    if chip == s.fab.chipId || s.fab.failedChips.contains chip then s
    else
      let s : State := { s with fab := { s.fab with failedChips := s.fab.failedChips ++ [chip] } }
      let s := logError s 1 1 0x0109 s.arg.uport chip 0
      let hit := s.coh.dir.filter (fun e => lineIsOwn s e.line &&
        ((e.owner.toList ++ e.sharers ++ e.awaiting ++ e.queue.map (·.1)).any (ofChip chip) || e.lazy.any (fun x => x.1 == chip)))
      dropRequests chip ((hit.map (·.line)).foldl (failEntry chip) s)))

end Sys2Proof.Machine
end

