-- ==== Sys2Proof/Machine/HostPorts.lean ====
section
/-! DEFINITION. The hosts' accesses: CXL.mem with back-invalidation (04 R86 to R88, 09 R446, 04 R450) and the package's own
CXL.cache agent (04 R89). -/

namespace Sys2Proof.Machine

/-! ### The host directory (R88) -/

/-- Lines of a host directory's set: 32,768 sets, by line number. -/
def hostSet (s : State) (line : Nat) : List Nat :=
  dedup ((s.coh.hostDir.filter (fun e => e.half / 2 != line && e.half / 2 % 32768 == line % 32768)).map (fun e => e.half / 2))

/-- When a line's entry was last used. -/
def hostUse (s : State) (line : Nat) : Nat :=
  (s.coh.hostDir.filter (fun e => e.half / 2 == line)).foldl (fun a e => max a e.use) 0

/-- A full set of 16 loses its least recently used entry: every half that it records is called back. -/
def hostRoom (s : State) (line : Nat) : State :=
  if s.coh.hostDir.any (fun e => e.half / 2 == line) || (hostSet s line).length < 16 then s
  else match leastBy (hostUse s) (hostSet s line) with
    | none => s
    | some v => sendBisnp s v true

/-- Records that a port's host may hold a half. -/
def hostRecord (s : State) (p : Port) (half : Nat) (excl : Bool) : State :=
  let s := hostRoom s (half / 2)
  let e : HostDirEntry := ⟨p, half, excl, s.clock⟩
  updCoh s (fun c => { c with hostDir := c.hostDir.filter (fun x => !(x.port == p && x.half == half)) ++ [e] })

/-- Copies of a half in the caches behind the other port that conflict with a port's access. -/
def otherCopies (s : State) (p : Port) (half : Nat) (excl : Bool) : List HostDirEntry :=
  s.coh.hostDir.filter (fun e => e.half == half && e.port != p && (excl || e.excl))

/-- Calls them back. -/
def callBack (s : State) (es : List HostDirEntry) (inv : Bool) : State :=
  es.foldl (fun s e =>
    if s.coh.bisnp.contains (e.port, e.half, inv) then s
    else (updCoh s (fun c => { c with bisnp := c.bisnp ++ [(e.port, e.half, inv)], bisnpCount := satInc c.bisnpCount })).emit
      (.biSnp e.port e.half inv)) s

/-! ### Host reads and writes (R86, R87, R446, R450) -/

/-- The PA of a host access: the half-line of a package offset. -/
def hostPa (s : State) (offset : Nat) : Nat := s.fab.chipId * 2 ^ 47 + offset / 64 * 64

/-- Whether an offset is one that the port's DVSEC range reaches and an active region backs. -/
def hostBacked (s : State) (p : Port) (offset : Nat) : Bool := decide (offset < (s.port p).dvsecSize) && (regionOf s offset).isSome

/-- The bytes that come with CXL poison carry no meaning (entry 6). -/
def poisonBytes : List Byte := (List.range 64).map Config.poisonByte

/-- What must come back to the home before a host's access to a half of a line: the half from behind the other port, and the line from
agents of other packages, as the home's own RDX. The state that has asked for it, or none. -/
def hostWaits (s : State) (p : Port) (pa : Nat) (excl : Bool) : Option State :=
  let line := lineOf pa
  let others := otherCopies s p (pa / 64) excl
  if (dirAt s line).st.busy then some s
  else if !others.isEmpty then some (callBack s others excl)
  else if foreignHolds s line then some (serveRdx s (dirAt s line) (selfWho s line))
  else none

/-- Every L1 holder is merged and every agent's copy is collected, so that the home holds the line alone (R87). -/
def takeForHost (s : State) (line : Nat) : State := collectLine (mergeHolders s line) line

/-- A host read is an acquire at system scope; what the host then may hold is what it asked for. -/
def hostRead (s : State) (p : Port) (offset : Nat) (excl : Bool) : State × Bool :=
  if !hostBacked s p offset then (s.emit (.memData p offset poisonBytes true), true)
  else
    let pa := hostPa s offset
    let line := lineOf pa
    match hostWaits s p pa excl with
    | some s => (s, false)
    | none => match dirRoom s line with
      | (s, false) => (s, false)
      | (s, true) =>
        let s := chanRead (takeForHost (acquireLine s line) line) line (sectorMask (offsetInLine pa) 64)
        let (bs, bad) := peekPa s pa 64
        let s := hostRecord (if excl then wakeLine s line else s) p (pa / 64) excl
        if bad then ((logError s 1 4 0x0101 (Port.idx p) 0 pa).emit (.memData p offset poisonBytes true), true)
        else (s.emit (.memData p offset bs false), true)

def execHostRead (s : State) : Host.Outcome State Fault Refusal :=
  .next (match hostRead s s.arg.port s.arg.offset (s.arg.grant != .shared) with
    | (s, true) => finish s
    | (s, false) => (settle s).park .hostRead)

/-- The bytes of a host, at the home: discarded where the page is frozen. -/
def hostBytes (s : State) (p : Port) (pa : Nat) (bs : List Byte) : State :=
  if pageFrozen s pa then logError s 1 4 0x0102 (Port.idx p) 0 pa
  else homeCommit s (lineOf pa) (lineImage (offsetInLine pa) (sliceBytes bs 0 64)) (maskOf (offsetInLine pa) 64) (some (0, none))

def hostWrite (s : State) (p : Port) (offset : Nat) (bs : List Byte) : State × Bool :=
  if !hostBacked s p offset then ((logError s 1 4 0x0108 (Port.idx p) 0 (hostPa s offset)).emit (.memDone p offset), true)
  else
    let pa := hostPa s offset
    match hostWaits s p pa true with
    | some s => (s, false)
    | none => ((hostBytes (takeForHost s (lineOf pa)) p pa bs).emit (.memDone p offset), true)

def execHostWrite (s : State) : Host.Outcome State Fault Refusal :=
  .next (match hostWrite s s.arg.port s.arg.offset s.arg.bytes with
    | (s, true) => finish s
    | (s, false) => (settle s).park .hostWrite)

/-! ### BIRsp (R88) -/

/-- BIRSP: dirty data are written at the home, and the host's copy falls, or stays shared after BISnpData. A recall that waits for the
port's host goes on once the last half is back (R71). -/
def birsp (s : State) (p : Port) (half : Nat) (bs : List Byte) : State :=
  match s.coh.bisnp.find? (fun x => x.1 == p && x.2.1 == half) with
  | none => s
  | some x =>
    let s := if bs.isEmpty then s else hostBytes s p (half * 64) bs
    let keep := fun (e : HostDirEntry) =>
      if e.port == p && e.half == half then (if x.2.2 then none else some { e with excl := false }) else some e
    let s := updCoh s (fun c => { c with bisnp := c.bisnp.erase x, hostDir := c.hostDir.filterMap keep })
    if (hostConflicts s (half / 2) true).any (fun e => e.port == p) then s
    else response s (half / 2) (.host p) ⟨false, false, false⟩

def execBirsp (s : State) : Host.Outcome State Fault Refusal :=
  .next (finish (birsp s s.arg.port s.arg.offset s.arg.bytes))

/-! ### The host agent slice (R89) -/

/-- A snoop of the host, after the actions of R78 for the line: bytes that L1s of any die have stored are in the slice by then. -/
def hostSnoop (s : State) (p : Port) (line : Nat) (k : Instr) : State :=
  let s := acquireLine s line
  let d := hostDie line
  let ds := pointDies d line
  match (agentAt s d line).filter (fun a => a.st.holds) with
  | none => s.emit (.snpResp p line [])
  | some a =>
    let s := homeSetPoison (homeWrite s line 0 a.data.bytes) line a.data.poison
    let s := match k with
      | .snpcur => s
      | .snpdata =>
        setAgent (demoteDie s ds line) { a with st := .s }
      | _ =>
        let s := dropCopies s ds line
        if a.pending.isSome then setAgent s { a with st := .i } else dropAgent s d line
    s.emit (.snpResp p line a.data.bytes)

def execSnpdata (s : State) : Host.Outcome State Fault Refusal :=
  .next (finish (hostSnoop s s.arg.port s.arg.line .snpdata))
def execSnpinv (s : State) : Host.Outcome State Fault Refusal :=
  .next (finish (hostSnoop s s.arg.port s.arg.line .snpinv))
def execSnpcur (s : State) : Host.Outcome State Fault Refusal :=
  .next (finish (hostSnoop s s.arg.port s.arg.line .snpcur))

/-- HOST_CACHE_RESPONSE: RdShared gives S, or E where the host says so; RdOwn and RdOwnNoData give E. Without data the slice keeps its
own; where a snoop has taken them meanwhile, it asks again (R89). -/
def hostAnswer (s : State) (line : Nat) (bs : List Byte) (g : Grant) : State :=
  let d := hostDie line
  match agentAt s d line with
  | none => s
  | some a => match a.pending with
    | none => s
    | some k =>
      let st := if k == .rd && g == .shared then Moesi.s else .e
      if bs.isEmpty && !a.st.holds then dropAgent s d line
      else
        let data : LineData := if bs.isEmpty then a.data else { bytes := sliceBytes bs 0 128, poison := 0, depth := 0 }
        setAgent (homeWrite s line 0 data.bytes) { a with st := st, data := data, pending := none }

def execHostCacheResponse (s : State) : Host.Outcome State Fault Refusal :=
  .next (finish (hostAnswer s s.arg.line s.arg.bytes s.arg.grant))

end Sys2Proof.Machine
end

