-- ==== Sys2Proof/Machine/Integer.lean ====
section
/-! DEFINITION. Integer and address instructions, opcodes 0x20 to 0x52 (14). -/

namespace Sys2Proof.Machine

/-! ### Elements and types (R226, R227, R322) -/

/-- Elements, width and signedness of an integer type. -/
def tyCount (t : Nat) : Nat := if t == 3 || t == 4 then 2 else if t == 5 || t == 6 then 4 else 1
def tyWidth (t : Nat) : Nat := if t == 3 || t == 4 then 16 else if t == 5 || t == 6 then 8 else if isW64 t then 64 else 32

/-- Element j of width w. -/
def elemCode (w v j : Nat) : Nat := v / 2 ^ (w * j) % 2 ^ w

/-- An element read with a signedness. -/
def elemInt (w : Nat) (signed : Bool) (v j : Nat) : Int := if signed then sxt w (elemCode w v j) else (elemCode w v j : Nat)

/-- The exact result in w bits: wrapped, or saturated to the type's range (R227). -/
def fit (w : Nat) (signed sat : Bool) (x : Int) : Nat :=
  if !sat then wrapN w x
  else if signed then wrapN w (max (-(2 ^ (w - 1) : Nat) : Int) (min ((2 ^ (w - 1) : Nat) - 1) x))
  else wrapN w (max 0 (min ((2 ^ w : Nat) - 1) x))

/-- A word of n elements of width w. -/
def packElems (n w : Nat) (f : Nat → Nat) : Nat := (List.range n).foldl (fun a j => a + f j % 2 ^ w * 2 ^ (w * j)) 0

/-- An immediate for the type: widened to 64 bits for n64 and i64 (R322). -/
def immFor (t imm : Nat) : Nat := if t == 0xC then wrapN 64 (sxt 32 imm) else imm

/-- Sources of an integer instruction whose operands are as wide as its type. -/
def intA (c : Iss) (f : AForm) (l : Nat) : Nat := c.srcA f (tyRegs f.tyN) l
def intB (c : Iss) (f : AForm) (l : Nat) : Nat := c.srcB f (tyRegs f.tyN) (immFor f.tyN f.imm) l

/-- One word of D by elements: each element from the exact values of A, B and C. -/
def elemOp (f : AForm) (g : Int → Int → Int → Int) (c : Iss) (l : Nat) : Nat :=
  let t := f.tyN
  let w := tyWidth t
  let sg := isSigned t
  let (va, vb, vc) := (intA c f l, intB c f l, c.srcC f 1 l)
  packElems (tyCount t) w (fun j => fit w sg f.satBit (g (elemInt w sg va j) (elemInt w sg vb j) (elemInt w sg vc j)))

/-- An instruction with one result of w registers and no flag. -/
def intExec (op w : Nat) (f : AForm) (val : Iss → Nat → Nat) (s : State) : Host.Outcome State Fault Refusal :=
  aluExec op f (fun c => [.reg f.dst w (val c)]) (fun _ _ => 0) s

/-! ### Arithmetic (R323 to R326) -/

def execAdd (f : AForm) (s : State) := intExec 0x20 1 f (elemOp f (fun a b _ => a + b)) s
def execSub (f : AForm) (s : State) := intExec 0x21 1 f (elemOp f (fun a b _ => a - b)) s
def execAdd64 (f : AForm) (s : State) := intExec 0x24 2 f (elemOp f (fun a b _ => a + b)) s
def execSub64 (f : AForm) (s : State) := intExec 0x25 2 f (elemOp f (fun a b _ => a - b)) s
def execMul (f : AForm) (s : State) := intExec 0x26 1 f (elemOp f (fun a b _ => a * b)) s
def execMad (f : AForm) (s : State) := intExec 0x29 1 f (elemOp f (fun a b c => a * b + c)) s
def execMin (f : AForm) (s : State) := intExec 0x2D 1 f (elemOp f (fun a b _ => if a ≤ b then a else b)) s
def execMax (f : AForm) (s : State) := intExec 0x2E 1 f (elemOp f (fun a b _ => if b ≤ a then a else b)) s
def execClamp (f : AForm) (s : State) := intExec 0x2F 1 f (elemOp f (fun a b c => min (max a b) c)) s
def execAbs (f : AForm) (s : State) := intExec 0x30 1 f (elemOp f (fun a _ _ => (a.natAbs : Int))) s
def execNeg (f : AForm) (s : State) := intExec 0x31 1 f (elemOp f (fun a _ _ => -a)) s

/-- The carry predicate of `addc` and `subb`, held in AUX[2:0] (R324). -/
def carryReg (f : AForm) : Nat := f.aux.toNat % 8

def carryIn (c : Iss) (f : AForm) (l : Nat) : Int :=
  if f.sub % 2 == 1 then 0 else if c.h.pcode (carryReg f) l == .t then 1 else 0

/-- The exact sum of `addc`, and the exact difference of `subb`. -/
def addcExact (c : Iss) (f : AForm) (l : Nat) : Int := (intA c f l : Int) + (intB c f l : Int) + carryIn c f l
def subbExact (c : Iss) (f : AForm) (l : Nat) : Int := (intA c f l : Int) - (intB c f l : Int) - carryIn c f l

def execAddc (f : AForm) (s : State) :=
  aluExec 0x22 f (fun c => [.reg f.dst 1 (fun l => wrapN 32 (addcExact c f l)),
    .pred (carryReg f) (fun l => Tri.ofBool (decide (2 ^ 32 ≤ addcExact c f l)))]) (fun _ _ => 0) s

def execSubb (f : AForm) (s : State) :=
  aluExec 0x23 f (fun c => [.reg f.dst 1 (fun l => wrapN 32 (subbExact c f l)),
    .pred (carryReg f) (fun l => Tri.ofBool (decide (subbExact c f l < 0)))]) (fun _ _ => 0) s

/-- The high half of the exact product of each element (R325). -/
def mulhiVal (f : AForm) (c : Iss) (l : Nat) : Nat :=
  let w := tyWidth f.tyN
  let sg := isSigned f.tyN
  packElems (tyCount f.tyN) w (fun j =>
    wrapN (2 * w) (elemInt w sg (intA c f l) j * elemInt w sg (intB c f l) j) / 2 ^ w)

def execMulhi (f : AForm) (s : State) := intExec 0x27 1 f (mulhiVal f) s

def wideProduct (f : AForm) (c : Iss) (l : Nat) : Int :=
  elemInt 32 (isSigned f.tyN) (intA c f l) 0 * elemInt 32 (isSigned f.tyN) (intB c f l) 0

def execMulw (f : AForm) (s : State) := intExec 0x28 2 f (fun c l => wrapN 64 (wideProduct f c l)) s
def execMadw (f : AForm) (s : State) := intExec 0x2A 2 f (fun c l => wrapN 64 (wideProduct f c l + (c.srcC f 2 l : Int))) s

/-- Quotient by truncation; a zero divisor gives all ones (R326). -/
def divVal (f : AForm) (c : Iss) (l : Nat) : Nat :=
  let sg := isSigned f.tyN
  let a := elemInt 32 sg (intA c f l) 0
  let b := elemInt 32 sg (intB c f l) 0
  if b = 0 then 0xFFFFFFFF else fit 32 sg f.satBit (a.tdiv b)

/-- Remainder with the dividend's sign; a zero divisor gives the dividend (R326). -/
def remVal (f : AForm) (c : Iss) (l : Nat) : Nat :=
  let sg := isSigned f.tyN
  let a := elemInt 32 sg (intA c f l) 0
  let b := elemInt 32 sg (intB c f l) 0
  if b = 0 then wrapN 32 a else wrapN 32 (a.tmod b)

/-- The visible lanes of a set whose divisor is zero. -/
def zeroLanes (c : Iss) (f : AForm) (m : LaneSet) : LaneSet :=
  laneSet (((lanesOf m).filter (fun l => intB c f l % 2 ^ 32 == 0)).map (visLane c.prot))

/-- `div` and `rem`: INT_DIVIDE for a zero divisor unless `.nz` (R326). -/
def divExec (op : Nat) (f : AForm) (val : Iss → Nat → Nat) (s : State) : Host.Outcome State Fault Refusal :=
  issueA op f (fun c s =>
    let sh := aShape op (aRule c.fieldCtx op f) f
    let m := c.execMask sh.allScalar (f.gsense != 0)
    let z := zeroLanes c f m
    if f.sub % 2 == 0 && z != 0 then c.trap s { code := tcIntDivide, mask := if sh.allScalar then c.act else z }
    else complete s c sh m [.reg f.dst 1 (val c)] 0 f.len) s

def execDiv (f : AForm) (s : State) := divExec 0x2B f (divVal f) s
def execRem (f : AForm) (s : State) := divExec 0x2C f (remVal f) s

/-! ### Logic, shifts and bit fields (R327 to R330) -/

/-- A bitwise instruction on words. -/
def logicOp (op : Nat) (f : AForm) (g : Word → Word → Word → Word) (s : State) :=
  intExec op 1 f (fun c l => (g (BitVec.ofNat 32 (intA c f l)) (BitVec.ofNat 32 (intB c f l))
    (BitVec.ofNat 32 (c.srcC f 1 l))).toNat) s

def execAnd (f : AForm) (s : State) := logicOp 0x32 f (fun a b _ => a &&& b) s
def execOr (f : AForm) (s : State) := logicOp 0x33 f (fun a b _ => a ||| b) s
def execXor (f : AForm) (s : State) := logicOp 0x34 f (fun a b _ => a ^^^ b) s
def execAndn (f : AForm) (s : State) := logicOp 0x35 f (fun a b _ => a &&& ~~~b) s
def execNot (f : AForm) (s : State) := logicOp 0x36 f (fun a _ _ => ~~~a) s

/-- A 2-input function given by its truth table, indexed by (b << 1) | a. -/
def tableWord (t : Nat) (a b : Word) : Word :=
  (if bitAt t 0 then ~~~b &&& ~~~a else 0) ||| (if bitAt t 1 then ~~~b &&& a else 0) |||
  (if bitAt t 2 then b &&& ~~~a else 0) ||| (if bitAt t 3 then b &&& a else 0)

/-- `bitf`: f0 in CTL[54:51] where C is 0, f1 in CTL[50:47] where C is 1 (R327). -/
def execBitf (f : AForm) (s : State) :=
  logicOp 0x37 f (fun a b c => (c &&& tableWord (f.ctl.toNat % 16) a b) ||| (~~~c &&& tableWord (f.ctl.toNat / 16) a b)) s

/-- One element shifted, by kind: 0 left, 1 right logical, 2 right arithmetic (R328). -/
def shiftElem (kind w x n : Nat) : Nat :=
  if kind == 0 then (if w ≤ n then 0 else x * 2 ^ n % 2 ^ w)
  else if kind == 1 then (if w ≤ n then 0 else x / 2 ^ n)
  else wrapN w (sxt w x / ((2 ^ min n w : Nat) : Int))

def shiftVal (kind : Nat) (f : AForm) (c : Iss) (l : Nat) : Nat :=
  let w := tyWidth f.tyN
  packElems (tyCount f.tyN) w (fun j => shiftElem kind w (elemCode w (intA c f l) j) (elemCode w (intB c f l) j))

def execShl (f : AForm) (s : State) := intExec 0x38 1 f (shiftVal 0 f) s
def execShr (f : AForm) (s : State) := intExec 0x39 1 f (shiftVal 1 f) s
def execSar (f : AForm) (s : State) := intExec 0x3A 1 f (shiftVal 2 f) s
def execRot (f : AForm) (s : State) := logicOp 0x3B f (fun a b _ => a.rotateLeft (b.toNat % 32)) s

/-- `dsh`: one half of the shifted 64-bit value C:A (R328). -/
def dshVal (f : AForm) (c : Iss) (l : Nat) : Nat :=
  let x := c.srcC f 1 l * 2 ^ 32 + intA c f l
  let n := intB c f l % 64
  if f.sub == 0 then x / 2 ^ n % 2 ^ 32 else x * 2 ^ n % 2 ^ 64 / 2 ^ 32

def execDsh (f : AForm) (s : State) := intExec 0x3C 1 f (dshVal f) s

/-- A 64-bit shift's count is a 32-bit operand. -/
def shift64Val (kind : Nat) (f : AForm) (c : Iss) (l : Nat) : Nat := shiftElem kind 64 (intA c f l) (c.srcB f 1 f.imm l)

def execShl64 (f : AForm) (s : State) := intExec 0x3D 2 f (shift64Val 0 f) s
def execShr64 (f : AForm) (s : State) := intExec 0x3E 2 f (shift64Val (if isSigned f.tyN then 2 else 1) f) s

/-- Position and length of a field word (R329). -/
def fieldPos (w : Nat) : Nat := w % 32
def fieldLen (w : Nat) : Nat := min (w / 256 % 64) (32 - fieldPos w)

def bxtVal (f : AForm) (c : Iss) (l : Nat) : Nat :=
  let fw := intB c f l
  let n := fieldLen fw
  let x := intA c f l / 2 ^ fieldPos fw % 2 ^ n
  if n == 0 then 0 else if isSigned f.tyN then wrapN 32 (sxt n x) else x

def execBxt (f : AForm) (s : State) := intExec 0x3F 1 f (bxtVal f) s

/-- A word with a field's bits set. -/
def fieldMask (fw : Nat) : Nat := (2 ^ fieldLen fw - 1) * 2 ^ fieldPos fw

def binsVal (f : AForm) (c : Iss) (l : Nat) : Nat :=
  let fw := c.srcC f 1 l
  let m := BitVec.ofNat 32 (fieldMask fw)
  ((BitVec.ofNat 32 (intB c f l) &&& ~~~m) ||| (BitVec.ofNat 32 (intA c f l * 2 ^ fieldPos fw) &&& m)).toNat

def execBins (f : AForm) (s : State) := intExec 0x40 1 f (binsVal f) s
def execBfset (f : AForm) (s : State) := intExec 0x41 1 f (fun c l => fieldMask (intA c f l)) s

def sextVal (f : AForm) (c : Iss) (l : Nat) : Nat :=
  let n := intB c f l
  if 31 ≤ n then intA c f l else wrapN 32 (sxt (n + 1) (intA c f l))

def execSext (f : AForm) (s : State) := intExec 0x42 1 f (sextVal f) s

def bitCount (v : Nat) : Nat := ((List.range 32).filter (fun i => bitAt v i)).length
def leadingZeros (v : Nat) : Nat := ((List.range 32).takeWhile (fun i => !bitAt v (31 - i))).length
def trailingZeros (v : Nat) : Nat := ((List.range 32).takeWhile (fun i => !bitAt v i)).length
def bitReverse (v : Nat) : Nat := (List.range 32).foldl (fun a i => a + (if bitAt v i then 2 ^ (31 - i) else 0)) 0

def execBcnt (f : AForm) (s : State) := intExec 0x43 1 f (fun c l => bitCount (intA c f l)) s
def execClz (f : AForm) (s : State) := intExec 0x44 1 f (fun c l => leadingZeros (intA c f l)) s
def execCtz (f : AForm) (s : State) := intExec 0x45 1 f (fun c l => trailingZeros (intA c f l)) s
def execBitrev (f : AForm) (s : State) := intExec 0x46 1 f (fun c l => bitReverse (intA c f l)) s

/-- One byte of `bshuf` by its selector (R330). -/
def shufByte (a sel : Nat) : Nat :=
  let b := a / 2 ^ (8 * (sel % 4)) % 256
  let mode := sel / 4 % 4
  if mode == 0 then b else if mode == 1 then 0 else if mode == 2 then (if 128 ≤ b then 255 else 0) else 255

def bshufVal (f : AForm) (c : Iss) (l : Nat) : Nat := packElems 4 8 (fun i => shufByte (intA c f l) (intB c f l / 2 ^ (8 * i) % 256))

def execBshuf (f : AForm) (s : State) := intExec 0x47 1 f (bshufVal f) s

/-! ### Compare, select and moves (R331 to R334) -/

/-- A comparison by condition code (R332). -/
def cmpVal (f : AForm) (c : Iss) (l : Nat) : Tri :=
  let w := tyWidth f.tyN
  let sg := isSigned f.tyN
  Tri.ofBool (relHolds f.sub (elemInt w sg (intA c f l) 0 - elemInt w sg (intB c f l) 0))

def execCmp (f : AForm) (s : State) := aluExec 0x48 f (fun c => [.pred (predReg f.dst) (cmpVal f c)]) (fun _ _ => 0) s
def execCmp64 (f : AForm) (s : State) := aluExec 0x49 f (fun c => [.pred (predReg f.dst) (cmpVal f c)]) (fun _ _ => 0) s

/-- `sel` (R333): with SUB 010 a U lane keeps what D holds. -/
def selVal (f : AForm) (c : Iss) (l : Nat) : Nat :=
  match c.h.pcode (predReg f.srca) l with
  | .t => c.srcB f 1 f.imm l
  | .f => c.srcC f 1 l
  | .u => if f.sub == 0 then c.srcC f 1 l else if f.sub == 1 then c.srcB f 1 f.imm l else (c.opWord f.dst 0 l).toNat

def execSel (f : AForm) (s : State) := intExec 0x4A 1 f (selVal f) s

def execMov (f : AForm) (s : State) := intExec 0x4B 1 f (fun c l => if f.immForm then f.imm else c.srcA f 1 l) s

/-- The widened immediate of `mov64` (R331). -/
def mov64Imm (f : AForm) : Nat :=
  if f.tyN == 0xA then f.imm * 2 ^ 32 else if f.tyN == 0xC then wrapN 64 (sxt 32 f.imm) else f.imm

def execMov64 (f : AForm) (s : State) := intExec 0x4C 2 f (fun c l => if f.immForm then mov64Imm f else c.srcA f 2 l) s

def leaVal (f : AForm) (c : Iss) (l : Nat) : Nat :=
  wrapN 64 ((c.srcA f 2 l : Int) + elemInt 32 (isSigned f.tyN) (c.srcB f 1 f.imm l) 0 * (2 ^ (f.aux.toNat % 8) : Nat))

def execLea (f : AForm) (s : State) := intExec 0x4D 2 f (leaVal f) s

/-! ### Sums of differences, dot products, conversion (R335, R336) -/

def sadVal (f : AForm) (c : Iss) (l : Nat) : Nat :=
  let w := tyWidth f.tyN
  let sg := isSigned f.tyN
  ((List.range (tyCount f.tyN)).foldl (fun a j =>
    a + (elemInt w sg (intA c f l) j - elemInt w sg (intB c f l) j).natAbs) (c.srcC f 1 l)) % 2 ^ 32

def execSad (f : AForm) (s : State) := intExec 0x4E 1 f (sadVal f) s

/-- A dot product of n elements of width w; `.mix` gives B the opposite signedness (R335). -/
def dotVal (n w : Nat) (f : AForm) (c : Iss) (l : Nat) : Nat :=
  let sa := isSigned f.tyN
  let sb := if f.sub % 2 == 1 then !sa else sa
  let sg := sa || sb
  let x := (List.range n).foldl (fun (a : Int) j => a + elemInt w sa (intA c f l) j * elemInt w sb (intB c f l) j)
    (elemInt 32 sg (c.srcC f 1 l) 0)
  fit 32 sg f.satBit x

def execDp2 (f : AForm) (s : State) := intExec 0x4F 1 f (dotVal 2 16 f) s
def execDp4 (f : AForm) (s : State) := intExec 0x50 1 f (dotVal 4 8 f) s
def execDp8 (f : AForm) (s : State) := intExec 0x51 1 f (dotVal 8 4 f) s

/-- `cvti` (R336). -/
def cvtiVal (f : AForm) (c : Iss) (l : Nat) : Nat :=
  let st := f.aux.toNat % 16
  let dt := f.tyN
  let a := c.srcA f (tyRegs st) l
  let b := c.srcB f 1 f.imm l
  let sw := tyWidth st
  let ss := isSigned st
  let conv := fun (x : Int) => fit (tyWidth dt) (isSigned dt) f.satBit x
  match cvtiRow st dt with
  | .whole => conv (elemInt sw ss a 0)
  | .pack =>
    let n := tyCount st
    packElems (2 * n) (tyWidth dt) (fun j => conv (if j < n then elemInt sw ss a j else elemInt sw ss b (j - n)))
  | .select =>
    let n := tyCount dt
    packElems n (tyWidth dt) (fun j => conv (elemInt sw ss a (n * (f.sub % 2) + j)))
  | _ => packElems (tyCount dt) (tyWidth dt) (fun j => conv (elemInt sw ss a j))

def execCvti (f : AForm) (s : State) := intExec 0x52 (tyRegs f.tyN) f (cvtiVal f) s

end Sys2Proof.Machine
end

