-- ==== Sys2Proof/Machine/Lanes.lean ====
section
/-! DEFINITION. Lane-exchange and predicate instructions, opcodes 0x90 to 0x9E (16 R366 to R373). -/

namespace Sys2Proof.Machine

/-! ### Lanes by visible index (R367, R195) -/

/-- A in visible lane k, on the side of physical lane l. -/
def aAt (c : Iss) (f : AForm) (l k : Nat) : Nat := c.srcA f (tyRegs f.tyN) (physLane c.prot l k)

/-- The active visible lanes, ascending. -/
def activeVis (c : Iss) : List Nat := lanesOf c.act

/-- An exchange that writes every active lane of D. -/
def exchange (op : Nat) (f : AForm) (val : Iss → Nat → Nat) (s : State) : Host.Outcome State Fault Refusal :=
  intExec op (tyRegs f.tyN) f val s

/-- A[k] for an index in range, and 0 past the last lane. -/
def pickLane (c : Iss) (f : AForm) (l k : Nat) : Nat := if k < visCount c.prot then aAt c f l k else 0

/-- Whether a lane of a set reads a visible lane of another beat of 32 lanes (R354). -/
def farBeat (c : Iss) (m : LaneSet) (src : Nat → Option Nat) : Bool :=
  (lanesOf m).any (fun l => (src l).elim false (fun k => decide (k < visCount c.prot) && physLane c.prot l k / 32 != l / 32))

/-- An exchange in which each lane names the lane that it reads. -/
def pickExec (op : Nat) (f : AForm) (idx : Iss → Nat → Nat) (s : State) : Host.Outcome State Fault Refusal :=
  aluExecFar op f (fun c m => farBeat c m (fun l => some (idx c l))) (fun c => [.reg f.dst (tyRegs f.tyN) (fun l => pickLane c f l (idx c l))])
    (fun _ _ => 0) s

def execLperm (f : AForm) (s : State) := pickExec 0x90 f (fun c l => c.srcB f 1 0 l) s
def execLbcast (f : AForm) (s : State) := pickExec 0x92 f (fun c l => c.srcB f 1 f.imm l) s

/-- The lane that `lpush` leaves in visible lane j on a side: the highest active lane whose B names j. -/
def pushedFrom (c : Iss) (f : AForm) (side j : Nat) : Option Nat :=
  ((activeVis c).filter (fun i => c.srcB f 1 0 (physLane c.prot side i) == j)).getLast?

def pushLanes (c : Iss) (f : AForm) : LaneSet :=
  laneSet ((lanesOf (physMask c.prot c.act)).filter (fun l => (pushedFrom c f (sideOf c.prot l) (visLane c.prot l)).isSome))

def execLpush (f : AForm) (s : State) :=
  aluExecFar 0x91 f (fun c _ => farBeat c (pushLanes c f) (fun l => pushedFrom c f (sideOf c.prot l) (visLane c.prot l)))
    (fun c => (List.range (tyRegs f.tyN)).map (fun k =>
    Write.regAt (vecReg f.dst + k) (pushLanes c f) (fun l =>
      aAt c f l ((pushedFrom c f (sideOf c.prot l) (visLane c.prot l)).getD 0) / 2 ^ (32 * k)))) (fun _ _ => 0) s

/-- The lowest active lane with the same A. -/
def matchLane (c : Iss) (f : AForm) (l : Nat) : Nat :=
  ((activeVis c).find? (fun i => aAt c f l i == aAt c f l (visLane c.prot l))).getD 0

def execLmatch (f : AForm) (s : State) := exchange 0x93 f (fun c l => matchLane c f l) s
def execLfirst (f : AForm) (s : State) := exchange 0x94 f (fun c l => aAt c f l ((activeVis c).head?.getD 0)) s

/-- The lanes of `lcomp` that are T on a side, and where active lane i of D takes its value. -/
def trueLanes (c : Iss) (f : AForm) (side : Nat) : List Nat :=
  (activeVis c).filter (fun i => c.h.pcode (predReg f.srcb) (physLane c.prot side i) == .t)

def compFrom (c : Iss) (f : AForm) (l : Nat) : Option Nat :=
  ((activeVis c).idxOf? (visLane c.prot l)).bind (fun i => (trueLanes c f (sideOf c.prot l))[i]?)

def compLanes (c : Iss) (f : AForm) : LaneSet :=
  laneSet ((lanesOf (physMask c.prot c.act)).filter (fun l => (compFrom c f l).isSome))

def execLcomp (f : AForm) (s : State) :=
  aluExec 0x95 f (fun c => (List.range (tyRegs f.tyN)).map (fun k =>
    Write.regAt (vecReg f.dst + k) (compLanes c f) (fun l => aAt c f l ((compFrom c f l).getD 0) / 2 ^ (32 * k))))
    (fun _ _ => 0) s

/-! ### Scan and reduce (R369, R370) -/

/-- A float result that is a NaN is canonical (R230); under ftz a subnormal is read as zero. -/
def canonOne (ft : Fmt) (z : Bool) (x : Nat) : Nat × FpFlags :=
  if (ft.val x).isNan then (ft.nanCode, flIf (ft.val x).isSnan flInv) else (ft.flush z x, flNone)

/-- Two values combined by an operation of R369. -/
def combine (sub t : Nat) (z : Bool) (a b : Nat) : Nat × FpFlags :=
  let w := fWidth t
  if isF t || t == 0xA then
    (if sub == 0 then fAdd (fmtOf t) .rne z a b else fMinMax (fmtOf t) (sub == 2) z [a, b])
  else
    let sg := isSigned t
    (if sub == 0 then (a + b) % 2 ^ w
     else if sub == 1 then (if elemInt 32 sg a 0 ≤ elemInt 32 sg b 0 then a else b)
     else if sub == 2 then (if elemInt 32 sg b 0 ≤ elemInt 32 sg a 0 then a else b)
     else if sub == 3 then Nat.land a b else if sub == 4 then Nat.lor a b else Nat.xor a b, flNone)

/-- The exclusive identity. -/
def identity (sub t : Nat) : Nat :=
  if isF t || t == 0xA then
    (if sub == 1 then (fmtOf t).infCode else if sub == 2 then negInf (fmtOf t) else 0)
  else if sub == 1 then (if isSigned t then 0x7FFFFFFF else 0xFFFFFFFF)
  else if sub == 2 then (if isSigned t then 0x80000000 else 0)
  else if sub == 3 then 0xFFFFFFFF else 0

/-- The values of a list combined in order; none for the empty list. -/
def combineAll (sub t : Nat) (z : Bool) : List Nat → Option (Nat × FpFlags)
  | [] => none
  | x :: r =>
    let first := if isF t || t == 0xA then canonOne (fmtOf t) z x else (x, flNone)
    some (r.foldl (fun a y => let (v, fl) := combine sub t z a.1 y; (v, a.2 ||| fl)) first)

/-- The segment size that AUX names, over visible lanes. -/
def segOf (f : AForm) : Nat := segSize (f.aux.toNat % 16)

/-- The active visible lanes of the segment of lane i. -/
def segLanes (c : Iss) (f : AForm) (i : Nat) : List Nat :=
  let n := segOf f
  (activeVis c).filter (fun k => k / n == i / n)

def scanLane (f : AForm) (c : Iss) (l : Nat) : Nat × FpFlags :=
  let i := visLane c.prot l
  let ls := (segLanes c f i).filter (fun k => if f.aux.getLsbD 4 then decide (k < i) else decide (k ≤ i))
  (combineAll f.sub f.tyN c.ftz (ls.map (aAt c f l))).getD (identity f.sub f.tyN, flNone)

def execScan (f : AForm) (s : State) := laneExec 0x96 (tyRegs f.tyN) f (scanLane f) s

/-- One level of the pairwise tree of R245. -/
def treeLevel (ft : Fmt) : List (Option Nat) → List (Option Nat) × FpFlags
  | [] => ([], flNone)
  | [x] => ([x], flNone)
  | x :: y :: r =>
    let (q, fl) := treeLevel ft r
    match x, y with
    | some a, some b => let (v, g) := fAdd ft .rne false a b; (some v :: q, fl ||| g)
    | some a, none => (some a :: q, fl)
    | none, y => (y :: q, fl)

/-- The lane route: the tree, by a bound on its height. -/
def treeSum (ft : Fmt) : Nat → List (Option Nat) → FpFlags → Nat × FpFlags
  | 0, xs, fl => ((xs.head?.getD none).getD 0, fl)
  | k + 1, xs, fl =>
    if xs.length ≤ 1 then ((xs.head?.getD none).getD 0, fl)
    else let (ys, g) := treeLevel ft xs; treeSum ft k ys (fl ||| g)

/-- The matrix route: exact sums of 32 lanes, then one rounding of each into the accumulator. -/
def groupedSum (ft : Fmt) : Nat → List (Option Nat) → Nat → FpFlags → Nat × FpFlags
  | 0, _, acc, fl => (acc, fl)
  | k + 1, xs, acc, fl =>
    let vs := (xs.take 32).filterMap (fun x => x.map ft.val)
    let snan := vs.any FVal.isSnan
    let (g, f1) := sumRound ft .rne false vs
    let (a, f2) := fAdd ft .rne false acc g
    groupedSum ft k (xs.drop 32) a (fl ||| f1 ||| f2 ||| flIf snan flInv)

/-- `red` over the segment of a lane (R370); float sums honour subnormals on both routes. -/
def redLane (f : AForm) (c : Iss) (l : Nat) : Nat × FpFlags :=
  let t := f.tyN
  let i := visLane c.prot l
  let n := segOf f
  let ls := segLanes c f i
  if (isF t || t == 0xA) && f.sub == 0 then
    let ft := fmtOf t
    let xs := (List.range n).map (fun k => if ls.contains (i / n * n + k) then some (aAt c f l (i / n * n + k)) else none)
    let (v, fl) := if c.rcd.redme then groupedSum ft ((n + 31) / 32) xs 0 flNone else treeSum ft 8 xs flNone
    let (w, g) := canonOne ft false v
    (w, fl ||| g)
  else (combineAll f.sub t c.ftz (ls.map (aAt c f l))).getD (0, flNone)

def execRed (f : AForm) (s : State) := laneExec 0x97 (tyRegs f.tyN) f (redLane f) s

/-! ### Predicates (R372, R373) -/

def Tri.and : Tri → Tri → Tri
  | .f, _ => .f
  | _, .f => .f
  | .t, .t => .t
  | _, _ => .u

def Tri.or : Tri → Tri → Tri
  | .t, _ => .t
  | _, .t => .t
  | .f, .f => .f
  | _, _ => .u

def Tri.xor : Tri → Tri → Tri
  | .u, _ => .u
  | _, .u => .u
  | a, b => Tri.ofBool (a != b)

def Tri.not : Tri → Tri
  | .t => .f
  | .f => .t
  | .u => .u

def Tri.code : Tri → Nat
  | .f => 0
  | .t => 1
  | .u => 2

def pA (c : Iss) (f : AForm) (l : Nat) : Tri := c.h.pcode (predReg f.srca) l
def pB (c : Iss) (f : AForm) (l : Nat) : Tri := c.h.pcode (predReg f.srcb) l

/-- An instruction that writes a predicate. -/
def predExec (op : Nat) (f : AForm) (val : Iss → Nat → Tri) (s : State) : Host.Outcome State Fault Refusal :=
  aluExec op f (fun c => [.pred (predReg f.dst) (val c)]) (fun _ _ => 0) s

def execPand (f : AForm) (s : State) := predExec 0x98 f (fun c l => (pA c f l).and (pB c f l)) s
def execPor (f : AForm) (s : State) := predExec 0x99 f (fun c l => (pA c f l).or (pB c f l)) s
def execPxor (f : AForm) (s : State) := predExec 0x9A f (fun c l => (pA c f l).xor (pB c f l)) s
def execPnot (f : AForm) (s : State) := predExec 0x9B f (fun c l => (pA c f l).not) s

def psetVal (f : AForm) (c : Iss) (l : Nat) : Tri :=
  let a := c.srcA f 1 l
  if f.sub == 0 then Tri.ofBool (a != 0)
  else if f.sub == 1 then .t else if f.sub == 2 then .f else if f.sub == 3 then .u else triOfCode (a % 4)

def execPset (f : AForm) (s : State) := predExec 0x9C f (psetVal f) s

/-- The 192-bit value of a predicate over the lanes of one side (R251). -/
def predValue (c : Iss) (r side : Nat) : Nat :=
  (List.range (visCount c.prot)).foldl (fun a j => a + (c.h.pcode r (physLane c.prot side j)).code * 4 ^ j) 0

/-- Code l of a predicate moved from a vector or six scalars. -/
def pmovCode (f : AForm) (c : Iss) (l : Nat) : Tri :=
  if isPred f.srca then pA c f l
  else if isVec f.srca then triOfCode (c.srcA f 1 l % 4)
  else triOfCode (c.val f.srca 6 0 0 (sideOf c.prot l) / 4 ^ visLane c.prot l % 4)

def pmovWrites (f : AForm) (c : Iss) : List Write :=
  if isPred f.dst then [.pred (predReg f.dst) (pmovCode f c)]
  else if isVec f.dst then [.reg f.dst 1 (fun l => (pA c f l).code)]
  else [.reg f.dst 6 (fun l => predValue c (predReg f.srca) (sideOf c.prot l))]

def execPmov (f : AForm) (s : State) := aluExec 0x9D f (pmovWrites f) (fun _ _ => 0) s

def pcntVal (f : AForm) (c : Iss) (l : Nat) : Nat :=
  let want : Tri := if f.sub == 0 then .t else if f.sub == 1 then .f else .u
  ((activeVis c).filter (fun i => c.h.pcode (predReg f.srca) (physLane c.prot (sideOf c.prot l) i) == want)).length

def execPcnt (f : AForm) (s : State) := intExec 0x9E 1 f (pcntVal f) s

end Sys2Proof.Machine
end

