-- ==== Sys2Proof/Machine/Matrix.lean ====
section
/-! DEFINITION. The matrix engine: opcodes 0xC5 to 0xD2 (18 R402 to R410), its queue and owner (08 R183 to R185), and the event
MATRIX_ENGINE_STEP. -/

namespace Sys2Proof.Machine

/-! ### Issue -/

/-- The limits on K of a bank's format: the largest, and what K is a multiple of (R402). -/
def bankLimit (fmt : Nat) : Nat × Nat :=
  if fmt ≤ 1 then (128, 32) else if fmt == 6 || fmt == 9 || fmt == 11 then (512, 128)
  else if fmt == 12 then (1024, 256) else (256, 32)

/-- The end of a matrix instruction's issue: it enters its core's queue, and the engine has one more step to make. -/
def queueMatrix (s : State) (o : Op) : State :=
  ((addOp s 1 o).updCore o.core (fun k => { k with mqueue := k.mqueue ++ [o.id] })).post .matrixEngineStep { core := o.core }

/-- The issue of a matrix instruction: the checks made at issue, what it captures, its place in the queue. `once` marks the
forms that run once. -/
def matIssue (op : Nat) (f : MForm) (what : Instr) (once : Bool) (check : Iss → Option TrapReport) (cap : Iss → Op → Op)
    (s : State) : Host.Outcome State Fault Refusal :=
  issueMS op f (fun c s =>
    if c.act == 0 && !(once && f.gsense == 0) then finish (retire s c.inst c.slot c.p.pc 16)
    else if c.h.countFull 1 || decide (64 ≤ (s.core c.h.core).mqueue.length) then stall s
    else match check c with
      | some t => c.trap s t
      | none =>
        let sh := mShape op f
        beginAsync s c sh (allocWrites sh false) 16 (fun s =>
          let (id, s) := s.fresh
          queueMatrix s (cap c { newOp s c what id with active := if once then 1 else c.act }))) s

def noCheck (_ : Iss) : Option TrapReport := none
def noCapture (_ : Iss) (o : Op) : Op := o

def badOperand : TrapReport := { code := tcIllegalOperand, info := 0x13 }

/-- Bytes of the image of a bank: the columns, and the scales of an MX format (R402). -/
def imageBytes (fmt k : Nat) : Nat := 64 * colBytes fmt k + (if mfIsMx fmt then 2 * k else 0)

def localImage (c : Iss) (a n : Nat) : Option TrapReport :=
  if localOk c.rcd a n then none else some { code := tcProtection, info := 0x07, addr := a, mask := c.act }

def execMload (f : MForm) (s : State) : Host.Outcome State Fault Refusal :=
  let fmt := f.twf.toNat
  matIssue 0xC5 f (.mload f) true (fun c =>
      let k := c.sval f.x 1
      let a := engAddr c f
      if k == 0 || decide ((bankLimit fmt).1 < k) || k % (bankLimit fmt).2 != 0 || a % 64 != 0 then some badOperand
      else if f.opx.getLsbD 0 then localImage c a (imageBytes fmt k) else none)
    (fun c o => { o with vals := [0, engAddr c f, imageBytes fmt (c.sval f.x 1), c.sval f.x 1], vecs := [[]] }) s

def execMldmeta (f : MForm) (s : State) : Host.Outcome State Fault Refusal :=
  matIssue 0xCB f (.mldmeta f) true (fun c => if engAddr c f % 64 != 0 then some badOperand else none)
    (fun c o => { o with vals := [0, engAddr c f], vecs := [[]] }) s

def execMswap (f : MForm) (s : State) : Host.Outcome State Fault Refusal :=
  matIssue 0xC6 f (.mswap f) true noCheck noCapture s

/-- The addresses of the activation rows of the visible lanes (R405). -/
def rowAddrs (op : Nat) (f : MForm) (c : Iss) : List Nat :=
  (List.range 96).map (fun j =>
    if op == 0xC7 || op == 0xC9 then (localAddr c f 0 + j * c.sval f.x 1) % 2 ^ 32
    else if c.act.getLsbD j then localAddr c f j else 0)

/-- The addresses of MX scales in the gathered forms. -/
def scaleAddrs (op : Nat) (f : MForm) (c : Iss) : List Nat :=
  (List.range 96).map (fun j =>
    if (op == 0xC8 || op == 0xCA) && c.act.getLsbD j then c.val f.x 1 0 0 (physLane c.prot 0 j) else 0)

def activeRows (c : Iss) (rows : List Nat) : List (Nat × Nat) := (lanesOf c.act).map (fun j => (j, rows.getD j 0))

def productIssue (op : Nat) (f : MForm) (what : Instr) (s : State) : Host.Outcome State Fault Refusal :=
  matIssue op f what false (fun c => alignFault 4 (activeRows c (rowAddrs op f c)))
    (fun c o => { o with vals := [0], vecs := [rowAddrs op f c, scaleAddrs op f c] }) s

def execMmul (f : MForm) (s : State) : Host.Outcome State Fault Refusal := productIssue 0xC7 f (.mmul f) s
def execMgmul (f : MForm) (s : State) : Host.Outcome State Fault Refusal := productIssue 0xC8 f (.mgmul f) s
def execMsp (f : MForm) (s : State) : Host.Outcome State Fault Refusal := productIssue 0xC9 f (.msp f) s
def execMgsp (f : MForm) (s : State) : Host.Outcome State Fault Refusal := productIssue 0xCA f (.mgsp f) s

def execMzero (f : MForm) (s : State) : Host.Outcome State Fault Refusal := matIssue 0xCC f (.mzero f) false noCheck noCapture s
def execMrd (f : MForm) (s : State) : Host.Outcome State Fault Refusal := matIssue 0xCD f (.mrd f) false noCheck noCapture s
def execMred (f : MForm) (s : State) : Host.Outcome State Fault Refusal := matIssue 0xD0 f (.mred f) false noCheck noCapture s
def execMacc (f : MForm) (s : State) : Host.Outcome State Fault Refusal := matIssue 0xD2 f (.macc f) false noCheck noCapture s

/-- The visible lanes of one vector register. -/
def laneWords (c : Iss) (r : Nat) : List Nat := (List.range 96).map (fun j => (c.h.vword r (physLane c.prot 0 j)).toNat)

def execMwr (f : MForm) (s : State) : Host.Outcome State Fault Refusal :=
  matIssue 0xCE f (.mwr f) false noCheck
    (fun c o => { o with vecs := (List.range (groupCount f)).map (fun i => laneWords c (vecReg f.x + i)) }) s

/-- `.col` reads lanes 0 to 63; the lanes that protected mode does not have are free. -/
def mscaleWords (f : MForm) (c : Iss) : List Nat :=
  (List.range 96).map (fun j =>
    if c.prot && decide (48 ≤ j) then Config.ulpChoice 0x82 (vecReg f.x) j 0 % 2 ^ 32
    else (c.h.vword (vecReg f.x) (physLane c.prot 0 j)).toNat)

def execMscale (f : MForm) (s : State) : Host.Outcome State Fault Refusal :=
  matIssue 0xD1 f (.mscale f) false noCheck (fun c o => { o with vecs := [mscaleWords f c] }) s

/-- Bytes of one element that `mst` writes (R409). -/
def mstSize (f : MForm) : Nat := if f.sub % 2 == 1 then 4 else if f.twf.toNat ≤ 1 then 2 else 1

/-- The addresses of the rows that `mst` writes. -/
def mstRows (f : MForm) (c : Iss) : List Nat :=
  let w := if f.opx.getLsbD 0 then 2 ^ 32 else 2 ^ 64
  (List.range 96).map (fun j => (engBase c f + j * c.sval f.idx 1) % w)

def execMst (f : MForm) (s : State) : Host.Outcome State Fault Refusal :=
  matIssue 0xCF f (.mst f) false (fun c => alignFault (mstSize f) (activeRows c (mstRows f c)))
    (fun c o => { o with vals := [0], vecs := [mstRows f c] }) s

/-! ### Tiles and banks -/

def accOf (x : BitVec 8) : Nat := x.toNat - 0xC8

def Hatch.tileRow (h : Hatch) (t l : Nat) : List Nat :=
  (List.range 64).map (fun n => (((h.tiles.getD t []).getD l []).getD n 0).toNat)

/-- A tile with the rows of some lanes replaced. -/
def Hatch.setRows (h : Hatch) (t : Nat) (m : LaneSet) (row : Nat → List Nat) : Hatch :=
  { h with tiles := h.tiles.set t ((List.range 96).map (fun l =>
      if m.getLsbD l then (row l).map (BitVec.ofNat 32) else (h.tiles.getD t []).getD l [])) }

/-- The effective K of a bank (R240). -/
def Bank.keff (b : Bank) : Nat := if b.metaN == 0 then b.k else b.k * 8 / b.metaN

def Bank.code (b : Bank) (n j : Nat) : Nat := colElem b.fmt (b.cols.getD n []) j

/-- Stored element j of a column as a value (R236). -/
def Bank.elem (b : Bank) (n j : Nat) : FVal := mfVal b.fmt (b.code n j) ((b.scales.getD n []).getD (j / 32) 0).toNat

/-- The stored elements of a column at an effective position (R406). -/
def Bank.stored (b : Bank) (n k : Nat) : List Nat :=
  if b.metaN == 0 then [k]
  else ((List.range b.metaN).map (fun i => k / 8 * b.metaN + i)).filter (fun j => metaPos (b.metas.getD n []) j == k % 8)

/-- The weight at an effective position: the exact sum of the elements there. -/
def Bank.weight (b : Bank) (n k : Nat) : FVal := match b.stored n k with
  | [j] => b.elem n j
  | js => (sumExact .rne (js.map (b.elem n))).1

def Bank.weightInt (b : Bank) (n k : Nat) : Int := (b.stored n k).foldl (fun a j => a + mfInt b.fmt (b.code n j)) 0

/-- Whether some weight of the bank is the tern2 code 0b10 (R237). -/
def Bank.tern (b : Bank) : Bool := b.fmt == 12 && (List.range 64).any (fun n => (List.range b.k).any (fun j => b.code n j == 2))

/-- One row of a product (R244): `bs` and `sc` are the activation row and its scales. -/
def productRow (b : Bank) (fmt : Nat) (bs sc : List Byte) (acc : List Nat) : List Nat :=
  let ks := List.range b.keff
  (List.range 64).map (fun n =>
    let a0 := acc.getD n 0
    if mfIsInt fmt && mfIsInt b.fmt then accInt a0 (ks.map (fun k => mfInt fmt (rowElem fmt bs k) * b.weightInt n k))
    else accFloat fmtF32 a0 (ks.map (fun k =>
      ((mfVal fmt (rowElem fmt bs k) (sc.getD (k / 32) 0).toNat).mul (b.weight n k)).1)))

/-! ### What an instruction does when the engine executes it -/

/-- An engine fault (R410): the instruction completes for c1 and its hatch has a fault to take. -/
def engineFault (s : State) (o : Op) (opc cause sub addr : Nat) : State :=
  (endOp s o).updHatch o.hatch (fun h => { h with engFaults := h.engFaults ++ [⟨cause, sub, opc, addr⟩] })

def engPoison (s : State) (o : Op) (pa : Nat) : State := poisonKill (endOp s o) o.hatch o.pc pa

def setTern (s : State) (o : Op) (on : Bool) : State :=
  if on then s.updHatch o.hatch (fun h => { h with fpflags := h.fpflags ||| flTern }) else s

/-- `mmul`, `mgmul`, `msp` and `mgsp` (R406). -/
def runProduct (s : State) (o : Op) (op : Nat) (f : MForm) (h : Hatch) : State :=
  let b := (s.core o.core).active
  let fmt := f.twf.toNat
  let sparse := op == 0xC9 || op == 0xCA
  let len := b.keff * mfBits fmt / 8
  let nsc := if mfIsMx fmt then b.keff / 32 else 0
  let rcd := recOf s h
  let row := fun (j : Nat) => (o.vecs.getD 0 []).getD j 0
  let sc := fun (j : Nat) => if op == 0xC7 || op == 0xC9 then f.opx.toNat + j * (b.keff / 32) else (o.vecs.getD 1 []).getD j 0
  let js := lanesOf o.active
  if (b.metaN != 0) != sparse then engineFault s o op 0x01 0 o.pc
  else if js.any (fun j => !localOk rcd (row j) len || mfIsMx fmt && !localOk rcd (sc j) nsc) then engineFault s o op 0x04 0 o.pc
  else if js.any (fun j => localPoison s o.core o.block (row j) len || localPoison s o.core o.block (sc j) nsc) then engPoison s o 0
  else
    let rd := fun (a n : Nat) => localRead s o.core o.block a n
    let tern := b.tern || fmt == 12 && js.any (fun j => (List.range b.keff).any (fun k => rowElem 12 (rd (row j) len) k == 2))
    let t := accOf f.d
    let s := s.updHatch o.hatch (fun h => h.setRows t o.active (fun j =>
      productRow b fmt (rd (row j) len) (rd (sc j) nsc) (h.tileRow t j)))
    endOp (setTern s o tern) o

/-- `mred` (R408): the sum of a column over the active rows, in groups of 32. -/
def columnSum (f : MForm) (h : Hatch) (m : LaneSet) (n : Nat) : Nat :=
  let x := accOf f.x
  let at_ := fun (l : Nat) => (h.tileRow x l).getD n 0
  if f.sub % 2 == 1 then accInt 0 ((lanesOf m).map (fun l => sxt 32 (at_ l)))
  else accFloat fmtF32 0 ((List.range 96).map (fun l => if m.getLsbD l then fmtF32.val (at_ l) else .fin false 0 0))

def addCell (intForm : Bool) (a b : Nat) : Nat := if intForm then (a + b) % 2 ^ 32 else (fAdd fmtF32 .rne false a b).1

/-- The instructions that only change a tile (R407, R408). -/
def runTile (s : State) (o : Op) (op : Nat) (f : MForm) : State :=
  let d := accOf f.d
  let intForm := f.sub % 2 == 1
  let rows := fun (h : Hatch) => match op with
    | 0xCC => h.setRows d o.active (fun _ => List.replicate 64 0)
    | 0xCE => h.setRows d o.active (fun l => (List.range 64).map (fun n =>
        let i := n - f.imm.toNat
        if f.imm.toNat ≤ n ∧ i < groupCount f then (o.vecs.getD i []).getD l 0 else (h.tileRow d l).getD n 0))
    | 0xD0 => h.setRows d o.active (fun l => (List.range 64).map (fun n =>
        addCell intForm ((h.tileRow d l).getD n 0) (columnSum f h o.active n)))
    | 0xD2 => h.setRows d o.active (fun l => (List.range 64).map (fun n =>
        addCell intForm ((h.tileRow d l).getD n 0) ((h.tileRow (accOf f.x) l).getD n 0)))
    | _ => h.setRows d o.active (fun l => (List.range 64).map (fun n =>
        (fMul fmtF32 (Rm.ofCode f.rm) false ((h.tileRow d l).getD n 0)
          ((o.vecs.getD 0 []).getD (if intForm then n else l) 0)).1))
  endOp (s.updHatch o.hatch rows) o

/-- `mrd` (R407): the registers become full. -/
def runMrd (s : State) (o : Op) (f : MForm) (h : Hatch) : State :=
  let prot := hatchProt s h
  let n := groupCount f
  let val := fun (i l : Nat) => (h.tileRow (accOf f.x) (visLane prot l)).getD (f.imm.toNat + i) 0
  let ws := (List.range n).map (fun i => Write.reg (f.d + BitVec.ofNat 8 i) 1 (val i))
  endOp (lateWrite s o prot (physMask prot o.active) ws { dsts := [(f.d, n)] } 0) o

/-- The bytes that `mst` writes for a row (R409, R235). -/
def mstBytes (f : MForm) (row : List Nat) : List Byte :=
  row.flatMap (fun v =>
    if f.sub % 2 == 1 then natBytes 4 v
    else if f.twf.toNat == 0xA then
      natBytes 1 (if f.satBit then wrapN 8 (max (-128) (min 127 (sxt 32 v))) else v % 256)
    else natBytes (mstSize f) (fNarrow fmtF32 (mfFloat f.twf.toNat) (Rm.ofCode f.rm) f.nanBit false false false v).1)

/-- The pieces of a row within lines, as accesses. -/
def rowPieces (lane va : Nat) (bs : List Byte) : List LaneAcc :=
  (linePieces (bs.length / 128 + 2) 0 va bs.length).map (fun x =>
    LaneAcc.start lane (wrap64 x.2.1) (sliceBytes bs x.1 x.2.2))

/-- A lane with a fault in some piece writes nothing: it keeps one piece, with its row's address. -/
def wholeRow (row : Nat) (as : List LaneAcc) : List LaneAcc :=
  match as.find? (fun a => a.fault != 0) with
  | none => as
  | some a => [{ a with va := row }]

/-- `mst` reads the tile and begins to store (R409). To local store it is over at once; to memory its pieces go the way of
stores, and the instruction stays at the head of its hatch's order until they are performed. -/
def runMst (s : State) (o : Op) (f : MForm) (h : Hatch) : State :=
  let bytes := fun (l : Nat) => mstBytes f (h.tileRow (accOf f.x) l)
  let row := fun (l : Nat) => (o.vecs.getD 0 []).getD l 0
  let js := lanesOf o.active
  if f.opx.getLsbD 0 then
    let rcd := recOf s h
    let as := js.map (fun j => (j, row j))
    let n := 64 * mstSize f
    let s := (as.filter (fun a => localOk rcd a.2 n)).foldl (fun s a => localWrite s o.core o.block a.2 (bytes a.1)) s
    endOp (recordFaults s o 2 (localFaults rcd n as)) o
  else
    let kern := ctxKernel s o.ctx
    let (s, lanes) := js.foldl (fun (x : State × List LaneAcc) j =>
      let (s, as) := resolveLanes x.1 o.core o.ctx kern .store false (rowPieces j (row j) (bytes j))
      (s, x.2 ++ wholeRow (row j) as)) (s, [])
    let o := { o with lanes := lanes, done := true }
    let s := s.updOp o.id (fun _ => o)
    match lanes.find? (fun a => a.fault == tcPoison) with
    | some a => engPoison s o a.pa
    | none => dispatchStore s o

/-- A bank from an image (R402). -/
def bankOf (fmt k : Nat) (bs : List Byte) : Bank :=
  let c := colBytes fmt k
  { fmt := fmt, k := k, cols := (List.range 64).map (fun n => sliceBytes bs (n * c) c)
    scales := if mfIsMx fmt then (List.range 64).map (fun n => sliceBytes bs (64 * c + n * (k / 32)) (k / 32)) else []
    metaN := 0, metas := [] }

/-- N of the metadata forms (R401). -/
def metaCount (f : MForm) : Nat := 2 ^ f.sub

/-- What an instruction that reads an image does with it. -/
def imageDone (s : State) (o : Op) (op : Nat) (f : MForm) (bs : List Byte) : State :=
  let put := fun (k : Core) => if op == 0xC5 then { k with inactive := bankOf f.twf.toNat (o.vals.getD 3 0) bs }
    else { k with inactive := { k.inactive with
      metaN := metaCount f
      metas := (List.range 64).map (fun n => sliceBytes bs (n * (k.inactive.k / 2)) (k.inactive.k / 2)) } }
  endOp (s.updCore o.core put) o

/-- An ADDRESS fault (R410): the bank is zero, with the format and K that `mload` names, or that it has had for `mldmeta`. -/
def imageFault (s : State) (o : Op) (op : Nat) (f : MForm) (cause va : Nat) : State :=
  let put := fun (k : Core) =>
    let (fmt, n) := if op == 0xC5 then (f.twf.toNat, o.vals.getD 3 0) else (k.inactive.fmt, k.inactive.k)
    { k with inactive := ⟨fmt, n, [], [], 0, []⟩ }
  engineFault (s.updCore o.core put) o op 0x02 cause va

/-- One piece of an image read by `mload` or `mldmeta`; false while it must wait. -/
def runImage (s : State) (o : Op) (op : Nat) (f : MForm) : State × Bool :=
  let bank := (s.core o.core).inactive
  let total := if op == 0xC5 then o.vals.getD 2 0 else 32 * bank.k
  let a := o.vals.getD 1 0
  let got := o.vecs.getD 0 []
  if op == 0xCB && (decide (512 < bank.k) || bank.metaN != 0) then (engineFault s o op 0x03 0 o.pc, true)
  else if f.opx.getLsbD 0 then
    match s.hatch? o.hatch with
    | none => (endOp s o, true)
    | some h =>
      if !localOk (recOf s h) a total then (engineFault s o op 0x04 0 o.pc, true)
      else if localPoison s o.core o.block a total then (engPoison s o 0, true)
      else (imageDone s o op f (localRead s o.core o.block a total), true)
  else if total ≤ got.length then (imageDone s o op f (got.map (BitVec.ofNat 8)), true)
  else
    let va := wrap64 (a + got.length)
    match engReadLine s o va (min (total - got.length) (128 - va % 128)) with
    | (s, .wait) => (s.updOp o.id (fun o => { o with prog := 1 }), false)
    | (s, .fault _ cause _ va) => (imageFault s o op f cause va, true)
    | (s, .table pa) => (engPoison s o pa, true)
    | (s, .data bs bad) =>
      if bad.isSome then (engPoison s o (bad.getD 0), true)
      else
        let more := fun (o : Op) => { o with prog := 1, vecs := [got ++ bs.map (·.toNat)] }
        ((s.updOp o.id more).post .matrixEngineStep { core := o.core }, true)

/-- `mswap` (R404). -/
def runSwap (s : State) (o : Op) : State :=
  endOp (s.updCore o.core (fun k => { k with active := k.inactive, inactive := k.active })) o

/-- Executes one instruction of the queue; false while it must wait. -/
def runMatrix (s : State) (o : Op) : State × Bool :=
  match instrForm o.what with
  | none => (endOp s o, true)
  | some (op, f) =>
    if op == 0xC5 || op == 0xCB then runImage s o op f
    else if op == 0xC6 then (runSwap s o, true)
    else match s.hatch? o.hatch with
      | none => (endOp s o, true)
      | some h =>
        if 0xC7 ≤ op ∧ op ≤ 0xCA then (runProduct s o op f h, true)
        else if op == 0xCD then (runMrd s o f h, true)
        else if op == 0xCF then (runMst s o f h, true)
        else (runTile s o op f, true)

/-! ### The order of the engine (R184, R185) -/

/-- Whether an instruction is an array instruction (R183). -/
def isArray (i : Instr) : Bool := match instrForm i with
  | some (op, _) => decide (0xC5 ≤ op) && decide (op ≤ 0xCB) || op == 0xD0
  | none => false

/-- The operations of a core's queue, oldest first. -/
def queueOps (s : State) (core : Nat) : List Op := (s.core core).mqueue.filterMap s.op?

/-- The oldest instruction of each hatch. -/
def queueHeads (os : List Op) : List Op :=
  os.foldl (fun hs o => if hs.any (fun q => q.hatch == o.hatch) then hs else hs ++ [o]) []

/-- No hatch has been served since the engine got its owner. -/
def noneServed : Nat := 2 ^ 32

/-- The engine's owner: where there is none, the block of the oldest array instruction, with both banks zero. -/
def takeEngine (s : State) (core : Nat) : State :=
  if (s.core core).owner.isSome then s
  else match (queueOps s core).find? (fun o => isArray o.what) with
    | none => s
    | some o => s.updCore core (fun k =>
        { k with owner := some o.block, active := Bank.zero, inactive := Bank.zero, lastServed := noneServed })

def opIndex (s : State) (o : Op) : Nat := (s.hatch? o.hatch).elim 0 (·.index)

/-- The array instruction that is served next: one already begun, or round-robin from the hatch after the last. -/
def nextArray (s : State) (core : Nat) (mine : List Op) : Option Op :=
  match mine.find? (fun o => o.prog != 0) with
  | some o => some o
  | none =>
    let last := (s.core core).lastServed
    match leastBy (opIndex s) (mine.filter (fun o => decide (last < opIndex s o))) with
    | some o => some o
    | none => leastBy (opIndex s) mine

/-- Whether the head of a hatch's order may be executed: a store to local store waits while a record waits (R193). -/
def headReady (s : State) (core : Nat) (o : Op) : Bool :=
  match o.what with
  | .mst f => !f.opx.getLsbD 0 || (s.core core).sfrWait.isEmpty
  | _ => true

/-- MATRIX_ENGINE_STEP: an accumulator instruction that heads its hatch's order, or else the engine's next array
instruction. -/
def execMatrixEngineStep (s : State) : Host.Outcome State Fault Refusal :=
  let core := s.arg.core
  .next (
    let heads := queueHeads (queueOps s core)
    match heads.find? (fun o => !isArray o.what && !o.done && headReady s core o) with
    | some o => finish (runMatrix s o).1
    | none =>
      let s := takeEngine s core
      let mine := heads.filter (fun o => isArray o.what && (s.core core).owner == some o.block)
      match nextArray s core mine with
      | none => if heads.isEmpty then finish s else s.park .matrixEngineStep
      | some o =>
        match runMatrix (s.updCore core (fun k => { k with lastServed := opIndex s o })) o with
        | (s, true) => finish s
        | (s, false) => (settle s).park .matrixEngineStep)

end Sys2Proof.Machine
end

