-- ==== Sys2Proof/Machine/SchedCmds.lean ====
section
/-! DEFINITION. The commands of the scheduler (05 R105; 07 R123, R152 to R155): LAUNCH, SUSPEND, RESUME, KILL. -/

namespace Sys2Proof.Machine

/-! ### LAUNCH -/

def launchCmd (s : State) : State × CmdRes :=
  let ctx := req s 8 1
  if (s.ctx? ctx).isNone then (s, .fail stNotFound)
  else match startLaunch s 0 ctx (req s 0 8) with
    | (s, .ok id) => (s, .done (natBytes 4 id))
    | (s, .fail code) => (s, .fail (if code == 4 then stNoResource else stInvalidParam))

def execLaunch (s : State) : Host.Outcome State Fault Refusal := runCommand .launch launchCmd s

/-! ### SUSPEND (R152) -/

/-- The resident blocks of a launch. -/
def residents (s : State) (id : Nat) : List Block := s.sched.blocks.filter (fun b => b.launch == id && b.phase == .resident)

/-- The size of a save area for n blocks. -/
def saveSize (r : LaunchRec) (n : Nat) : Nat :=
  let ways := waysOf r * coresOf r r.hatches
  256 + n * (r.hatches * 65536 + ways * 65536 + r.tiles * 24576 * r.hatches + 4096)

/-- A hatch at an instruction boundary at which it may be saved: no handler runs, and no operation is outstanding but its
own waiting at a word. -/
def hatchQuiet (s : State) (h : Hatch) : Bool :=
  let still := fun (p : Option Path) => p.elim true (fun p => match p.wait with
    | .shoot _ => false
    | _ => true)
  !h.handler && still h.slot0 && still h.slot1 && (s.ops.filter (fun o => o.hatch == h.inst)).all (fun o => waitsAtWord o.what)

def launchQuiet (s : State) (id : Nat) : Bool := (residents s id).all (fun b => (blockHatches s b).all (hatchQuiet s))

/-- A path that waits at a word stops at its instruction as though it had not issued. -/
def Path.unwait (p : Path) : Path := match p.wait with
  | .waddr _ _ _ => { p with wait := .none }
  | .sema _ _ => { p with wait := .none }
  | _ => p

/-- A waiting operation is taken back. -/
def cancelWait (s : State) (o : Op) : State :=
  let s := match instrForm o.what with
    | none => s
    | some (op, f) => s.updHatch o.hatch (fun h => h.markEmpty (mShape op f).dsts false)
  endOp (s.updHatch o.hatch (fun h => { h with slot0 := h.slot0.map Path.unwait, slot1 := h.slot1.map Path.unwait })) o

/-- The local store of a block on a core. -/
def localOf (s : State) (c inst : Nat) : List (List Host.Cell × List Nat) :=
  (ownedWays s c inst).map (fun w => match (s.core c).ways.getD w .free with
    | .owned _ bs bad => (bs, bad)
    | _ => ([], []))

/-- Saves one block and frees what it holds. -/
def saveBlock (s : State) (r : LaunchRec) (b : Block) : State :=
  let mine := fun (i : Nat) => (blockHatches s b).any (fun h => h.inst == i)
  let s := (s.ops.filter (fun o => mine o.hatch && waitsAtWord o.what)).foldl cancelWait s
  let hs := blockHatches s b
  let sfr := b.cores.flatMap (fun c => ((s.core c).sfrq ++ (s.core c).sfrWait).filter (fun x => mine x.hatch))
  let sv : SavedBlock := ⟨b.inst, hs, b.cores.map (fun c => localOf s c b.inst), sfr, r⟩
  let s := hs.foldl (fun s h => dropRecords s h.core h.inst) s
  let s := freeWays { s with hatches := s.hatches.filter (fun h => h.block != b.inst) } b
  s.updBlock b.inst (fun b => { b with phase := .suspended, saved := some sv, cores := [], hwGroups := [] })

/-- Blocks of a launch that have not been admitted. -/
def unadmitted (s : State) (l : Launch) : Nat :=
  (s.sched.blocks.filter (fun b => b.launch == l.id && b.phase == .queued)).length +
    (l.nextIdx.map (fun i => (l.rcd.blocks - i + 3) / 4)).foldl (· + ·) 0

/-- The header of a save area (R153). -/
def saveHeader (s : State) (l : Launch) (n : Nat) : List Byte :=
  natBytes 4 0x09405A5E ++ natBytes 4 0 ++ natBytes 8 l.recVa ++ natBytes 1 l.ctx ++ natBytes 3 0 ++ natBytes 4 l.id ++
    natBytes 4 n ++ natBytes 4 (unadmitted s l) ++ List.replicate 224 0

/-- Writes bytes at a PA, line by line. -/
def pokeRange (s : State) (pa : Nat) (bs : List Byte) : State :=
  (linePieces (bs.length / 128 + 2) 0 pa bs.length).foldl (fun s x => pokePa s x.2.1 (sliceBytes bs x.1 x.2.2) none) s

/-- The block images are the device's own: what software reads there is left open (entry 20). -/
def openRange (s : State) (pa n : Nat) : State :=
  (List.range (n / 128)).foldl (fun s i =>
    let (bs, s) := s.openLine
    pokeRange s (pa + 128 * i) bs) s

/-- The launch is saved once every hatch is at rest; the size is that of the moment at which admission stopped. -/
def suspend (s : State) : State × CmdRes :=
  let id := req s 0 4
  match s.launch? id with
  | none => (s, .fail stNotFound)
  | some l =>
    if s.arg.seq == 0 then
      let n := (residents s id).length
      if l.phase == .suspended then (s, .fail stInUse)
      else if req s 0x10 8 < saveSize l.rcd n then (s, .fail stNoResource)
      else ({ s.updLaunch id (fun l => { l with phase := .suspended }) with arg := { s.arg with seq := 1, block := n } }, .again)
    else if !launchQuiet s id then (s, .wait)
    else
      let bs := residents s id
      let size := saveSize l.rcd s.arg.block
      let s := bs.foldl (fun s b => saveBlock s l.rcd b) s
      let s := pokeRange s (req s 8 8) (saveHeader s l bs.length)
      (openRange s (req s 8 8 + 256) (size - 256), .done (natBytes 8 size))

def execSuspend (s : State) : Host.Outcome State Fault Refusal := runCommand .suspend suspend s

/-! ### RESUME (R153, R154) -/

/-- Whether a saved block no longer fits the record (R154). A group is in use while some member of it has not exited (entry 20). -/
def overCapacity (b : Block) (sv : SavedBlock) (r : LaunchRec) : Bool :=
  sv.hatches.any (fun h => decide (r.peak < h.held)) || decide (r.local_ < sv.rcd.local_) || decide (r.tiles < sv.rcd.tiles) ||
    r.hatches != sv.rcd.hatches ||
    sv.rcd.groups.zipIdx.any (fun x => r.groups[x.2]? != some x.1 && !x.1.all (fun i => b.exited.contains i))

/-- A saved block is queued again: to go on, or to start over in its trap handlers. Hatches that the record no longer has, or has
anew, count as exited (entry 20). -/
def requeue (r : LaunchRec) (clock : Nat) (b : Block) : Block :=
  let b := { b with phase := .queued, queuedAt := clock, agedFrom := clock }
  match b.saved with
  | none => b
  | some sv =>
    if !overCapacity b sv r then b
    else
      let stays := fun (i : Nat) => b.spawnArea.isSome || decide (i < r.hatches)
      let gone := (sv.hatches.filter (fun h => !stays h.index)).map (·.index)
      let more := if b.spawnArea.isSome then [] else (List.range r.hatches).filter (fun i => decide (sv.rcd.hatches ≤ i))
      let again := fun (h : Hatch) => ({ index := h.index, inst := h.inst, code := tcRestoreCapacity, info := 0, imageValid := h.imageValid,
                                         repeats := max h.stores h.repeats, abandoned := h.abandoned } : Restart)
      { b with
        saved := none, replay := true, arrived := [], exited := b.exited ++ gone ++ more
        restart := (sv.hatches.filter (fun h => stays h.index)).map again }

/-- A saved block goes back to its queue; one that has no hatch left to restart ends. -/
def requeueBlock (r : LaunchRec) (s : State) (b : Block) : State :=
  let q := requeue r s.clock b
  let s := s.updBlock b.inst (fun _ => q)
  if q.saved.isNone && q.restart.isEmpty then endBlock s q else s

/-- Reads n bytes at a PA at domain scope, with the address of poison among them. -/
def readRange (s : State) (pa n : Nat) : State × List Byte × Option Nat :=
  (linePieces (n / 128 + 2) 0 pa n).foldl (fun x y =>
    let (s, bs, bad) := domainRead x.1 0 y.2.1 y.2.2 0
    (s, x.2.1 ++ bs, if x.2.2.isNone && bad then some y.2.1 else x.2.2)) (s, [], none)

/-- The header of a save area, with poison and nonzero reserved bytes in it logged (R7, R445). -/
def readHeader (s : State) (pa : Nat) : State × Option (List Byte) :=
  match readRange s pa 256 with
  | (s, _, some bad) => (logError s 1 2 0x0101 (homeDie s (lineOf bad)) 0 bad, none)
  | (s, h, none) =>
    let g := fieldAt h
    let clean := g 4 4 == 0 && g 0x11 3 == 0 && g 0x20 224 == 0
    (if clean then s else logError s 0 2 0x0004 (homeDie s (lineOf pa)) 0 0, some h)

def resume (s : State) : State × CmdRes :=
  let id := req s 0 4
  match s.launch? id with
  | none => (s, .fail stNotFound)
  | some l =>
    if l.phase != .suspended then (s, .fail stNotFound)
    else match readHeader s (req s 8 8) with
      | (s, none) => (s, .fail stInvalidParam)
      | (s, some h) =>
        let g := fieldAt h
        if g 0 4 != 0x09405A5E || g 0x14 4 != id || (s.ctx? (g 0x10 1)).isNone then (s, .fail stInvalidParam)
        else match (readRecord 0 (g 0x10 1) (g 8 8)).run s with
          | .error _ s => (s, .fail stInvalidParam)
          | .ok none s => (s, .fail stInvalidParam)
          | .ok (some r) s =>
            if r.coop && !coopFits r then (s, .fail stInvalidParam)
            else
              let go := fun (l : Launch) => { l with phase := .running, rcd := r, ctx := g 0x10 1, recVa := g 8 8 }
              let s := s.updLaunch id go
              let mine := s.sched.blocks.filter (fun b => b.launch == id && b.phase == .suspended)
              let s := mine.foldl (requeueBlock r) s
              ((List.range 4).foldl (fun s d => s.postOnce .blockAdmission { die := d }) s, .done [])

def execResume (s : State) : Host.Outcome State Fault Refusal := runCommand .resume resume s

/-! ### KILL (R155) -/

/-- A block is dropped with all it holds. -/
def killBlock (s : State) (l : Launch) (b : Block) : State :=
  let hs := blockHatches s b
  let s := hs.foldl (fun s h => dropRecords (dropAtDiscard s h.inst) h.core h.inst) s
  let s := freeWays { s with hatches := s.hatches.filter (fun h => h.block != b.inst) } b
  let c := b.cores.getD 0 (b.die * 64)
  let s := b.areas.foldl (fun s a => AreaM.orElseState (poolRelease c l.ctx l.rcd.pool a) s) s
  let trim := fun (k : Core) => if k.spawnQ.isEmpty then k else { k with spawnQ := k.spawnQ.filter (fun i => i != b.inst) }
  { s with
    cores := s.cores.map trim
    sched := { s.sched with blocks := s.sched.blocks.filter (fun x => x.inst != b.inst) } }

/-- A triggered block that has never been admitted: its pending bit is clear, so it stays queued. -/
def keptByKill (b : Block) : Bool :=
  b.triggered && b.spawnArea.isNone && b.phase == .queued && !b.replay && b.saved.isNone

def killLaunch (s : State) (l : Launch) : State :=
  let gone := s.sched.blocks.filter (fun b => b.launch == l.id && !(l.watched && keptByKill b))
  let s := gone.foldl (fun s b => killBlock s l b) s
  let s : State := { s with sched := { s.sched with contribs := s.sched.contribs.filter (fun c => c.launch != l.id) } }
  let s := if l.rcd.spill == 0 then s else setUsed s 0 l.ctx l.rcd.spill 0
  if l.watched then
    let s := completeLaunch (s.updLaunch l.id (fun l => { l with phase := .running })) l.id
    (List.range 4).foldl (fun s d => s.postOnce .blockAdmission { die := d }) s
  else { s with sched := { s.sched with launches := s.sched.launches.filter (fun x => x.id != l.id) } }

def kill (s : State) : State × CmdRes :=
  match s.launch? (req s 0 4) with
  | none => (s, .fail stNotFound)
  | some l => (killLaunch s l, .done [])

def execKill (s : State) : Host.Outcome State Fault Refusal := runCommand .kill kill s

end Sys2Proof.Machine
end

