-- ==== Sys2Proof/Machine/Dispatch.lean ====
section
/-! DEFINITION. What each instruction and event does: one arm for each constructor of Instr. -/

namespace Sys2Proof.Machine

def exec (i : Instr) (s : State) : Host.Outcome State Fault Refusal :=
  match i with
  | .coldReset => Sys2Proof.Machine.execColdReset s
  | .warmReset => Sys2Proof.Machine.execWarmReset s
  | .portReset => Sys2Proof.Machine.execPortReset s
  | .functionLevelReset => Sys2Proof.Machine.execFunctionLevelReset s
  | .hostLinkLoss => Sys2Proof.Machine.execHostLinkLoss s
  | .prochotAssert => Sys2Proof.Machine.execProchotAssert s
  | .prochotDeassert => Sys2Proof.Machine.execProchotDeassert s
  | .thermalStep => Sys2Proof.Machine.execThermalStep s
  | .thermalTrip => Sys2Proof.Machine.execThermalTrip s
  | .capWindowEnd => Sys2Proof.Machine.execCapWindowEnd s
  | .dieIdleTimeout => Sys2Proof.Machine.execDieIdleTimeout s
  | .gatingDone => Sys2Proof.Machine.execGatingDone s
  | .dieWake => Sys2Proof.Machine.execDieWake s
  | .wakingDone => Sys2Proof.Machine.execWakingDone s
  | .flitReceive => Sys2Proof.Machine.execFlitReceive s
  | .ackReceive => Sys2Proof.Machine.execAckReceive s
  | .nackReceive => Sys2Proof.Machine.execNackReceive s
  | .replayTimeout => Sys2Proof.Machine.execReplayTimeout s
  | .retrainStart => Sys2Proof.Machine.execRetrainStart s
  | .retrainDone => Sys2Proof.Machine.execRetrainDone s
  | .ulainTrained => Sys2Proof.Machine.execUlainTrained s
  | .ulainForward => Sys2Proof.Machine.execUlainForward s
  | .routerIdleTimeout => Sys2Proof.Machine.execRouterIdleTimeout s
  | .routerDowningEnd => Sys2Proof.Machine.execRouterDowningEnd s
  | .routerWake => Sys2Proof.Machine.execRouterWake s
  | .routerWakingEnd => Sys2Proof.Machine.execRouterWakingEnd s
  | .channelAccess => Sys2Proof.Machine.execChannelAccess s
  | .patrolScrub => Sys2Proof.Machine.execPatrolScrub s
  | .fadeDecrement => Sys2Proof.Machine.execFadeDecrement s
  | .walkComplete => Sys2Proof.Machine.execWalkComplete s
  | .shootdownComplete => Sys2Proof.Machine.execShootdownComplete s
  | .storeCommit => Sys2Proof.Machine.execStoreCommit s
  | .storeFault => Sys2Proof.Machine.execStoreFault s
  | .loadDataReturn => Sys2Proof.Machine.execLoadDataReturn s
  | .rdRequest => Sys2Proof.Machine.execRdRequest s
  | .rdxRequest => Sys2Proof.Machine.execRdxRequest s
  | .upgRequest => Sys2Proof.Machine.execUpgRequest s
  | .wbRequest => Sys2Proof.Machine.execWbRequest s
  | .fwdS => Sys2Proof.Machine.execFwdS s
  | .fwdX => Sys2Proof.Machine.execFwdX s
  | .inv => Sys2Proof.Machine.execInv s
  | .pub => Sys2Proof.Machine.execPub s
  | .invAck => Sys2Proof.Machine.execInvAck s
  | .upgAck => Sys2Proof.Machine.execUpgAck s
  | .wbAck => Sys2Proof.Machine.execWbAck s
  | .snoopResponse => Sys2Proof.Machine.execSnoopResponse s
  | .dataResponse => Sys2Proof.Machine.execDataResponse s
  | .writePermissionRequest => Sys2Proof.Machine.execWritePermissionRequest s
  | .maskExtension => Sys2Proof.Machine.execMaskExtension s
  | .packageFailure => Sys2Proof.Machine.execPackageFailure s
  | .hostRead => Sys2Proof.Machine.execHostRead s
  | .hostWrite => Sys2Proof.Machine.execHostWrite s
  | .birsp => Sys2Proof.Machine.execBirsp s
  | .snpdata => Sys2Proof.Machine.execSnpdata s
  | .snpinv => Sys2Proof.Machine.execSnpinv s
  | .snpcur => Sys2Proof.Machine.execSnpcur s
  | .hostCacheResponse => Sys2Proof.Machine.execHostCacheResponse s
  | .mt4Completion => Sys2Proof.Machine.execMt4Completion s
  | .cmdSemRead => Sys2Proof.Machine.execCmdSemRead s
  | .cmdSemRelease => Sys2Proof.Machine.execCmdSemRelease s
  | .registerWrite => Sys2Proof.Machine.execRegisterWrite s
  | .identify => Sys2Proof.Machine.execIdentify s
  | .getCaps => Sys2Proof.Machine.execGetCaps s
  | .ctxCreate => Sys2Proof.Machine.execCtxCreate s
  | .ctxDestroy => Sys2Proof.Machine.execCtxDestroy s
  | .mapRegion => Sys2Proof.Machine.execMapRegion s
  | .queryMap => Sys2Proof.Machine.execQueryMap s
  | .watchAttach => Sys2Proof.Machine.execWatchAttach s
  | .watchDetach => Sys2Proof.Machine.execWatchDetach s
  | .launch => Sys2Proof.Machine.execLaunch s
  | .suspend => Sys2Proof.Machine.execSuspend s
  | .resume => Sys2Proof.Machine.execResume s
  | .kill => Sys2Proof.Machine.execKill s
  | .pinWindow => Sys2Proof.Machine.execPinWindow s
  | .unpinWindow => Sys2Proof.Machine.execUnpinWindow s
  | .freezeList => Sys2Proof.Machine.execFreezeList s
  | .forceThaw => Sys2Proof.Machine.execForceThaw s
  | .errLogRead => Sys2Proof.Machine.execErrLogRead s
  | .errLogClear => Sys2Proof.Machine.execErrLogClear s
  | .errInject => Sys2Proof.Machine.execErrInject s
  | .engineReset => Sys2Proof.Machine.execEngineReset s
  | .setChip => Sys2Proof.Machine.execSetChip s
  | .portEnable => Sys2Proof.Machine.execPortEnable s
  | .route => Sys2Proof.Machine.execRoute s
  | .retrain => Sys2Proof.Machine.execRetrain s
  | .query => Sys2Proof.Machine.execQuery s
  | .routerPm => Sys2Proof.Machine.execRouterPm s
  | .powerSet => Sys2Proof.Machine.execPowerSet s
  | .powerQuery => Sys2Proof.Machine.execPowerQuery s
  | .attest => Sys2Proof.Machine.execAttest s
  | .deviceReset => Sys2Proof.Machine.execDeviceReset s
  | .engineJobDispatch => Sys2Proof.Machine.execEngineJobDispatch s
  | .engineRowDone => Sys2Proof.Machine.execEngineRowDone s
  | .engineFiltWake => Sys2Proof.Machine.execEngineFiltWake s
  | .engineJobDone => Sys2Proof.Machine.execEngineJobDone s
  | .mediaFatal => Sys2Proof.Machine.execMediaFatal s
  | .dpcStatusClear => Sys2Proof.Machine.execDpcStatusClear s
  | .triggerDispatch => Sys2Proof.Machine.execTriggerDispatch s
  | .sweepScan => Sys2Proof.Machine.execSweepScan s
  | .blockAdmission => Sys2Proof.Machine.execBlockAdmission s
  | .spawnPlacement => Sys2Proof.Machine.execSpawnPlacement s
  | .priorityAging => Sys2Proof.Machine.execPriorityAging s
  | .preemption => Sys2Proof.Machine.execPreemption s
  | .registerBoundDiscard => Sys2Proof.Machine.execRegisterBoundDiscard s
  | .promotion => Sys2Proof.Machine.execPromotion s
  | .yieldTimeout => Sys2Proof.Machine.execYieldTimeout s
  | .waddrTimeout => Sys2Proof.Machine.execWaddrTimeout s
  | .sfrqTrap => Sys2Proof.Machine.execSfrqTrap s
  | .engineFaultTrap => Sys2Proof.Machine.execEngineFaultTrap s
  | .matrixEngineStep => Sys2Proof.Machine.execMatrixEngineStep s
  | .copyComplete => Sys2Proof.Machine.execCopyComplete s
  | .launchAccepted => Sys2Proof.Machine.execLaunchAccepted s
  | .freezeComplete => Sys2Proof.Machine.execFreezeComplete s
  | .thawComplete => Sys2Proof.Machine.execThawComplete s
  | .nop len upper => Sys2Proof.Machine.execNop len upper s
  | .bra f => Sys2Proof.Machine.execBra f s
  | .bru f => Sys2Proof.Machine.execBru f s
  | .brt f => Sys2Proof.Machine.execBrt f s
  | .call f => Sys2Proof.Machine.execCall f s
  | .ret f => Sys2Proof.Machine.execRet f s
  | .jmpi f => Sys2Proof.Machine.execJmpi f s
  | .calli f => Sys2Proof.Machine.execCalli f s
  | .pad f => Sys2Proof.Machine.execPad f s
  | .join f => Sys2Proof.Machine.execJoin f s
  | .yield f => Sys2Proof.Machine.execYield f s
  | .prio f => Sys2Proof.Machine.execPrio f s
  | .loop f => Sys2Proof.Machine.execLoop f s
  | .brk f => Sys2Proof.Machine.execBrk f s
  | .cont f => Sys2Proof.Machine.execCont f s
  | .pushp f => Sys2Proof.Machine.execPushp f s
  | .invp f => Sys2Proof.Machine.execInvp f s
  | .popp f => Sys2Proof.Machine.execPopp f s
  | .exit f => Sys2Proof.Machine.execExit f s
  | .trap f => Sys2Proof.Machine.execTrap f s
  | .rett f => Sys2Proof.Machine.execRett f s
  | .rettRetry f => Sys2Proof.Machine.execRettRetry f s
  | .region f => Sys2Proof.Machine.execRegion f s
  | .brkpt f => Sys2Proof.Machine.execBrkpt f s
  | .rdsr f => Sys2Proof.Machine.execRdsr f s
  | .wrsr f => Sys2Proof.Machine.execWrsr f s
  | .vote f => Sys2Proof.Machine.execVote f s
  | .ecall f => Sys2Proof.Machine.execEcall f s
  | .tlbinv f => Sys2Proof.Machine.execTlbinv f s
  | .cachectl f => Sys2Proof.Machine.execCachectl f s
  | .lsconv f => Sys2Proof.Machine.execLsconv f s
  | .probe f => Sys2Proof.Machine.execProbe f s
  | .errinj f => Sys2Proof.Machine.execErrinj f s
  | .add f => Sys2Proof.Machine.execAdd f s
  | .sub f => Sys2Proof.Machine.execSub f s
  | .addc f => Sys2Proof.Machine.execAddc f s
  | .subb f => Sys2Proof.Machine.execSubb f s
  | .add64 f => Sys2Proof.Machine.execAdd64 f s
  | .sub64 f => Sys2Proof.Machine.execSub64 f s
  | .mul f => Sys2Proof.Machine.execMul f s
  | .mulhi f => Sys2Proof.Machine.execMulhi f s
  | .mulw f => Sys2Proof.Machine.execMulw f s
  | .mad f => Sys2Proof.Machine.execMad f s
  | .madw f => Sys2Proof.Machine.execMadw f s
  | .div f => Sys2Proof.Machine.execDiv f s
  | .rem f => Sys2Proof.Machine.execRem f s
  | .min f => Sys2Proof.Machine.execMin f s
  | .max f => Sys2Proof.Machine.execMax f s
  | .clamp f => Sys2Proof.Machine.execClamp f s
  | .abs f => Sys2Proof.Machine.execAbs f s
  | .neg f => Sys2Proof.Machine.execNeg f s
  | .and f => Sys2Proof.Machine.execAnd f s
  | .or f => Sys2Proof.Machine.execOr f s
  | .xor f => Sys2Proof.Machine.execXor f s
  | .andn f => Sys2Proof.Machine.execAndn f s
  | .not f => Sys2Proof.Machine.execNot f s
  | .bitf f => Sys2Proof.Machine.execBitf f s
  | .shl f => Sys2Proof.Machine.execShl f s
  | .shr f => Sys2Proof.Machine.execShr f s
  | .sar f => Sys2Proof.Machine.execSar f s
  | .rot f => Sys2Proof.Machine.execRot f s
  | .dsh f => Sys2Proof.Machine.execDsh f s
  | .shl64 f => Sys2Proof.Machine.execShl64 f s
  | .shr64 f => Sys2Proof.Machine.execShr64 f s
  | .bxt f => Sys2Proof.Machine.execBxt f s
  | .bins f => Sys2Proof.Machine.execBins f s
  | .bfset f => Sys2Proof.Machine.execBfset f s
  | .sext f => Sys2Proof.Machine.execSext f s
  | .bcnt f => Sys2Proof.Machine.execBcnt f s
  | .clz f => Sys2Proof.Machine.execClz f s
  | .ctz f => Sys2Proof.Machine.execCtz f s
  | .bitrev f => Sys2Proof.Machine.execBitrev f s
  | .bshuf f => Sys2Proof.Machine.execBshuf f s
  | .cmp f => Sys2Proof.Machine.execCmp f s
  | .cmp64 f => Sys2Proof.Machine.execCmp64 f s
  | .sel f => Sys2Proof.Machine.execSel f s
  | .mov f => Sys2Proof.Machine.execMov f s
  | .mov64 f => Sys2Proof.Machine.execMov64 f s
  | .lea f => Sys2Proof.Machine.execLea f s
  | .sad f => Sys2Proof.Machine.execSad f s
  | .dp2 f => Sys2Proof.Machine.execDp2 f s
  | .dp4 f => Sys2Proof.Machine.execDp4 f s
  | .dp8 f => Sys2Proof.Machine.execDp8 f s
  | .cvti f => Sys2Proof.Machine.execCvti f s
  | .fadd f => Sys2Proof.Machine.execFadd f s
  | .fsub f => Sys2Proof.Machine.execFsub f s
  | .fmul f => Sys2Proof.Machine.execFmul f s
  | .ffma f => Sys2Proof.Machine.execFfma f s
  | .fmin f => Sys2Proof.Machine.execFmin f s
  | .fmax f => Sys2Proof.Machine.execFmax f s
  | .fmin3 f => Sys2Proof.Machine.execFmin3 f s
  | .fmax3 f => Sys2Proof.Machine.execFmax3 f s
  | .fneg f => Sys2Proof.Machine.execFneg f s
  | .fabs f => Sys2Proof.Machine.execFabs f s
  | .fcpsgn f => Sys2Proof.Machine.execFcpsgn f s
  | .fcmp f => Sys2Proof.Machine.execFcmp f s
  | .fclass f => Sys2Proof.Machine.execFclass f s
  | .frnd f => Sys2Proof.Machine.execFrnd f s
  | .fscale f => Sys2Proof.Machine.execFscale f s
  | .fgetexp f => Sys2Proof.Machine.execFgetexp f s
  | .fdiv f => Sys2Proof.Machine.execFdiv f s
  | .fsqrt f => Sys2Proof.Machine.execFsqrt f s
  | .frcp f => Sys2Proof.Machine.execFrcp f s
  | .frsq f => Sys2Proof.Machine.execFrsq f s
  | .fex2 f => Sys2Proof.Machine.execFex2 f s
  | .flg2 f => Sys2Proof.Machine.execFlg2 f s
  | .fexp f => Sys2Proof.Machine.execFexp f s
  | .flog f => Sys2Proof.Machine.execFlog f s
  | .fsin f => Sys2Proof.Machine.execFsin f s
  | .fcos f => Sys2Proof.Machine.execFcos f s
  | .ftanh f => Sys2Proof.Machine.execFtanh f s
  | .fsig f => Sys2Proof.Machine.execFsig f s
  | .cvt f => Sys2Proof.Machine.execCvt f s
  | .cvtfi f => Sys2Proof.Machine.execCvtfi f s
  | .cvtif f => Sys2Proof.Machine.execCvtif f s
  | .pack f => Sys2Proof.Machine.execPack f s
  | .unpack f => Sys2Proof.Machine.execUnpack f s
  | .fdot2 f => Sys2Proof.Machine.execFdot2 f s
  | .fdot4 f => Sys2Proof.Machine.execFdot4 f s
  | .dadd f => Sys2Proof.Machine.execDadd f s
  | .dmul f => Sys2Proof.Machine.execDmul f s
  | .dfma f => Sys2Proof.Machine.execDfma f s
  | .dmin f => Sys2Proof.Machine.execDmin f s
  | .dmax f => Sys2Proof.Machine.execDmax f s
  | .dcmp f => Sys2Proof.Machine.execDcmp f s
  | .ddiv f => Sys2Proof.Machine.execDdiv f s
  | .dsqrt f => Sys2Proof.Machine.execDsqrt f s
  | .drcp f => Sys2Proof.Machine.execDrcp f s
  | .drsq f => Sys2Proof.Machine.execDrsq f s
  | .iset f => Sys2Proof.Machine.execIset f s
  | .ipt f => Sys2Proof.Machine.execIpt f s
  | .iadd f => Sys2Proof.Machine.execIadd f s
  | .isub f => Sys2Proof.Machine.execIsub f s
  | .imul f => Sys2Proof.Machine.execImul f s
  | .isqr f => Sys2Proof.Machine.execIsqr f s
  | .idiv f => Sys2Proof.Machine.execIdiv f s
  | .isqrt f => Sys2Proof.Machine.execIsqrt f s
  | .ihull f => Sys2Proof.Machine.execIhull f s
  | .iisect f => Sys2Proof.Machine.execIisect f s
  | .imid f => Sys2Proof.Machine.execImid f s
  | .iwid f => Sys2Proof.Machine.execIwid f s
  | .iext f => Sys2Proof.Machine.execIext f s
  | .icmp f => Sys2Proof.Machine.execIcmp f s
  | .isplit f => Sys2Proof.Machine.execIsplit f s
  | .ibisect f => Sys2Proof.Machine.execIbisect f s
  | .lperm f => Sys2Proof.Machine.execLperm f s
  | .lpush f => Sys2Proof.Machine.execLpush f s
  | .lbcast f => Sys2Proof.Machine.execLbcast f s
  | .lmatch f => Sys2Proof.Machine.execLmatch f s
  | .lfirst f => Sys2Proof.Machine.execLfirst f s
  | .lcomp f => Sys2Proof.Machine.execLcomp f s
  | .scan f => Sys2Proof.Machine.execScan f s
  | .red f => Sys2Proof.Machine.execRed f s
  | .pand f => Sys2Proof.Machine.execPand f s
  | .por f => Sys2Proof.Machine.execPor f s
  | .pxor f => Sys2Proof.Machine.execPxor f s
  | .pnot f => Sys2Proof.Machine.execPnot f s
  | .pset f => Sys2Proof.Machine.execPset f s
  | .pmov f => Sys2Proof.Machine.execPmov f s
  | .pcnt f => Sys2Proof.Machine.execPcnt f s
  | .ld f => Sys2Proof.Machine.execLd f s
  | .st f => Sys2Proof.Machine.execSt f s
  | .ldb f => Sys2Proof.Machine.execLdb f s
  | .stb f => Sys2Proof.Machine.execStb f s
  | .ldl f => Sys2Proof.Machine.execLdl f s
  | .stl f => Sys2Proof.Machine.execStl f s
  | .ldlb f => Sys2Proof.Machine.execLdlb f s
  | .ldlx f => Sys2Proof.Machine.execLdlx f s
  | .stlx f => Sys2Proof.Machine.execStlx f s
  | .ldu f => Sys2Proof.Machine.execLdu f s
  | .stu f => Sys2Proof.Machine.execStu f s
  | .ldc f => Sys2Proof.Machine.execLdc f s
  | .ldiv f => Sys2Proof.Machine.execLdiv f s
  | .stiv f => Sys2Proof.Machine.execStiv f s
  | .prf f => Sys2Proof.Machine.execPrf f s
  | .stz f => Sys2Proof.Machine.execStz f s
  | .dsc f => Sys2Proof.Machine.execDsc f s
  | .sdrain f => Sys2Proof.Machine.execSdrain f s
  | .waddr f => Sys2Proof.Machine.execWaddr f s
  | .ldt f => Sys2Proof.Machine.execLdt f s
  | .atom f => Sys2Proof.Machine.execAtom f s
  | .atomf f => Sys2Proof.Machine.execAtomf f s
  | .atomd f => Sys2Proof.Machine.execAtomd f s
  | .atomflush f => Sys2Proof.Machine.execAtomflush f s
  | .atoml f => Sys2Proof.Machine.execAtoml f s
  | .atomfl f => Sys2Proof.Machine.execAtomfl f s
  | .cas f => Sys2Proof.Machine.execCas f s
  | .cas128 f => Sys2Proof.Machine.execCas128 f s
  | .casl f => Sys2Proof.Machine.execCasl f s
  | .fence f => Sys2Proof.Machine.execFence f s
  | .bar f => Sys2Proof.Machine.execBar f s
  | .gbar f => Sys2Proof.Machine.execGbar f s
  | .lbar f => Sys2Proof.Machine.execLbar f s
  | .sema f => Sys2Proof.Machine.execSema f s
  | .semv f => Sys2Proof.Machine.execSemv f s
  | .freeze f => Sys2Proof.Machine.execFreeze f s
  | .thaw f => Sys2Proof.Machine.execThaw f s
  | .fwait f => Sys2Proof.Machine.execFwait f s
  | .mload f => Sys2Proof.Machine.execMload f s
  | .mswap f => Sys2Proof.Machine.execMswap f s
  | .mmul f => Sys2Proof.Machine.execMmul f s
  | .mgmul f => Sys2Proof.Machine.execMgmul f s
  | .msp f => Sys2Proof.Machine.execMsp f s
  | .mgsp f => Sys2Proof.Machine.execMgsp f s
  | .mldmeta f => Sys2Proof.Machine.execMldmeta f s
  | .mzero f => Sys2Proof.Machine.execMzero f s
  | .mrd f => Sys2Proof.Machine.execMrd f s
  | .mwr f => Sys2Proof.Machine.execMwr f s
  | .mst f => Sys2Proof.Machine.execMst f s
  | .mred f => Sys2Proof.Machine.execMred f s
  | .mscale f => Sys2Proof.Machine.execMscale f s
  | .macc f => Sys2Proof.Machine.execMacc f s
  | .cpy f => Sys2Proof.Machine.execCpy f s
  | .cpy2 f => Sys2Proof.Machine.execCpy2 f s
  | .cpyg f => Sys2Proof.Machine.execCpyg f s
  | .cpyd f => Sys2Proof.Machine.execCpyd f s
  | .cpyf f => Sys2Proof.Machine.execCpyf f s
  | .cpyr f => Sys2Proof.Machine.execCpyr f s
  | .cpymx f => Sys2Proof.Machine.execCpymx f s
  | .cwait f => Sys2Proof.Machine.execCwait f s
  | .ccnt f => Sys2Proof.Machine.execCcnt f s
  | .launchInsn f => Sys2Proof.Machine.execLaunchInsn f s
  | .kwait f => Sys2Proof.Machine.execKwait f s
  | .ktrig f => Sys2Proof.Machine.execKtrig f s
  | .spawn f => Sys2Proof.Machine.execSpawn f s
  | .hostLinkUp => Sys2Proof.Machine.execHostLinkUp s
  | .internalFatal => Sys2Proof.Machine.execInternalFatal s
  | .copyMatrixEngineReset => Sys2Proof.Machine.execCopyMatrixEngineReset s

end Sys2Proof.Machine
end

