-- ==== Sys2Proof/Machine/Conclude.lean ====
section
/-! DEFINITION. What a step leaves beside the meaning of its instruction or event: packets that were lost (02 R36), the issue
opportunities of the paths passed over (08 R161), and the idle time of busy dies (01 R19). -/

namespace Sys2Proof.Machine

/-! ### Lost packets (R36; entry 63) -/

/-- Whether the next instruction of a path lies on a line that its core does not hold. -/
def fetchesLine (s : State) (h : Hatch) (line : Nat) (p : Path) : Bool :=
  (l1Tlb s h.core (ctxOf s h) (p.pc % 2 ^ 52)).elim false (fun e =>
    lineOf (tlbPa e (p.pc % 2 ^ 52)) == line && ((s.core h.core).line? line).isNone)

/-- The resident blocks that wait on a request for a line: with an access to it, or for an instruction on it. -/
def blocksWaiting (s : State) (line : Nat) : List Block :=
  s.sched.blocks.filter (fun b => b.phase == .resident &&
    (s.ops.any (fun o => o.block == b.inst && o.lanes.any (fun a => a.pending && a.line == line)) ||
      (blockHatches s b).any (fun h => h.slot0.elim false (fetchesLine s h line) || h.slot1.elim false (fetchesLine s h line))))

/-- They are discarded and replayed, as for a transient fault. -/
def discardWaiting (s : State) (line : Nat) : State := (blocksWaiting s line).foldl (fun s b => discardBlock s b .transient) s

/-- The WHERE of a lost packet: a port to its package, or the die where it stood. -/
def lostWhere (s : State) (p : Packet) : Nat :=
  match p.dst, p.here with
  | .chip c, _ => (routePorts s c).headD 0
  | _, .router r => 16 + r.die
  | _, _ => 20

/-- The request of a coherence message within the package fails: nobody waits for it any more, and its line's entry returns to the state
that its owner and sharers give it. Bytes that only the lost packet held leave the line poisoned. -/
def loseEvent (s : State) (e : Event) : State :=
  let line := e.arg.line
  let s := updCoh s (fun c => { c with agents := updWhere (fun a => a.line == line) (fun a => { a with pending := none }) c.agents })
  let s := discardWaiting s line
  let d := dirAt s line
  let gone := e.what == .dataResponse && e.arg.grant == .modified && d.owner.isSome && e.arg.data.bytes != homeRead s line
  let s := if gone then poisonHome s line else s
  if d.st.busy then settleDir s { d with owner := if gone then none else d.owner } else s

/-- One lost packet is logged. What a trigger or spawn packet announces stands in its queue still, and is announced again; a package
that a packet does not reach has failed. -/
def losePacket (s : State) (p : Packet) : State :=
  let s := logError s 1 1 0x0106 (lostWhere s p) 0 0
  let fail := fun (s : State) (c : Nat) => s.postOnce .packageFailure { chip := c, uport := lostWhere s p }
  match p.cargo with
  | .forward c _ _ => fail s c
  | .chip m => discardWaiting (fail s m.chip) m.line
  | .event e => if p.cls == .trg then s.postOnce e.what e.arg else loseEvent s e

def settleLost (s : State) : State :=
  if s.fab.lost.isEmpty then s
  else finish (s.fab.lost.foldl losePacket { s with fab := { s.fab with lost := [] } })

/-! ### Issue opportunities (R160, R161) -/

/-- The pipe that a path's next instruction needs, where the path is ready: it would issue now. -/
def readyPipe (s : State) (h : Hatch) (slot : Nat) (p : Path) : Option Nat :=
  match tryIssue s h slot p with
  | .done _ => none
  | .run i t =>
    if t.cur.isNone then none
    else match exec i t with
      | .next u => if u.wants.isEmpty && !u.stalled.contains ⟨h.inst, slot⟩ then some t.pipe else none
      | _ => none

/-- One more issue opportunity passed over; the 4,096th posts PROMOTION. -/
def passOver (s : State) (inst slot : Nat) : State :=
  match (s.hatch? inst).bind (·.path? slot) with
  | none => s
  | some p =>
    if p.passed + 1 < 4096 then s.updPath inst slot (fun p => { p with passed := p.passed + 1 })
    else (s.updPath inst slot (fun p => { p with passed := 0 })).post .promotion { hatch := inst, slot := slot }

/-- The paths of a partition that were ready for a pipe, but for the one that issued to it and trap handlers. -/
def passedOver (s : State) (r : PathRef) (core part pipe : Nat) : List PathRef :=
  ((readyPaths s).filter (fun (h, slot, p) => h.core == core && h.partition == part && PathRef.mk h.inst slot != r && !p.handler &&
    readyPipe s h slot p == some pipe)).map (fun (h, slot, _) => ⟨h.inst, slot⟩)

/-- Counts the opportunities of an issue: `before` is the state in which the issuing path was chosen, `issue` the one in which its
instruction ran, and `after` what that left. -/
def countPassed (before issue after : State) : State :=
  match issue.cur.bind (fun r => (issue.hatch? r.hatch).map (fun h => (r, h.core, h.partition))) with
  | none => after
  | some (r, c, q) =>
    if (after.core c).issued.getD q 0 == (before.core c).issued.getD q 0 then after
    else (passedOver before r c q issue.pipe).foldl (fun s x => passOver s x.hatch x.slot) after

/-- What an issued instruction holds from now on: its pipe, and the registers it writes until its latency is over (R158). -/
def takenBy (s : State) (h : Hatch) (i : Instr) : Taken :=
  let e := ({ h with emptyV := 0, emptyS := 0, emptyP := 0 } : Hatch).markEmpty (instrShape i).dsts true
  { hatch := h.inst, partition := h.partition, pipe := instrPipe i, since := s.clock, free := s.clock + (instrTime i).1
    due := s.clock + (instrTime i).2, v := e.emptyV, s := e.emptyS, p := e.emptyP }

/-- Records an issue, where the step was one: as `countPassed`. -/
def noteTaken (before issue after : State) (i : Instr) : State :=
  match issue.cur.bind (fun r => issue.hatch? r.hatch) with
  | none => after
  | some h =>
    if (after.core h.core).issued.getD h.partition 0 == (before.core h.core).issued.getD h.partition 0 then after
    else after.updCore h.core (fun k => { k with taken := k.taken ++ [takenBy issue h i] })

/-! ### The end of a step -/

/-- Whether an operation waits at its word's home in another package (R388, R395). -/
def Op.waitsAfar (o : Op) : Bool := o.prog != 0 && (match o.what with
  | .sema _ => true
  | .waddr _ => o.lanes.all (fun a => a.mt != 4)
  | _ => false)

/-- A `sema` or `waddr` that waits in another package and has gone with its path is taken back there (entry 16). -/
def withdraw (before after : State) : State :=
  (before.ops.filter (fun o => o.waitsAfar && !after.ops.any (fun x => x.id == o.id))).foldl (fun s o =>
    s.post .storeCommit { src := .op o.id 0, op := o.id, core := o.core, line := (o.lanes.head?).elim 0 (·.line)
                          who := .agent s.fab.chipId (coreDie o.core), withdrawn := true }) after

/-- What is left of a step that ran `what` from `issue`. -/
def closeRun (before issue after : State) (what : Instr) : State :=
  let s := concluded issue after what
  busyNote (withdraw issue (settleLost (settle (if after.wants.isEmpty then noteTaken before issue (countPassed before issue s) what else s))))

/-- What is left of a step that ran no instruction: a clock, or a fetch that ended the path's turn. -/
def closeDone (before after : State) : State :=
  busyNote (withdraw before (settleLost (settle (concluded { before with cur := after.cur, arg := after.arg, turns := after.turns } after (.nop .l64 0)))))

end Sys2Proof.Machine
end

