-- ==== Sys2Proof/Machine/Program.lean ====
section
/-! DEFINITION. A machine that is about to run one instruction (entry 8): the launch, block and hatch that a LAUNCH and an
admission would have made, on core 0, with the instruction's bytes in memory and in the core's L1, and the pages of the program, of the
hatch area and of VA 0 in its TLB. -/

namespace Sys2Proof.Machine

/-- Where the instruction stands: a page of device memory and a virtual page that names it. -/
def progPa : Nat := 0x10000
def progVa : Nat := 0x40000

def progRec : LaunchRec :=
  { LaunchRec.zero with entry := progVa, trap := progVa + 0x1000, blocks := 1, hatches := 1, peak := 128, tiles := 8 }

def progLaunch (clock : Nat) : Launch :=
  { id := 1, rcd := progRec, ctx := 0, recVa := 0, watched := false, watch := none, phase := .running, spawnSerial := 0, nextIdx := [1, 1, 1, 1], queuedAt := clock }

def progPage (va pa : Nat) : TlbEntry :=
  { ctx := 0, page := va / 65536, level := 3, pa := pa, r := true, w := true, x := true, u := false, mt := 0
    watch := false, d := true, f := false, frz := false }

/-- The hatch area's address, and the pages that are mapped: the program, the hatch area, and the page of VA 0. -/
def progArea : Nat := 0x80000
def progTlb : List TlbEntry := [progPage progVa progPa, progPage progArea 0x30000, progPage 0 0x20000]

def progLine (bs : List Byte) (clock : Nat) : L1Line :=
  { L1Line.fresh (lineOf progPa) .read bs 0 0 with use := clock }

/-- The machine about to run the instruction whose bytes are given. -/
def placeProgram (s : State) (bs : List Byte) : State :=
  let b := { newBlock 0 1 0 0 progRec s.clock with phase := .resident, cores := [0] }
  let h := newHatch 1 b progRec 0 0 0 0 progArea
  let s := homeWrite s (lineOf progPa) 0 bs
  let line := progLine (homeRead s (lineOf progPa)) s.clock
  let core := fun (k : Core) => { k with
    l1 := line :: k.l1.filter (fun l => l.line != lineOf progPa)
    tlb := progTlb ++ k.tlb
    taken := [] }
  let s := chanFill (s.updCore 0 core) (lineOf 0x20000) 0xF
  { s with
    pkg := { s.pkg with devState := .ready, thermtrip := false, prochot := false, thermalDepth := 0, capDepth := 0 }
    dies := s.dies.set 0 { s.dies.getD 0 Die.reset with gate := .powered }
    tr := { s.tr with ctxs := s.tr.ctxs.set 0 (some ⟨0, true⟩) }
    sched := { s.sched with launches := [progLaunch s.clock], blocks := [b], nextSeq := 2 }
    hatches := [h], ops := [], inbox := [], turns := [], net := [], parked := [], stalled := [], dry := [], cur := none
    nextId := max s.nextId 2 }

end Sys2Proof.Machine
end

