-- ==== Sys2Proof/Machine/Step.lean ====
section
/-! DEFINITION. One step of the machine: it serves one event or message, runs one instruction of one path, or lets one
clock pass. What is left to do after that stands in Conclude.lean. -/

namespace Sys2Proof.Machine

def step (s : State) : Host.Outcome State Fault Refusal :=
  match plan s with
  | .done t => .next (closeDone s t)
  | .run i t => match exec i t with
    | .next u => .next (closeRun s t u i)
    | o => o

/-- s with an instruction where step fetches the next one (entry 8): its bits are w, numbered from the first byte's lowest
bit, and the bits above nbits are 0. -/
def State.withFetchWord (s : State) (nbits w : Nat) : State :=
  placeProgram s (wordBytes (BitVec.ofNat 128 (w % 2 ^ nbits)) 16)

end Sys2Proof.Machine
end

