-- ==== Sys2Proof/Safety.lean ====
section
/-! DEFINITION. What statements about the machine are said in: safe states, an instruction that issues, and what a step that
completes an instruction may change. -/

namespace Sys2Proof.Machine

/-! ### Safe states and steps -/

/-- A state whose memory is in its one canonical form. -/
def State.MemOk (s : State) : Prop := Memory.wf s.mem = true

/-- Every trigger that a committed store raised has been queued, coalesced, suppressed or noted for a sweep (R136, R137,
R140). -/
def State.Settled (s : State) : Prop := s.sched.raised = []

/-- A step is safe in a state when it answers a next state. -/
def State.Goes (s : State) : Prop := ∃ t, step s = .next t

/-- An instruction or event answers a next state of which something holds. -/
def Answers (i : Instr) (s : State) (P : State → Prop) : Prop := ∃ t, exec i s = .next t ∧ P t

/-! ### An instruction issues (R272) -/

/-- The issuing path's instruction passes its checks with every register it needs full; `c` holds its active lanes. -/
def IssuesWith (pre : Iss → Pre) (gidx : BitVec 3) (gsense : BitVec 2) (s : State) (c : Iss) : Prop :=
  ∃ c0, s.issuing = some c0 ∧ pre c0 = .go ∧ c = { c0 with act := c0.guarded gidx gsense }

def IssuesA (op : Nat) (f : AForm) (s : State) (c : Iss) : Prop := IssuesWith (preA op f) f.gidx f.gsense s c
def IssuesB (op : Nat) (f : BForm) (s : State) (c : Iss) : Prop := IssuesWith (preB op f) f.gidx f.gsense s c
def IssuesM (op : Nat) (f : MForm) (s : State) (c : Iss) : Prop := IssuesWith (preM op f) f.gidx f.gsense s c

/-- The same for a memory form: `c` holds the lanes it runs in, which are one for an all-scalar form (R286). -/
def IssuesF (op : Nat) (f : MForm) (s : State) (c0 c : Iss) : Prop := IssuesM op f s c0 ∧ c = c0.forM op f

/-- The checks fail with a trap. -/
def TrapsWith (pre : Iss → Pre) (s : State) (c : Iss) (code info : Nat) : Prop :=
  s.issuing = some c ∧ pre c = .trap code info

/-! ### What the issue of an instruction itself changes (R160 to R162, R178) -/

/-- A path without the marks of issue choice: promotion, chances passed over, the time of its last issue, its wait. -/
def Path.still (p : Path) : Path := { p with promo := 0, passed := 0, lastIssue := 0, wait := .none }

/-- A hatch without the marks of issue choice: its registers and its paths. -/
def Hatch.still (h : Hatch) : Hatch := { h with slot0 := h.slot0.map Path.still, slot1 := h.slot1.map Path.still }

/-- The hatches of a state without the marks of issue choice. -/
def State.stills (s : State) : List Hatch := s.hatches.map Hatch.still

/-- All of the state but the hatches, what waits to be tried again, and the partitions' issue counters. -/
def State.rest (s : State) : State :=
  { s with
    hatches := [], net := [], parked := [], stalled := [], dry := []
    cores := s.cores.map (fun k => { k with issued := [], lastIssue := [] }) }

/-- A path that has just issued, as the n-th instruction of its partition. -/
def Path.issued (p : Path) (n : Nat) : Path := { p with promo := 0, passed := 0, lastIssue := n, wait := .none }

/-- The number that the next issue of a hatch's partition gets. -/
def issueNo (s : State) (inst : Nat) : Nat :=
  (s.hatch? inst).elim 0 (fun h => (s.core h.core).issued.getD h.partition 0 + 1)

/-- State t is state s whose path in a slot of a hatch has just issued: nothing differs but the marks of issue choice and
what waits to be tried again. -/
structure Issued (s t : State) (inst slot : Nat) : Prop where
  rest : t.rest = s.rest
  hatches : t.stills = s.stills
  path : (t.hatch? inst).bind (fun h => h.path? slot) =
    ((s.hatch? inst).bind (fun h => h.path? slot)).map (fun p => p.issued (issueNo s inst))

/-- The issuing hatch is replaced by h and its path by p, which has issued; nothing else changes. -/
def Advanced (s t : State) (c : Iss) (h : Hatch) (p : Path) : Prop :=
  Issued (s.updHatch c.inst (fun _ => h.setPath c.slot (some p))) t c.inst c.slot

/-- As `Advanced`, and the path goes on to the next instruction in sequence (R301). -/
def Completed (s t : State) (c : Iss) (h : Hatch) (p : Path) (len : Nat) : Prop :=
  Advanced s t c h (p.arrive (wrap64 (c.p.pc + len)))

/-- The registers of an instruction that takes longer than the next issue are empty until the next clock (R158, R179). -/
def Hatch.late (h : Hatch) (sh : Shape) : Hatch := if sh.marks && !sh.allScalar then h.markLate sh.dsts else h

/-- As `Completed`, for an instruction that writes the registers of a shape; launches in flight know which scalars are newer than
they are (R159). -/
def Finished (s t : State) (c : Iss) (sh : Shape) (h : Hatch) (p : Path) (len : Nat) : Prop :=
  Completed (keepNewer s c.inst sh.dsts) t c (h.late sh) p len

/-- The path goes on to the next instruction in sequence and nothing else changes. -/
def Passed (s t : State) (c : Iss) (len : Nat) : Prop :=
  Issued (s.updPath c.inst c.slot (fun p => p.arrive (wrap64 (c.p.pc + len)))) t c.inst c.slot

/-- The issuing hatch is changed by g and its path by q, and the path has issued; nothing else changes. -/
def Changed (s t : State) (c : Iss) (g : Hatch → Hatch) (q : Path → Path) : Prop :=
  Issued (s.updHatch c.inst (fun h => (g h).setPath c.slot ((h.path? c.slot).map q))) t c.inst c.slot

/-! ### Instructions that write registers -/

/-- The lanes in which an A-format instruction runs (R249, R286). -/
def Iss.lanesA (c : Iss) (op : Nat) (f : AForm) : LaneSet :=
  c.execMask (aShape op (aRule c.fieldCtx op f) f).allScalar (f.gsense != 0)

/-- The issuing hatch and path with the results of an A-format instruction: last-use frees, the writes, the flags. -/
def Iss.resultA (c : Iss) (op : Nat) (f : AForm) (m : LaneSet) (ws : List Write) (fl : FpFlags) : Hatch × Path :=
  let hp := ws.foldl (applyWrite c.prot m) (c.h.freeLast (aShape op (aRule c.fieldCtx op f) f), c.p)
  ({ hp.1 with fpflags := hp.1.fpflags ||| fl }, hp.2)

/-- The registers that an A-format instruction reads and writes; `far` says whether the lanes that it reads make it take a second
clock (R354). -/
def Iss.shapeA (c : Iss) (op : Nat) (f : AForm) (far : Bool) : Shape :=
  let sh := aShape op (aRule c.fieldCtx op f) f
  { sh with marks := sh.marks || far }

/-- Instruction i, with opcode op and fields f, completes wherever it issues with a lane to run in, what `ok` asks holds and
its results find registers: the writes and the flags are made in the lanes `m`, and nothing else changes. -/
def WritesFar (i : Instr) (op : Nat) (f : AForm) (ok : Iss → Prop) (m : Iss → LaneSet) (far : Iss → Bool) (ws : Iss → List Write)
    (fl : Iss → FpFlags) : Prop :=
  ∀ s c, s.Settled → IssuesA op f s c → ok c → m c ≠ 0 →
    allocTest s c (c.resultA op f (m c) (ws c) (fl c)).1 = .ok →
    Answers i s (fun t => Finished s t c (c.shapeA op f (far c))
      (c.resultA op f (m c) (ws c) (fl c)).1 (c.resultA op f (m c) (ws c) (fl c)).2 f.len)

/-- As `WritesFar`, for an instruction whose registers alone say how long it takes. -/
def WritesIn (i : Instr) (op : Nat) (f : AForm) (ok : Iss → Prop) (m : Iss → LaneSet) (ws : Iss → List Write)
    (fl : Iss → FpFlags) : Prop := WritesFar i op f ok m (fun _ => false) ws fl

/-- With no lane to run in an instruction has no effect but that it issues (R249). -/
def Skips (i : Instr) (op : Nat) (f : AForm) (m : Iss → LaneSet) : Prop :=
  ∀ s c, s.Settled → IssuesA op f s c → m c = 0 → Answers i s (fun t => Passed s t c f.len)

/-- The common case: the lanes are those of R249 and R286, and nothing more is asked. -/
def Writes (i : Instr) (op : Nat) (f : AForm) (ws : Iss → List Write) (fl : Iss → FpFlags) : Prop :=
  WritesIn i op f (fun _ => True) (fun c => c.lanesA op f) ws fl

/-- An instruction writes to D's w registers, in the lanes it runs in, values of which `spec` holds, and sets no flag. -/
def WritesReg (i : Instr) (op : Nat) (f : AForm) (w : Nat) (spec : (Iss → Nat → Nat) → Prop) : Prop :=
  ∃ val, spec val ∧ Writes i op f (fun c => [.reg f.dst w (val c)]) (fun _ => 0)

/-- As `WritesReg`, for a predicate destination. -/
def WritesPred (i : Instr) (op : Nat) (f : AForm) (spec : (Iss → Nat → Tri) → Prop) : Prop :=
  ∃ val, spec val ∧ Writes i op f (fun c => [.pred (predReg f.dst) (val c)]) (fun _ => 0)

/-- As `WritesReg`, with the flags that the lanes raise (R234). -/
def WritesFloat (i : Instr) (op : Nat) (f : AForm) (w : Nat) (spec : (Iss → Nat → Nat × FpFlags) → Prop) : Prop :=
  ∃ val, spec val ∧ Writes i op f (fun c => [.reg f.dst w (fun l => (val c l).1)])
    (fun c => laneFlags (c.lanesA op f) (fun l => (val c l).2))

/-! ### Elements of operands (R226, R322, R339) -/

/-- Element j of A, of B and of C as the integer type of the instruction reads it. -/
def intElemA (c : Iss) (f : AForm) (l j : Nat) : Int := elemInt (tyWidth f.tyN) (isSigned f.tyN) (intA c f l) j
def intElemB (c : Iss) (f : AForm) (l j : Nat) : Int := elemInt (tyWidth f.tyN) (isSigned f.tyN) (intB c f l) j
def intElemC (c : Iss) (f : AForm) (l j : Nat) : Int := elemInt (tyWidth f.tyN) (isSigned f.tyN) (c.srcC f 1 l) j

/-- Every element of the result is an exact value brought to the type: wrapped, or saturated where `.sat` asks (R227). -/
def ElemsAre (f : AForm) (g : Int → Int → Int → Int) (val : Iss → Nat → Nat) : Prop :=
  ∀ c l j, j < tyCount f.tyN → elemCode (tyWidth f.tyN) (val c l) j =
    fit (tyWidth f.tyN) (isSigned f.tyN) f.satBit (g (intElemA c f l j) (intElemB c f l j) (intElemC c f l j))

/-- Element j of a floating-point operand. -/
def floatElem (f : AForm) (v j : Nat) : Nat := v / 2 ^ (fWidth f.tyN * j) % 2 ^ fWidth f.tyN

/-- Every element of the result is `g` of the elements of the sources, and a flag is raised when some element raises it. -/
def FloatsAre (f : AForm) (g : Iss → Nat → Nat → Nat → Nat × FpFlags) (val : Iss → Nat → Nat × FpFlags) : Prop :=
  ∀ c l,
    (∀ j, j < fCount f.tyN → elemCode (fWidth f.tyN) (val c l).1 j =
      (g c (floatElem f (floatA c f l) j) (floatElem f (floatB c f l) j) (floatElem f (floatC c f l) j)).1 % 2 ^ fWidth f.tyN) ∧
    (∀ i, (val c l).2.getLsbD i = (List.range (fCount f.tyN)).any (fun j =>
      (g c (floatElem f (floatA c f l) j) (floatElem f (floatB c f l) j) (floatElem f (floatC c f l) j)).2.getLsbD i))

/-! ### Interval results (R357) -/

/-- What an interval instruction of the full form needs: a result in every lane, or the `.p` form (R357). -/
def IntervalOk (f : AForm) (g : Iss → Nat → Option (Ivl × FpFlags)) (c : Iss) : Prop :=
  4 ≤ f.sub ∨ ∀ l, l < 96 → (c.execMask false (f.gsense != 0)).getLsbD l = true → (g c l).isSome = true

/-- An interval instruction completes: D takes the interval in the lanes that have one, and the `.p` form writes T there and
F in the other lanes of pP (R357, R359). -/
def WritesIvl (i : Instr) (op : Nat) (f : AForm) (g : Iss → Nat → Option (Ivl × FpFlags)) : Prop :=
  ∃ (val : Iss → Nat → Ivl) (good : Iss → LaneSet),
    (∀ c l, l < 96 → ((good c).getLsbD l = true ↔
      (c.execMask false (f.gsense != 0)).getLsbD l = true ∧ (g c l).isSome = true)) ∧
    (∀ c l x, g c l = some x → val c l = x.1) ∧
    WritesIn i op f (IntervalOk f g) (fun c => c.execMask false (f.gsense != 0))
      (fun c => .ivlIn f.dst (tyRegs f.tyN) (good c) (val c) ::
        (if 4 ≤ f.sub then [.pred (f.aux.toNat % 8) (fun l => if (good c).getLsbD l then .t else .f)] else []))
      (fun c => laneFlags (good c) (fun l => ((g c l).map (·.2)).getD 0))

/-! ### System instructions (13) -/

/-- The issuing A-format instruction of c writes `ws` in the lanes m of state s and goes on, if registers can be had. -/
def Wrote (s t : State) (c : Iss) (op : Nat) (f : AForm) (m : LaneSet) (ws : List Write) : Prop :=
  allocTest s c (c.resultA op f m ws 0).1 = .ok →
    Finished s t c (aShape op (aRule c.fieldCtx op f) f) (c.resultA op f m ws 0).1 (c.resultA op f m ws 0).2 f.len

/-- Lane 0, and in protected mode its shadow: where an instruction that runs once writes (R286, R195). -/
def Iss.onceMask (c : Iss) : LaneSet := if c.prot then 3 else 1

/-- The path traps at its own instruction (R170, R272). -/
def Trapped (s t : State) (c : Iss) (r : TrapReport) : Prop := t = finish (takeTrap s c.inst c.slot c.p.pc r)

/-! ### Asynchronous instructions (R179, R186, R189) -/

/-- Whether every register of a destination is marked empty. -/
def Hatch.waitsFor (h : Hatch) (d : BitVec 8 × Nat) : Prop := ∀ k, k < d.2 →
  (∀ r, specKind d.1 = .v r → r + k < 64 → h.emptyV.getLsbD (r + k) = true) ∧
  (∀ r, specKind d.1 = .s r → r + k < 128 → h.emptyS.getLsbD (r + k) = true) ∧
  (∀ r, specKind d.1 = .p r → h.emptyP.getLsbD r = true)

/-- The issuing path has gone on to the next instruction in sequence: its PC, its loops and its mask. -/
def WentOn (t : State) (c : Iss) (len : Nat) : Prop :=
  (t.hatch? c.inst).bind (fun h => (h.path? c.slot).map (fun p => (p.pc, p.loops, p.mask, p.domain))) =
    some ((endCheck (wrap64 (c.p.pc + len)) c.p.loops).2, (endCheck (wrap64 (c.p.pc + len)) c.p.loops).1, c.p.mask, c.p.domain)

/-- State t is state s in which an instruction of c has begun as the operation o: the operation is in flight and counted in
its class, the destinations are empty until it ends, the path has gone on, and nothing else of the hatch, no other hatch and
no byte at a home has changed. -/
structure Began (s t : State) (c : Iss) (sh : Shape) (cls : Nat) (o : Op) : Prop where
  inFlight : o ∈ t.ops ∧ o.id = s.nextId
  older : ∀ q ∈ s.ops, q.id < s.nextId → ∃ r ∈ t.ops, r = { q with vecs := r.vecs }
  mine : o.hatch = c.inst ∧ o.slot = c.slot ∧ o.core = c.h.core ∧ o.pc = c.p.pc
  counted : (t.hatch? c.inst).map (fun h => h.count cls) = some (c.h.count cls ++ [o.id])
  empties : ∀ h, t.hatch? c.inst = some h → ∀ d ∈ sh.dsts, h.waitsFor d
  onward : WentOn t c 16
  scalars : (t.hatch? c.inst).map (fun h => (h.s, h.p, h.pstack, h.fpflags)) = some (c.h.s, c.h.p, c.h.pstack, c.h.fpflags)
  vectors : ∀ h, t.hatch? c.inst = some h → sh.srcs.all (fun u => !u.last) = true →
    ∀ r, r ∉ dstRegs sh.dsts → h.vreg r = c.h.vreg r
  others : ∀ i, i ≠ c.inst → (t.hatch? i).map Hatch.still = (s.hatch? i).map Hatch.still
  memory : t.mem = s.mem ∧ t.slices = s.slices

/-! ### M-format instructions that write once -/

/-- The issuing hatch and path with v in the w registers of D, in lane 0 (R286). -/
def Iss.resultOnce (c : Iss) (op : Nat) (f : MForm) (w v : Nat) : Hatch × Path :=
  let hp := applyWrite c.prot c.onceMask (c.h.freeLast (mShape op f), c.p) (.reg f.d w (fun _ => v))
  ({ hp.1 with fpflags := hp.1.fpflags ||| 0 }, hp.2)

/-- An M-format instruction of c has ended in state s with v in D, and its path has gone on. -/
def Ended (s t : State) (c : Iss) (op : Nat) (f : MForm) (w v : Nat) : Prop :=
  let k := c.refresh s
  Finished s t k (mShape op f) (k.resultOnce op f w v).1 (k.resultOnce op f w v).2 16

/-- State s is settled and has the registers that the end of an instruction in it takes. -/
def CanEnd (s : State) (c : Iss) (op : Nat) (f : MForm) (w v : Nat) : Prop :=
  s.Settled ∧ allocTest s (c.refresh s) ((c.refresh s).resultOnce op f w v).1 = .ok

/-- What the issuing path of c waits for. -/
def waitOf (t : State) (c : Iss) : Option Wait := (t.hatch? c.inst).bind (fun h => (h.path? c.slot).map (fun p => p.wait))

/-! ### Events (22) -/

/-- The event ends in state u, in which everything that waits is tried again. -/
def Leads (i : Instr) (s u : State) : Prop := exec i s = .next u.wake

/-- A command of the management window has completed with a status and a response (R97, R103). -/
def CmdDone (t : State) (status : Nat) (resp : List Byte) : Prop :=
  t.host.cmdBusy = false ∧ t.host.cmdDone = true ∧ t.host.cmdStatus = status ∧ t.host.cmdRespLen = resp.length ∧
    t.host.cmdBuf.take resp.length = resp

/-- The command completes with a status and a response, and P holds of the state after it. -/
def Commands (i : Instr) (s : State) (status : Nat) (resp : List Byte) (P : State → Prop) : Prop :=
  Answers i s (fun t => CmdDone t status resp ∧ P t)

/-- A message of the package of which P holds is on its way: with its agent, or in a packet of the fabric. -/
def UnderWay (t : State) (what : Instr) (P : Arg → Prop) : Prop :=
  (∃ e ∈ t.net, e.what = what ∧ P e.arg) ∨
    ∃ p ∈ t.fab.packets ++ t.fab.lost, ∃ e, p.cargo = .event e ∧ e.what = what ∧ P e.arg

/-- A message to another package of which P holds has left, or is in a packet of the fabric. -/
def SentChip (t : State) (P : ChipMsg → Prop) : Prop :=
  (∃ port hops m, OutMsg.toChip port hops m ∈ t.out ∧ P m) ∨
    ∃ p ∈ t.fab.packets ++ t.fab.lost, ∃ m, p.cargo = .chip m ∧ P m

/-- Nothing that runs, and no byte of memory, has changed. -/
def SameWork (s t : State) : Prop := t.mem = s.mem ∧ t.slices = s.slices ∧ t.hatches = s.hatches ∧ t.ops = s.ops

/-- A state that differs from s in nothing but which paths are to be tried again later. -/
def Stalled (s t : State) : Prop := t = { s with stalled := t.stalled, dry := t.dry }

end Sys2Proof.Machine
end

