-- ==== Sys2Proof/Certificates/Slice0/Obligations.lean ====
section
/-! DEFINITION. The statements for the provers. -/

open Sys2Proof Sys2Proof.Machine

/-! ### Integer instructions (14) -/

/-- R323, R325, R331: the elementwise integer instructions complete, and every element of D is the exact value brought to
the type. -/
def Obligations.IntegerElements : Prop := ∀ f : AForm,
  WritesReg (.add f) 0x20 f 1 (ElemsAre f (fun a b _ => a + b)) ∧
  WritesReg (.sub f) 0x21 f 1 (ElemsAre f (fun a b _ => a - b)) ∧
  WritesReg (.add64 f) 0x24 f 2 (ElemsAre f (fun a b _ => a + b)) ∧
  WritesReg (.sub64 f) 0x25 f 2 (ElemsAre f (fun a b _ => a - b)) ∧
  WritesReg (.mul f) 0x26 f 1 (ElemsAre f (fun a b _ => a * b)) ∧
  WritesReg (.mad f) 0x29 f 1 (ElemsAre f (fun a b c => a * b + c)) ∧
  WritesReg (.min f) 0x2D f 1 (ElemsAre f (fun a b _ => min a b)) ∧
  WritesReg (.max f) 0x2E f 1 (ElemsAre f (fun a b _ => max a b)) ∧
  WritesReg (.clamp f) 0x2F f 1 (ElemsAre f (fun a b c => min (max a b) c)) ∧
  WritesReg (.abs f) 0x30 f 1 (ElemsAre f (fun a _ _ => |a|)) ∧
  WritesReg (.neg f) 0x31 f 1 (ElemsAre f (fun a _ _ => -a))

/-- R324: the carry out of `addc` and the borrow out of `subb` make the result exact, so that a chain of them adds and
subtracts numbers of any length.
R325: `mulhi` gives the high half of each exact product; `mulw` and `madw` write the exact product, and the product added
to C, modulo 2^64. -/
def Obligations.WideArithmetic : Prop :=
  (∀ f : AForm,
  (∃ (val : Iss → Nat → Nat) (cy : Iss → Nat → Tri), Writes (.addc f) 0x22 f (fun c => [.reg f.dst 1 (val c), .pred (f.aux.toNat % 8) (cy c)]) (fun _ => 0) ∧
    ∀ c l, val c l < 2 ^ 32 ∧ (cy c l = .t ∨ cy c l = .f) ∧ (intA c f l < 2 ^ 32 → intB c f l < 2 ^ 32 →
      val c l + (if cy c l = .t then 2 ^ 32 else 0) =
        intA c f l + intB c f l + (if f.sub % 2 ≠ 1 ∧ c.h.pcode (f.aux.toNat % 8) l = .t then 1 else 0))) ∧
  (∃ (val : Iss → Nat → Nat) (bw : Iss → Nat → Tri), Writes (.subb f) 0x23 f (fun c => [.reg f.dst 1 (val c), .pred (f.aux.toNat % 8) (bw c)]) (fun _ => 0) ∧
    ∀ c l, val c l < 2 ^ 32 ∧ (bw c l = .t ∨ bw c l = .f) ∧ (intA c f l < 2 ^ 32 → intB c f l < 2 ^ 32 →
      val c l + intB c f l + (if f.sub % 2 ≠ 1 ∧ c.h.pcode (f.aux.toNat % 8) l = .t then 1 else 0) =
        intA c f l + (if bw c l = .t then 2 ^ 32 else 0)))) ∧
  (∀ f : AForm,
  WritesReg (.mulhi f) 0x27 f 1 (fun val => ∀ c l j, j < tyCount f.tyN →
    (elemCode (tyWidth f.tyN) (val c l) j : Int) =
      (intElemA c f l j * intElemB c f l j / 2 ^ tyWidth f.tyN) % 2 ^ tyWidth f.tyN) ∧
  WritesReg (.mulw f) 0x28 f 2 (fun val => ∀ c l,
    (val c l : Int) = (elemInt 32 (isSigned f.tyN) (intA c f l) 0 * elemInt 32 (isSigned f.tyN) (intB c f l) 0) % 2 ^ 64) ∧
  WritesReg (.madw f) 0x2A f 2 (fun val => ∀ c l,
    (val c l : Int) =
      (elemInt 32 (isSigned f.tyN) (intA c f l) 0 * elemInt 32 (isSigned f.tyN) (intB c f l) 0 + (c.srcC f 2 l : Int)) % 2 ^ 64))

/-- R326: with no zero divisor in a lane that runs, or with `.nz`, `div` and `rem` complete; the quotient truncates toward
zero, the dividend is divisor times quotient plus remainder, and the remainder has the dividend's sign.
R326: a zero divisor in a lane that runs traps INT_DIVIDE before any lane is written, naming the lanes, or for an
all-scalar instruction every active lane. -/
def Obligations.Division : Prop :=
  (∀ f : AForm,
  ∃ q r : Iss → Nat → Nat,
    WritesIn (.div f) 0x2B f
      (fun c => f.sub % 2 = 1 ∨ ∀ l, l < 96 → (c.lanesA 0x2B f).getLsbD l = true → intB c f l % 2 ^ 32 ≠ 0)
      (fun c => c.lanesA 0x2B f) (fun c => [.reg f.dst 1 (q c)]) (fun _ => 0) ∧
    WritesIn (.rem f) 0x2C f
      (fun c => f.sub % 2 = 1 ∨ ∀ l, l < 96 → (c.lanesA 0x2C f).getLsbD l = true → intB c f l % 2 ^ 32 ≠ 0)
      (fun c => c.lanesA 0x2C f) (fun c => [.reg f.dst 1 (r c)]) (fun _ => 0) ∧
    ∀ c l, let a := elemInt 32 (isSigned f.tyN) (intA c f l) 0
      let b := elemInt 32 (isSigned f.tyN) (intB c f l) 0
      (b = 0 → q c l = 0xFFFFFFFF ∧ (r c l : Int) = a % 2 ^ 32) ∧
      (b ≠ 0 → ∃ x y : Int, a = b * x + y ∧ |y| < |b| ∧ (0 < a → 0 ≤ y) ∧ (a < 0 → y ≤ 0) ∧
        q c l = fit 32 (isSigned f.tyN) f.satBit x ∧ (r c l : Int) = y % 2 ^ 32)) ∧
  (∀ (f : AForm) (s : State) (c : Iss),
  (IssuesA 0x2B f s c → f.sub % 2 = 0 →
    (∃ l, l < 96 ∧ (c.lanesA 0x2B f).getLsbD l = true ∧ intB c f l % 2 ^ 32 = 0) →
    Answers (.div f) s (fun t => ∃ m : LaneSet,
      t = finish (takeTrap s c.inst c.slot c.p.pc { code := 0x18, info := 0, addr := 0, mask := m }) ∧
      m = if (aShape 0x2B (aRule c.fieldCtx 0x2B f) f).allScalar then c.act
        else laneSet (((lanesOf (c.lanesA 0x2B f)).filter (fun l => intB c f l % 2 ^ 32 == 0)).map (visLane c.prot)))) ∧
  (IssuesA 0x2C f s c → f.sub % 2 = 0 →
    (∃ l, l < 96 ∧ (c.lanesA 0x2C f).getLsbD l = true ∧ intB c f l % 2 ^ 32 = 0) →
    Answers (.rem f) s (fun t => ∃ m : LaneSet,
      t = finish (takeTrap s c.inst c.slot c.p.pc { code := 0x18, info := 0, addr := 0, mask := m }) ∧
      m = if (aShape 0x2C (aRule c.fieldCtx 0x2C f) f).allScalar then c.act
        else laneSet (((lanesOf (c.lanesA 0x2C f)).filter (fun l => intB c f l % 2 ^ 32 == 0)).map (visLane c.prot)))))

/-- R327: each bit of a logic instruction's result is the named function of the bits of A, B and C.
R328: shifts of elements, the rotation, and the shifts of 64-bit values. A count of the width or more gives zeros, or for
an arithmetic shift copies of the sign. -/
def Obligations.LogicAndShifts : Prop :=
  (∀ f : AForm,
  let bits := fun (g : Bool → Bool → Bool → Bool) (val : Iss → Nat → Nat) => ∀ c l, val c l < 2 ^ 32 ∧ ∀ k, k < 32 →
    (val c l).testBit k = g ((intA c f l).testBit k) ((intB c f l).testBit k) ((c.srcC f 1 l).testBit k)
  WritesReg (.and f) 0x32 f 1 (bits (fun a b _ => a && b)) ∧
  WritesReg (.or f) 0x33 f 1 (bits (fun a b _ => a || b)) ∧
  WritesReg (.xor f) 0x34 f 1 (bits (fun a b _ => a ^^ b)) ∧
  WritesReg (.andn f) 0x35 f 1 (bits (fun a b _ => a && !b)) ∧
  WritesReg (.not f) 0x36 f 1 (bits (fun a _ _ => !a)) ∧
  WritesReg (.bitf f) 0x37 f 1 (bits (fun a b c =>
    (f.ctl.toNat / (if c then 1 else 16)).testBit (2 * b.toNat + a.toNat)))) ∧
  (∀ f : AForm,
  let elems := fun (g : Nat → Nat → Nat → Nat) (val : Iss → Nat → Nat) => ∀ c l j, j < tyCount f.tyN →
    elemCode (tyWidth f.tyN) (val c l) j =
      g (tyWidth f.tyN) (elemCode (tyWidth f.tyN) (intA c f l) j) (elemCode (tyWidth f.tyN) (intB c f l) j)
  WritesReg (.shl f) 0x38 f 1 (elems (fun w a n => a * 2 ^ n % 2 ^ w)) ∧
  WritesReg (.shr f) 0x39 f 1 (elems (fun _ a n => a / 2 ^ n)) ∧
  WritesReg (.sar f) 0x3A f 1 (elems (fun w a n => wrapN w (sxt w a / 2 ^ n))) ∧
  WritesReg (.rot f) 0x3B f 1 (fun val => ∀ c l, val c l < 2 ^ 32 ∧ ∀ k, k < 32 →
    (val c l).testBit ((k + intB c f l % 2 ^ 32) % 32) = (intA c f l).testBit k) ∧
  WritesReg (.dsh f) 0x3C f 1 (fun val => ∀ c l,
    let x := c.srcC f 1 l * 2 ^ 32 + intA c f l
    let n := intB c f l % 64
    val c l = if f.sub = 0 then x / 2 ^ n % 2 ^ 32 else x * 2 ^ n % 2 ^ 64 / 2 ^ 32) ∧
  WritesReg (.shl64 f) 0x3D f 2 (fun val => ∀ c l, intA c f l < 2 ^ 64 →
    val c l = intA c f l * 2 ^ c.srcB f 1 f.imm l % 2 ^ 64) ∧
  WritesReg (.shr64 f) 0x3E f 2 (fun val => ∀ c l, intA c f l < 2 ^ 64 →
    val c l = if isSigned f.tyN then wrapN 64 (sxt 64 (intA c f l) / 2 ^ c.srcB f 1 f.imm l)
      else intA c f l / 2 ^ c.srcB f 1 f.imm l))

/-- R329: the bit-field instructions, by the position and the length that their field word gives; a field never runs past
bit 31.
R330: counting and byte instructions. -/
def Obligations.BitFieldsAndCounts : Prop :=
  (∀ f : AForm,
  let pos := fun (w : Nat) => w % 32
  let len := fun (w : Nat) => min (w / 256 % 64) (32 - w % 32)
  WritesReg (.bxt f) 0x3F f 1 (fun val => ∀ c l, let w := intB c f l
    val c l < 2 ^ 32 ∧ ∀ k, k < 32 → (val c l).testBit k =
      if k < len w then (intA c f l).testBit (pos w + k)
      else isSigned f.tyN && decide (0 < len w) && (intA c f l).testBit (pos w + len w - 1)) ∧
  WritesReg (.bins f) 0x40 f 1 (fun val => ∀ c l, let w := c.srcC f 1 l
    val c l < 2 ^ 32 ∧ ∀ k, k < 32 → (val c l).testBit k =
      if pos w ≤ k ∧ k < pos w + len w then (intA c f l).testBit (k - pos w) else (intB c f l).testBit k) ∧
  WritesReg (.bfset f) 0x41 f 1 (fun val => ∀ c l, let w := intA c f l
    val c l < 2 ^ 32 ∧ ∀ k, k < 32 → (val c l).testBit k = decide (pos w ≤ k ∧ k < pos w + len w)) ∧
  WritesReg (.sext f) 0x42 f 1 (fun val => ∀ c l, intA c f l < 2 ^ 32 →
    val c l < 2 ^ 32 ∧ ∀ k, k < 32 → (val c l).testBit k = (intA c f l).testBit (min k (intB c f l)))) ∧
  (∀ f : AForm,
  WritesReg (.bcnt f) 0x43 f 1 (fun val => ∀ c l,
    val c l = ((List.range 32).filter (fun k => (intA c f l).testBit k)).length) ∧
  WritesReg (.clz f) 0x44 f 1 (fun val => ∀ c l, val c l ≤ 32 ∧
    (∀ k, k < val c l → (intA c f l).testBit (31 - k) = false) ∧
    (val c l < 32 → (intA c f l).testBit (31 - val c l) = true)) ∧
  WritesReg (.ctz f) 0x45 f 1 (fun val => ∀ c l, val c l ≤ 32 ∧
    (∀ k, k < val c l → (intA c f l).testBit k = false) ∧ (val c l < 32 → (intA c f l).testBit (val c l) = true)) ∧
  WritesReg (.bitrev f) 0x46 f 1 (fun val => ∀ c l, val c l < 2 ^ 32 ∧
    ∀ k, k < 32 → (val c l).testBit k = (intA c f l).testBit (31 - k)) ∧
  WritesReg (.bshuf f) 0x47 f 1 (fun val => ∀ c l i, i < 4 →
    let sel := elemCode 8 (intB c f l) i
    let m := elemCode 8 (intA c f l) (sel % 4)
    elemCode 8 (val c l) i = match sel / 4 % 4 with
      | 0 => m
      | 1 => 0
      | 2 => if m.testBit 7 then 0xFF else 0
      | _ => 0xFF))

/-- R331 to R334: compare, select, the moves and `lea`.
R335, R336: sums of differences, dot products and integer conversions, exact before they are brought to the result's
type. -/
def Obligations.IntegerSelectAndConvert : Prop :=
  (∀ f : AForm,
  let rel := fun (a b : Int) => match f.sub with
    | 0 => decide (a = b)
    | 1 => decide (a ≠ b)
    | 2 => decide (a < b)
    | 3 => decide (a ≤ b)
    | 4 => decide (b < a)
    | _ => decide (b ≤ a)
  WritesPred (.cmp f) 0x48 f (fun val => ∀ c l, val c l = if rel (intElemA c f l 0) (intElemB c f l 0) then .t else .f) ∧
  WritesPred (.cmp64 f) 0x49 f (fun val => ∀ c l, val c l = if rel (intElemA c f l 0) (intElemB c f l 0) then .t else .f) ∧
  WritesReg (.sel f) 0x4A f 1 (fun val => ∀ c l, val c l = match c.h.pcode (predReg f.srca) l, f.sub with
    | .t, _ => c.srcB f 1 f.imm l
    | .f, _ => c.srcC f 1 l
    | .u, 0 => c.srcC f 1 l
    | .u, 1 => c.srcB f 1 f.imm l
    | .u, _ => (c.opWord f.dst 0 l).toNat) ∧
  WritesReg (.mov f) 0x4B f 1 (fun val => ∀ c l, val c l = if f.immForm then f.imm else c.srcA f 1 l) ∧
  WritesReg (.mov64 f) 0x4C f 2 (fun val => ∀ c l, val c l =
    if !f.immForm then c.srcA f 2 l
    else if f.tyN = 0xA then f.imm * 2 ^ 32 else if f.tyN = 0xC then wrapN 64 (sxt 32 f.imm) else f.imm) ∧
  WritesReg (.lea f) 0x4D f 2 (fun val => ∀ c l, (val c l : Int) =
    ((c.srcA f 2 l : Int) + elemInt 32 (isSigned f.tyN) (c.srcB f 1 f.imm l) 0 * 2 ^ (f.aux.toNat % 8)) % 2 ^ 64)) ∧
  (∀ f : AForm,
  let dot := fun (n w : Nat) (val : Iss → Nat → Nat) => ∀ c l,
    let sb := if f.sub % 2 = 1 then !isSigned f.tyN else isSigned f.tyN
    let sg := isSigned f.tyN || sb
    val c l = fit 32 sg f.satBit (elemInt 32 sg (c.srcC f 1 l) 0 +
      ((List.range n).map (fun j => elemInt w (isSigned f.tyN) (intA c f l) j * elemInt w sb (intB c f l) j)).sum)
  WritesReg (.sad f) 0x4E f 1 (fun val => ∀ c l, (val c l : Int) =
    ((c.srcC f 1 l : Int) + ((List.range (tyCount f.tyN)).map (fun j => |intElemA c f l j - intElemB c f l j|)).sum) % 2 ^ 32) ∧
  WritesReg (.dp2 f) 0x4F f 1 (dot 2 16) ∧ WritesReg (.dp4 f) 0x50 f 1 (dot 4 8) ∧ WritesReg (.dp8 f) 0x51 f 1 (dot 8 4) ∧
  WritesReg (.cvti f) 0x52 f (tyRegs f.tyN) (fun val => ∀ c l,
    let st := f.aux.toNat % 16
    let a := fun j => elemInt (tyWidth st) (isSigned st) (c.srcA f (tyRegs st) l) j
    let b := fun j => elemInt (tyWidth st) (isSigned st) (c.srcB f 1 f.imm l) j
    let put := fun x => fit (tyWidth f.tyN) (isSigned f.tyN) f.satBit x
    match cvtiRow st f.tyN with
    | .whole => val c l = put (a 0)
    | .pack => ∀ j, j < 2 * tyCount st → elemCode (tyWidth f.tyN) (val c l) j =
        put (if j < tyCount st then a j else b (j - tyCount st))
    | .select => ∀ j, j < tyCount f.tyN → elemCode (tyWidth f.tyN) (val c l) j = put (a (tyCount f.tyN * (f.sub % 2) + j))
    | _ => ∀ j, j < tyCount f.tyN → elemCode (tyWidth f.tyN) (val c l) j = put (a j)))

/-! ### Floating point (10, 15) -/

/-- R340: `fadd`, `fsub`, `fmul`, `ffma` and their f64 forms complete; every element is the exact result rounded once, with
the flags of R234. The f64 forms ignore the flush flag (R233). -/
def Obligations.FloatArithmetic : Prop := ∀ f : AForm,
  let t := tyRegs f.tyN
  let ft := fmtOf f.tyN
  WritesFloat (.fadd f) 0x53 f t (FloatsAre f (fun c a b _ => fAdd ft f.mode c.ftz a b)) ∧
  WritesFloat (.fsub f) 0x54 f t (FloatsAre f (fun c a b _ => fSub ft f.mode c.ftz a b)) ∧
  WritesFloat (.fmul f) 0x55 f t (FloatsAre f (fun c a b _ => fMul ft f.mode c.ftz a b)) ∧
  WritesFloat (.ffma f) 0x56 f t (FloatsAre f (fun c a b d => fFma ft f.mode c.ftz a b d)) ∧
  WritesFloat (.dadd f) 0x76 f t (FloatsAre f (fun _ a b _ => fAdd ft f.mode false a b)) ∧
  WritesFloat (.dmul f) 0x77 f t (FloatsAre f (fun _ a b _ => fMul ft f.mode false a b)) ∧
  WritesFloat (.dfma f) 0x78 f t (FloatsAre f (fun _ a b d => fFma ft f.mode false a b d)) ∧
  WritesFloat (.fdiv f) 0x63 f t (FloatsAre f (fun c a b _ => fDiv ft f.mode c.ftz a b)) ∧
  WritesFloat (.fsqrt f) 0x64 f t (FloatsAre f (fun c a _ _ => fSqrt ft f.mode c.ftz a)) ∧
  WritesFloat (.ddiv f) 0x7C f t (FloatsAre f (fun _ a b _ => fDiv ft f.mode false a b)) ∧
  WritesFloat (.dsqrt f) 0x7D f t (FloatsAre f (fun _ a _ _ => fSqrt ft f.mode false a)) ∧
  WritesFloat (.drcp f) 0x7E f t (FloatsAre f (fun _ a _ _ => fDiv fmtF64 f.mode false 0x3FF0000000000000 a)) ∧
  WritesFloat (.drsq f) 0x7F f t (FloatsAre f (fun _ a _ _ => fDrsq f.mode f.rm a))

/-- R341 to R346: least and greatest, signs, comparison, classification, rounding to integers, scaling and exponents
complete, element by element.
R342: the sign instructions set the sign bit of each element, keep every other bit and raise no flag. -/
def Obligations.FloatSelectAndSigns : Prop :=
  (∀ f : AForm,
  let t := tyRegs f.tyN
  let ft := fmtOf f.tyN
  let z := fun (c : Iss) => c.ftz && f.tyN != 0xA
  WritesFloat (.fmin f) 0x57 f t (FloatsAre f (fun c a b _ => fMinMax ft false c.ftz [a, b])) ∧
  WritesFloat (.fmax f) 0x58 f t (FloatsAre f (fun c a b _ => fMinMax ft true c.ftz [a, b])) ∧
  WritesFloat (.fmin3 f) 0x59 f t (FloatsAre f (fun c a b d => fMinMax ft false c.ftz [a, b, d])) ∧
  WritesFloat (.fmax3 f) 0x5A f t (FloatsAre f (fun c a b d => fMinMax ft true c.ftz [a, b, d])) ∧
  WritesFloat (.dmin f) 0x79 f t (FloatsAre f (fun _ a b _ => fMinMax ft false false [a, b])) ∧
  WritesFloat (.dmax f) 0x7A f t (FloatsAre f (fun _ a b _ => fMinMax ft true false [a, b])) ∧
  WritesFloat (.frnd f) 0x60 f t (FloatsAre f (fun c a _ _ => fRnd ft f.mode (z c) a)) ∧
  WritesFloat (.fgetexp f) 0x62 f t (FloatsAre f (fun c a _ _ => fGetexp ft (z c) a)) ∧
  WritesFloat (.fscale f) 0x61 f t (fun val => ∀ c l j, j < fCount f.tyN →
    elemCode (fWidth f.tyN) (val c l).1 j = (fScale ft f.mode (z c) (floatElem f (floatA c f l) j)
      (if fCount f.tyN = 2 then sxt 16 (c.srcB f 1 f.imm l / 2 ^ (16 * j)) else sxt 32 (c.srcB f 1 f.imm l))).1 % 2 ^ fWidth f.tyN)) ∧
  (∀ f : AForm,
  let signs := fun (g : Bool → Bool → Bool) (val : Iss → Nat → Nat × FpFlags) => ∀ c l, (val c l).2 = 0 ∧
    ∀ j, j < fCount f.tyN → ∀ k, k < fWidth f.tyN →
      let a := floatElem f (floatA c f l) j
      let b := floatElem f (floatB c f l) j
      (elemCode (fWidth f.tyN) (val c l).1 j).testBit k =
        if k + 1 = fWidth f.tyN then g (a.testBit k) (b.testBit k) else a.testBit k
  WritesFloat (.fneg f) 0x5B f (tyRegs f.tyN) (signs (fun a _ => !a)) ∧
  WritesFloat (.fabs f) 0x5C f (tyRegs f.tyN) (signs (fun _ _ => false)) ∧
  WritesFloat (.fcpsgn f) 0x5D f (tyRegs f.tyN) (signs (fun _ b => b)))

/-- R343, R344: `fcmp` and `dcmp` write U just where a source is a NaN, and otherwise T or F as the comparison of the values
says; `fclass` tests the class of A against the mask B.
R347, R348: the special functions complete; a result depends on nothing but the operation, the format, the rounding mode,
the flush mode and the operand (R337), and equal elements give equal results.
Which code a special function gives within its bound is a free value (entry 9). -/
def Obligations.FloatCompareAndFunctions : Prop :=
  (∀ f : AForm,
  let rel := fun (z : Bool) (c : Iss) (l : Nat) => fCmp (fmtOf f.tyN) z f.sub (floatA c f l) (floatB c f l)
  let z := fun (c : Iss) => c.ftz && f.tyN != 0xA
  let nan := fun (c : Iss) (l : Nat) => ((fmtOf f.tyN).val (floatA c f l)).isNan = true ∨ ((fmtOf f.tyN).val (floatB c f l)).isNan = true
  (∃ val : Iss → Nat → Tri × FpFlags, (∀ c l, val c l = rel (z c) c l) ∧ (∀ c l, (val c l).1 = .u ↔ nan c l) ∧
    Writes (.fcmp f) 0x5E f (fun c => [.pred (predReg f.dst) (fun l => (val c l).1)])
      (fun c => laneFlags (c.lanesA 0x5E f) (fun l => (val c l).2))) ∧
  (∃ val : Iss → Nat → Tri × FpFlags, (∀ c l, val c l = rel (z c) c l) ∧ (∀ c l, (val c l).1 = .u ↔ nan c l) ∧
    Writes (.dcmp f) 0x7B f (fun c => [.pred (predReg f.dst) (fun l => (val c l).1)])
      (fun c => laneFlags (c.lanesA 0x7B f) (fun l => (val c l).2))) ∧
  WritesPred (.fclass f) 0x5F f (fun val => ∀ c l,
    (val c l = .t ↔ (c.srcB f 1 f.imm l).testBit (fClass (fmtOf f.tyN) (floatA c f l)) = true) ∧ val c l ≠ .u)) ∧
  (∀ f : AForm,
  let t := tyRegs f.tyN
  let sp := fun (op : Nat) (fn : SpecialFn) =>
    FloatsAre f (fun c a _ _ => fSpecial (fmtOf f.tyN) fn op f.mode f.rm c.ftz a)
  WritesFloat (.frcp f) 0x65 f t (sp 0x65 .rcp) ∧ WritesFloat (.frsq f) 0x66 f t (sp 0x66 .rsq) ∧
  WritesFloat (.fex2 f) 0x67 f t (sp 0x67 .ex2) ∧ WritesFloat (.flg2 f) 0x68 f t (sp 0x68 .lg2) ∧
  WritesFloat (.fexp f) 0x69 f t (sp 0x69 .exp) ∧ WritesFloat (.flog f) 0x6A f t (sp 0x6A .log) ∧
  WritesFloat (.fsin f) 0x6B f t (sp 0x6B .sin) ∧ WritesFloat (.fcos f) 0x6C f t (sp 0x6C .cos) ∧
  WritesFloat (.ftanh f) 0x6D f t (sp 0x6D .tanh) ∧ WritesFloat (.fsig f) 0x6E f t (sp 0x6E .sig))

/-- R349 to R353: conversions, `pack`, `unpack` and the dot products complete. `cvtfi` gives an integer of the destination's
range; `pack` writes no word of D that no active lane's element reaches. -/
def Obligations.FloatConversions : Prop := ∀ f : AForm,
  WritesFloat (.cvt f) 0x6F f (tyRegs f.tyN) (fun val => ∀ c l, val c l = cvtLane f c l) ∧
  WritesFloat (.cvtfi f) 0x70 f (tyRegs f.tyN) (fun val => ∀ c l, ∃ x : Int, intLo f.tyN ≤ x ∧ x ≤ intHi f.tyN ∧
    (val c l).1 = wrapN (32 * tyRegs f.tyN) x) ∧
  WritesFloat (.cvtif f) 0x71 f (tyRegs f.tyN) (fun val => ∀ c l, val c l = cvtifLane f c l) ∧
  (∃ ws fl, Writes (.pack f) 0x72 f ws fl ∧ ∀ c, ∀ w ∈ ws c, ∃ r m val, w = .regAt r m val ∧
    (r = vecReg f.dst ∨ r = vecReg f.dst + 1) ∧ (r = vecReg f.dst → ∀ l, l < 96 → m.getLsbD l = true →
      ∃ j, c.act.getLsbD j = true ∧ mfBits (f.aux.toNat % 16) * j < 32 * visLane c.prot l + 32 ∧
        32 * visLane c.prot l < mfBits (f.aux.toNat % 16) * (j + 1))) ∧
  WritesFloat (.unpack f) 0x73 f 1 (fun val => ∀ c l, val c l = unpackLane f c l) ∧
  WritesFloat (.fdot2 f) 0x74 f 1 (fun val => ∀ c l,
    let ft := if f.sub % 2 = 1 then fmtBf16 else fmtF16
    let els := fun (v : Nat) => [ft.read c.ftz (v % 2 ^ 16), ft.read c.ftz (v / 2 ^ 16 % 2 ^ 16)]
    val c l = fDot f.mode c.ftz (els (c.srcA f 1 l)) (els (c.srcB f 1 f.imm l)) (fmtF32.read c.ftz (c.srcC f 1 l))) ∧
  WritesFloat (.fdot4 f) 0x75 f 1 (fun val => ∀ c l,
    let els := fun (e5 : Bool) (v : Nat) => [0, 1, 2, 3].map (fun j =>
      (if e5 then fmtE5m2 else fmtE4m3).val (v / 2 ^ (8 * j) % 2 ^ 8))
    val c l = fDot f.mode c.ftz (els (f.sub % 2 == 1) (c.srcA f 1 l)) (els (f.sub / 2 % 2 == 1) (c.srcB f 1 f.imm l))
      (fmtF32.read c.ftz (c.srcC f 1 l)))

/-- R231: a value that a format represents rounds to itself in every mode and raises no flag. -/
def Obligations.RoundingExact : Prop := ∀ (ft : Fmt) (rm : Rm) (code : Nat), ft ∈ [fmtF16, fmtBf16, fmtF32, fmtF64] →
  code < 2 * ft.signBit → code % ft.signBit < ft.infCode → roundVal ft rm false (ft.val code) = (code, flNone)

/-! ### Intervals (16) -/

/-- R357 to R360: the interval instructions complete with the operations of R236 to R242 on the operands read as intervals;
a point stands for a plain operand.
R357: without `.p` a lane with no result traps INTERVAL_EMPTY before any lane is written, and names those lanes.
The flags, and bounds that are not stated, are as entries 19 and 40 say. -/
def Obligations.IntervalOperations : Prop :=
  (∀ f : AForm,
  let ft := fmtOf f.tyN
  let a := fun (c : Iss) (l : Nat) => ivlA c f l
  let b := fun (c : Iss) (l : Nat) => ivlB c f l
  let two := fun (g : Ivl → Ivl → Ivl × FpFlags) (c : Iss) (l : Nat) =>
    some ((g (a c l).1 (b c l).1).1, (a c l).2 ||| (b c l).2 ||| (g (a c l).1 (b c l).1).2)
  WritesIvl (.iset f) 0x80 f (fun c l =>
    if f.sub % 2 = 1 then Ivl.setRadius ft (floatA c f l) (floatB c f l) else Ivl.set ft (floatA c f l) (floatB c f l)) ∧
  WritesIvl (.ipt f) 0x81 f (fun c l => some (Ivl.ofPoint ft (floatA c f l))) ∧
  WritesIvl (.iadd f) 0x82 f (two (Ivl.add ft)) ∧ WritesIvl (.isub f) 0x83 f (two (Ivl.sub ft)) ∧
  WritesIvl (.imul f) 0x84 f (two (Ivl.mul ft)) ∧
  WritesIvl (.isqr f) 0x85 f (fun c l => some ((Ivl.sqr ft (a c l).1).1, (a c l).2 ||| (Ivl.sqr ft (a c l).1).2)) ∧
  WritesIvl (.idiv f) 0x86 f (fun c l =>
    (Ivl.div ft (a c l).1 (b c l).1).map (fun x => (x.1, (a c l).2 ||| (b c l).2 ||| x.2))) ∧
  WritesIvl (.isqrt f) 0x87 f (fun c l => (Ivl.sqrt ft (a c l).1).map (fun x => (x.1, (a c l).2 ||| x.2))) ∧
  WritesIvl (.ihull f) 0x88 f (two (fun x y => (Ivl.hull ft x y, flNone))) ∧
  WritesIvl (.iisect f) 0x89 f (fun c l =>
    (Ivl.isect ft (a c l).1 (b c l).1).map (fun x => (x, (a c l).2 ||| (b c l).2 ||| flNone)))) ∧
  (∀ (f : AForm) (s : State) (c : Iss), f.sub < 4 →
  let m := c.execMask false (f.gsense != 0)
  let trapped := fun (g : Nat → Option (Ivl × FpFlags)) (t : State) => ∃ bad : LaneSet,
    t = finish (takeTrap s c.inst c.slot c.p.pc { code := 0x0E, info := 0, addr := 0, mask := bad }) ∧
    ∀ j, j < 96 → (bad.getLsbD j = true ↔ ∃ l, l < 96 ∧ m.getLsbD l = true ∧ g l = none ∧ visLane c.prot l = j)
  let g := fun (l : Nat) => (Ivl.isect (fmtOf f.tyN) (ivlA c f l).1 (ivlB c f l).1).map
    (fun x => (x, (ivlA c f l).2 ||| (ivlB c f l).2 ||| flNone))
  let q := fun (l : Nat) => (Ivl.sqrt (fmtOf f.tyN) (ivlA c f l).1).map (fun x => (x.1, (ivlA c f l).2 ||| x.2))
  (IssuesA 0x89 f s c → (∃ l, l < 96 ∧ m.getLsbD l = true ∧ g l = none) → Answers (.iisect f) s (trapped g)) ∧
  (IssuesA 0x87 f s c → (∃ l, l < 96 ∧ m.getLsbD l = true ∧ q l = none) → Answers (.isqrt f) s (trapped q)))

/-- R361 to R363: `imid`, `iwid`, `iext`, `icmp` and `isplit` complete: wherever one issues with a lane to run in and its
results find registers, exec answers a next state that holds the midpoint, the width, the bound, the comparison or the two
halves, and in which nothing else has changed.
The flags are as entry 19 says. -/
def Obligations.IntervalParts : Prop := ∀ (f : AForm) (s : State) (c : Iss), s.Settled →
  let ft := fmtOf f.tyN
  let w := tyRegs f.tyN
  let a := fun l => (ivlA c f l).1
  let completes := fun (i : Instr) (op : Nat) (ws : List Write) (fl : Nat → FpFlags) =>
    let m := c.lanesA op f
    let r := c.resultA op f m ws (laneFlags m fl)
    IssuesA op f s c → m ≠ 0 → allocTest s c r.1 = .ok →
      ∃ t, Sys2Proof.Machine.exec i s = .next t ∧ Finished s t c (c.shapeA op f false) r.1 r.2 f.len
  completes (.imid f) 0x8A [.reg f.dst w (fun l => (a l).mid ft)] (fun _ => 0) ∧
  completes (.iwid f) 0x8B [.reg f.dst w (fun l => ((a l).width ft).1)] (fun l => (ivlA c f l).2 ||| ((a l).width ft).2) ∧
  (∃ val : Nat → Nat, ((c.h.vreg (vecReg f.srca)).tag = 0 → ∀ l, val l = if f.sub % 2 = 1 then (a l).hi else (a l).lo) ∧
      (∀ r, specKind f.srca = .v r → (c.h.vreg r).tag ≠ 0 → ∀ l,
        val l = boundCode c r w (f.sub % 2 == 1) (modLane c.prot (if f.regForm then f.moda else 0) l)) ∧
    completes (.iext f) 0x8C [.reg f.dst w val] (fun _ => 0)) ∧
  completes (.icmp f) 0x8D [.pred (predReg f.dst) (fun l => Ivl.cmp ft f.sub (a l) (ivlB c f l).1)]
    (fun l => (ivlA c f l).2 ||| (ivlB c f l).2) ∧
  (∃ lo hi : Nat → Ivl, (∀ l, (lo l).lo = (a l).lo ∧ (hi l).hi = (a l).hi ∧ (lo l).hi = (hi l).lo ∧ (lo l).hi = (a l).mid ft) ∧
    completes (.isplit f) 0x8E [.ivl f.dst w lo, .ivl f.aux w hi] (fun l => (ivlA c f l).2))

/-! ### Lanes and predicates (16) -/

/-- R354, R366 to R370, R245: `lperm`, `lpush`, `lbcast`, `lmatch`, `lfirst`, `lcomp`, `scan` and `red` complete: wherever
one issues with a lane to run in and its results find registers, exec answers a next state with its results, and in which
nothing else has changed. D is marked empty when a lane that is written reads a lane of another beat.
`lperm` and `lbcast` give 0 for an index past the last lane; `lmatch` names the lowest active lane that holds the same value;
`lpush` and `lcomp` write just the lanes that receive a value. The integer sums of `scan` and `red` are those modulo 2^32 of
the active lanes of the segment, for `scan` up to the own lane or before it. -/
def Obligations.LaneExchangeAndScan : Prop := ∀ (f : AForm) (s : State) (c : Iss), s.Settled →
  let w := tyRegs f.tyN
  let at_ := fun (l k : Nat) => c.srcA f w (physLane c.prot l k)
  let vis := visLane c.prot
  let completes := fun (i : Instr) (op : Nat) (far : Bool) (ws : List Write) (fl : Nat → FpFlags) =>
    let m := c.lanesA op f
    let r := c.resultA op f m ws (laneFlags m fl)
    IssuesA op f s c → m ≠ 0 → allocTest s c r.1 = .ok →
      ∃ t, Sys2Proof.Machine.exec i s = .next t ∧ Finished s t c (c.shapeA op f far) r.1 r.2 f.len
  let picks := fun (i : Instr) (op : Nat) (k : Nat → Nat) =>
    ∃ far : Bool, (far = true ↔ ∃ l, l < 96 ∧ (c.lanesA op f).getLsbD l = true ∧ k l < visCount c.prot ∧
        physLane c.prot l (k l) / 32 ≠ l / 32) ∧
      completes i op far [.reg f.dst w (fun l => if k l < visCount c.prot then at_ l (k l) else 0)] (fun _ => 0)
  let some_ := fun (m : LaneSet) (val : Nat → Nat) => (List.range w).map (fun k =>
    Write.regAt (vecReg f.dst + k) m (fun l => val l / 2 ^ (32 * k)))
  let sums := fun (take : Nat → Nat → Bool) (val : Nat → Nat × FpFlags) => ∀ l, vis l < 96 →
    f.sub = 0 → isF f.tyN = false → f.tyN ≠ 0xA → fWidth f.tyN = 32 → (∀ k, c.srcA f w k < 2 ^ 32) →
    (val l).2 = 0 ∧ (val l).1 = (((List.range 96).filter (fun k => c.act.getLsbD k && k / segOf f == vis l / segOf f &&
      take k (vis l))).map (at_ l)).sum % 2 ^ 32
  picks (.lperm f) 0x90 (fun l => c.srcB f 1 0 l) ∧
  (∃ (far : Bool) (m : LaneSet) (val : Nat → Nat), completes (.lpush f) 0x91 far (some_ m val) (fun _ => 0) ∧
    ∀ i l, i < 96 → l < 96 → c.prot = false → c.act.getLsbD i = true → c.act.getLsbD l = true → c.srcB f 1 0 i = l →
      (∀ j, i < j → j < 96 → c.act.getLsbD j = true → c.srcB f 1 0 j ≠ l) →
      m.getLsbD l = true ∧ val l = at_ l i ∧ (i / 32 ≠ l / 32 → far = true)) ∧
  picks (.lbcast f) 0x92 (fun l => c.srcB f 1 f.imm l) ∧
  (∃ val : Nat → Nat, completes (.lmatch f) 0x93 false [.reg f.dst w val] (fun _ => 0) ∧
    ∀ l, vis l < 96 → c.act.getLsbD (vis l) = true → c.act.getLsbD (val l) = true ∧ at_ l (val l) = at_ l (vis l) ∧
      ∀ j, j < val l → c.act.getLsbD j = true → at_ l j ≠ at_ l (vis l)) ∧
  (∃ val : Nat → Nat, completes (.lfirst f) 0x94 false [.reg f.dst w val] (fun _ => 0) ∧
    ∀ l k, k < 96 → c.act.getLsbD k = true → (∀ j, j < k → c.act.getLsbD j = false) → val l = at_ l k) ∧
  (∃ (m : LaneSet) (val : Nat → Nat), completes (.lcomp f) 0x95 false (some_ m val) (fun _ => 0) ∧
    ∀ i l k : Nat, c.prot = false → (lanesOf c.act)[i]? = some l →
      ((lanesOf c.act).filter (fun j => c.h.pcode (predReg f.srcb) j == .t))[i]? = some k →
      m.getLsbD l = true ∧ val l = at_ l k) ∧
  (∃ val : Nat → Nat × FpFlags,
    completes (.scan f) 0x96 false [.reg f.dst w (fun l => (val l).1)] (fun l => (val l).2) ∧
    sums (fun k i => if f.aux.getLsbD 4 then decide (k < i) else decide (k ≤ i)) val) ∧
  (∃ val : Nat → Nat × FpFlags,
    completes (.red f) 0x97 false [.reg f.dst w (fun l => (val l).1)] (fun l => (val l).2) ∧
    sums (fun _ _ => true) val ∧
    ∀ l l', c.prot = false → l / segOf f = l' / segOf f → val l = val l')

/-- R372, R373, R243: predicate instructions complete by Kleene's three-valued logic; `pset`, `pmov` and `pcnt` complete. -/
def Obligations.Predicates : Prop := ∀ f : AForm,
  let rank := fun (x : Tri) => match x with
    | .f => (0 : Nat)
    | .u => 1
    | .t => 2
  let a := fun (c : Iss) (l : Nat) => c.h.pcode (predReg f.srca) l
  let b := fun (c : Iss) (l : Nat) => c.h.pcode (predReg f.srcb) l
  WritesPred (.pand f) 0x98 f (fun val => ∀ c l, rank (val c l) = min (rank (a c l)) (rank (b c l))) ∧
  WritesPred (.por f) 0x99 f (fun val => ∀ c l, rank (val c l) = max (rank (a c l)) (rank (b c l))) ∧
  WritesPred (.pxor f) 0x9A f (fun val => ∀ c l, rank (val c l) =
    max (min (rank (a c l)) (2 - rank (b c l))) (min (2 - rank (a c l)) (rank (b c l)))) ∧
  WritesPred (.pnot f) 0x9B f (fun val => ∀ c l, rank (val c l) = 2 - rank (a c l)) ∧
  WritesPred (.pset f) 0x9C f (fun val => ∀ c l, val c l = match f.sub with
    | 0 => if c.srcA f 1 l = 0 then .f else .t
    | 1 => .t
    | 2 => .f
    | 3 => .u
    | _ => match c.srcA f 1 l % 4 with
      | 0 => .f
      | 1 => .t
      | _ => .u) ∧
  (∃ ws, Writes (.pmov f) 0x9D f ws (fun _ => 0) ∧ ∀ c, isPred f.srca = true → isPred f.dst = true →
    ws c = [.pred (predReg f.dst) (fun l => c.h.pcode (predReg f.srca) l)]) ∧
  WritesReg (.pcnt f) 0x9E f 1 (fun val => ∀ c l, val c l ≤ 96 ∧ (c.prot = false → val c l =
    ((List.range 96).filter (fun i => c.act.getLsbD i &&
      c.h.pcode (predReg f.srca) i == (if f.sub = 0 then .t else if f.sub = 1 then .f else .u))).length))

/-- R249: with no lane to run in, the register instructions have no effect but that they issue. -/
def Obligations.NoLaneNoEffect : Prop := ∀ (f : AForm) (x : Nat × (AForm → Instr)), x ∈ aOpcodes →
  (0x20 ≤ x.1 ∧ x.1 < 0x80 ∨ 0x8A ≤ x.1 ∧ x.1 ≤ 0x9E ∧ x.1 ≠ 0x8F → Skips (x.2 f) x.1 f (fun c => c.lanesA x.1 f)) ∧
  (0x80 ≤ x.1 ∧ x.1 < 0x8A → Skips (x.2 f) x.1 f (fun c => c.execMask false (f.gsense != 0)))

/-! ### Control flow (13) -/

/-- R296, R299, R305, R306: `nop` and `pad` only move on; `prio` writes the priority; `yield` leaves the path yielded. -/
def Obligations.PlainControl : Prop := ∀ (s : State) (c : Iss), s.Settled →
  (∀ len, s.issuing = some c → Answers (.nop len 0) s (fun t => Passed s t c len.bytes)) ∧
  (∀ f, IssuesA 0x08 f s c → Answers (.pad f) s (fun t => Passed s t c f.len)) ∧
  (∀ f, IssuesA 0x0B f s c → Answers (.prio f) s (fun t => Issued (s.updPath c.inst c.slot (fun p =>
    ({ p with prio := f.aux.toNat % 8 } : Path).arrive (wrap64 (c.p.pc + f.len)))) t c.inst c.slot)) ∧
  (∀ f, IssuesA 0x0A f s c → Answers (.yield f) s (fun t => t.rest = s.rest ∧
    t.stills = (s.updPath c.inst c.slot (fun p => p.arrive (wrap64 (c.p.pc + f.len)))).stills ∧
    (t.hatch? c.inst).bind (fun h => (h.path? c.slot).map (fun p => p.wait)) = some (.yield s.clock 0)))

/-- R297, R298, R304: a branch that every lane of the mask takes moves the whole path to the target and unwinds the loop
bodies that hold it and not the target; one that no lane takes falls through. `call` and `calli` write the link.
R297: `ret` takes the path to the address in its pair; a misaligned one traps ALIGN (R298).
A trap's fields that its rule does not name are 0 (entry 14). -/
def Obligations.WholeBranches : Prop :=
  (∀ (s : State) (c : Iss) (f : BForm), s.Settled →
  let next := wrap64 (c.p.pc + f.len)
  let target := relTarget c.p.pc f.off
  let went := fun (pc : Nat) (t : State) => Advanced s t c c.h { c.p with pc := pc, loops := unwind c.p.pc pc c.p.loops }
  let linked := fun (pc : Nat) (s t : State) =>
    let hp := applyWrite c.prot 1 (c.h, { c.p with pc := pc }) (.reg f.dst 2 (fun _ => next))
    Advanced s t c hp.1 hp.2
  (IssuesB 0x01 f s c → (c.act = 0 → Answers (.bra f) s (fun t => Passed s t c f.len)) ∧
    (c.act = c.p.mask → c.act ≠ 0 → Answers (.bra f) s (went target))) ∧
  (IssuesB 0x02 f s c → (c.act = 0 → Answers (.bru f) s (fun t => Passed s t c f.len)) ∧
    (c.act ≠ 0 → Answers (.bru f) s (fun t => Issued (s.updPath c.inst c.slot (fun p =>
      { p with pc := target, loops := unwind c.p.pc target c.p.loops })) t c.inst c.slot))) ∧
  (IssuesB 0x04 f s c → c.act = c.p.mask → c.act ≠ 0 → Answers (.call f) s (linked target s)) ∧
  (IssuesB 0x03 f s c → c.act = c.p.mask → c.act ≠ 0 →
    (lanesWith c (predReg f.srca) .t = c.act → lanesWith c (predReg f.srca) .u = 0 →
      Answers (.brt f) s (went (relTarget c.p.pc f.off21.toInt))) ∧
    (lanesWith c (predReg f.srca) .u = c.act → lanesWith c (predReg f.srca) .t = 0 →
      Answers (.brt f) s (went (relTarget c.p.pc f.ext.toInt))) ∧
    (lanesWith c (predReg f.srca) .u = 0 → lanesWith c (predReg f.srca) .t = 0 →
      Answers (.brt f) s (fun t => Passed s t c f.len))) ∧
  (∀ s' bs, fetchBlock s c.h { c.p with pc := c.sval f.srca 2 } = (s', .bytes bs) → s'.Settled →
    c.sval f.srca 2 % 4 = 0 → padInfo bs (c.sval f.srca 2 % 32) f.off.toNat = none → c.act = c.p.mask → c.act ≠ 0 →
    (IssuesB 0x06 f s c → Answers (.jmpi f) s (fun t => Advanced s' t c c.h
      { c.p with pc := c.sval f.srca 2, loops := unwind c.p.pc (c.sval f.srca 2) c.p.loops })) ∧
    (IssuesB 0x07 f s c → Answers (.calli f) s (linked (c.sval f.srca 2) s')))) ∧
  (∀ (s : State) (c : Iss) (f : AForm), s.Settled → IssuesA 0x05 f s c →
  let a := c.sval f.srca 2
  (c.act = 0 → Answers (.ret f) s (fun t => Passed s t c f.len)) ∧
  (c.act = c.p.mask → c.act ≠ 0 → a % 4 = 0 → Answers (.ret f) s (fun t =>
    Advanced s t c c.h { c.p with pc := a, loops := unwind c.p.pc a c.p.loops })) ∧
  (c.act ≠ 0 → a % 4 ≠ 0 → Answers (.ret f) s (fun t =>
    t = finish (takeTrap s c.inst c.slot c.p.pc { code := 0x0F, info := 0, addr := a, mask := 0 }))))

/-- R167, R297: a branch that some lanes take and some do not splits the path. The lanes that move keep the slot, the others
take the free one; both carry the split record, whose outstanding lanes are the whole domain.
R300 to R303: `loop` with a count enters its body with that many iterations, and with 0 goes past it; the loop stack
holds four. `brk` leaves n bodies and `cont` goes to the end of the innermost, where the end check of R301 decides.
Which side keeps the lanes outside the mask is the model's choice (entry 49), and a trap's other fields are 0 (entry
14). -/
def Obligations.SplitsAndLoops : Prop :=
  (∀ (s : State) (c : Iss) (f : BForm) (idx : Nat), s.Settled → IssuesB 0x01 f s c →
  c.act ≠ 0 → c.p.mask &&& ~~~c.act ≠ 0 → c.h.pstack = [] → c.h.path? (1 - c.slot) = none → c.slot < 2 →
  splitFree c.h = some idx → c.h.divDepth ≤ 64 → (c.h.splits.filter (fun r => r.idx != idx)).length < 8 →
  Answers (.bra f) s (fun t => ∃ h moved stayed, t.hatch? c.inst = some h ∧
    h.path? c.slot = some moved ∧ h.path? (1 - c.slot) = some stayed ∧
    moved.pc = relTarget c.p.pc f.off ∧ moved.mask = c.act ∧ moved.domain = c.act ∧ moved.split = some idx ∧
    stayed.pc = (endCheck (wrap64 (c.p.pc + f.len)) c.p.loops).2 ∧ stayed.mask = c.p.mask &&& ~~~c.act ∧
    stayed.domain = (c.p.mask &&& ~~~c.act) ||| (c.p.domain &&& ~~~c.p.mask) ∧ stayed.split = some idx ∧
    (∃ r ∈ h.splits, r.idx = idx ∧ r.outstanding = c.p.domain ∧ r.domain = c.p.domain ∧ r.parent = c.p.split) ∧
    h.v = c.h.v ∧ h.s = c.h.s ∧ h.p = c.h.p ∧ t.mem = s.mem)) ∧
  (∀ (s : State) (c : Iss) (f : BForm), s.Settled →
  let count := c.sval f.srca 1
  let start := wrap64 (c.p.pc + f.len)
  let e := relTarget c.p.pc f.off
  (IssuesB 0x0C f s c → (∀ x r, c.p.loops = x :: r → e ≤ x.start + x.len) → c.p.loops.length < 4 →
    Answers (.loop f) s (fun t => Issued (s.updPath c.inst c.slot (fun p => if count = 0 then p.arrive e
      else { p with pc := start, loops := ⟨start, e - start, count⟩ :: p.loops })) t c.inst c.slot)) ∧
  (IssuesB 0x0C f s c → (∀ x r, c.p.loops = x :: r → e ≤ x.start + x.len) → 4 ≤ c.p.loops.length →
    Answers (.loop f) s (fun t => t = finish (takeTrap s c.inst c.slot c.p.pc { code := 0x0A }))) ∧
  (IssuesB 0x0D f s c → c.act = c.p.mask → c.act ≠ 0 → ∀ x, c.p.loops[f.off.toNat - 1]? = some x →
    f.off.toNat ≤ c.p.loops.length → Answers (.brk f) s (fun t => Advanced s t c c.h { c.p with
      pc := (endCheck (wrap64 (x.start + x.len)) (c.p.loops.drop f.off.toNat)).2
      loops := (endCheck (wrap64 (x.start + x.len)) (c.p.loops.drop f.off.toNat)).1 })) ∧
  (IssuesB 0x0E f s c → c.act = c.p.mask → c.act ≠ 0 → ∀ x r, c.p.loops = x :: r →
    Answers (.cont f) s (fun t => Advanced s t c c.h { c.p with
      pc := (endCheck (wrap64 (x.start + x.len)) c.p.loops).2
      loops := (endCheck (wrap64 (x.start + x.len)) c.p.loops).1 })))

/-- R169, R305: `join` gives a path with no split record its whole domain back; the last path of a record takes the record's
domain, its parent and its priority; any other path of a record ends there.
R252, R307: the predicate stack. `pushp` pushes T, F and U by predicate and mask and narrows the mask to the T lanes;
`invp` exchanges T and F; `popp` brings back the lanes that are not U; a full or empty stack traps.
A trap's fields that its rule does not name are 0 (entry 14). -/
def Obligations.JoinAndPredicateStack : Prop :=
  (∀ (s : State) (c : Iss) (f : AForm), s.Settled → IssuesA 0x09 f s c → c.h.pstack = [] →
  (c.p.split = none → Answers (.join f) s (fun t => Issued (s.updPath c.inst c.slot (fun p =>
    ({ p with mask := p.domain, maskDiff := 0 } : Path).arrive (wrap64 (c.p.pc + f.len)))) t c.inst c.slot)) ∧
  (∀ idx r, c.p.split = some idx → c.h.splits.find? (fun x => x.idx == idx) = some r →
    r.outstanding &&& ~~~c.p.domain = 0 → c.h.splitOut.getLsbD idx = false → Answers (.join f) s (fun t => ∃ h p, t.hatch? c.inst = some h ∧
      h.path? c.slot = some p ∧ p.domain = r.domain ∧ p.mask = r.domain ∧ p.prio = r.prio ∧ p.split = r.parent ∧
      p.pc = (endCheck (wrap64 (c.p.pc + f.len)) c.p.loops).2 ∧ h.splits.any (fun x => x.idx == idx) = false ∧
      h.v = c.h.v ∧ h.s = c.h.s ∧ t.mem = s.mem))) ∧
  (∀ (s : State) (c : Iss) (f : AForm), s.Settled →
  let next := wrap64 (c.p.pc + f.len)
  let masked := fun (e : PredReg) (q : Tri → Bool) (p : Path) =>
    ({ p with mask := entryLanes e q &&& p.domain, maskDiff := 0 } : Path).arrive next
  (IssuesA 0x0F f s c → c.h.pathCount ≤ 1 → c.h.pstack.length < 16 → Answers (.pushp f) s (fun t => ∃ e : PredReg,
    (∀ l, l < 96 → e.getD l .f = if c.p.mask.getLsbD l then
      (if c.h.pcode (predReg f.srca) (physLane c.prot 0 l) = .t then .t else .f) else .u) ∧
    Changed s t c (fun h => { h with pstack := e :: h.pstack }) (masked e (fun x => x == .t)))) ∧
  (IssuesA 0x0F f s c → c.h.pathCount ≤ 1 → 16 ≤ c.h.pstack.length →
    Answers (.pushp f) s (fun t => t = finish (takeTrap s c.inst c.slot c.p.pc { code := 0x06 }))) ∧
  (IssuesA 0x10 f s c → ∀ e r, c.h.pstack = e :: r → Answers (.invp f) s (fun t =>
    Changed s t c (fun h => { h with pstack := e.map Tri.not :: r }) (masked (e.map Tri.not) (fun x => x == .t)))) ∧
  (IssuesA 0x11 f s c → ∀ e r, c.h.pstack = e :: r → Answers (.popp f) s (fun t =>
    Changed s t c (fun h => { h with pstack := r }) (masked e (fun x => x != .u)))) ∧
  (IssuesA 0x11 f s c → c.h.pstack = [] →
    Answers (.popp f) s (fun t => t = finish (takeTrap s c.inst c.slot c.p.pc { code := 0x07 }))))

/-! ### Traps and system instructions (08, 11, 13) -/

/-- R170, R171, R173, R255: taking a trap outside a handler, once the frame is written, starts the handler in slot 0 at the
launch's trap entry, in the path's domain and alone, with the predicate stack empty, and sets the trap registers; every
other register keeps its value. In a handler, and for POISON and SHADOW_MISMATCH, the hatch is killed instead.
R172, R255, R310: `rett.retry` resumes at the frame PC and `rett` past the instruction there; either restores the frame and
leaves the handler. Outside a handler both trap ILLEGAL_OPERAND.
A trap's fields that its rule does not name are 0 (entry 14), and the corners of a return are as entry 24 says. -/
def Obligations.TrapEntryAndReturn : Prop :=
  (∀ (s : State) (inst slot pc : Nat) (r : TrapReport) (h : Hatch) (p : Path),
  s.hatch? inst = some h → h.path? slot = some p →
  (r.code ≠ 0x14 → r.code ≠ 0x15 → h.handler = false → ∀ s' k, (writeFrame inst (recOf s h).prot slot pc r).run s = .ok () s' →
    s'.hatch? inst = some k → ∃ g, (takeTrap s inst slot pc r).hatch? inst = some g ∧ g = { k with
      slot0 := some (Path.start (recOf s h).trap p.domain 0 true), slot1 := none, pstack := [], handler := true
      dstackHandler := 0, trapcode := r.code, trapinfo := r.info, trapaddr := r.addr, trapmask := r.mask }) ∧
  (r.code ≠ 0x14 → r.code ≠ 0x15 → h.handler = true → takeTrap s inst slot pc r = killHatch s inst 0x1B pc) ∧
  (r.code = 0x14 ∨ r.code = 0x15 → takeTrap s inst slot pc r = killHatch s inst r.code pc)) ∧
  (∀ (s : State) (c : Iss) (f : AForm), IssuesA 0x14 f s c →
  (c.p.handler = false →
    Answers (.rett f) s (fun t => Trapped s t c { code := 0x02, info := 0x13 }) ∧
    Answers (.rettRetry f) s (fun t => Trapped s t c { code := 0x02, info := 0x13 })) ∧
  (c.p.handler = true → c.h.noRestart = false → ∀ bs s1, framePc s c.h = .ok bs s1 → bytesNat bs % 4 = 0 →
    (∀ s2, (restoreFrame c.inst (bytesNat bs) false).run (noteIssue s1 c.inst c.slot) = .ok () s2 →
      (s2.hatch? c.inst).map (fun h => (h.handler, h.splitHandler, h.dstackHandler)) = some (false, 0, 0) ∧
      Answers (.rettRetry f) s (fun t => t = finish s2)) ∧
    (∀ s2 blk s3, c.h.atRestart = false → fetchBlock s1 c.h { c.p with pc := bytesNat bs } = (s2, .bytes blk) →
      (restoreFrame c.inst (wrap64 (bytesNat bs + skipLength blk (bytesNat bs % 32))) true).run
        (noteIssue s2 c.inst c.slot) = .ok () s3 →
      (s3.hatch? c.inst).map (fun h => (h.handler, h.splitHandler, h.dstackHandler)) = some (false, 0, 0) ∧
      Answers (.rett f) s (fun t => t = finish s3))))

/-- R309: `trap`, `brkpt` and `ecall` with an active lane trap with their code and immediate; with none they fall through.
R272: a failed check traps with the check's code and nothing of the instruction happens, whatever the instruction.
A trap's fields that its rule does not name are 0 (entry 14). -/
def Obligations.TrapsTaken : Prop :=
  (∀ (s : State) (c : Iss) (f : AForm), s.Settled →
  (IssuesA 0x13 f s c → if c.act = 0 then Answers (.trap f) s (fun t => Passed s t c f.len) else
    Answers (.trap f) s (fun t => Trapped s t c { code := 0x19, info := f.aux.toNat, mask := c.act })) ∧
  (IssuesA 0x16 f s c → if c.act = 0 then Answers (.brkpt f) s (fun t => Passed s t c f.len) else
    Answers (.brkpt f) s (fun t => Trapped s t c { code := 0x1A, info := f.aux.toNat, mask := c.act })) ∧
  (IssuesA 0x1A f s c → if c.act = 0 then Answers (.ecall f) s (fun t => Passed s t c f.len) else
    Answers (.ecall f) s (fun t => Trapped s t c { code := 0x19, info := 0x100 + f.aux.toNat, mask := c.act }))) ∧
  (∀ (s : State) (c : Iss) (code info : Nat) (x : Nat × (AForm → Instr)) (f : AForm),
  x ∈ aOpcodes → x.1 ≠ 0x8F → TrapsWith (preA x.1 f) s c code info →
  Answers (x.2 f) s (fun t => Trapped s t c { code := code, info := info }))

/-- R254, R312, R313: `rdsr` gives each special register the value of its state, `wrsr` writes the flags, the priority and,
in a handler, the trap registers; outside one a trap register traps ILLEGAL_OPERAND.
R314: `vote` over the active lanes: any T, all T, any U, all alike, the T lanes, the U lanes.
What sr.trapcode reads outside a handler is not stated here (entry 14). -/
def Obligations.SpecialRegistersAndVote : Prop :=
  (∀ (s : State) (c : Iss) (f : AForm), s.Settled →
  (IssuesA 0x17 f s c → (f.gsense = 0 ∨ c.act ≠ 0) → flagsPending s c.h = false → ∃ v : Nat,
    (f.aux = 0x02 → v = c.h.fpflags.toNat) ∧ (f.aux = 0x03 → v = if c.rcd.ftz then 1 else 0) ∧
    (f.aux = 0x04 → c.h.handler = true → v = c.h.trapcode) ∧ (f.aux = 0x06 → v = c.h.trapinfo) ∧
    (f.aux = 0x07 → v = c.h.trapaddr % 2 ^ 32) ∧ (f.aux = 0x08 → v = c.h.trapaddr / 2 ^ 32) ∧
    (f.aux = 0x09 → v = c.h.trapmask.toNat % 2 ^ 32) ∧ (f.aux = 0x0E → v = c.h.depth) ∧ (f.aux = 0x0F → v = c.p.prio) ∧
    (f.aux = 0x10 → v = c.h.divDepth) ∧ (f.aux = 0x11 → v = c.h.pstack.length) ∧ (f.aux = 0x12 → v = c.p.loops.length) ∧
    (f.aux = 0x13 → v = c.h.core) ∧ (f.aux = 0x14 → v = s.fab.chipId) ∧ (f.aux = 0x19 → v = c.h.status) ∧
    (f.aux ∉ [0x00#8, 0x01#8, 0x05#8, 0x0D#8] → allocTest s c (c.resultA 0x17 f (c.execMask true (f.gsense != 0))
        [.reg f.dst 1 (fun _ => v)] 0).1 = .ok → c.execMask true (f.gsense != 0) ≠ 0 →
      Answers (.rdsr f) s (fun t => Wrote s t c 0x17 f (c.execMask true (f.gsense != 0)) [.reg f.dst 1 (fun _ => v)]))) ∧
  (IssuesA 0x18 f s c → (f.gsense = 0 ∨ c.act ≠ 0) → flagsPending s c.h = false →
    let v := c.sval f.srca 1
    let on := fun (p : Path) => p.arrive (wrap64 (c.p.pc + f.len))
    (f.aux = 0x02 → Answers (.wrsr f) s (fun t => Changed s t c (fun h => { h with fpflags := BitVec.ofNat 6 v }) on)) ∧
    (f.aux = 0x0F → v ≤ 7 → Answers (.wrsr f) s (fun t => Changed s t c id (fun p => on { p with prio := v }))) ∧
    (f.aux = 0x0F → 7 < v → Answers (.wrsr f) s (fun t => Trapped s t c { code := 0x02, info := 0x0F })) ∧
    (f.aux = 0x06 → c.p.handler = true →
      Answers (.wrsr f) s (fun t => Changed s t c (fun h => { h with trapinfo := v }) on)) ∧
    (f.aux ∈ [0x04#8, 0x05#8, 0x06#8, 0x07#8, 0x08#8, 0x09#8, 0x0A#8, 0x0B#8] → c.p.handler = false →
      Answers (.wrsr f) s (fun t => Trapped s t c { code := 0x02, info := 0x0F })))) ∧
  (∀ f : AForm,
  WritesIn (.vote f) 0x19 f (fun c => c.act ≠ 0) (fun c => c.onceMask)
    (fun c => [.reg f.dst (if f.sub = 4 ∨ f.sub = 5 then 3 else 1) (fun _ =>
      let t := lanesWith c (predReg f.srca) .t
      let u := lanesWith c (predReg f.srca) .u
      let n := lanesWith c (predReg f.srca) .f
      match f.sub with
      | 0 => if t ≠ 0 then 1 else 0
      | 1 => if t = c.act then 1 else 0
      | 2 => if u ≠ 0 then 1 else 0
      | 3 => if t = c.act ∨ u = c.act ∨ n = c.act then 1 else 0
      | 4 => t.toNat
      | _ => u.toNat)]) (fun _ => 0))

/-- R147, R149, R151, R308, R311, R315 to R319: `region`, `exit`, `tlbinv`, `cachectl`, `lsconv`, `probe` and `errinj` complete.
The corners of these instructions are as entries 34, 41 and 52 say. -/
def Obligations.SystemControls : Prop := ∀ (s : State) (c : Iss) (f : AForm), (f.gsense = 0 ∨ c.act ≠ 0) →
  let on := fun (p : Path) => p.arrive (wrap64 (c.p.pc + f.len))
  let once := c.execMask true (f.gsense != 0)
  (∀ s1, IssuesA 0x15 f s c → c.p.handler = false → c.h.pathCount ≤ 1 → c.h.pstack = [] →
    (regionNames c f.srca).length ≤ 16 → c.h.c0 = [] → c.h.c1 = [] → c.h.c2 = [] → c.h.c3 = [] → drained s c.h = true →
    c.h.emptyS = 0 → (areaWrite c.inst 0x1C00 (regionRecord c (endCheck (wrap64 (c.p.pc + f.len)) c.p.loops).2
      (endCheck (wrap64 (c.p.pc + f.len)) c.p.loops).1 (regionNames c f.srca))).run s = .ok () s1 → s1.Settled →
    Answers (.region f) s (fun t => Changed s1 t c
      (fun h => { h with clean := true, regionDone := true, stores := 0, repeats := 0 }) on)) ∧
  (IssuesA 0x12 f s c → f.gsense = 0 → drained s c.h = true → loadsDone s c.h = true → c.h.mt4Ports = 0 →
    c.h.slot0.isSome ≠ c.h.slot1.isSome → c.h.dstack = [] → c.p.split = none →
    Answers (.exit f) s (fun t => t.hatch? c.inst = none)) ∧
  (IssuesA 0x1B f s c → drained s c.h = true → loadsDone s c.h = true → c.h.mt4Ports = 0 → (releaseAll s c.h).Settled →
    Answers (.tlbinv f) s (fun t => ∃ n,
      (t.hatch? c.inst).bind (fun h => (h.path? c.slot).map (fun p => p.wait)) = some (.shoot n) ∧
      ∀ d, d < 4 → ∃ x ∈ t.tr.shoots, x.die = d ∧ x.id = n ∧ x.kind =
        if f.sub = 0 then .page (c.sval f.srcb 1) (c.sval f.srca 2 % 2 ^ 52)
        else if f.sub = 1 then .ctx (c.sval f.srcb 1) else .all)) ∧
  (IssuesA 0x1C f s c → 2 ≤ f.sub → (ctlAll s c.h.core (f.sub == 3) f.rm).Settled →
    (2 ≤ f.rm → (ctlAll s c.h.core (f.sub == 3) f.rm).coh.agents.all (fun a => !a.wbBuf) = true) →
    Answers (.cachectl f) s (fun t => Issued ((ctlAll s c.h.core (f.sub == 3) f.rm).updPath c.inst c.slot on) t c.inst c.slot)) ∧
  (IssuesA 0x1D f s c → f.sub ≠ 0 → s.Settled → once ≠ 0 →
    let n := min f.aux.toNat (min ((s.core c.h.core).ways.filter isFreeWay).length (lsWays (s.core c.h.core) - 2))
    let s1 := s.updCore c.h.core (fun k => { k with ways := convertWays isFreeWay .l1 n k.ways })
    allocTest s1 c (c.resultA 0x1D f once [.reg f.dst 1 (fun _ => n)] 0).1 = .ok →
    Answers (.lsconv f) s (fun t => Wrote s1 t c 0x1D f once [.reg f.dst 1 (fun _ => n)])) ∧
  (IssuesA 0x1E f s c → canonical (c.sval f.srca 2) = false → s.Settled → once ≠ 0 →
    allocTest s c (c.resultA 0x1E f once [.reg f.dst 2 (fun _ => 0x100)] 0).1 = .ok →
    Answers (.probe f) s (fun t => Wrote s t c 0x1E f once [.reg f.dst 2 (fun _ => 0x100)])) ∧
  (∀ s1 pa mt w z r, IssuesA 0x1F f s c → translate s c.h.core (ctxOf s c.h) c.kern .store (c.sval f.srcb 2) = (s1, .ok pa mt w z r) →
    mt < 3 → c.sval f.srca 1 % 65536 = 0x0101 → (injectSector s1 pa 0x0101).Settled → once ≠ 0 →
    allocTest (injectSector s1 pa 0x0101) c (c.resultA 0x1F f once [.reg f.dst 1 (fun _ => 0)] 0).1 = .ok →
    Answers (.errinj f) s (fun t => Wrote (injectSector s1 pa 0x0101) t c 0x1F f once [.reg f.dst 1 (fun _ => 0)]))

/-! ### Encoding and the step (12) -/

/-- R269, R274 to R278: decoding the bytes of an instruction that its word says whole gives the instruction back, with every
operand, and leaves the bytes after it; and the bytes of whatever decodes are the encoding of what was decoded, so that no
two instructions share bytes.
R269, R272, R291: the words that are no instruction. -/
def Obligations.Encoding : Prop :=
  ((∀ (i : Instr) (rest : List Byte), i.encodable = true → decode (encode i ++ rest) = .ok (i, rest)) ∧
  (∀ (bs rest : List Byte) (i : Instr), decode bs = .ok (i, rest) → i.encodable = true ∧ bs = encode i ++ rest)) ∧
  (∀ w : BitVec 128,
  let op := (w.extractLsb' 2 8).toNat
  (w.extractLsb' 0 2 = 3#2 → decodeWord w = .error .lengthCode) ∧
  (w.extractLsb' 0 2 ≠ 3#2 → 0xE0 ≤ op → decodeWord w = .error .opcode) ∧
  (w.extractLsb' 0 2 = 2#2 → op ≠ 0 → op < 0x9F → decodeWord w = .error .length) ∧
  (w.extractLsb' 0 2 ≠ 3#2 → w.extractLsb' 0 2 ≠ 2#2 → 0x9F ≤ op → op < 0xE0 → decodeWord w = .error .length))

/-- Words written out from the encodings of the spec decode to the instructions that they stand for: `fadd` with a constant,
`loop`, `iisect.p` and `st`. -/
def Obligations.DecodedWords : Prop :=
  (∃ f, decodeWord 0x3FC000000001B80F00040D4D#128 = .ok (.fadd f) ∧ f.len96 = true ∧ f.dst = 3 ∧ f.srca = 1 ∧ f.srcb = 0xF0 ∧
    f.ty = 7 ∧ f.ctl = 3 ∧ f.ext = 0x3FC00000) ∧
  (∃ f, decodeWord 0x0000500001500030#128 = .ok (.loop f) ∧ f.len96 = false ∧ f.srca = 0x54 ∧ f.off21 = 10) ∧
  (∃ f, decodeWord 0x0340380020041224#128 = .ok (.iisect f) ∧ f.dst = 4 ∧ f.srca = 1 ∧ f.srcb = 2 ∧ f.ty = 7 ∧ f.aux = 3) ∧
  (∃ f, decodeWord 0x00000200000000000080201021100682#128 = .ok (.st f) ∧ f.d = 1 ∧ f.addr = 0x44 ∧ f.idx = 2 ∧ f.twf = 4 ∧
    f.cnt = 2)

/-- R158, R160, R272: with nothing else to do first, a step runs the instruction that the best path's bytes decode to, on the state
that the fetch left, and holds it back while its pipe is taken or an operand's latency is not over; a word that does not decode traps
instead.
What the step adds around `exec` is `closeRun`: where no access of the instruction had to wait it changes no register but the
marks of issue choice, no memory and no launch, watch or translation.
An outside event comes first, then an event of the machine's own that is due (entry 5), each as `exec` says; with neither,
and with no path that may issue, one clock passes.
The order of moves where no turn is given is the model's choice. -/
def Obligations.StepRunsDecoded : Prop :=
  (∀ (s t : State) (h : Hatch) (slot : Nat) (p : Path) (bs : List Byte),
  s.turns = [] → s.inbox = [] → s.net = [] → bestPath (candidates s) = some (h, slot, p) → deferredTrap s h = none →
  fetchBlock { s with cur := some ⟨h.inst, slot⟩, arg := {} } h p = (t, .bytes bs) → t.wants = [] →
  let w := bytesWord (sliceBytes bs (p.pc % 32) 16)
  (∀ i, decodeWord w = .ok i → p.pc % 32 + i.bytes ≤ 32 → pipeReady t h i = true → t.issuing ≠ none →
    ∃ u, Sys2Proof.Machine.exec i { t with pipe := instrPipe i } = .next u ∧
      step s = .next (closeRun s { t with pipe := instrPipe i } u i)) ∧
  (∀ i, decodeWord w = .ok i → p.pc % 32 + i.bytes ≤ 32 → pipeReady t h i = false →
    step s = .next (closeDone s (stall { t with pipe := instrPipe i }))) ∧
  (w.extractLsb' 0 2 = 3#2 →
    step s = .next (closeDone s (finish (takeTrap t h.inst slot p.pc { code := 0x01, info := w.toNat % 2 ^ 32 })))) ∧
  (∀ i, decodeWord w = .ok i → 32 < p.pc % 32 + i.bytes →
    step s = .next (closeDone s (finish (takeTrap t h.inst slot p.pc { code := 0x03, info := i.bytes }))))) ∧
  (∀ (s t u : State) (i : Instr), u.Settled → u.wants = [] → u.fab.lost = [] →
    let v := closeRun s t u i
    v.stills = u.stills ∧ v.mem = u.mem ∧ v.slices = u.slices ∧ v.sched = u.sched ∧ v.tr = u.tr ∧ v.coh = u.coh ∧
      v.host = u.host ∧ v.clock = u.clock) ∧
  (∀ s : State, s.turns = [] → s.pkg.thermtrip = false →
  (∀ e r u, s.inbox = e :: r → e.what.form = .event →
    let t := { s with inbox := r, arg := e.arg, cur := none }
    Sys2Proof.Machine.exec e.what t = .next u → step s = .next (closeRun s t u e.what)) ∧
  (∀ e r u, s.inbox = [] → s.net = e :: r → e.what.form = .event → homeRequest e.what = false →
    let t := { s with net := r, arg := e.arg, cur := none }
    Sys2Proof.Machine.exec e.what t = .next u → step s = .next (closeRun s t u e.what)) ∧
  (s.inbox = [] → s.net = [] → bestPath (candidates s) = none → s.Settled → s.wants = [] → s.fab.lost = [] →
    ∃ t, step s = .next t ∧ t.clock = s.clock + 1 ∧ t.mem = s.mem ∧ t.hatches = s.hatches.map (endLateAt s) ∧
      t.ops = s.ops.filter (fun o => !(o.what == mt4Read && o.prog == 1)) ∧ t.sched = s.sched ∧ t.stalled = []))

/-- Every step from a settled state answers a next state, and that state is settled: no step of the machine is a fault or a
refusal, and no trigger is ever left between steps. -/
def Obligations.EveryStepAnswers : Prop := ∀ s : State, s.Settled → ∃ t, step s = .next t ∧ t.Settled

/-- The machine after reset: nothing runs, nothing is in flight, memory lists nothing and is in its form, and the registers
that the spec gives a reset value have it.
That memory lists nothing, and CHIP_ID, are the model's choices (entries 1 and 2). -/
def Obligations.ResetState : Prop :=
  State.reset.MemOk ∧ State.reset.Settled ∧ State.reset.mem = [] ∧ State.reset.hatches = [] ∧ State.reset.ops = [] ∧
  State.reset.sched.blocks = [] ∧ State.reset.sched.launches = [] ∧ State.reset.sched.watches = [] ∧
  State.reset.tr.ctxs = List.replicate 64 none ∧ State.reset.host.errLog = [] ∧ State.reset.fab.chipId = 0 ∧
  State.reset.pkg.devState = .reset ∧ State.reset.cores.length = 256

/-! ### Registers, memory and translation (08, 02, 03) -/

/-- R165, R166, R175, R246: a vector register takes its value in the lanes of the write and keeps it in the others, and is
mapped and untagged; s4 to s127 take the value; s0 to s2 are the path's mask, ANDed with its domain; s3 and NULL take
nothing; a predicate takes its codes in the lanes of the write. No other register changes. -/
def Obligations.RegisterWrites : Prop := ∀ (prot : Bool) (m : LaneSet) (h : Hatch) (p : Path) (x : BitVec 8) (val : Nat → Nat),
  h.v.length = 64 → h.s.length = 128 → h.p.length = 8 →
  let g := (applyWrite prot m (h, p) (.reg x 1 val)).1
  let q := (applyWrite prot m (h, p) (.reg x 1 val)).2
  (∀ r, specKind x = .v r → (g.vreg r).mapped = true ∧ (g.vreg r).tag = 0 ∧
    (∀ l, l < 96 → g.vword r l = if m.getLsbD l then BitVec.ofNat 32 (val l) else h.vword r l) ∧
    (∀ r', r' ≠ r → g.vreg r' = h.vreg r') ∧ g.s = h.s ∧ g.p = h.p ∧ q = p) ∧
  (∀ r, specKind x = .s r → 4 ≤ r → g.s.getD r 0 = BitVec.ofNat 32 (val 0) ∧ (∀ r', r' ≠ r → g.s.getD r' 0 = h.s.getD r' 0) ∧
    g.v = h.v ∧ g.p = h.p ∧ q = p) ∧
  (∀ r, specKind x = .s r → r < 3 → g = h ∧ q.domain = p.domain ∧ q.pc = p.pc ∧ ∀ l, l < 96 →
    q.mask.getLsbD l = (p.domain.getLsbD l && if l / 32 = r then (val 0).testBit (l % 32) else p.mask.getLsbD l)) ∧
  (specKind x = .s 3 ∨ specKind x = .null → g = h ∧ q = p) ∧
  (∀ (r : Nat) (c : Nat → Tri), r < 8 → let k := applyWrite prot m (h, p) (.pred r c)
    (∀ l, l < 96 → k.1.pcode r l = if m.getLsbD l then c l else h.pcode r l) ∧
    (∀ r' l, r' ≠ r → k.1.pcode r' l = h.pcode r' l) ∧ k.1.v = h.v ∧ k.1.s = h.s ∧ k.2 = p)

/-- R5, R43, R70: bytes written at a line's home read back, every other byte of that line and of every other line stored
elsewhere reads as before, a sector written wholly is no longer poisoned, and memory keeps its form.
Every operation that writes memory keeps it in its one form, in which equal memories are equal lists. -/
def Obligations.MemoryReadsBack : Prop :=
  (∀ (s : State) (line off : Nat) (bs : List Byte), s.MemOk → lineIsOwn s line = true →
  off + bs.length ≤ 128 → (lineKey s line).isSome = true →
  let t := homeWrite s line off bs
  t.MemOk ∧ t.mem = s.mem ∧
  (∀ i, i < 128 → (homeRead t line).getD i 0 =
    if off ≤ i ∧ i < off + bs.length then bs.getD (i - off) 0 else (homeRead s line).getD i 0) ∧
  (∀ other, other ≠ line → homeRead t other = homeRead s other) ∧
  (∀ q, q < 4 → off ≤ 32 * q → 32 * q + 32 ≤ off + bs.length → (homePoison t line).getLsbD q = false)) ∧
  (∀ s : State, s.MemOk →
  (∀ line off bs, (homeWrite s line off bs).MemOk) ∧ (∀ line bs m, (homeWriteMask s line bs m).MemOk) ∧
  (∀ line bs m trig, (homeCommit s line bs m trig).MemOk) ∧ (∀ line, (takeLine s line).MemOk) ∧
  (∀ pa bs trig, (pokePa s pa bs trig).MemOk) ∧ (∀ c line, (publishRaw s c line).MemOk) ∧ (∀ c, (drainCore s c).MemOk) ∧
  (∀ line, (flushLine s line).MemOk) ∧ (flushAll s).MemOk)

/-- R60, R63 to R66: a translation that the core's TLB serves, so that no walk runs and a fault reports level 0. A VA that is not canonical faults with cause 0x01; a PA that no
region backs with 0x04; a missing permission with 0x05; a write to a frozen page with 0x06; and otherwise the PA is the
page's with the offset of the VA. -/
def Obligations.Translation : Prop := ∀ (s : State) (core ctx : Nat) (kern : Bool) (k : AccKind) (va : Nat) (e : TlbEntry),
  (canonical va = false → translate s core ctx kern k va = (s, .fault 0x10 0x01 0)) ∧
  (canonical va = true → l1Tlb s core ctx (va % 2 ^ 52) = some e → (k.writes = false ∨ e.d = true ∨ e.f = true) →
    let pa := e.pa + va % 2 ^ 52 % 2 ^ pageBits e.level
    let denied := (kern = false ∧ e.u = false) ∨ (match k with
      | .load => e.r = false
      | .store => e.w = false
      | .atomic => e.r = false ∨ e.w = false
      | .fetch => e.x = false ∨ (kern = true ∧ e.u = true))
    ∃ t, t.mem = s.mem ∧ t.hatches = s.hatches ∧
    (paUnbacked s pa = true → translate s core ctx kern k va = (t, .fault 0x10 0x04 0)) ∧
    (paUnbacked s pa = false → denied → translate s core ctx kern k va = (t, .fault 0x11 0x05 0)) ∧
    (paUnbacked s pa = false → ¬ denied → k.writes = true → e.f = true →
      translate s core ctx kern k va = (t, .fault 0x12 0x06 0)) ∧
    (paUnbacked s pa = false → ¬ denied → (k.writes = false ∨ e.f = false) →
      translate s core ctx kern k va = (t, .ok pa e.mt e.watch e.f e.w)))

/-! ### Memory instructions (17) -/

/-- R376, R377, R379, R382 to R384: an aligned load whose lanes translate without a fault begins: its lanes are translated,
its destination waits, and the return of each line's data is under way. A misaligned lane traps ALIGN before any effect.
R190, R376, R377, R379: an aligned store begins: its lanes hold their addresses and data, and the path goes on before the
store is made. A misaligned lane traps ALIGN.
How an access waits for its walk is as entries 53 and 64 say. -/
def Obligations.LoadsAndStoresBegin : Prop :=
  (∀ (s s1 : State) (c0 c : Iss) (f : MForm) (lanes : List LaneAcc),
  let begins := fun (op : Nat) (i : Instr) => IssuesF op f s c0 c → c.act ≠ 0 → c.h.countFull 2 = false →
    (alignFault (accSize op f) (laneAddrs op f c) = none → s1.Settled → (s1.hatch? c.inst).isSome = true →
      resolveLanes s c.h.core (ctxOf s c.h) c.kern .load (op == 0xAA) ((laneAddrs op f c).map (fun a => LaneAcc.start a.1 a.2 [])) =
        (s1, lanes) → (∀ a ∈ lanes, a.fault = 0) →
      allocTest s1 c ((allocWrites (mShape op f) (op == 0xAB)).foldl (applyWrite c.prot 0) (c.h.freeLast (mShape op f), c.p)).1 =
        .ok →
      Answers i s (fun t => ∃ o, Began s1 t c (mShape op f) 2 o ∧ o.what = i ∧ o.lanes = lanes ∧
        o.active = c.act ∧
        ∀ a ∈ lanes, (⟨.loadDataReturn, { op := o.id, line := a.line }⟩ : Event) ∈ t.net)) ∧
    (∀ r, alignFault (accSize op f) (laneAddrs op f c) = some r →
      Answers i s (fun t => Trapped s t c (r.ofOnce (memOnce op f) c0.act)))
  begins 0x9F (.ld f) ∧ begins 0xA1 (.ldb f) ∧ begins 0xA8 (.ldu f) ∧ begins 0xAA (.ldc f) ∧ begins 0xAB (.ldiv f) ∧
  begins 0xB2 (.ldt f) ∧
  (IssuesF 0xAD f s c0 c → c.act ≠ 0 → c.h.countFull 2 = false → s1.Settled → (s1.hatch? c.inst).isSome = true → lanes ≠ [] →
    prefetchLanes s c (laneAddrs 0xAD f c) = (s1, lanes) → allocTest s1 c (c.h.freeLast (mShape 0xAD f)) = .ok →
    Answers (.prf f) s (fun t => ∃ o, Began s1 t c (mShape 0xAD f) 2 o ∧ o.what = .prf f ∧ o.lanes = lanes ∧
      ∀ a ∈ lanes, (⟨.loadDataReturn, { op := o.id, line := a.line }⟩ : Event) ∈ t.net))) ∧
  (∀ (s : State) (c0 c : Iss) (f : MForm), s.Settled →
  let begins := fun (op : Nat) (i : Instr) => IssuesF op f s c0 c → c0.shadowOk (mShape op f) = true → c.act ≠ 0 →
    c.h.countFull 2 = false →
    (alignFault (accSize op f) (laneAddrs op f c) = none → (f.releases = false ∨ releaseReady s c.h = (s, true)) →
      allocTest s c (c.h.freeLast (mShape op f)) = .ok →
      Answers i s (fun t => ∃ o, Began s t c (mShape op f) 2 o ∧ o.what = i ∧ o.lanes.map (fun a => (a.lane, a.va, a.bytes)) =
        (laneAddrs op f c).map (fun a => (a.1, a.2, storeData op f c a.1)))) ∧
    (∀ r, alignFault (accSize op f) (laneAddrs op f c) = some r →
      Answers i s (fun t => Trapped s t c (r.ofOnce (memOnce op f) c0.act)))
  begins 0xA0 (.st f) ∧ begins 0xA2 (.stb f) ∧ begins 0xA9 (.stu f) ∧ begins 0xAC (.stiv f) ∧ begins 0xAE (.stz f) ∧
  begins 0xAF (.dsc f))

/-- R59, R379: LOAD_DATA_RETURN brings the last line of a load: the operation is over, D is no longer empty and holds in each
lane of the load the bytes of its address, extended as the width says; every other lane keeps its value.
R90, R92: MT4_COMPLETION gives a load of one lane its data, ends a zero-length read, which answers for the writes posted before it
only, and tells an atomic that its completer does not support it.
How MT 4 accesses wait is as entry 17 says. -/
def Obligations.LoadDataReturns : Prop :=
  (∀ (s s1 : State) (o : Op) (op : Nat) (f : MForm) (a : LaneAcc) (r : List LaneAcc)
    (bs : List Byte) (h : Hatch), s1.Settled →
  s.op? s.arg.op = some o → instrForm o.what = some (op, f) → op = 0x9F ∨ op = 0xA1 ∨ op = 0xAA → f.acquires = false →
  o.lanes = a :: r → (∀ x ∈ a :: r, x.pending = true ∧ x.line = s.arg.line ∧ x.mt < 3 ∧ x.lane < 96) →
  ((a :: r).map (·.lane)).Nodup → (∀ l, l < 96 → (o.active.getLsbD l = true ↔ ∃ x ∈ a :: r, x.lane = l)) →
  olderBlocks s o s.arg.line a.mt = false →
  readLine s o.core s.arg.line (sectorsAt o.lanes s.arg.line (accSize op f))
    { mt := a.mt, frozen := o.lanes.all (·.frozen), acquire := false, ldc := op == 0xAA && a.mt < 2, hint := f.hint.toNat,
      op := o.id } = (s1, some (bs, 0)) →
  s1.hatch? o.hatch = some h → hatchProt s1 h = false → h.v.length = 64 → f.d.toNat < 64 →
  Answers .loadDataReturn s (fun t => t.op? o.id = none ∧ ∃ g, t.hatch? o.hatch = some g ∧
    g.emptyV.getLsbD f.d.toNat = false ∧
    (∀ x ∈ a :: r, g.vword f.d.toNat x.lane =
      BitVec.ofNat 32 (extend f.twf.toNat (sliceBytes bs (offsetInLine x.pa) (accSize op f)))) ∧
    (∀ l, l < 96 → o.active.getLsbD l = false → g.vword f.d.toNat l = h.vword f.d.toNat l) ∧
    g.s = h.s ∧ g.p = h.p ∧ t.mem = s1.mem ∧ t.slices = s1.slices)) ∧
  (∀ (s : State) (o : Op) (f : MForm), s.op? s.arg.op = some o →
  (∀ (bs : List Byte) (a : LaneAcc) (h : Hatch),
    let s1 := l1Put s o.core (L1Line.fresh s.arg.line .mt4 (sliceBytes bs 0 128) 0 0) false
    s1.Settled → o.what = .ld f → f.acquires = false → s.arg.compl = .data bs → o.lanes = [a] → a.pending = true →
    a.line = s.arg.line → a.mt = 4 → a.lane < 96 → o.active = laneBit a.lane → s1.hatch? o.hatch = some h → hatchProt s1 h = false →
    h.v.length = 64 → f.d.toNat < 64 →
    Answers .mt4Completion s (fun t => t.op? o.id = none ∧ ∃ g, t.hatch? o.hatch = some g ∧
      g.vword f.d.toNat a.lane =
        BitVec.ofNat 32 (extend f.twf.toNat (sliceBytes (sliceBytes bs 0 128) (offsetInLine a.pa) (accSize 0x9F f))) ∧
      ∀ l, l < 96 → l ≠ a.lane → g.vword f.d.toNat l = h.vword f.d.toNat l)) ∧
  (∀ p, s.Settled → o.what = .nop .l64 1 → o.vals = [p] →
    (o.prog = 0 →
      Leads .mt4Completion s ((s.dropOp o.id).updHatch o.hatch (fun h => { h with mt4Ports := h.mt4Ports &&& ~~~(BitVec.ofNat 2 (2 ^ p)) }))) ∧
    (o.prog = 1 → Leads .mt4Completion s (s.dropOp o.id))) ∧
  (s.Settled → o.what = .atom f → s.arg.compl = .unsupported →
    Leads .mt4Completion s (s.updOp o.id (fun o => { o with prog := 1, done := true }))))

/-- R74, R75: a store whose L1 line is exclusive, or privatised with its bytes granted, is made there: the line takes the
store's bytes and holds them dirty; no other line of the core, no other core's L1 and no byte at a home changes, and the
operation's lanes of the line are done. STORE_FAULT makes the record of R190 and stores nothing.
R91, R204, R389: STORE_COMMIT performs an atomic of one lane at the home of its line: D takes the old value, the bytes at
the address take the new one, and every other byte of the line keeps its value. A store of another package is written at
its home here (R141).
A store of another package acts on memory as last observed (entry 16). -/
def Obligations.StoreEvents : Prop :=
  (∀ (s : State) (o : Op), s.Settled → s.op? s.arg.op = some o → o.acquires = false →
  let as := o.lanesAt s.arg.line
  let img := storeImage as
  let made := fun (l : L1Line) (t : State) =>
    (∃ k, (t.core o.core).line? s.arg.line = some k ∧ k.bytes = maskBytes l.bytes img.1 img.2 ∧ k.dirty = l.dirty ||| img.2) ∧
    (∀ n, n ≠ s.arg.line → (t.core o.core).line? n = (s.core o.core).line? n) ∧
    (∀ n, n ≠ o.core → (t.core n).l1 = (s.core n).l1) ∧ t.mem = s.mem ∧ t.slices = s.slices ∧
    (∀ q, t.op? o.id = some q → q.lanesAt s.arg.line = [])
  (∀ l, as ≠ [] → o.core < s.cores.length → lineDead s s.arg.line = false → (s.core o.core).sfrWait = [] →
    olderBlocks s o s.arg.line 0 = false → o.relKind = 0 → (s.core o.core).line? s.arg.line = some l →
    (l.kind = .exclusive → Answers .writePermissionRequest s (made l)) ∧
    (l.kind = .privatised → l.mask ||| l.dirty ||| img.2 = l.mask ||| l.dirty → Answers .writePermissionRequest s (made l)) ∧
    (l.kind = .privatised → (otherWriters s o.core s.arg.line).all (fun k => ownMask s k s.arg.line &&& img.2 == 0) = true →
      Answers .maskExtension s (made l))) ∧
  (∀ a h, o.lanes = [a] → a.fault ≠ 0 → a.done = false → s.hatch? o.hatch = some h → o.core < s.cores.length →
    (s.core o.core).sfrq.length < 32 → (s.core o.core).sfrWait = [] →
    Answers .storeFault s (fun t => (t.core o.core).sfrq = (s.core o.core).sfrq ++
        [⟨o.hatch, a.fault, a.cause, recordKind o.what, a.level, o.pc, a.va, laneSet [a.lane]⟩] ∧
      t.op? o.id = none ∧ t.mem = s.mem ∧ t.slices = s.slices ∧ (∀ n, (t.core n).l1 = (s.core n).l1)))) ∧
  (∀ (s : State),
  (∀ (o : Op) (a : LaneAcc) (op : Nat) (f : MForm) (h : Hatch) (bs : List Byte),
    let n := atomBytes op f
    let s1 := (coherentRead (takeLine s a.line) a.pa n).1
    let s2 := takeLine s1 a.line
    s.arg.src = .op o.id a.line → s.op? o.id = some o → o.what = .atom f ∧ op = 0xB3 ∨ o.what = .cas f ∧ op = 0xB9 →
    o.lanes = [a] → a.pending = true → a.poison = false → o.active = laneBit a.lane → a.lane < 96 → f.acquires = false → o.relKind = 0 → o.prog = 0 →
    (s.core o.core).sfrWait = [] → lineDead s a.line = false → lineIsOwn s a.line = true → (lineKey s a.line).isSome = true →
    olderBlocks s o a.line a.mt = false → homeReady s a.line = (s, true) → peekPa s1 a.pa n = (bs, false) →
    offsetInLine a.pa + n ≤ 128 → s.wants = [] → s2.wants = [] → s2.Settled → s2.sched.watches = [] → o.silent = false →
    (∀ v, atomResult op f (bytesNat bs) (o.xAt a) (o.dAt a) = some v → s2.hatch? o.hatch = some h → hatchProt s2 h = false →
      h.v.length = 64 → f.d.toNat < 64 →
      Answers .storeCommit s (fun t => t.op? o.id = none ∧
        (∀ i, i < 128 → (homeRead t a.line).getD i 0 =
          if offsetInLine a.pa ≤ i ∧ i < offsetInLine a.pa + n then (natBytes n v).getD (i - offsetInLine a.pa) 0
          else (homeRead s2 a.line).getD i 0) ∧
        (∀ line, line ≠ a.line → homeRead t line = homeRead s2 line) ∧
        ∃ g, t.hatch? o.hatch = some g ∧ g.vword f.d.toNat a.lane = BitVec.ofNat 32 (bytesNat bs) ∧
          ∀ l, l < 96 → l ≠ a.lane → g.vword f.d.toNat l = h.vword f.d.toNat l))) ∧
  (∀ pa bs depth, let s2 := takeLine s (lineOf pa)
    s.arg.src = .remote pa bs depth → s.arg.listed = none → homeReady s (lineOf pa) = (s, true) →
    lineIsOwn s (lineOf pa) = true → lineDead s (lineOf pa) = false →
    (lineKey s (lineOf pa)).isSome = true → offsetInLine pa + bs.length ≤ 128 → s2.wants = [] → s2.Settled → s2.sched.watches = [] →
    Answers .storeCommit s (fun t =>
      (∀ i, i < 128 → (homeRead t (lineOf pa)).getD i 0 =
        if offsetInLine pa ≤ i ∧ i < offsetInLine pa + bs.length then bs.getD (i - offsetInLine pa) 0
        else (homeRead s2 (lineOf pa)).getD i 0) ∧
      (∀ line, line ≠ lineOf pa → homeRead t line = homeRead s2 line))))

/-- R180, R211, R379 to R381: the local-store instructions complete at once. A load gives each active lane its bytes and
leaves the other lanes; a store leaves in each byte that it covers the data of the highest lane that covers it, and every
other byte of local store and of memory as it was. -/
def Obligations.LocalAccesses : Prop := ∀ (s : State) (c0 c : Iss) (f : MForm), s.Settled → c.prot = false → c.act ≠ 0 →
  c.h.countFull 2 = false → (s.core c.h.core).sfrWait = [] → c.h.core < s.cores.length →
  c.rcd.local_ ≤ 65536 * (ownedWays s c.h.core c.h.block).length →
  (∀ b cells bad, Way.owned b cells bad ∈ (s.core c.h.core).ways → Memory.wf cells = true) →
  let size := twfBytes f.twf.toNat
  let lanes := lanesOf c.act
  let loads := fun (op : Nat) (i : Instr) (n align : Nat) (at_ : Nat → Nat) (w : Nat) (val : Nat → Nat → Nat) => IssuesF op f s c0 c →
    f.acquires = false → (mShape op f).srcs.all (fun u => !u.last) = true → c.h.v.length = 64 → f.d.toNat < 64 → f.d.toNat + w ≤ 64 →
    (∀ j ∈ lanes, at_ j % align = 0 ∧ localOk c.rcd (at_ j) n = true ∧ localPoison s c.h.core c.h.block (at_ j) n = false) →
    allocTest s c ((allocWrites (mShape op f) false).foldl (applyWrite false 0) (c.h, c.p)).1 = .ok →
    Answers i s (fun t => WentOn t c 16 ∧ t.mem = s.mem ∧ (∀ k, (t.core k).ways = (s.core k).ways) ∧
      ∃ g, t.hatch? c.inst = some g ∧ g.s = c.h.s ∧ g.p = c.h.p ∧
        (∀ k l, k < w → l < 96 → g.vword (f.d.toNat + k) l =
          if c.act.getLsbD l then BitVec.ofNat 32 (val l k) else c.h.vword (f.d.toNat + k) l) ∧
        (∀ r, (r < f.d.toNat ∨ f.d.toNat + w ≤ r) → g.vreg r = c.h.vreg r))
  let word := fun (a n k : Nat) => bytesNat (localRead s c.h.core c.h.block a n) / 2 ^ (32 * k)
  let stores := fun (op : Nat) (i : Instr) (n align : Nat) (at_ : Nat → Nat) (data : Nat → List Byte) => IssuesF op f s c0 c →
    c0.shadowOk (mShape op f) = true → (f.releases = false ∨ releaseReady s c.h = (s, true)) →
    (∀ j ∈ lanes, at_ j % align = 0 ∧ localOk c.rcd (at_ j) n = true) →
    Answers i s (fun t => WentOn t c 16 ∧ t.mem = s.mem ∧ t.slices = s.slices ∧
      (∀ a j, a < c.rcd.local_ → j ∈ lanes → at_ j ≤ a → a < at_ j + n →
        (∀ k ∈ lanes, j < k → ¬ (at_ k ≤ a ∧ a < at_ k + n)) →
        localByte t c.h.core c.h.block a = (data j).getD (a - at_ j) 0) ∧
      (∀ a, a < c.rcd.local_ → (∀ k ∈ lanes, ¬ (at_ k ≤ a ∧ a < at_ k + n)) →
        localByte t c.h.core c.h.block a = localByte s c.h.core c.h.block a) ∧
      (∀ k, k ≠ c.h.core → (t.core k).ways = (s.core k).ways))
  loads 0xA3 (.ldl f) size size (localAddr c f) (mRule 0xA3 f).d.width
    (fun l k => extend f.twf.toNat (localRead s c.h.core c.h.block (localAddr c f l) size) / 2 ^ (32 * k)) ∧
  loads 0xA5 (.ldlb f) size size (fun _ => localAddr c f 0) (mRule 0xA5 f).d.width
    (fun _ k => extend f.twf.toNat (localRead s c.h.core c.h.block (localAddr c f 0) size) / 2 ^ (32 * k)) ∧
  loads 0xA6 (.ldlx f) (4 * groupCount f) 4 (laneMajor c f) (groupCount f) (fun l k => word (laneMajor c f l + 4 * k) 4 0) ∧
  stores 0xA4 (.stl f) size size (localAddr c f) (fun j => natBytes size (c.val f.d (mRule 0xA4 f).d.width 0 0 j)) ∧
  stores 0xA7 (.stlx f) (4 * groupCount f) 4 (laneMajor c f) (fun j => natBytes (4 * groupCount f) (c.val f.d (groupCount f) 0 0 j))

/-- R389 to R391: what an atomic leaves for the old value and X, of 32 or 64 bits; `cas` writes D where the old value is X.
R377, R389 to R392: an aligned atomic whose lanes translate without a fault, and none to MT 4, begins, and its commit at
the home of its first line is under way.
How an access waits for its walk is as entries 53 and 64 say. -/
def Obligations.AtomicsBegin : Prop :=
  (∀ (w old x : Nat), w = 32 ∨ w = 64 → old < 2 ^ w → x < 2 ^ w →
  (∀ sg, ((atomNew 0 w sg old x : Nat) : Int) = ((old : Int) + x) % 2 ^ w ∧
    ((atomNew 1 w sg old x : Nat) : Int) = ((old : Int) - x) % 2 ^ w ∧
    (∀ k, (atomNew 4 w sg old x).testBit k = (old.testBit k && x.testBit k)) ∧
    (∀ k, (atomNew 5 w sg old x).testBit k = (old.testBit k || x.testBit k)) ∧
    (∀ k, (atomNew 6 w sg old x).testBit k = (old.testBit k ^^ x.testBit k)) ∧
    atomNew 7 w sg old x = x ∧ atomNew 8 w sg old x = (if x ≤ old then 0 else old + 1) ∧
    atomNew 9 w sg old x = (if old = 0 ∨ x < old then x else old - 1)) ∧
  atomNew 2 w false old x = min old x ∧ atomNew 3 w false old x = max old x ∧
  sxt w (atomNew 2 w true old x) = min (sxt w old) (sxt w x) ∧ sxt w (atomNew 3 w true old x) = max (sxt w old) (sxt w x) ∧
  (∀ (f : MForm) (d : Nat), (atomResult 0xB9 f old x d = if old = x then some d else none) ∧
    (atomResult 0xBA f old x d = if old = x then some d else none) ∧
    (atomResult 0xBB f old x d = if old = x then some d else none))) ∧
  (∀ (s s1 : State) (c0 c : Iss) (f : MForm) (lanes : List LaneAcc),
  let begins := fun (op : Nat) (i : Instr) => IssuesF op f s c0 c → ownOp s c i = none → c0.shadowOk (mShape op f) = true →
    c.act ≠ 0 → c.h.countFull 2 = false → alignFault (atomBytes op f) (laneAddrs op f c) = none →
    (f.releases = false ∨ releaseReady s c.h = (s, true)) → s1.Settled → (s1.hatch? c.inst).isSome = true →
    resolveLanes s c.h.core (ctxOf s c.h) c.kern .atomic false ((laneAddrs op f c).map (fun a => LaneAcc.start a.1 a.2 [])) =
      (s1, lanes) → (∀ a ∈ lanes, a.fault = 0 ∧ a.mt ≠ 4) →
    allocTest s1 c ((allocWrites (mShape op f) false).foldl (applyWrite c.prot 0) (c.h.freeLast (mShape op f), c.p)).1 = .ok →
    Answers i s (fun t => ∃ o, Began s1 t c (mShape op f) 2 o ∧ o.what = i ∧ o.lanes = lanes ∧ o.vecs = captured op f c ∧
      ∀ a, lanes.head? = some a → (⟨.storeCommit, { src := .op o.id a.line, op := o.id, line := a.line }⟩ : Event) ∈ t.net)
  begins 0xB3 (.atom f) ∧ begins 0xB4 (.atomf f) ∧ begins 0xB9 (.cas f) ∧ begins 0xBA (.cas128 f) ∧ begins 0xB6 (.atomflush f))

/-- R377, R389 to R391, R219, R392: the atomics on local store act on their lanes in ascending order, at once, and give D the
old values; `atomd` hands its contributions over; and the order in which contributions are summed is that of the block, the
hatch, the lane and the arrival, whatever order they came in.
That an atomd hands over all its contributions at issue is the model's choice (entry 15). -/
def Obligations.LocalAtomics : Prop := ∀ (s : State) (c0 c : Iss) (f : MForm), s.Settled →
  let locals := fun (op : Nat) (i : Instr) => let as := (lanesOf c.act).map (fun j => (j, localAddr c f j))
    let r := localAtoms op f c s as
    IssuesF op f s c0 c → c0.shadowOk (mShape op f) = true → c.act ≠ 0 → c.h.countFull 2 = false →
    (s.core c.h.core).sfrWait = [] → f.releases = false → f.acquires = false → c.prot = false → hasDst op f = true →
    f.d.toNat < 64 → c.h.v.length = 64 → (mShape op f).srcs.all (fun u => !u.last) = true →
    (∀ a ∈ as, a.2 % atomBytes op f = 0 ∧ localOk c.rcd a.2 (atomBytes op f) = true ∧
      localPoison s c.h.core c.h.block a.2 (atomBytes op f) = false) →
    allocTest s c ((allocWrites (mShape op f) false).foldl (applyWrite false 0) (c.h, c.p)).1 = .ok →
    Answers i s (fun t => WentOn t c 16 ∧ t.mem = s.mem ∧ (∀ k, (t.core k).ways = (r.1.core k).ways) ∧
      ∃ g, t.hatch? c.inst = some g ∧ ∀ l, l < 96 → g.vword f.d.toNat l =
        if c.act.getLsbD l then BitVec.ofNat 32 (((r.2.find? (fun x => x.1 == l)).map (·.2)).getD 0) else c.h.vword f.d.toNat l)
  locals 0xB7 (.atoml f) ∧ locals 0xB8 (.atomfl f) ∧ locals 0xBB (.casl f) ∧
  (∀ s1 s2 lanes, IssuesF 0xB5 f s c0 c → c0.shadowOk (mShape 0xB5 f) = true → c.act ≠ 0 → c.h.countFull 2 = false →
    (s.core c.h.core).sfrWait = [] → alignFault (atomBytes 0xB5 f) (laneAddrs 0xB5 f c) = none →
    resolveLanes s c.h.core (ctxOf s c.h) c.kern .atomic false ((laneAddrs 0xB5 f c).map (fun a => LaneAcc.start a.1 a.2 [])) =
      (s1, lanes) → (∀ a ∈ lanes, a.fault = 0) →
    holdAll c c.h.core (ctxOf s c.h) c.rcd.spill s1.fresh.2
      (lanes.map (fun a => (a, { contribOf s1.fresh.2 c f a with arrival := s1.nextId }))) = (s2, true) →
    s2.Settled → s2.hatch? c.inst = some c.h →
    Answers (.atomd f) s (fun t => WentOn t c 16 ∧ t.sched.contribs = s2.sched.contribs ∧ t.mem = s2.mem ∧ t.slices = s2.slices)) ∧
  (∀ cs : List Contrib, List.Perm (contribSort cs) cs ∧ (contribSort cs).Pairwise (fun a b => b.before a = false))

/-! ### Draining, waiting, barriers, semaphores, freezing (17) -/

/-- R192, R216, R387, R393: `sdrain` goes on once nothing that writes is in flight, and waits otherwise; a fence makes its
release part and then its acquire part and goes on.
R145, R394: a hatch arrives at a barrier after the barrier's release, and waits until every participant has arrived, or
departs at once as the last; a departing hatch makes the barrier's acquire, and D and the status register take whether a
participant was lost.
What a release waits for and an acquire drops is as entry 52 says. -/
def Obligations.FencesAndBarriers : Prop :=
  (∀ (s : State) (c : Iss) (f : MForm), s.Settled → (f.gsense = 0 ∨ c.act ≠ 0) →
  (IssuesM 0xB0 f s c → drained s c.h = true → Answers (.sdrain f) s (fun t => Passed s t c 16)) ∧
  (IssuesM 0xB0 f s c → drained s c.h = false → Answers (.sdrain f) s (Stalled s)) ∧
  (IssuesM 0xBC f s c → (f.releases = false ∨ releaseReady s c.h = (s, true)) → (f.acquires = false ∨ loadsDone s c.h = true) →
    let s1 := if f.releases && !decide (f.scope.toNat < 2) then drainCore s c.h.core else s
    let s2 := if f.acquires then acquireFence s1 c.inst else s1
    s2.Settled → Answers (.fence f) s (fun t => Changed s2 t c
      (fun h => { h with fenceRel := h.fenceRel || (f.releases && f.scope.toNat < 2), clean := h.clean && !f.releases })
      (fun p => p.arrive (wrap64 (c.p.pc + 16)))))) ∧
  (∀ (s : State) (c : Iss) (f : MForm) (x : Nat × Instr),
  x ∈ [(0xBD, Instr.bar f), (0xBE, .gbar f), (0xBF, .lbar f)] → IssuesM x.1 f s c →
  (∀ w b l h, let s1 := releaseAll s c.h
    let arrived := { b with arrived := if b.arrived.contains (w, c.h.index) then b.arrived else b.arrived ++ [(w, c.h.index)] }
    (∀ st, c.p.wait ≠ .depart st) → barrierOf s c x.1 f = some w → releaseReady s c.h = (s, true) → s1.Settled →
    s1.hatch? c.inst = some h → (h.path? c.slot).isSome = true →
    s1.block? c.h.block = some b → s1.launch? b.launch = some l → (w = 0 ∨ w = 257 ∨ b.hwGroups.contains (w - 1) = true) →
    c.h.block = h.block → s1.sched.blocks.filter (fun y => y.inst == c.h.block) = [b] →
    Answers x.2 s (fun t =>
      (barrierFull (s1.updBlock c.h.block (fun _ => arrived)) arrived l w = false →
        waitOf t c = some (.barrier w) ∧ t.block? c.h.block = some arrived) ∧
      (barrierFull (s1.updBlock c.h.block (fun _ => arrived)) arrived l w = true →
        waitOf t c = some (.depart (if h.abandoned.contains w then 1 else 0))))) ∧
  (∀ st, let s1 := (acquireFence s c.inst).updHatch c.inst (fun h => { h with status := st })
    c.p.wait = .depart st → loadsDone s c.h = true → CanEnd s1 c x.1 f 1 st → Answers x.2 s (fun t => Ended s1 t c x.1 f 1 st)) ∧
  (barrierOf s c x.1 f = none → (∀ st, c.p.wait ≠ .depart st) →
    Answers x.2 s (fun t => Trapped s t c { code := 0x02, info := 0x13 })))

/-- R388: `waddr` ends with the word in D when the word meets its condition, and sleeps on the word otherwise.
R395: `sema` whose word is at least X ends with the old value in D and, where it takes, X less in the word; `semv` begins
as a store that adds X.
How a path waits at its word is as entry 54 says. -/
def Obligations.WaitsAndSemaphores : Prop :=
  (∀ (s : State) (c : Iss) (f : MForm), s.Settled → (f.gsense = 0 ∨ c.act ≠ 0) →
  IssuesM 0xB1 f s c → ownOp s c (.waddr f) = none →
  let x := c.sval f.x 1
  let ok := fun (v : Nat) => match f.sub with
    | 0 => v = x
    | 1 => v ≠ x
    | 2 => x ≤ v
    | _ => v < x
  (∀ a v, let s1 := acquireCore ((sleepOp s c (.waddr f) none []).2.dropOp s.nextId) c.h.core
    f.opx.getLsbD 0 = false → a = localAddr c f 0 → a % 4 = 0 → localOk c.rcd a 4 = true →
    localPoison s c.h.core c.h.block a 4 = false → v = bytesNat (localRead s c.h.core c.h.block a 4) →
    (ok v → CanEnd s1 c 0xB1 f 1 v → Answers (.waddr f) s (fun t => Ended s1 t c 0xB1 f 1 v)) ∧
    (¬ ok v → Answers (.waddr f) s (fun t => waitOf t c = some (.waddr false a s.clock) ∧ t.mem = s.mem))) ∧
  (∀ pa mt w z r s1 s2 bs, let o := (sleepOp s1 c (.waddr f) none [{ LaneAcc.start 0 (memAddr c f 0) [] with tr := true, pa := pa, mt := mt }]).1
    let v := bytesNat (sliceBytes bs (offsetInLine pa) 4)
    let s3 := acquireCore (s2.dropOp o.id) c.h.core
    f.opx.getLsbD 0 = true → memAddr c f 0 % 4 = 0 →
    translate s c.h.core (ctxOf s c.h) c.kern .load (memAddr c f 0) = (s1, .ok pa mt w z r) → mt < 4 →
    olderBlocks (sleepOp s1 c (.waddr f) none [{ LaneAcc.start 0 (memAddr c f 0) [] with tr := true, pa := pa, mt := mt }]).2 o
      (lineOf pa) mt = false →
    readLine (sleepOp s1 c (.waddr f) none [{ LaneAcc.start 0 (memAddr c f 0) [] with tr := true, pa := pa, mt := mt }]).2
      c.h.core (lineOf pa) (sectorMask (offsetInLine pa) 4)
      { mt := mt, frozen := replicaOk (sleepOp s1 c (.waddr f) none [{ LaneAcc.start 0 (memAddr c f 0) [] with tr := true, pa := pa, mt := mt }]).2
          (ctxOf (sleepOp s1 c (.waddr f) none [{ LaneAcc.start 0 (memAddr c f 0) [] with tr := true, pa := pa, mt := mt }]).2 c.h)
          (memAddr c f 0 % 2 ^ 52) z, acquire := true, ldc := false, hint := 0, op := o.id } = (s2, some (bs, 0)) →
    ok v → CanEnd s3 c 0xB1 f 1 v → Answers (.waddr f) s (fun t => Ended s3 t c 0xB1 f 1 v))) ∧
  (∀ (s s1 : State) (c : Iss) (f : MForm) (pa mt : Nat) (w z r : Bool),
  (f.gsense = 0 ∨ c.act ≠ 0) →
  let n := tyRegs f.twf.toNat
  let x := c.sval f.x n
  let va := memAddr c f 0
  let a := (LaneAcc.start 0 va []).resolve s1 (ctxOf s1 c.h) (.ok pa mt w z r)
  va % (4 * n) = 0 → translate s c.h.core (ctxOf s c.h) c.kern .atomic va = (s1, .ok pa mt w z r) → mt < 4 →
  c.h.countFull 2 = false →
  (let o := { newOp s1.fresh.2 c (.sema f) s1.nextId with lanes := [a], active := 1 }
    let s2 := addOp (markDirty s1.fresh.2 c.inst) 2 o
    let s3 := (coherentRead (takeLine s2 (lineOf pa)) pa (4 * n)).1
    let v := bytesNat (peekPa s3 pa (4 * n)).1
    let c2 := c.refresh s2
    let s4 := endOp s3 o
    let s5 := if f.sub = 1 then s4
      else pokePa s4 pa (natBytes (4 * n) (v - x)) (o.trig [a])
    let s6 := wakeLine s5 (lineOf pa)
    IssuesM 0xC0 f s c → ownOp s c (.sema f) = none → c.shadowOk (mShape 0xC0 f) = true → f.acquires = false →
    c2.sval f.x n = x → (f.sub = 1 ∨ (s2.core c2.h.core).sfrWait = []) → lineDead s2 (lineOf pa) = false → olderBlocks s2 o (lineOf pa) 0 = false →
    homeReady s2 (lineOf pa) = (s2, true) → (peekPa s3 pa (4 * n)).2 = false → x ≤ v →
    (f.sub = 1 ∨ heldBack s3 o pa = false) → CanEnd s6 c2 0xC0 f n v →
    Answers (.sema f) s (fun t => Ended s6 t c2 0xC0 f n v)) ∧
  (IssuesM 0xC1 f s c → c.shadowOk (mShape 0xC1 f) = true → (f.releases = false ∨ releaseReady s c.h = (s, true)) → s1.Settled →
    s1.hatch? c.inst = some c.h →
    Answers (.semv f) s (fun t => ∃ o, Began s1 t c (mShape 0xC1 f) 2 o ∧ o.what = .semv f ∧ o.lanes = [a] ∧ o.vecs = [[x], [0]] ∧
      (⟨.storeCommit, { src := .op o.id a.line, op := o.id, line := a.line }⟩ : Event) ∈ t.net)))

/-- R396 to R399: `freeze` takes a free entry, begins the freeze of its range and answers its handle, or answers the refused
value where no entry is free; a bad range traps; `thaw` begins the thaw of a frozen entry that its handle names, and is
refused another; `fwait` answers what the handle's entry says.
R222 to R224, R397, R398: FREEZE_COMPLETE ends a freeze when its shootdown is over and its stores have committed;
THAW_COMPLETE leaves no replica of a line that the entry alone froze and begins a shootdown, and, served again once that is over,
frees the entry.
A package of the domain that has answered is waited for no longer, and a freeze of another package becomes FROZEN here when that one
says so; the messages are the model's (entry 69).
The free entry is a free choice, and the corners of freezing are as entry 25 says; a trap's slot is as entry 14 says. -/
def Obligations.Freezes : Prop :=
  (∀ (s : State) (c : Iss) (f : MForm), (f.gsense = 0 ∨ c.act ≠ 0) →
  let base := baseImm c f
  let size := c.sval f.x 2
  let h := c.sval f.x 1
  let e := s.frz (handleEntry h)
  (IssuesM 0xC2 f s c → freezeCheck c base size = none →
    (∀ x ∈ s.freeze, x.state = .thawing → x.ctx = ctxOf s c.h → x.base < base % 2 ^ 52 + size → base % 2 ^ 52 < x.base + x.size → False) →
    releaseReady s c.h = (s, true) →
    let s1 := markDirty (releaseAll s c.h) c.inst
    let free := (s1.freeze.zipIdx.filter (fun x => x.1.state == .free)).map (·.2)
    let i := free.getD (s1.choose free.length).1 0
    let s2 := startFreeze (s1.choose free.length).2 i (ctxOf s c.h) (base % 2 ^ 52) size
    (free = [] → CanEnd s1 c 0xC2 f 1 0xFFFFFFFF → Answers (.freeze f) s (fun t => Ended s1 t c 0xC2 f 1 0xFFFFFFFF)) ∧
    (free ≠ [] → CanEnd s2 c 0xC2 f 1 ((s2.frz i).gen % 2 ^ 24 * 256 + i % 64) →
      Answers (.freeze f) s (fun t => Ended s2 t c 0xC2 f 1 ((s2.frz i).gen % 2 ^ 24 * 256 + i % 64) ∧
        t.frz i = ⟨((s1.frz i).gen + 1) % 2 ^ 24, .freezing, ctxOf s c.h, base % 2 ^ 52, size, false, false⟩ ∧
        (⟨.freezeComplete, { entry := i }⟩ : Event) ∈ t.net))) ∧
  (IssuesM 0xC2 f s c → ∀ r, freezeCheck c base size = some r → Answers (.freeze f) s (fun t => Trapped s t c r)) ∧
  (IssuesM 0xC3 f s c → (e.state = .free ∨ e.state = .thawing ∨ e.gen ≠ handleGen h ∨ e.ctx ≠ ctxOf s c.h) →
    CanEnd (markDirty s c.inst) c 0xC3 f 1 0xFFFFFFFF →
    Answers (.thaw f) s (fun t => Ended (markDirty s c.inst) t c 0xC3 f 1 0xFFFFFFFF)) ∧
  (IssuesM 0xC3 f s c → bitAt h 7 = false → handleThaw h = false → e.state = .frozen → e.gen = handleGen h → e.ctx = ctxOf s c.h →
    let s1 := startThaw (markDirty s c.inst) (handleEntry h)
    CanEnd s1 c 0xC3 f 1 (e.gen % 2 ^ 24 * 256 + 64 + handleEntry h) → handleEntry h < s.freeze.length →
    Answers (.thaw f) s (fun t => Ended s1 t c 0xC3 f 1 (e.gen % 2 ^ 24 * 256 + 64 + handleEntry h) ∧
      (t.frz (handleEntry h)).state = .thawing ∧ (⟨.thawComplete, { entry := handleEntry h }⟩ : Event) ∈ t.net)) ∧
  (IssuesM 0xC4 f s c → s.Settled →
    (fwaitAnswer s h = none → Answers (.fwait f) s (Stalled s)) ∧
    (fwaitAnswer s h = some 0 → loadsDone s c.h = true → CanEnd (acquireFence s c.inst) c 0xC4 f 1 0 →
      Answers (.fwait f) s (fun t => Ended (acquireFence s c.inst) t c 0xC4 f 1 0)) ∧
    (fwaitAnswer s h = some 1 → CanEnd s c 0xC4 f 1 1 → Answers (.fwait f) s (fun t => Ended s t c 0xC4 f 1 1)) ∧
    (e.gen = handleGen h → bitAt h 7 = false → handleThaw h = false →
      fwaitAnswer s h = if e.state = .freezing then none else some 0))) ∧
  (∀ s : State,
  let i := s.arg.entry
  let e := s.frz i
  let done := (otherEntries s i).filter (fun x => x.state != .freezing)
  let s1 := readEntries (domainAct s (freezeAct i e)) (e :: done)
  let inside := fun (p : Nat) => inPages (entryPages s1 e) p && !inPages (pagesOfAll s1 done) p
  let s2 := publishPages s1 inside
  let s3 := readEntries s (e :: otherEntries s i)
  let falls := fun (line : Nat) => inPages (entryPages s3 e) (line / 512) && !inPages (pagesOfAll s3 (otherEntries s3 i)) (line / 512)
  i < s.freeze.length →
  (e.state = .freezing → shooting s (freezeShoot e) = false → storesInRange s e = false → e.thawWanted = false → s2.Settled →
    s2.coh.agents.any (fun a => a.wbBuf && inside (a.line / 512)) = false →
    Answers .freezeComplete s (fun t => t.frz i = { e with state := .frozen } ∧ ∀ j, j ≠ i → t.frz j = s.frz j)) ∧
  (s.Settled → e.state = .freezing → (shooting s (freezeShoot e) = true ∨ storesInRange s e = true) →
    Answers .freezeComplete s (fun t => SameWork s t ∧ t.freeze = s.freeze ∧ (⟨.freezeComplete, s.arg⟩ : Event) ∈ t.parked)) ∧
  (s.Settled → e.state = .thawing → e.thawWanted = false → domainDone s (.thaw i e.gen) = true →
    Answers .thawComplete s (fun t => SameWork s t ∧ t.frz i = { e with thawWanted := true } ∧ (∀ j, j ≠ i → t.frz j = s.frz j) ∧
      (∀ k l, l ∈ (t.core k).l1 → l.kind = .replica → falls l.line = false) ∧
      (∀ r ∈ t.coh.replicas, falls r.line = false) ∧ (⟨.thawComplete, { entry := i }⟩ : Event) ∈ t.net)) ∧
  (s.Settled → e.state = .thawing → e.thawWanted = true → shooting s (thawShoot e) = true →
    Answers .thawComplete s (fun t => SameWork s t ∧ t.freeze = s.freeze ∧ (⟨.thawComplete, s.arg⟩ : Event) ∈ t.parked)) ∧
  (s.Settled → e.state = .thawing → e.thawWanted = true → shooting s (thawShoot e) = false →
    domainDone s (.thawed i e.gen) = true →
    Answers .thawComplete s (fun t => SameWork s t ∧ t.frz i = { e with state := .free, thawWanted := false } ∧
      ∀ j, j ≠ i → t.frz j = s.frz j))) ∧
  (∀ s : State, s.Settled →
  (s.arg.act = some .done → Answers .pub s (fun t => SameWork s t ∧ t.freeze = s.freeze ∧
    ∀ x ∈ t.coh.asked, x.key = s.arg.op → ∀ c ∈ x.wait, Who.agent c 0 ≠ s.arg.who)) ∧
  (∀ i gen, s.arg.act = some (.frozen i gen) → s.arg.op = 0 → i < s.freeze.length → (s.frz i).state = .freezing → (s.frz i).gen = gen →
    (s.frz i).thawWanted = false →
    Answers .pub s (fun t => SameWork s t ∧ t.frz i = { s.frz i with state := .frozen } ∧ ∀ j, j ≠ i → t.frz j = s.frz j)))

/-! ### Matrix engine and copies (18) -/

/-- R183, R185, R402 to R409: a matrix instruction whose operands pass the checks made at its issue begins and enters its
core's queue; a bad bank size or a misaligned row traps.
A trap's cause is as entry 14 says. -/
def Obligations.MatrixBegins : Prop := ∀ (s : State) (c : Iss) (f : MForm), s.Settled →
  let begins := fun (op : Nat) (i : Instr) (once : Bool) (good : Prop) => IssuesM op f s c → c.shadowOk (mShape op f) = true →
    (c.act ≠ 0 ∨ once = true ∧ f.gsense = 0) → c.h.countFull 1 = false → (s.core c.h.core).mqueue.length < 64 →
    c.h.core < s.cores.length → good →
    allocTest s c ((allocWrites (mShape op f) false).foldl (applyWrite c.prot 0) (c.h.freeLast (mShape op f), c.p)).1 = .ok →
    Answers i s (fun t => ∃ o, Began s t c (mShape op f) 1 o ∧ o.what = i ∧ o.active = (if once then 1 else c.act) ∧
      (t.core c.h.core).mqueue = (s.core c.h.core).mqueue ++ [o.id] ∧
      (⟨.matrixEngineStep, { core := c.h.core }⟩ : Event) ∈ t.net)
  let k := c.sval f.x 1
  let fmt := f.twf.toNat
  let sized := 0 < k ∧ k ≤ (bankLimit fmt).1 ∧ k % (bankLimit fmt).2 = 0 ∧ engAddr c f % 64 = 0
  begins 0xC5 (.mload f) true (sized ∧ (f.opx.getLsbD 0 = true → engAddr c f + imageBytes fmt k ≤ c.rcd.local_)) ∧
  begins 0xC6 (.mswap f) true True ∧ begins 0xCB (.mldmeta f) true (engAddr c f % 64 = 0) ∧
  begins 0xC7 (.mmul f) false (∀ j ∈ lanesOf c.act, (rowAddrs 0xC7 f c).getD j 0 % 4 = 0) ∧
  begins 0xC8 (.mgmul f) false (∀ j ∈ lanesOf c.act, (rowAddrs 0xC8 f c).getD j 0 % 4 = 0) ∧
  begins 0xC9 (.msp f) false (∀ j ∈ lanesOf c.act, (rowAddrs 0xC9 f c).getD j 0 % 4 = 0) ∧
  begins 0xCA (.mgsp f) false (∀ j ∈ lanesOf c.act, (rowAddrs 0xCA f c).getD j 0 % 4 = 0) ∧
  begins 0xCC (.mzero f) false True ∧ begins 0xCD (.mrd f) false True ∧ begins 0xCE (.mwr f) false True ∧
  begins 0xCF (.mst f) false (∀ j ∈ lanesOf c.act, (mstRows f c).getD j 0 % mstSize f = 0) ∧
  begins 0xD0 (.mred f) false True ∧ begins 0xD1 (.mscale f) false True ∧ begins 0xD2 (.macc f) false True ∧
  (IssuesM 0xC5 f s c → c.shadowOk (mShape 0xC5 f) = true → (c.act ≠ 0 ∨ f.gsense = 0) → c.h.countFull 1 = false →
    (s.core c.h.core).mqueue.length < 64 → ¬ sized →
    Answers (.mload f) s (fun t => Trapped s t c { code := 0x02, info := 0x13 }))

/-- R184, R185, R237, R244, R403 to R408: MATRIX_ENGINE_STEP executes the oldest instruction of a hatch. The accumulator
instructions change the active rows of their tile only; `mrd` brings words of a tile to registers; `mswap` exchanges the
banks; a product adds to each active row the products of the activation row and the bank.
The order of instructions is as entry 26 says. -/
def Obligations.MatrixExecutes : Prop := ∀ (s : State) (o : Op) (f : MForm) (h : Hatch), s.Settled →
  let core := s.arg.core
  let d := accOf f.d
  let at_ := fun (g : Hatch) (t l n : Nat) => (g.tileRow t l).getD n 0
  let tiled := fun (val : Nat → Nat → Nat) (t : State) => t.op? o.id = none ∧ ∃ g, t.hatch? o.hatch = some g ∧
    (∀ l n, l < 96 → n < 64 → at_ g d l n = if o.active.getLsbD l then val l n % 2 ^ 32 else at_ h d l n) ∧
    (∀ x, x ≠ d → g.tiles.getD x [] = h.tiles.getD x []) ∧ g.v = h.v ∧ g.s = h.s ∧ g.p = h.p ∧ t.mem = s.mem ∧
    (∀ k, (t.core k).ways = (s.core k).ways)
  let int := f.sub % 2 == 1
  let alone := queueHeads (queueOps s core) = [o]
  let does := fun (val : Nat → Nat → Nat) => d < h.tiles.length → Answers .matrixEngineStep s (tiled val)
  alone → s.hatch? o.hatch = some h → o.core = core → core < s.cores.length →
  (o.what = .mzero f → o.done = false → does ((fun _ _ => 0))) ∧
  (o.what = .mwr f → o.done = false → does ((fun l n =>
    if f.imm.toNat ≤ n ∧ n - f.imm.toNat < groupCount f then (o.vecs.getD (n - f.imm.toNat) []).getD l 0 else at_ h d l n))) ∧
  (o.what = .mred f → (s.core core).owner = some o.block →
    does ((fun l n => addCell int (at_ h d l n) (columnSum f h o.active n)))) ∧
  (o.what = .macc f → o.done = false →
    does ((fun l n => addCell int (at_ h d l n) (at_ h (accOf f.x) l n)))) ∧
  (o.what = .mscale f → o.done = false → does ((fun l n =>
    (fMul fmtF32 (Rm.ofCode f.rm) false (at_ h d l n) ((o.vecs.getD 0 []).getD (if int then n else l) 0)).1))) ∧
  (o.what = .mrd f → o.done = false → hatchProt s h = false → h.v.length = 64 → f.d.toNat + groupCount f ≤ 64 → f.d.toNat < 64 →
    Answers .matrixEngineStep s (fun t => t.op? o.id = none ∧ ∃ g, t.hatch? o.hatch = some g ∧ g.tiles = h.tiles ∧
      ∀ i l, i < groupCount f → l < 96 → g.vword (f.d.toNat + i) l =
        if o.active.getLsbD l then BitVec.ofNat 32 (at_ h (accOf f.x) l (f.imm.toNat + i)) else h.vword (f.d.toNat + i) l)) ∧
  (o.what = .mswap f → (s.core core).owner = some o.block →
    Answers .matrixEngineStep s (fun t => t.op? o.id = none ∧ (t.core core).active = (s.core core).inactive ∧
      (t.core core).inactive = (s.core core).active ∧ t.hatches.map (·.tiles) = s.hatches.map (·.tiles))) ∧
  (o.what = .mload f → (s.core core).owner = some o.block → f.opx.getLsbD 0 = true →
    localOk (recOf s h) (o.vals.getD 1 0) (o.vals.getD 2 0) = true → localPoison s core o.block (o.vals.getD 1 0) (o.vals.getD 2 0) = false →
    Answers .matrixEngineStep s (fun t => t.op? o.id = none ∧ (t.core core).active = (s.core core).active ∧
      (t.core core).inactive = bankOf f.twf.toNat (o.vals.getD 3 0) (localRead s core o.block (o.vals.getD 1 0) (o.vals.getD 2 0)))) ∧
  (o.what = .mmul f → (s.core core).owner = some o.block → (s.core core).active.metaN = 0 → mfIsMx f.twf.toNat = false →
    let b := (s.core core).active
    let len := b.keff * mfBits f.twf.toNat / 8
    let row := fun (l : Nat) => (o.vecs.getD 0 []).getD l 0
    (∀ l ∈ lanesOf o.active, localOk (recOf s h) (row l) len = true ∧ localPoison s core o.block (row l) len = false ∧
      localPoison s core o.block (f.opx.toNat + l * (b.keff / 32)) 0 = false) →
    does ((fun l n =>
      (productRow b f.twf.toNat (localRead s core o.block (row l) len) [] (h.tileRow d l)).getD n 0)))

/-- R186, R412 to R415: a copy whose operands pass its checks begins; a failed check traps; COPY_COMPLETE copies the bytes of
a destination sector, and with the last of them the completion word is written and the copy is over; `cwait` and `ccnt` use
the hatch's counters.
That a copy goes sector by sector is the model's choice (entry 27). -/
def Obligations.Copies : Prop := ∀ (s : State) (c : Iss) (f : MForm), s.Settled →
  let begins := fun (op : Nat) (i : Instr) => IssuesM op f s c → c.shadowOk (mShape op f) = true →
    (c.act ≠ 0 ∨ op ≠ 0xD5 ∧ f.gsense = 0) → c.h.countFull 0 = false → copiesOn s c.h.core < 512 →
    (copyCheck s c op f = none → allocTest s c (c.h.freeLast (mShape op f)) = .ok →
      Answers i s (fun t => ∃ o, Began s t c (mShape op f) 0 o ∧ o.what = i ∧ o.vals.take 6 = copyVals op f c ∧
        (⟨.copyComplete, { op := o.id }⟩ : Event) ∈ t.net)) ∧
    (∀ r, copyCheck s c op f = some r → Answers i s (fun t => Trapped s t c r))
  begins 0xD3 (.cpy f) ∧ begins 0xD4 (.cpy2 f) ∧ begins 0xD5 (.cpyg f) ∧ begins 0xD6 (.cpyd f) ∧ begins 0xD7 (.cpyf f) ∧
  begins 0xD8 (.cpyr f) ∧ begins 0xD9 (.cpymx f) ∧
  (IssuesM 0xDA f s c → (f.gsense = 0 ∨ c.act ≠ 0) →
    ((c.h.count (f.opx.toNat % 4)).length ≤ f.imm.toNat → Answers (.cwait f) s (fun t => Passed s t c 16)) ∧
    (f.imm.toNat < (c.h.count (f.opx.toNat % 4)).length → Answers (.cwait f) s (Stalled s))) ∧
  (IssuesM 0xDB f s c → (f.gsense = 0 ∨ c.act ≠ 0) → CanEnd s c 0xDB f 1 (c.h.count (f.opx.toNat % 4)).length →
    Answers (.ccnt f) s (fun t => Ended s t c 0xDB f 1 (c.h.count (f.opx.toNat % 4)).length)) ∧
  (∀ (o : Op) (src dst len word : Nat), s.op? s.arg.op = some o → o.what = .cpy f → srcLocal f = true → dstLocal f = true →
    o.vals = [src, dst, len, 1, 0, 0, o.core, word, 0] → o.prog = 0 → o.done = false → 0 < len → len ≤ 32 - dst % 32 →
    dst + len ≤ 65536 * (ownedWays s o.core o.block).length →
    (f.cwe = true → f.imm.toNat + 4 ≤ 65536 * (ownedWays s o.core o.block).length) →
    src + len < 2 ^ 32 → dst + len < 2 ^ 32 → o.core < s.cores.length → localPoison s o.core o.block src len = false →
    (s.core o.core).sfrWait = [] →
    (∀ b cells bad, Way.owned b cells bad ∈ (s.core o.core).ways → Memory.wf cells = true) →
    Answers .copyComplete s (fun t => t.op? o.id = none ∧ t.mem = s.mem ∧ t.slices = s.slices ∧
      ∀ a, a < 65536 * (ownedWays s o.core o.block).length → localByte t o.core o.block a =
        if f.cwe = true ∧ f.imm.toNat ≤ a ∧ a < f.imm.toNat + 4 then (natBytes 4 word).getD (a - f.imm.toNat) 0
        else if dst ≤ a ∧ a < dst + len then localByte s o.core o.block (src + (a - dst))
        else localByte s o.core o.block a))

/-! ### Launches and continuations (18, 07, 16) -/

/-- R416, R417: `launch` hands its record to the dispatcher, whose answer LAUNCH_ACCEPTED writes into the pair; `kwait` waits
until its producers are done and acquires; `ktrig` releases and is noted for its block.
The acquire of kwait and the codes of a failed check are as entries 28 and 55 say. -/
def Obligations.Launches : Prop := ∀ (s : State) (c : Iss) (f : MForm),
  (IssuesM 0xDC f s c → c.shadowOk (mShape 0xDC f) = true → (f.gsense = 0 ∨ c.act ≠ 0) → c.h.countFull 3 = false → releaseReady s c.h = (s, true) →
    (releaseAll s c.h).Settled →
    Answers (.launchInsn f) s (fun t => ∃ o, Began (releaseAll s c.h) t c {} 3 o ∧ o.what = .launchInsn f ∧
      o.vals = [wrapN 64 ((c.sval f.addr 2 : Int) + sxt 32 f.imm.toNat)] ∧
      (⟨.launchAccepted, { op := o.id }⟩ : Event) ∈ t.net)) ∧
  (∀ (o : Op) (s1 : State) (r : LaunchRes) (h : Hatch) (x : Nat), s.op? s.arg.op = some o → o.what = .launchInsn f →
    startLaunch s o.core o.ctx (o.vals.getD 0 0) = (s1, r) → s1.Settled → s1.hatch? o.hatch = some h → h.s.length = 128 →
    s1.op? o.id = some o → o.vecs = [] → specKind f.d = .s x → 4 ≤ x → x + 1 < 128 →
    Answers .launchAccepted s (fun t => t.op? o.id = none ∧ t.sched.launches = s1.sched.launches ∧ ∃ g, t.hatch? o.hatch = some g ∧
      (∀ id, r = .ok id → id < 2 ^ 32 → g.s.getD x 0 = BitVec.ofNat 32 id ∧ g.s.getD (x + 1) 0 = 0) ∧
      (∀ code, r = .fail code → g.s.getD x 0 = 0 ∧ g.s.getD (x + 1) 0 = BitVec.ofNat 32 code) ∧
      (∀ y, y ≠ x → y ≠ x + 1 → g.s.getD y 0 = h.s.getD y 0) ∧ g.v = h.v ∧ g.p = h.p)) ∧
  (IssuesM 0xDD f s c →
    ((c.rcd.dep = false ∨ (s.block? c.h.block).map (·.triggered) = some true ∨ c.rcd.producers.all (producerDone s) = true) →
      loadsDone s c.h = true → (acquireFence s c.inst).Settled →
      Answers (.kwait f) s (fun t => Passed (acquireFence s c.inst) t c 16)) ∧
    (∀ b l id, c.rcd.dep = true → s.block? c.h.block = some b → b.triggered = false → launchOf s c.h = some l → l.watched = false →
      id ∈ c.rcd.producers → producerDone s id = false → s.Settled → Answers (.kwait f) s (Stalled s))) ∧
  (IssuesM 0xDE f s c → releaseReady s c.h = (s, true) →
    let s1 := (markDirty (releaseAll s c.h) c.inst).updBlock c.h.block (fun b => { b with ktrig := true })
    s1.Settled → Answers (.ktrig f) s (fun t => Passed s1 t c 16))

/-- R146, R364, R365, R418: a spawn that passes its checks takes a slot, queues a continuation of one hatch and counts in c3;
`ibisect` gives D the lower half as well. In a handler, with too many images, or with no free slot, it traps; with no active
lane it has no effect.
The corners of a spawn are as entry 28 says. -/
def Obligations.Spawns : Prop := ∀ (s s1 s3 s4 : State) (c : Iss) (pb : Block) (l : Launch) (area : Nat),
  let s2 := releaseAll s1 c.h
  let ready := s.Settled ∧ spawnRoom s c = .ok true s1 ∧ c.h.countFull 3 = false ∧ releaseReady s1 c.h = (s1, true) ∧
    s2.block? c.h.block = some pb ∧ launchOf s2 c.h = some l ∧
    (poolTake c.h.core (ctxOf s2 c.h) c.rcd.pool 1).run s2 = .ok (some [area]) s3 ∧ s4.Settled
  let imaged := fun (what : Instr) (pc : Nat) (h : Hatch) (regs : List (Nat × Nat)) =>
    (devWrite c.h.core (ctxOf s2 c.h) area (spawnImage h (spawnPath c pc) c.prot (spawnScalars c pb.index l.spawnSerial) regs)).run
      (queueSpawn s3 c what pb l regs area) = .ok () s4
  let queued := fun (regs : List (Nat × Nat)) (t : State) =>
    (∃ b ∈ t.sched.blocks, b.spawnArea = some area ∧ b.launch = l.id ∧ b.sole = 384 + l.spawnSerial ∧ b.phase = .queued ∧
      b.depth = c.h.depth ∧ b.spawnRegs = regs) ∧
    (t.hatch? c.inst).map (fun h => (h.count 3).length) = some ((c.h.count 3).length + 1) ∧
    (⟨.spawnPlacement, { core := c.h.core }⟩ : Event) ∈ t.net
  (∀ f : MForm, IssuesM 0xDF f s c → c.shadowOk (mShape 0xDF f) = true →
    let names := namedRegs (c.sval f.x 2)
    let regs := imageRegs c.h names
    copyWaits c names = false →
    (c.p.handler = true → Answers (.spawn f) s (fun t => Trapped s t c { code := 0x02, info := 0x13 })) ∧
    (c.p.handler = false → c.act = 0 → s.Settled → Answers (.spawn f) s (fun t => Passed s t c 16)) ∧
    (c.p.handler = false → c.act ≠ 0 → 9 < regs.length →
      Answers (.spawn f) s (fun t => Trapped s t c { code := 0x02, info := 0x13 })) ∧
    (c.p.handler = false → c.act ≠ 0 → regs.length ≤ 9 → spawnRoom s c = .ok false s1 →
      Answers (.spawn f) s (fun t => Trapped s1 t c { code := 0x1C })) ∧
    (c.p.handler = false → c.act ≠ 0 → regs.length ≤ 9 → ready →
      imaged (.spawn f) (wrapN 64 ((c.p.pc : Int) + 4 * sxt 32 f.imm.toNat)) c.h regs →
      Answers (.spawn f) s (fun t => Passed s4 t c 16 ∧ queued regs t))) ∧
  (∀ f : AForm, IssuesA 0x8F f s c →
    let w := tyRegs f.tyN
    let m := physMask c.prot c.act
    let half := fun (l : Nat) => halves (fmtOf f.tyN) (ivlA c f l).1
    let ds := regRange (vecReg f.dst) w
    let names := (namedRegs (c.sval f.srcb 2)).filter (fun r => !ds.contains r)
    let up := (applyWrite c.prot m (c.h, c.p) (.ivl f.dst w (fun l => (half l).2))).1
    let regs := imageRegs up ds ++ imageRegs c.h names
    let sh := aShape 0x8F (aRule c.fieldCtx 0x8F f) f
    let low := fun (k : Iss) => applyWrite k.prot m (k.h.freeLast sh, k.p) (.ivl f.dst w (fun l => (half l).1))
    let fl := (lanesOf m).foldl (fun a l => a ||| (ivlA c f l).2) 0
    copyWaits c names = false →
    (c.p.handler = false → c.act ≠ 0 → 9 < regs.length →
      Answers (.ibisect f) s (fun t => Trapped s t c { code := 0x02, info := 0x13 })) ∧
    (c.p.handler = false → c.act ≠ 0 → m ≠ 0 → regs.length ≤ 9 → regs.length ≤ c.rcd.peak → ready →
      imaged (.ibisect f) (wrap64 (c.p.pc + f.len)) up regs → allocTest s2 c (low c).1 = .ok →
      allocTest s4 (c.refresh s4) (low (c.refresh s4)).1 = .ok →
      Answers (.ibisect f) s (fun t => queued regs t ∧
        let k := c.refresh s4
        Finished s4 t k sh { (low k).1 with fpflags := (low k).1.fpflags ||| fl } (low k).2 f.len)))

/-! ### Translation, channels and scrubbing (03, 04) -/

/-- R64, R67, R68: WALK_COMPLETE serves the store that waits for the page, whose line then asks for write permission; a stale
walk starts again. SHOOTDOWN_COMPLETE ends an invalidation on a die, and the last one lets `tlbinv` go on.
Which walks are in flight is the model's choice (entry 7). -/
def Obligations.WalksAndShootdowns : Prop := ∀ s : State,
  (∀ (w : Walk) (o : Op) (a : LaneAcc) (s1 : State) (x : XRes), s.tr.walks.find? (fun x => x.id == s.arg.walk) = some w →
    let s0 : State := { s with tr := { s.tr with walks := s.tr.walks.filter (fun x => x.id != w.id) } }
    let b := a.resolve s1 o.ctx x
    w.stale = false → s.tr.shoots.any (fun x => x.die == w.die && shootWalk x.kind w) = false → w.ops = [o.id] → w.misses = [] →
    (∀ x ∈ s.tr.walks, x.id ≠ w.id → x.die = w.die → x.queued = false) → s.op? o.id = some o → o.lanes = [a] → a.tr = false →
    w.covers w.die w.ctx (a.va % 2 ^ 52) = true → translateNow s0 o.core o.ctx (ctxKernel s0 o.ctx) .store a.va = (s1, x) →
    s1.Settled → b.fault = 0 → b.pending = true → homeStore o b = false →
    Answers .walkComplete s (fun t => (∃ q, t.op? o.id = some q ∧ q.lanes = [b]) ∧
      (⟨.writePermissionRequest, { op := o.id, line := b.line }⟩ : Event) ∈ t.net ∧ ∀ x ∈ t.tr.walks, x.id ≠ w.id)) ∧
  (∀ w : Walk, s.Settled → s.tr.walks.find? (fun x => x.id == s.arg.walk) = some w → w.stale = true →
    Answers .walkComplete s (fun t => SameWork s t ∧ (⟨.walkComplete, { walk := w.id }⟩ : Event) ∈ t.net ∧
      ∀ x ∈ t.tr.walks, x.id = w.id → x.stale = false)) ∧
  (∀ x : Shoot, s.Settled → s.tr.shoots.find? (fun y => y.die == s.arg.die && y.id == s.arg.shoot) = some x →
    s.tr.walks.any (fun w => w.die == s.arg.die && w.stale && shootWalk x.kind w) = false →
    let left := s.tr.shoots.filter (fun y => !(y.die == s.arg.die && y.id == s.arg.shoot))
    (left.any (fun y => y.id == s.arg.shoot) = true →
      Leads .shootdownComplete s { s with tr := { s.tr with shoots := left } }) ∧
    (∀ h slot p, left.any (fun y => y.id == s.arg.shoot) = false →
      (allPaths s).filter (fun y => y.2.2.wait == .shoot s.arg.shoot) = [(h, slot, p)] → s.hatch? h.inst = some h →
      Answers .shootdownComplete s (fun t => t.tr.shoots = left ∧ t.mem = s.mem ∧
        (t.hatch? h.inst).bind (fun g => (g.path? slot).map (fun q => (q.pc, q.wait))) =
          some ((endCheck (wrap64 (p.pc + 8)) p.loops).2, .none))))

/-- R43, R54, R55, R58: a channel serves next the request that has waited 2,048 clocks longest, where there is one, and else a
request of the group in service; the scrubber corrects the single-bit errors of its line; FADE_DECREMENT lowers the counters of the
windows with a line of the channel that were not hit in the same clock, and a window that would fall to 0 is gone.
The order of the scrubber is the model's choice (entry 61), and refresh is left out (entry 13). -/
def Obligations.MemorySide : Prop := ∀ s : State, s.Settled →
  (∀ r, nextRequest s (s.chan s.arg.chan) = some r →
    ((∃ x ∈ (s.chan s.arg.chan).pending, x.at_ + 2048 ≤ s.clock) →
      r ∈ (s.chan s.arg.chan).pending ∧ ∀ x ∈ (s.chan s.arg.chan).pending, r.at_ ≤ x.at_) ∧
    (∀ g, (∀ x ∈ (s.chan s.arg.chan).pending, s.clock < x.at_ + 2048) → (s.chan s.arg.chan).serving = some g →
      (∃ x ∈ (s.chan s.arg.chan).pending, x.group = g ∧ x.single = false) → r.group = g ∧ r.single = false) ∧
    Answers .channelAccess s (fun t => SameWork s t ∧ (t.chan s.arg.chan).pending = (s.chan s.arg.chan).pending.erase r)) ∧
  (s.arg.line = 0 → Answers .patrolScrub s (fun t => SameWork s t ∧ t.ms.scrubNext = (s.ms.scrubNext + 1) % dramLines ∧
    (∀ i, i < 4 → s.ms.scrubNext * 4 + i ∉ t.ecc1) ∧ ∀ x ∈ s.ecc1, x / 4 ≠ s.ms.scrubNext → x ∈ t.ecc1)) ∧
  Answers .fadeDecrement s (fun t => SameWork s t ∧ ∀ i w, i < 32 → s.ms.windows[i]? = some (some w) →
    t.ms.windows.getD i none =
      if windowOn s w s.arg.chan = false ∨ w.hitAt = some s.clock then some w else if w.fade ≤ 1 then none else some { w with fade := w.fade - 1 })

/-! ### Resets and power (01) -/

/-- R21 to R25, R102, R150: what a reset keeps and clears and how its steps follow each other; what a port loses; an internal
fatal error is counted; an engine's reset discards the block whose operation it lost.
R15, R16, R18 to R20: the throttle depth rises at 100.0 degrees and falls below 98.0; a thermal trip stops every die; the
power cap moves its depth by a step for each window; a die is gated when it has been idle and is woken by work, which wins over a
power-down of the same clock.
The corners of resets and of power are as entry 38 says, and what a reset leaves without a rule as entry 2 says. -/
def Obligations.ResetsAndPower : Prop :=
  (∀ s : State,
  let fails := s.arg.failStep
  (s.arg.seq = 0 → fails ≠ 1 → Answers .coldReset s (fun t => t.mem = [] ∧ t.slices = [] ∧ t.hatches = [] ∧ t.ops = [] ∧
    t.sched = Sched.reset ∧ t.pkg.devState = .reset ∧ t.pkg.warm = false ∧ t.host.errLog = [] ∧
    (⟨.coldReset, { s.arg with seq := 2 }⟩ : Event) ∈ t.net)) ∧
  (s.arg.seq = 0 → fails ≠ 3 → s.pkg.thermtrip = false → (s.pkg.devState = .failed → s.pkg.failStep ≠ 2) →
    Answers .warmReset s (fun t => t.mem = s.mem ∧ t.poison = s.poison ∧
    t.slices = [] ∧ t.hatches = [] ∧ t.ops = [] ∧ t.sched = Sched.reset ∧ t.pkg.devState = .fuses ∧ t.pkg.warm = true ∧
    t.host.errLog = s.host.errLog ∧ (⟨.warmReset, { s.arg with seq := 4 }⟩ : Event) ∈ t.net)) ∧
  (s.Settled → s.arg.seq ≠ 0 → s.host.cmdHeld = false →
    (fails = s.arg.seq → Answers .coldReset s (fun t => t.pkg.devState = .failed ∧ t.pkg.failStep = s.arg.seq)) ∧
    (s.arg.seq = 4 → fails ≠ 4 → Answers .coldReset s (fun t => t.pkg.devState = .logic ∧ t.cores = State.reset.cores ∧
      t.dies = State.reset.dies ∧ t.hatches = [] ∧ t.ops = [] ∧ t.slices = [] ∧ t.coh = Coh.reset ∧ t.tr = Trans.reset ∧ t.mem = s.mem ∧
      (⟨.coldReset, { s.arg with seq := 5 }⟩ : Event) ∈ t.net)) ∧
    (s.arg.seq = 5 → fails ≠ 5 → Answers .coldReset s (fun t => t.pkg.devState = .memory ∧ t.mem = [] ∧ t.poison = [] ∧ t.ecc1 = [] ∧
      (⟨.coldReset, { s.arg with seq := 6 }⟩ : Event) ∈ t.net)) ∧
    (fails ≠ 7 → s.arg.seq = 7 → Leads .coldReset s { s with
      pkg := { s.pkg with devState := .ready }, ms := MemSide.reset, sched := Sched.reset, freeze := State.reset.freeze })) ∧
  (s.Settled → let p := s.arg.port
    let lost := fun (i : Instr) (link corr uncorr : Bool) => Answers i s (fun t => SameWork s t ∧
      t.host.semHolder ≠ some (portRequester p) ∧ (t.port p).link = link ∧
      (t.port p).maskCorr = corr ∧ (t.port p).maskUncorr = uncorr ∧
      ∀ q, q ≠ p → t.port q = { s.port q with pba := (t.port q).pba })
    lost .portReset false true true ∧
    lost .functionLevelReset (s.port p).link (s.port p).maskCorr (s.port p).maskUncorr ∧
    lost .hostLinkLoss false (s.port p).maskCorr (s.port p).maskUncorr ∧
    Answers .hostLinkUp s (fun t => SameWork s t ∧ t.port p = { s.port p with link := true } ∧ (∀ q, q ≠ p → t.port q = s.port q) ∧
      (p = .a → t.pkg = { s.pkg with perstA := false }) ∧ (p = .b → t.pkg = { s.pkg with perstB := false })) ∧
    Answers .internalFatal s (fun t => SameWork s t ∧ t.host.errFatal = satInc s.host.errFatal)) ∧
  (∀ o b, s.Settled → s.op? s.arg.op = some o → o.core = s.arg.core → (instrForm o.what).map (fun x => decide (0xC5 ≤ x.1 ∧ x.1 ≤ 0xD9)) = some true →
    s.block? o.block = some b → b.phase = .resident →
    Answers .copyMatrixEngineReset s (fun t => t.op? o.id = none ∧ (∀ h ∈ t.hatches, h.block ≠ b.inst) ∧
      ∃ x, t.block? b.inst = some x ∧ x.phase = .queued ∧ x.replay = true ∧ x.effPrio = b.effPrio))) ∧
  (∀ s : State, s.Settled →
  let d := s.arg.die
  let gate := fun (g : GateState) => { s with dies := s.dies.modify d (fun x => { x with gate := g, gateSince := s.clock }) }
  let die := s.dies.getD d Die.reset
  Leads .prochotAssert s { s with pkg := { s.pkg with prochot := true } } ∧
  Leads .prochotDeassert s { s with pkg := { s.pkg with prochot := false } } ∧
  (s.pkg.thermtrip = false →
    let trips := fun (t : State) => t.pkg.thermtrip = true ∧ t.hatches = [] ∧ t.ops = [] ∧ (∀ x ∈ t.dies, x.gate = .gated) ∧
      (∃ m ∈ t.out, m = .pin 0 true) ∧ t.mem = s.mem ∧ t.host.errFatal = satInc s.host.errFatal
    let due := s.pkg.thermalAt = 0 ∨ s.pkg.thermalAt + 24000 ≤ s.clock
    (1100 ≤ s.arg.temp → Answers .thermalTrip s trips ∧ Answers .thermalStep s trips) ∧
    (¬ due → s.arg.temp < 1100 → Leads .thermalStep s s) ∧
    (due → 1000 ≤ s.arg.temp → s.arg.temp < 1100 → Answers .thermalStep s (fun t => SameWork s t ∧
      t.pkg.thermalDepth = min 15 (s.pkg.thermalDepth + 1))) ∧
    (due → s.arg.temp < 980 → Answers .thermalStep s (fun t => SameWork s t ∧ t.pkg.thermalDepth = s.pkg.thermalDepth - 1)) ∧
    (980 ≤ s.arg.temp → s.arg.temp < 1000 → Leads .thermalStep s s)) ∧
  (s.clock < s.pkg.capAt + 240000 → Answers .capWindowEnd s (fun t => SameWork s t ∧ t.pkg = s.pkg ∧
    (⟨.capWindowEnd, s.arg⟩ : Event) ∈ t.parked)) ∧
  (s.pkg.capAt + 240000 ≤ s.clock → Answers .capWindowEnd s (fun t => SameWork s t ∧ t.pkg.measuredW = s.arg.watts ∧ t.pkg.capDepth =
    if s.pkg.capW < s.arg.watts then min 15 (s.pkg.capDepth + 1)
    else if s.arg.watts + 50 < s.pkg.capW then s.pkg.capDepth - 1 else s.pkg.capDepth)) ∧
  (die.gate = .powered → die.onMode = false → dieBusy s d = false → die.gateSince + 2400000 ≤ s.clock →
    Leads .dieIdleTimeout s (gate .gating)) ∧
  (die.gate = .gating → (dieBusy s d = true ∨ die.onMode = true) → Leads .gatingDone s (gate .powered)) ∧
  (die.gate = .gating → dieBusy s d = false → die.onMode = false → die.gateSince + 4800 ≤ s.clock → d < s.dies.length →
    Answers .gatingDone s (fun t => (t.dies.getD d Die.reset).gate = .gated ∧
      ∀ k, k / 64 = d → (t.core k).l1 = [] ∧ (t.core k).tlb = [])) ∧
  (s.pkg.thermtrip = false → die.gate = .gating → Leads .dieWake s (gate .powered)) ∧
  (s.pkg.thermtrip = false → die.gate = .gated → die.gateSince ≠ s.clock → Leads .dieWake s (gate .waking)) ∧
  (s.pkg.thermtrip = false → die.gate = .gated → die.gateSince = s.clock → Leads .dieWake s (gate .powered)) ∧
  (die.gate = .waking → die.gateSince + 48000 ≤ s.clock → Leads .wakingDone s (gate .powered)))

/-! ### Links and routers (02) -/

/-- R27, R31 to R41: packets go along the row and then the column, and over the port that the address selects; a good flit in sequence
is accepted and acknowledged, one with a CRC error is counted and answered with a NACK; acknowledged flits are let go, the others are
sent again on request or after 4,096 clocks; a link retrains and resumes at the width that its lanes allow, or is down; a packet is
forwarded to the port of its chip, and one that no port is left for fails its package; a router powers down when it is idle
and a wake takes precedence.
What a packet's payload holds, and the corners of links, are as entries 21, 37 and 63 say. -/
def Obligations.LinksAndRouters : Prop := ∀ s : State, s.Settled →
  let id := s.arg.link
  let l := s.link id
  let f := s.arg.flit
  let g := goodLanes s.arg.lanes
  let answers := fun (t : State) (kind seq : Nat) => ∃ credit, OutMsg.flit id (flitOf kind 0 seq 0 credit 0) ∈ t.out
  let again := fun (i : Instr) (u : State) => (u.link id).held ≠ [] → (u.link id).replays < 8 →
    Answers i s (fun t => SameWork s t ∧ (t.link id).held = (u.link id).held ∧
      (t.link id).replayCount = satInc (u.link id).replayCount ∧
      (peerEnd id = none → ∀ x ∈ (u.link id).held, OutMsg.flit id (heldBits (u.link id) x) ∈ t.out))
  let rid := s.arg.router
  let sets := fun (i : Instr) (st : RouterState) => Answers i s (fun t => SameWork s t ∧ (t.router rid).state = st ∧
    (t.router rid).since = s.clock)
  (∀ (d : Nat) (a b : Nat × Nat) (pa : Option Nat), (∀ r c x y, linkLives s (.grid d r c x y) = true) →
    routeFrom s (.router ⟨d, a.1, a.2⟩) (.router ⟨d, b.1, b.2⟩) pa =
      some ((if a.2 = b.2 then [] else [.grid d a.1 a.2 a.1 b.2]) ++ (if a.1 = b.1 then [] else [.grid d a.1 b.2 b.1 b.2]))) ∧
  (∀ d k pa col, let x := (peerPorts k).getD (bitsOf pa 8 7) (0, 0)
    linkLives s (.bridge d x.1 x.2) = true → bridgeFor s d k (some pa) col = some x) ∧
  (∀ kind seq ack vc credit payload, kind < 7 → seq < 512 → ack < 512 → vc < 6 → credit < 64 →
    let x := flitOf kind seq ack vc credit payload
    flitGood x = true ∧ flitKind x = kind ∧ flitSeq x = seq ∧ flitAck x = ack ∧ flitVc x = vc ∧ flitCredit x = credit) ∧
  (linkUp s id = true → (linkRouter id = none ∨ ∃ r, linkRouter id = some r ∧ (s.router r).state = .active) →
    (flitGood f = true → 1 ≤ flitKind f → flitKind f ≤ 4 → flitSeq f = (l.lastGood + 1) % 512 → s.fab.packets = [] →
      Answers .flitReceive s (fun t => SameWork s t ∧ (t.link id).lastGood = flitSeq f ∧ answers t 5 (flitSeq f))) ∧
    (flitGood f = false → Answers .flitReceive s (fun t => SameWork s t ∧ (t.link id).crc = satInc l.crc ∧
      (t.link id).discarding = true ∧ (t.link id).lastGood = l.lastGood ∧ answers t 6 l.lastGood))) ∧
  (linkUp s id = false → Leads .flitReceive s s) ∧
  (∀ i, s.fab.packets = [] → (l.held.map (·.seq)).idxOf? (s.arg.seq % 512) = some i → Leads .ackReceive s
    (s.updLink id (fun l => { l with held := l.held.drop (i + 1), replays := 0, ackAt := s.clock }))) ∧
  (l.state = .up → again .nackReceive (takeAck s id (s.arg.seq % 512))) ∧
  (l.state = .up → l.ackAt + 4096 ≤ s.clock → again .replayTimeout s) ∧
  (l.state = .up → l.ackAt + 4096 ≤ s.clock → l.held ≠ [] → 8 ≤ l.replays →
    Leads .replayTimeout s (s.post .retrainStart { link := id })) ∧
  (l.state = .up → trainable s id = true → peerEnd id ≠ some id → Answers .retrainStart s (fun t => SameWork s t ∧
    (t.link id).state = .retraining ∧ (t.link id).since = s.clock ∧ (t.link id).retrains = satInc l.retrains ∧
    ∀ e, peerEnd id = some e → (t.link e).state = .retraining)) ∧
  (l.state = .retraining → l.since + retrainTime id ≤ s.clock →
    (widthOf id g ≠ .none → Answers .retrainDone s (fun t => SameWork s t ∧ (t.link id).state = .up ∧
      (t.link id).half = (l.half || decide (widthOf id g = .half)))) ∧
    (widthOf id g = .none → Answers .retrainDone s (fun t => (t.link id).state = .down ∧ (t.link id).held = []))) ∧
  (l.state = .retraining → s.clock < l.since + retrainTime id → Answers .retrainDone s (fun t => SameWork s t ∧ t.fab = s.fab ∧
    (⟨.retrainDone, s.arg⟩ : Event) ∈ t.parked)) ∧
  (∀ u, s.fab.ulain[s.arg.uport]? = some u → u.state = .training →
    let w := widthOf (.ulain s.arg.uport) s.arg.good
    Answers .ulainTrained s (fun t => SameWork s t ∧ ∃ v, t.fab.ulain[s.arg.uport]? = some v ∧ v.good = s.arg.good ∧
      v.state = (if w = .none then .down else .up) ∧ v.half = decide (w = .half))) ∧
  (s.arg.chip ≠ s.fab.chipId →
    (4 ≤ s.arg.hops → Answers .ulainForward s (fun t => SameWork s t ∧ t.host.errFatal = satInc s.host.errFatal)) ∧
    (∀ p, s.arg.hops < 4 → forwardPort s s.arg.chip s.arg.offset = some p → s.fab.packets = [] → linkUp s (.ulain p) = true →
      (s.link (.ulain p)).held.length < 256 → (s.link (.ulain p)).credits.getD 0 0 ≠ 0 →
      Answers .ulainForward s (fun t => SameWork s t ∧ OutMsg.ulain p s.arg.chip s.arg.offset (s.arg.hops + 1) ∈ t.out)) ∧
    (s.arg.hops < 4 → forwardPort s s.arg.chip s.arg.offset = none → Answers .ulainForward s (fun t => SameWork s t ∧
      ∃ x ∈ t.fab.lost, x.cargo = .forward s.arg.chip s.arg.offset s.arg.hops))) ∧
  (∀ x chip pa hops, s.fab.lost = [x] → x.cargo = .forward chip pa hops →
    let t := settleLost s
    SameWork s t ∧ t.host.errNonfatal = satInc s.host.errNonfatal ∧ ∃ m, (⟨.packageFailure, { chip := chip, uport := m }⟩ : Event) ∈ t.net) ∧
  (∀ r, s.fab.routers.find? (fun x => x.id == rid) = some r →
    (r.state = .active → (s.dies.getD rid.die Die.reset).pmOff = false → r.since + 1024 ≤ s.clock →
      sets .routerIdleTimeout (if routerHolds s rid = true then .active else .downing)) ∧
    (r.state = .downing → r.since + 16 ≤ s.clock → sets .routerDowningEnd .down) ∧
    (r.state = .downing → sets .routerWake .active) ∧
    (r.state = .down → sets .routerWake (if r.since = s.clock then .active else .waking)) ∧
    (r.state = .waking → r.since + 64 ≤ s.clock → s.fab.packets = [] → sets .routerWakingEnd .active))

/-! ### Coherence messages (04, 23) -/

/-- R81, R82, R88, R433: what a home does with a request of an agent: it answers from memory and records the requester, as its only
holder where neither an agent nor a host has a copy, or it forwards to the owner, or it invalidates the sharers first.
The corners of the home and the sets of its directory are as entries 22 and 35 say. -/
def Obligations.HomeRequests : Prop := ∀ (s : State) (d : Nat),
  let line := s.arg.line
  let w := Who.agent s.fab.chipId d
  let e := dirAt s line
  let y := homeYields s line
  let sent := fun (t u : State) (g : Grant) => UnderWay t .dataResponse (fun a => a.die = d ∧ a.line = line ∧
    a.data = { bytes := homeRead u line, poison := homePoison u line, depth := 0 } ∧ a.grant = g)
  let holds := fun (t : State) => (dirAt t line).st = .ex ∧ (dirAt t line).owner = some w ∧ (dirAt t line).sharers = []
  s.arg.who = w → d ≠ homeDie s line → lineIsOwn s line = true → e.st.busy = false → s.Settled → y.Settled →
  s.fab.packets = [] → y.fab.packets = [] → (lineTracked s line = true ∨ (setLines s line).length < 16) →
  (s.arg.untracked = false → hostHolds s line false = false →
    (e.owner = none → e.st = .sh → Answers .rdRequest s (fun t => t.mem = s.mem ∧ (dirAt t line).st = .sh ∧
      w ∈ (dirAt t line).sharers ∧ (∀ x ∈ e.sharers, x ∈ (dirAt t line).sharers) ∧ sent t s .shared)) ∧
    (e.owner = none → e.st = .unc → hostConflicts s line true = [] →
      Answers .rdRequest s (fun t => t.mem = y.mem ∧ holds t ∧ sent t y .exclusive)) ∧
    (e.owner = none → e.st = .unc → hostConflicts s line true ≠ [] →
      Answers .rdRequest s (fun t => t.mem = y.mem ∧ (dirAt t line).st = .sh ∧ w ∈ (dirAt t line).sharers ∧ sent t y .shared)) ∧
    (∀ x, e.owner = some (.agent s.fab.chipId x) → Answers .rdRequest s (fun t => (dirAt t line).st = .busyRd ∧
      (dirAt t line).awaiting = [.agent s.fab.chipId x] ∧ UnderWay t .fwdS (fun a => a.die = x ∧ a.line = line ∧ a.who = w)))) ∧
  (hostHolds s line true = false →
    (e.owner = none → othersOf e w = [] → Answers .rdxRequest s (fun t => holds t ∧ sent t y .modified)) ∧
    (e.owner = none → othersOf e w ≠ [] → Answers .rdxRequest s (fun t => (dirAt t line).st = .busyRx ∧
      (dirAt t line).awaiting = othersOf e w ∧ ∀ x, .agent s.fab.chipId x ∈ othersOf e w →
        UnderWay t .inv (fun a => a.die = x ∧ a.line = line))) ∧
    (w ∈ e.sharers → othersOf e w = [] → Answers .upgRequest s (fun t => holds t ∧
      UnderWay t .upgAck (fun a => a.die = d ∧ a.line = line))))

/-- R69, R83, R84, R434, R435: what an agent does with a forwarded request, an invalidation and a publish request; what the last
response does at the home; how a requester takes its answer; a write-back; the failure of a package.
The corners of agents and homes are as entries 22 and 35 say. -/
def Obligations.CoherenceAnswers : Prop := ∀ (s : State) (d : Nat), s.Settled →
  let line := s.arg.line
  let at_ := s.arg.die
  let me := Who.agent s.fab.chipId at_
  let w := Who.agent s.fab.chipId d
  let e := dirAt s line
  let told := fun (t : State) (a : SnoopAnswer) => UnderWay t .snoopResponse (fun x => x.who = me ∧ x.line = line ∧ x.answer = a)
  let published := publishDie s (pointDies at_ line) line
  s.fab.packets = [] →
  (∀ a, lineIsOwn s line = true → agentAt s at_ line = some a → a.st.holds = true → holdersOn s at_ line = [] → s.arg.who = w →
    let sent := fun (t : State) (g : Grant) => UnderWay t .dataResponse (fun x => x.die = d ∧ x.line = line ∧ x.data = a.data ∧ x.grant = g)
    Answers .fwdS s (fun t => sent t .shared ∧ told t ⟨true, true, a.st.dirty⟩ ∧ t.mem = s.mem ∧ (agentAt t at_ line).map (·.st) =
      some (if d = homeDie s line then .s else if a.st = .m then .o else if a.st = .e then .s else a.st)) ∧
    (a.pending = none → Answers .fwdX s (fun t => sent t .modified ∧ told t ⟨true, false, a.st.dirty⟩ ∧ t.mem = s.mem ∧
      agentAt t at_ line = none))) ∧
  (lineIsOwn s line = true → (invalidate s at_ line).Settled → published.fab.packets = [] → (∀ a, agentAt s at_ line = some a → a.pending = none) → s.cores.length = 256 → at_ < 4 →
    Answers .inv s (fun t => agentAt t at_ line = none ∧ UnderWay t .invAck (fun x => x.who = me ∧ x.line = line) ∧
      ∀ k l, k / 64 = at_ → (t.core k).line? line = some l → l.kind.replica_ = true)) ∧
  (s.arg.act = none → lineIsOwn s line = true → (∀ x, x < 4 → writersOn s x line = []) → e.lazy = [] → foreignWho s s.arg.who = false →
    Answers .pub s (fun t => SameWork s t ∧ told t ⟨false, (agentAt s at_ line).elim false (fun a => a.st.holds),
      (agentAt s at_ line).elim false (fun a => a.st.dirty)⟩)) ∧
  (d ≠ homeDie s line → e.st = .busyRx → e.req = some (w, .rdx) → e.awaiting = [s.arg.who] → e.owner ≠ some s.arg.who → e.answer = none →
    e.queue = [] → whoFailed s w = false →
    Answers .invAck s (fun t => (dirAt t line).st = .ex ∧ (dirAt t line).owner = some w ∧
      UnderWay t .dataResponse (fun x => x.die = d ∧ x.line = line ∧
        x.data = { bytes := homeRead s line, poison := homePoison s line, depth := 0 } ∧ x.grant = .modified))) ∧
  (lineIsOwn s line = true → d ≠ homeDie s line → e.st = .busyRd → e.req = some (w, .rd) → e.awaiting = [s.arg.who] → e.owner = some s.arg.who →
    s.arg.answer = ⟨true, true, true⟩ → e.queue = [] → whoFailed s w = false →
    Answers .snoopResponse s (fun t => SameWork s t ∧ (dirAt t line).st = .ow ∧ (dirAt t line).owner = some s.arg.who ∧
      w ∈ (dirAt t line).sharers)) ∧
  (∀ a k, agentAt s at_ line = some a → a.pending = some k →
    (a.st.holds = true → Answers .upgAck s (fun t => SameWork s t ∧
      (agentAt t at_ line).map (fun b => (b.st, b.data, b.pending)) = some (.m, a.data, none))) ∧
    (isHomeDie s at_ line = false → lineIsOwn s line = true → answeredAtomic s = none → (at_, line) ∉ s.coh.untracked → (agentSet s at_ line).length < 16 →
      Answers .dataResponse s (fun t => SameWork s t ∧ (agentAt t at_ line).map (fun b => (b.st, b.data, b.pending)) =
        some (grantState s.arg.grant, s.arg.data, none)))) ∧
  Answers .wbAck s (fun t => SameWork s t ∧ bufferAt t at_ line = none) ∧
  (∀ k x, s.arg.who = .agent k x → k ≠ s.fab.chipId → e.owner = some s.arg.who → e.st.busy = false → e.queue = [] →
    (takeWb s s.arg.who line s.arg.data).Settled → lineIsOwn s line = true → (lineKey s line).isSome = true → s.arg.data.bytes.length = 128 →
    Answers .wbRequest s (fun t => (dirAt t line).owner = none ∧ homeRead t line = s.arg.data.bytes ∧
      SentChip t (fun m => m.chip = k ∧ m.kind = 12 ∧ m.who = s.arg.who ∧ m.line = line))) ∧
  (s.arg.chip ≠ s.fab.chipId → s.arg.chip ∉ s.fab.failedChips →
    Answers .packageFailure s (fun t => s.arg.chip ∈ t.fab.failedChips) ∧
    (∀ v x, s.coh.dir = [v] → v.st = .ow → v.owner = some (.agent s.arg.chip x) → v.sharers.all (ofChip s.arg.chip) = true →
      v.queue = [] → lineIsOwn s v.line = true → (lineKey s v.line).isSome = true →
      Answers .packageFailure s (fun t => (dirAt t v.line).owner = none ∧ homePoison t v.line = 0xF)))

/-! ### Hosts (04, 05) -/

/-- R86 to R89, R446, R450: a host's reads and writes of the package's memory, its answers to back-invalidation, its snoops
of its own lines, and its answers to the package's requests.
What the host may hold comes with its event (entry 12), and the corners are as entry 36 says. -/
def Obligations.HostAccesses : Prop := ∀ s : State, s.Settled →
  let p := s.arg.port
  let pa := hostPa s s.arg.offset
  let line := s.arg.line
  let d := hostDie line
  let excl := s.arg.grant != .shared
  let r := takeForHost (acquireLine s (lineOf pa)) (lineOf pa)
  let u := takeForHost s (lineOf pa)
  let q := acquireLine s line
  (hostBacked s p s.arg.offset = false →
    Leads .hostRead s (s.emit (.memData p s.arg.offset poisonBytes true)) ∧
    Answers .hostWrite s (fun t => SameWork s t ∧ OutMsg.memDone p s.arg.offset ∈ t.out ∧
      t.host.errNonfatal = satInc s.host.errNonfatal)) ∧
  (hostBacked s p s.arg.offset = true → (dirAt s (lineOf pa)).st.busy = false → foreignHolds s (lineOf pa) = false →
    (∀ bs, otherCopies s p (pa / 64) excl = [] → (lineTracked s (lineOf pa) = true ∨ (setLines s (lineOf pa)).length < 16) → r.Settled →
      peekPa (chanRead r (lineOf pa) (sectorMask (offsetInLine pa) 64)) pa 64 = (bs, false) →
      Answers .hostRead s (fun t => OutMsg.memData p s.arg.offset bs false ∈ t.out ∧
        ∃ e ∈ t.coh.hostDir, e.port = p ∧ e.half = pa / 64 ∧ e.excl = excl)) ∧
    (otherCopies s p (pa / 64) true = [] →
      (pageFrozen u pa = true → u.Settled → Answers .hostWrite s (fun t => t.mem = u.mem ∧ t.slices = u.slices ∧
        OutMsg.memDone p s.arg.offset ∈ t.out ∧ t.host.errNonfatal = satInc u.host.errNonfatal)) ∧
      (pageFrozen u pa = false → (hostBytes u p pa s.arg.bytes).Settled → lineIsOwn u (lineOf pa) = true →
        (lineKey u (lineOf pa)).isSome = true →
        Answers .hostWrite s (fun t => OutMsg.memDone p s.arg.offset ∈ t.out ∧ ∀ i, i < 128 →
          (homeRead t (lineOf pa)).getD i 0 = if offsetInLine pa ≤ i ∧ i < offsetInLine pa + 64
            then s.arg.bytes.getD (i - offsetInLine pa) 0 else (homeRead u (lineOf pa)).getD i 0)))) ∧
  (∀ x, s.coh.bisnp.find? (fun x => x.1 == p && x.2.1 == s.arg.offset) = some x → x.2.2 = true → s.arg.bytes = [] →
    (dirAt s (s.arg.offset / 2)).st.busy = false →
    Answers .birsp s (fun t => SameWork s t ∧ t.coh.bisnp = s.coh.bisnp.erase x ∧
      ∀ e ∈ t.coh.hostDir, ¬ (e.port = p ∧ e.half = s.arg.offset))) ∧
  (q.Settled →
    (agentAt q d line = none → ∀ i, i = .snpdata ∨ i = .snpinv ∨ i = .snpcur → Answers i s (fun t => OutMsg.snpResp p line [] ∈ t.out)) ∧
    (∀ a, agentAt q d line = some a → a.st.holds = true → a.pending = none →
      Answers .snpdata s (fun t => OutMsg.snpResp p line a.data.bytes ∈ t.out ∧ (agentAt t d line).map (·.st) = some .s) ∧
      Answers .snpinv s (fun t => OutMsg.snpResp p line a.data.bytes ∈ t.out ∧ agentAt t d line = none) ∧
      Answers .snpcur s (fun t => OutMsg.snpResp p line a.data.bytes ∈ t.out ∧ agentAt t d line = some a))) ∧
  (∀ a k, agentAt s d line = some a → a.pending = some k → s.arg.bytes ≠ [] →
    Answers .hostCacheResponse s (fun t => (agentAt t d line).map (fun b => (b.st, b.data.bytes, b.pending)) =
      some (if k = .rd ∧ s.arg.grant = .shared then .s else .e, sliceBytes s.arg.bytes 0 128, none)))

/-- R97 to R104: reads of CMD_SEM take the semaphore or are refused, in the order of R100; a holder releases it; a word written
to the command buffer reads back; GO starts the command of the table, and an unknown opcode completes with its status.
The corners of the window are as entry 31 says. -/
def Obligations.ManagementWindow : Prop := ∀ s : State, s.Settled →
  let h := s.host
  let v := s.arg.word.toNat
  (∀ w, h.semHolder = none → firstAt h.semNext (dedup s.arg.readers) = some w →
    Answers .cmdSemRead s (fun t => SameWork s t ∧ t.host.semHolder = some w ∧ OutMsg.readData w 0 ∈ t.out ∧
      ∀ r ∈ s.arg.readers, r ≠ w → OutMsg.readData r (BitVec.ofNat 32 (0x80000000 + reqCode w)) ∈ t.out)) ∧
  (∀ w, h.semHolder = some w → Answers .cmdSemRead s (fun t => SameWork s t ∧ t.host.semHolder = some w ∧
    ∀ r ∈ s.arg.readers, OutMsg.readData r (BitVec.ofNat 32 (0x80000000 + reqCode w)) ∈ t.out)) ∧
  (h.semHolder = some s.arg.req → s.arg.word = 1 →
    (h.cmdBusy = false → Answers .cmdSemRelease s (fun t => SameWork s t ∧ t.host.semHolder = none)) ∧
    (h.cmdBusy = true → Leads .cmdSemRelease s { s with host := { h with semReleasePending := true } })) ∧
  ((h.semHolder ≠ some s.arg.req ∨ s.arg.word ≠ 1) →
    Leads .cmdSemRelease s { s with host := { h with cmdDropped := satInc h.cmdDropped } }) ∧
  (h.semHolder = some s.arg.req → h.cmdBusy = false →
    (∀ o, s.arg.offset = o → 0x8000 ≤ o → o + 4 ≤ 0x10000 → Answers .registerWrite s (fun t => SameWork s t ∧ mgmtRead t o = s.arg.word)) ∧
    (s.arg.offset = 0x24 → bitAt v 31 = true → bitsOf v 30 24 = 0 → h.semReleasePending = false →
      (cmdEntry (v % 256) h.cmdBuf = none → s.pkg.devState = .ready → Answers .registerWrite s (fun t => CmdDone t 0x01 [] ∧ SameWork s t)) ∧
      (∀ e i, cmdEntry (v % 256) h.cmdBuf = some e → e.len = bitsOf v 23 8 → e.what = some i → requestReserved e h.cmdBuf = false →
        s.pkg.devState = .ready → Answers .registerWrite s (fun t => SameWork s t ∧ t.host.cmdBusy = true ∧
          (⟨i, {}⟩ : Event) ∈ t.net)))) ∧
  (h.semHolder ≠ some s.arg.req → s.arg.offset = 0x24 →
    Leads .registerWrite s { s with host := { h with cmdDropped := satInc h.cmdDropped } })

/-! ### Commands (05) -/

/-- R105, R107 to R112: the commands on identity, the error log, links, power, attestation and reset complete with the response
and the effect that the table gives them.
The engine mask of GET_CAPS is the model's reading (entry 30), the opaque bytes are those of entry 11, and the corners
are as entries 32 and 34 say. -/
def Obligations.DeviceCommands : Prop := ∀ s : State, s.Settled →
  let q := req s
  let same := SameWork s
  Commands .identify s 0 (natBytes 4 0x09400100 ++ natBytes 4 (regDevStatus s) ++ sliceBytes Config.romDigest 0 32 ++
    sliceBytes Config.serial 0 8 ++ natBytes 1 s.fab.chipId) same ∧
  Commands .getCaps s 0 (natBytes 2 256 ++ natBytes 2 256 ++ natBytes 1 64 ++ natBytes 1 32 ++ natBytes 1 16 ++ natBytes 1 64 ++
    natBytes 8 (backedBytes s) ++ natBytes 1 (atomicBits s.host.portA + 4 * atomicBits s.host.portB) ++
    natBytes 1 (natOfBool s.host.portA.link + 2 * natOfBool s.host.portB.link) ++ natBytes 1 (enginesUp s)) same ∧
  (1 ≤ q 4 2 → q 4 2 ≤ 1023 → let rs := (s.host.errLog.filter (fun r => decide (q 0 4 ≤ r.seq))).take (q 4 2)
    Commands .errLogRead s 0 (natBytes 4 rs.length ++ natBytes 4 0 ++ rs.flatMap ErrRec.bytes) same) ∧
  ((q 4 2 = 0 ∨ 1023 < q 4 2) → Commands .errLogRead s 0x02 [] same) ∧
  Commands .errLogClear s 0 [] (fun t => same t ∧ t.host.errLog = [] ∧ t.host.errCorr = 0 ∧ t.host.errNonfatal = 0 ∧
    t.host.errFatal = 0 ∧ t.host.errLost = 0 ∧ t.host.errSeq = 0) ∧
  (∀ k, q 0 2 = 0x0101 → q 8 8 < 2 ^ 51 → paChip (q 8 8) = s.fab.chipId → paUnbacked s (q 8 8) = false →
    lineKey s (lineOf (q 8 8)) = some k → (injectSector s (q 8 8) 0x0101).Settled →
    Commands .errInject s 0 [] (fun t => k * 4 + offsetInLine (q 8 8) / 32 ∈ t.poison)) ∧
  (q 0 2 ∉ [0x0001, 0x0101, 0x0002, 0x0105, 0x0203] → Commands .errInject s 0x02 [] same) ∧
  (q 0 1 ≤ 3 → (s.engine (q 0 1)).state ≠ .contained → s.media.length = 4 →
    (s.arg.seq = 0 → Answers .engineReset s (fun t => same t ∧ (t.engine (q 0 1)).state = .reset ∧ (t.engine (q 0 1)).job = none ∧
      (⟨.engineReset, { s.arg with seq := 1 }⟩ : Event) ∈ t.net)) ∧
    (s.arg.seq ≠ 0 → Commands .engineReset s 0 [] (fun t => same t ∧ (t.engine (q 0 1)).state = .idle))) ∧
  (3 < q 0 1 → Commands .engineReset s 0x02 [] same) ∧
  (q 1 1 ≤ 15 → ulainQuiet s = true → (evictLines s (lineIsOwn s)).Settled →
    Commands .setChip s 0 [] (fun t => t.fab.chipId = q 1 1)) ∧
  (ulainQuiet s = false → q 1 1 ≤ 15 → Commands .setChip s 0x0F [] same) ∧
  ((∀ (i : Nat) (u : UlainPort), s.fab.ulain[i]? = some u → u.state = .up → u.enabled = bitAt (q 2 2) i) → Commands .portEnable s 0 [] (fun t => same t ∧
    ∀ (i : Nat) (u : UlainPort), s.fab.ulain[i]? = some u → ∃ v, t.fab.ulain[i]? = some v ∧ v.enabled = bitAt (q 2 2) i ∧
      (u.enabled = bitAt (q 2 2) i → v.state = u.state) ∧
      (u.enabled ≠ bitAt (q 2 2) i → v.state = if v.enabled then .training else .disabled))) ∧
  (ulainQuiet s = true → Commands .route s 0 [] (fun t => same t ∧
    ∀ c, c < 16 → t.fab.routes.getD c 0 = BitVec.ofNat 12 (q (8 + 2 * c) 2))) ∧
  (ulainQuiet s = false → Commands .route s 0x0F [] same) ∧
  (∀ id, reqLink s = some id →
    (s.arg.seq = 0 → trainable s id = true → Answers .retrain s (fun t => same t ∧ (t.link id).state = .retraining ∧
      (t.link id).half = false ∧ (⟨.retrain, { s.arg with seq := 1 }⟩ : Event) ∈ t.net)) ∧
    (s.arg.seq ≠ 0 → (s.link id).state ≠ .retraining → Commands .retrain s 0 [] same) ∧
    Commands .query s 0 (natBytes 4 (s.link id).crc ++ natBytes 4 (s.link id).replayCount ++ natBytes 4 (s.link id).retrains ++
      natBytes 4 (laneErr (s.link id))) same) ∧
  (reqLink s = none → Commands .retrain s 0x02 [] same ∧ Commands .query s 0x02 [] same) ∧
  Commands .routerPm s 0 [] (fun t => same t ∧ ∀ (d : Nat) (x : Die), s.dies[d]? = some x → t.dies[d]? = some { x with pmOff := bitAt (q 1 1) d }) ∧
  (1000 ≤ q 2 2 → q 2 2 ≤ 2800 → q 2 2 % 50 = 0 → Commands .powerSet s 0 [] (fun t => same t ∧ t.pkg.capW = q 2 2 ∧
    ∀ d, d < s.dies.length → (t.dies.getD d Die.reset).onMode = bitAt (q 4 1) d)) ∧
  ((q 2 2 < 1000 ∨ 2800 < q 2 2 ∨ q 2 2 % 50 ≠ 0) → Commands .powerSet s 0x02 [] same) ∧
  Commands .powerQuery s 0 (natBytes 2 s.pkg.capW ++ natBytes 2 s.pkg.measuredW ++ s.dies.flatMap (fun d => natBytes 1 (gateCode d.gate)) ++
    (List.range 4).flatMap (fun _ => natBytes 1 (throttleDepth s))) same ∧
  Commands .attest s 0 (report s (sliceBytes s.host.cmdBuf 0 32)) same ∧
  Commands .deviceReset s 0 [] (fun t => same t ∧ (⟨.warmReset, { source := 1 }⟩ : Event) ∈ t.net)

/-- R47 to R49, R52, R55, R61, R68, R105: the commands on contexts, the address map and pinned windows. A command that invalidates
translations completes with the invalidation.
The corners of these commands are as entry 32 says. -/
def Obligations.MemoryCommands : Prop := ∀ s : State, s.Settled →
  let q := req s
  let same := SameWork s
  (∀ i, rootOk s (q 0 8) = true → s.tr.ctxs.idxOf? none = some i →
    Commands .ctxCreate s 0 (natBytes 1 i) (fun t => same t ∧ t.ctx? i = some ⟨q 0 8, q 8 1 == 1⟩)) ∧
  (rootOk s (q 0 8) = false → Commands .ctxCreate s 0x02 [] same) ∧
  (rootOk s (q 0 8) = true → s.tr.ctxs.idxOf? none = none → Commands .ctxCreate s 0x09 [] same) ∧
  (∀ x, s.arg.seq = 0 → s.ctx? (q 0 1) = some x →
    let used := s.sched.launches.any (fun l => l.ctx == q 0 1) || s.sched.watches.any (watchNames (q 0 1))
    (used = false → Answers .ctxDestroy s (fun t => same t ∧ t.ctx? (q 0 1) = none ∧ shootBusy t s.nextId = true ∧
      (⟨.ctxDestroy, { s.arg with seq := 1, shoot := s.nextId }⟩ : Event) ∈ t.net)) ∧
    (used = true → Commands .ctxDestroy s 0x0E [] same)) ∧
  (s.arg.seq = 0 → s.ctx? (q 0 1) = none → Commands .ctxDestroy s 0x0C [] same) ∧
  (s.arg.seq ≠ 0 → shootBusy s s.arg.shoot = false → Commands .ctxDestroy s 0 [] same ∧ Commands .mapRegion s 0 [] same) ∧
  (s.arg.seq ≠ 0 → shootBusy s s.arg.shoot = true →
    Answers .ctxDestroy s (fun t => same t ∧ t.host = s.host ∧ (⟨.ctxDestroy, s.arg⟩ : Event) ∈ t.parked) ∧
    Answers .mapRegion s (fun t => same t ∧ t.host = s.host ∧ (⟨.mapRegion, s.arg⟩ : Event) ∈ t.parked)) ∧
  (s.arg.seq = 0 → let r := reqRegion s;
    let inside := lineInside s ((s.ms.regions.getD (q 0 1) none).toList ++ (if r.k == 0 then none else some r).toList);
    let v := evictLines s inside;
    (∀ st, mapCheck s (q 0 1) r = some st → Commands .mapRegion s st [] same) ∧
    (mapCheck s (q 0 1) r = none → linesBusy s inside = true →
      Answers .mapRegion s (fun t => same t ∧ t.ms = s.ms ∧ (⟨.mapRegion, s.arg⟩ : Event) ∈ t.parked)) ∧
    (mapCheck s (q 0 1) r = none → linesBusy s inside = false → v.Settled → v.ms.regions.length = 16 →
      Answers .mapRegion s (fun t => t.ms.regions.getD (q 0 1) none = (if r.k = 0 then none else some r) ∧
        (∀ i, i ≠ q 0 1 → t.ms.regions.getD i none = v.ms.regions.getD i none) ∧ shootBusy t v.nextId = true ∧
        (⟨.mapRegion, { v.arg with seq := 1, shoot := v.nextId }⟩ : Event) ∈ t.net))) ∧
  (let pa := q 0 8 % 2 ^ 52;
    (∀ slot d, paIsHost pa = false → paChip pa = s.fab.chipId → regionSlot s (paOffset pa) = some slot → dramLine s (paOffset pa) = some d →
      Commands .queryMap s 0 (natBytes 1 slot ++ natBytes 1 (dlStack d) ++ natBytes 1 (dlChannel d) ++ natBytes 1 (dlPseudo d) ++
        natBytes 1 (dlGroup d) ++ natBytes 1 (dlBank d) ++ natBytes 2 (dlRow d) ++ natBytes 1 (dlColumn d) ++ natBytes 1 (dlDie d) ++
        natBytes 1 (dlSlice d) ++ natBytes 1 0 ++ natBytes 2 (dlCache d)) same) ∧
    (paIsHost pa = false → paChip pa = s.fab.chipId → regionSlot s (paOffset pa) = none → Commands .queryMap s 0x06 [] same) ∧
    ((paIsHost pa = true ∨ paChip pa ≠ s.fab.chipId) → Commands .queryMap s 0x02 [] same)) ∧
  (let base := q 0 8;
    let size := q 8 8;
    let off := paOffset base;
    let meets := (s.ms.windows.filterMap id).any (fun x => rangesMeet x.base x.size off size);
    base % 65536 = 0 → size % 65536 = 0 → size ≠ 0 → size ≤ 2 ^ 32 → base < 2 ^ 51 → paChip base = s.fab.chipId →
    rangeBacked s 17 off size = true →
    (meets = true → Commands .pinWindow s 0x07 [] same) ∧
    (meets = false → s.ms.windows.idxOf? none = none → Commands .pinWindow s 0x08 [] same) ∧
    (∀ w, meets = false → s.ms.windows.idxOf? none = some w → Commands .pinWindow s 0 (natBytes 1 w) (fun t => same t ∧
      t.ms.windows.getD w none = some ⟨off, size, 255, none⟩))) ∧
  (∀ x, s.ms.windows.getD (q 0 1) none = some x → Commands .unpinWindow s 0 [] (fun t => same t ∧ t.ms.windows.getD (q 0 1) none = none)) ∧
  (s.ms.windows.getD (q 0 1) none = none → Commands .unpinWindow s 0x08 [] same)

/-- R105, R106, R123, R134, R152 to R155, R396 to R398: the commands on watches, launches and the freeze table. Those that take more
than a moment go on as the event of their own row.
The save area's bytes are free (entry 20), and the corners are as entries 32, 33 and 59 say. -/
def Obligations.SchedulerCommands : Prop := ∀ s : State, s.Settled →
  let q := req s
  let same := SameWork s
  let bs := sliceBytes s.host.cmdBuf 0 64
  let w := watchOf bs
  (s.arg.seq = 0 → (watchOk s w (fieldAt bs 0x2D 1) = false → Commands .watchAttach s 0x02 [] same) ∧
    (∀ i, watchOk s w (fieldAt bs 0x2D 1) = true → freeWatch s = some i →
      let meets := s.sched.watches.any (fun x => rangesMeet x.base x.size w.base w.size)
      (meets = true → Commands .watchAttach s 0x0B [] same) ∧
      (meets = false → w.engine = true → w.ctxMask = 0 → Answers .watchAttach s (fun t => same t ∧ t.watch? i = some { w with id := i, launch := 0 } ∧
        (⟨.watchAttach, { s.arg with seq := 1, watch := i, offset := 0 }⟩ : Event) ∈ t.net)))) ∧
  (∀ x, s.arg.seq ≠ 0 → s.watch? s.arg.watch = some x → watchShooting s x = false → x.sweep = false → granulesOf x ≤ s.arg.offset →
    Commands .watchAttach s 0 (natBytes 1 s.arg.watch) same) ∧
  (s.watch? (q 0 1) = none → Commands .watchDetach s 0x0C [] same) ∧
  (∀ x, s.watch? (q 0 1) = some x → x.engine = true →
    (s.arg.seq = 0 → Answers .watchDetach s (fun t => same t ∧ (t.watch? (q 0 1)).map (·.detaching) = some true ∧
      (⟨.watchDetach, { s.arg with seq := 1, offset := 0 }⟩ : Event) ∈ t.net)) ∧
    (s.arg.seq ≠ 0 → s.arg.seq ≠ 2 → watchPending s x = false → granulesOf x ≤ s.arg.offset → x.ctxMask = 0 →
      Answers .watchDetach s (fun t => same t ∧ (⟨.watchDetach, { s.arg with seq := 2 }⟩ : Event) ∈ t.net)) ∧
    (s.arg.seq = 2 → watchShooting s x = false →
      Commands .watchDetach s 0 [] (fun t => same t ∧ t.watch? (q 0 1) = none))) ∧
  (s.ctx? (q 8 1) = none → Commands .launch s 0x0C [] same) ∧
  (∀ s1 r x, s.ctx? (q 8 1) = some x → startLaunch s 0 (q 8 1) (q 0 8) = (s1, r) → s1.Settled →
    (∀ id, r = .ok id → Commands .launch s 0 (natBytes 4 id) (fun t => t.sched.launches = s1.sched.launches)) ∧
    (∀ code, r = .fail code → Commands .launch s (if code = 4 then 0x0D else 0x02) [] (fun t => t.sched.launches = s1.sched.launches))) ∧
  (s.launch? (q 0 4) = none → Commands .suspend s 0x0C [] same ∧ Commands .resume s 0x0C [] same ∧ Commands .kill s 0x0C [] same) ∧
  (∀ l, s.launch? (q 0 4) = some l →
    (s.arg.seq = 0 → l.phase = .running → saveSize l.rcd (residents s l.id).length ≤ q 0x10 8 →
      Answers .suspend s (fun t => same t ∧ (t.launch? (q 0 4)).map (·.phase) = some .suspended ∧
        (⟨.suspend, { s.arg with seq := 1, block := (residents s l.id).length }⟩ : Event) ∈ t.net)) ∧
    (s.arg.seq = 0 → l.phase = .suspended → Commands .suspend s 0x0E [] same) ∧
    (let rs := residents s (q 0 4)
      let size := saveSize l.rcd s.arg.block
      let s1 := pokeRange (rs.foldl (fun s b => saveBlock s l.rcd b) s) (q 8 8)
        (saveHeader (rs.foldl (fun s b => saveBlock s l.rcd b) s) l rs.length)
      s.arg.seq ≠ 0 → launchQuiet s (q 0 4) = true → (openRange s1 (q 8 8 + 256) (size - 256)).Settled →
      Commands .suspend s 0 (natBytes 8 size) (fun t => ∀ b ∈ rs, (∀ h ∈ t.hatches, h.block ≠ b.inst) ∧
        (t.block? b.inst).map (·.phase) = some .suspended)) ∧
    (∀ h r s0 s1, let g := fieldAt h
      l.phase = .suspended → readHeader s (q 8 8) = (s0, some h) → g 0 4 = 0x09405A5E →
      g 0x14 4 = q 0 4 → (s0.ctx? (g 0x10 1)).isSome = true → (readRecord 0 (g 0x10 1) (g 8 8)).run s0 = .ok (some r) s1 → s1.Settled →
      s1.launch? (q 0 4) = some l → r.coop = false →
      (∀ b ∈ s1.sched.blocks, b.launch = q 0 4 → b.phase = .suspended → ∃ sv, b.saved = some sv ∧ overCapacity b sv r = false) →
      Commands .resume s 0 [] (fun t => (t.launch? (q 0 4)).map (fun x => (x.phase, x.rcd, x.ctx)) = some (.running, r, g 0x10 1) ∧
        ∀ b ∈ t.sched.blocks, b.launch = q 0 4 → b.phase ≠ .suspended)) ∧
    (l.watched = false → (killLaunch s l).Settled → Commands .kill s 0 [] (fun t => t.launch? (q 0 4) = none ∧
      ∀ b ∈ t.sched.blocks, b.launch ≠ l.id))) ∧
  Commands .freezeList s 0 (freezeListResp s) same ∧
  (s.arg.seq = 0 → (s.frz (q 0 1)).state = .free → Commands .forceThaw s 0x0C [] same) ∧
  (s.arg.seq = 0 → q 0 1 < 64 → s.freeze.length = 64 → (s.frz (q 0 1)).state = .frozen → Answers .forceThaw s (fun t =>
    (t.frz (q 0 1)).state = .thawing ∧ t.mem = s.mem ∧ t.hatches = s.hatches ∧
    (⟨.forceThaw, { s.arg with seq := 1, granule := (s.frz (q 0 1)).gen }⟩ : Event) ∈ t.net)) ∧
  (s.arg.seq ≠ 0 → (s.frz (q 0 1)).state = .free → Commands .forceThaw s 0 [] same)

/-! ### Media engines (06) -/

/-- R114, R116 to R120: a job whose record or picture breaks a limit ends with status 2, and one that fills its buffer with status 4; a
decode job is begun with its input, makes its rows one after the other and ends; its completion record is stored and the engine is idle again; a fatal error holds the engine
until its DPC status is cleared. How many rows a job has, and what a row holds, are free values (entry 10): what is said of a row
is said for every value of them.
The corners of a job are as entry 39 says. -/
def Obligations.MediaEvents : Prop := ∀ s : State, s.Settled →
  let e := s.arg.engine
  let x := s.engine e
  let set := fun (f : Engine → Engine) => s.updEngine e f
  (∀ (w : Watch) (lo hi : List Byte) (v1 v : State),
    let u := set (fun x => { x with pending := x.pending.erase (s.arg.watch, s.arg.granule) })
    let pa := granulePa w s.arg.granule
    let j := newJob w (lo ++ hi)
    (s.arg.watch, s.arg.granule) ∈ x.pending → x.state = .idle → u.watch? s.arg.watch = some w →
    coherentRead (acquireLine u (lineOf pa)) pa 32 = (v1, lo, false) → coherentRead v1 (pa + 32) 32 = (v, hi, false) →
    v.Settled → e < v.media.length →
    (jobOk j = false → Answers .engineJobDispatch s (fun t => (t.engine e).job.map (·.status) = some 2 ∧ (t.engine e).state = .run ∧
      (⟨.engineJobDone, { engine := e }⟩ : Event) ∈ t.net)) ∧
    (∀ input s1, jobOk j = true → j.encodes = false → j.f 5 1 < 2 → j.f 6 2 = 0 → (readJob j).run v = .ok ([], input) s1 → s1.Settled →
      e < s1.media.length →
      Answers .engineJobDispatch s (fun t => (t.engine e).state = .run ∧ (⟨.engineRowDone, { engine := e }⟩ : Event) ∈ t.net ∧
        (t.engine e).job.map (fun y => (y.record, y.input, y.row)) = some (lo ++ hi, input, 0)))) ∧
  (∀ j, x.job = some j → x.state = .run →
    (j.toCount = false →
      let picture := Config.mediaPicture j.settings j.input j.row
      (Config.mediaRows j.settings j.input ≤ j.row → Answers .engineRowDone s (fun t => SameWork s t ∧
        (t.engine e).job = some { j with status := Config.mediaStatus j.settings j.input % 3 } ∧
        (⟨.engineJobDone, { engine := e }⟩ : Event) ∈ t.net)) ∧
      (j.row < Config.mediaRows j.settings j.input → j.encodes = false → pictureOk j picture = false →
        Answers .engineRowDone s (fun t => SameWork s t ∧ (t.engine e).job = some { j with status := 2 } ∧
          (⟨.engineJobDone, { engine := e }⟩ : Event) ∈ t.net)) ∧
      (∀ j2 s1, j.row < Config.mediaRows j.settings j.input → (j.encodes = true ∨ pictureOk j picture = true) → j.filter = false →
        s1.Settled →
        ((makeRow e j).run s = .ok (j2, true) s1 → Answers .engineRowDone s (fun t =>
          (t.engine e).job = (s1.engine e).job.map (fun y => { y with row := j2.row + 1, refs := j2.refs, toCount := false }) ∧
          (⟨.engineRowDone, { engine := e }⟩ : Event) ∈ t.net)) ∧
        ((makeRow e j).run s = .ok (j2, false) s1 → Answers .engineRowDone s (fun t =>
          (t.engine e).job = (s1.engine e).job.map (fun y => { y with status := 4 }) ∧
          (⟨.engineJobDone, { engine := e }⟩ : Event) ∈ t.net)))) ∧
    (∀ s1, farWaits s e = false → j.streams = false → (storeDone e j).run s = .ok () s1 → s1.Settled → e < s1.media.length →
      Answers .engineJobDone s (fun t => (t.engine e).state = .idle ∧ (t.engine e).job = none ∧ (t.engine e).lastStatus = j.status ∧
        (t.engine e).jobs = satInc (s1.engine e).jobs))) ∧
  (∀ j s1, x.job = some j → x.state = .waitFilt → s1.Settled →
    ((rowReady j).run s = .ok true s1 → e < s1.media.length → Answers .engineFiltWake s (fun t => (t.engine e).state = .run ∧
      (⟨.engineRowDone, { engine := e }⟩ : Event) ∈ t.net)) ∧
    ((rowReady j).run s = .ok false s1 → Answers .engineFiltWake s (fun t => t.engine e = s1.engine e ∧
      (⟨.engineFiltWake, s1.arg⟩ : Event) ∈ t.parked))) ∧
  (e < s.media.length → Answers .mediaFatal s (fun t => SameWork s t ∧ (t.engine e).state = .contained ∧ (t.engine e).job = none ∧
    t.host.errFatal = satInc s.host.errFatal)) ∧
  (x.state = .contained → Answers .dpcStatusClear s (fun t => SameWork s t ∧ (t.engine e).state = .idle))

/-! ### The dispatchers and the paths' own events (07, 08, 17) -/

/-- R127 to R133, R137, R138, R146, R178: a queue entry whose pending bit is set starts a triggered block; a sweep ends after a
clean pass; a block that finds a place is admitted, and one that does not waits; a continuation enters its core's queue and is
placed from it; a waiting block ages; a block that must yield its place is queued to be replayed.
The corners of dispatch and replay are as entry 29 says. -/
def Obligations.Dispatching : Prop := ∀ s : State, s.Settled →
  let d := s.arg.die
  let k := s.arg.core
  let yields := fun (i : Instr) (b : Block) => s.block? b.inst = some b → Answers i s (fun t =>
    (∀ h ∈ t.hatches, h.block ≠ b.inst) ∧
    ∃ x, t.block? b.inst = some x ∧ x.phase = .queued ∧ x.replay = true ∧ x.effPrio = b.effPrio)
  (∀ die slice e rest w l s1, s.arg.trig = .queue die slice → takeQueued s (die * 32 + slice) = some (e, rest) →
    s.watch? e.watch = some w → w.engine = false → s.launch? w.launch = some l →
    bitSwap { s with sched := { s.sched with trigQ := rest } } w e.granule false = (true, s1) → s1.Settled →
    Answers .triggerDispatch s (fun t => t.sched.trigQ = rest ∧ ∃ b ∈ t.sched.blocks, b.triggered = true ∧ b.launch = l.id ∧
      b.phase = .queued ∧ b.granule = lineOf (granulePa w e.granule) ∧ b.depth = e.depth ∧
      b.trigArg = wrap64 (w.argBase + e.granule * 2 ^ w.granule))) ∧
  (∀ w, s.watch? s.arg.watch = some w → w.sweep = true → granulesOf w ≤ w.scanPos →
    (w.passClean = true → Answers .sweepScan s (fun t => SameWork s t ∧ (t.watch? w.id).map (·.sweep) = some false)) ∧
    (w.passClean = false → Answers .sweepScan s (fun t => SameWork s t ∧ (t.watch? w.id).map (·.scanPos) = some 0 ∧
      (⟨.sweepScan, { watch := w.id }⟩ : Event) ∈ t.net))) ∧
  (∀ b l cs areas s1, waiting s d = [b] → (s.dies.getD d Die.reset).gate = .powered → coopWaits s b = none →
    s.launch? b.launch = some l → (b.triggered = false ∨ b.spawnArea.isSome = true ∨ residentTriggered s l.id < l.rcd.blocks) →
    placeOn (roomOf s) b.die l.rcd (blockSize b l.rcd) (toStart b l.rcd) = some cs → takeAreas s b l = (s1, some areas) →
    (admitAt s1 b l cs areas).Settled → Leads .blockAdmission s ((admitAt s1 b l cs areas).post .blockAdmission { die := d })) ∧
  (∀ b l, waiting s d = [b] → (s.dies.getD d Die.reset).gate = .powered → coopWaits s b = none → s.launch? b.launch = some l →
    placeOn (roomOf s) b.die l.rcd (blockSize b l.rcd) (toStart b l.rcd) = none →
    Answers .blockAdmission s (fun t => SameWork s t ∧ (⟨.blockAdmission, s.arg⟩ : Event) ∈ t.parked ∧ t.sched = s.sched)) ∧
  (∀ o b l, s.ops.find? (fun o => o.core == k && isSpawn o.what) = some o → o.vals = [b.inst] → s.block? b.inst = some b →
    (s.core k).spawnQ = [] → k < s.cores.length → (∀ x ∈ s.sched.blocks, x.inst = b.inst ∨ unplaced x = false) →
    s.launch? b.launch = some l → l.phase = .suspended →
    Answers .spawnPlacement s (fun t => t.op? o.id = none ∧ (t.core k).spawnQ = [b.inst] ∧ t.mem = s.mem)) ∧
  (∀ b l cs areas s1, (∀ o ∈ s.ops, o.core = k → isSpawn o.what = false) → (∀ x ∈ s.sched.blocks, inRing s x = false) →
    (s.core k).spawnQ = [b.inst] → s.block? b.inst = some b → s.launch? b.launch = some l → mayPlace s b = true → heldByCoop s b = false →
    b.spawnArea.isSome = true → placeOn (roomOf s) b.die l.rcd (blockSize b l.rcd) (toStart b l.rcd) = some cs →
    takeAreas s b l = (s1, some areas) → (admitAt s1 b l cs areas).Settled →
    Leads .spawnPlacement s (((admitAt s1 b l cs areas).updCore k (fun c => { c with spawnQ := c.spawnQ.filter (fun x => x != b.inst) })).post
      .spawnPlacement { core := k })) ∧
  (∀ b, s.block? s.arg.block = some b → b.phase = .queued → b.effPrio < 7 → b.agedFrom + 2400000 ≤ s.clock →
    Answers .priorityAging s (fun t => SameWork s t ∧
      t.block? s.arg.block = some { b with effPrio := b.effPrio + 1, agedFrom := b.agedFrom + 2400000 })) ∧
  (∀ b, let late := s.sched.blocks.filter (fun b => b.die == d && b.phase == .queued && decide (b.queuedAt + 240000 ≤ s.clock) &&
      mayPlace s b)
    (late.flatMap (blocksInWay s)).filter (blockPreemptible s) = [b] → yields .preemption b) ∧
  (∀ h b, (boundPartitions s).contains (k, s.arg.partition) = true →
    ((partHatches s k s.arg.partition).filter (fun h => decide ((recOf s h).floor < h.held))).filter
      (fun h => (s.block? h.block).elim false (blockPreemptible s)) = [h] →
    s.block? h.block = some b → yields .registerBoundDiscard b)

/-- R161, R162, R191, R388, R411: a path that has been passed over gains priority; a path that has yielded or waited at a word
long enough tries again; a hatch's oldest store-fault record, and after the records its oldest engine fault, trap at the next
instruction boundary outside a handler.
A path that waits at a sema word looks again at its time-out (entry 54). -/
def Obligations.PathEvents : Prop := ∀ (s : State) (h : Hatch) (p : Path), s.hatch? s.arg.hatch = some h →
  h.path? s.arg.slot = some p →
  let now := fun (t : State) => (t.hatch? s.arg.hatch).bind (fun g => g.path? s.arg.slot)
  let ends := fun (i : Instr) => Answers i s (fun t => now t = some { p with wait := .none } ∧ t.mem = s.mem)
  (s.Settled → p.handler = false → p.prio + p.promo < 7 → Answers .promotion s (fun t => now t = some { p with promo := p.promo + 1 } ∧
    t.mem = s.mem ∧ t.ops = s.ops)) ∧
  (∀ since k, s.Settled → p.wait = .yield since k → since + 64 ≤ s.clock → ends .yieldTimeout) ∧
  (∀ since a m, s.Settled → (p.wait = .waddr m a since ∨ p.wait = .sema a since) → since + 65536 ≤ s.clock → ends .waddrTimeout) ∧
  (∀ r, h.handler = false → oldestRecord s h = some r → Answers .sfrqTrap s (fun t => t = finish (takeTrap s h.inst s.arg.slot p.pc
    { code := r.code, info := r.cause % 256 + r.level % 4 * 256, addr := r.va, mask := r.lanes }))) ∧
  (∀ e rest, h.handler = false → oldestRecord s h = none → h.engFaults = e :: rest → Answers .engineFaultTrap s (fun t =>
    t = finish (takeTrap (s.updHatch s.arg.hatch (fun h => { h with engFaults := h.engFaults.drop 1 })) h.inst s.arg.slot p.pc
      { code := 0x1D, info := e.cause % 256 * 2 ^ 8 + e.subCause % 256 * 2 ^ 16 + e.opcode % 256 * 2 ^ 24, addr := e.addr })))
end

