-- ==== Sys2Proof/Laws/Issue.lean ====
section
/-! SUPPORT. What issuing an instruction changes, said once: `noteIssue`, `retire`, `finish` and `complete` touch nothing but
the issuing hatch, the marks of issue choice and what waits to be tried again. -/

namespace Sys2Proof.Machine

/-! ### States that differ in the marks of issue choice only -/

/-- The marks of issue choice and what waits are the only difference. -/
def Near (s t : State) : Prop := t.rest = s.rest ∧ t.stills = s.stills

theorem Near.refl (s : State) : Near s s := ⟨rfl, rfl⟩

theorem Near.trans {s t u : State} (h : Near s t) (g : Near t u) : Near s u :=
  ⟨g.1.trans h.1, g.2.trans h.2⟩

@[simp] theorem Path.still_still (p : Path) : p.still.still = p.still := rfl

theorem Hatch.still_setPath (h : Hatch) (slot : Nat) (p : Option Path) :
    (h.setPath slot p).still = h.still.setPath slot (p.map Path.still) := by
  unfold Hatch.setPath; split <;> rfl

theorem Hatch.path?_still (h : Hatch) (slot : Nat) : h.still.path? slot = (h.path? slot).map Path.still := by
  unfold Hatch.path? Hatch.still; split <;> rfl

theorem Hatch.setPath_path? (h : Hatch) (slot : Nat) (p : Option Path) : (h.setPath slot p).path? slot = p := by
  unfold Hatch.setPath Hatch.path?; split <;> rfl

theorem Hatch.setPath_self (h : Hatch) (slot : Nat) : h.setPath slot (h.path? slot) = h := by
  unfold Hatch.setPath Hatch.path?; split <;> rfl

theorem Hatch.setPath_inst (h : Hatch) (slot : Nat) (p : Option Path) : (h.setPath slot p).inst = h.inst := by
  unfold Hatch.setPath; split <;> rfl

/-- A change of hatches that keeps what they are but for the marks keeps the stills. -/
theorem stills_updWhere (s : State) (q : Hatch → Bool) (f : Hatch → Hatch) (hf : ∀ h, (f h).still = h.still) :
    ({ s with hatches := updWhere q f s.hatches } : State).stills = s.stills := by
  simp only [State.stills, updWhere, List.map_map]
  refine List.map_congr_left (fun h _ => ?_)
  simp only [Function.comp]
  split
  · exact hf h
  · rfl

theorem near_updHatch (s : State) (inst : Nat) (f : Hatch → Hatch) (hf : ∀ h, (f h).still = h.still) :
    Near s (s.updHatch inst f) := ⟨rfl, stills_updWhere s _ f hf⟩

theorem near_updPath (s : State) (inst slot : Nat) (f : Path → Path) (hf : ∀ p, (f p).still = p.still) :
    Near s (s.updPath inst slot f) := by
  refine near_updHatch s inst _ (fun h => ?_)
  rw [Hatch.still_setPath, Option.map_map]
  have : (h.path? slot).map (Path.still ∘ f) = (h.path? slot).map Path.still := by
    cases h.path? slot <;> simp [hf]
  rw [this, ← Hatch.path?_still, Hatch.setPath_self]

theorem near_post (s : State) (i : Instr) (a : Arg) : Near s (s.post i a) := ⟨rfl, rfl⟩
theorem near_wake (s : State) : Near s s.wake := ⟨rfl, rfl⟩

theorem near_foldl {α : Type} (f : State → α → State) (hf : ∀ s a, Near s (f s a)) (xs : List α) (s : State) :
    Near s (xs.foldl f s) := by
  induction xs generalizing s with
  | nil => exact Near.refl s
  | cons a r ih => exact (hf s a).trans (ih (f s a))

theorem Path.still_unyield (p : Path) : p.unyield.still = p.still := by
  unfold Path.unyield; split <;> rfl

theorem map_set_same {α β : Type} (g : α → β) (d x : α) (i : Nat) (xs : List α) (hx : g x = g (xs.getD i d)) :
    (xs.set i x).map g = xs.map g := by
  induction xs generalizing i with
  | nil => rfl
  | cons a r ih =>
    cases i with
    | zero => simp_all
    | succ n => simp only [List.set_cons_succ, List.map_cons]; rw [ih n (by simpa using hx)]

theorem near_issueCount (s : State) (c : Nat) (f : Core → Core)
    (hf : ∀ k, { f k with issued := [], lastIssue := [] } = { k with issued := [], lastIssue := [] }) :
    Near s (s.updCore c f) := by
  refine ⟨?_, rfl⟩
  have := map_set_same (fun k : Core => { k with issued := [], lastIssue := [] }) Core.reset (f (s.core c)) c s.cores
    (hf _)
  simp only [State.rest, State.updCore, this]

/-! ### Looking a hatch up -/

theorem hatch?_still (s : State) (i : Nat) : (s.hatch? i).map Hatch.still = s.stills.find? (fun h => h.inst == i) := by
  unfold State.hatch? State.stills
  rw [List.find?_map]
  rfl

theorem hatch?_still_congr {s t : State} (h : t.stills = s.stills) (i : Nat) :
    (t.hatch? i).map Hatch.still = (s.hatch? i).map Hatch.still := by
  rw [hatch?_still, hatch?_still, h]

theorem find?_updWhere_inst (i : Nat) (f : Hatch → Hatch) (hf : ∀ h, h.inst = i → (f h).inst = i) (hs : List Hatch) :
    (updWhere (fun h => h.inst == i) f hs).find? (fun h => h.inst == i) = (hs.find? (fun h => h.inst == i)).map f := by
  induction hs with
  | nil => rfl
  | cons h r ih =>
    simp only [updWhere, List.map_cons] at ih ⊢
    by_cases e : h.inst = i
    · rw [if_pos (by simpa using e), List.find?_cons_of_pos (by simpa using hf h e), List.find?_cons_of_pos (by simpa using e)]
      rfl
    · rw [if_neg (by simpa using e), List.find?_cons_of_neg (by simpa using e), List.find?_cons_of_neg (by simpa using e), ih]

theorem hatch?_updHatch (s : State) (i : Nat) (f : Hatch → Hatch) (hf : ∀ h, h.inst = i → (f h).inst = i) :
    (s.updHatch i f).hatch? i = (s.hatch? i).map f := find?_updWhere_inst i f hf s.hatches

theorem hatch?_inst {s : State} {i : Nat} {h : Hatch} (e : s.hatch? i = some h) : h.inst = i := by
  have := List.find?_some e
  simpa using this

theorem Path.issued_still (p : Path) (k : Nat) : p.still.issued k = p.issued k := rfl

/-- The last part of `noteIssue`, from any state near the first. -/
theorem noteIssue_end (s s1 : State) (inst slot core k : Nat) (f : Core → Core)
    (hf : ∀ k, { f k with issued := [], lastIssue := [] } = { k with issued := [], lastIssue := [] }) (n : Near s s1) :
    Near s ((s1.updPath inst slot (fun p => p.issued k)).updCore core f) ∧
    (((s1.updPath inst slot (fun p => p.issued k)).updCore core f).hatch? inst).bind (fun x => x.path? slot) =
      ((s.hatch? inst).bind (fun x => x.path? slot)).map (fun p => p.issued k) := by
  have n2 : Near s1 (s1.updPath inst slot (fun p => p.issued k)) := near_updPath _ _ _ _ (fun _ => rfl)
  refine ⟨n.trans (n2.trans (near_issueCount _ _ _ hf)), ?_⟩
  have e : ((s1.updPath inst slot (fun p => p.issued k)).updCore core f).hatch? inst =
      (s1.updPath inst slot (fun p => p.issued k)).hatch? inst := rfl
  rw [e, State.updPath, hatch?_updHatch _ _ _ (fun h hi => by rw [Hatch.setPath_inst, hi])]
  have hh := hatch?_still_congr n.2 inst
  cases h1 : s1.hatch? inst with
  | none =>
    cases h0 : s.hatch? inst with
    | none => rfl
    | some h => rw [h0, h1] at hh; cases hh
  | some k =>
    cases h0 : s.hatch? inst with
    | none => rw [h0, h1] at hh; cases hh
    | some h =>
      rw [h0, h1] at hh
      have hs : k.still = h.still := Option.some.inj hh
      simp only [Option.map_some, Option.bind_some, Hatch.setPath_path?]
      have hp : (k.path? slot).map Path.still = (h.path? slot).map Path.still := by
        rw [← Hatch.path?_still, ← Hatch.path?_still, hs]
      cases a : k.path? slot with
      | none =>
        cases b : h.path? slot with
        | none => rfl
        | some q => rw [a, b] at hp; cases hp
      | some q =>
        cases b : h.path? slot with
        | none => rw [a, b] at hp; cases hp
        | some r =>
          rw [a, b] at hp
          have : q.still = r.still := Option.some.inj hp
          simp only [Option.map_some]
          rw [← Path.issued_still q, this, Path.issued_still]

/-- Issuing touches nothing but the marks of issue choice, and leaves the issuing path issued. -/
theorem noteIssue_spec (s : State) (inst slot : Nat) :
    Near s (noteIssue s inst slot) ∧
    ((noteIssue s inst slot).hatch? inst).bind (fun x => x.path? slot) =
      ((s.hatch? inst).bind (fun x => x.path? slot)).map (fun p => p.issued (issueNo s inst)) := by
  unfold noteIssue issueNo
  split
  · rename_i e
    exact ⟨Near.refl s, by rw [e]; rfl⟩
  · rename_i h e
    rw [e]
    dsimp only [Option.elim_some]
    rw [← e]
    refine noteIssue_end s _ inst slot h.core _ (fun k => { k with issued := _, lastIssue := _ }) (fun _ => rfl) ?_
    refine ⟨rfl, stills_updWhere s _ _ (fun x => ?_)⟩
    simp only [Hatch.still]
    congr 1
    · split
      · rfl
      · cases x.slot0 <;> simp [Path.still_unyield]
    · split
      · rfl
      · cases x.slot1 <;> simp [Path.still_unyield]

/-! ### Retiring and finishing -/

theorem finish_settled {s : State} (h : s.Settled) : finish s = s.wake := by
  unfold finish settle
  rw [h]

theorem Near.settled {s t : State} (n : Near s t) (h : s.Settled) : t.Settled := by
  have h1 : t.rest.sched = s.rest.sched := congrArg State.sched n.1
  have h2 : t.sched = s.sched := h1
  unfold State.Settled
  rw [h2]; exact h

/-- The end of a step in which a path has issued. -/
theorem issued_of {s : State} (hs : s.Settled) (inst slot : Nat) : Issued s (finish (noteIssue s inst slot)) inst slot := by
  have n := noteIssue_spec s inst slot
  rw [finish_settled (n.1.settled hs)]
  exact ⟨n.1.1, n.1.2, n.2⟩

/-- The end of a step whose path goes on in sequence. -/
theorem passed_of {s : State} (hs : s.Settled) (c : Iss) (len : Nat) :
    Passed s (finish (retire s c.inst c.slot c.p.pc len)) c len := by
  have h : (s.updPath c.inst c.slot (fun p => p.arrive (wrap64 (c.p.pc + len)))).Settled := hs
  exact issued_of h c.inst c.slot

end Sys2Proof.Machine
end

