-- ==== Sys2Proof/Laws/Complete.lean ====
section
/-! SUPPORT. An instruction that issues runs its effect; `complete` makes the writes and goes on; registers written by
`applyWrite` read back. -/

namespace Sys2Proof.Machine

/-! ### Issuing -/

/-- An instruction that issues answers its effect. -/
theorem issueWith_go {pre : Iss → Pre} {g : BitVec 3} {gs : BitVec 2} {s : State} {c : Iss} (h : IssuesWith pre g gs s c)
    (eff : Iss → State → State) : issueWith pre g gs eff s = .next (eff c s) := by
  obtain ⟨c0, hi, hp, rfl⟩ := h
  unfold issueWith
  rw [hi]
  simp only [hp]

theorem issueWith_trap {pre : Iss → Pre} {s : State} {c : Iss} {code info : Nat} (h : TrapsWith pre s c code info)
    (g : BitVec 3) (gs : BitVec 2) (eff : Iss → State → State) :
    issueWith pre g gs eff s = .next (c.trap s { code := code, info := info }) := by
  unfold issueWith
  rw [h.1]
  simp only [h.2]

/-- The issuing hatch is the one that the state holds. -/
theorem issuing_hatch {s : State} {c : Iss} (h : s.issuing = some c) : s.hatch? c.inst = some c.h := by
  unfold State.issuing at h
  split at h
  · cases h
  · split at h
    · cases h
    · rename_i r _ _ k e
      split at h
      · cases h
      · cases h
        have : k.inst = r.hatch := hatch?_inst e
        show s.hatch? k.inst = some k
        rw [this, e]

/-- The issuing path is the one that the hatch holds in its slot. -/
theorem issuing_path {s : State} {c : Iss} (h : s.issuing = some c) : c.h.path? c.slot = some c.p := by
  unfold State.issuing at h
  split at h
  · cases h
  · split at h
    · cases h
    · split at h
      · cases h
      · cases h; assumption

theorem issues_hatch {pre : Iss → Pre} {g : BitVec 3} {gs : BitVec 2} {s : State} {c : Iss} (h : IssuesWith pre g gs s c) :
    s.hatch? c.inst = some c.h := by
  obtain ⟨c0, hi, _, rfl⟩ := h
  have := issuing_hatch hi
  exact this

theorem issues_path {pre : Iss → Pre} {g : BitVec 3} {gs : BitVec 2} {s : State} {c : Iss} (h : IssuesWith pre g gs s c) :
    c.h.path? c.slot = some c.p := by
  obtain ⟨c0, hi, _, rfl⟩ := h
  have := issuing_path hi
  exact this

/-! ### Writes keep the hatch's number -/

theorem Hatch.unmap_inst (h : Hatch) (r : Nat) : (h.unmap r).inst = h.inst := by
  unfold Hatch.unmap; dsimp only; split
  · rfl
  · split <;> rfl

theorem foldl_inst {α : Type} (f : Hatch → α → Hatch) (hf : ∀ h a, (f h a).inst = h.inst) (xs : List α) (h : Hatch) :
    (xs.foldl f h).inst = h.inst := by
  induction xs generalizing h with
  | nil => rfl
  | cons a r ih => rw [List.foldl_cons, ih, hf]

theorem Hatch.freeLast_inst (h : Hatch) (sh : Shape) : (h.freeLast sh).inst = h.inst := by
  unfold Hatch.freeLast
  refine foldl_inst _ (fun h u => ?_) _ _
  split
  · rfl
  · split
    · refine foldl_inst _ (fun h i => ?_) _ _
      split
      · rfl
      · exact Hatch.unmap_inst h i
    · rfl

theorem writeScalar_inst (hp : Hatch × Path) (r : Nat) (v sv : Word) : (writeScalar hp r v sv).1.inst = hp.1.inst := by
  unfold writeScalar
  split
  split
  · rfl
  · split <;> rfl

theorem foldl_inst2 {α : Type} (f : Hatch × Path → α → Hatch × Path) (hf : ∀ h a, (f h a).1.inst = h.1.inst) (xs : List α)
    (h : Hatch × Path) : (xs.foldl f h).1.inst = h.1.inst := by
  induction xs generalizing h with
  | nil => rfl
  | cons a r ih => rw [List.foldl_cons, ih, hf]

theorem applyWrite_inst (prot : Bool) (m : LaneSet) (hp : Hatch × Path) (w : Write) :
    (applyWrite prot m hp w).1.inst = hp.1.inst := by
  unfold applyWrite
  split
  · split
    · refine Eq.trans (foldl_inst (α := Nat) _ ?_ _ _) rfl
      intro h a; rfl
    · exact foldl_inst2 _ (fun _ _ => writeScalar_inst _ _ _ _) _ _
    · rfl
  · split
    · refine Eq.trans (foldl_inst (α := Nat) _ ?_ _ _) rfl
      intro h a; rfl
    · rfl
  · rfl
  · split
    · refine Eq.trans (foldl_inst (α := Nat) _ ?_ _ _) rfl
      intro h a; rfl
    · rfl
  · rfl

theorem writes_inst (prot : Bool) (m : LaneSet) (ws : List Write) (hp : Hatch × Path) :
    (ws.foldl (applyWrite prot m) hp).1.inst = hp.1.inst :=
  foldl_inst2 _ (fun _ _ => applyWrite_inst _ _ _ _) _ _

/-! ### Completing -/

theorem updWhere_updWhere_inst (i : Nat) (f g : Hatch → Hatch) (hf : ∀ h, h.inst = i → (f h).inst = i) (hs : List Hatch) :
    updWhere (fun h => h.inst == i) g (updWhere (fun h => h.inst == i) f hs) = updWhere (fun h => h.inst == i) (g ∘ f) hs := by
  simp only [updWhere, List.map_map]
  refine List.map_congr_left (fun h _ => ?_)
  simp only [Function.comp]
  by_cases e : h.inst = i
  · simp [e, hf h e]
  · simp [e]

theorem updHatch_updHatch (s : State) (i : Nat) (f g : Hatch → Hatch) (hf : ∀ h, h.inst = i → (f h).inst = i) :
    (s.updHatch i f).updHatch i g = s.updHatch i (g ∘ f) := by
  simp only [State.updHatch, updWhere_updWhere_inst i f g hf]

theorem Hatch.setPath_setPath (h : Hatch) (slot : Nat) (p q : Option Path) :
    (h.setPath slot p).setPath slot q = h.setPath slot q := by
  unfold Hatch.setPath; split <;> rfl

/-- Putting a hatch back and moving its path on is one replacement. -/
theorem putIssue_updPath (s : State) (c : Iss) (h : Hatch) (p : Path) (f : Path → Path) (hi : h.inst = c.inst) :
    (putIssue s c (h, p)).updPath c.inst c.slot f = s.updHatch c.inst (fun _ => h.setPath c.slot (some (f p))) := by
  unfold putIssue State.updPath
  rw [updHatch_updHatch _ _ _ _ (fun _ _ => by rw [Hatch.setPath_inst]; exact hi)]
  congr 1
  funext x
  simp only [Function.comp, Hatch.setPath_path?, Option.map_some, Hatch.setPath_setPath]

/-- A hatch put back and its path retired. -/
theorem completed_of (s : State) (c : Iss) (h : Hatch) (p : Path) (len : Nat) (hs : s.Settled) (hi : h.inst = c.inst) :
    Completed s (finish (retire (putIssue s c (h, p)) c.inst c.slot c.p.pc len)) c h p len := by
  unfold Completed Advanced retire
  rw [putIssue_updPath s c h p _ hi]
  have h2 : (s.updHatch c.inst (fun _ => h.setPath c.slot (some (p.arrive (wrap64 (c.p.pc + len)))))).Settled := hs
  exact issued_of h2 c.inst c.slot

theorem Hatch.markEmpty_inst (h : Hatch) (ds : List (BitVec 8 × Nat)) (on : Bool) : (h.markEmpty ds on).inst = h.inst := by
  unfold Hatch.markEmpty
  refine foldl_inst _ (fun h d => ?_) _ _
  split <;> rfl

theorem Hatch.late_inst (h : Hatch) (sh : Shape) : (h.late sh).inst = h.inst := by
  unfold Hatch.late
  split
  · exact Hatch.markEmpty_inst h _ _
  · rfl

theorem keepNewer_settled {s : State} (hs : s.Settled) (i : Nat) (ds : List (BitVec 8 × Nat)) : (keepNewer s i ds).Settled := by
  unfold keepNewer
  split
  · exact hs
  · exact hs

/-- No launch of the hatch is in flight: nothing is noted. -/
theorem keepNewer_none {s : State} {i : Nat} (h : s.ops.any (fun o => o.hatch == i && isLaunchInsn o.what) = false)
    (ds : List (BitVec 8 × Nat)) : keepNewer s i ds = s := by
  unfold keepNewer
  rw [h]
  rfl

/-- `complete` with a lane to run in and registers to be had. -/
theorem complete_spec {s : State} {c : Iss} (hs : s.Settled) (sh : Shape) (m : LaneSet)
    (ws : List Write) (fl : FpFlags) (len : Nat) (hm : m ≠ 0)
    (ha : allocTest s c (ws.foldl (applyWrite c.prot m) (c.h.freeLast sh, c.p)).1 = .ok) :
    Finished s (complete s c sh m ws fl len) c sh
      { (ws.foldl (applyWrite c.prot m) (c.h.freeLast sh, c.p)).1 with
        fpflags := (ws.foldl (applyWrite c.prot m) (c.h.freeLast sh, c.p)).1.fpflags ||| fl }
      (ws.foldl (applyWrite c.prot m) (c.h.freeLast sh, c.p)).2 len := by
  unfold complete
  rw [if_neg (by simpa using hm)]
  simp only [ha]
  refine completed_of (keepNewer s c.inst sh.dsts) c _ _ len (keepNewer_settled hs _ _) ?_
  show (Hatch.late _ sh).inst = c.inst
  rw [Hatch.late_inst]
  show (ws.foldl (applyWrite c.prot m) (c.h.freeLast sh, c.p)).1.inst = c.inst
  rw [writes_inst, Hatch.freeLast_inst]
  rfl

/-- `complete` with no lane to run in. -/
theorem complete_none {s : State} {c : Iss} (hs : s.Settled) (sh : Shape) (ws : List Write) (fl : FpFlags) (len : Nat) :
    Passed s (complete s c sh 0 ws fl len) c len := by
  unfold complete
  rw [if_pos (by simp)]
  exact passed_of hs c len

/-- An instruction that computes its results lane by lane. -/
theorem aluExecFar_writes {i : Instr} {op : Nat} {f : AForm} {far : Iss → LaneSet → Bool} {ws : Iss → List Write}
    {fl : Iss → Nat → FpFlags} (h : ∀ s, exec i s = aluExecFar op f far ws fl s) :
    WritesFar i op f (fun _ => True) (fun c => c.lanesA op f) (fun c => far c (c.lanesA op f)) ws
      (fun c => laneFlags (c.lanesA op f) (fl c)) := by
  intro s c hs hi _ hm ha
  refine ⟨_, (h s).trans (by unfold aluExecFar issueA; exact issueWith_go hi _), ?_⟩
  exact complete_spec hs (c.shapeA op f (far c (c.lanesA op f))) _ _ _ _ hm ha

theorem aluExec_writes {i : Instr} {op : Nat} {f : AForm} {ws : Iss → List Write} {fl : Iss → Nat → FpFlags}
    (h : ∀ s, exec i s = aluExec op f ws fl s) : Writes i op f ws (fun c => laneFlags (c.lanesA op f) (fl c)) :=
  aluExecFar_writes h

theorem aluExecFar_skips {i : Instr} {op : Nat} {f : AForm} {far : Iss → LaneSet → Bool} {ws : Iss → List Write}
    {fl : Iss → Nat → FpFlags} (h : ∀ s, exec i s = aluExecFar op f far ws fl s) : Skips i op f (fun c => c.lanesA op f) := by
  intro s c hs hi hm
  refine ⟨_, (h s).trans (by unfold aluExecFar issueA; exact issueWith_go hi _), ?_⟩
  have hm' : c.execMask (aShape op (aRule c.fieldCtx op f) f).allScalar (f.gsense != 0) = 0 := hm
  dsimp only
  rw [hm']
  exact complete_none hs _ _ _ _

theorem aluExec_skips {i : Instr} {op : Nat} {f : AForm} {ws : Iss → List Write} {fl : Iss → Nat → FpFlags}
    (h : ∀ s, exec i s = aluExec op f ws fl s) : Skips i op f (fun c => c.lanesA op f) := aluExecFar_skips h

end Sys2Proof.Machine
end

