-- ==== Sys2Proof/Laws/Elements.lean ====
section
/-! SUPPORT. Elements packed into a word and read back, and flags gathered over lanes and elements. -/

namespace Sys2Proof.Machine

theorem packElems_succ (n w : Nat) (f : Nat → Nat) :
    packElems (n + 1) w f = packElems n w f + f n % 2 ^ w * 2 ^ (w * n) := by
  simp [packElems, List.range_succ, List.foldl_append]

theorem packElems_lt (n w : Nat) (f : Nat → Nat) : packElems n w f < 2 ^ (w * n) := by
  induction n with
  | zero => simp [packElems]
  | succ n ih =>
    rw [packElems_succ, Nat.mul_succ, Nat.pow_add]
    have h : f n % 2 ^ w < 2 ^ w := Nat.mod_lt _ (Nat.two_pow_pos w)
    have h2 : f n % 2 ^ w * 2 ^ (w * n) + 2 ^ (w * n) ≤ 2 ^ w * 2 ^ (w * n) := by
      rw [← Nat.succ_mul]; exact Nat.mul_le_mul_right _ h
    rw [Nat.mul_comm (2 ^ (w * n))]
    omega

/-- Element j of packed elements. -/
theorem elemCode_packElems (n w : Nat) (f : Nat → Nat) (j : Nat) (hj : j < n) :
    elemCode w (packElems n w f) j = f j % 2 ^ w := by
  induction n with
  | zero => omega
  | succ n ih =>
    rw [packElems_succ]
    unfold elemCode at *
    by_cases e : j = n
    · subst e
      rw [Nat.add_mul_div_right _ _ (Nat.two_pow_pos _), Nat.div_eq_of_lt (packElems_lt j w f), Nat.zero_add, Nat.mod_mod]
    · have hlt : j < n := by omega
      have hd : 2 ^ (w * n) = 2 ^ (w * j) * (2 ^ w * 2 ^ (w * (n - j - 1))) := by
        rw [← Nat.pow_add, ← Nat.pow_add]; congr 1
        have : n = j + 1 + (n - j - 1) := by omega
        calc w * n = w * (j + 1 + (n - j - 1)) := by rw [← this]
          _ = _ := by ring
      rw [hd, ← Nat.mul_assoc, Nat.mul_comm (f n % 2 ^ w) (2 ^ (w * j)), Nat.mul_assoc, Nat.add_mul_div_left _ _ (Nat.two_pow_pos _),
        Nat.mul_left_comm, Nat.add_mul_mod_self_left, ih hlt]

theorem wrapN_lt (w : Nat) (x : Int) : wrapN w x < 2 ^ w := by
  unfold wrapN
  have h : (0 : Int) < (2 ^ w : Nat) := by exact_mod_cast Nat.two_pow_pos w
  have := Int.emod_lt_of_pos x h
  have := Int.emod_nonneg x (ne_of_gt h)
  omega

theorem fit_lt (w : Nat) (sg sat : Bool) (x : Int) : fit w sg sat x < 2 ^ w := by
  unfold fit; split
  · exact wrapN_lt _ _
  · split <;> exact wrapN_lt _ _

theorem laneFlags_none (m : LaneSet) : laneFlags m (fun _ => 0) = 0 := by
  unfold laneFlags
  generalize lanesOf m = ls
  induction ls with
  | nil => rfl
  | cons a r ih => simpa using ih

/-- The flags gathered over lanes. -/
theorem laneFlags_bit (m : LaneSet) (g : Nat → FpFlags) (i : Nat) :
    (laneFlags m g).getLsbD i = (lanesOf m).any (fun l => (g l).getLsbD i) := by
  unfold laneFlags
  have : ∀ (ls : List Nat) (a : FpFlags), (ls.foldl (fun a l => a ||| g l) a).getLsbD i =
      (a.getLsbD i || ls.any (fun l => (g l).getLsbD i)) := by
    intro ls
    induction ls with
    | nil => simp
    | cons x r ih => intro a; simp [ih, Bool.or_assoc]
  rw [this]; simp

theorem packFlags_succ (n w : Nat) (g : Nat → Nat × FpFlags) :
    packFlags (n + 1) w g = ((packFlags n w g).1 + (g n).1 % 2 ^ w * 2 ^ (w * n), (packFlags n w g).2 ||| (g n).2) := by
  simp [packFlags, List.range_succ, List.foldl_append]

theorem packFlags_fst (n w : Nat) (g : Nat → Nat × FpFlags) : (packFlags n w g).1 = packElems n w (fun j => (g j).1) := by
  induction n with
  | zero => rfl
  | succ n ih => rw [packFlags_succ, packElems_succ, ih]

theorem packFlags_bit (n w : Nat) (g : Nat → Nat × FpFlags) (i : Nat) :
    (packFlags n w g).2.getLsbD i = (List.range n).any (fun j => (g j).2.getLsbD i) := by
  induction n with
  | zero => simp [packFlags, flNone]
  | succ n ih => rw [packFlags_succ, List.range_succ]; simp [ih]

/-! ### Instructions with one result -/

theorem noFlags (op : Nat) (f : AForm) :
    (fun c : Iss => laneFlags (c.lanesA op f) (fun _ => (0 : FpFlags))) = fun _ => 0 := funext fun _ => laneFlags_none _

/-- An integer instruction completes with the values it computes. -/
theorem intExec_reg {i : Instr} {op w : Nat} {f : AForm} {val : Iss → Nat → Nat} {spec : (Iss → Nat → Nat) → Prop}
    (h : ∀ s, exec i s = intExec op w f val s) (hs : spec val) : WritesReg i op f w spec := by
  refine ⟨val, hs, ?_⟩
  have := aluExec_writes (i := i) (op := op) (f := f) (ws := fun c => [.reg f.dst w (val c)]) (fl := fun _ _ => 0) h
  rwa [noFlags] at this

/-- An instruction that writes a predicate completes with the values it computes. -/
theorem aluExec_pred {i : Instr} {op : Nat} {f : AForm} {val : Iss → Nat → Tri} {spec : (Iss → Nat → Tri) → Prop}
    (h : ∀ s, exec i s = aluExec op f (fun c => [.pred (predReg f.dst) (val c)]) (fun _ _ => 0) s) (hs : spec val) :
    WritesPred i op f spec := by
  refine ⟨val, hs, ?_⟩
  have := aluExec_writes h
  rwa [noFlags] at this

/-- A floating-point instruction completes with the values and flags it computes. -/
theorem laneExec_float {i : Instr} {op w : Nat} {f : AForm} {val : Iss → Nat → Nat × FpFlags}
    {spec : (Iss → Nat → Nat × FpFlags) → Prop} (h : ∀ s, exec i s = laneExec op w f val s) (hs : spec val) :
    WritesFloat i op f w spec := ⟨val, hs, aluExec_writes h⟩

/-- The elements of an elementwise integer result. -/
theorem elemOp_elems (f : AForm) (g : Int → Int → Int → Int) : ElemsAre f g (elemOp f g) := by
  intro c l j hj
  unfold elemOp
  simp only
  rw [elemCode_packElems _ _ _ _ hj, Nat.mod_eq_of_lt (fit_lt _ _ _ _)]
  rfl

/-- The elements and flags of an elementwise floating-point result. -/
theorem floatLane_elems (f : AForm) (g : ElemFn) :
    FloatsAre f (fun c a b d => g (fmtOf f.tyN) f.mode c.ftz a b d) (floatLane g f) := by
  intro c l
  unfold floatLane
  simp only
  refine ⟨fun j hj => ?_, fun i => ?_⟩
  · rw [packFlags_fst, elemCode_packElems _ _ _ _ hj]; rfl
  · rw [packFlags_bit]; rfl

end Sys2Proof.Machine
end

