-- ==== Sys2Proof/Laws/Memory.lean ====
section
/-! SUPPORT. The memory operations: what they read after what they write, and that each keeps memory's canonical form. -/

namespace Sys2Proof.Machine

/-! ### Cells -/

theorem cellsRise_mono {lo hi : Nat} (h : lo ≤ hi) (m : List Host.Cell) (w : cellsRise hi m = true) : cellsRise lo m = true := by
  cases m with
  | nil => rfl
  | cons c r =>
    obtain ⟨k, b⟩ := c
    simp only [cellsRise, Bool.and_eq_true, decide_eq_true_eq] at w ⊢
    exact ⟨by omega, w.2⟩

theorem cellGet_below (a : Nat) (m : List Host.Cell) : ∀ lo, cellsRise lo m = true → a < lo → cellGet a m = 0 := by
  induction m with
  | nil => intros; rfl
  | cons c r ih =>
    obtain ⟨k, b⟩ := c
    intro lo w h
    simp only [cellsRise, Bool.and_eq_true, decide_eq_true_eq] at w
    rw [cellGet, if_neg (by omega)]
    exact ih (k + 1) w.2 (by omega)

theorem cellSet_rise (a : Nat) (b : Byte) (m : List Host.Cell) :
    ∀ lo, cellsRise lo m = true → lo ≤ a → cellsRise lo (cellSet a b m) = true := by
  induction m with
  | nil =>
    intro lo _ h
    unfold cellSet
    split
    · rfl
    · simp [cellsRise, h]
  | cons c r ih =>
    obtain ⟨k, x⟩ := c
    intro lo w h
    have w' := w
    simp only [cellsRise, Bool.and_eq_true, decide_eq_true_eq] at w'
    unfold cellSet
    split
    · split
      · exact w
      · simp only [cellsRise, Bool.and_eq_true, decide_eq_true_eq]
        exact ⟨h, by omega, w'.2⟩
    · split
      · rename_i e
        split
        · exact cellsRise_mono (by omega) r w'.2
        · simp only [cellsRise, Bool.and_eq_true, decide_eq_true_eq]
          exact ⟨h, by rw [← e]; exact w'.2⟩
      · simp only [cellsRise, Bool.and_eq_true, decide_eq_true_eq]
        exact ⟨w'.1, ih (k + 1) w'.2 (by omega)⟩

theorem cellSet_nonzero (a : Nat) (b : Byte) (m : List Host.Cell) (h : m.all (fun c => c.2 != 0) = true) :
    (cellSet a b m).all (fun c => c.2 != 0) = true := by
  induction m with
  | nil =>
    unfold cellSet
    split
    · rfl
    · rename_i e; simpa using e
  | cons c r ih =>
    obtain ⟨k, x⟩ := c
    have h' := h
    simp only [List.all_cons, Bool.and_eq_true] at h'
    unfold cellSet
    split
    · split
      · exact h
      · rename_i e
        simp only [List.all_cons, Bool.and_eq_true]
        exact ⟨by simpa using e, h'⟩
    · split
      · split
        · exact h'.2
        · rename_i e
          simp only [List.all_cons, Bool.and_eq_true]
          exact ⟨by simpa using e, h'.2⟩
      · simp only [List.all_cons, Bool.and_eq_true]
        exact ⟨h'.1, ih h'.2⟩

/-- Writing a byte keeps the canonical form. -/
theorem cellSet_wf (a : Nat) (b : Byte) {m : List Host.Cell} (h : Memory.wf m = true) : Memory.wf (cellSet a b m) = true := by
  unfold Memory.wf at h ⊢
  rw [Bool.and_eq_true] at h ⊢
  exact ⟨cellSet_rise a b m 0 h.1 (Nat.zero_le a), cellSet_nonzero a b m h.2⟩

theorem cellSetBytes_wf (bs : List Byte) : ∀ (a : Nat) {m : List Host.Cell}, Memory.wf m = true →
    Memory.wf (cellSetBytes a bs m) = true := by
  induction bs with
  | nil => intro a m h; exact h
  | cons b r ih => intro a m h; exact ih (a + 1) (cellSet_wf a b h)

/-- A written byte reads back, and every other byte reads as before. -/
theorem cellGet_cellSet (a i : Nat) (b : Byte) (m : List Host.Cell) :
    ∀ lo, cellsRise lo m = true → cellGet i (cellSet a b m) = if i = a then b else cellGet i m := by
  induction m with
  | nil =>
    intro lo _
    unfold cellSet
    by_cases e : i = a
    · subst e
      split <;> rename_i hb <;> simp [cellGet, hb]
    · split
      · simp
      · simp [cellGet, e, Ne.symm e]
  | cons c r ih =>
    obtain ⟨k, x⟩ := c
    intro lo w
    simp only [cellsRise, Bool.and_eq_true, decide_eq_true_eq] at w
    unfold cellSet
    by_cases e : i = a
    · subst e
      rw [if_pos rfl]
      split
      · split
        · rename_i h1 hb
          rw [cellGet, if_neg (by omega), cellGet_below i r (k + 1) w.2 (by omega), hb]
        · rw [cellGet, if_pos rfl]
      · split
        · rename_i h1 h2
          split
          · rename_i hb
            rw [cellGet_below i r (k + 1) w.2 (by omega), hb]
          · rw [cellGet, if_pos rfl]
        · rename_i h1 h2
          rw [cellGet, if_neg h2, ih (k + 1) w.2, if_pos rfl]
    · rw [if_neg e]
      split
      · split
        · rfl
        · rw [cellGet, if_neg (Ne.symm e)]
      · split
        · rename_i h1 h2
          split
          · rw [cellGet, if_neg (by omega)]
          · rw [cellGet, if_neg (Ne.symm e), cellGet, if_neg (by omega)]
        · rw [cellGet, ih (k + 1) w.2, if_neg e, cellGet]

/-! ### The overlay -/

theorem overGet_overSet (a i : Nat) (b : Byte) (m : List Host.Cell) :
    overGet i (overSet a b m) = if i = a then some b else overGet i m := by
  induction m with
  | nil =>
    by_cases e : i = a
    · simp [overSet, overGet, e]
    · simp [overSet, overGet, e, Ne.symm e]
  | cons c r ih =>
    obtain ⟨k, x⟩ := c
    unfold overSet
    by_cases e : i = a
    · subst e
      rw [if_pos rfl]
      split
      · rw [overGet, if_pos rfl]
      · split
        · rw [overGet, if_pos rfl]
        · rename_i h1 h2
          rw [overGet, if_neg h2, ih, if_pos rfl]
    · rw [if_neg e]
      split
      · rw [overGet, if_neg (Ne.symm e)]
      · split
        · rename_i h1 h2
          rw [overGet, if_neg (Ne.symm e), overGet, if_neg (by omega)]
        · rw [overGet, ih, if_neg e, overGet]

/-! ### Lines at their homes -/

theorem cleanSectors_mem (s : State) (line key : Nat) (qs : List Nat) : (cleanSectors s line key qs).mem = s.mem := by
  unfold cleanSectors
  split <;> rfl

theorem cleanSectors_memOk {s : State} (h : s.MemOk) (line key : Nat) (qs : List Nat) : (cleanSectors s line key qs).MemOk := by
  unfold State.MemOk
  rw [cleanSectors_mem]
  exact h

/-- Every write at a home keeps memory's form. -/
theorem homeWrite_memOk {s : State} (h : s.MemOk) (line off : Nat) (bs : List Byte) : (homeWrite s line off bs).MemOk := by
  unfold homeWrite
  split
  · exact h
  · dsimp only
    split
    · exact cleanSectors_memOk h _ _ _
    · exact cellSetBytes_wf bs _ (cleanSectors_memOk h _ _ _)

theorem homeSetPoison_memOk {s : State} (h : s.MemOk) (line : Nat) (p : BitVec 4) : (homeSetPoison s line p).MemOk := by
  unfold homeSetPoison
  split
  · exact h
  · split <;> exact h

theorem foldl_memOk {α : Type} (f : State → α → State) (hf : ∀ s a, s.MemOk → (f s a).MemOk) (xs : List α) :
    ∀ s : State, s.MemOk → (xs.foldl f s).MemOk := by
  induction xs with
  | nil => intro s h; exact h
  | cons a r ih => intro s h; exact ih _ (hf s a h)

theorem cellFold_wf {α : Type} (f : α → Nat) (g : α → Byte) (xs : List α) :
    ∀ m, Memory.wf m = true → Memory.wf (xs.foldl (fun m i => cellSet (f i) (g i) m) m) = true := by
  induction xs with
  | nil => intro m h; exact h
  | cons a r ih => intro m h; exact ih _ (cellSet_wf _ _ h)

theorem homeWriteMask_memOk {s : State} (h : s.MemOk) (line : Nat) (bs : List Byte) (m : BitVec 128) :
    (homeWriteMask s line bs m).MemOk := by
  unfold homeWriteMask
  split
  · exact h
  · dsimp only
    split
    · exact cleanSectors_memOk h _ _ _
    · exact cellFold_wf _ _ _ _ (cleanSectors_memOk h _ _ _)

theorem flushLine_memOk {s : State} (h : s.MemOk) (line : Nat) : (flushLine s line).MemOk := by
  unfold flushLine
  split
  · exact h
  · rename_i k _
    show Memory.wf _ = true
    dsimp only
    generalize s.slices.filter _ = xs
    exact cellFold_wf _ _ xs s.mem h

theorem flushAll_memOk {s : State} (h : s.MemOk) : (flushAll s).MemOk :=
  foldl_memOk _ (fun _ _ hs => flushLine_memOk hs _) _ s h

/-- The memory that reset leaves is in its form. -/
theorem reset_memOk : State.reset.MemOk := rfl

end Sys2Proof.Machine
end

