-- ==== Sys2Proof/Laws/PerInstr.lean ====
section
/-! SUPPORT. What holds of every instruction as syntax, one lemma for each constructor. -/

namespace Sys2Proof.Laws.FormInstr

/-- An instruction is the one that its format, opcode and fields stand for: the opcode map of R290 names every constructor
once. SUB tells `rett` and `rett.retry` apart (R310); an event has no word. -/
def Statement (i : Instr) : Prop := i.subOk = true → i.form ≠ .event → i.form.instr = some i

theorem nop (len : InstrLen) (upper : BitVec 118) : Statement (.nop len upper) := fun _ _ => rfl
theorem bra (f : BForm) : Statement (.bra f) := fun _ _ => rfl
theorem bru (f : BForm) : Statement (.bru f) := fun _ _ => rfl
theorem brt (f : BForm) : Statement (.brt f) := fun _ _ => rfl
theorem call (f : BForm) : Statement (.call f) := fun _ _ => rfl
theorem ret (f : AForm) : Statement (.ret f) := fun _ _ => rfl
theorem jmpi (f : BForm) : Statement (.jmpi f) := fun _ _ => rfl
theorem calli (f : BForm) : Statement (.calli f) := fun _ _ => rfl
theorem pad (f : AForm) : Statement (.pad f) := fun _ _ => rfl
theorem join (f : AForm) : Statement (.join f) := fun _ _ => rfl
theorem yield (f : AForm) : Statement (.yield f) := fun _ _ => rfl
theorem prio (f : AForm) : Statement (.prio f) := fun _ _ => rfl
theorem loop (f : BForm) : Statement (.loop f) := fun _ _ => rfl
theorem brk (f : BForm) : Statement (.brk f) := fun _ _ => rfl
theorem cont (f : BForm) : Statement (.cont f) := fun _ _ => rfl
theorem pushp (f : AForm) : Statement (.pushp f) := fun _ _ => rfl
theorem invp (f : AForm) : Statement (.invp f) := fun _ _ => rfl
theorem popp (f : AForm) : Statement (.popp f) := fun _ _ => rfl
theorem exit (f : AForm) : Statement (.exit f) := fun _ _ => rfl
theorem trap (f : AForm) : Statement (.trap f) := fun _ _ => rfl
theorem rett (f : AForm) : Statement (.rett f) := by
  intro h _
  have h1 : f.sub ≠ 1 := by simpa [Instr.subOk] using h
  simp [Instr.form, Form.instr, h1, aOpcodes, aOpcodes0, opLookup]
theorem rettRetry (f : AForm) : Statement (.rettRetry f) := by
  intro h _
  have h1 : f.sub = 1 := by simpa [Instr.subOk] using h
  simp [Instr.form, Form.instr, h1]
theorem region (f : AForm) : Statement (.region f) := fun _ _ => rfl
theorem brkpt (f : AForm) : Statement (.brkpt f) := fun _ _ => rfl
theorem rdsr (f : AForm) : Statement (.rdsr f) := fun _ _ => rfl
theorem wrsr (f : AForm) : Statement (.wrsr f) := fun _ _ => rfl
theorem vote (f : AForm) : Statement (.vote f) := fun _ _ => rfl
theorem ecall (f : AForm) : Statement (.ecall f) := fun _ _ => rfl
theorem tlbinv (f : AForm) : Statement (.tlbinv f) := fun _ _ => rfl
theorem cachectl (f : AForm) : Statement (.cachectl f) := fun _ _ => rfl
theorem lsconv (f : AForm) : Statement (.lsconv f) := fun _ _ => rfl
theorem probe (f : AForm) : Statement (.probe f) := fun _ _ => rfl
theorem errinj (f : AForm) : Statement (.errinj f) := fun _ _ => rfl
theorem add (f : AForm) : Statement (.add f) := fun _ _ => rfl
theorem sub (f : AForm) : Statement (.sub f) := fun _ _ => rfl
theorem addc (f : AForm) : Statement (.addc f) := fun _ _ => rfl
theorem subb (f : AForm) : Statement (.subb f) := fun _ _ => rfl
theorem add64 (f : AForm) : Statement (.add64 f) := fun _ _ => rfl
theorem sub64 (f : AForm) : Statement (.sub64 f) := fun _ _ => rfl
theorem mul (f : AForm) : Statement (.mul f) := fun _ _ => rfl
theorem mulhi (f : AForm) : Statement (.mulhi f) := fun _ _ => rfl
theorem mulw (f : AForm) : Statement (.mulw f) := fun _ _ => rfl
theorem mad (f : AForm) : Statement (.mad f) := fun _ _ => rfl
theorem madw (f : AForm) : Statement (.madw f) := fun _ _ => rfl
theorem div (f : AForm) : Statement (.div f) := fun _ _ => rfl
theorem rem (f : AForm) : Statement (.rem f) := fun _ _ => rfl
theorem min (f : AForm) : Statement (.min f) := fun _ _ => rfl
theorem max (f : AForm) : Statement (.max f) := fun _ _ => rfl
theorem clamp (f : AForm) : Statement (.clamp f) := fun _ _ => rfl
theorem abs (f : AForm) : Statement (.abs f) := fun _ _ => rfl
theorem neg (f : AForm) : Statement (.neg f) := fun _ _ => rfl
theorem and (f : AForm) : Statement (.and f) := fun _ _ => rfl
theorem or (f : AForm) : Statement (.or f) := fun _ _ => rfl
theorem xor (f : AForm) : Statement (.xor f) := fun _ _ => rfl
theorem andn (f : AForm) : Statement (.andn f) := fun _ _ => rfl
theorem not (f : AForm) : Statement (.not f) := fun _ _ => rfl
theorem bitf (f : AForm) : Statement (.bitf f) := fun _ _ => rfl
theorem shl (f : AForm) : Statement (.shl f) := fun _ _ => rfl
theorem shr (f : AForm) : Statement (.shr f) := fun _ _ => rfl
theorem sar (f : AForm) : Statement (.sar f) := fun _ _ => rfl
theorem rot (f : AForm) : Statement (.rot f) := fun _ _ => rfl
theorem dsh (f : AForm) : Statement (.dsh f) := fun _ _ => rfl
theorem shl64 (f : AForm) : Statement (.shl64 f) := fun _ _ => rfl
theorem shr64 (f : AForm) : Statement (.shr64 f) := fun _ _ => rfl
theorem bxt (f : AForm) : Statement (.bxt f) := fun _ _ => rfl
theorem bins (f : AForm) : Statement (.bins f) := fun _ _ => rfl
theorem bfset (f : AForm) : Statement (.bfset f) := fun _ _ => rfl
theorem sext (f : AForm) : Statement (.sext f) := fun _ _ => rfl
theorem bcnt (f : AForm) : Statement (.bcnt f) := fun _ _ => rfl
theorem clz (f : AForm) : Statement (.clz f) := fun _ _ => rfl
theorem ctz (f : AForm) : Statement (.ctz f) := fun _ _ => rfl
theorem bitrev (f : AForm) : Statement (.bitrev f) := fun _ _ => rfl
theorem bshuf (f : AForm) : Statement (.bshuf f) := fun _ _ => rfl
theorem cmp (f : AForm) : Statement (.cmp f) := fun _ _ => rfl
theorem cmp64 (f : AForm) : Statement (.cmp64 f) := fun _ _ => rfl
theorem sel (f : AForm) : Statement (.sel f) := fun _ _ => rfl
theorem mov (f : AForm) : Statement (.mov f) := fun _ _ => rfl
theorem mov64 (f : AForm) : Statement (.mov64 f) := fun _ _ => rfl
theorem lea (f : AForm) : Statement (.lea f) := fun _ _ => rfl
theorem sad (f : AForm) : Statement (.sad f) := fun _ _ => rfl
theorem dp2 (f : AForm) : Statement (.dp2 f) := fun _ _ => rfl
theorem dp4 (f : AForm) : Statement (.dp4 f) := fun _ _ => rfl
theorem dp8 (f : AForm) : Statement (.dp8 f) := fun _ _ => rfl
theorem cvti (f : AForm) : Statement (.cvti f) := fun _ _ => rfl
theorem fadd (f : AForm) : Statement (.fadd f) := fun _ _ => rfl
theorem fsub (f : AForm) : Statement (.fsub f) := fun _ _ => rfl
theorem fmul (f : AForm) : Statement (.fmul f) := fun _ _ => rfl
theorem ffma (f : AForm) : Statement (.ffma f) := fun _ _ => rfl
theorem fmin (f : AForm) : Statement (.fmin f) := fun _ _ => rfl
theorem fmax (f : AForm) : Statement (.fmax f) := fun _ _ => rfl
theorem fmin3 (f : AForm) : Statement (.fmin3 f) := fun _ _ => rfl
theorem fmax3 (f : AForm) : Statement (.fmax3 f) := fun _ _ => rfl
theorem fneg (f : AForm) : Statement (.fneg f) := fun _ _ => rfl
theorem fabs (f : AForm) : Statement (.fabs f) := fun _ _ => rfl
theorem fcpsgn (f : AForm) : Statement (.fcpsgn f) := fun _ _ => rfl
theorem fcmp (f : AForm) : Statement (.fcmp f) := fun _ _ => rfl
theorem fclass (f : AForm) : Statement (.fclass f) := fun _ _ => rfl
theorem frnd (f : AForm) : Statement (.frnd f) := fun _ _ => rfl
theorem fscale (f : AForm) : Statement (.fscale f) := fun _ _ => rfl
theorem fgetexp (f : AForm) : Statement (.fgetexp f) := fun _ _ => rfl
theorem fdiv (f : AForm) : Statement (.fdiv f) := fun _ _ => rfl
theorem fsqrt (f : AForm) : Statement (.fsqrt f) := fun _ _ => rfl
theorem frcp (f : AForm) : Statement (.frcp f) := fun _ _ => rfl
theorem frsq (f : AForm) : Statement (.frsq f) := fun _ _ => rfl
theorem fex2 (f : AForm) : Statement (.fex2 f) := fun _ _ => rfl
theorem flg2 (f : AForm) : Statement (.flg2 f) := fun _ _ => rfl
theorem fexp (f : AForm) : Statement (.fexp f) := fun _ _ => rfl
theorem flog (f : AForm) : Statement (.flog f) := fun _ _ => rfl
theorem fsin (f : AForm) : Statement (.fsin f) := fun _ _ => rfl
theorem fcos (f : AForm) : Statement (.fcos f) := fun _ _ => rfl
theorem ftanh (f : AForm) : Statement (.ftanh f) := fun _ _ => rfl
theorem fsig (f : AForm) : Statement (.fsig f) := fun _ _ => rfl
theorem cvt (f : AForm) : Statement (.cvt f) := fun _ _ => rfl
theorem cvtfi (f : AForm) : Statement (.cvtfi f) := fun _ _ => rfl
theorem cvtif (f : AForm) : Statement (.cvtif f) := fun _ _ => rfl
theorem pack (f : AForm) : Statement (.pack f) := fun _ _ => rfl
theorem unpack (f : AForm) : Statement (.unpack f) := fun _ _ => rfl
theorem fdot2 (f : AForm) : Statement (.fdot2 f) := fun _ _ => rfl
theorem fdot4 (f : AForm) : Statement (.fdot4 f) := fun _ _ => rfl
theorem dadd (f : AForm) : Statement (.dadd f) := fun _ _ => rfl
theorem dmul (f : AForm) : Statement (.dmul f) := fun _ _ => rfl
theorem dfma (f : AForm) : Statement (.dfma f) := fun _ _ => rfl
theorem dmin (f : AForm) : Statement (.dmin f) := fun _ _ => rfl
theorem dmax (f : AForm) : Statement (.dmax f) := fun _ _ => rfl
theorem dcmp (f : AForm) : Statement (.dcmp f) := fun _ _ => rfl
theorem ddiv (f : AForm) : Statement (.ddiv f) := fun _ _ => rfl
theorem dsqrt (f : AForm) : Statement (.dsqrt f) := fun _ _ => rfl
theorem drcp (f : AForm) : Statement (.drcp f) := fun _ _ => rfl
theorem drsq (f : AForm) : Statement (.drsq f) := fun _ _ => rfl
theorem iset (f : AForm) : Statement (.iset f) := fun _ _ => rfl
theorem ipt (f : AForm) : Statement (.ipt f) := fun _ _ => rfl
theorem iadd (f : AForm) : Statement (.iadd f) := fun _ _ => rfl
theorem isub (f : AForm) : Statement (.isub f) := fun _ _ => rfl
theorem imul (f : AForm) : Statement (.imul f) := fun _ _ => rfl
theorem isqr (f : AForm) : Statement (.isqr f) := fun _ _ => rfl
theorem idiv (f : AForm) : Statement (.idiv f) := fun _ _ => rfl
theorem isqrt (f : AForm) : Statement (.isqrt f) := fun _ _ => rfl
theorem ihull (f : AForm) : Statement (.ihull f) := fun _ _ => rfl
theorem iisect (f : AForm) : Statement (.iisect f) := fun _ _ => rfl
theorem imid (f : AForm) : Statement (.imid f) := fun _ _ => rfl
theorem iwid (f : AForm) : Statement (.iwid f) := fun _ _ => rfl
theorem iext (f : AForm) : Statement (.iext f) := fun _ _ => rfl
theorem icmp (f : AForm) : Statement (.icmp f) := fun _ _ => rfl
theorem isplit (f : AForm) : Statement (.isplit f) := fun _ _ => rfl
theorem ibisect (f : AForm) : Statement (.ibisect f) := fun _ _ => rfl
theorem lperm (f : AForm) : Statement (.lperm f) := fun _ _ => rfl
theorem lpush (f : AForm) : Statement (.lpush f) := fun _ _ => rfl
theorem lbcast (f : AForm) : Statement (.lbcast f) := fun _ _ => rfl
theorem lmatch (f : AForm) : Statement (.lmatch f) := fun _ _ => rfl
theorem lfirst (f : AForm) : Statement (.lfirst f) := fun _ _ => rfl
theorem lcomp (f : AForm) : Statement (.lcomp f) := fun _ _ => rfl
theorem scan (f : AForm) : Statement (.scan f) := fun _ _ => rfl
theorem red (f : AForm) : Statement (.red f) := fun _ _ => rfl
theorem pand (f : AForm) : Statement (.pand f) := fun _ _ => rfl
theorem por (f : AForm) : Statement (.por f) := fun _ _ => rfl
theorem pxor (f : AForm) : Statement (.pxor f) := fun _ _ => rfl
theorem pnot (f : AForm) : Statement (.pnot f) := fun _ _ => rfl
theorem pset (f : AForm) : Statement (.pset f) := fun _ _ => rfl
theorem pmov (f : AForm) : Statement (.pmov f) := fun _ _ => rfl
theorem pcnt (f : AForm) : Statement (.pcnt f) := fun _ _ => rfl
theorem ld (f : MForm) : Statement (.ld f) := fun _ _ => rfl
theorem st (f : MForm) : Statement (.st f) := fun _ _ => rfl
theorem ldb (f : MForm) : Statement (.ldb f) := fun _ _ => rfl
theorem stb (f : MForm) : Statement (.stb f) := fun _ _ => rfl
theorem ldl (f : MForm) : Statement (.ldl f) := fun _ _ => rfl
theorem stl (f : MForm) : Statement (.stl f) := fun _ _ => rfl
theorem ldlb (f : MForm) : Statement (.ldlb f) := fun _ _ => rfl
theorem ldlx (f : MForm) : Statement (.ldlx f) := fun _ _ => rfl
theorem stlx (f : MForm) : Statement (.stlx f) := fun _ _ => rfl
theorem ldu (f : MForm) : Statement (.ldu f) := fun _ _ => rfl
theorem stu (f : MForm) : Statement (.stu f) := fun _ _ => rfl
theorem ldc (f : MForm) : Statement (.ldc f) := fun _ _ => rfl
theorem ldiv (f : MForm) : Statement (.ldiv f) := fun _ _ => rfl
theorem stiv (f : MForm) : Statement (.stiv f) := fun _ _ => rfl
theorem prf (f : MForm) : Statement (.prf f) := fun _ _ => rfl
theorem stz (f : MForm) : Statement (.stz f) := fun _ _ => rfl
theorem dsc (f : MForm) : Statement (.dsc f) := fun _ _ => rfl
theorem sdrain (f : MForm) : Statement (.sdrain f) := fun _ _ => rfl
theorem waddr (f : MForm) : Statement (.waddr f) := fun _ _ => rfl
theorem ldt (f : MForm) : Statement (.ldt f) := fun _ _ => rfl
theorem atom (f : MForm) : Statement (.atom f) := fun _ _ => rfl
theorem atomf (f : MForm) : Statement (.atomf f) := fun _ _ => rfl
theorem atomd (f : MForm) : Statement (.atomd f) := fun _ _ => rfl
theorem atomflush (f : MForm) : Statement (.atomflush f) := fun _ _ => rfl
theorem atoml (f : MForm) : Statement (.atoml f) := fun _ _ => rfl
theorem atomfl (f : MForm) : Statement (.atomfl f) := fun _ _ => rfl
theorem cas (f : MForm) : Statement (.cas f) := fun _ _ => rfl
theorem cas128 (f : MForm) : Statement (.cas128 f) := fun _ _ => rfl
theorem casl (f : MForm) : Statement (.casl f) := fun _ _ => rfl
theorem fence (f : MForm) : Statement (.fence f) := fun _ _ => rfl
theorem bar (f : MForm) : Statement (.bar f) := fun _ _ => rfl
theorem gbar (f : MForm) : Statement (.gbar f) := fun _ _ => rfl
theorem lbar (f : MForm) : Statement (.lbar f) := fun _ _ => rfl
theorem sema (f : MForm) : Statement (.sema f) := fun _ _ => rfl
theorem semv (f : MForm) : Statement (.semv f) := fun _ _ => rfl
theorem freeze (f : MForm) : Statement (.freeze f) := fun _ _ => rfl
theorem thaw (f : MForm) : Statement (.thaw f) := fun _ _ => rfl
theorem fwait (f : MForm) : Statement (.fwait f) := fun _ _ => rfl
theorem mload (f : MForm) : Statement (.mload f) := fun _ _ => rfl
theorem mswap (f : MForm) : Statement (.mswap f) := fun _ _ => rfl
theorem mmul (f : MForm) : Statement (.mmul f) := fun _ _ => rfl
theorem mgmul (f : MForm) : Statement (.mgmul f) := fun _ _ => rfl
theorem msp (f : MForm) : Statement (.msp f) := fun _ _ => rfl
theorem mgsp (f : MForm) : Statement (.mgsp f) := fun _ _ => rfl
theorem mldmeta (f : MForm) : Statement (.mldmeta f) := fun _ _ => rfl
theorem mzero (f : MForm) : Statement (.mzero f) := fun _ _ => rfl
theorem mrd (f : MForm) : Statement (.mrd f) := fun _ _ => rfl
theorem mwr (f : MForm) : Statement (.mwr f) := fun _ _ => rfl
theorem mst (f : MForm) : Statement (.mst f) := fun _ _ => rfl
theorem mred (f : MForm) : Statement (.mred f) := fun _ _ => rfl
theorem mscale (f : MForm) : Statement (.mscale f) := fun _ _ => rfl
theorem macc (f : MForm) : Statement (.macc f) := fun _ _ => rfl
theorem cpy (f : MForm) : Statement (.cpy f) := fun _ _ => rfl
theorem cpy2 (f : MForm) : Statement (.cpy2 f) := fun _ _ => rfl
theorem cpyg (f : MForm) : Statement (.cpyg f) := fun _ _ => rfl
theorem cpyd (f : MForm) : Statement (.cpyd f) := fun _ _ => rfl
theorem cpyf (f : MForm) : Statement (.cpyf f) := fun _ _ => rfl
theorem cpyr (f : MForm) : Statement (.cpyr f) := fun _ _ => rfl
theorem cpymx (f : MForm) : Statement (.cpymx f) := fun _ _ => rfl
theorem cwait (f : MForm) : Statement (.cwait f) := fun _ _ => rfl
theorem ccnt (f : MForm) : Statement (.ccnt f) := fun _ _ => rfl
theorem launchInsn (f : MForm) : Statement (.launchInsn f) := fun _ _ => rfl
theorem kwait (f : MForm) : Statement (.kwait f) := fun _ _ => rfl
theorem ktrig (f : MForm) : Statement (.ktrig f) := fun _ _ => rfl
theorem spawn (f : MForm) : Statement (.spawn f) := fun _ _ => rfl
theorem coldReset : Statement .coldReset := fun _ h => absurd rfl h
theorem warmReset : Statement .warmReset := fun _ h => absurd rfl h
theorem portReset : Statement .portReset := fun _ h => absurd rfl h
theorem functionLevelReset : Statement .functionLevelReset := fun _ h => absurd rfl h
theorem hostLinkLoss : Statement .hostLinkLoss := fun _ h => absurd rfl h
theorem prochotAssert : Statement .prochotAssert := fun _ h => absurd rfl h
theorem prochotDeassert : Statement .prochotDeassert := fun _ h => absurd rfl h
theorem thermalStep : Statement .thermalStep := fun _ h => absurd rfl h
theorem thermalTrip : Statement .thermalTrip := fun _ h => absurd rfl h
theorem capWindowEnd : Statement .capWindowEnd := fun _ h => absurd rfl h
theorem dieIdleTimeout : Statement .dieIdleTimeout := fun _ h => absurd rfl h
theorem gatingDone : Statement .gatingDone := fun _ h => absurd rfl h
theorem dieWake : Statement .dieWake := fun _ h => absurd rfl h
theorem wakingDone : Statement .wakingDone := fun _ h => absurd rfl h
theorem flitReceive : Statement .flitReceive := fun _ h => absurd rfl h
theorem ackReceive : Statement .ackReceive := fun _ h => absurd rfl h
theorem nackReceive : Statement .nackReceive := fun _ h => absurd rfl h
theorem replayTimeout : Statement .replayTimeout := fun _ h => absurd rfl h
theorem retrainStart : Statement .retrainStart := fun _ h => absurd rfl h
theorem retrainDone : Statement .retrainDone := fun _ h => absurd rfl h
theorem ulainTrained : Statement .ulainTrained := fun _ h => absurd rfl h
theorem ulainForward : Statement .ulainForward := fun _ h => absurd rfl h
theorem routerIdleTimeout : Statement .routerIdleTimeout := fun _ h => absurd rfl h
theorem routerDowningEnd : Statement .routerDowningEnd := fun _ h => absurd rfl h
theorem routerWake : Statement .routerWake := fun _ h => absurd rfl h
theorem routerWakingEnd : Statement .routerWakingEnd := fun _ h => absurd rfl h
theorem channelAccess : Statement .channelAccess := fun _ h => absurd rfl h
theorem patrolScrub : Statement .patrolScrub := fun _ h => absurd rfl h
theorem fadeDecrement : Statement .fadeDecrement := fun _ h => absurd rfl h
theorem walkComplete : Statement .walkComplete := fun _ h => absurd rfl h
theorem shootdownComplete : Statement .shootdownComplete := fun _ h => absurd rfl h
theorem storeCommit : Statement .storeCommit := fun _ h => absurd rfl h
theorem storeFault : Statement .storeFault := fun _ h => absurd rfl h
theorem loadDataReturn : Statement .loadDataReturn := fun _ h => absurd rfl h
theorem rdRequest : Statement .rdRequest := fun _ h => absurd rfl h
theorem rdxRequest : Statement .rdxRequest := fun _ h => absurd rfl h
theorem upgRequest : Statement .upgRequest := fun _ h => absurd rfl h
theorem wbRequest : Statement .wbRequest := fun _ h => absurd rfl h
theorem fwdS : Statement .fwdS := fun _ h => absurd rfl h
theorem fwdX : Statement .fwdX := fun _ h => absurd rfl h
theorem inv : Statement .inv := fun _ h => absurd rfl h
theorem pub : Statement .pub := fun _ h => absurd rfl h
theorem invAck : Statement .invAck := fun _ h => absurd rfl h
theorem upgAck : Statement .upgAck := fun _ h => absurd rfl h
theorem wbAck : Statement .wbAck := fun _ h => absurd rfl h
theorem snoopResponse : Statement .snoopResponse := fun _ h => absurd rfl h
theorem dataResponse : Statement .dataResponse := fun _ h => absurd rfl h
theorem writePermissionRequest : Statement .writePermissionRequest := fun _ h => absurd rfl h
theorem maskExtension : Statement .maskExtension := fun _ h => absurd rfl h
theorem packageFailure : Statement .packageFailure := fun _ h => absurd rfl h
theorem hostRead : Statement .hostRead := fun _ h => absurd rfl h
theorem hostWrite : Statement .hostWrite := fun _ h => absurd rfl h
theorem birsp : Statement .birsp := fun _ h => absurd rfl h
theorem snpdata : Statement .snpdata := fun _ h => absurd rfl h
theorem snpinv : Statement .snpinv := fun _ h => absurd rfl h
theorem snpcur : Statement .snpcur := fun _ h => absurd rfl h
theorem hostCacheResponse : Statement .hostCacheResponse := fun _ h => absurd rfl h
theorem mt4Completion : Statement .mt4Completion := fun _ h => absurd rfl h
theorem cmdSemRead : Statement .cmdSemRead := fun _ h => absurd rfl h
theorem cmdSemRelease : Statement .cmdSemRelease := fun _ h => absurd rfl h
theorem registerWrite : Statement .registerWrite := fun _ h => absurd rfl h
theorem identify : Statement .identify := fun _ h => absurd rfl h
theorem getCaps : Statement .getCaps := fun _ h => absurd rfl h
theorem ctxCreate : Statement .ctxCreate := fun _ h => absurd rfl h
theorem ctxDestroy : Statement .ctxDestroy := fun _ h => absurd rfl h
theorem mapRegion : Statement .mapRegion := fun _ h => absurd rfl h
theorem queryMap : Statement .queryMap := fun _ h => absurd rfl h
theorem watchAttach : Statement .watchAttach := fun _ h => absurd rfl h
theorem watchDetach : Statement .watchDetach := fun _ h => absurd rfl h
theorem launch : Statement .launch := fun _ h => absurd rfl h
theorem suspend : Statement .suspend := fun _ h => absurd rfl h
theorem resume : Statement .resume := fun _ h => absurd rfl h
theorem kill : Statement .kill := fun _ h => absurd rfl h
theorem pinWindow : Statement .pinWindow := fun _ h => absurd rfl h
theorem unpinWindow : Statement .unpinWindow := fun _ h => absurd rfl h
theorem freezeList : Statement .freezeList := fun _ h => absurd rfl h
theorem forceThaw : Statement .forceThaw := fun _ h => absurd rfl h
theorem errLogRead : Statement .errLogRead := fun _ h => absurd rfl h
theorem errLogClear : Statement .errLogClear := fun _ h => absurd rfl h
theorem errInject : Statement .errInject := fun _ h => absurd rfl h
theorem engineReset : Statement .engineReset := fun _ h => absurd rfl h
theorem setChip : Statement .setChip := fun _ h => absurd rfl h
theorem portEnable : Statement .portEnable := fun _ h => absurd rfl h
theorem route : Statement .route := fun _ h => absurd rfl h
theorem retrain : Statement .retrain := fun _ h => absurd rfl h
theorem query : Statement .query := fun _ h => absurd rfl h
theorem routerPm : Statement .routerPm := fun _ h => absurd rfl h
theorem powerSet : Statement .powerSet := fun _ h => absurd rfl h
theorem powerQuery : Statement .powerQuery := fun _ h => absurd rfl h
theorem attest : Statement .attest := fun _ h => absurd rfl h
theorem deviceReset : Statement .deviceReset := fun _ h => absurd rfl h
theorem engineJobDispatch : Statement .engineJobDispatch := fun _ h => absurd rfl h
theorem engineRowDone : Statement .engineRowDone := fun _ h => absurd rfl h
theorem engineFiltWake : Statement .engineFiltWake := fun _ h => absurd rfl h
theorem engineJobDone : Statement .engineJobDone := fun _ h => absurd rfl h
theorem mediaFatal : Statement .mediaFatal := fun _ h => absurd rfl h
theorem dpcStatusClear : Statement .dpcStatusClear := fun _ h => absurd rfl h
theorem triggerDispatch : Statement .triggerDispatch := fun _ h => absurd rfl h
theorem sweepScan : Statement .sweepScan := fun _ h => absurd rfl h
theorem blockAdmission : Statement .blockAdmission := fun _ h => absurd rfl h
theorem spawnPlacement : Statement .spawnPlacement := fun _ h => absurd rfl h
theorem priorityAging : Statement .priorityAging := fun _ h => absurd rfl h
theorem preemption : Statement .preemption := fun _ h => absurd rfl h
theorem registerBoundDiscard : Statement .registerBoundDiscard := fun _ h => absurd rfl h
theorem promotion : Statement .promotion := fun _ h => absurd rfl h
theorem yieldTimeout : Statement .yieldTimeout := fun _ h => absurd rfl h
theorem waddrTimeout : Statement .waddrTimeout := fun _ h => absurd rfl h
theorem sfrqTrap : Statement .sfrqTrap := fun _ h => absurd rfl h
theorem engineFaultTrap : Statement .engineFaultTrap := fun _ h => absurd rfl h
theorem matrixEngineStep : Statement .matrixEngineStep := fun _ h => absurd rfl h
theorem copyComplete : Statement .copyComplete := fun _ h => absurd rfl h
theorem launchAccepted : Statement .launchAccepted := fun _ h => absurd rfl h
theorem freezeComplete : Statement .freezeComplete := fun _ h => absurd rfl h
theorem thawComplete : Statement .thawComplete := fun _ h => absurd rfl h
theorem hostLinkUp : Statement .hostLinkUp := fun _ h => absurd rfl h
theorem internalFatal : Statement .internalFatal := fun _ h => absurd rfl h
theorem copyMatrixEngineReset : Statement .copyMatrixEngineReset := fun _ h => absurd rfl h

end Sys2Proof.Laws.FormInstr
end

