-- ==== Sys2Proof/Laws/State.lean ====
section
/-! SUPPORT. What each update of the state leaves alone: one lemma for each field and update, true by definition. -/

namespace Sys2Proof.Machine

/-! ### `updHatch` -/

@[simp] theorem State.updHatch_pkg (s : State) (i : Nat) (f : Hatch → Hatch) : (s.updHatch i f).pkg = s.pkg := rfl
@[simp] theorem State.updHatch_dies (s : State) (i : Nat) (f : Hatch → Hatch) : (s.updHatch i f).dies = s.dies := rfl
@[simp] theorem State.updHatch_fab (s : State) (i : Nat) (f : Hatch → Hatch) : (s.updHatch i f).fab = s.fab := rfl
@[simp] theorem State.updHatch_mem (s : State) (i : Nat) (f : Hatch → Hatch) : (s.updHatch i f).mem = s.mem := rfl
@[simp] theorem State.updHatch_slices (s : State) (i : Nat) (f : Hatch → Hatch) : (s.updHatch i f).slices = s.slices := rfl
@[simp] theorem State.updHatch_poison (s : State) (i : Nat) (f : Hatch → Hatch) : (s.updHatch i f).poison = s.poison := rfl
@[simp] theorem State.updHatch_ecc1 (s : State) (i : Nat) (f : Hatch → Hatch) : (s.updHatch i f).ecc1 = s.ecc1 := rfl
@[simp] theorem State.updHatch_slicePoison (s : State) (i : Nat) (f : Hatch → Hatch) : (s.updHatch i f).slicePoison = s.slicePoison := rfl
@[simp] theorem State.updHatch_ms (s : State) (i : Nat) (f : Hatch → Hatch) : (s.updHatch i f).ms = s.ms := rfl
@[simp] theorem State.updHatch_tr (s : State) (i : Nat) (f : Hatch → Hatch) : (s.updHatch i f).tr = s.tr := rfl
@[simp] theorem State.updHatch_coh (s : State) (i : Nat) (f : Hatch → Hatch) : (s.updHatch i f).coh = s.coh := rfl
@[simp] theorem State.updHatch_host (s : State) (i : Nat) (f : Hatch → Hatch) : (s.updHatch i f).host = s.host := rfl
@[simp] theorem State.updHatch_out (s : State) (i : Nat) (f : Hatch → Hatch) : (s.updHatch i f).out = s.out := rfl
@[simp] theorem State.updHatch_media (s : State) (i : Nat) (f : Hatch → Hatch) : (s.updHatch i f).media = s.media := rfl
@[simp] theorem State.updHatch_sched (s : State) (i : Nat) (f : Hatch → Hatch) : (s.updHatch i f).sched = s.sched := rfl
@[simp] theorem State.updHatch_cores (s : State) (i : Nat) (f : Hatch → Hatch) : (s.updHatch i f).cores = s.cores := rfl
@[simp] theorem State.updHatch_ops (s : State) (i : Nat) (f : Hatch → Hatch) : (s.updHatch i f).ops = s.ops := rfl
@[simp] theorem State.updHatch_freeze (s : State) (i : Nat) (f : Hatch → Hatch) : (s.updHatch i f).freeze = s.freeze := rfl
@[simp] theorem State.updHatch_clock (s : State) (i : Nat) (f : Hatch → Hatch) : (s.updHatch i f).clock = s.clock := rfl
@[simp] theorem State.updHatch_arg (s : State) (i : Nat) (f : Hatch → Hatch) : (s.updHatch i f).arg = s.arg := rfl
@[simp] theorem State.updHatch_inbox (s : State) (i : Nat) (f : Hatch → Hatch) : (s.updHatch i f).inbox = s.inbox := rfl
@[simp] theorem State.updHatch_turns (s : State) (i : Nat) (f : Hatch → Hatch) : (s.updHatch i f).turns = s.turns := rfl
@[simp] theorem State.updHatch_net (s : State) (i : Nat) (f : Hatch → Hatch) : (s.updHatch i f).net = s.net := rfl
@[simp] theorem State.updHatch_parked (s : State) (i : Nat) (f : Hatch → Hatch) : (s.updHatch i f).parked = s.parked := rfl
@[simp] theorem State.updHatch_cur (s : State) (i : Nat) (f : Hatch → Hatch) : (s.updHatch i f).cur = s.cur := rfl
@[simp] theorem State.updHatch_pipe (s : State) (i : Nat) (f : Hatch → Hatch) : (s.updHatch i f).pipe = s.pipe := rfl
@[simp] theorem State.updHatch_stalled (s : State) (i : Nat) (f : Hatch → Hatch) : (s.updHatch i f).stalled = s.stalled := rfl
@[simp] theorem State.updHatch_dry (s : State) (i : Nat) (f : Hatch → Hatch) : (s.updHatch i f).dry = s.dry := rfl
@[simp] theorem State.updHatch_draws (s : State) (i : Nat) (f : Hatch → Hatch) : (s.updHatch i f).draws = s.draws := rfl
@[simp] theorem State.updHatch_nextId (s : State) (i : Nat) (f : Hatch → Hatch) : (s.updHatch i f).nextId = s.nextId := rfl
@[simp] theorem State.updHatch_wants (s : State) (i : Nat) (f : Hatch → Hatch) : (s.updHatch i f).wants = s.wants := rfl

/-! ### `updPath` -/

@[simp] theorem State.updPath_pkg (s : State) (i k : Nat) (f : Path → Path) : (s.updPath i k f).pkg = s.pkg := rfl
@[simp] theorem State.updPath_dies (s : State) (i k : Nat) (f : Path → Path) : (s.updPath i k f).dies = s.dies := rfl
@[simp] theorem State.updPath_fab (s : State) (i k : Nat) (f : Path → Path) : (s.updPath i k f).fab = s.fab := rfl
@[simp] theorem State.updPath_mem (s : State) (i k : Nat) (f : Path → Path) : (s.updPath i k f).mem = s.mem := rfl
@[simp] theorem State.updPath_slices (s : State) (i k : Nat) (f : Path → Path) : (s.updPath i k f).slices = s.slices := rfl
@[simp] theorem State.updPath_poison (s : State) (i k : Nat) (f : Path → Path) : (s.updPath i k f).poison = s.poison := rfl
@[simp] theorem State.updPath_ecc1 (s : State) (i k : Nat) (f : Path → Path) : (s.updPath i k f).ecc1 = s.ecc1 := rfl
@[simp] theorem State.updPath_slicePoison (s : State) (i k : Nat) (f : Path → Path) : (s.updPath i k f).slicePoison = s.slicePoison := rfl
@[simp] theorem State.updPath_ms (s : State) (i k : Nat) (f : Path → Path) : (s.updPath i k f).ms = s.ms := rfl
@[simp] theorem State.updPath_tr (s : State) (i k : Nat) (f : Path → Path) : (s.updPath i k f).tr = s.tr := rfl
@[simp] theorem State.updPath_coh (s : State) (i k : Nat) (f : Path → Path) : (s.updPath i k f).coh = s.coh := rfl
@[simp] theorem State.updPath_host (s : State) (i k : Nat) (f : Path → Path) : (s.updPath i k f).host = s.host := rfl
@[simp] theorem State.updPath_out (s : State) (i k : Nat) (f : Path → Path) : (s.updPath i k f).out = s.out := rfl
@[simp] theorem State.updPath_media (s : State) (i k : Nat) (f : Path → Path) : (s.updPath i k f).media = s.media := rfl
@[simp] theorem State.updPath_sched (s : State) (i k : Nat) (f : Path → Path) : (s.updPath i k f).sched = s.sched := rfl
@[simp] theorem State.updPath_cores (s : State) (i k : Nat) (f : Path → Path) : (s.updPath i k f).cores = s.cores := rfl
@[simp] theorem State.updPath_ops (s : State) (i k : Nat) (f : Path → Path) : (s.updPath i k f).ops = s.ops := rfl
@[simp] theorem State.updPath_freeze (s : State) (i k : Nat) (f : Path → Path) : (s.updPath i k f).freeze = s.freeze := rfl
@[simp] theorem State.updPath_clock (s : State) (i k : Nat) (f : Path → Path) : (s.updPath i k f).clock = s.clock := rfl
@[simp] theorem State.updPath_arg (s : State) (i k : Nat) (f : Path → Path) : (s.updPath i k f).arg = s.arg := rfl
@[simp] theorem State.updPath_inbox (s : State) (i k : Nat) (f : Path → Path) : (s.updPath i k f).inbox = s.inbox := rfl
@[simp] theorem State.updPath_turns (s : State) (i k : Nat) (f : Path → Path) : (s.updPath i k f).turns = s.turns := rfl
@[simp] theorem State.updPath_net (s : State) (i k : Nat) (f : Path → Path) : (s.updPath i k f).net = s.net := rfl
@[simp] theorem State.updPath_parked (s : State) (i k : Nat) (f : Path → Path) : (s.updPath i k f).parked = s.parked := rfl
@[simp] theorem State.updPath_cur (s : State) (i k : Nat) (f : Path → Path) : (s.updPath i k f).cur = s.cur := rfl
@[simp] theorem State.updPath_pipe (s : State) (i k : Nat) (f : Path → Path) : (s.updPath i k f).pipe = s.pipe := rfl
@[simp] theorem State.updPath_stalled (s : State) (i k : Nat) (f : Path → Path) : (s.updPath i k f).stalled = s.stalled := rfl
@[simp] theorem State.updPath_dry (s : State) (i k : Nat) (f : Path → Path) : (s.updPath i k f).dry = s.dry := rfl
@[simp] theorem State.updPath_draws (s : State) (i k : Nat) (f : Path → Path) : (s.updPath i k f).draws = s.draws := rfl
@[simp] theorem State.updPath_nextId (s : State) (i k : Nat) (f : Path → Path) : (s.updPath i k f).nextId = s.nextId := rfl
@[simp] theorem State.updPath_wants (s : State) (i k : Nat) (f : Path → Path) : (s.updPath i k f).wants = s.wants := rfl

/-! ### `updCore` -/

@[simp] theorem State.updCore_pkg (s : State) (i : Nat) (f : Core → Core) : (s.updCore i f).pkg = s.pkg := rfl
@[simp] theorem State.updCore_dies (s : State) (i : Nat) (f : Core → Core) : (s.updCore i f).dies = s.dies := rfl
@[simp] theorem State.updCore_fab (s : State) (i : Nat) (f : Core → Core) : (s.updCore i f).fab = s.fab := rfl
@[simp] theorem State.updCore_mem (s : State) (i : Nat) (f : Core → Core) : (s.updCore i f).mem = s.mem := rfl
@[simp] theorem State.updCore_slices (s : State) (i : Nat) (f : Core → Core) : (s.updCore i f).slices = s.slices := rfl
@[simp] theorem State.updCore_poison (s : State) (i : Nat) (f : Core → Core) : (s.updCore i f).poison = s.poison := rfl
@[simp] theorem State.updCore_ecc1 (s : State) (i : Nat) (f : Core → Core) : (s.updCore i f).ecc1 = s.ecc1 := rfl
@[simp] theorem State.updCore_slicePoison (s : State) (i : Nat) (f : Core → Core) : (s.updCore i f).slicePoison = s.slicePoison := rfl
@[simp] theorem State.updCore_ms (s : State) (i : Nat) (f : Core → Core) : (s.updCore i f).ms = s.ms := rfl
@[simp] theorem State.updCore_tr (s : State) (i : Nat) (f : Core → Core) : (s.updCore i f).tr = s.tr := rfl
@[simp] theorem State.updCore_coh (s : State) (i : Nat) (f : Core → Core) : (s.updCore i f).coh = s.coh := rfl
@[simp] theorem State.updCore_host (s : State) (i : Nat) (f : Core → Core) : (s.updCore i f).host = s.host := rfl
@[simp] theorem State.updCore_out (s : State) (i : Nat) (f : Core → Core) : (s.updCore i f).out = s.out := rfl
@[simp] theorem State.updCore_media (s : State) (i : Nat) (f : Core → Core) : (s.updCore i f).media = s.media := rfl
@[simp] theorem State.updCore_sched (s : State) (i : Nat) (f : Core → Core) : (s.updCore i f).sched = s.sched := rfl
@[simp] theorem State.updCore_hatches (s : State) (i : Nat) (f : Core → Core) : (s.updCore i f).hatches = s.hatches := rfl
@[simp] theorem State.updCore_ops (s : State) (i : Nat) (f : Core → Core) : (s.updCore i f).ops = s.ops := rfl
@[simp] theorem State.updCore_freeze (s : State) (i : Nat) (f : Core → Core) : (s.updCore i f).freeze = s.freeze := rfl
@[simp] theorem State.updCore_clock (s : State) (i : Nat) (f : Core → Core) : (s.updCore i f).clock = s.clock := rfl
@[simp] theorem State.updCore_arg (s : State) (i : Nat) (f : Core → Core) : (s.updCore i f).arg = s.arg := rfl
@[simp] theorem State.updCore_inbox (s : State) (i : Nat) (f : Core → Core) : (s.updCore i f).inbox = s.inbox := rfl
@[simp] theorem State.updCore_turns (s : State) (i : Nat) (f : Core → Core) : (s.updCore i f).turns = s.turns := rfl
@[simp] theorem State.updCore_net (s : State) (i : Nat) (f : Core → Core) : (s.updCore i f).net = s.net := rfl
@[simp] theorem State.updCore_parked (s : State) (i : Nat) (f : Core → Core) : (s.updCore i f).parked = s.parked := rfl
@[simp] theorem State.updCore_cur (s : State) (i : Nat) (f : Core → Core) : (s.updCore i f).cur = s.cur := rfl
@[simp] theorem State.updCore_pipe (s : State) (i : Nat) (f : Core → Core) : (s.updCore i f).pipe = s.pipe := rfl
@[simp] theorem State.updCore_stalled (s : State) (i : Nat) (f : Core → Core) : (s.updCore i f).stalled = s.stalled := rfl
@[simp] theorem State.updCore_dry (s : State) (i : Nat) (f : Core → Core) : (s.updCore i f).dry = s.dry := rfl
@[simp] theorem State.updCore_draws (s : State) (i : Nat) (f : Core → Core) : (s.updCore i f).draws = s.draws := rfl
@[simp] theorem State.updCore_nextId (s : State) (i : Nat) (f : Core → Core) : (s.updCore i f).nextId = s.nextId := rfl
@[simp] theorem State.updCore_wants (s : State) (i : Nat) (f : Core → Core) : (s.updCore i f).wants = s.wants := rfl

/-! ### `updBlock` -/

@[simp] theorem State.updBlock_pkg (s : State) (i : Nat) (f : Block → Block) : (s.updBlock i f).pkg = s.pkg := rfl
@[simp] theorem State.updBlock_dies (s : State) (i : Nat) (f : Block → Block) : (s.updBlock i f).dies = s.dies := rfl
@[simp] theorem State.updBlock_fab (s : State) (i : Nat) (f : Block → Block) : (s.updBlock i f).fab = s.fab := rfl
@[simp] theorem State.updBlock_mem (s : State) (i : Nat) (f : Block → Block) : (s.updBlock i f).mem = s.mem := rfl
@[simp] theorem State.updBlock_slices (s : State) (i : Nat) (f : Block → Block) : (s.updBlock i f).slices = s.slices := rfl
@[simp] theorem State.updBlock_poison (s : State) (i : Nat) (f : Block → Block) : (s.updBlock i f).poison = s.poison := rfl
@[simp] theorem State.updBlock_ecc1 (s : State) (i : Nat) (f : Block → Block) : (s.updBlock i f).ecc1 = s.ecc1 := rfl
@[simp] theorem State.updBlock_slicePoison (s : State) (i : Nat) (f : Block → Block) : (s.updBlock i f).slicePoison = s.slicePoison := rfl
@[simp] theorem State.updBlock_ms (s : State) (i : Nat) (f : Block → Block) : (s.updBlock i f).ms = s.ms := rfl
@[simp] theorem State.updBlock_tr (s : State) (i : Nat) (f : Block → Block) : (s.updBlock i f).tr = s.tr := rfl
@[simp] theorem State.updBlock_coh (s : State) (i : Nat) (f : Block → Block) : (s.updBlock i f).coh = s.coh := rfl
@[simp] theorem State.updBlock_host (s : State) (i : Nat) (f : Block → Block) : (s.updBlock i f).host = s.host := rfl
@[simp] theorem State.updBlock_out (s : State) (i : Nat) (f : Block → Block) : (s.updBlock i f).out = s.out := rfl
@[simp] theorem State.updBlock_media (s : State) (i : Nat) (f : Block → Block) : (s.updBlock i f).media = s.media := rfl
@[simp] theorem State.updBlock_cores (s : State) (i : Nat) (f : Block → Block) : (s.updBlock i f).cores = s.cores := rfl
@[simp] theorem State.updBlock_hatches (s : State) (i : Nat) (f : Block → Block) : (s.updBlock i f).hatches = s.hatches := rfl
@[simp] theorem State.updBlock_ops (s : State) (i : Nat) (f : Block → Block) : (s.updBlock i f).ops = s.ops := rfl
@[simp] theorem State.updBlock_freeze (s : State) (i : Nat) (f : Block → Block) : (s.updBlock i f).freeze = s.freeze := rfl
@[simp] theorem State.updBlock_clock (s : State) (i : Nat) (f : Block → Block) : (s.updBlock i f).clock = s.clock := rfl
@[simp] theorem State.updBlock_arg (s : State) (i : Nat) (f : Block → Block) : (s.updBlock i f).arg = s.arg := rfl
@[simp] theorem State.updBlock_inbox (s : State) (i : Nat) (f : Block → Block) : (s.updBlock i f).inbox = s.inbox := rfl
@[simp] theorem State.updBlock_turns (s : State) (i : Nat) (f : Block → Block) : (s.updBlock i f).turns = s.turns := rfl
@[simp] theorem State.updBlock_net (s : State) (i : Nat) (f : Block → Block) : (s.updBlock i f).net = s.net := rfl
@[simp] theorem State.updBlock_parked (s : State) (i : Nat) (f : Block → Block) : (s.updBlock i f).parked = s.parked := rfl
@[simp] theorem State.updBlock_cur (s : State) (i : Nat) (f : Block → Block) : (s.updBlock i f).cur = s.cur := rfl
@[simp] theorem State.updBlock_pipe (s : State) (i : Nat) (f : Block → Block) : (s.updBlock i f).pipe = s.pipe := rfl
@[simp] theorem State.updBlock_stalled (s : State) (i : Nat) (f : Block → Block) : (s.updBlock i f).stalled = s.stalled := rfl
@[simp] theorem State.updBlock_dry (s : State) (i : Nat) (f : Block → Block) : (s.updBlock i f).dry = s.dry := rfl
@[simp] theorem State.updBlock_draws (s : State) (i : Nat) (f : Block → Block) : (s.updBlock i f).draws = s.draws := rfl
@[simp] theorem State.updBlock_nextId (s : State) (i : Nat) (f : Block → Block) : (s.updBlock i f).nextId = s.nextId := rfl
@[simp] theorem State.updBlock_wants (s : State) (i : Nat) (f : Block → Block) : (s.updBlock i f).wants = s.wants := rfl

/-! ### `updLaunch` -/

@[simp] theorem State.updLaunch_pkg (s : State) (i : Nat) (f : Launch → Launch) : (s.updLaunch i f).pkg = s.pkg := rfl
@[simp] theorem State.updLaunch_dies (s : State) (i : Nat) (f : Launch → Launch) : (s.updLaunch i f).dies = s.dies := rfl
@[simp] theorem State.updLaunch_fab (s : State) (i : Nat) (f : Launch → Launch) : (s.updLaunch i f).fab = s.fab := rfl
@[simp] theorem State.updLaunch_mem (s : State) (i : Nat) (f : Launch → Launch) : (s.updLaunch i f).mem = s.mem := rfl
@[simp] theorem State.updLaunch_slices (s : State) (i : Nat) (f : Launch → Launch) : (s.updLaunch i f).slices = s.slices := rfl
@[simp] theorem State.updLaunch_poison (s : State) (i : Nat) (f : Launch → Launch) : (s.updLaunch i f).poison = s.poison := rfl
@[simp] theorem State.updLaunch_ecc1 (s : State) (i : Nat) (f : Launch → Launch) : (s.updLaunch i f).ecc1 = s.ecc1 := rfl
@[simp] theorem State.updLaunch_slicePoison (s : State) (i : Nat) (f : Launch → Launch) : (s.updLaunch i f).slicePoison = s.slicePoison := rfl
@[simp] theorem State.updLaunch_ms (s : State) (i : Nat) (f : Launch → Launch) : (s.updLaunch i f).ms = s.ms := rfl
@[simp] theorem State.updLaunch_tr (s : State) (i : Nat) (f : Launch → Launch) : (s.updLaunch i f).tr = s.tr := rfl
@[simp] theorem State.updLaunch_coh (s : State) (i : Nat) (f : Launch → Launch) : (s.updLaunch i f).coh = s.coh := rfl
@[simp] theorem State.updLaunch_host (s : State) (i : Nat) (f : Launch → Launch) : (s.updLaunch i f).host = s.host := rfl
@[simp] theorem State.updLaunch_out (s : State) (i : Nat) (f : Launch → Launch) : (s.updLaunch i f).out = s.out := rfl
@[simp] theorem State.updLaunch_media (s : State) (i : Nat) (f : Launch → Launch) : (s.updLaunch i f).media = s.media := rfl
@[simp] theorem State.updLaunch_cores (s : State) (i : Nat) (f : Launch → Launch) : (s.updLaunch i f).cores = s.cores := rfl
@[simp] theorem State.updLaunch_hatches (s : State) (i : Nat) (f : Launch → Launch) : (s.updLaunch i f).hatches = s.hatches := rfl
@[simp] theorem State.updLaunch_ops (s : State) (i : Nat) (f : Launch → Launch) : (s.updLaunch i f).ops = s.ops := rfl
@[simp] theorem State.updLaunch_freeze (s : State) (i : Nat) (f : Launch → Launch) : (s.updLaunch i f).freeze = s.freeze := rfl
@[simp] theorem State.updLaunch_clock (s : State) (i : Nat) (f : Launch → Launch) : (s.updLaunch i f).clock = s.clock := rfl
@[simp] theorem State.updLaunch_arg (s : State) (i : Nat) (f : Launch → Launch) : (s.updLaunch i f).arg = s.arg := rfl
@[simp] theorem State.updLaunch_inbox (s : State) (i : Nat) (f : Launch → Launch) : (s.updLaunch i f).inbox = s.inbox := rfl
@[simp] theorem State.updLaunch_turns (s : State) (i : Nat) (f : Launch → Launch) : (s.updLaunch i f).turns = s.turns := rfl
@[simp] theorem State.updLaunch_net (s : State) (i : Nat) (f : Launch → Launch) : (s.updLaunch i f).net = s.net := rfl
@[simp] theorem State.updLaunch_parked (s : State) (i : Nat) (f : Launch → Launch) : (s.updLaunch i f).parked = s.parked := rfl
@[simp] theorem State.updLaunch_cur (s : State) (i : Nat) (f : Launch → Launch) : (s.updLaunch i f).cur = s.cur := rfl
@[simp] theorem State.updLaunch_pipe (s : State) (i : Nat) (f : Launch → Launch) : (s.updLaunch i f).pipe = s.pipe := rfl
@[simp] theorem State.updLaunch_stalled (s : State) (i : Nat) (f : Launch → Launch) : (s.updLaunch i f).stalled = s.stalled := rfl
@[simp] theorem State.updLaunch_dry (s : State) (i : Nat) (f : Launch → Launch) : (s.updLaunch i f).dry = s.dry := rfl
@[simp] theorem State.updLaunch_draws (s : State) (i : Nat) (f : Launch → Launch) : (s.updLaunch i f).draws = s.draws := rfl
@[simp] theorem State.updLaunch_nextId (s : State) (i : Nat) (f : Launch → Launch) : (s.updLaunch i f).nextId = s.nextId := rfl
@[simp] theorem State.updLaunch_wants (s : State) (i : Nat) (f : Launch → Launch) : (s.updLaunch i f).wants = s.wants := rfl

/-! ### `updWatch` -/

@[simp] theorem State.updWatch_pkg (s : State) (i : Nat) (f : Watch → Watch) : (s.updWatch i f).pkg = s.pkg := rfl
@[simp] theorem State.updWatch_dies (s : State) (i : Nat) (f : Watch → Watch) : (s.updWatch i f).dies = s.dies := rfl
@[simp] theorem State.updWatch_fab (s : State) (i : Nat) (f : Watch → Watch) : (s.updWatch i f).fab = s.fab := rfl
@[simp] theorem State.updWatch_mem (s : State) (i : Nat) (f : Watch → Watch) : (s.updWatch i f).mem = s.mem := rfl
@[simp] theorem State.updWatch_slices (s : State) (i : Nat) (f : Watch → Watch) : (s.updWatch i f).slices = s.slices := rfl
@[simp] theorem State.updWatch_poison (s : State) (i : Nat) (f : Watch → Watch) : (s.updWatch i f).poison = s.poison := rfl
@[simp] theorem State.updWatch_ecc1 (s : State) (i : Nat) (f : Watch → Watch) : (s.updWatch i f).ecc1 = s.ecc1 := rfl
@[simp] theorem State.updWatch_slicePoison (s : State) (i : Nat) (f : Watch → Watch) : (s.updWatch i f).slicePoison = s.slicePoison := rfl
@[simp] theorem State.updWatch_ms (s : State) (i : Nat) (f : Watch → Watch) : (s.updWatch i f).ms = s.ms := rfl
@[simp] theorem State.updWatch_tr (s : State) (i : Nat) (f : Watch → Watch) : (s.updWatch i f).tr = s.tr := rfl
@[simp] theorem State.updWatch_coh (s : State) (i : Nat) (f : Watch → Watch) : (s.updWatch i f).coh = s.coh := rfl
@[simp] theorem State.updWatch_host (s : State) (i : Nat) (f : Watch → Watch) : (s.updWatch i f).host = s.host := rfl
@[simp] theorem State.updWatch_out (s : State) (i : Nat) (f : Watch → Watch) : (s.updWatch i f).out = s.out := rfl
@[simp] theorem State.updWatch_media (s : State) (i : Nat) (f : Watch → Watch) : (s.updWatch i f).media = s.media := rfl
@[simp] theorem State.updWatch_cores (s : State) (i : Nat) (f : Watch → Watch) : (s.updWatch i f).cores = s.cores := rfl
@[simp] theorem State.updWatch_hatches (s : State) (i : Nat) (f : Watch → Watch) : (s.updWatch i f).hatches = s.hatches := rfl
@[simp] theorem State.updWatch_ops (s : State) (i : Nat) (f : Watch → Watch) : (s.updWatch i f).ops = s.ops := rfl
@[simp] theorem State.updWatch_freeze (s : State) (i : Nat) (f : Watch → Watch) : (s.updWatch i f).freeze = s.freeze := rfl
@[simp] theorem State.updWatch_clock (s : State) (i : Nat) (f : Watch → Watch) : (s.updWatch i f).clock = s.clock := rfl
@[simp] theorem State.updWatch_arg (s : State) (i : Nat) (f : Watch → Watch) : (s.updWatch i f).arg = s.arg := rfl
@[simp] theorem State.updWatch_inbox (s : State) (i : Nat) (f : Watch → Watch) : (s.updWatch i f).inbox = s.inbox := rfl
@[simp] theorem State.updWatch_turns (s : State) (i : Nat) (f : Watch → Watch) : (s.updWatch i f).turns = s.turns := rfl
@[simp] theorem State.updWatch_net (s : State) (i : Nat) (f : Watch → Watch) : (s.updWatch i f).net = s.net := rfl
@[simp] theorem State.updWatch_parked (s : State) (i : Nat) (f : Watch → Watch) : (s.updWatch i f).parked = s.parked := rfl
@[simp] theorem State.updWatch_cur (s : State) (i : Nat) (f : Watch → Watch) : (s.updWatch i f).cur = s.cur := rfl
@[simp] theorem State.updWatch_pipe (s : State) (i : Nat) (f : Watch → Watch) : (s.updWatch i f).pipe = s.pipe := rfl
@[simp] theorem State.updWatch_stalled (s : State) (i : Nat) (f : Watch → Watch) : (s.updWatch i f).stalled = s.stalled := rfl
@[simp] theorem State.updWatch_dry (s : State) (i : Nat) (f : Watch → Watch) : (s.updWatch i f).dry = s.dry := rfl
@[simp] theorem State.updWatch_draws (s : State) (i : Nat) (f : Watch → Watch) : (s.updWatch i f).draws = s.draws := rfl
@[simp] theorem State.updWatch_nextId (s : State) (i : Nat) (f : Watch → Watch) : (s.updWatch i f).nextId = s.nextId := rfl
@[simp] theorem State.updWatch_wants (s : State) (i : Nat) (f : Watch → Watch) : (s.updWatch i f).wants = s.wants := rfl

/-! ### `updOp` -/

@[simp] theorem State.updOp_pkg (s : State) (i : Nat) (f : Op → Op) : (s.updOp i f).pkg = s.pkg := rfl
@[simp] theorem State.updOp_dies (s : State) (i : Nat) (f : Op → Op) : (s.updOp i f).dies = s.dies := rfl
@[simp] theorem State.updOp_fab (s : State) (i : Nat) (f : Op → Op) : (s.updOp i f).fab = s.fab := rfl
@[simp] theorem State.updOp_mem (s : State) (i : Nat) (f : Op → Op) : (s.updOp i f).mem = s.mem := rfl
@[simp] theorem State.updOp_slices (s : State) (i : Nat) (f : Op → Op) : (s.updOp i f).slices = s.slices := rfl
@[simp] theorem State.updOp_poison (s : State) (i : Nat) (f : Op → Op) : (s.updOp i f).poison = s.poison := rfl
@[simp] theorem State.updOp_ecc1 (s : State) (i : Nat) (f : Op → Op) : (s.updOp i f).ecc1 = s.ecc1 := rfl
@[simp] theorem State.updOp_slicePoison (s : State) (i : Nat) (f : Op → Op) : (s.updOp i f).slicePoison = s.slicePoison := rfl
@[simp] theorem State.updOp_ms (s : State) (i : Nat) (f : Op → Op) : (s.updOp i f).ms = s.ms := rfl
@[simp] theorem State.updOp_tr (s : State) (i : Nat) (f : Op → Op) : (s.updOp i f).tr = s.tr := rfl
@[simp] theorem State.updOp_coh (s : State) (i : Nat) (f : Op → Op) : (s.updOp i f).coh = s.coh := rfl
@[simp] theorem State.updOp_host (s : State) (i : Nat) (f : Op → Op) : (s.updOp i f).host = s.host := rfl
@[simp] theorem State.updOp_out (s : State) (i : Nat) (f : Op → Op) : (s.updOp i f).out = s.out := rfl
@[simp] theorem State.updOp_media (s : State) (i : Nat) (f : Op → Op) : (s.updOp i f).media = s.media := rfl
@[simp] theorem State.updOp_sched (s : State) (i : Nat) (f : Op → Op) : (s.updOp i f).sched = s.sched := rfl
@[simp] theorem State.updOp_cores (s : State) (i : Nat) (f : Op → Op) : (s.updOp i f).cores = s.cores := rfl
@[simp] theorem State.updOp_hatches (s : State) (i : Nat) (f : Op → Op) : (s.updOp i f).hatches = s.hatches := rfl
@[simp] theorem State.updOp_freeze (s : State) (i : Nat) (f : Op → Op) : (s.updOp i f).freeze = s.freeze := rfl
@[simp] theorem State.updOp_clock (s : State) (i : Nat) (f : Op → Op) : (s.updOp i f).clock = s.clock := rfl
@[simp] theorem State.updOp_arg (s : State) (i : Nat) (f : Op → Op) : (s.updOp i f).arg = s.arg := rfl
@[simp] theorem State.updOp_inbox (s : State) (i : Nat) (f : Op → Op) : (s.updOp i f).inbox = s.inbox := rfl
@[simp] theorem State.updOp_turns (s : State) (i : Nat) (f : Op → Op) : (s.updOp i f).turns = s.turns := rfl
@[simp] theorem State.updOp_net (s : State) (i : Nat) (f : Op → Op) : (s.updOp i f).net = s.net := rfl
@[simp] theorem State.updOp_parked (s : State) (i : Nat) (f : Op → Op) : (s.updOp i f).parked = s.parked := rfl
@[simp] theorem State.updOp_cur (s : State) (i : Nat) (f : Op → Op) : (s.updOp i f).cur = s.cur := rfl
@[simp] theorem State.updOp_pipe (s : State) (i : Nat) (f : Op → Op) : (s.updOp i f).pipe = s.pipe := rfl
@[simp] theorem State.updOp_stalled (s : State) (i : Nat) (f : Op → Op) : (s.updOp i f).stalled = s.stalled := rfl
@[simp] theorem State.updOp_dry (s : State) (i : Nat) (f : Op → Op) : (s.updOp i f).dry = s.dry := rfl
@[simp] theorem State.updOp_draws (s : State) (i : Nat) (f : Op → Op) : (s.updOp i f).draws = s.draws := rfl
@[simp] theorem State.updOp_nextId (s : State) (i : Nat) (f : Op → Op) : (s.updOp i f).nextId = s.nextId := rfl
@[simp] theorem State.updOp_wants (s : State) (i : Nat) (f : Op → Op) : (s.updOp i f).wants = s.wants := rfl

/-! ### `dropOp` -/

@[simp] theorem State.dropOp_pkg (s : State) (i : Nat) : (s.dropOp i).pkg = s.pkg := rfl
@[simp] theorem State.dropOp_dies (s : State) (i : Nat) : (s.dropOp i).dies = s.dies := rfl
@[simp] theorem State.dropOp_fab (s : State) (i : Nat) : (s.dropOp i).fab = s.fab := rfl
@[simp] theorem State.dropOp_mem (s : State) (i : Nat) : (s.dropOp i).mem = s.mem := rfl
@[simp] theorem State.dropOp_slices (s : State) (i : Nat) : (s.dropOp i).slices = s.slices := rfl
@[simp] theorem State.dropOp_poison (s : State) (i : Nat) : (s.dropOp i).poison = s.poison := rfl
@[simp] theorem State.dropOp_ecc1 (s : State) (i : Nat) : (s.dropOp i).ecc1 = s.ecc1 := rfl
@[simp] theorem State.dropOp_slicePoison (s : State) (i : Nat) : (s.dropOp i).slicePoison = s.slicePoison := rfl
@[simp] theorem State.dropOp_ms (s : State) (i : Nat) : (s.dropOp i).ms = s.ms := rfl
@[simp] theorem State.dropOp_tr (s : State) (i : Nat) : (s.dropOp i).tr = s.tr := rfl
@[simp] theorem State.dropOp_coh (s : State) (i : Nat) : (s.dropOp i).coh = s.coh := rfl
@[simp] theorem State.dropOp_host (s : State) (i : Nat) : (s.dropOp i).host = s.host := rfl
@[simp] theorem State.dropOp_out (s : State) (i : Nat) : (s.dropOp i).out = s.out := rfl
@[simp] theorem State.dropOp_media (s : State) (i : Nat) : (s.dropOp i).media = s.media := rfl
@[simp] theorem State.dropOp_sched (s : State) (i : Nat) : (s.dropOp i).sched = s.sched := rfl
@[simp] theorem State.dropOp_cores (s : State) (i : Nat) : (s.dropOp i).cores = s.cores := rfl
@[simp] theorem State.dropOp_hatches (s : State) (i : Nat) : (s.dropOp i).hatches = s.hatches := rfl
@[simp] theorem State.dropOp_freeze (s : State) (i : Nat) : (s.dropOp i).freeze = s.freeze := rfl
@[simp] theorem State.dropOp_clock (s : State) (i : Nat) : (s.dropOp i).clock = s.clock := rfl
@[simp] theorem State.dropOp_arg (s : State) (i : Nat) : (s.dropOp i).arg = s.arg := rfl
@[simp] theorem State.dropOp_inbox (s : State) (i : Nat) : (s.dropOp i).inbox = s.inbox := rfl
@[simp] theorem State.dropOp_turns (s : State) (i : Nat) : (s.dropOp i).turns = s.turns := rfl
@[simp] theorem State.dropOp_net (s : State) (i : Nat) : (s.dropOp i).net = s.net := rfl
@[simp] theorem State.dropOp_parked (s : State) (i : Nat) : (s.dropOp i).parked = s.parked := rfl
@[simp] theorem State.dropOp_cur (s : State) (i : Nat) : (s.dropOp i).cur = s.cur := rfl
@[simp] theorem State.dropOp_pipe (s : State) (i : Nat) : (s.dropOp i).pipe = s.pipe := rfl
@[simp] theorem State.dropOp_stalled (s : State) (i : Nat) : (s.dropOp i).stalled = s.stalled := rfl
@[simp] theorem State.dropOp_dry (s : State) (i : Nat) : (s.dropOp i).dry = s.dry := rfl
@[simp] theorem State.dropOp_draws (s : State) (i : Nat) : (s.dropOp i).draws = s.draws := rfl
@[simp] theorem State.dropOp_nextId (s : State) (i : Nat) : (s.dropOp i).nextId = s.nextId := rfl
@[simp] theorem State.dropOp_wants (s : State) (i : Nat) : (s.dropOp i).wants = s.wants := rfl

/-! ### `wake` -/

@[simp] theorem State.wake_pkg (s : State) : (s.wake).pkg = s.pkg := rfl
@[simp] theorem State.wake_dies (s : State) : (s.wake).dies = s.dies := rfl
@[simp] theorem State.wake_fab (s : State) : (s.wake).fab = s.fab := rfl
@[simp] theorem State.wake_mem (s : State) : (s.wake).mem = s.mem := rfl
@[simp] theorem State.wake_slices (s : State) : (s.wake).slices = s.slices := rfl
@[simp] theorem State.wake_poison (s : State) : (s.wake).poison = s.poison := rfl
@[simp] theorem State.wake_ecc1 (s : State) : (s.wake).ecc1 = s.ecc1 := rfl
@[simp] theorem State.wake_slicePoison (s : State) : (s.wake).slicePoison = s.slicePoison := rfl
@[simp] theorem State.wake_ms (s : State) : (s.wake).ms = s.ms := rfl
@[simp] theorem State.wake_tr (s : State) : (s.wake).tr = s.tr := rfl
@[simp] theorem State.wake_coh (s : State) : (s.wake).coh = s.coh := rfl
@[simp] theorem State.wake_host (s : State) : (s.wake).host = s.host := rfl
@[simp] theorem State.wake_out (s : State) : (s.wake).out = s.out := rfl
@[simp] theorem State.wake_media (s : State) : (s.wake).media = s.media := rfl
@[simp] theorem State.wake_sched (s : State) : (s.wake).sched = s.sched := rfl
@[simp] theorem State.wake_cores (s : State) : (s.wake).cores = s.cores := rfl
@[simp] theorem State.wake_hatches (s : State) : (s.wake).hatches = s.hatches := rfl
@[simp] theorem State.wake_ops (s : State) : (s.wake).ops = s.ops := rfl
@[simp] theorem State.wake_freeze (s : State) : (s.wake).freeze = s.freeze := rfl
@[simp] theorem State.wake_clock (s : State) : (s.wake).clock = s.clock := rfl
@[simp] theorem State.wake_arg (s : State) : (s.wake).arg = s.arg := rfl
@[simp] theorem State.wake_inbox (s : State) : (s.wake).inbox = s.inbox := rfl
@[simp] theorem State.wake_turns (s : State) : (s.wake).turns = s.turns := rfl
@[simp] theorem State.wake_cur (s : State) : (s.wake).cur = s.cur := rfl
@[simp] theorem State.wake_pipe (s : State) : (s.wake).pipe = s.pipe := rfl
@[simp] theorem State.wake_draws (s : State) : (s.wake).draws = s.draws := rfl
@[simp] theorem State.wake_nextId (s : State) : (s.wake).nextId = s.nextId := rfl
@[simp] theorem State.wake_wants (s : State) : (s.wake).wants = s.wants := rfl

/-! ### `post` -/

@[simp] theorem State.post_pkg (s : State) (i : Instr) (a : Arg) : (s.post i a).pkg = s.pkg := rfl
@[simp] theorem State.post_dies (s : State) (i : Instr) (a : Arg) : (s.post i a).dies = s.dies := rfl
@[simp] theorem State.post_fab (s : State) (i : Instr) (a : Arg) : (s.post i a).fab = s.fab := rfl
@[simp] theorem State.post_mem (s : State) (i : Instr) (a : Arg) : (s.post i a).mem = s.mem := rfl
@[simp] theorem State.post_slices (s : State) (i : Instr) (a : Arg) : (s.post i a).slices = s.slices := rfl
@[simp] theorem State.post_poison (s : State) (i : Instr) (a : Arg) : (s.post i a).poison = s.poison := rfl
@[simp] theorem State.post_ecc1 (s : State) (i : Instr) (a : Arg) : (s.post i a).ecc1 = s.ecc1 := rfl
@[simp] theorem State.post_slicePoison (s : State) (i : Instr) (a : Arg) : (s.post i a).slicePoison = s.slicePoison := rfl
@[simp] theorem State.post_ms (s : State) (i : Instr) (a : Arg) : (s.post i a).ms = s.ms := rfl
@[simp] theorem State.post_tr (s : State) (i : Instr) (a : Arg) : (s.post i a).tr = s.tr := rfl
@[simp] theorem State.post_coh (s : State) (i : Instr) (a : Arg) : (s.post i a).coh = s.coh := rfl
@[simp] theorem State.post_host (s : State) (i : Instr) (a : Arg) : (s.post i a).host = s.host := rfl
@[simp] theorem State.post_out (s : State) (i : Instr) (a : Arg) : (s.post i a).out = s.out := rfl
@[simp] theorem State.post_media (s : State) (i : Instr) (a : Arg) : (s.post i a).media = s.media := rfl
@[simp] theorem State.post_sched (s : State) (i : Instr) (a : Arg) : (s.post i a).sched = s.sched := rfl
@[simp] theorem State.post_cores (s : State) (i : Instr) (a : Arg) : (s.post i a).cores = s.cores := rfl
@[simp] theorem State.post_hatches (s : State) (i : Instr) (a : Arg) : (s.post i a).hatches = s.hatches := rfl
@[simp] theorem State.post_ops (s : State) (i : Instr) (a : Arg) : (s.post i a).ops = s.ops := rfl
@[simp] theorem State.post_freeze (s : State) (i : Instr) (a : Arg) : (s.post i a).freeze = s.freeze := rfl
@[simp] theorem State.post_clock (s : State) (i : Instr) (a : Arg) : (s.post i a).clock = s.clock := rfl
@[simp] theorem State.post_arg (s : State) (i : Instr) (a : Arg) : (s.post i a).arg = s.arg := rfl
@[simp] theorem State.post_inbox (s : State) (i : Instr) (a : Arg) : (s.post i a).inbox = s.inbox := rfl
@[simp] theorem State.post_turns (s : State) (i : Instr) (a : Arg) : (s.post i a).turns = s.turns := rfl
@[simp] theorem State.post_parked (s : State) (i : Instr) (a : Arg) : (s.post i a).parked = s.parked := rfl
@[simp] theorem State.post_cur (s : State) (i : Instr) (a : Arg) : (s.post i a).cur = s.cur := rfl
@[simp] theorem State.post_pipe (s : State) (i : Instr) (a : Arg) : (s.post i a).pipe = s.pipe := rfl
@[simp] theorem State.post_stalled (s : State) (i : Instr) (a : Arg) : (s.post i a).stalled = s.stalled := rfl
@[simp] theorem State.post_dry (s : State) (i : Instr) (a : Arg) : (s.post i a).dry = s.dry := rfl
@[simp] theorem State.post_draws (s : State) (i : Instr) (a : Arg) : (s.post i a).draws = s.draws := rfl
@[simp] theorem State.post_nextId (s : State) (i : Instr) (a : Arg) : (s.post i a).nextId = s.nextId := rfl
@[simp] theorem State.post_wants (s : State) (i : Instr) (a : Arg) : (s.post i a).wants = s.wants := rfl

/-! ### `park` -/

@[simp] theorem State.park_pkg (s : State) (i : Instr) : (s.park i).pkg = s.pkg := rfl
@[simp] theorem State.park_dies (s : State) (i : Instr) : (s.park i).dies = s.dies := rfl
@[simp] theorem State.park_fab (s : State) (i : Instr) : (s.park i).fab = s.fab := rfl
@[simp] theorem State.park_mem (s : State) (i : Instr) : (s.park i).mem = s.mem := rfl
@[simp] theorem State.park_slices (s : State) (i : Instr) : (s.park i).slices = s.slices := rfl
@[simp] theorem State.park_poison (s : State) (i : Instr) : (s.park i).poison = s.poison := rfl
@[simp] theorem State.park_ecc1 (s : State) (i : Instr) : (s.park i).ecc1 = s.ecc1 := rfl
@[simp] theorem State.park_slicePoison (s : State) (i : Instr) : (s.park i).slicePoison = s.slicePoison := rfl
@[simp] theorem State.park_ms (s : State) (i : Instr) : (s.park i).ms = s.ms := rfl
@[simp] theorem State.park_tr (s : State) (i : Instr) : (s.park i).tr = s.tr := rfl
@[simp] theorem State.park_coh (s : State) (i : Instr) : (s.park i).coh = s.coh := rfl
@[simp] theorem State.park_host (s : State) (i : Instr) : (s.park i).host = s.host := rfl
@[simp] theorem State.park_out (s : State) (i : Instr) : (s.park i).out = s.out := rfl
@[simp] theorem State.park_media (s : State) (i : Instr) : (s.park i).media = s.media := rfl
@[simp] theorem State.park_sched (s : State) (i : Instr) : (s.park i).sched = s.sched := rfl
@[simp] theorem State.park_cores (s : State) (i : Instr) : (s.park i).cores = s.cores := rfl
@[simp] theorem State.park_hatches (s : State) (i : Instr) : (s.park i).hatches = s.hatches := rfl
@[simp] theorem State.park_ops (s : State) (i : Instr) : (s.park i).ops = s.ops := rfl
@[simp] theorem State.park_freeze (s : State) (i : Instr) : (s.park i).freeze = s.freeze := rfl
@[simp] theorem State.park_clock (s : State) (i : Instr) : (s.park i).clock = s.clock := rfl
@[simp] theorem State.park_arg (s : State) (i : Instr) : (s.park i).arg = s.arg := rfl
@[simp] theorem State.park_inbox (s : State) (i : Instr) : (s.park i).inbox = s.inbox := rfl
@[simp] theorem State.park_turns (s : State) (i : Instr) : (s.park i).turns = s.turns := rfl
@[simp] theorem State.park_net (s : State) (i : Instr) : (s.park i).net = s.net := rfl
@[simp] theorem State.park_cur (s : State) (i : Instr) : (s.park i).cur = s.cur := rfl
@[simp] theorem State.park_pipe (s : State) (i : Instr) : (s.park i).pipe = s.pipe := rfl
@[simp] theorem State.park_stalled (s : State) (i : Instr) : (s.park i).stalled = s.stalled := rfl
@[simp] theorem State.park_dry (s : State) (i : Instr) : (s.park i).dry = s.dry := rfl
@[simp] theorem State.park_draws (s : State) (i : Instr) : (s.park i).draws = s.draws := rfl
@[simp] theorem State.park_nextId (s : State) (i : Instr) : (s.park i).nextId = s.nextId := rfl
@[simp] theorem State.park_wants (s : State) (i : Instr) : (s.park i).wants = s.wants := rfl

/-! ### `emit` -/

@[simp] theorem State.emit_pkg (s : State) (m : OutMsg) : (s.emit m).pkg = s.pkg := rfl
@[simp] theorem State.emit_dies (s : State) (m : OutMsg) : (s.emit m).dies = s.dies := rfl
@[simp] theorem State.emit_fab (s : State) (m : OutMsg) : (s.emit m).fab = s.fab := rfl
@[simp] theorem State.emit_mem (s : State) (m : OutMsg) : (s.emit m).mem = s.mem := rfl
@[simp] theorem State.emit_slices (s : State) (m : OutMsg) : (s.emit m).slices = s.slices := rfl
@[simp] theorem State.emit_poison (s : State) (m : OutMsg) : (s.emit m).poison = s.poison := rfl
@[simp] theorem State.emit_ecc1 (s : State) (m : OutMsg) : (s.emit m).ecc1 = s.ecc1 := rfl
@[simp] theorem State.emit_slicePoison (s : State) (m : OutMsg) : (s.emit m).slicePoison = s.slicePoison := rfl
@[simp] theorem State.emit_ms (s : State) (m : OutMsg) : (s.emit m).ms = s.ms := rfl
@[simp] theorem State.emit_tr (s : State) (m : OutMsg) : (s.emit m).tr = s.tr := rfl
@[simp] theorem State.emit_coh (s : State) (m : OutMsg) : (s.emit m).coh = s.coh := rfl
@[simp] theorem State.emit_host (s : State) (m : OutMsg) : (s.emit m).host = s.host := rfl
@[simp] theorem State.emit_media (s : State) (m : OutMsg) : (s.emit m).media = s.media := rfl
@[simp] theorem State.emit_sched (s : State) (m : OutMsg) : (s.emit m).sched = s.sched := rfl
@[simp] theorem State.emit_cores (s : State) (m : OutMsg) : (s.emit m).cores = s.cores := rfl
@[simp] theorem State.emit_hatches (s : State) (m : OutMsg) : (s.emit m).hatches = s.hatches := rfl
@[simp] theorem State.emit_ops (s : State) (m : OutMsg) : (s.emit m).ops = s.ops := rfl
@[simp] theorem State.emit_freeze (s : State) (m : OutMsg) : (s.emit m).freeze = s.freeze := rfl
@[simp] theorem State.emit_clock (s : State) (m : OutMsg) : (s.emit m).clock = s.clock := rfl
@[simp] theorem State.emit_arg (s : State) (m : OutMsg) : (s.emit m).arg = s.arg := rfl
@[simp] theorem State.emit_inbox (s : State) (m : OutMsg) : (s.emit m).inbox = s.inbox := rfl
@[simp] theorem State.emit_turns (s : State) (m : OutMsg) : (s.emit m).turns = s.turns := rfl
@[simp] theorem State.emit_net (s : State) (m : OutMsg) : (s.emit m).net = s.net := rfl
@[simp] theorem State.emit_parked (s : State) (m : OutMsg) : (s.emit m).parked = s.parked := rfl
@[simp] theorem State.emit_cur (s : State) (m : OutMsg) : (s.emit m).cur = s.cur := rfl
@[simp] theorem State.emit_pipe (s : State) (m : OutMsg) : (s.emit m).pipe = s.pipe := rfl
@[simp] theorem State.emit_stalled (s : State) (m : OutMsg) : (s.emit m).stalled = s.stalled := rfl
@[simp] theorem State.emit_dry (s : State) (m : OutMsg) : (s.emit m).dry = s.dry := rfl
@[simp] theorem State.emit_draws (s : State) (m : OutMsg) : (s.emit m).draws = s.draws := rfl
@[simp] theorem State.emit_nextId (s : State) (m : OutMsg) : (s.emit m).nextId = s.nextId := rfl
@[simp] theorem State.emit_wants (s : State) (m : OutMsg) : (s.emit m).wants = s.wants := rfl

/-! ### `fresh` -/

@[simp] theorem State.fresh_pkg (s : State) : (s.fresh.2).pkg = s.pkg := rfl
@[simp] theorem State.fresh_dies (s : State) : (s.fresh.2).dies = s.dies := rfl
@[simp] theorem State.fresh_fab (s : State) : (s.fresh.2).fab = s.fab := rfl
@[simp] theorem State.fresh_mem (s : State) : (s.fresh.2).mem = s.mem := rfl
@[simp] theorem State.fresh_slices (s : State) : (s.fresh.2).slices = s.slices := rfl
@[simp] theorem State.fresh_poison (s : State) : (s.fresh.2).poison = s.poison := rfl
@[simp] theorem State.fresh_ecc1 (s : State) : (s.fresh.2).ecc1 = s.ecc1 := rfl
@[simp] theorem State.fresh_slicePoison (s : State) : (s.fresh.2).slicePoison = s.slicePoison := rfl
@[simp] theorem State.fresh_ms (s : State) : (s.fresh.2).ms = s.ms := rfl
@[simp] theorem State.fresh_tr (s : State) : (s.fresh.2).tr = s.tr := rfl
@[simp] theorem State.fresh_coh (s : State) : (s.fresh.2).coh = s.coh := rfl
@[simp] theorem State.fresh_host (s : State) : (s.fresh.2).host = s.host := rfl
@[simp] theorem State.fresh_out (s : State) : (s.fresh.2).out = s.out := rfl
@[simp] theorem State.fresh_media (s : State) : (s.fresh.2).media = s.media := rfl
@[simp] theorem State.fresh_sched (s : State) : (s.fresh.2).sched = s.sched := rfl
@[simp] theorem State.fresh_cores (s : State) : (s.fresh.2).cores = s.cores := rfl
@[simp] theorem State.fresh_hatches (s : State) : (s.fresh.2).hatches = s.hatches := rfl
@[simp] theorem State.fresh_ops (s : State) : (s.fresh.2).ops = s.ops := rfl
@[simp] theorem State.fresh_freeze (s : State) : (s.fresh.2).freeze = s.freeze := rfl
@[simp] theorem State.fresh_clock (s : State) : (s.fresh.2).clock = s.clock := rfl
@[simp] theorem State.fresh_arg (s : State) : (s.fresh.2).arg = s.arg := rfl
@[simp] theorem State.fresh_inbox (s : State) : (s.fresh.2).inbox = s.inbox := rfl
@[simp] theorem State.fresh_turns (s : State) : (s.fresh.2).turns = s.turns := rfl
@[simp] theorem State.fresh_net (s : State) : (s.fresh.2).net = s.net := rfl
@[simp] theorem State.fresh_parked (s : State) : (s.fresh.2).parked = s.parked := rfl
@[simp] theorem State.fresh_cur (s : State) : (s.fresh.2).cur = s.cur := rfl
@[simp] theorem State.fresh_pipe (s : State) : (s.fresh.2).pipe = s.pipe := rfl
@[simp] theorem State.fresh_stalled (s : State) : (s.fresh.2).stalled = s.stalled := rfl
@[simp] theorem State.fresh_dry (s : State) : (s.fresh.2).dry = s.dry := rfl
@[simp] theorem State.fresh_draws (s : State) : (s.fresh.2).draws = s.draws := rfl
@[simp] theorem State.fresh_wants (s : State) : (s.fresh.2).wants = s.wants := rfl

/-! ### `choose` -/

@[simp] theorem State.choose_pkg (s : State) (n : Nat) : ((s.choose n).2).pkg = s.pkg := rfl
@[simp] theorem State.choose_dies (s : State) (n : Nat) : ((s.choose n).2).dies = s.dies := rfl
@[simp] theorem State.choose_fab (s : State) (n : Nat) : ((s.choose n).2).fab = s.fab := rfl
@[simp] theorem State.choose_mem (s : State) (n : Nat) : ((s.choose n).2).mem = s.mem := rfl
@[simp] theorem State.choose_slices (s : State) (n : Nat) : ((s.choose n).2).slices = s.slices := rfl
@[simp] theorem State.choose_poison (s : State) (n : Nat) : ((s.choose n).2).poison = s.poison := rfl
@[simp] theorem State.choose_ecc1 (s : State) (n : Nat) : ((s.choose n).2).ecc1 = s.ecc1 := rfl
@[simp] theorem State.choose_slicePoison (s : State) (n : Nat) : ((s.choose n).2).slicePoison = s.slicePoison := rfl
@[simp] theorem State.choose_ms (s : State) (n : Nat) : ((s.choose n).2).ms = s.ms := rfl
@[simp] theorem State.choose_tr (s : State) (n : Nat) : ((s.choose n).2).tr = s.tr := rfl
@[simp] theorem State.choose_coh (s : State) (n : Nat) : ((s.choose n).2).coh = s.coh := rfl
@[simp] theorem State.choose_host (s : State) (n : Nat) : ((s.choose n).2).host = s.host := rfl
@[simp] theorem State.choose_out (s : State) (n : Nat) : ((s.choose n).2).out = s.out := rfl
@[simp] theorem State.choose_media (s : State) (n : Nat) : ((s.choose n).2).media = s.media := rfl
@[simp] theorem State.choose_sched (s : State) (n : Nat) : ((s.choose n).2).sched = s.sched := rfl
@[simp] theorem State.choose_cores (s : State) (n : Nat) : ((s.choose n).2).cores = s.cores := rfl
@[simp] theorem State.choose_hatches (s : State) (n : Nat) : ((s.choose n).2).hatches = s.hatches := rfl
@[simp] theorem State.choose_ops (s : State) (n : Nat) : ((s.choose n).2).ops = s.ops := rfl
@[simp] theorem State.choose_freeze (s : State) (n : Nat) : ((s.choose n).2).freeze = s.freeze := rfl
@[simp] theorem State.choose_clock (s : State) (n : Nat) : ((s.choose n).2).clock = s.clock := rfl
@[simp] theorem State.choose_arg (s : State) (n : Nat) : ((s.choose n).2).arg = s.arg := rfl
@[simp] theorem State.choose_inbox (s : State) (n : Nat) : ((s.choose n).2).inbox = s.inbox := rfl
@[simp] theorem State.choose_turns (s : State) (n : Nat) : ((s.choose n).2).turns = s.turns := rfl
@[simp] theorem State.choose_net (s : State) (n : Nat) : ((s.choose n).2).net = s.net := rfl
@[simp] theorem State.choose_parked (s : State) (n : Nat) : ((s.choose n).2).parked = s.parked := rfl
@[simp] theorem State.choose_cur (s : State) (n : Nat) : ((s.choose n).2).cur = s.cur := rfl
@[simp] theorem State.choose_pipe (s : State) (n : Nat) : ((s.choose n).2).pipe = s.pipe := rfl
@[simp] theorem State.choose_stalled (s : State) (n : Nat) : ((s.choose n).2).stalled = s.stalled := rfl
@[simp] theorem State.choose_dry (s : State) (n : Nat) : ((s.choose n).2).dry = s.dry := rfl
@[simp] theorem State.choose_nextId (s : State) (n : Nat) : ((s.choose n).2).nextId = s.nextId := rfl
@[simp] theorem State.choose_wants (s : State) (n : Nat) : ((s.choose n).2).wants = s.wants := rfl

/-! ### `setChan` -/

@[simp] theorem State.setChan_pkg (s : State) (i : Nat) (c : Channel) : (s.setChan i c).pkg = s.pkg := rfl
@[simp] theorem State.setChan_dies (s : State) (i : Nat) (c : Channel) : (s.setChan i c).dies = s.dies := rfl
@[simp] theorem State.setChan_fab (s : State) (i : Nat) (c : Channel) : (s.setChan i c).fab = s.fab := rfl
@[simp] theorem State.setChan_mem (s : State) (i : Nat) (c : Channel) : (s.setChan i c).mem = s.mem := rfl
@[simp] theorem State.setChan_slices (s : State) (i : Nat) (c : Channel) : (s.setChan i c).slices = s.slices := rfl
@[simp] theorem State.setChan_poison (s : State) (i : Nat) (c : Channel) : (s.setChan i c).poison = s.poison := rfl
@[simp] theorem State.setChan_ecc1 (s : State) (i : Nat) (c : Channel) : (s.setChan i c).ecc1 = s.ecc1 := rfl
@[simp] theorem State.setChan_slicePoison (s : State) (i : Nat) (c : Channel) : (s.setChan i c).slicePoison = s.slicePoison := rfl
@[simp] theorem State.setChan_tr (s : State) (i : Nat) (c : Channel) : (s.setChan i c).tr = s.tr := rfl
@[simp] theorem State.setChan_coh (s : State) (i : Nat) (c : Channel) : (s.setChan i c).coh = s.coh := rfl
@[simp] theorem State.setChan_host (s : State) (i : Nat) (c : Channel) : (s.setChan i c).host = s.host := rfl
@[simp] theorem State.setChan_out (s : State) (i : Nat) (c : Channel) : (s.setChan i c).out = s.out := rfl
@[simp] theorem State.setChan_media (s : State) (i : Nat) (c : Channel) : (s.setChan i c).media = s.media := rfl
@[simp] theorem State.setChan_sched (s : State) (i : Nat) (c : Channel) : (s.setChan i c).sched = s.sched := rfl
@[simp] theorem State.setChan_cores (s : State) (i : Nat) (c : Channel) : (s.setChan i c).cores = s.cores := rfl
@[simp] theorem State.setChan_hatches (s : State) (i : Nat) (c : Channel) : (s.setChan i c).hatches = s.hatches := rfl
@[simp] theorem State.setChan_ops (s : State) (i : Nat) (c : Channel) : (s.setChan i c).ops = s.ops := rfl
@[simp] theorem State.setChan_freeze (s : State) (i : Nat) (c : Channel) : (s.setChan i c).freeze = s.freeze := rfl
@[simp] theorem State.setChan_clock (s : State) (i : Nat) (c : Channel) : (s.setChan i c).clock = s.clock := rfl
@[simp] theorem State.setChan_arg (s : State) (i : Nat) (c : Channel) : (s.setChan i c).arg = s.arg := rfl
@[simp] theorem State.setChan_inbox (s : State) (i : Nat) (c : Channel) : (s.setChan i c).inbox = s.inbox := rfl
@[simp] theorem State.setChan_turns (s : State) (i : Nat) (c : Channel) : (s.setChan i c).turns = s.turns := rfl
@[simp] theorem State.setChan_net (s : State) (i : Nat) (c : Channel) : (s.setChan i c).net = s.net := rfl
@[simp] theorem State.setChan_parked (s : State) (i : Nat) (c : Channel) : (s.setChan i c).parked = s.parked := rfl
@[simp] theorem State.setChan_cur (s : State) (i : Nat) (c : Channel) : (s.setChan i c).cur = s.cur := rfl
@[simp] theorem State.setChan_pipe (s : State) (i : Nat) (c : Channel) : (s.setChan i c).pipe = s.pipe := rfl
@[simp] theorem State.setChan_stalled (s : State) (i : Nat) (c : Channel) : (s.setChan i c).stalled = s.stalled := rfl
@[simp] theorem State.setChan_dry (s : State) (i : Nat) (c : Channel) : (s.setChan i c).dry = s.dry := rfl
@[simp] theorem State.setChan_draws (s : State) (i : Nat) (c : Channel) : (s.setChan i c).draws = s.draws := rfl
@[simp] theorem State.setChan_nextId (s : State) (i : Nat) (c : Channel) : (s.setChan i c).nextId = s.nextId := rfl
@[simp] theorem State.setChan_wants (s : State) (i : Nat) (c : Channel) : (s.setChan i c).wants = s.wants := rfl

/-! ### `updDie` -/

@[simp] theorem State.updDie_pkg (s : State) (i : Nat) (f : Die → Die) : (s.updDie i f).pkg = s.pkg := rfl
@[simp] theorem State.updDie_fab (s : State) (i : Nat) (f : Die → Die) : (s.updDie i f).fab = s.fab := rfl
@[simp] theorem State.updDie_mem (s : State) (i : Nat) (f : Die → Die) : (s.updDie i f).mem = s.mem := rfl
@[simp] theorem State.updDie_slices (s : State) (i : Nat) (f : Die → Die) : (s.updDie i f).slices = s.slices := rfl
@[simp] theorem State.updDie_poison (s : State) (i : Nat) (f : Die → Die) : (s.updDie i f).poison = s.poison := rfl
@[simp] theorem State.updDie_ecc1 (s : State) (i : Nat) (f : Die → Die) : (s.updDie i f).ecc1 = s.ecc1 := rfl
@[simp] theorem State.updDie_slicePoison (s : State) (i : Nat) (f : Die → Die) : (s.updDie i f).slicePoison = s.slicePoison := rfl
@[simp] theorem State.updDie_ms (s : State) (i : Nat) (f : Die → Die) : (s.updDie i f).ms = s.ms := rfl
@[simp] theorem State.updDie_tr (s : State) (i : Nat) (f : Die → Die) : (s.updDie i f).tr = s.tr := rfl
@[simp] theorem State.updDie_coh (s : State) (i : Nat) (f : Die → Die) : (s.updDie i f).coh = s.coh := rfl
@[simp] theorem State.updDie_host (s : State) (i : Nat) (f : Die → Die) : (s.updDie i f).host = s.host := rfl
@[simp] theorem State.updDie_out (s : State) (i : Nat) (f : Die → Die) : (s.updDie i f).out = s.out := rfl
@[simp] theorem State.updDie_media (s : State) (i : Nat) (f : Die → Die) : (s.updDie i f).media = s.media := rfl
@[simp] theorem State.updDie_sched (s : State) (i : Nat) (f : Die → Die) : (s.updDie i f).sched = s.sched := rfl
@[simp] theorem State.updDie_cores (s : State) (i : Nat) (f : Die → Die) : (s.updDie i f).cores = s.cores := rfl
@[simp] theorem State.updDie_hatches (s : State) (i : Nat) (f : Die → Die) : (s.updDie i f).hatches = s.hatches := rfl
@[simp] theorem State.updDie_ops (s : State) (i : Nat) (f : Die → Die) : (s.updDie i f).ops = s.ops := rfl
@[simp] theorem State.updDie_freeze (s : State) (i : Nat) (f : Die → Die) : (s.updDie i f).freeze = s.freeze := rfl
@[simp] theorem State.updDie_clock (s : State) (i : Nat) (f : Die → Die) : (s.updDie i f).clock = s.clock := rfl
@[simp] theorem State.updDie_arg (s : State) (i : Nat) (f : Die → Die) : (s.updDie i f).arg = s.arg := rfl
@[simp] theorem State.updDie_inbox (s : State) (i : Nat) (f : Die → Die) : (s.updDie i f).inbox = s.inbox := rfl
@[simp] theorem State.updDie_turns (s : State) (i : Nat) (f : Die → Die) : (s.updDie i f).turns = s.turns := rfl
@[simp] theorem State.updDie_net (s : State) (i : Nat) (f : Die → Die) : (s.updDie i f).net = s.net := rfl
@[simp] theorem State.updDie_parked (s : State) (i : Nat) (f : Die → Die) : (s.updDie i f).parked = s.parked := rfl
@[simp] theorem State.updDie_cur (s : State) (i : Nat) (f : Die → Die) : (s.updDie i f).cur = s.cur := rfl
@[simp] theorem State.updDie_pipe (s : State) (i : Nat) (f : Die → Die) : (s.updDie i f).pipe = s.pipe := rfl
@[simp] theorem State.updDie_stalled (s : State) (i : Nat) (f : Die → Die) : (s.updDie i f).stalled = s.stalled := rfl
@[simp] theorem State.updDie_dry (s : State) (i : Nat) (f : Die → Die) : (s.updDie i f).dry = s.dry := rfl
@[simp] theorem State.updDie_draws (s : State) (i : Nat) (f : Die → Die) : (s.updDie i f).draws = s.draws := rfl
@[simp] theorem State.updDie_nextId (s : State) (i : Nat) (f : Die → Die) : (s.updDie i f).nextId = s.nextId := rfl
@[simp] theorem State.updDie_wants (s : State) (i : Nat) (f : Die → Die) : (s.updDie i f).wants = s.wants := rfl

end Sys2Proof.Machine
end

