-- ==== Sys2Proof/Tests/Setup.lean ====
section
/-! SUPPORT. Small machines for the tests: a hatch on core 0 that is about to run one instruction. -/

namespace Sys2Proof.Tests

open Machine

/-! ### Instructions by their fields -/

/-- An A64 instruction: D, A, B, TYPE, CTL, AUX. -/
def a64 (d a b : BitVec 8) (ty : BitVec 4 := 0) (ctl aux : BitVec 8 := 0) : AForm :=
  ⟨false, d, a, false, false, b, false, false, 0, 0, ty, ctl, false, aux, 0⟩

/-- An A96 instruction in its register form or, with B = 0xF0, its immediate form. -/
def a96 (d a b : BitVec 8) (ty : BitVec 4 := 0) (ctl aux : BitVec 8 := 0) (ext : BitVec 32 := 0) : AForm :=
  { a64 d a b ty ctl aux with len96 := true, ext := ext }

/-- A B64 instruction: A and the offset in words. -/
def b64 (a : BitVec 8) (off : BitVec 21) (d : BitVec 8 := 0) : BForm :=
  ⟨false, d, a, false, false, 0, false, false, 0, 0, off, 0⟩

/-- An M128 instruction: D, ADDR, IDX, TWF, X, imm32. -/
def m128 (d addr idx : BitVec 8) (twf : BitVec 4 := 0) (x : BitVec 8 := 0) (imm : BitVec 32 := 0) : MForm :=
  ⟨d, addr, false, false, idx, false, false, 0, 0, twf, 0, false, x, imm, 0, 0, 0, 0, false, 0⟩

/-- Scalar register n as a specifier (R282). -/
def sr (n : Nat) : BitVec 8 := BitVec.ofNat 8 (0x40 + n)

/-! ### Registers -/

/-- Vector register r holds the given lanes and zeros beyond them. -/
def vec (r : Nat) (xs : List Nat) (h : Hatch) : Hatch :=
  { h with v := h.v.set r ⟨true, 0, xs.map (BitVec.ofNat 32) ++ List.replicate (96 - xs.length) 0, []⟩ }

/-- Vector register r holds an FP32 interval in lane 0. -/
def ivl (r lo hi : Nat) (h : Hatch) : Hatch :=
  { h with v := h.v.set r ⟨true, 1, BitVec.ofNat 32 lo :: List.replicate 95 0, BitVec.ofNat 32 hi :: List.replicate 95 0⟩ }

/-- Scalars from s(r) on. -/
def sca (r : Nat) (xs : List Nat) (h : Hatch) : Hatch :=
  { h with s := (xs.zipIdx).foldl (fun l x => l.set (r + x.2) (BitVec.ofNat 32 x.1)) h.s }

/-- Predicate r holds the given codes and F beyond them. -/
def prd (r : Nat) (xs : List Tri) (h : Hatch) : Hatch :=
  { h with p := h.p.set r (xs ++ List.replicate (96 - xs.length) .f) }

/-- The path of slot 0 is changed. -/
def pathed (f : Path → Path) (h : Hatch) : Hatch := { h with slot0 := h.slot0.map f }

/-- The path's domain and mask are the first n lanes. -/
def lanesTo (n : Nat) (h : Hatch) : Hatch :=
  pathed (fun p => { p with domain := BitVec.ofNat 96 (2 ^ n - 1), mask := BitVec.ofNat 96 (2 ^ n - 1) }) h

/-- The path is a trap handler's. -/
def handling (h : Hatch) : Hatch := { pathed (fun p => { p with handler := true }) h with handler := true }

/-! ### The machine -/

/-- The page of the hatch area and of data, as core 0's TLB holds it. -/
def dataTlb : TlbEntry := progPage 0x80000 0x20000

/-- A machine in which instruction i is the next, its hatch changed by g. -/
def placed (i : Instr) (g : Hatch → Hatch := id) : State :=
  let s := (placeProgram State.reset (encode i)).updCore 0 (fun k => { k with tlb := dataTlb :: k.tlb })
  { s with hatches := s.hatches.map g }

/-- The same machine with the path chosen and its instruction fetched. -/
def issuing (i : Instr) (g : Hatch → Hatch := id) : State := { placed i g with cur := some ⟨1, 0⟩ }

def next? : Host.Outcome State Fault Refusal → Option State
  | .next t => some t
  | _ => none

/-- The state after one step of the machine that runs i. -/
def after (i : Instr) (g : Hatch → Hatch := id) : Option State := next? (step (placed i g))

/-- What one step leaves in a lane of a vector register. -/
def lane (r l : Nat) (t : Option State) : Option Nat :=
  t.bind (fun t => t.hatches.head?.map (fun h => (h.vword r l).toNat))

/-- What one step leaves in the first n lanes. -/
def lanes (r n : Nat) (t : Option State) : List (Option Nat) := (List.range n).map (fun l => lane r l t)

/-- What one step leaves in a scalar, in lane l of a predicate, and in the flags. -/
def scalar (r : Nat) (t : Option State) : Option Nat :=
  t.bind (fun t => t.hatches.head?.map (fun h => (h.s.getD r 0).toNat))

def code (r l : Nat) (t : Option State) : Option Tri := t.bind (fun t => t.hatches.head?.map (fun h => h.pcode r l))
def flags (t : Option State) : Option Nat := t.bind (fun t => t.hatches.head?.map (fun h => h.fpflags.toNat))

/-- The path of slot 0. -/
def path0 (t : Option State) : Option Path := t.bind (fun t => t.hatches.head?.bind (fun h => h.slot0))

/-- The trap that the hatch handles: code, information, lanes. -/
def trapped (t : Option State) : Option (Nat × Nat × Nat) :=
  t.bind (fun t => t.hatches.head?.bind (fun h => if h.handler then some (h.trapcode, h.trapinfo, h.trapmask.toNat) else none))

/-! ### Whether an instruction issues -/

/-- The issue of an instruction whose checks pass: what `IssuesWith` says, as a computation. -/
def issue? (pre : Iss → Pre) (gidx : BitVec 3) (gsense : BitVec 2) (s : State) : Option Iss :=
  match s.issuing with
  | none => none
  | some c => if pre c = .go then some { c with act := c.guarded gidx gsense } else none

theorem issue?_issues {pre : Iss → Pre} {gidx : BitVec 3} {gsense : BitVec 2} {s : State} {c : Iss}
    (h : issue? pre gidx gsense s = some c) : IssuesWith pre gidx gsense s c := by
  unfold issue? at h
  cases e : s.issuing with
  | none => simp [e] at h
  | some c0 =>
    by_cases p : pre c0 = .go
    · simp [e, p] at h
      exact ⟨c0, e, p, h.symm⟩
    · simp [e, p] at h

end Sys2Proof.Tests
end

