-- ==== Sys2Proof/Tests/Slice0.lean ====
section
/-! SUPPORT. Tests of single instructions. What they expect is taken from the worked examples and tables of the spec, or
worked out from its encodings. -/

namespace Sys2Proof.Tests

open Machine

set_option Elab.async false

/-! ### Well-formed instructions: each check refuses something (12 R272, R274 to R278, R291) -/

theorem test_wf_add : Instr.wf (.add (a64 4 2 6 1)) = true := by decide
theorem test_wf_event : Instr.wf .coldReset = true := by decide
/-- An upper word in a 64-bit instruction. -/
theorem test_wf_canonical : Instr.wf (.add { a64 4 2 6 1 with ext := 1 }) = false := by decide
theorem test_wf_canonical_branch : Instr.wf (.bra { b64 0 4 with ext := 1 }) = false := by decide
theorem test_wf_canonical_nop : Instr.wf (.nop .l64 (BitVec.ofNat 118 (2 ^ 54))) = false := by decide
/-- `rett` with the SUB code of `rett.retry`. -/
theorem test_wf_sub : Instr.wf (.rett (a64 0 0 0 0 0x20)) = false := by decide
/-- A length that the opcode does not take: `mad` needs 96 bits, `lfirst` takes 64. -/
theorem test_wf_length : Instr.wf (.mad (a64 4 2 6 1 0 8)) = false := by decide
theorem test_wf_length_branch : Instr.wf (.brt (b64 0xC1 4)) = false := by decide
/-- Cause 0x01: a reserved bit; 0x02: a reserved specifier; 0x03: a kind that the slot does not take. -/
theorem test_wf_reserved_bit : Instr.wf (.add { a64 4 2 6 1 with rsv := true }) = false := by decide
theorem test_wf_reserved_spec : Instr.wf (.add (a64 4 2 0xE0 1)) = false := by decide
theorem test_wf_kind : Instr.wf (.add (a64 0xC1 2 6 1)) = false := by decide
/-- Cause 0x04: an odd pair; 0x05: last use of a scalar; 0x06: a lane modifier of class 0 that is not zero. -/
theorem test_wf_pair : Instr.wf (.add64 (a64 4 3 6 0xB)) = false := by decide
theorem test_wf_last : Instr.wf (.add { a64 4 (sr 20) 6 1 with aLast := true }) = false := by decide
theorem test_wf_modifier : Instr.wf (.add (a96 4 2 6 1 0 0 1)) = false := by decide
/-- Cause 0x07: a type; 0x08: a rounding code; 0x0E: a guard index without a sense. -/
theorem test_wf_type : Instr.wf (.fadd (a64 4 2 6 1)) = false := by decide
theorem test_wf_rounding : Instr.wf (.fadd (a64 4 2 6 7 4)) = false := by decide
theorem test_wf_guard : Instr.wf (.add { a64 4 2 6 1 with gidx := 1 }) = false := by decide
/-- Cause 0x11: IMM where there is no immediate; 0x12: a scalar destination with a vector source; 0x13: a write to s3. -/
theorem test_wf_imm : Instr.wf (.add (a64 4 2 0xF0 1)) = false := by decide
theorem test_wf_scalar_dst : Instr.wf (.add (a64 (sr 20) 2 6 1)) = false := by decide
theorem test_wf_s3 : Instr.wf (.add (a64 (sr 3) (sr 4) (sr 5) 1)) = false := by decide
/-- The memory form: 0x09 a scope, 0x0B a hint, 0x0C a counter class, 0x0D a completion word. -/
theorem test_wf_ld : Instr.wf (.ld { m128 4 (sr 20) 0xD1 4 with cnt := 2 }) = true := by decide
theorem test_wf_scope : Instr.wf (.fence { m128 0 0 0 with scope := 5, ord := 3 }) = false := by decide
theorem test_wf_hint : Instr.wf (.ld { m128 4 (sr 20) 0xD1 4 with cnt := 2, hint := 7 }) = false := by decide
theorem test_wf_counter_bad : Instr.wf (.ld { m128 4 (sr 20) 0xD1 4 with cnt := 1 }) = false := by decide
theorem test_wf_completion : Instr.wf (.ld { m128 4 (sr 20) 0xD1 4 with cnt := 2, cwe := true }) = false := by decide
theorem test_wf_acc : (mFieldFault ⟨false, 2, false⟩ 0xCC (m128 0xCA 0 0)).map (·.cause) = some 0x10 := by decide

/-! ### Words written out from the encodings of the spec -/

/-- 15 R340: `fadd.f32.rup v3, v1, 1.5`. -/
theorem test_decode_fadd : decodeWord 0x3FC000000001B80F00040D4D = .ok (.fadd (a96 3 1 0xF0 7 3 0 0x3FC00000)) := by decide
/-- 14 R327: `bitf.b32 v4, v1, v2, v3, 0x8, 0xE`. -/
theorem test_decode_bitf : decode [0xDD, 0x10, 0x04, 0x20, 0x00, 0x00, 0x47, 0x03, 0x00, 0x00, 0x00, 0x00] =
    .ok (.bitf (a96 4 1 2 0 0x8E 3), []) := by decide
/-- 16: `iisect.p` into v4 and p3. -/
theorem test_decode_iisect : decodeWord 0x0340380020041224 = .ok (.iisect (a64 4 1 2 7 0x80 3)) := by decide
/-- 13: `loop s20` over ten words. -/
theorem test_decode_loop : decodeWord 0x0000500001500030 = .ok (.loop (b64 (sr 20) 10)) := by decide
/-- 13: `pad 7`. -/
theorem test_decode_pad : decodeWord 0x0700000000000020 = .ok (.pad (a64 0 0 0 0 0 7)) := by decide
/-- 17 R374: `st` of a 32-bit word. -/
theorem test_decode_st : decodeWord 0x00000200000000000080201021100682 = .ok (.st { m128 1 (sr 4) 2 4 with ixLast := true, dLast := true, cnt := 2 }) := by decide
/-- 17 R389: an atomic by its bytes in memory. -/
theorem test_decode_atom : decode [0xCE, 0x22, 0x10, 0x21, 0x00, 0x08, 0x00, 0x03, 0x10, 0x00, 0x00, 0x00, 0x1A, 0x02,
    0x00, 0x00] = .ok (.atom { m128 8 (sr 4) 2 1 3 0x10 with scope := 2, ord := 3, cnt := 2 }, []) := by decide
/-- 18: `mmul.fp8e4m3` by its bytes in memory. -/
theorem test_decode_mmul : decode [0x1E, 0x27, 0x53, 0x11, 0x0D, 0x10, 0x00, 0x55, 0x00, 0x01, 0x00, 0x00, 0x00, 0x01,
    0x00, 0x00] = .ok (.mmul { m128 0xC9 (sr 20) 0xD1 2 (sr 21) 0x100 with cnt := 1 }, []) := by decide
/-- System controls, lanes and predicates, synchronisation, copies and launches, put together from R274 and R278: OPC in bits
[9:2], DST or D in [17:10], SRCA or ADDR in [25:18], SRCB or IDX in [35:28], TYPE or TWF in [46:43], SUB in [54:52], AUX or X in
[63:56], imm32 in [95:64], CNT in [105:104]. -/
theorem test_decode_vote : decodeWord (BitVec.ofNat 128 (0x19 * 2 ^ 2 + 0x40 * 2 ^ 10 + 0xC1 * 2 ^ 18 + 4 * 2 ^ 52)) =
    .ok (.vote (a64 (sr 0) 0xC1 0 0 0x80)) := by decide
theorem test_decode_lperm : decodeWord (BitVec.ofNat 128 (0x90 * 2 ^ 2 + 4 * 2 ^ 10 + 2 * 2 ^ 18 + 6 * 2 ^ 28)) =
    .ok (.lperm (a64 4 2 6)) := by decide
theorem test_decode_pand : decodeWord (BitVec.ofNat 128 (0x98 * 2 ^ 2 + 0xC1 * 2 ^ 10 + 0xC2 * 2 ^ 18 + 0xC3 * 2 ^ 28)) =
    .ok (.pand (a64 0xC1 0xC2 0xC3)) := by decide
theorem test_decode_bar : decodeWord (BitVec.ofNat 128 (2 + 0xBD * 2 ^ 2 + 0x60 * 2 ^ 10)) = .ok (.bar (m128 (sr 32) 0 0)) := by decide
theorem test_decode_cpy : decodeWord (BitVec.ofNat 128 (2 + 0xD3 * 2 ^ 2 + 0x54 * 2 ^ 18 + 0x5C * 2 ^ 28 + 0x58 * 2 ^ 56)) =
    .ok (.cpy (m128 0 (sr 20) (sr 28) 0 (sr 24))) := by decide
theorem test_decode_launch : decodeWord (BitVec.ofNat 128 (2 + 0xDC * 2 ^ 2 + 0x60 * 2 ^ 10 + 0x54 * 2 ^ 18 + 8 * 2 ^ 64 + 3 * 2 ^ 104)) =
    .ok (.launchInsn { m128 (sr 32) (sr 20) 0 0 0 8 with cnt := 3 }) := by decide
/-- R269, R272, R290: words that are no instruction. -/
theorem test_decode_length_code : decodeWord 3 = .error .lengthCode := by decide
theorem test_decode_opcode : decodeWord (BitVec.ofNat 128 (0xE0 * 4)) = .error .opcode := by decide
theorem test_decode_ld_short : decodeWord (BitVec.ofNat 128 (0x9F * 4)) = .error .length := by decide
/-- R269: the bytes of `pad 7` and what follows them. -/
theorem test_encode_pad : encode (.pad (a64 0 0 0 0 0 7)) = [0x20, 0, 0, 0, 0, 0, 0, 7] := by decide
theorem test_decode_truncated : decode [0x20, 0, 0, 0] = .error .truncated := by decide

/-! ### Integer instructions: examples of 14 -/

/-- R324: `addc.n32.cz v4, v0, v2, p1` of 0xFFFF_FFFF and 1 gives 0 and a carry; the next step adds it to 1 and 2. -/
theorem test_addc : let t := after (.addc (a64 4 0 2 1 0x20 1)) (vec 0 [0xFFFFFFFF] ∘ vec 2 [1])
    lane 4 0 t = some 0 ∧ code 1 0 t = some .t := by decide +kernel
theorem test_addc_chain : let t := after (.addc (a64 5 1 3 1 0 1)) (vec 1 [1] ∘ vec 3 [2] ∘ prd 1 [.t])
    lane 5 0 t = some 4 ∧ code 1 0 t = some .f := by decide +kernel
theorem test_subb : let t := after (.subb (a64 4 0 2 1 0x20 1)) (vec 0 [1] ∘ vec 2 [2])
    lane 4 0 t = some 0xFFFFFFFF ∧ code 1 0 t = some .t := by decide +kernel
/-- R323, R227: the largest i32 plus 1 wraps, and saturates with `.sat`. -/
theorem test_add_wraps : lane 4 0 (after (.add (a64 4 0 2 2)) (vec 0 [0x7FFFFFFF] ∘ vec 2 [1])) = some 0x80000000 := by decide +kernel
theorem test_add_sat : lane 4 0 (after (.add (a64 4 0 2 2 8)) (vec 0 [0x7FFFFFFF] ∘ vec 2 [1])) = some 0x7FFFFFFF := by decide +kernel
theorem test_sub_packed : lane 4 0 (after (.sub (a64 4 0 2 3)) (vec 0 [0x00050001] ∘ vec 2 [0x00020002])) = some 0x0003FFFF := by
  decide +kernel
theorem test_add64 : let t := after (.add64 (a64 4 0 2 0xB)) (vec 0 [0xFFFFFFFF] ∘ vec 1 [1] ∘ vec 2 [1] ∘ vec 3 [2])
    lane 4 0 t = some 0 ∧ lane 5 0 t = some 4 := by decide +kernel
theorem test_mad : lane 4 0 (after (.mad (a96 4 0 2 1 0 6)) (vec 0 [3] ∘ vec 2 [5] ∘ vec 6 [7])) = some 22 := by decide +kernel
theorem test_abs_min : lane 4 0 (after (.abs (a64 4 0 0 2)) (vec 0 [0x80000000])) = some 0x80000000 := by decide +kernel
theorem test_abs_min_sat : lane 4 0 (after (.abs (a64 4 0 0 2 8)) (vec 0 [0x80000000])) = some 0x7FFFFFFF := by decide +kernel
theorem test_clamp : lane 4 0 (after (.clamp (a96 4 0 2 1 0 6)) (vec 0 [9] ∘ vec 2 [12] ∘ vec 6 [10])) = some 10 := by decide +kernel
theorem test_mulhi : lane 4 0 (after (.mulhi (a64 4 0 2 1)) (vec 0 [0x80000000] ∘ vec 2 [6])) = some 3 := by decide +kernel
theorem test_mulw_signed : let t := after (.mulw (a64 4 0 2 2)) (vec 0 [0xFFFFFFFF] ∘ vec 2 [2])
    lane 4 0 t = some 0xFFFFFFFE ∧ lane 5 0 t = some 0xFFFFFFFF := by decide +kernel
/-- R326: the table of divisions, and the trap of a zero divisor in lane 1. -/
theorem test_div : lanes 4 3 (after (.div (a64 4 0 2 2)) (lanesTo 3 ∘ vec 0 [7, 0xFFFFFFF9, 0x80000000] ∘ vec 2 [2, 2, 0xFFFFFFFF])) =
    [some 3, some 0xFFFFFFFD, some 0x80000000] := by decide +kernel
theorem test_rem : lanes 4 3 (after (.rem (a64 4 0 2 2)) (lanesTo 3 ∘ vec 0 [7, 0xFFFFFFF9, 7] ∘ vec 2 [2, 2, 0xFFFFFFFE])) =
    [some 1, some 0xFFFFFFFF, some 1] := by decide +kernel
theorem test_div_nz : lane 4 0 (after (.div (a64 4 0 2 1 0x20)) (vec 0 [5])) = some 0xFFFFFFFF := by decide +kernel
/-- R327: the majority function of A, B and C. -/
theorem test_bitf : lane 4 0 (after (.bitf (a96 4 1 2 0 0x8E 3)) (vec 1 [0xC] ∘ vec 2 [0xA] ∘ vec 3 [0x9])) = some 0x8 := by decide +kernel
theorem test_andn : lane 4 0 (after (.andn (a64 4 1 2)) (vec 1 [0xC] ∘ vec 2 [0xA])) = some 0x4 := by decide +kernel
/-- R328: a count of the width; a rotation; `dsh` by 40. -/
theorem test_shl_all : lane 4 0 (after (.shl (a64 4 0 2 1)) (vec 0 [1] ∘ vec 2 [32])) = some 0 := by decide +kernel
theorem test_sar_all : lane 4 0 (after (.sar (a64 4 0 2 2)) (vec 0 [0x80000000] ∘ vec 2 [99])) = some 0xFFFFFFFF := by decide +kernel
theorem test_rot : lane 4 0 (after (.rot (a64 4 0 2)) (vec 0 [0x80000001] ∘ vec 2 [33])) = some 3 := by decide +kernel
theorem test_dsh_right : lane 4 0 (after (.dsh (a96 4 0 2 0 0 6)) (vec 0 [0x11] ∘ vec 2 [40] ∘ vec 6 [0x12345678])) = some 0x123456 := by
  decide +kernel
theorem test_dsh_left : lane 4 0 (after (.dsh (a96 4 0 2 0 0x20 6)) (vec 0 [0x12345678] ∘ vec 2 [40] ∘ vec 6 [0x11])) = some 0x34567800 := by
  decide +kernel
theorem test_shl64 : lane 5 0 (after (.shl64 (a64 4 0 2 0xB)) (vec 0 [3] ∘ vec 2 [32])) = some 3 := by decide +kernel
theorem test_shr64_signed : lane 4 0 (after (.shr64 (a64 4 0 2 0xC)) (vec 1 [0x80000000] ∘ vec 2 [64])) = some 0xFFFFFFFF := by decide +kernel
/-- R329: the table of the bit-field instructions. -/
theorem test_bxt : lane 4 0 (after (.bxt (a64 4 0 2 2)) (vec 0 [0xB00] ∘ vec 2 [0x408])) = some 0xFFFFFFFB := by decide +kernel
theorem test_bxt_cut : lane 4 0 (after (.bxt (a64 4 0 2 1)) (vec 0 [0x81000000] ∘ vec 2 [0x2018])) = some 0x81 := by decide +kernel
theorem test_bins : lane 4 0 (after (.bins (a96 4 0 2 0 0 6)) (vec 0 [5] ∘ vec 2 [0xFFFFFFFF] ∘ vec 6 [0x304])) = some 0xFFFFFFDF := by
  decide +kernel
theorem test_bfset : lane 4 0 (after (.bfset (a64 4 0 0)) (vec 0 [0x404])) = some 0xF0 := by decide +kernel
theorem test_sext : lane 4 0 (after (.sext (a64 4 0 2 2)) (vec 0 [0x80] ∘ vec 2 [7])) = some 0xFFFFFF80 := by decide +kernel
/-- R330. -/
theorem test_bcnt : lane 4 0 (after (.bcnt (a64 4 0 0)) (vec 0 [0xF0F])) = some 8 := by decide +kernel
theorem test_clz : lanes 4 2 (after (.clz (a64 4 0 0)) (lanesTo 2 ∘ vec 0 [0, 1])) = [some 32, some 31] := by decide +kernel
theorem test_ctz : lanes 4 2 (after (.ctz (a64 4 0 0)) (lanesTo 2 ∘ vec 0 [0, 8])) = [some 32, some 3] := by decide +kernel
theorem test_bitrev : lane 4 0 (after (.bitrev (a64 4 0 0)) (vec 0 [1])) = some 0x80000000 := by decide +kernel
theorem test_bshuf : lane 4 0 (after (.bshuf (a64 4 0 2)) (vec 0 [0x11223344] ∘ vec 2 [0x00010203])) = some 0x44332211 := by decide +kernel
theorem test_bshuf_sign : lane 4 0 (after (.bshuf (a64 4 0 2)) (vec 0 [0x80FF] ∘ vec 2 [0x09090100])) = some 0xFFFF80FF := by decide +kernel
/-- R332, R333: an unsigned and a signed comparison; the three choices of `sel`. -/
theorem test_cmp : code 1 0 (after (.cmp (a64 0xC1 0 2 1 0x40)) (vec 0 [1] ∘ vec 2 [0xFFFFFFFF])) = some .t := by decide +kernel
theorem test_cmp_signed : code 1 0 (after (.cmp (a64 0xC1 0 2 2 0x40)) (vec 0 [1] ∘ vec 2 [0xFFFFFFFF])) = some .f := by decide +kernel
theorem test_sel : lanes 9 3 (after (.sel (a96 9 0xC2 4 0 0 5)) (lanesTo 3 ∘ prd 2 [.t, .u, .f] ∘ vec 4 [1, 2, 3] ∘ vec 5 [4, 5, 6])) =
    [some 1, some 5, some 6] := by decide +kernel
theorem test_mov64_f64 : let t := after (.mov64 (a96 4 0xD1 0xF0 0xA 0 0 0x3FF00000))
    lane 4 0 t = some 0 ∧ lane 5 0 t = some 0x3FF00000 := by decide +kernel
theorem test_lea : let t := after (.lea (a64 4 0 2 2 0 2)) (vec 0 [0x100] ∘ vec 2 [0xFFFFFFFF])
    lane 4 0 t = some 0xFC ∧ lane 5 0 t = some 0 := by decide +kernel
/-- R335, R336: the examples of `dp4.i8x4.mix` and `cvti.n8x4.sat`. -/
theorem test_dp4_mix : lane 4 0 (after (.dp4 (a96 4 0 2 6 0x20 6)) (vec 0 [0x2FF] ∘ vec 2 [0x304] ∘ vec 6 [10])) = some 12 := by decide +kernel
theorem test_sad : lane 4 0 (after (.sad (a96 4 0 2 5 0 6)) (vec 0 [0x01020304] ∘ vec 2 [0x04030201] ∘ vec 6 [1])) = some 9 := by decide +kernel
theorem test_cvti_sat : lane 4 0 (after (.cvti (a64 4 0 2 5 8 4)) (vec 0 [0xFFFF0120] ∘ vec 2 [0x00050300])) = some 0x05FF00FF := by
  decide +kernel

/-! ### Floating point: examples of 15 -/

/-- R340: 2^24 + 1.5 rounded up and toward zero, with INX (bit 4 of R234). -/
theorem test_fadd_rup : lane 3 0 (after (.fadd (a96 3 1 0xF0 7 3 0 0x3FC00000)) (vec 1 [0x4B800000])) = some 0x4B800001 := by decide +kernel
theorem test_fadd_rtz : lane 3 0 (after (.fadd (a96 3 1 0xF0 7 1 0 0x3FC00000)) (vec 1 [0x4B800000])) = some 0x4B800000 := by decide +kernel
theorem test_fmul_nan : lane 4 0 (after (.fmul (a64 4 0 2 7)) (vec 0 [0x7F800000])) = some 0x7FC00000 := by decide +kernel
theorem test_fsub_zero : lane 4 0 (after (.fsub (a64 4 0 2 7 2)) (vec 0 [0x3F800000] ∘ vec 2 [0x3F800000])) = some 0x80000000 := by decide +kernel
theorem test_ffma : lane 4 0 (after (.ffma (a96 4 0 2 7 0 6)) (vec 0 [0x40000000] ∘ vec 2 [0x40400000] ∘ vec 6 [0x3F800000])) =
    some 0x40E00000 := by decide +kernel
/-- R341: −0 is below +0, and a NaN loses. -/
theorem test_fmin_zero : lane 4 0 (after (.fmin (a64 4 0 2 7)) (vec 2 [0x80000000])) = some 0x80000000 := by decide +kernel
theorem test_fmax_nan : lane 4 0 (after (.fmax (a64 4 0 2 7)) (vec 0 [0x7FC00000] ∘ vec 2 [0xBF800000])) = some 0xBF800000 := by decide +kernel
theorem test_fneg : lane 4 0 (after (.fneg (a64 4 0 0 7)) (vec 0 [0x7F800001])) = some 0xFF800001 := by decide +kernel
theorem test_fcpsgn : lane 4 0 (after (.fcpsgn (a64 4 0 2 7)) (vec 0 [0x3F800000] ∘ vec 2 [0x80000000])) = some 0xBF800000 := by decide +kernel
/-- R343: less than for 1.0, a quiet NaN and 3.0 against 2.0. -/
theorem test_fcmp : let t := after (.fcmp (a64 0xC1 1 2 7 0x40)) (lanesTo 3 ∘ vec 1 [0x3F800000, 0x7FC00000, 0x40400000] ∘
      vec 2 [0x40000000, 0x40000000, 0x40000000])
    (code 1 0 t, code 1 1 t, code 1 2 t) = (some .t, some .u, some .f) ∧ (flags t).map (fun x => x % 2) = some 1 := by decide +kernel
theorem test_fclass : let t := after (.fclass (a96 0xC1 0 0xF0 7 0 0 3)) (vec 0 [0x7F800001, 0x3F800000])
    (code 1 0 t, code 1 1 t) = (some .t, some .f) := by decide +kernel
/-- R345, R346: −0.3 to −0; the exponent of the least subnormal. -/
theorem test_frnd : lane 4 0 (after (.frnd (a64 4 0 0 7)) (vec 0 [0xBE99999A])) = some 0x80000000 := by decide +kernel
theorem test_fgetexp : lane 4 0 (after (.fgetexp (a64 4 0 0 7)) (vec 0 [1])) = some 0xC3150000 := by decide +kernel
theorem test_fscale : lane 4 0 (after (.fscale (a64 4 0 2 7)) (vec 0 [0x3F800000] ∘ vec 2 [0xFFFFFFFF])) = some 0x3F000000 := by decide +kernel
/-- R347, R348: exact results. -/
theorem test_fdiv : lane 4 0 (after (.fdiv (a64 4 0 2 7)) (vec 0 [0x3F800000] ∘ vec 2 [0x40400000])) = some 0x3EAAAAAB := by decide +kernel
theorem test_fsqrt : lane 4 0 (after (.fsqrt (a64 4 0 0 7)) (vec 0 [0x40800000])) = some 0x40000000 := by decide +kernel
theorem test_frcp : lane 4 0 (after (.frcp (a64 4 0 0 7)) (vec 0 [0x40800000])) = some 0x3E800000 := by decide +kernel
theorem test_flg2 : lane 4 0 (after (.flg2 (a64 4 0 0 7)) (vec 0 [0x41000000])) = some 0x40400000 := by decide +kernel
theorem test_fex2 : lane 4 0 (after (.fex2 (a64 4 0 0 7)) (vec 0 [0x40400000])) = some 0x41000000 := by decide +kernel
theorem test_fsig : lane 4 0 (after (.fsig (a64 4 0 0 7))) = some 0x3F000000 := by decide +kernel
theorem test_fcos : lane 4 0 (after (.fcos (a64 4 0 0 7))) = some 0x3F800000 := by decide +kernel
/-- R349, R350: 70,000.0 saturates in f16; −2.5 to an integer in two modes. -/
theorem test_cvt_f16 : lane 4 0 (after (.cvt (a64 4 0 2 8 0 7)) (vec 0 [0x4788B800] ∘ vec 2 [0x3F800000])) = some 0x3C007BFF := by decide +kernel
theorem test_cvt_f16_nan : lane 4 0 (after (.cvt (a64 4 0 2 8 0x10 7)) (vec 0 [0x4788B800] ∘ vec 2 [0x3F800000])) = some 0x3C007C00 := by
  decide +kernel
theorem test_cvtfi_rna : lane 4 0 (after (.cvtfi (a64 4 0 0 2 4 7)) (vec 0 [0xC0200000])) = some 0xFFFFFFFD := by decide +kernel
theorem test_cvtfi_rne : lane 4 0 (after (.cvtfi (a64 4 0 0 2 0 7)) (vec 0 [0xC0200000])) = some 0xFFFFFFFE := by decide +kernel
theorem test_cvtif : lane 4 0 (after (.cvtif (a64 4 0 0 7 0 2)) (vec 0 [0xFFFFFFFF])) = some 0xBF800000 := by decide +kernel
/-- R351, R352: the example of `pack.mx4` and `unpack.mx4`, in its first three lanes. -/
theorem test_pack : let t := after (.pack (a64 4 1 0 7 0 9)) (lanesTo 3 ∘ vec 1 [0x41200000, 0x3E99999A, 0xC0E00000])
    lane 4 0 t = some 0xE06 ∧ lane 5 0 t = some 0x80 := by decide +kernel
theorem test_unpack : lanes 6 3 (after (.unpack (a64 6 4 5 7 0 9)) (lanesTo 3 ∘ vec 4 [0xE06] ∘ vec 5 [0x80, 0x80, 0x80])) =
    [some 0x41000000, some 0, some 0xC1000000] := by decide +kernel
theorem test_fdot2 : lane 4 0 (after (.fdot2 (a96 4 0 2 7 0 6)) (vec 0 [0x40003C00] ∘ vec 2 [0x40003C00] ∘ vec 6 [0x3F800000])) =
    some 0x40C00000 := by decide +kernel
theorem test_dadd : lane 5 0 (after (.dadd (a64 4 0 2 0xA)) (vec 1 [0x3FF00000] ∘ vec 3 [0x3FF00000])) = some 0x40000000 := by decide +kernel

/-! ### Intervals, lanes and predicates: the tables of 16 -/

/-- R361: the table of the interval instructions. -/
theorem test_imul : let t := after (.imul (a64 4 0 2 7)) (lanesTo 1 ∘ ivl 0 0xC0000000 0x40400000 ∘ ivl 2 0xBF800000 0x40800000)
    (lane 4 0 t, t.bind (fun t => t.hatches.head?.map (fun h => (h.vhi 4 0).toNat))) = (some 0xC1000000, some 0x41400000) := by decide +kernel
theorem test_isqr : let t := after (.isqr (a64 4 0 0 7)) (lanesTo 1 ∘ ivl 0 0xC0000000 0x40400000)
    (lane 4 0 t, t.bind (fun t => t.hatches.head?.map (fun h => (h.vhi 4 0).toNat))) = (some 0, some 0x41100000) := by decide +kernel
theorem test_idiv : let t := after (.idiv (a64 4 0 2 7)) (lanesTo 1 ∘ ivl 0 0x3F800000 0x40000000 ∘ ivl 2 0 0x40800000)
    (lane 4 0 t, t.bind (fun t => t.hatches.head?.map (fun h => (h.vhi 4 0).toNat))) = (some 0x3E800000, some 0x7F800000) := by decide +kernel
theorem test_imid : lane 4 0 (after (.imid (a64 4 0 0 7)) (lanesTo 1 ∘ ivl 0 0x3F800000 0x40000000)) = some 0x3FC00000 := by decide +kernel
theorem test_iwid : lane 4 0 (after (.iwid (a64 4 0 0 7)) (lanesTo 1 ∘ ivl 0 0x3F800000 0x40000000)) = some 0x3F800000 := by decide +kernel
/-- R362: [1, 2] against [1.5, 3] and against [3, 4]. -/
theorem test_icmp_u : code 1 0 (after (.icmp (a64 0xC1 0 2 7 0x40)) (lanesTo 1 ∘ ivl 0 0x3F800000 0x40000000 ∘
    ivl 2 0x3FC00000 0x40400000)) = some .u := by decide +kernel
theorem test_icmp_t : code 1 0 (after (.icmp (a64 0xC1 0 2 7 0x40)) (lanesTo 1 ∘ ivl 0 0x3F800000 0x40000000 ∘
    ivl 2 0x40400000 0x40800000)) = some .t := by decide +kernel
/-- R367: lanes 0 to 3 push to 2, 2, 5 and 1. -/
theorem test_lpush : lanes 4 3 (after (.lpush (a64 4 0 2)) (lanesTo 4 ∘ vec 4 [90, 91, 92] ∘ vec 0 [10, 11, 12, 13] ∘ vec 2 [2, 2, 5, 1])) =
    [some 90, some 13, some 11] := by decide +kernel
theorem test_lperm : lanes 4 2 (after (.lperm (a64 4 0 2)) (lanesTo 2 ∘ vec 0 [10, 11] ∘ vec 2 [1, 96])) = [some 11, some 0] := by decide +kernel
theorem test_lmatch : lanes 4 3 (after (.lmatch (a64 4 0 0)) (lanesTo 3 ∘ vec 0 [7, 8, 7])) = [some 0, some 1, some 0] := by decide +kernel
theorem test_lcomp : lanes 4 3 (after (.lcomp (a64 4 0 0xC3)) (lanesTo 3 ∘ vec 4 [1, 2, 3] ∘ vec 0 [7, 8, 9] ∘ prd 3 [.f, .t, .t])) =
    [some 8, some 9, some 3] := by decide +kernel
/-- R369: the running sum, and the sum before each lane. -/
theorem test_scan : lanes 4 3 (after (.scan (a64 4 0 0 1 0 11)) (lanesTo 3 ∘ vec 0 [5, 6, 7])) = [some 5, some 11, some 18] := by decide +kernel
theorem test_scan_excl : lanes 4 3 (after (.scan (a64 4 0 0 1 0 0x1B)) (lanesTo 3 ∘ vec 0 [5, 6, 7])) = [some 0, some 5, some 11] := by
  decide +kernel
theorem test_red : lanes 4 3 (after (.red (a64 4 0 0 1 0x40 11)) (lanesTo 3 ∘ vec 0 [5, 9, 7])) = [some 9, some 9, some 9] := by decide +kernel
/-- R373: `por` of T, U, F with U, and the count of U. -/
theorem test_por : let t := after (.por (a64 0xC3 0xC1 0xC2)) (lanesTo 3 ∘ prd 1 [.t, .u, .f] ∘ prd 2 [.u, .u, .u])
    (code 3 0 t, code 3 1 t, code 3 2 t) = (some .t, some .u, some .u) := by decide +kernel
theorem test_pcnt : scalar 20 (after (.pcnt (a64 (sr 20) 0xC3 0 0 0x40)) (lanesTo 3 ∘ prd 3 [.t, .u, .u])) = some 2 := by decide +kernel
theorem test_pxor : code 3 0 (after (.pxor (a64 0xC3 0xC1 0xC2)) (prd 1 [.t] ∘ prd 2 [.t])) = some .f := by decide +kernel
theorem test_pset_code : code 1 0 (after (.pset (a64 0xC1 0 0 0 0x80)) (vec 0 [3])) = some .u := by decide +kernel

/-! ### Control flow and the system: examples of 13 -/

/-- R296, R301: a `pad` moves on by its length; the last instruction of a body starts its next iteration. -/
theorem test_pad : (path0 (after (.pad (a64 0 0 0 0 0 7)))).map (·.pc) = some 0x40008 := by decide +kernel
theorem test_loop_end : (path0 (after (.pad (a64 0 0 0)) (pathed (fun p => { p with loops := [⟨0x3FF00, 0x108, 3⟩] })))).map
    (fun p => (p.pc, p.loops)) = some (0x3FF00, [⟨0x3FF00, 0x108, 2⟩]) := by decide +kernel
/-- R300: a count of three, and of zero. -/
theorem test_loop : (path0 (after (.loop (b64 (sr 20) 10)) (sca 20 [3]))).map (fun p => (p.pc, p.loops)) =
    some (0x40008, [⟨0x40008, 32, 3⟩]) := by decide +kernel
theorem test_loop_zero : (path0 (after (.loop (b64 (sr 20) 10)))).map (fun p => (p.pc, p.loops)) = some (0x40028, []) := by decide +kernel
/-- R297, R304: a branch of the whole path leaves the inner body for the outer one. -/
theorem test_bra_unwinds : (path0 (after (.bra (b64 0 16)) (pathed (fun p => { p with
    loops := [⟨0x3FFF0, 0x40, 1⟩, ⟨0x3FF00, 0x200, 1⟩] })))).map (fun p => (p.pc, p.loops.length)) = some (0x40040, 1) := by decide +kernel
theorem test_bra_splits : let t := after (.bra { b64 0 16 with gidx := 1, gsense := 1 }) (prd 1 [.t, .t])
    t.map (fun t => t.hatches.map (fun h => (h.slot0.map (fun p => (p.pc, p.mask.toNat)), h.slot1.map (·.pc)))) =
      some [(some (0x40040, 3), some 0x40008)] := by decide +kernel
/-- R304, R297: the link of a call. -/
theorem test_call : scalar 32 (after (.call (b64 0 16 (sr 32)))) = some 0x40008 := by decide +kernel
theorem test_ret_align : trapped (after (.ret (a64 0 (sr 20) 0)) (sca 20 [0x40002, 0])) = some (0x0F, 0, 0) := by decide +kernel
/-- R307: `pushp` narrows the mask to the T lanes, `invp` takes the others, `popp` restores. -/
theorem test_pushp : (path0 (after (.pushp (a64 0 0xC1 0)) (prd 1 [.t, .u, .t]))).map (fun p => p.mask.toNat) = some 5 := by decide +kernel
theorem test_invp : (path0 (after (.invp (a64 0 0 0)) (fun h => { h with pstack := [[.t, .f] ++ List.replicate 94 .u] }))).map (fun p => p.mask.toNat) = some 2 := by
  decide +kernel
theorem test_popp : (path0 (after (.popp (a64 0 0 0)) (fun h => { h with pstack := [[.t, .f] ++ List.replicate 94 .u] }))).map (fun p => p.mask.toNat) = some 3 := by
  decide +kernel
theorem test_popp_empty : (trapped (after (.popp (a64 0 0 0)))).map (·.1) = some 0x07 := by decide +kernel
/-- R309: the table of the software traps. -/
theorem test_ecall : trapped (after (.ecall (a64 0 0 0 0 0 5)) (lanesTo 2)) = some (0x19, 0x105, 3) := by decide +kernel
theorem test_brkpt : trapped (after (.brkpt (a64 0 0 0 0 0 5)) (lanesTo 2)) = some (0x1A, 5, 3) := by decide +kernel
/-- R326: a zero divisor in lane 1 traps and names it. -/
theorem test_div_trap : trapped (after (.div (a64 4 0 2 1)) (lanesTo 2 ∘ vec 0 [5, 5] ∘ vec 2 [1, 0])) = some (0x18, 0, 2) := by decide +kernel
/-- R272: a reserved type traps ILLEGAL_OPERAND with cause 0x07. -/
theorem test_type_trap : (trapped (after (.fadd (a64 4 2 6 1)))).map (fun x => (x.1, x.2.1)) = some (0x02, 0x07) := by decide +kernel
/-- R314, R312: `vote.mask` and the launch id. -/
theorem test_vote : scalar 20 (after (.vote (a64 (sr 20) 0xC1 0 0 0x80)) (prd 1 [.t, .f, .t])) = some 5 := by decide +kernel
theorem test_rdsr : scalar 20 (after (.rdsr (a64 (sr 20) 0 0 0 0 0x15))) = some 1 := by decide +kernel
/-- R318, R319: `probe` of an address that is not canonical; an injection with an unknown code. -/
theorem test_probe : scalar 20 (after (.probe (a64 (sr 20) (sr 22) 0)) (sca 22 [0, 0x80000000])) = some 0x100 := by decide +kernel
theorem test_prio : (path0 (after (.prio (a64 0 0 0 0 0 5)))).map (·.prio) = some 5 := by decide +kernel

end Sys2Proof.Tests
end

