-- ==== Sys2Proof/Tests/Witness.lean ====
section
/-! SUPPORT. Witnesses: for each statement with hypotheses, states and operands that meet them, clause by clause. -/

namespace Sys2Proof.Tests

open Machine

set_option Elab.async false

/-! ### Instructions that write registers -/

/-- A hatch about to issue, with nothing in its registers; the tiles are left out so that states compare quickly. -/
def base (g : Hatch → Hatch := id) : State :=
  let s := issuing (.nop .l64 0) g
  { s with hatches := s.hatches.map (fun h => { h with tiles := [] }) }

/-- The instruction issues in a settled state, and something holds of its issue. -/
def goes (pre : Iss → Pre) (gidx : BitVec 3) (gsense : BitVec 2) (s : State) (ok : Iss → Bool) : Bool :=
  s.sched.raised.isEmpty && (issue? pre gidx gsense s).elim false ok

theorem goes_issues {pre : Iss → Pre} {gidx : BitVec 3} {gsense : BitVec 2} {s : State} {ok : Iss → Bool}
    (h : goes pre gidx gsense s ok = true) : s.Settled ∧ ∃ c, IssuesWith pre gidx gsense s c ∧ ok c = true := by
  simp only [goes, Bool.and_eq_true, List.isEmpty_iff] at h
  refine ⟨h.1, ?_⟩
  cases e : issue? pre gidx gsense s with
  | none => simp [e] at h
  | some c => exact ⟨c, issue?_issues e, by simpa [e] using h.2⟩

def goesA (op : Nat) (f : AForm) (s : State) (ok : Iss → Bool) : Bool := goes (preA op f) f.gidx f.gsense s ok
def goesB (op : Nat) (f : BForm) (s : State) (ok : Iss → Bool) : Bool := goes (preB op f) f.gidx f.gsense s ok
def goesM (op : Nat) (f : MForm) (s : State) (ok : Iss → Bool) : Bool := goes (preM op f) f.gidx f.gsense s ok

/-- The same for a memory form, with the lanes that it runs in. -/
def goesF (op : Nat) (f : MForm) (s : State) (ok : Iss → Bool) : Bool := goesM op f s (fun c => ok (c.forM op f))

/-- What `WritesIn` asks of its state: the instruction issues, some lane runs, and its results find registers. -/
def writesOk (op : Nat) (f : AForm) (m : Iss → LaneSet) (ws : List Write) (s : State) : Bool :=
  goesA op f s (fun c => m c != 0 && allocTest s c (c.resultA op f (m c) ws 0).1 == .ok)

/-- A write to the destination, by its kind. -/
def dstWrite (f : AForm) : List Write :=
  if isPred f.dst then [.pred (predReg f.dst) (fun _ => .t)] else [.reg f.dst 2 (fun _ => 0)]

/-- One instruction of each opcode of the register families: opcode and fields. -/
def rows20 : List (Nat × AForm) := [
  (0x20, a64 0x04 0x02 0x06 0x1), (0x21, a64 0x04 0x02 0x06 0x1), (0x22, a64 0x04 0x02 0x06 0x1),
  (0x23, a64 0x04 0x02 0x06 0x1), (0x24, a64 0x04 0x02 0x06 0xB), (0x25, a64 0x04 0x02 0x06 0xB),
  (0x26, a64 0x04 0x02 0x06 0x1), (0x27, a64 0x04 0x02 0x06 0x1), (0x28, a64 0x04 0x02 0x06 0x1),
  (0x29, a96 0x04 0x02 0x06 0x1 0x00 0x08), (0x2A, a96 0x04 0x02 0x06 0x1 0x00 0x08), (0x2B, a64 0x04 0x02 0x06 0x1),
  (0x2C, a64 0x04 0x02 0x06 0x1), (0x2D, a64 0x04 0x02 0x06 0x1), (0x2E, a64 0x04 0x02 0x06 0x1),
  (0x2F, a96 0x04 0x02 0x06 0x1 0x00 0x08), (0x30, a64 0x04 0x02 0x00 0x2), (0x31, a64 0x04 0x02 0x00 0x2),
  (0x32, a64 0x04 0x02 0x06), (0x33, a64 0x04 0x02 0x06), (0x34, a64 0x04 0x02 0x06), (0x35, a64 0x04 0x02 0x06),
  (0x36, a64 0x04 0x02 0x00), (0x37, a96 0x04 0x02 0x06 0x0 0x00 0x08), (0x38, a64 0x04 0x02 0x06 0x1),
  (0x39, a64 0x04 0x02 0x06 0x1), (0x3A, a64 0x04 0x02 0x06 0x2)]

def rows3B : List (Nat × AForm) := [
  (0x3B, a64 0x04 0x02 0x06), (0x3C, a96 0x04 0x02 0x06 0x0 0x00 0x08), (0x3D, a64 0x04 0x02 0x06 0xB),
  (0x3E, a64 0x04 0x02 0x06 0xB), (0x3F, a64 0x04 0x02 0x06 0x1), (0x40, a96 0x04 0x02 0x06 0x0 0x00 0x08),
  (0x41, a64 0x04 0x02 0x00), (0x42, a64 0x04 0x02 0x06 0x2), (0x43, a64 0x04 0x02 0x00), (0x44, a64 0x04 0x02 0x00),
  (0x45, a64 0x04 0x02 0x00), (0x46, a64 0x04 0x02 0x00), (0x47, a64 0x04 0x02 0x06), (0x48, a64 0xC1 0x02 0x06 0x1),
  (0x49, a64 0xC1 0x02 0x06 0xB), (0x4A, a96 0x04 0xC2 0x06 0x0 0x00 0x08), (0x4B, a64 0x04 0x02 0x00 0x1),
  (0x4C, a64 0x04 0x02 0x00 0xA), (0x4D, a64 0x04 0x02 0x06 0x1), (0x4E, a96 0x04 0x02 0x06 0x1 0x00 0x08),
  (0x4F, a96 0x04 0x02 0x06 0x3 0x00 0x08), (0x50, a96 0x04 0x02 0x06 0x5 0x00 0x08),
  (0x51, a96 0x04 0x02 0x06 0x5 0x00 0x08), (0x52, a64 0x04 0x02 0x06 0x3 0x00 0x01)]

def rows53 : List (Nat × AForm) := [
  (0x53, a64 0x04 0x02 0x06 0x7), (0x54, a64 0x04 0x02 0x06 0x7), (0x55, a64 0x04 0x02 0x06 0x7),
  (0x56, a96 0x04 0x02 0x06 0x7 0x00 0x08), (0x57, a64 0x04 0x02 0x06 0x7), (0x58, a64 0x04 0x02 0x06 0x7),
  (0x59, a96 0x04 0x02 0x06 0x7 0x00 0x08), (0x5A, a96 0x04 0x02 0x06 0x7 0x00 0x08), (0x5B, a64 0x04 0x02 0x00 0x7),
  (0x5C, a64 0x04 0x02 0x00 0x7), (0x5D, a64 0x04 0x02 0x06 0x7), (0x5E, a64 0xC1 0x02 0x06 0x7),
  (0x5F, a64 0xC1 0x02 0x06 0x7), (0x60, a64 0x04 0x02 0x00 0x7), (0x61, a64 0x04 0x02 0x06 0x7),
  (0x62, a64 0x04 0x02 0x00 0x7), (0x63, a64 0x04 0x02 0x06 0x7), (0x64, a64 0x04 0x02 0x00 0x7),
  (0x65, a64 0x04 0x02 0x00 0x7), (0x66, a64 0x04 0x02 0x00 0x7), (0x67, a64 0x04 0x02 0x00 0x7),
  (0x68, a64 0x04 0x02 0x00 0x7), (0x69, a64 0x04 0x02 0x00 0x7), (0x6A, a64 0x04 0x02 0x00 0x7),
  (0x6B, a64 0x04 0x02 0x00 0x7), (0x6C, a64 0x04 0x02 0x00 0x7), (0x6D, a64 0x04 0x02 0x00 0x7),
  (0x6E, a64 0x04 0x02 0x00 0x7)]

def rows6F : List (Nat × AForm) := [
  (0x6F, a64 0x04 0x02 0x06 0x8 0x00 0x07), (0x70, a64 0x04 0x02 0x00 0x1 0x00 0x08),
  (0x71, a64 0x04 0x02 0x06 0x8 0x00 0x01), (0x72, a64 0x04 0x02 0x00 0x7 0x00 0x08),
  (0x73, a64 0x04 0x02 0x06 0x7 0x00 0x08), (0x74, a96 0x04 0x02 0x06 0x7 0x00 0x08),
  (0x75, a96 0x04 0x02 0x06 0x7 0x00 0x08), (0x76, a64 0x04 0x02 0x06 0xA), (0x77, a64 0x04 0x02 0x06 0xA),
  (0x78, a96 0x04 0x02 0x06 0xA 0x00 0x08), (0x79, a64 0x04 0x02 0x06 0xA), (0x7A, a64 0x04 0x02 0x06 0xA),
  (0x7B, a64 0xC1 0x02 0x06 0xA), (0x7C, a64 0x04 0x02 0x06 0xA), (0x7D, a64 0x04 0x02 0x00 0xA),
  (0x7E, a64 0x04 0x02 0x00 0xA), (0x7F, a64 0x04 0x02 0x00 0xA)]

def rows80 : List (Nat × AForm) := [
  (0x80, a64 0x04 0x02 0x06 0x7), (0x81, a64 0x04 0x02 0x00 0x7), (0x82, a64 0x04 0x02 0x06 0x7),
  (0x83, a64 0x04 0x02 0x06 0x7), (0x84, a64 0x04 0x02 0x06 0x7), (0x85, a64 0x04 0x02 0x00 0x7),
  (0x86, a64 0x04 0x02 0x06 0x7), (0x87, a64 0x04 0x02 0x00 0x7), (0x88, a64 0x04 0x02 0x06 0x7),
  (0x89, a64 0x04 0x02 0x06 0x7), (0x8A, a64 0x04 0x02 0x00 0x7), (0x8B, a64 0x04 0x02 0x00 0x7),
  (0x8C, a64 0x04 0x02 0x00 0x7), (0x8D, a64 0xC1 0x02 0x06 0x7), (0x8E, a64 0x04 0x02 0x00 0x7 0x00 0x08)]

def rows90 : List (Nat × AForm) := [
  (0x90, a64 0x04 0x02 0x06 0xB), (0x91, a64 0x04 0x02 0x06 0xB), (0x92, a64 0x04 0x02 0x5C 0xB),
  (0x93, a64 0x04 0x02 0x00 0xB), (0x94, a64 0x04 0x02 0x00 0xB), (0x95, a64 0x04 0x02 0xC3 0xB),
  (0x96, a64 0x04 0x02 0x00 0x1 0x00 0x08), (0x97, a64 0x04 0x02 0x00 0x1 0x00 0x08), (0x98, a64 0xC1 0xC2 0xC3),
  (0x99, a64 0xC1 0xC2 0xC3), (0x9A, a64 0xC1 0xC2 0xC3), (0x9B, a64 0xC1 0xC2 0x00), (0x9C, a64 0xC1 0x02 0x00),
  (0x9D, a64 0x04 0xC2 0x00), (0x9E, a64 0x04 0xC2 0x00)]

def rows : List (Nat × AForm) := rows20 ++ rows3B ++ rows53 ++ rows6F ++ rows80 ++ rows90

/-- Whether the instruction of an opcode can be issued with a lane to run in and registers for its results. -/
def canWrite (op : Nat) : Bool := match rows.find? (fun x => x.1 == op) with
  | none => false
  | some x => writesOk op x.2 (fun c => c.lanesA op x.2) (dstWrite x.2) base

theorem witness_IntegerElements :
    [0x20, 0x21, 0x24, 0x25, 0x26, 0x29, 0x2D, 0x2E, 0x2F, 0x30, 0x31].all canWrite = true := by decide +kernel
theorem witness_WideArithmetic : [0x22, 0x23, 0x27, 0x28, 0x2A].all canWrite = true := by decide +kernel
theorem witness_LogicAndShifts :
    [0x32, 0x33, 0x34, 0x35, 0x36, 0x37, 0x38, 0x39, 0x3A, 0x3B, 0x3C, 0x3D, 0x3E].all canWrite = true := by decide +kernel
theorem witness_BitFieldsAndCounts :
    [0x3F, 0x40, 0x41, 0x42, 0x43, 0x44, 0x45, 0x46, 0x47].all canWrite = true := by decide +kernel
theorem witness_IntegerSelectAndConvert :
    [0x48, 0x49, 0x4A, 0x4B, 0x4C, 0x4D, 0x4E, 0x4F, 0x50, 0x51, 0x52].all canWrite = true := by decide +kernel
theorem witness_FloatArithmetic :
    [0x53, 0x54, 0x55, 0x56, 0x76, 0x77, 0x78, 0x63, 0x64, 0x7C, 0x7D, 0x7E, 0x7F].all canWrite = true := by decide +kernel
theorem witness_FloatSelectAndSigns :
    [0x57, 0x58, 0x59, 0x5A, 0x79, 0x7A, 0x60, 0x61, 0x62, 0x5B, 0x5C, 0x5D].all canWrite = true := by decide +kernel
theorem witness_FloatCompareAndFunctions :
    [0x5E, 0x7B, 0x5F, 0x65, 0x66, 0x67, 0x68, 0x69, 0x6A, 0x6B, 0x6C, 0x6D, 0x6E].all canWrite = true := by decide +kernel
theorem witness_FloatConversions : [0x6F, 0x70, 0x71, 0x72, 0x73, 0x74, 0x75].all canWrite = true := by decide +kernel
/-- What the completion of an instruction asks: it issues with a lane to run in, and its writes find registers. -/
def completesOk (op : Nat) (f : AForm) (ws : Iss → List Write) (fl : Iss → Nat → FpFlags) (s : State) (ok : Iss → Bool := fun _ => true) : Bool :=
  goesA op f s (fun c => let m := c.lanesA op f
    m != 0 && allocTest s c (c.resultA op f m (ws c) (laneFlags m (fl c))).1 == .ok && ok c)

/-- v2 holds [1, 2] and v6 too in lane 0, an interval, and words elsewhere. -/
def fIvl : AForm := a64 4 2 0 7
theorem witness_IntervalParts : let s := base (lanesTo 1 ∘ ivl 2 0x3F800000 0x40000000 ∘ ivl 6 0x3F800000 0x40000000)
    let a := fun (c : Iss) (f : AForm) (l : Nat) => (ivlA c f l).1
    completesOk 0x8A fIvl (fun c => [.reg 4 1 (fun l => (a c fIvl l).mid fmtF32)]) (fun _ _ => 0) s = true ∧
    completesOk 0x8B fIvl (fun c => [.reg 4 1 (fun l => ((a c fIvl l).width fmtF32).1)])
      (fun c l => (ivlA c fIvl l).2 ||| ((a c fIvl l).width fmtF32).2) s = true ∧
    [0#8, 0x20#8].all (fun k => let f := { fIvl with ctl := k }
      completesOk 0x8C f (fun c => [.reg 4 1 (fun l => boundCode c 2 1 (f.sub % 2 == 1) (modLane c.prot f.moda l))]) (fun _ _ => 0) s
        (fun c => (c.h.vreg 2).tag != 0) &&
      completesOk 0x8C f (fun c => [.reg 4 1 (fun l => (a c f l).lo)]) (fun _ _ => 0) base (fun c => (c.h.vreg (vecReg f.srca)).tag == 0)) = true ∧
    (let f := { fIvl with dst := 0xC1, srcb := 6 }; completesOk 0x8D f (fun c => [.pred 1 (fun l => Ivl.cmp fmtF32 f.sub (a c f l) (ivlB c f l).1)])
      (fun c l => (ivlA c f l).2 ||| (ivlB c f l).2) s) = true ∧
    (let f := { fIvl with aux := 8 }; completesOk 0x8E f (fun c => [.ivl 4 1 (fun l => ⟨(a c f l).lo, (a c f l).mid fmtF32⟩),
      .ivl 8 1 (fun l => ⟨(a c f l).mid fmtF32, (a c f l).hi⟩)]) (fun c l => (ivlA c f l).2) s) = true := by decide +kernel

/-- The instructions of `LaneExchangeAndScan`, with no lane of another beat read; whether a register is mapped does not
depend on the values that a write brings. -/
theorem witness_LaneExchangeAndScan : [0x90, 0x92, 0x93, 0x94, 0x96, 0x97].all (fun op => match rows90.find? (fun x => x.1 == op) with
    | none => false
    | some x => completesOk op x.2 (fun _ => [.reg x.2.dst (tyRegs x.2.tyN) (fun _ => 0)]) (fun _ _ => 0) base) = true ∧
    [0x91, 0x95].all (fun op => match rows90.find? (fun x => x.1 == op) with
    | none => false
    | some x => completesOk op x.2 (fun _ => (List.range (tyRegs x.2.tyN)).map (fun k => .regAt (4 + k) 1 (fun _ => 0))) (fun _ _ => 0) base) = true := by
  decide +kernel
/-- All lanes push to lane 0, of which lane 95 is the last; `lcomp` brings lane 95, the one with T, to lane 0; the scan's
type is a 32-bit integer and its segment holds every lane; lane 0 is the first active lane and holds what it holds itself. -/
theorem witness_LaneExchangeAndScan_clauses :
    goesA 0x91 (a64 4 2 6 0xB) base (fun c => !c.prot && c.act.getLsbD 95 && c.act.getLsbD 0 && (List.range 96).all (fun j => c.srcB (a64 4 2 6 0xB) 1 0 j == 0))
      = true ∧
    goesA 0x95 (a64 4 2 0xC3 0xB) (base (prd 3 (List.replicate 95 .f ++ [.t]))) (fun c => !c.prot && (lanesOf c.act)[0]? == some 0 &&
      ((lanesOf c.act).filter (fun j => c.h.pcode (predReg 0xC3) j == .t))[0]? == some 95) = true ∧
    [0x96, 0x97].all (fun op => let f := a64 4 2 0 1 0 8
      goesA op f base (fun c => f.sub == 0 && !isF f.tyN && f.tyN != 0xA && fWidth f.tyN == 32 && visLane c.prot 0 == 0 && !c.prot && c.act.getLsbD 0 &&
        (List.range 96).all (fun k => decide (c.srcA f 1 k < 2 ^ 32)))) = true := by decide +kernel
theorem witness_Predicates : [0x98, 0x99, 0x9A, 0x9B, 0x9C, 0x9D, 0x9E].all canWrite = true := by decide +kernel

/-- Division: divisors of 1 in the lanes that run, or `.nz` with divisors of 0. -/
theorem witness_Division : [0x2B, 0x2C].all (fun op =>
    writesOk op (a64 4 2 6 1) (fun c => c.lanesA op (a64 4 2 6 1)) [.reg 4 1 (fun _ => 0)] (base (lanesTo 1 ∘ vec 6 [1])) &&
    goesA op (a64 4 2 6 1) (base (lanesTo 1 ∘ vec 6 [1])) (fun c => (List.range 96).all (fun l =>
      !(c.lanesA op (a64 4 2 6 1)).getLsbD l || decide (intB c (a64 4 2 6 1) l % 2 ^ 32 ≠ 0))) &&
    writesOk op (a64 4 2 6 1 0x20) (fun c => c.lanesA op (a64 4 2 6 1 0x20)) [.reg 4 1 (fun _ => 0)] base) = true := by decide +kernel
/-- Division: a divisor of 0 in lane 0. -/
theorem witness_Division_zero : [0x2B, 0x2C].all (fun op => goesA op (a64 4 2 6 1) base (fun c =>
    (c.lanesA op (a64 4 2 6 1)).getLsbD 0 && decide (intB c (a64 4 2 6 1) 0 % 2 ^ 32 = 0))) = true := by decide +kernel

/-- Every interval instruction with a result in lane 0: [1, 2] with [1, 2]. -/
def ones2 : Hatch → Hatch := lanesTo 1 ∘ ivl 2 0x3F800000 0x40000000 ∘ ivl 6 0x3F800000 0x40000000

def ivlWrites (f : AForm) (sub : Nat) : List Write :=
  .ivlIn f.dst 1 1 (fun _ => ⟨0, 0⟩) :: (if 4 ≤ sub then [.pred (f.aux.toNat % 8) (fun _ => .t)] else [])

theorem witness_IntervalOperations : (rows80.take 10).all (fun x =>
    let plain := x.1 == 0x80 || x.1 == 0x81
    writesOk x.1 x.2 (fun c => c.execMask false false) (ivlWrites x.2 0) (base (if plain then lanesTo 1 else ones2))) = true := by
  decide +kernel
theorem witness_IntervalOperations_results : let f := a64 4 2 6 7
    goesA 0x89 f (base ones2) (fun c => (Ivl.isect fmtF32 (ivlA c f 0).1 (ivlB c f 0).1).isSome &&
      (Ivl.div fmtF32 (ivlA c f 0).1 (ivlB c f 0).1).isSome && (Ivl.sqrt fmtF32 (ivlA c f 0).1).isSome &&
      c.execMask false false == 1) = true := by decide +kernel
/-- The `.p` form, and the empty intersection and root that trap without it: [1, 2] with [3, 4], the root of [−2, −1]. -/
theorem witness_IntervalOperations_p : writesOk 0x89 (a64 4 2 6 7 0x80 3) (fun c => c.execMask false false)
    (ivlWrites (a64 4 2 6 7 0x80 3) 4) (base ones2) = true := by decide +kernel
theorem witness_IntervalOperations_empty :
    goesA 0x89 (a64 4 2 6 7) (base (lanesTo 1 ∘ ivl 2 0x3F800000 0x40000000 ∘ ivl 6 0x40400000 0x40800000)) (fun c =>
      (Ivl.isect fmtF32 (ivlA c (a64 4 2 6 7) 0).1 (ivlB c (a64 4 2 6 7) 0).1).isNone) = true ∧
    goesA 0x87 (a64 4 2 0 7) (base (lanesTo 1 ∘ ivl 2 0xC0000000 0xBF800000)) (fun c =>
      (Ivl.sqrt fmtF32 (ivlA c (a64 4 2 0 7) 0).1).isNone) = true := by decide +kernel

/-- No lane to run in: a guard on a predicate that holds F everywhere. -/
theorem witness_NoLaneNoEffect : rows.all (fun x =>
    let f := { x.2 with gidx := 1, gsense := 1 }
    goesA x.1 f base (fun c => if 0x80 ≤ x.1 ∧ x.1 < 0x8A then c.execMask false true == 0 else c.lanesA x.1 f == 0) ||
      x.1 == 0x8F) = true := by decide +kernel

/-- `RoundingExact`: the largest finite f32 value, and −0. -/
theorem witness_RoundingExact : 0x7F7FFFFF < 2 * fmtF32.signBit ∧ 0x7F7FFFFF % fmtF32.signBit < fmtF32.infCode ∧
    0x80000000 < 2 * fmtF32.signBit ∧ 0x80000000 % fmtF32.signBit < fmtF32.infCode := by decide

/-! ### Control flow -/

/-- A guard that no lane passes, as p0 and p1 hold F everywhere; one that lanes 0 and 1 pass where p1 is T there. -/
def offB (f : BForm) : BForm := { f with gidx := 1, gsense := 1 }
def offA (f : AForm) : AForm := { f with gidx := 1, gsense := 1 }

theorem witness_PlainControl : (base.issuing).isSome = true ∧ goesA 0x08 (a64 0 0 0 0 0 7) base (fun _ => true) = true ∧
    goesA 0x0B (a64 0 0 0 0 0 7) base (fun _ => true) = true ∧ goesA 0x0A (a64 0 0 0) base (fun _ => true) = true := by decide +kernel

/-- The whole path goes, or no lane: for each branch that has these clauses. -/
def wholePath (c : Iss) : Bool := c.act == c.p.mask && c.act != 0
def noLane (c : Iss) : Bool := c.act == 0

def fBra : BForm := b64 0 16
def fCall : BForm := b64 0 16 (sr 32)
def fBrt : BForm := { b64 0xC1 16 with len96 := true, ext := 32 }

theorem witness_WholeBranches :
    goesB 0x01 (offB fBra) base noLane = true ∧ goesB 0x01 fBra base wholePath = true ∧
    goesB 0x02 (offB fBra) base noLane = true ∧ goesB 0x02 fBra base wholePath = true ∧
    goesB 0x04 fCall base wholePath = true := by decide +kernel
theorem witness_WholeBranches_brt :
    goesB 0x03 fBrt (base (prd 1 (List.replicate 96 .t))) (fun c => wholePath c && lanesWith c 1 .t == c.act && lanesWith c 1 .u == 0) = true ∧
    goesB 0x03 fBrt (base (prd 1 (List.replicate 96 .u))) (fun c => wholePath c && lanesWith c 1 .u == c.act && lanesWith c 1 .t == 0) = true ∧
    goesB 0x03 fBrt base (fun c => wholePath c && lanesWith c 1 .u == 0 && lanesWith c 1 .t == 0) = true := by decide +kernel

/-- A hatch whose program is `pad 7`, which an indirect branch through s20 names. -/
def atPad : State :=
  let s := issuing (.pad (a64 0 0 0 0 0 7)) (sca 20 [0x40000, 0])
  { s with hatches := s.hatches.map (fun h => { h with tiles := [] }) }

def fJmpi : BForm := b64 (sr 20) 7
def fCalli : BForm := b64 (sr 20) 7 (sr 32)

/-- Whether the block at an address is fetched and holds the pad asked for there. -/
def padAt (a tag : Nat) (s : State) (c : Iss) : Bool :=
  match fetchBlock s c.h { c.p with pc := a } with
  | (t, .bytes bs) => t.sched.raised.isEmpty && (padInfo bs (a % 32) tag).isNone
  | _ => false

theorem witness_WholeBranches_indirect :
    goesB 0x06 fJmpi atPad (fun c => wholePath c && c.sval fJmpi.srca 2 % 4 == 0 && padAt (c.sval fJmpi.srca 2) fJmpi.off.toNat atPad c) = true ∧
    goesB 0x07 fCalli atPad (fun c => wholePath c && c.sval fCalli.srca 2 % 4 == 0 && padAt (c.sval fCalli.srca 2) fCalli.off.toNat atPad c) = true := by
  decide +kernel

def fRet : AForm := a64 0 (sr 20) 0
theorem witness_WholeBranches_ret :
    goesA 0x05 (offA fRet) base noLane = true ∧
    goesA 0x05 fRet (base (sca 20 [0x40004, 0])) (fun c => wholePath c && c.sval fRet.srca 2 % 4 == 0) = true ∧
    goesA 0x05 fRet (base (sca 20 [0x40002, 0])) (fun c => c.act != 0 && c.sval fRet.srca 2 % 4 != 0) = true := by decide +kernel

theorem witness_SplitsAndLoops_split : goesB 0x01 (offB fBra) (base (prd 1 [.t, .t])) (fun c =>
    c.act != 0 && c.p.mask &&& ~~~c.act != 0 && c.h.pstack.isEmpty && (c.h.path? (1 - c.slot)).isNone && decide (c.slot < 2) &&
    (splitFree c.h).isSome && decide (c.h.divDepth ≤ 64) && decide (c.h.splits.length < 8)) = true := by decide +kernel

def fLoop : BForm := b64 (sr 20) 10
def fBrk (n : BitVec 21) : BForm := b64 0 n
def fCont : BForm := b64 0 0

/-- Four loop bodies around the next instruction. -/
def fourLoops : Hatch → Hatch := pathed (fun p => { p with loops := List.replicate 4 ⟨0x3FF00, 0x1000, 2⟩ })

theorem witness_SplitsAndLoops_loop :
    goesB 0x0C fLoop (base (sca 20 [3])) (fun c => c.p.loops.isEmpty) = true ∧ goesB 0x0C fLoop base (fun c => c.sval fLoop.srca 1 == 0) = true ∧
    goesB 0x0C fLoop (base (fourLoops ∘ sca 20 [3])) (fun c => c.p.loops.length == 4 &&
      (c.p.loops.head?).all (fun x => relTarget c.p.pc fLoop.off ≤ x.start + x.len)) = true := by decide +kernel
theorem witness_SplitsAndLoops_brk :
    goesB 0x0D (fBrk 1) (base fourLoops) (fun c => wholePath c && decide ((fBrk 1).off.toNat ≤ c.p.loops.length)) = true ∧
    goesB 0x0D (fBrk 4) (base fourLoops) (fun c => wholePath c && decide ((fBrk 4).off.toNat ≤ c.p.loops.length)) = true ∧
    goesB 0x0E fCont (base fourLoops) (fun c => wholePath c && !c.p.loops.isEmpty) = true := by decide +kernel

/-- A path that is the last of its split record. -/
def lastOfSplit (h : Hatch) : Hatch :=
  { pathed (fun p => { p with split := some 0 }) h with
    splits := [⟨0, BitVec.ofNat 96 (2 ^ 96 - 1), BitVec.ofNat 96 (2 ^ 96 - 1), none, 2, false, 0⟩], splitUsed := 1 }

theorem witness_JoinAndPredicateStack_join :
    goesA 0x09 (a64 0 0 0) base (fun c => c.h.pstack.isEmpty && c.p.split.isNone) = true ∧
    goesA 0x09 (a64 0 0 0) (base lastOfSplit) (fun c => c.h.pstack.isEmpty && c.p.split == some 0 && !c.h.splitOut.getLsbD 0 &&
      (c.h.splits.find? (fun x => x.idx == 0)).elim false (fun r => r.outstanding &&& ~~~c.p.domain == 0)) = true := by decide +kernel

def stackOf (n : Nat) (h : Hatch) : Hatch := { h with pstack := List.replicate n (List.replicate 96 .t) }
def fPushp : AForm := a64 0 0xC1 0

theorem witness_JoinAndPredicateStack :
    goesA 0x0F fPushp (base (stackOf 15)) (fun c => decide (c.h.pathCount ≤ 1) && decide (c.h.pstack.length < 16)) = true ∧
    goesA 0x0F fPushp (base (stackOf 16)) (fun c => decide (c.h.pathCount ≤ 1) && decide (16 ≤ c.h.pstack.length)) = true ∧
    goesA 0x10 (a64 0 0 0) (base (stackOf 1)) (fun c => !c.h.pstack.isEmpty) = true ∧
    goesA 0x11 (a64 0 0 0) (base (stackOf 1)) (fun c => !c.h.pstack.isEmpty) = true ∧
    goesA 0x11 (a64 0 0 0) base (fun c => c.h.pstack.isEmpty) = true := by decide +kernel

/-! ### Traps and system instructions -/

def software : TrapReport := { code := 0x19, info := 5, addr := 0, mask := 1 }

def frameWritten (s : State) : Bool := match (writeFrame 1 false 0 0x40000 software).run s with
  | .ok () s => (s.hatch? 1).isSome
  | .error _ _ => false

theorem witness_TrapEntryAndReturn_entry : frameWritten base = true ∧ ((base.hatch? 1).map (·.handler)) = some false ∧
    ((base handling).hatch? 1).map (·.handler) = some true := by decide +kernel

/-- The handler of that trap, about to issue. -/
def inHandler : State := { takeTrap base 1 0 0x40000 software with cur := some ⟨1, 0⟩ }

/-- Whether the frame reads back and is restored. -/
def returns (c : Iss) (s : State) : Bool := match framePc s c.h with
  | .ok bs s1 => bytesNat bs == 0x40000 && (match (restoreFrame c.inst 0x40000 false).run (noteIssue s1 c.inst c.slot) with
    | .ok () _ => true
    | .error _ _ => false) && (match fetchBlock s1 c.h { c.p with pc := 0x40000 } with
    | (s2, .bytes blk) => match (restoreFrame c.inst (wrap64 (0x40000 + skipLength blk 0)) true).run (noteIssue s2 c.inst c.slot) with
      | .ok () _ => true
      | .error _ _ => false
    | _ => false)
  | .error _ _ => false

theorem witness_TrapEntryAndReturn : goesA 0x14 (a64 0 0 0) base (fun c => !c.p.handler) = true ∧
    goesA 0x14 (a64 0 0 0) inHandler (fun c => c.p.handler && !c.h.noRestart && !c.h.atRestart && returns c inHandler) = true := by
  decide +kernel

theorem witness_TrapsTaken :
    [0x13, 0x16, 0x1A].all (fun op => goesA op (a64 0 0 0 0 0 5) base (fun c => c.act != 0) &&
      goesA op (offA (a64 0 0 0 0 0 5)) base noLane) = true ∧
    (base.issuing).map (preA 0x53 (a64 4 2 6 1)) = some (.trap 0x02 0x07) := by decide +kernel

def fRdsr (n : BitVec 8) : AForm := a64 (sr 20) 0 0 0 0 n
def fWrsr (n : BitVec 8) : AForm := a64 0 (sr 20) 0 0 0 n

/-- `rdsr` of a register issues, and finds registers. -/
def reads (s : State) (n : BitVec 8) : Bool := goesA 0x17 (fRdsr n) s (fun c => !flagsPending s c.h &&
  c.execMask true false != 0 && allocTest s c (c.resultA 0x17 (fRdsr n) (c.execMask true false) [.reg (fRdsr n).dst 1 (fun _ => 0)] 0).1 == .ok)

theorem witness_SpecialRegistersAndVote :
    [0x02, 0x03, 0x06, 0x07, 0x08, 0x09, 0x0E, 0x0F, 0x10, 0x11, 0x12, 0x13, 0x14, 0x19].all (fun n => reads base (BitVec.ofNat 8 n)) = true ∧
    reads inHandler 0x04 = true := by decide +kernel
theorem witness_SpecialRegistersAndVote_wrsr :
    goesA 0x18 (fWrsr 0x02) base (fun c => !flagsPending base c.h) = true ∧
    goesA 0x18 (fWrsr 0x0F) (base (sca 20 [7])) (fun c => c.sval (sr 20) 1 == 7) = true ∧
    goesA 0x18 (fWrsr 0x0F) (base (sca 20 [8])) (fun c => c.sval (sr 20) 1 == 8) = true ∧
    goesA 0x18 (fWrsr 0x06) inHandler (fun c => c.p.handler) = true ∧
    [0x04, 0x05, 0x06, 0x07, 0x08, 0x09, 0x0A, 0x0B].all (fun n => goesA 0x18 (fWrsr (BitVec.ofNat 8 n)) base (fun c => !c.p.handler)) = true := by
  decide +kernel
theorem witness_SpecialRegistersAndVote_vote : [0, 0x20, 0x40, 0x60, 0x80, 0xA0].all (fun k =>
    writesOk 0x19 (a64 (sr 20) 0xC1 0 0 (BitVec.ofNat 8 k)) (fun c => c.onceMask) [.reg (sr 20) 3 (fun _ => 0)] base &&
    goesA 0x19 (a64 (sr 20) 0xC1 0 0 (BitVec.ofNat 8 k)) base (fun c => c.act != 0)) = true := by decide +kernel

def fRegion : AForm := a64 0 (sr 24) 0
def fSys (sub : BitVec 8) : AForm := a64 0 0xD1 0xD1 0 (sub * 0x20)

theorem witness_SystemControls_region : goesA 0x15 fRegion (base (sca 24 [0, 0x8, 0, 0])) (fun c => !c.p.handler && decide (c.h.pathCount ≤ 1) &&
    c.h.pstack.isEmpty && decide ((regionNames c fRegion.srca).length ≤ 16) && c.h.c0.isEmpty && c.h.c1.isEmpty && c.h.c2.isEmpty && c.h.c3.isEmpty &&
    drained (base (sca 24 [0, 0x8, 0, 0])) c.h && c.h.emptyS == 0 &&
    (match (areaWrite c.inst 0x1C00 (regionRecord c 0x40008 [] (regionNames c fRegion.srca))).run (base (sca 24 [0, 0x8, 0, 0])) with
      | .ok () s1 => s1.sched.raised.isEmpty
      | .error _ _ => false)) = true := by decide +kernel
theorem witness_SystemControls : goesA 0x12 (a64 0 0 0) base (fun c => drained base c.h && loadsDone base c.h && c.h.mt4Ports == 0 &&
      c.h.slot0.isSome != c.h.slot1.isSome && c.h.dstack.isEmpty && c.p.split.isNone) = true ∧
    goesA 0x1B (fSys 2) base (fun c => drained base c.h && loadsDone base c.h && c.h.mt4Ports == 0 &&
      (releaseAll base c.h).sched.raised.isEmpty) = true ∧
    goesA 0x1C (a64 0 0xD1 0 0 0x62) base (fun c => (ctlAll base c.h.core true 2).sched.raised.isEmpty &&
      (ctlAll base c.h.core true 2).coh.agents.all (fun a => !a.wbBuf)) = true := by decide +kernel
theorem witness_SystemControls_results :
    goesA 0x1D (a64 (sr 20) 0 0 0 0x20 12) base (fun c => c.execMask true false != 0 &&
      (let n := min 12 (min ((base.core c.h.core).ways.filter isFreeWay).length (lsWays (base.core c.h.core) - 2))
       let s1 := base.updCore c.h.core (fun k => { k with ways := convertWays isFreeWay .l1 n k.ways })
       allocTest s1 c (c.resultA 0x1D (a64 (sr 20) 0 0 0 0x20 12) (c.execMask true false) [.reg (sr 20) 1 (fun _ => n)] 0).1 == .ok)) = true ∧
    goesA 0x1E (a64 (sr 20) (sr 22) 0) (base (sca 22 [0, 0x80000000])) (fun c => !canonical (c.sval (sr 22) 2) && c.execMask true false != 0 &&
      allocTest base c (c.resultA 0x1E (a64 (sr 20) (sr 22) 0) (c.execMask true false) [.reg (sr 20) 2 (fun _ => 0)] 0).1 == .ok) = true := by
  decide +kernel

/-- `errinj` of poison at 0x8_0000. -/
def wErrinj : State := base (sca 22 [0x80000, 0] ∘ sca 24 [0x0101])
theorem witness_SystemControls_errinj : goesA 0x1F (a64 (sr 20) (sr 24) (sr 22)) wErrinj (fun c =>
    c.sval (sr 24) 1 % 65536 == 0x0101 && (match translate wErrinj c.h.core (ctxOf wErrinj c.h) c.kern .store (c.sval (sr 22) 2) with
      | (s1, .ok pa mt _ _ _) => decide (mt < 3) && (injectSector s1 pa 0x0101).sched.raised.isEmpty &&
        allocTest (injectSector s1 pa 0x0101) c (c.resultA 0x1F (a64 (sr 20) (sr 24) (sr 22)) (c.execMask true false) [.reg (sr 20) 1 (fun _ => 0)] 0).1 == .ok
      | _ => false)) = true := by decide +kernel

end Sys2Proof.Tests
end

