-- ==== Sys2Proof/Tests/WitnessMemory.lean ====
section
/-! SUPPORT. Witnesses: memory, synchronisation, matrix, copy and launch instructions. -/

namespace Sys2Proof.Tests

open Machine

set_option Elab.async false

/-! ### Decoding, stepping, registers, memory, translation -/

/-- `Encoding`: well-formed instructions of three lengths, and the words that are no instruction. -/
theorem witness_Encoding : (Instr.nop .l64 3).encodable = true ∧ (Instr.fadd (a96 4 2 0xF0 7 0 0 0x3F800000)).encodable = true ∧
    (Instr.ld (m128 4 (sr 20) 0xD1 4)).encodable = true ∧
    decode (encode (.nop .l64 3) ++ [7]) = .ok (.nop .l64 3, [7]) ∧
    (3#128).extractLsb' 0 2 = 3#2 ∧ 0xE0 ≤ ((0x3FC#128).extractLsb' 2 8).toNat ∧
    ((0x102#128).extractLsb' 0 2 = 2#2 ∧ ((0x102#128).extractLsb' 2 8).toNat = 0x40) ∧
    0x9F ≤ ((0x280#128).extractLsb' 2 8).toNat ∧ ((0x280#128).extractLsb' 2 8).toNat < 0xE0 := by decide +kernel

/-- A machine with given bytes where its program stands and its path at an offset in them. -/
def placedAt (bs : List Byte) (off : Nat) : State :=
  let s := placeProgram State.reset bs
  { s with hatches := s.hatches.map (pathed (fun p => { p with pc := p.pc + off })) }

/-- Whether the machine fetches at its best path, nothing else being due, and P holds of the word there. -/
def fetches (s : State) (P : Nat → State → BitVec 128 → Bool) : Bool :=
  s.turns.isEmpty && s.inbox.isEmpty && s.net.isEmpty && (match bestPath (candidates s) with
    | some (h, slot, p) => deferredTrap s h == none && (match fetchBlock { s with cur := some ⟨h.inst, slot⟩, arg := {} } h p with
      | (t, .bytes bs) => P (p.pc % 32) t (bytesWord (sliceBytes bs (p.pc % 32) 16))
      | _ => false)
    | none => false)

def decodes (w : BitVec 128) (ok : Instr → Bool) : Bool := match decodeWord w with
  | .ok i => ok i
  | .error _ => false

/-- The instruction that stands at the best path finds its pipe and its operands. -/
def pipeFree (s : State) (i : Instr) : Bool := (bestPath (candidates s)).elim false (fun x => pipeReady s x.1 i)

theorem witness_StepRunsDecoded_pipe : pipeFree (placedAt (encode (.nop .l64 0)) 0) (.nop .l64 0) = true ∧
    pipeFree ((placedAt (encode (.nop .l64 0)) 0).updCore 0 (fun k => { k with taken := [⟨2, 0, 3, 0, 5, 5, 0, 0, 0⟩] })) (.nop .l64 0) = false := by
  decide +kernel
theorem witness_StepRunsDecoded :
    fetches (placedAt (encode (.nop .l64 0)) 0) (fun at_ t w => t.issuing.isSome && t.wants.isEmpty && decodes w (fun i => i == .nop .l64 0 && decide (at_ + i.bytes ≤ 32)))
      = true ∧
    fetches (placedAt (List.replicate 24 0 ++ encode (.ld (m128 4 (sr 20) 0xD1 4))) 24)
      (fun at_ t w => t.wants.isEmpty && decodes w (fun i => decide (32 < at_ + i.bytes))) = true ∧
    fetches (placedAt [3] 0) (fun _ t w => t.wants.isEmpty && w.extractLsb' 0 2 == 3#2) = true := by decide +kernel
theorem witness_StepRunsDecoded_events : (Instr.promotion).form = .event ∧ State.reset.turns = [] ∧ State.reset.inbox = [] ∧
    State.reset.net = [] ∧ bestPath (candidates State.reset) = none ∧ State.reset.sched.raised = [] ∧ State.reset.pkg.thermtrip = false ∧
    homeRequest .promotion = false ∧ State.reset.wants = [] ∧ State.reset.fab.lost = [] ∧
    (State.reset.post .promotion {}).net = [⟨.promotion, {}⟩] := by decide +kernel

theorem witness_EveryStepAnswers : State.reset.Settled := rfl

/-- The hatch and path of `base`. -/
def hatch0 (g : Hatch → Hatch := id) : Hatch := ((base g).hatch? 1).getD ((newHatch 1 (newBlock 0 1 0 0 progRec 0) progRec 0 0 0 0 0))

theorem witness_RegisterWrites : hatch0.v.length = 64 ∧ hatch0.s.length = 128 ∧ hatch0.p.length = 8 ∧ specKind 4 = .v 4 ∧
    specKind (sr 20) = .s 20 ∧ specKind (sr 127 - 64) = .s 63 ∧ specKind (sr 0) = .s 0 ∧ specKind (sr 2) = .s 2 ∧ specKind (sr 3) = .s 3 ∧
    specKind 0xFF = .null := by decide +kernel

theorem witness_MemoryReadsBack : Memory.wf State.reset.mem = true ∧ Memory.wf base.mem = true ∧ lineIsOwn State.reset 0x400 = true ∧
    (lineKey State.reset 0x400).isSome = true ∧ 126 + [1#8, 2#8].length ≤ 128 ∧ (96 ≤ 32 * 3 ∧ 32 * 3 + 32 ≤ 96 + (List.replicate 32 (1#8)).length) := by
  decide +kernel

/-- The machine with the data page's TLB entry changed. -/
def withTlb (g : TlbEntry → TlbEntry) (s : State := base) : State := s.updCore 0 (fun k => { k with tlb := k.tlb.map (fun e => if e.page == 8 then g e else e) })

/-- Core 0's TLB serves 0x8_0010, and something holds of its entry. -/
def served (s : State) (P : TlbEntry → Bool) : Bool := canonical 0x80010 && (l1Tlb s 0 0 0x80010).elim false P

theorem witness_Translation : canonical (2 ^ 60) = false ∧
    served (withTlb (fun e => { e with pa := 0 })) (fun e => paUnbacked base 0x20010 == false && e.r) = true ∧
    served (withTlb (fun e => { e with pa := 2 ^ 40 })) (fun e => paUnbacked base (e.pa + 0x10)) = true ∧
    served (withTlb (fun e => { e with r := false })) (fun e => !e.r) = true ∧
    served (withTlb (fun e => { e with w := false })) (fun e => !e.w && e.d) = true ∧
    served (withTlb (fun e => { e with x := false })) (fun e => !e.x) = true ∧
    served base (fun e => !e.u) = true ∧
    served (withTlb (fun e => { e with f := true })) (fun e => e.f && AccKind.writes .store && e.w) = true ∧
    served base (fun e => e.d && !e.f && e.r && e.w) = true := by decide +kernel

/-! ### Memory instructions -/

/-- s20 and s21 name an address of the data page. -/
def at20 (a : Nat) : Hatch → Hatch := sca 20 [a]
def fMem (d : BitVec 8) (cnt : BitVec 2 := 2) (twf : BitVec 4 := 4) (x : BitVec 8 := 0) : MForm :=
  { m128 d (sr 20) 0xD1 twf x with cnt := cnt }

/-- The lanes of an instruction translate without a fault, and something holds of them and of the state after. -/
def resolves (s : State) (c : Iss) (op : Nat) (f : MForm) (k : AccKind) (ok : State → List LaneAcc → Bool) : Bool :=
  let r := resolveLanes s c.h.core (ctxOf s c.h) c.kern k (op == 0xAA) ((laneAddrs op f c).map (fun a => LaneAcc.start a.1 a.2 []))
  r.1.sched.raised.isEmpty && (r.1.hatch? c.inst).isSome && r.2.all (fun a => a.fault == 0) && ok r.1 r.2

def loadOk (op : Nat) (f : MForm) (s : State) : Bool := goesF op f s (fun c =>
  c.act != 0 && !c.h.countFull 2 && (alignFault (accSize op f) (laneAddrs op f c)).isNone && resolves s c op f .load (fun s1 _ =>
    allocTest s1 c ((allocWrites (mShape op f) (op == 0xAB)).foldl (applyWrite c.prot 0) (c.h.freeLast (mShape op f), c.p)).1 == .ok))
def misaligned (op : Nat) (f : MForm) (s : State) : Bool := goesF op f s (fun c =>
  c.act != 0 && !c.h.countFull 2 && c.shadowOk (mShape op f) && (alignFault (accSize op f) (laneAddrs op f c)).isSome)
def storeOk (op : Nat) (f : MForm) (s : State) : Bool := goesF op f s (fun c =>
  c.shadowOk (mShape op f) && c.act != 0 && !c.h.countFull 2 && (alignFault (accSize op f) (laneAddrs op f c)).isNone &&
  (!f.releases || releaseReady s c.h == (s, true)) && allocTest s c (c.h.freeLast (mShape op f)) == .ok)

/-- The data page without write permission, as `ldc` asks (R382). -/
def readable (g : Hatch → Hatch) : State := withTlb (fun e => { e with w := false }) (base g)

def loadForms : List (Nat × MForm) := [(0x9F, fMem 4), (0x9F, fMem 0xFF), (0xA1, fMem 4), (0xA8, fMem 0x60), (0xAA, fMem 4), (0xAB, fMem 4 2 5), (0xB2, fMem 4 2 4 0xC1)]
def storeForms : List (Nat × MForm) := [(0xA0, fMem 4), (0xA0, fMem 0x60), (0xA2, fMem 4), (0xA9, fMem 0x60), (0xAC, fMem 4 2 5), (0xAE, fMem 0), (0xAF, fMem 0 2 0)]

theorem witness_LoadsAndStoresBegin_loads : loadForms.all (fun x => loadOk x.1 x.2 (readable (at20 0x80000))) = true := by decide +kernel
theorem witness_LoadsAndStoresBegin_align : (loadForms ++ storeForms.filter (fun x => x.1 != 0xAE)).all (fun x =>
    misaligned x.1 x.2 (base (at20 0x80001))) = true := by decide +kernel
theorem witness_LoadsAndStoresBegin_stores : storeForms.all (fun x => storeOk x.1 x.2 (base (at20 0x80000))) = true ∧
    storeOk 0xA0 { fMem 4 with ord := 2 } (base (at20 0x80000)) = true := by decide +kernel
theorem witness_LoadsAndStoresBegin_prf : (let f := fMem 0 2 0; let s := base (at20 0x80000); goesF 0xAD f s (fun c =>
    c.act != 0 && !c.h.countFull 2 && (let r := prefetchLanes s c (laneAddrs 0xAD f c)
      r.1.sched.raised.isEmpty && (r.1.hatch? c.inst).isSome && !r.2.isEmpty && allocTest r.1 c (c.h.freeLast (mShape 0xAD f)) == .ok)) = true) := by
  decide +kernel

/-- The state after an instruction or event, with what the next event concerns. -/
def ran (i : Instr) (s : State) (arg : Arg := {}) : State := match exec i s with
  | .next t => { t with arg := arg }
  | _ => s
/-- The operation that began first, and the state after. -/
def firstOp (s : State) (P : Op → Bool) : Bool := (s.ops.head?).elim false P
/-- An instruction has begun, and an event of its operation at its first line is next. -/
def begun (i : Instr) (s : State) (g : Op → Op := id) : State :=
  let t := ran i s
  match t.ops with
  | o :: r => let o := g o
    { t with ops := o :: r, arg := { op := o.id, line := (o.lanes.head?.map LaneAcc.line).getD 0, src := .op o.id ((o.lanes.head?.map LaneAcc.line).getD 0) } }
  | [] => t

def fLd : MForm := fMem 4
/-- Core 0's L1 holds the first line of the data page. -/
def near (g : Hatch → Hatch) : State :=
  (base g).updCore 0 (fun c => { c with l1 := (L1Line.fresh (0x400) .read (List.replicate 128 9) 0 0) :: c.l1 })
def sLd : State := begun (.ld fLd) (near (lanesTo 2 ∘ at20 0x80000))
/-- What `LoadDataReturns` asks of a load of `op` at MT 0 to 2. -/
def returnsOk (op : Nat) (f : MForm) (s : State) : Bool := firstOp s (fun o => instrForm o.what == some (op, f) && !f.acquires &&
  (match o.lanes with
  | [] => false
  | a :: r => (a :: r).all (fun x => x.pending && x.line == s.arg.line && decide (x.mt < 3) && decide (x.lane < 96)) &&
    decide (((a :: r).map (·.lane)).Nodup) && (List.range 96).all (fun l => o.active.getLsbD l == (a :: r).any (fun x => x.lane == l)) &&
    !olderBlocks s o s.arg.line a.mt && (match readLine s o.core s.arg.line (sectorsAt o.lanes s.arg.line (accSize op f))
      { mt := a.mt, frozen := o.lanes.all (·.frozen), acquire := false, ldc := op == 0xAA && a.mt < 2, hint := f.hint.toNat, op := o.id } with
      | (s1, some (_, 0)) => s1.sched.raised.isEmpty && (s1.hatch? o.hatch).elim false (fun h => !hatchProt s1 h && h.v.length == 64) && decide (f.d.toNat < 64)
      | _ => false)))

theorem witness_LoadDataReturns : returnsOk 0x9F fLd sLd = true ∧ returnsOk 0xA1 fLd (begun (.ldb fLd) (near (at20 0x80000 ∘ lanesTo 2))) = true ∧
    returnsOk 0xAA fLd (begun (.ldc fLd) (readable (at20 0x80000 ∘ lanesTo 2))) = true := by decide +kernel

/-- A load of one lane from host memory, and what the host answered. -/
def sMt4 : State := let s := begun (.ld fLd) (withTlb (fun e => { e with mt := 4 }) (base (lanesTo 1 ∘ at20 0x80000)))
  { s with arg := { s.arg with compl := .data ([1#8, 2#8, 3#8] ++ List.replicate 125 0) } }
/-- A zero-length read of port 0, and an atomic whose completer does not support it. -/
def sFlush (n : Nat) : State := begun (.ld fLd) (base (lanesTo 1 ∘ at20 0x80000)) (fun o => { o with what := .nop .l64 1, vals := [0], lanes := [], prog := n })
def sUnsup : State := begun (.ld fLd) (base (lanesTo 1 ∘ at20 0x80000)) (fun o => { o with what := .atom fLd })

theorem witness_LoadDataReturns_mt4 : firstOp sMt4 (fun o => o.what == .ld fLd && !fLd.acquires && (match o.lanes with
    | [a] => a.pending && a.line == sMt4.arg.line && a.mt == 4 && decide (a.lane < 96) && o.active == laneBit a.lane &&
      (match sMt4.arg.compl with
      | .data bs => let s1 := l1Put sMt4 o.core (L1Line.fresh (sMt4.arg.line) .mt4 (sliceBytes bs 0 128) 0 0) false
        s1.sched.raised.isEmpty && (s1.hatch? o.hatch).elim false (fun h => !hatchProt s1 h && h.v.length == 64)
      | _ => false)
    | _ => false)) = true ∧
    [0, 1].all (fun n => let s := sFlush n; s.sched.raised.isEmpty && firstOp s (fun o => o.what == .nop .l64 1 && o.vals == [0] && o.prog == n &&
      s.op? s.arg.op == some o)) = true ∧ sUnsup.sched.raised = [] ∧
    firstOp sUnsup (fun o => o.what == .atom fLd && sUnsup.arg.compl == .unsupported && sUnsup.op? sUnsup.arg.op == some o) = true := by
  decide +kernel

def fSt : MForm := fMem 4
/-- A store of one lane about to ask for permission, its core's L1 holding the line as `k`. -/
def storing (k : L1Line → L1Line) : State :=
  let s := begun (.st fSt) (base (lanesTo 1 ∘ at20 0x80000 ∘ vec 4 [7]))
  let s := { s with ops := s.ops.map (fun (o : Op) => { o with lanes := o.lanes.map (fun (a : LaneAcc) => { a with tr := true, pa := 0x20000 }) }) }
  let s := s.updCore 0 (fun c => { c with l1 := k (L1Line.fresh (0x400) .exclusive (List.replicate 128 9) 0 0) :: c.l1 })
  { s with arg := { s.arg with line := 0x400 } }

def madeOk (s : State) (P : L1Line → Op → Bool) : Bool := firstOp s (fun o => s.sched.raised.isEmpty && s.op? s.arg.op == some o && !o.acquires &&
  !(o.lanesAt s.arg.line).isEmpty && decide (o.core < s.cores.length) && !lineDead s s.arg.line && (s.core o.core).sfrWait.isEmpty &&
  !olderBlocks s o s.arg.line 0 && o.relKind == 0 && ((s.core o.core).line? s.arg.line).elim false (fun l => P l o))

theorem witness_StoreEvents : madeOk (storing id) (fun l _ => l.kind == .exclusive) = true ∧
    madeOk (storing (fun l => { l with kind := .privatised, mask := BitVec.allOnes 128 })) (fun l o => l.kind == .privatised &&
      l.mask ||| l.dirty ||| (storeImage (o.lanesAt 0x400)).2 == l.mask ||| l.dirty) = true ∧
    madeOk (storing (fun l => { l with kind := .privatised })) (fun l o => l.kind == .privatised &&
      (otherWriters (storing (fun l => { l with kind := .privatised })) o.core 0x400).all (fun k =>
        ownMask (storing (fun l => { l with kind := .privatised })) k 0x400 &&& (storeImage (o.lanesAt 0x400)).2 == 0)) = true := by decide +kernel

def sFault : State := begun (.st fSt) (base (lanesTo 1 ∘ at20 0x80000)) (fun o => { o with
  lanes := o.lanes.map (fun a => { a with tr := true, fault := 0x11, cause := 5, level := 3 }) })
theorem witness_StoreEvents_fault : sFault.sched.raised = [] ∧ firstOp sFault (fun o => sFault.op? sFault.arg.op == some o && !o.acquires && (match o.lanes with
    | [a] => a.fault != 0 && !a.done && (sFault.hatch? o.hatch).isSome && decide (o.core < sFault.cores.length) &&
      decide ((sFault.core o.core).sfrq.length < 32) && (sFault.core o.core).sfrWait.isEmpty
    | _ => false)) = true := by decide +kernel

def fAtom : MForm := fMem 4 2 1 0x5C
def sAtom : State := begun (.atom fAtom) (base (lanesTo 1 ∘ at20 0x80000 ∘ sca 28 [3]))
def sCas : State := begun (.cas fAtom) (base (lanesTo 1 ∘ at20 0x80000))
/-- What `StoreEvents` asks of an atomic of one lane. -/
def atomReady (op : Nat) (f : MForm) (s : State) : Bool := firstOp s (fun o => (match o.lanes with
  | [a] =>
    let n := atomBytes op f
    let s1 := (coherentRead (takeLine s a.line) a.pa n).1
    let s2 := takeLine s1 a.line
    s.arg.src == .op o.id a.line && s.op? o.id == some o && a.pending && !a.poison && o.active == laneBit a.lane && decide (a.lane < 96) &&
    !f.acquires && o.relKind == 0 && o.prog == 0 && s.wants.isEmpty && s2.wants.isEmpty && (s.core o.core).sfrWait.isEmpty && !lineDead s a.line && lineIsOwn s a.line && (lineKey s a.line).isSome &&
    !olderBlocks s o a.line a.mt && homeReady s a.line == (s, true) && !(peekPa s1 a.pa n).2 && decide (offsetInLine a.pa + n ≤ 128) &&
    s2.sched.raised.isEmpty && s2.sched.watches.isEmpty && !o.silent &&
    (atomResult op f (bytesNat (peekPa s1 a.pa n).1) (o.xAt a) (o.dAt a)).isSome &&
    (s2.hatch? o.hatch).elim false (fun h => !hatchProt s2 h && h.v.length == 64) && decide (f.d.toNat < 64)
  | _ => false))

theorem witness_StoreEvents_atomics : atomReady 0xB3 fAtom sAtom = true ∧ atomReady 0xB9 fAtom sCas = true := by decide +kernel
theorem witness_StoreEvents_remote : homeReady State.reset 0x400 = (State.reset, true) ∧ lineIsOwn State.reset 0x400 = true ∧
    lineDead State.reset 0x400 = false ∧ State.reset.arg.listed = none ∧ (takeLine State.reset 0x400).wants = [] ∧
    lineOf 0x20010 = 0x400 ∧ (lineKey State.reset 0x400).isSome = true ∧ offsetInLine 0x20010 + [1#8, 2#8].length ≤ 128 ∧
    (takeLine State.reset 0x400).sched.raised = [] ∧ (takeLine State.reset 0x400).sched.watches = [] := by decide +kernel

/-- The hatch's block has 64 KiB of local store in way 0 of its core. -/
def withLocal (g : Hatch → Hatch) : State :=
  let s : State := base g
  let s := { s with sched := { s.sched with launches := s.sched.launches.map (fun (l : Launch) => { l with rcd := { l.rcd with local_ := 65536 } }) } }
  s.updCore 0 (fun k => { k with ways := k.ways.set 0 (.owned (hatch0 g).block [] []) })

/-- What `LocalAccesses` asks of the state of every clause. -/
def localState (op : Nat) (f : MForm) (s : State) (ok : Iss → Bool) : Bool := goesF op f s (fun c => !c.prot && c.act != 0 && !c.h.countFull 2 &&
  (s.core c.h.core).sfrWait.isEmpty && decide (c.h.core < s.cores.length) &&
  decide (c.rcd.local_ ≤ 65536 * (ownedWays s c.h.core c.h.block).length) && (s.core c.h.core).ways.all (fun w => match w with
    | .owned _ cells _ => Memory.wf cells
    | _ => true) && ok c)
def localLoadOk (op n align : Nat) (f : MForm) (at_ : Iss → Nat → Nat) (w : Nat) (s : State) : Bool := localState op f s (fun c =>
  !f.acquires && (mShape op f).srcs.all (fun u => !u.last) && c.h.v.length == 64 && decide (f.d.toNat + w ≤ 64) &&
  (lanesOf c.act).all (fun j => at_ c j % align == 0 && localOk c.rcd (at_ c j) n && !localPoison s c.h.core c.h.block (at_ c j) n) &&
  allocTest s c ((allocWrites (mShape op f) false).foldl (applyWrite false 0) (c.h, c.p)).1 == .ok)
def localStoreOk (op n align : Nat) (f : MForm) (at_ : Iss → Nat → Nat) (s : State) : Bool := localState op f s (fun c =>
  c.shadowOk (mShape op f) && (!f.releases || releaseReady s c.h == (s, true)) &&
  (lanesOf c.act).all (fun j => at_ c j % align == 0 && localOk c.rcd (at_ c j) n))

theorem witness_LocalAccesses_loads : let s := withLocal (at20 0x100)
    localLoadOk 0xA3 4 4 (fMem 4) (fun c => localAddr c (fMem 4)) (mRule 0xA3 (fMem 4)).d.width s = true ∧
    localLoadOk 0xA5 4 4 (fMem 4) (fun c _ => localAddr c (fMem 4) 0) (mRule 0xA5 (fMem 4)).d.width s = true ∧
    localLoadOk 0xA6 (4 * groupCount (fMem 4)) 4 (fMem 4) (fun c => laneMajor c (fMem 4)) (groupCount (fMem 4)) s = true := by decide +kernel
/-- The last lane's word ends at the last byte of local store. -/
theorem witness_LocalAccesses_stores : let s := withLocal (at20 65532)
    localStoreOk 0xA4 4 4 (fMem 4) (fun c => localAddr c (fMem 4)) s = true ∧
    localStoreOk 0xA7 (4 * groupCount (fMem 4)) 4 (fMem 4) (fun c => laneMajor c (fMem 4)) (withLocal (at20 0)) = true := by decide +kernel

def atomForms : List (Nat × MForm) := [(0xB3, fMem 4 2 1 0x5C), (0xB4, fMem 4 2 7 0x5C), (0xB9, fMem 4 2 1 0x5C), (0xBA, fMem 4 2 0), (0xB6, fMem 0 2 7)]
def atomInstr (op : Nat) (f : MForm) : Instr :=
  if op == 0xB3 then .atom f else if op == 0xB4 then .atomf f else if op == 0xB9 then .cas f else if op == 0xBA then .cas128 f else .atomflush f
theorem witness_AtomicsBegin : atomForms.all (fun x => let s := base (at20 0x80000); goesF x.1 x.2 s (fun c =>
    (ownOp s c (atomInstr x.1 x.2)).isNone && c.shadowOk (mShape x.1 x.2) && c.act != 0 && !c.h.countFull 2 &&
    (alignFault (atomBytes x.1 x.2) (laneAddrs x.1 x.2 c)).isNone && (!x.2.releases || releaseReady s c.h == (s, true)) &&
    resolves s c x.1 x.2 .atomic (fun s1 lanes => lanes.all (fun a => a.mt != 4) &&
      allocTest s1 c ((allocWrites (mShape x.1 x.2) false).foldl (applyWrite c.prot 0) (c.h.freeLast (mShape x.1 x.2), c.p)).1 == .ok))) = true := by
  decide +kernel
/-- The corners of the atomic functions: a sum that wraps, a count at its limit, a comparison that holds. -/
theorem witness_AtomicsBegin_values : atomNew 0 32 false 0xFFFFFFFF 1 = 0 ∧ atomNew 8 32 false 5 5 = 0 ∧ atomNew 9 32 false 0 5 = 5 ∧
    atomNew 2 32 true 0xFFFFFFFF 1 = 0xFFFFFFFF ∧ atomNew 2 32 false 0xFFFFFFFF 1 = 1 := by decide +kernel

def localAtomOk (op : Nat) (f : MForm) (s : State) : Bool := goesF op f s (fun c => let as := (lanesOf c.act).map (fun j => (j, localAddr c f j))
  c.shadowOk (mShape op f) && c.act != 0 && !c.h.countFull 2 && (s.core c.h.core).sfrWait.isEmpty && !f.releases && !f.acquires && !c.prot &&
  hasDst op f && decide (f.d.toNat < 64) && c.h.v.length == 64 && (mShape op f).srcs.all (fun u => !u.last) &&
  as.all (fun a => a.2 % atomBytes op f == 0 && localOk c.rcd a.2 (atomBytes op f) && !localPoison s c.h.core c.h.block a.2 (atomBytes op f)) &&
  allocTest s c ((allocWrites (mShape op f) false).foldl (applyWrite false 0) (c.h, c.p)).1 == .ok)
theorem witness_LocalAtomics : [(0xB7, fMem 4 2 1 0x5C), (0xB8, fMem 4 2 7 0x5C), (0xBB, fMem 4 2 1 0x5C)].all (fun x =>
    localAtomOk x.1 x.2 (withLocal (lanesTo 3 ∘ at20 0x100))) = true := by decide +kernel

def fAtomd : MForm := fMem 0 2 7 0x5C
theorem witness_LocalAtomics_atomd : (let s := base (lanesTo 2 ∘ at20 0x80000); let f := fAtomd; goesF 0xB5 f s (fun c =>
    c.shadowOk (mShape 0xB5 f) && c.act != 0 && !c.h.countFull 2 && (s.core c.h.core).sfrWait.isEmpty &&
    (alignFault (atomBytes 0xB5 f) (laneAddrs 0xB5 f c)).isNone && resolves s c 0xB5 f .atomic (fun s1 lanes =>
      let r := holdAll c c.h.core (ctxOf s c.h) c.rcd.spill s1.fresh.2
        (lanes.map (fun a => (a, { contribOf s1.fresh.2 c f a with arrival := s1.nextId })))
      r.2 && r.1.sched.raised.isEmpty && r.1.hatch? c.inst == some c.h)) = true) := by decide +kernel

/-! ### Fences, barriers, waits, semaphores -/

def fZero : MForm := m128 0 0 0
theorem witness_FencesAndBarriers : goesM 0xB0 fZero base (fun c => drained base c.h) = true ∧
    (let s := begun (.st fSt) (base (lanesTo 1 ∘ at20 0x80000)); let s := { s with cur := some ⟨1, 0⟩ }
     goesM 0xB0 fZero s (fun c => !drained s c.h) = true) ∧
    [3, 1, 2].all (fun o => let f := { fZero with ord := BitVec.ofNat 2 o, scope := 2 }; goesM 0xBC f base (fun c => (!f.releases || releaseReady base c.h == (base, true)) &&
      (!f.acquires || loadsDone base c.h) &&
      ((let s1 := if f.releases && !decide (f.scope.toNat < 2) then drainCore base c.h.core else base
        if f.acquires then acquireFence s1 c.inst else s1).sched.raised.isEmpty))) = true := by decide +kernel

/-- A launch of n hatches, one of them resident, co-operative, with one sync group of hatch 0 counted by a unit. -/
def grouped (n : Nat) (g : Hatch → Hatch := id) : State :=
  let s : State := base g
  { s with sched := { s.sched with
    launches := s.sched.launches.map (fun (l : Launch) => { l with rcd := { l.rcd with hatches := n, coop := true, groups := [(List.range n)] } })
    blocks := s.sched.blocks.map (fun (b : Block) => { b with hwGroups := [0] }) } }
def fBar : MForm := m128 0x60 0 0
def barInstr (op : Nat) : Instr := if op == 0xBD then .bar fBar else if op == 0xBE then .gbar fBar else .lbar fBar
/-- What `FencesAndBarriers` asks of an arrival. -/
def arrives (op : Nat) (s : State) (full : Bool) : Bool := goesM op fBar s (fun c => let s1 := releaseAll s c.h
  c.p.wait == .none && releaseReady s c.h == (s, true) && s1.sched.raised.isEmpty && (barrierOf s c op fBar).elim false (fun w =>
    (s1.hatch? c.inst).elim false (fun h => (h.path? c.slot).isSome && c.h.block == h.block) && (s1.block? c.h.block).elim false (fun b =>
      (w == 0 || w == 257 || b.hwGroups.contains (w - 1)) && s1.sched.blocks.filter (fun y => y.inst == c.h.block) == [b] &&
      (s1.launch? b.launch).elim false (fun l => let arrived := { b with arrived := if b.arrived.contains (w, c.h.index) then b.arrived else b.arrived ++ [(w, c.h.index)] }
        barrierFull (s1.updBlock c.h.block (fun _ => arrived)) arrived l w == full))))
theorem witness_FencesAndBarriers_arrive : [0xBD, 0xBE, 0xBF].all (fun op => arrives op (grouped 2) false && arrives op (grouped 1) true) = true := by
  decide +kernel

def mEnd (op : Nat) (f : MForm) (s : State) (c : Iss) (w v : Nat) : Bool :=
  s.sched.raised.isEmpty && allocTest s (c.refresh s) ((c.refresh s).resultOnce op f w v).1 == .ok
theorem witness_FencesAndBarriers_depart : [0xBD, 0xBE, 0xBF].all (fun op => [0, 1].all (fun st =>
    let s := grouped 1 (pathed (fun p => { p with wait := .depart st }))
    goesM op fBar s (fun c => c.p.wait == .depart st && loadsDone s c.h &&
      mEnd op fBar ((acquireFence s c.inst).updHatch c.inst (fun h => { h with status := st })) c 1 st))) = true := by decide +kernel
theorem witness_FencesAndBarriers_trap : [0xBD, 0xBE, 0xBF].all (fun op =>
    goesM op fBar (base handling) (fun c => (barrierOf (base handling) c op fBar).isNone && c.p.wait == .none)) = true := by decide +kernel

def fWaddr (mem : Bool) (sub : BitVec 3) : MForm :=
  { m128 0x60 0x54 0xD1 4 0x5C with ord := 1, ctl := sub.zeroExtend 8 <<< 5, opx := if mem then 1 else 0 }
theorem witness_WaitsAndSemaphores_local : [(0, 0), (1, 5), (2, 0), (3, 1), (0, 5), (1, 0), (2, 1), (3, 0)].all (fun y =>
    let f := fWaddr false (BitVec.ofNat 3 y.1)
    let s := withLocal (at20 0x100 ∘ sca 28 [y.2])
    goesM 0xB1 f s (fun c => (ownOp s c (.waddr f)).isNone && c.shadowOk (mShape 0xB1 f) && localAddr c f 0 % 4 == 0 &&
      localOk c.rcd (localAddr c f 0) 4 && !localPoison s c.h.core c.h.block (localAddr c f 0) 4 && f.sub == y.1 && c.sval f.x 1 == y.2 &&
      mEnd 0xB1 f (acquireCore ((sleepOp s c (.waddr f) none []).2.dropOp s.nextId) c.h.core) c 1 0)) = true := by decide +kernel

/-- Core 0's L1 holds the first line of the data page for writing. -/
def nearOwn (g : Hatch → Hatch) : State :=
  (base g).updCore 0 (fun c => { c with l1 := (L1Line.fresh (0x400) .exclusive (List.replicate 128 9) 0 0) :: c.l1 })
theorem witness_WaitsAndSemaphores_memory : (let f := fWaddr true 0; let s := nearOwn (at20 0x80000 ∘ sca 28 [0x09090909])
    goesM 0xB1 f s (fun c => (ownOp s c (.waddr f)).isNone && c.shadowOk (mShape 0xB1 f) && f.opx.getLsbD 0 && memAddr c f 0 % 4 == 0 &&
      (match translate s c.h.core (ctxOf s c.h) c.kern .load (memAddr c f 0) with
      | (s1, .ok pa mt _ z _) => let q := sleepOp s1 c (.waddr f) none [{ LaneAcc.start 0 (memAddr c f 0) [] with tr := true, pa := pa, mt := mt }]
        decide (mt < 4) && !olderBlocks q.2 q.1 (lineOf pa) mt && (match readLine q.2 c.h.core (lineOf pa) (sectorMask (offsetInLine pa) 4)
          { mt := mt, frozen := replicaOk q.2 (ctxOf q.2 c.h) (memAddr c f 0 % 2 ^ 52) z, acquire := true, ldc := false, hint := 0, op := q.1.id } with
          | (s2, some (bs, 0)) => bytesNat (sliceBytes bs (offsetInLine pa) 4) == c.sval f.x 1 && f.sub == 0 &&
            mEnd 0xB1 f (acquireCore (s2.dropOp q.1.id) c.h.core) c 1 (c.sval f.x 1)
          | _ => false)
      | _ => false)) = true) := by decide +kernel

def fSema (sub : BitVec 3) (d : BitVec 8 := 0x60) : MForm := { m128 d 0x54 0xD1 1 0x5C with cnt := 2, ctl := sub.zeroExtend 8 <<< 5 }
/-- What `sema` and `semv` need of their word's translation. -/
def semWord (s : State) (c : Iss) (f : MForm) (ok : State → LaneAcc → Bool) : Bool := memAddr c f 0 % 4 == 0 && !c.h.countFull 2 &&
  c.shadowOk (mShape 0xC0 f) && (match translate s c.h.core (ctxOf s c.h) c.kern .atomic (memAddr c f 0) with
    | (s1, .ok pa mt w z r) => decide (mt < 4) && ok s1 ((LaneAcc.start 0 (memAddr c f 0) []).resolve s1 (ctxOf s1 c.h) (.ok pa mt w z r))
    | _ => false)
theorem witness_WaitsAndSemaphores : [0, 1].all (fun sub => let f := fSema (BitVec.ofNat 3 sub); let s := base (at20 0x80000)
    goesM 0xC0 f s (fun c => (ownOp s c (.sema f)).isNone && !f.acquires && f.sub == sub && semWord s c f (fun s1 a =>
      let o := { newOp s1.fresh.2 c (.sema f) s1.nextId with lanes := [a], active := 1 }
      let s2 := addOp (markDirty s1.fresh.2 c.inst) 2 o
      let s3 := (coherentRead (takeLine s2 a.line) a.pa 4).1
      let v := bytesNat (peekPa s3 a.pa 4).1
      let c2 := c.refresh s2
      let s4 := endOp s3 o
      let s5 := if f.sub = 1 then s4 else pokePa s4 a.pa (natBytes 4 (v - c.sval f.x 1)) (o.trig [a])
      tyRegs f.twf.toNat == 1 && c2.sval f.x 1 == c.sval f.x 1 && (s2.core c2.h.core).sfrWait.isEmpty && !lineDead s2 a.line && !olderBlocks s2 o a.line 0 && homeReady s2 a.line == (s2, true) &&
      !(peekPa s3 a.pa 4).2 && decide (c.sval f.x 1 ≤ v) && !heldBack s3 o a.pa && mEnd 0xC0 f (wakeLine s5 a.line) c2 1 v))) = true := by decide +kernel
theorem witness_WaitsAndSemaphores_semv : (let f := fSema 0 0; let s := base (at20 0x80000)
    goesM 0xC1 f s (fun c => (!f.releases || releaseReady s c.h == (s, true)) && c.shadowOk (mShape 0xC1 f) && semWord s c f (fun s1 _ =>
      s1.sched.raised.isEmpty && s1.hatch? c.inst == some c.h)) = true) := by decide +kernel

/-! ### Freezing, the matrix engine -/

def fFreeze : MForm := m128 0x60 0x54 0 0 0x5C
def fHandle : MForm := m128 0x60 0 0 0 0x5C
/-- A range of the data page. -/
def ranged (a n : Nat) : State := base (sca 20 [a, 0] ∘ sca 28 [n, 0])
/-- Freeze-table entry 5 in a state, every other one free; `h` in s28. -/
def entry5 (st : FreezeState) (h : Nat) : State :=
  let s : State := base (sca 28 [h])
  { s with freeze := s.freeze.set 5 ⟨7, st, 0, 0x80000, 0x10000, false, false⟩ }

/-- What `Freezes` asks of a `freeze`, when no entry or just one is free. -/
def freezeOk (s : State) (full : Bool) : Bool := goesM 0xC2 fFreeze s (fun c => let b := baseImm c fFreeze; let size := c.sval fFreeze.x 2
  (freezeCheck c b size).isNone && s.freeze.all (fun x => x.state != .thawing) && releaseReady s c.h == (s, true) &&
  (let s1 := markDirty (releaseAll s c.h) c.inst
   let free := (s1.freeze.zipIdx.filter (fun x => x.1.state == .free)).map (·.2)
   let i := free.getD 0 0
   let s2 := startFreeze { s1 with draws := s1.draws + 1 } i (ctxOf s c.h) (b % 2 ^ 52) size
   if full then free.isEmpty && mEnd 0xC2 fFreeze s1 c 1 0xFFFFFFFF
   else free.length == 1 && mEnd 0xC2 fFreeze s2 c 1 ((s2.frz i).gen % 2 ^ 24 * 256 + i % 64)))
def frozenBut (n : Nat) (s : State) : State := { s with freeze := (List.range 64).map (fun i =>
  if i < n then FreezeEnt.reset else ⟨7, .frozen, 0, 0x80000, 0x10000, false, false⟩) }
theorem witness_Freezes_freeze : freezeOk (frozenBut 1 (ranged 0x80000 0x10000)) false = true ∧
    freezeOk (frozenBut 0 (ranged 0x80000 0x10000)) true = true := by decide +kernel
/-- The choice among one is that one. -/
theorem witness_Freezes_choice (s : State) : s.choose 1 = (0, { s with draws := s.draws + 1 }) := by
  simp [State.choose, Nat.mod_one]
theorem witness_Freezes_check : [ranged 0x80001 0x10000, ranged 0x80000 0, ranged 0x80000 0x8000].all (fun s =>
    goesM 0xC2 fFreeze s (fun c => (freezeCheck c (baseImm c fFreeze) (c.sval fFreeze.x 2)).isSome)) = true := by decide +kernel
theorem witness_Freezes_thaw :
    [entry5 .free 0x705, entry5 .thawing 0x705, entry5 .frozen 0x605,
      { entry5 .frozen 0x705 with freeze := (entry5 .frozen 0x705).freeze.modify 5 (fun e => { e with ctx := 3 }) }].all (fun s => goesM 0xC3 fHandle s (fun c =>
      let e := s.frz (handleEntry (c.sval fHandle.x 1))
      (e.state == .free || e.state == .thawing || e.gen != handleGen (c.sval fHandle.x 1) || e.ctx != ctxOf s c.h) && mEnd 0xC3 fHandle (markDirty s c.inst) c 1 0xFFFFFFFF)) = true ∧
    (let s := entry5 .frozen 0x705; goesM 0xC3 fHandle s (fun c => let h := c.sval fHandle.x 1
      !bitAt h 7 && !handleThaw h && (s.frz 5).gen == handleGen h && handleEntry h == 5 && (s.frz 5).ctx == ctxOf s c.h &&
      mEnd 0xC3 fHandle (startThaw (markDirty s c.inst) 5) c 1 (7 * 256 + 64 + 5)) = true) := by decide +kernel
theorem witness_Freezes_fwait :
    (let s := entry5 .freezing 0x705; goesM 0xC4 fHandle s (fun c => (fwaitAnswer s (c.sval fHandle.x 1)).isNone) = true) ∧
    (let s := entry5 .frozen 0x705; goesM 0xC4 fHandle s (fun c => fwaitAnswer s (c.sval fHandle.x 1) == some 0 && loadsDone s c.h &&
      mEnd 0xC4 fHandle (acquireFence s c.inst) c 1 0 && handleGen (c.sval fHandle.x 1) == 7) = true) ∧
    (let s := entry5 .frozen 0xFFFFFFFF; goesM 0xC4 fHandle s (fun c => fwaitAnswer s (c.sval fHandle.x 1) == some 1 && mEnd 0xC4 fHandle s c 1 1) = true) := by
  decide +kernel

def onEntry5 (st : FreezeState) : State := { entry5 st 0 with arg := { entry := 5 } }
theorem witness_Freezes_complete :
    (let s := onEntry5 .freezing; let e := s.frz 5
     s.arg.entry = 5 ∧ 5 < s.freeze.length ∧ s.sched.raised = [] ∧ e.state = .freezing ∧ shooting s (freezeShoot e) = false ∧ storesInRange s e = false ∧
     e.thawWanted = false ∧ (let done := (otherEntries s 5).filter (fun x => x.state != .freezing)
       let s1 := readEntries (domainAct s (freezeAct 5 e)) (e :: done)
       let inside := fun (p : Nat) => inPages (entryPages s1 e) p && !inPages (pagesOfAll s1 done) p
       let s2 := publishPages s1 inside
       s2.sched.raised.isEmpty && !s2.coh.agents.any (fun a => a.wbBuf && inside (a.line / 512))) = true) ∧
    (let s := onEntry5 .freezing
     shooting { s with tr := { s.tr with shoots := [⟨9, 0, freezeShoot (s.frz 5)⟩] } } (freezeShoot (s.frz 5)) = true) ∧
    (let s := onEntry5 .thawing; (s.frz 5).state = .thawing ∧ (s.frz 5).thawWanted = false ∧ domainDone s (.thaw 5 7) = true ∧ shooting s (thawShoot (s.frz 5)) = false) ∧
    (let s := onEntry5 .thawing
     let t := { s with freeze := s.freeze.modify 5 (fun e => { e with thawWanted := true }) }
     t.sched.raised = [] ∧ (t.frz 5).state = .thawing ∧ (t.frz 5).thawWanted = true ∧ domainDone t (.thawed 5 7) = true ∧ shooting t (thawShoot (t.frz 5)) = false ∧
     shooting { t with tr := { t.tr with shoots := [⟨9, 0, thawShoot (t.frz 5)⟩] } } (thawShoot (t.frz 5)) = true) := by decide +kernel

/-- Package 3 has answered, or says that the freeze of entry 5 has reached its completion point. -/
theorem witness_Freezes_far :
    (let s := { entry5 .freezing 0 with arg := { who := .agent 3 0, op := 9, act := some .done } }
     let t := updCoh s (fun c => { c with asked := [⟨9, .drain, none, {}, [2, 3]⟩] })
     t.sched.raised = [] ∧ t.arg.act = some .done ∧ t.arg.op = 9) ∧
    (let s := { entry5 .freezing 0 with arg := { who := .agent 3 0, act := some (.frozen 5 7) } }
     s.sched.raised = [] ∧ s.arg.op = 0 ∧ 5 < s.freeze.length ∧ (s.frz 5).state = .freezing ∧ (s.frz 5).gen = 7 ∧
     (s.frz 5).thawWanted = false) := by decide +kernel

/-- Local store, tiles without rows, and an engine that the hatch's block owns. -/
def withEngine (g : Hatch → Hatch) : State :=
  let s := (withLocal g).updHatch 1 (fun h => { h with tiles := List.replicate 8 [] })
  s.updCore 0 (fun k => { k with owner := some (hatch0 g).block })

def one (f : MForm) : MForm := { f with cnt := 1 }
def matForms : List (Nat × (MForm → Instr) × MForm) := [
  (0xC5, .mload, one { m128 0 0x54 0xD1 4 0x5C with opx := 1 }), (0xC6, .mswap, one fZero), (0xC7, .mmul, one (m128 0xC9 0x54 0xD1 4 0x5C)),
  (0xC8, .mgmul, one (m128 0xC9 0x54 0 7)), (0xC9, .msp, one (m128 0xC9 0x54 0xD1 4 0x5C)), (0xCA, .mgsp, one (m128 0xC9 0x54 0 7)),
  (0xCB, .mldmeta, one (m128 0 0x54 0xD1)), (0xCC, .mzero, one (m128 0xC9 0 0)), (0xCD, .mrd, one (m128 4 0 0 0 0xCA)),
  (0xCE, .mwr, one (m128 0xC9 0 0)), (0xCF, .mst, one (m128 0 0x54 0x58 1 0xCA)), (0xD0, .mred, one (m128 0xC9 0 0 0 0xCA)),
  (0xD1, .mscale, one (m128 0xC9 0 0)), (0xD2, .macc, one (m128 0xC9 0 0 0 0xCA))]

/-- What `MatrixBegins` asks of an instruction, its rows at one address. -/
def matOk (op : Nat) (f : MForm) (s : State) : Bool := goesM op f s (fun c => c.shadowOk (mShape op f) && c.act != 0 && !c.h.countFull 1 &&
  decide ((s.core c.h.core).mqueue.length < 64) && decide (c.h.core < s.cores.length) &&
  (op != 0xC5 || (let k := c.sval f.x 1; decide (0 < k) && decide (k ≤ (bankLimit f.twf.toNat).1) && k % (bankLimit f.twf.toNat).2 == 0 &&
    decide (engAddr c f + imageBytes f.twf.toNat k ≤ c.rcd.local_))) &&
  (op != 0xC5 && op != 0xCB || engAddr c f % 64 == 0) &&
  (lanesOf c.act).all (fun j => (op < 0xC7 || 0xCA < op || (rowAddrs op f c).getD j 0 % 4 == 0) && (op != 0xCF || (mstRows f c).getD j 0 % mstSize f == 0)) &&
  allocTest s c ((allocWrites (mShape op f) false).foldl (applyWrite c.prot 0) (c.h.freeLast (mShape op f), c.p)).1 == .ok)
def matState : State := withEngine (lanesTo 2 ∘ at20 0x400 ∘ sca 28 [32])
theorem witness_MatrixBegins : matForms.all (fun x => matOk x.1 x.2.2 matState) = true := by decide +kernel
theorem witness_MatrixBegins_trap : (let f : MForm := { m128 0 0x54 0xD1 4 0x5C with cnt := 1, opx := 1 }; let s := withEngine (sca 28 [33])
    goesM 0xC5 f s (fun c => c.shadowOk (mShape 0xC5 f) && c.act != 0 && !c.h.countFull 1 && c.sval f.x 1 % (bankLimit 4).2 != 0 &&
      decide ((s.core c.h.core).mqueue.length < 64)) = true) := by decide +kernel

/-- What `MatrixExecutes` asks of every clause. -/
def execOk (op : Nat) (what : MForm → Instr) (f : MForm) : Bool := let s := ran (what f) matState
  s.sched.raised.isEmpty && firstOp s (fun o => o.what == what f && !o.done && queueHeads (queueOps s 0) == [o] && o.core == 0 && (s.core 0).owner == some o.block &&
    (s.hatch? o.hatch).elim false (fun h => decide (accOf f.d < h.tiles.length) || op == 0xC5 || op == 0xC6 || (op == 0xCD && !hatchProt s h && h.v.length == 64 && decide (f.d.toNat + groupCount f ≤ 64))) &&
    (op != 0xC5 || (f.opx.getLsbD 0 && (s.hatch? o.hatch).elim false (fun h => localOk (recOf s h) (o.vals.getD 1 0) (o.vals.getD 2 0) &&
      !localPoison s 0 o.block (o.vals.getD 1 0) (o.vals.getD 2 0)))) &&
    (op != 0xC7 || ((s.core 0).active.metaN == 0 && !mfIsMx f.twf.toNat && (s.hatch? o.hatch).elim false (fun h => (lanesOf o.active).all (fun l =>
      let len := (s.core 0).active.keff * mfBits f.twf.toNat / 8
      localOk (recOf s h) ((o.vecs.getD 0 []).getD l 0) len && !localPoison s 0 o.block ((o.vecs.getD 0 []).getD l 0) len &&
      !localPoison s 0 o.block (f.opx.toNat + l * ((s.core 0).active.keff / 32)) 0)))))
theorem witness_MatrixExecutes : (matForms.filter (fun x => [0xC5, 0xC6, 0xC7, 0xCC, 0xCD, 0xCE, 0xD0, 0xD1, 0xD2].contains x.1)).all
    (fun x => execOk x.1 x.2.1 x.2.2) = true := by decide +kernel

/-! ### Copies, launches, spawns -/

def copyForms : List (Nat × (MForm → Instr) × MForm) := [
  (0xD3, .cpy, m128 0 0x54 0x58 0 0x5C), (0xD4, .cpy2, m128 0 0x54 0x58 0 0x5C), (0xD5, .cpyg, m128 0 0 0x58 0 0x5C),
  (0xD6, .cpyd, { m128 0 0x54 0x58 0 0x5C with opx := 2 }), (0xD7, .cpyf, m128 0 0x54 0x58 0 0x5C), (0xD8, .cpyr, m128 0 0x54 0x58 1 0x5C),
  (0xD9, .cpymx, m128 0 0x54 0x58 7 0x5C)]
/-- A copy of n bytes or elements from address 0x8_0000 to `dst`. -/
def copying (dst n : Nat) : State := withLocal (sca 20 [0x80000, 0] ∘ sca 24 [n, 1, 0, 0] ∘ sca 28 [dst, 0])
theorem witness_Copies : copyForms.all (fun x => let f := x.2.2; let s := copying (if x.1 == 0xD6 then 0x200 else 0x80800) 128
    goesM x.1 f s (fun c => c.shadowOk (mShape x.1 f) && c.act != 0 && !c.h.countFull 0 && decide (copiesOn s c.h.core < 512) &&
      (copyCheck s c x.1 f).isNone && allocTest s c (c.h.freeLast (mShape x.1 f)) == .ok)) = true := by decide +kernel
theorem witness_Copies_align : copyForms.all (fun x => let f := x.2.2; let s := copying 0x80801 128
    goesM x.1 f s (fun c => c.shadowOk (mShape x.1 f) && c.act != 0 && !c.h.countFull 0 && decide (copiesOn s c.h.core < 512) && (copyCheck s c x.1 f).isSome))
    = true := by decide +kernel
/-- Two loads in flight in c2. -/
def twoLoads : Hatch → Hatch := fun h => { h with c2 := [8, 9] }
theorem witness_Copies_counters :
    goesM 0xDA { fZero with imm := 2, opx := 2 } (base twoLoads) (fun c => decide ((c.h.count 2).length ≤ 2)) = true ∧
    goesM 0xDA { fZero with imm := 1, opx := 2 } (base twoLoads) (fun c => decide (1 < (c.h.count 2).length)) = true ∧
    goesM 0xDB { m128 0x60 0 0 with opx := 2 } (base twoLoads) (fun c => mEnd 0xDB { m128 0x60 0 0 with opx := 2 } (base twoLoads) c 1 2) = true := by
  decide +kernel

/-- A copy within local store, with a completion word. -/
def fCpyl : MForm := { m128 (sr 40) (sr 20) 0x58 0 0x5C 0x300 with opx := 3, cwe := true }
def sCopy : State := let s := ran (.cpy fCpyl) (withLocal (sca 20 [0x100] ∘ sca 24 [12] ∘ sca 28 [0x214] ∘ sca 40 [7]))
  { s with arg := { op := (s.ops.head?).elim 0 (·.id) } }
theorem witness_Copies_complete : sCopy.sched.raised = [] ∧ srcLocal fCpyl = true ∧ dstLocal fCpyl = true ∧ firstOp sCopy (fun o => o.what == .cpy fCpyl &&
    o.vals == [0x100, 0x214, 12, 1, 0, 0, o.core, 7, 0] && o.prog == 0 && !o.done && sCopy.op? sCopy.arg.op == some o &&
    decide (0x214 + 12 ≤ 65536 * (ownedWays sCopy o.core o.block).length) && decide (0x300 + 4 ≤ 65536 * (ownedWays sCopy o.core o.block).length) &&
    decide (o.core < sCopy.cores.length) && (sCopy.core o.core).sfrWait.isEmpty && !localPoison sCopy o.core o.block 0x100 12 && (sCopy.core o.core).ways.all (fun w => match w with
      | .owned _ cells _ => Memory.wf cells
      | _ => true)) = true := by decide +kernel

/-- A launch record of one block of one hatch at 0x8_0000, with a pool of one slot at 0x8_2000. -/
def recBytes : List Byte := natBytes 8 0x40000 ++ natBytes 8 0x41000 ++ natBytes 8 0 ++ natBytes 4 1 ++ natBytes 2 1 ++ natBytes 2 0 ++ natBytes 4 0 ++
  [0, 1, 0, 0] ++ List.replicate 16 0 ++ natBytes 8 0x82000 ++ List.replicate 64 0
def withRecord (s : State) : State := homeWrite (homeWrite s 0x400 0 recBytes) 0x440 0 (natBytes 4 1)

def fLaunch : MForm := { m128 0x60 0x54 0 with cnt := 3 }
theorem witness_Launches : goesM 0xDC fLaunch base (fun c => c.shadowOk (mShape 0xDC fLaunch) && !c.h.countFull 3 && releaseReady base c.h == (base, true) && (releaseAll base c.h).sched.raised.isEmpty) = true := by
  decide +kernel
def sLaunch (s : State) : State := let t := ran (.launchInsn fLaunch) s
  { t with arg := { op := (t.ops.head?).elim 0 (·.id) } }
theorem witness_Launches_accepted : specKind fLaunch.d = .s 32 ∧ [true, false].all (fun ok =>
    let s := sLaunch (if ok then withRecord (base (at20 0x80000)) else base (at20 0x80000))
    firstOp s (fun o => o.what == .launchInsn fLaunch && s.op? s.arg.op == some o && o.vecs.isEmpty && (match startLaunch s o.core o.ctx (o.vals.getD 0 0) with
      | (s1, .ok id) => ok && s1.op? o.id == some o && decide (id < 2 ^ 32) && s1.sched.raised.isEmpty && (s1.hatch? o.hatch).elim false (fun h => h.s.length == 128)
      | (s1, .fail code) => !ok && s1.op? o.id == some o && code == 2 && s1.sched.raised.isEmpty && (s1.hatch? o.hatch).elim false (fun h => h.s.length == 128)))) = true := by
  decide +kernel

/-- The hatch's launch depends on the launch of an id. -/
def dependent (id : Nat) : State :=
  let s : State := base
  { s with sched := { s.sched with launches := s.sched.launches.map (fun (l : Launch) => { l with rcd := { l.rcd with dep := true, producers := [id] } }) } }
theorem witness_Launches_kwait : goesM 0xDD fZero (dependent 5) (fun c => c.rcd.dep && c.rcd.producers.all (producerDone (dependent 5)) &&
      loadsDone (dependent 5) c.h && (acquireFence (dependent 5) c.inst).sched.raised.isEmpty) = true ∧
    goesM 0xDD fZero base (fun c => !c.rcd.dep) = true ∧
    goesM 0xDD fZero (dependent 1) (fun c => c.rcd.dep && c.rcd.producers == [1] && !producerDone (dependent 1) 1 &&
      ((dependent 1).block? c.h.block).elim false (fun b => !b.triggered) && (launchOf (dependent 1) c.h).elim false (fun l => !l.watched)) = true ∧
    goesM 0xDE fZero base (fun c => releaseReady base c.h == (base, true) &&
      ((markDirty (releaseAll base c.h) c.inst).updBlock c.h.block (fun b => { b with ktrig := true })).sched.raised.isEmpty) = true := by decide +kernel

/-- The hatch's launch has a pool of n slots at 0x8_2000. -/
def pooled (n : Nat) (g : Hatch → Hatch) : State :=
  let s : State := homeWrite (base g) 0x440 0 (natBytes 4 n)
  { s with sched := { s.sched with launches := s.sched.launches.map (fun (l : Launch) => { l with rcd := { l.rcd with pool := 0x82000 } }) } }

/-- A slot taken from a pool with one free. -/
theorem poolTake_one {c ctx pool n j : Nat} {s s1 : State} (h : (poolFree c ctx pool).run s = .ok (n, [j]) s1) :
    (poolTake c ctx pool 1).run s =
      (do poolMark c ctx pool j true 0; return some [slotAddr pool n j] : AreaM (Option (List Nat))).run { s1 with draws := s1.draws + 1 } := by
  have e : (poolFree c ctx pool) s = .ok (n, [j]) s1 := h
  simp [poolTake, EStateM.run, bind, EStateM.bind, e, get, getThe, MonadStateOf.get, EStateM.get, set, EStateM.set, State.choose,
    Nat.mod_one, pure, EStateM.pure]

/-- What `Spawns` asks of the state of a spawn, but for the image. -/
def spawnReady (s : State) (c : Iss) (img : State → Block → Launch → Nat → Bool) : Bool := match spawnRoom s c with
  | .ok true s1 => let s2 := releaseAll s1 c.h
    !c.h.countFull 3 && releaseReady s1 c.h == (s1, true) && (match s2.block? c.h.block, launchOf s2 c.h, (poolFree c.h.core (ctxOf s2 c.h) c.rcd.pool).run s2 with
    | some pb, some l, .ok (n, [j]) s3 => (match (poolMark c.h.core (ctxOf s2 c.h) c.rcd.pool j true 0).run { s3 with draws := s3.draws + 1 } with
      | .ok _ s3 => img s3 pb l (slotAddr c.rcd.pool n j)
      | _ => false)
    | _, _, _ => false)
  | _ => false
def imaged (c : Iss) (s3 : State) (what : Instr) (pb : Block) (l : Launch) (area pc : Nat) (h : Hatch) (regs : List (Nat × Nat)) (ok : State → Bool) : Bool :=
  match (devWrite c.h.core (ctxOf s3 c.h) area (spawnImage h (spawnPath c pc) c.prot (spawnScalars c pb.index l.spawnSerial) regs)).run
    (queueSpawn s3 c what pb l regs area) with
  | .ok _ s4 => s4.sched.raised.isEmpty && ok s4
  | _ => false

def fSpawn : MForm := { m128 0 0 0 0 0x5C 4 with cnt := 3 }
/-- s28 names v0 to v(n − 1), which are mapped. -/
def naming (n : Nat) : Hatch → Hatch := sca 28 [2 ^ n - 1] ∘ (fun h => (List.range n).foldl (fun h r => vec r [r] h) h)
theorem witness_Spawns_spawn : (let s := pooled 1 (naming 9); goesM 0xDF fSpawn s (fun c =>
    let regs := imageRegs c.h (namedRegs (c.sval fSpawn.x 2))
    c.shadowOk (mShape 0xDF fSpawn) && !copyWaits c (namedRegs (c.sval fSpawn.x 2)) && !c.p.handler && c.act != 0 && regs.length == 9 && spawnReady s c (fun s3 pb l area =>
      imaged c s3 (.spawn fSpawn) pb l area (wrapN 64 ((c.p.pc : Int) + 4 * sxt 32 fSpawn.imm.toNat)) c.h regs (fun _ => true))) = true) := by decide +kernel
theorem witness_Spawns_traps :
    goesM 0xDF fSpawn (pooled 1 handling) (fun c => c.shadowOk (mShape 0xDF fSpawn) && c.p.handler && !copyWaits c (namedRegs (c.sval fSpawn.x 2))) = true ∧
    goesM 0xDF { fSpawn with gidx := 1, gsense := 1 } (pooled 1 id) (fun c => c.shadowOk (mShape 0xDF fSpawn) && c.act == 0 && !c.p.handler && !copyWaits c (namedRegs (c.sval fSpawn.x 2))) = true ∧
    goesM 0xDF fSpawn (pooled 1 (naming 10)) (fun c => c.shadowOk (mShape 0xDF fSpawn) && (imageRegs c.h (namedRegs (c.sval fSpawn.x 2))).length == 10 && c.act != 0) = true ∧
    goesM 0xDF fSpawn (pooled 0 (naming 9)) (fun c => c.shadowOk (mShape 0xDF fSpawn) && (match spawnRoom (pooled 0 (naming 9)) c with
      | .ok false _ => true
      | _ => false)) = true := by decide +kernel

def fIbisect : AForm := a64 4 2 (sr 28) 7
theorem witness_Spawns_ibisect : (let s := pooled 1 (ivl 2 0x3F800000 0x40000000 ∘ naming 1); let f := fIbisect; goesA 0x8F f s (fun c =>
    let m := physMask c.prot c.act
    let half := fun (l : Nat) => halves (fmtOf f.tyN) (ivlA c f l).1
    let ds := regRange (vecReg f.dst) 1
    let names := (namedRegs (c.sval f.srcb 2)).filter (fun r => !ds.contains r)
    let up := (applyWrite c.prot m (c.h, c.p) (.ivl f.dst 1 (fun l => (half l).2))).1
    let regs := imageRegs up ds ++ imageRegs c.h names
    let low := fun (k : Iss) => applyWrite k.prot m (k.h.freeLast (aShape 0x8F (aRule c.fieldCtx 0x8F f) f), k.p) (.ivl f.dst 1 (fun l => (half l).1))
    !copyWaits c names && !c.p.handler && c.act != 0 && m != 0 && decide (regs.length ≤ 9) && decide (regs.length ≤ c.rcd.peak) && tyRegs f.tyN == 1 &&
    spawnReady s c (fun s3 pb l area => imaged c s3 (.ibisect f) pb l area (wrap64 (c.p.pc + f.len)) up regs (fun s4 =>
      allocTest (releaseAll s c.h) c (low c).1 == .ok && allocTest s4 (c.refresh s4) (low (c.refresh s4)).1 == .ok))) = true) := by decide +kernel
theorem witness_Spawns_ibisect_trap : (let s := pooled 1 (ivl 2 0x3F800000 0x40000000 ∘ naming 10); let f := fIbisect; goesA 0x8F f s (fun c =>
    let ds := regRange (vecReg f.dst) 1
    let up := (applyWrite c.prot (physMask c.prot c.act) (c.h, c.p) (.ivl f.dst 1 (fun l => (halves (fmtOf f.tyN) (ivlA c f l).1).2))).1
    !c.p.handler && c.act != 0 && decide (9 < (imageRegs up ds ++ imageRegs c.h ((namedRegs (c.sval f.srcb 2)).filter (fun r => !ds.contains r))).length)) = true) := by
  decide +kernel

end Sys2Proof.Tests
end

