-- ==== Sys2Proof/Tests/WitnessEvents.lean ====
section
/-! SUPPORT. Witnesses: the events of the memory side, the links, the hosts and the media engines, the device commands, and the
dispatchers: states and arguments that meet the hypotheses of each clause. -/

namespace Sys2Proof.Tests

open Machine

set_option Elab.async false

/-! ### Translation, the memory side, resets, power -/

/-- A store whose page the TLB did not hold when it began, and does now; its walk is complete. -/
def sWalk : State :=
  let s : State := (base (lanesTo 1 ∘ at20 0x80000)).updCore 0 (fun k => { k with tlb := k.tlb.filter (fun e => e.page != 8) })
  let t := ran (.st fSt) s
  let t := t.updCore 0 (fun k => { k with tlb := dataTlb :: k.tlb })
  { t with arg := { walk := (t.tr.walks.head?).elim 0 (·.id) } }
theorem witness_WalksAndShootdowns : (match sWalk.tr.walks, sWalk.ops with
    | [w], [o] => w.id == sWalk.arg.walk && !w.stale && sWalk.tr.shoots.isEmpty && w.ops == [o.id] && w.misses.isEmpty && (match o.lanes with
      | [a] => !a.tr && w.covers w.die w.ctx (a.va % 2 ^ 52) &&
        (let s := { sWalk with tr := { sWalk.tr with walks := [] } }; match translateNow s o.core o.ctx (ctxKernel s o.ctx) .store a.va with
        | (s1, x) => let b := a.resolve s1 o.ctx x
          s1.sched.raised.isEmpty && b.fault == 0 && b.pending && !homeStore o b)
      | _ => false)
    | _, _ => false) = true := by decide +kernel
def sStale : State := { sWalk with tr := { sWalk.tr with walks := sWalk.tr.walks.map (fun (w : Walk) => { w with stale := true }) } }
theorem witness_WalksAndShootdowns_stale : sStale.sched.raised = [] ∧
    ((sStale.tr.walks.find? (fun x => x.id == sStale.arg.walk)).elim false (·.stale)) = true := by decide +kernel
/-- An invalidation under way on n dies, for which the path of the hatch waits. -/
def sShoot (n : Nat) : State :=
  let s : State := base (pathed (fun p => { p with wait := .shoot 4 }))
  { s with tr := { s.tr with shoots := (List.range n).map (fun d => ⟨4, d, .all⟩) }, arg := { shoot := 4 } }
theorem witness_WalksAndShootdowns_shoot : [1, 2].all (fun n => let s := sShoot n
    s.sched.raised.isEmpty && (s.tr.shoots.find? (fun y => y.die == s.arg.die && y.id == s.arg.shoot)).isSome && s.tr.walks.isEmpty &&
    (s.tr.shoots.filter (fun y => !(y.die == s.arg.die && y.id == s.arg.shoot))).any (fun y => y.id == 4) == (n == 2) &&
    ((allPaths s).filter (fun y => y.2.2.wait == .shoot 4)).map (fun y => (y.1.inst, y.2.1)) == [(1, 0)] && (s.hatch? 1).isSome) = true := by
  decide +kernel

/-- Channel 0 with two requests of groups 0 and 1, the older one waiting n clocks; it serves group 1. -/
def sChan (n : Nat) : State := { State.reset with
  clock := 5000 + n, ms := { State.reset.ms with chans := [(0, ⟨[], 0, [⟨8, 1, 1, 5000 + n, false, 0, 1, 1⟩, ⟨16, 1, 0, 5000, false, 0, 1, 1⟩], some 1, none, []⟩)] } }
theorem witness_MemorySide : [0, 2048].all (fun n => (sChan n).sched.raised.isEmpty && (nextRequest (sChan n) ((sChan n).chan 0)).isSome &&
    ((sChan n).chan 0).serving == some 1 && ((sChan n).chan 0).pending.any (fun x => x.group == 1 && !x.single) &&
    (((sChan n).chan 0).pending.any (fun x => decide (x.at_ + 2048 ≤ (sChan n).clock)) == (n == 2048))) = true := by decide +kernel
/-- A window over a line of channel 0, whose counter is at its last value or above and was hit at this clock or not; one with no
line of a channel. -/
def sFade (w : Window) : State := { State.reset with clock := 9, ms := { State.reset.ms with windows := [some w] } }
theorem witness_MemorySide_fade : [(⟨0, 256, 1, none⟩ : Window), ⟨0, 256, 9, none⟩, ⟨0, 256, 1, some 9⟩, ⟨2 ^ 46, 256, 9, none⟩].all (fun w => let s := sFade w
    s.sched.raised.isEmpty && s.arg.line == 0 && s.ms.windows[0]? == some (some w) && (windowOn s w s.arg.chan == (w.base == 0))) = true := by decide +kernel

/-- The machine after reset with an event's argument. -/
def after0 (a : Arg) : State := { State.reset with arg := a }
theorem witness_ResetsAndPower : (after0 {}).arg.seq = 0 ∧ (after0 {}).arg.failStep ≠ 1 ∧ (after0 {}).arg.failStep ≠ 3 ∧ State.reset.pkg.thermtrip = false ∧
    State.reset.sched.raised = [] ∧ State.reset.host.cmdHeld = false ∧ (State.reset.pkg.devState = .failed → State.reset.pkg.failStep ≠ 2) ∧
    (after0 { seq := 5, failStep := 5 }).arg.failStep = 5 ∧
    [4, 5, 7].all (fun n => (after0 { seq := n }).arg.seq == n && (after0 { seq := n }).arg.failStep == 0) = true := by decide +kernel
/-- Readings at the edges of the bands, the first at once and the next 24,000 clocks after; windows 240,000 clocks apart. -/
theorem witness_ResetsAndPower_due : State.reset.pkg.thermalAt = 0 ∧
    (let s := { State.reset with clock := 24000, pkg := { State.reset.pkg with thermalAt := 1 } }; ¬ (s.pkg.thermalAt = 0 ∨ s.pkg.thermalAt + 24000 ≤ s.clock)) ∧
    [979, 980, 999, 1000, 1099, 1100].all (fun n => (after0 { temp := n }).arg.temp == n) = true ∧
    State.reset.clock < State.reset.pkg.capAt + 240000 ∧ State.reset.pkg.capAt + 240000 ≤ ({ State.reset with clock := 240000 } : State).clock := by decide +kernel

/-- An engine's reset while the hatch's copy is in flight. -/
theorem witness_ResetsAndPower_engine : sCopy.sched.raised.isEmpty && firstOp sCopy (fun o => o.core == sCopy.arg.core &&
    (instrForm o.what).map (fun x => decide (0xC5 ≤ x.1 ∧ x.1 ≤ 0xD9)) == some true && (sCopy.block? o.block).elim false (fun b => b.phase == .resident)) = true := by
  decide +kernel

/-- Die 0 in a state of power gating since the start, at a clock. -/
def gated (g : GateState) (clock : Nat) : State := { State.reset with
  clock := clock, dies := State.reset.dies.set 0 { Die.reset with gate := g, onMode := false } }
theorem witness_ResetsAndPower_gating : (gated .powered 2400000).sched.raised = [] ∧ (gated .powered 2400000).pkg.thermtrip = false ∧
    dieBusy (gated .powered 2400000) 0 = false ∧ ((gated .powered 2400000).dies.getD 0 Die.reset).gateSince = 0 ∧
    dieBusy (gated .gating 4800) 0 = false ∧ 0 < (gated .gating 4800).dies.length ∧
    ((gated .gated 0).dies.getD 0 Die.reset).gateSince = (gated .gated 0).clock ∧ ((gated .gated 5).dies.getD 0 Die.reset).gateSince ≠ (gated .gated 5).clock ∧
    dieBusy { base with dies := (gated .gating 0).dies } 0 = true := by decide +kernel

/-! ### Links, routers -/

def link0 : LinkId := .ulain 0
def ported (s : State) : State := { s with fab := { s.fab with ulain := s.fab.ulain.set 0 ⟨.up, true, 1, 0xFF, false⟩ } }
/-- Ulain port 0 is up, and its link is changed. -/
def linked (f : Link → Link) (a : Arg := {}) (clock : Nat := 0) : State :=
  ported { (State.reset.updLink link0 (fun l => f { l with state := .up })) with arg := { a with link := link0 }, clock := clock }
def twoHeld (l : Link) : Link := { l with held := [⟨3, 1, .req, 0, 0⟩, ⟨4, 1, .req, 1, 0⟩] }
/-- A flit of a kind with a sequence number, its check sum right or wrong. -/
def flitGiven (kind seq : Nat) (good : Bool) : BitVec 512 := flitOf kind seq 0 0 0 0 ^^^ (if good then 0 else 2 ^ 480)
theorem witness_LinksAndRouters_routes : [LinkId.grid 0 0 0 0 5, .grid 0 0 5 3 5, .bridge 0 1 0].all (linkLives State.reset) = true ∧
    (peerPorts 1).getD (bitsOf 0x80 8 7) (0, 0) ≠ (peerPorts 1).getD (bitsOf 0 8 7) (0, 0) := by decide +kernel
set_option maxRecDepth 20000 in
theorem witness_LinksAndRouters_flits : [true, false].all (fun g => let s := linked (fun l => { l with lastGood := 511 }) { flit := flitGiven 1 0 g }
    s.sched.raised.isEmpty && linkUp s s.arg.link && linkRouter s.arg.link == none && flitGood s.arg.flit == g && flitKind s.arg.flit == 1 &&
    s.fab.packets.isEmpty && flitSeq s.arg.flit == ((s.link s.arg.link).lastGood + 1) % 512) = true ∧ linkUp State.reset link0 = false := by decide +kernel
theorem witness_LinksAndRouters_replay :
    ((linked twoHeld { seq := 4 }).link link0).held.map (·.seq) = [3, 4] ∧ [3, 4].idxOf? 4 = some 1 ∧
    ((takeAck (linked twoHeld { seq := 3 }) link0 3).link link0).held.map (·.seq) = [4] ∧ ((takeAck (linked twoHeld { seq := 3 }) link0 3).link link0).replays < 8 ∧
    ((linked twoHeld {} 4096).link link0).state = .up ∧ ((linked twoHeld {} 4096).link link0).ackAt + 4096 ≤ (linked twoHeld {} 4096).clock ∧
    8 ≤ ((linked (fun l => { twoHeld l with replays := 8 }) {} 4096).link link0).replays ∧
    trainable (linked twoHeld) link0 = true ∧ peerEnd link0 = none := by decide +kernel
theorem witness_LinksAndRouters_train : [0, 1].all (fun n => let s := linked (fun l => { l with state := .retraining }) { lanes := .full } (retrainTime link0 - n)
      (s.link link0).state == .retraining && (decide ((s.link link0).since + retrainTime link0 ≤ s.clock) == (n == 0))) = true ∧
    widthOf link0 (goodLanes .full) ≠ .none ∧ widthOf link0 (goodLanes (.lanes 0)) = .none ∧ widthOf link0 (goodLanes (.lanes 0x0F)) = .half := by decide +kernel

/-- Ulain port 0 in a state, and chip 1 routed to it. -/
def uport (st : UlainState) (a : Arg := {}) : State :=
  let s := linked id a
  { s with fab := { s.fab with ulain := s.fab.ulain.set 0 ⟨st, true, 1, 0xFF, false⟩, routes := s.fab.routes.set 1 1 } }
theorem witness_LinksAndRouters_ulain : ((uport .training).fab.ulain[0]?).map (·.state) = some .training ∧
    (uport .up { chip := 1, hops := 4 }).arg.chip ≠ (uport .up).fab.chipId ∧ forwardPort (uport .up { chip := 1 }) 1 0 = some 0 ∧
    (uport .up).fab.packets = [] ∧ linkUp (uport .up) link0 = true ∧ ((uport .up).link link0).held = [] ∧ ((uport .up).link link0).credits.getD 0 0 ≠ 0 ∧
    forwardPort State.reset 1 0 = none := by decide +kernel
/-- A packet to chip 1 that no port is left for. -/
def astray : State := { State.reset with fab := { State.reset.fab with
  lost := [⟨5, .req, .io, .chip 1, .io, none, [], 1, 0, 0, 0, none, false, .forward 1 0 0⟩] } }
theorem witness_LinksAndRouters_lost : astray.sched.raised = [] ∧ astray.fab.lost.map (·.cargo) = [.forward 1 0 0] := by decide +kernel

def router0 : RouterId := ⟨0, 0, 0⟩
def routed (st : RouterState) (clock : Nat) : State := { State.reset with clock := clock, arg := { router := router0 }, fab := { State.reset.fab with
  routers := State.reset.fab.routers.map (fun (r : Router) => if r.id == router0 then { r with state := st, since := 0 } else r) } }
theorem witness_LinksAndRouters_routers : [(RouterState.active, 1024), (.downing, 16), (.down, 0), (.down, 1), (.waking, 64)].all (fun x =>
    ((routed x.1 x.2).fab.routers.find? (fun y => y.id == (routed x.1 x.2).arg.router)).elim false (fun r => r.state == x.1 && r.since == 0) &&
    (routed x.1 x.2).fab.packets.isEmpty && !((routed x.1 x.2).dies.getD 0 Die.reset).pmOff) = true := by decide +kernel

/-! ### Coherence messages and hosts. Line 0x400 has its home on die 1 of package 0. -/

def me (d : Nat) : Who := .agent 0 d
def entry (g : DirEntry → DirEntry) : DirEntry := g (DirEntry.empty 0x400)
/-- The machine after reset with directory entries and agents, about to serve an event of line 0x400. -/
def coherent (dir : List DirEntry) (agents : List Agent) (a : Arg := {}) : State :=
  let s : State := { State.reset with arg := { a with line := 0x400 } }
  { s with coh := { s.coh with dir := dir, agents := agents } }
def line9 : LineData := { bytes := List.replicate 128 9, poison := 0, depth := 0 }
def agentOf (d : Nat) (st : Moesi) (p : Option CohReq := none) : Agent := ⟨d, 0x400, st, line9, false, p⟩

/-- What `HomeRequests` asks of every state. -/
def homeOk (s : State) : Bool := s.arg.who == me 0 && decide (0 ≠ homeDie s 0x400) && lineIsOwn s 0x400 && !(dirAt s 0x400).st.busy && s.sched.raised.isEmpty &&
  (homeYields s 0x400).sched.raised.isEmpty && s.fab.packets.isEmpty && (homeYields s 0x400).fab.packets.isEmpty && !s.arg.untracked &&
  (lineTracked s 0x400 || decide ((setLines s 0x400).length < 16)) && !hostHolds s 0x400 false
def shared (ws : List Who) : State := coherent [entry (fun e => { e with st := .sh, sharers := ws })] [] { who := me 0 }
/-- A host holds a half of the line for reading. -/
def hostShares : State := let s := coherent [] [] { who := me 0 }
  { s with coh := { s.coh with hostDir := [⟨.a, 0x800, false, 0⟩] } }
theorem witness_HomeRequests : homeOk (shared [me 2]) = true ∧ (dirAt (shared [me 2]) 0x400).owner = none ∧ (dirAt (shared [me 2]) 0x400).st = .sh ∧
    homeOk (coherent [] [] { who := me 0 }) = true ∧ (dirAt (coherent [] [] { who := me 0 }) 0x400).st = .unc ∧
    hostConflicts (coherent [] [] { who := me 0 }) 0x400 true = [] ∧ [shared [me 2], coherent [] [] { who := me 0 }, shared [me 0]].all (fun s => !hostHolds s 0x400 true) = true ∧
    homeOk hostShares = true ∧ (dirAt hostShares 0x400).st = .unc ∧ hostConflicts hostShares 0x400 true ≠ [] ∧
    homeOk (coherent [entry (fun e => { e with st := .ex, owner := some (me 3) })] [] { who := me 0 }) = true ∧
    othersOf (dirAt (shared [me 2]) 0x400) (me 0) = [me 2] ∧ homeOk (shared [me 0]) = true ∧ othersOf (dirAt (shared [me 0]) 0x400) (me 0) = [] ∧
    me 0 ∈ (dirAt (shared [me 0]) 0x400).sharers := by decide +kernel

def held (st : Moesi) : State := coherent [] [agentOf 2 st] { die := 2, who := me 0 }
theorem witness_CoherenceAnswers_forward : [Moesi.m, .o, .e, .s].all (fun st => (held st).sched.raised.isEmpty && lineIsOwn (held st) 0x400 && (agentAt (held st) 2 0x400).elim false (fun a =>
      a.st.holds && a.pending.isNone) && (holdersOn (held st) 2 0x400).isEmpty && (List.range 4).all (fun x => (writersOn (held st) x 0x400).isEmpty) &&
      (dirAt (held st) 0x400).lazy.isEmpty && !foreignWho (held st) (held st).arg.who && (held st).fab.packets.isEmpty &&
      (publishDie (held st) (pointDies 2 0x400) 0x400).fab.packets.isEmpty &&
      (invalidate (held st) 2 0x400).sched.raised.isEmpty) = true ∧
    (held .m).cores.length = 256 := by decide +kernel

def last (st : DirState) (q : CohReq) (ow : Option Who) : State :=
  coherent [entry (fun e => { e with st := st, req := some (me 0, q), awaiting := [me 3], owner := ow })] [] { who := me 3, answer := ⟨true, true, true⟩ }
theorem witness_CoherenceAnswers_home : (let e := dirAt (last .busyRx .rdx none) 0x400
     e.st = .busyRx ∧ e.req = some (me 0, .rdx) ∧ e.awaiting = [me 3] ∧ e.owner ≠ some (me 3) ∧ e.answer = none ∧ e.queue = []) ∧
    (let e := dirAt (last .busyRd .rd (some (me 3))) 0x400
     e.st = .busyRd ∧ e.req = some (me 0, .rd) ∧ e.awaiting = [me 3] ∧ e.owner = some (me 3) ∧ e.queue = []) ∧
    whoFailed State.reset (me 0) = false ∧ 0 ≠ homeDie State.reset 0x400 := by decide +kernel

def awaiting (st : Moesi) (k : CohReq) : State := coherent [] [agentOf 2 st (some k)] { die := 2, data := line9, grant := .exclusive }
theorem witness_CoherenceAnswers_requester : (agentAt (awaiting .s .upg) 2 0x400).map (fun a => (a.st.holds, a.pending)) = some (true, some .upg) ∧
    (agentAt (awaiting .i .rd) 2 0x400).map (·.pending) = some (some .rd) ∧ answeredAtomic (awaiting .i .rd) = none ∧
    (2, 0x400) ∉ (awaiting .i .rd).coh.untracked ∧ lineIsOwn (awaiting .i .rd) 0x400 = true ∧ isHomeDie (awaiting .i .rd) 2 0x400 = false ∧
    (agentSet (awaiting .i .rd) 2 0x400).length < 16 := by decide +kernel

/-- A line that an agent of package 5 owns. -/
def abroad (a : Arg) : State := coherent [entry (fun e => { e with st := .ow, owner := some (.agent 5 1) })] [] a
theorem witness_CoherenceAnswers_chip : (let s := abroad { who := .agent 5 1, data := line9 }
     5 ≠ s.fab.chipId ∧ (dirAt s 0x400).owner = some (.agent 5 1) ∧ (dirAt s 0x400).st.busy = false ∧ (dirAt s 0x400).queue = [] ∧
     (takeWb s s.arg.who 0x400 s.arg.data).sched.raised = [] ∧ (lineKey s 0x400).isSome = true ∧ s.arg.data.bytes.length = 128) ∧
    (let s := abroad { chip := 5 }; s.arg.chip ≠ s.fab.chipId ∧ s.arg.chip ∉ s.fab.failedChips ∧ s.coh.dir.all (fun v => v.st == .ow && v.queue.isEmpty &&
      v.owner == some (.agent 5 1) && v.sharers.all (ofChip 5)) = true) := by decide +kernel

/-! ### Hosts -/

def hosted (a : Arg) : State := { State.reset with arg := { a with line := 0x400 } }
theorem witness_HostAccesses : (let s := hosted { offset := 0x20040, grant := .exclusive, bytes := List.replicate 64 7 }; let pa := hostPa s 0x20040
     hostBacked s .a 0x20040 = true ∧ pa = 0x20040 ∧ lineOf pa = 0x400 ∧ (dirAt s 0x400).st.busy = false ∧ otherCopies s .a (pa / 64) true = [] ∧
     foreignHolds s 0x400 = false ∧ (setLines s 0x400).length < 16 ∧ (let r := takeForHost (acquireLine s 0x400) 0x400
       r.sched.raised.isEmpty && !(peekPa (chanRead r 0x400 (sectorMask (offsetInLine pa) 64)) pa 64).2) = true ∧
     (let u := takeForHost s 0x400; u.sched.raised.isEmpty && !pageFrozen u pa && (hostBytes u .a pa s.arg.bytes).sched.raised.isEmpty && lineIsOwn u 0x400 &&
       (lineKey u 0x400).isSome) = true) ∧
    hostBacked (hosted {}) .a (2 ^ 40) = false ∧
    pageFrozen (takeForHost { hosted {} with tr := { (hosted {}).tr with frozenPages := [(2, 1)] } } 0x400) 0x20040 = true := by decide +kernel

def inv88 : State := { hosted { offset := 9 } with coh := { State.reset.coh with bisnp := [(.a, 9, true)], hostDir := [⟨.a, 9, true, 0⟩] } }
/-- A line of host memory held on its die. -/
def hostLine (a : Arg) (ag : List Agent) : State := let s : State := { State.reset with arg := { a with line := 2 ^ 44 } }
  { s with coh := { s.coh with agents := ag } }
def hAgent (p : Option CohReq) : Agent := ⟨0, 2 ^ 44, .m, line9, false, p⟩
theorem witness_HostAccesses_answers : inv88.coh.bisnp.find? (fun x => x.1 == .a && x.2.1 == 9) = some (.a, 9, true) ∧ inv88.arg.bytes = [] ∧ (dirAt inv88 (9 / 2)).st.busy = false ∧
    hostDie (2 ^ 44) = 0 ∧ (acquireLine (hostLine {} []) (2 ^ 44)).sched.raised = [] ∧ agentAt (acquireLine (hostLine {} []) (2 ^ 44)) 0 (2 ^ 44) = none ∧
    (acquireLine (hostLine {} [hAgent none]) (2 ^ 44)).sched.raised = [] ∧
    agentAt (acquireLine (hostLine {} [hAgent none]) (2 ^ 44)) 0 (2 ^ 44) = some (hAgent none) ∧ (hAgent none).st.holds = true ∧
    agentAt (hostLine { bytes := [1] } [hAgent (some .rd)]) 0 (2 ^ 44) = some (hAgent (some .rd)) := by decide +kernel

/-! ### The management window and its commands -/

def winState (g : HostIf → HostIf) (a : Arg) : State := { State.reset with host := g State.reset.host, arg := a, pkg := { State.reset.pkg with devState := .ready } }
theorem witness_ManagementWindow : (winState id { readers := [.b, .mgmt] }).host.semHolder = none ∧ (winState id {}).pkg.devState = .ready ∧
    firstAt State.reset.host.semNext (dedup [Requester.b, .mgmt]) = some .b ∧ State.reset.host.cmdBusy = false ∧ State.reset.host.semReleasePending = false ∧
    (winState (fun h => { h with semHolder := some .a, cmdBusy := true }) { word := 1 }).host.semHolder = some (winState id { word := 1 }).arg.req ∧
    cmdEntry 0xFF State.reset.host.cmdBuf = none ∧ bitAt 0x800000FF 31 = true ∧ bitsOf 0x800000FF 30 24 = 0 := by decide +kernel
theorem witness_ManagementWindow_go : (cmdEntry 0x01 State.reset.host.cmdBuf).elim false (fun e => e.what.isSome && !requestReserved e State.reset.host.cmdBuf &&
    decide (e.len < 2 ^ 16)) = true := by decide +kernel

def buffered (xs : List Byte) (a : Arg := {}) (s : State := State.reset) : State := { s with host := { s.host with cmdBuf := xs }, arg := a }
/-- Bytes at offsets of a request, zeros elsewhere. -/
def requestOf (fs : List (Nat × Nat × Nat)) : List Byte := fs.foldl (fun b x => spliceBytes b x.1 (natBytes x.2.1 x.2.2)) (List.replicate 256 0)
def asks (fs : List (Nat × Nat × Nat)) (a : Arg := {}) (s : State := State.reset) : State := buffered (requestOf fs) a s

theorem witness_DeviceCommands : (let s := asks [(4, 2, 1)]; 1 ≤ req s 4 2 ∧ req s 4 2 ≤ 1023) ∧ req (asks [(4, 2, 1024)]) 4 2 = 1024 ∧
    (let s := asks [(0, 2, 0x0101), (8, 8, 0x20020)]; req s 0 2 = 0x0101 ∧ req s 8 8 < 2 ^ 51 ∧ paChip (req s 8 8) = s.fab.chipId ∧ paUnbacked s (req s 8 8) = false ∧
      (lineKey s (lineOf (req s 8 8))).isSome = true ∧ (injectSector s (req s 8 8) 0x0101).sched.raised = []) ∧
    req (asks [(0, 2, 7)]) 0 2 ∉ [0x0001, 0x0101, 0x0002, 0x0105, 0x0203] ∧
    (let s := asks [(0, 1, 3)]; req s 0 1 = 3 ∧ (s.engine 3).state ≠ .contained ∧ s.media.length = 4) ∧ req (asks [(0, 1, 4)]) 0 1 = 4 ∧
    (let s := asks [(1, 1, 15)]; req s 1 1 = 15 ∧ ulainQuiet s = true ∧ (evictLines s (lineIsOwn s)).sched.raised = []) ∧
    ulainQuiet (asks [(1, 1, 15)] {} (ported State.reset)) = false := by decide +kernel
theorem witness_DeviceCommands_ports : (let s := asks [(2, 2, 1)] {} (ported State.reset)
    (s.fab.ulain.zipIdx).all (fun x => x.1.state != .up || x.1.enabled == bitAt (req s 2 2) x.2) = true) ∧
    (let s := asks [(1, 1, 0), (2, 1, 0)] {} (ported State.reset); reqLink s = some link0 ∧ trainable s link0 = true ∧ (s.link link0).state ≠ .retraining) ∧
    reqLink (asks [(1, 1, 3)]) = none ∧ (let s := asks [(2, 2, 2800)]; req s 2 2 = 2800 ∧ 2800 % 50 = 0) ∧ req (asks [(2, 2, 999)]) 2 2 = 999 := by decide +kernel

theorem witness_MemoryCommands_contexts : (let s := asks [(0, 8, 0x20000), (8, 1, 1)]
     rootOk s (req s 0 8) = true ∧ req s 8 1 = 1 ∧ s.tr.ctxs.idxOf? none = some 0) ∧
    rootOk (asks [(0, 8, 1)]) 1 = false ∧ (asks [(8, 1, 2)] |> fun s => req s 8 1) = 2 ∧
    (let s := asks [(0, 8, 0x20000)] {} { State.reset with tr := { State.reset.tr with ctxs := List.replicate 64 (some ⟨0, false⟩) } }
     rootOk s (req s 0 8) = true ∧ s.tr.ctxs.idxOf? none = none) ∧
    (let s := asks [] {} base; (s.ctx? (req s 0 1)).isSome = true ∧ s.sched.launches.any (fun l => l.ctx == req s 0 1) = true) ∧
    (let s := asks [(0, 1, 5)] {} { State.reset with tr := { State.reset.tr with ctxs := List.replicate 64 (some ⟨0, false⟩) } }
     (s.ctx? (req s 0 1)).isSome = true ∧ s.sched.launches = [] ∧ s.sched.watches = []) ∧ (asks []).ctx? 0 = none ∧
    shootBusy (asks [] { seq := 1, shoot := 4 }) 4 = false ∧
    shootBusy (asks [] { seq := 1, shoot := 4 } { State.reset with tr := { State.reset.tr with shoots := [⟨4, 0, .all⟩] } }) 4 = true := by decide +kernel
/-- A region of 2^24 bytes at 2^40 whose map is the identity. -/
def mapFields : List (Nat × Nat × Nat) := [(0, 1, 1), (1, 1, 24), (2, 2, 0x4000), (8, 8, 2 ^ 40)] ++ (List.range 17).map (fun i => (0x10 + 8 * i, 8, 2 ^ i))
theorem witness_MemoryCommands_map : (let s := asks mapFields
     let inside := lineInside s ((s.ms.regions.getD 1 none).toList ++ [reqRegion s])
     mapCheck s (req s 0 1) (reqRegion s) = none ∧ (reqRegion s).k ≠ 0 ∧ linesBusy s inside = false ∧ (evictLines s inside).ms.regions.length = 16 ∧
     (evictLines s inside).sched.raised = []) ∧
    (let s := asks mapFields {} (coherent [{ (DirEntry.empty (2 ^ 33)) with st := .busyRd }] [])
     mapCheck s (req s 0 1) (reqRegion s) = none ∧ linesBusy s (lineInside s ((s.ms.regions.getD 1 none).toList ++ [reqRegion s])) = true) ∧
    (mapCheck (asks [(0, 1, 16)]) 16 (reqRegion (asks [(0, 1, 16)]))).isSome = true := by decide +kernel
theorem witness_MemoryCommands_query : (let s := asks [(0, 8, 0x20000)]
     paIsHost 0x20000 = false ∧ paChip 0x20000 = s.fab.chipId ∧ (regionSlot s (paOffset 0x20000)).isSome = true ∧ (dramLine s (paOffset 0x20000)).isSome = true) ∧
    regionSlot State.reset (paOffset (2 ^ 46)) = none ∧ paChip (2 ^ 47) ≠ State.reset.fab.chipId ∧ paIsHost (2 ^ 51) = true := by decide +kernel
theorem witness_MemoryCommands_windows : (let s := asks [(0, 8, 0x20000), (8, 8, 0x10000)]
     req s 0 8 = 0x20000 ∧ req s 8 8 = 0x10000 ∧ rangeBacked s 17 (paOffset 0x20000) 0x10000 = true ∧ s.ms.windows.filterMap id = [] ∧
     s.ms.windows.idxOf? none = some 0) ∧
    rangesMeet 0x20000 0x10000 0x2F000 0x10000 = true ∧
    (let s := { State.reset with ms := { State.reset.ms with windows := List.replicate 32 (some ⟨0x80000, 0x10000, 255, none⟩) } }
     s.ms.windows.idxOf? none = none ∧ rangesMeet 0x80000 0x10000 0x20000 0x10000 = false ∧ (s.ms.windows.getD 31 none).isSome = true) := by decide +kernel

/-- A watch of a media engine over 64 KiB, and the same as a request. -/
def watchFields : List (Nat × Nat × Nat) := [(0, 8, 0x100000), (8, 8, 0x10000), (0x18, 8, 0x200000), (0x20, 8, 0x210000), (0x28, 4, 256), (0x2C, 1, 6), (0x2D, 1, 1)]
def withCtx (s : State) : State := { s with tr := { s.tr with ctxs := s.tr.ctxs.set 0 (some ⟨0, false⟩) } }
def watch3 : Watch := { watchOf (requestOf watchFields) with id := 3 }
def watching (a : Arg) (fs : List (Nat × Nat × Nat)) (g : Watch → Watch := id) : State :=
  let s := withCtx (asks fs a)
  { s with sched := { s.sched with watches := [g watch3] } }
theorem witness_SchedulerCommands_watches : (let s := withCtx (asks watchFields); let w := watchOf (sliceBytes s.host.cmdBuf 0 64)
     watchOk s w 1 = true ∧ freeWatch s = some 0 ∧ w.engine = true ∧ w.ctxMask = 0) ∧ watchOk (asks watchFields) watch3 1 = false ∧
    (let s := watching {} watchFields; let w := watchOf (sliceBytes s.host.cmdBuf 0 64)
     watchOk s w 1 = true ∧ freeWatch s = some 0 ∧ s.sched.watches.any (fun x => rangesMeet x.base x.size w.base w.size) = true) ∧
    (let s := watching { seq := 1, watch := 3, offset := granulesOf watch3 } []; (s.watch? 3).elim false (fun x => !watchShooting s x && !x.sweep && decide (granulesOf x ≤ s.arg.offset)) = true) ∧
    (let s := watching { seq := 1, offset := granulesOf watch3 } [(0, 1, 3)] (fun w => { w with detaching := true })
     req s 0 1 = 3 ∧ (s.watch? 3).elim false (fun x => x.engine && !watchPending s x && x.ctxMask == 0 && decide (granulesOf x ≤ s.arg.offset)) = true) ∧
    (let s := watching { seq := 2 } [(0, 1, 3)] (fun w => { w with detaching := true })
     (s.watch? 3).elim false (fun x => x.engine && !watchShooting s x) = true) ∧
    (watching {} []).watch? 0 = none := by decide +kernel

/-- The machine of `base` about to serve a command, its launch changed. -/
def launched (fs : List (Nat × Nat × Nat)) (a : Arg) (g : Launch → Launch := id) (s : State := base) : State :=
  let s := asks fs a s
  { s with sched := { s.sched with launches := s.sched.launches.map g } }
theorem witness_SchedulerCommands_launches : (let s := asks [(0, 8, 0x80000)] {} (withRecord base)
     (s.ctx? (req s 8 1)).isSome = true ∧ (match startLaunch s 0 0 0x80000 with
       | (s1, .ok id) => s1.sched.raised.isEmpty && decide (id < 2 ^ 32)
       | _ => false) = true) ∧
    (match startLaunch (asks [(0, 8, 0x80000)] {} base) 0 0 0x80000 with
      | (s1, .fail code) => s1.sched.raised.isEmpty && code == 2
      | _ => false) = true ∧
    (State.reset.ctx? 0).isNone = true ∧ (launched [(0, 4, 9)] {}).launch? 9 = none := by decide +kernel
theorem witness_SchedulerCommands_suspend : (let s := launched [(0, 4, 1), (8, 8, 0x40000), (0x10, 8, 2 ^ 40)] {}
     (s.launch? (req s 0 4)).elim false (fun l => l.phase == .running && decide (saveSize l.rcd (residents s 1).length ≤ req s 0x10 8)) = true) ∧
    (let s := launched [(0, 4, 1), (8, 8, 0x40000)] { seq := 1, block := 0 } (fun l => { l with phase := .suspended })
     (s.launch? 1).elim false (fun l => launchQuiet s 1 && saveSize l.rcd 0 == 256 && (residents s 1).length == 1 &&
       (openRange (pokeRange ((residents s 1).foldl (fun s b => saveBlock s l.rcd b) s) 0x40000
         (saveHeader ((residents s 1).foldl (fun s b => saveBlock s l.rcd b) s) l 1)) (0x40000 + 256) 0).sched.raised.isEmpty) = true) := by decide +kernel

/-- A save area at PA 0x4_0000 for launch 1, its record at VA 0x8_0000. -/
def saveArea : List Byte := natBytes 4 0x09405A5E ++ natBytes 4 0 ++ natBytes 8 0x80000 ++ natBytes 4 0 ++ natBytes 4 1 ++ List.replicate 232 0
def resuming : State :=
  launched [(0, 4, 1), (8, 8, 0x40000)] {} (fun l => { l with phase := .suspended })
    (homeWrite (withRecord base) 0x800 0 (saveArea.take 24))
theorem witness_SchedulerCommands_resume : (let s := resuming; let g := fieldAt saveArea
     req s 8 8 = 0x40000 ∧ req s 0 4 = 1 ∧ g 0 4 = 0x09405A5E ∧ g 0x14 4 = 1 ∧ g 0x10 1 = 0 ∧ g 8 8 = 0x80000 ∧
     (s.launch? 1).map (·.phase) = some .suspended ∧ (match readHeader s 0x40000 with
       | (s0, some h) => h == saveArea && (s0.ctx? 0).isSome && (match (readRecord 0 0 0x80000).run s0 with
         | .ok (some r) s1 => s1.sched.raised.isEmpty && !r.coop && s1.launch? 1 == s.launch? 1 && s1.sched.blocks.all (fun b =>
           b.launch != 1 || b.phase != .suspended || b.saved.elim false (fun sv => !overCapacity b sv r))
         | _ => false)
       | _ => false) = true) := by decide +kernel
theorem witness_SchedulerCommands_rest : ((launched [(0, 4, 1)] {}).launch? 1).elim false (fun l => !l.watched &&
      (killLaunch (launched [(0, 4, 1)] {}) l).sched.raised.isEmpty) = true ∧
    (let s := { entry5 .frozen 0 with host := { State.reset.host with cmdBuf := [5] } }
     req s 0 1 = 5 ∧ s.freeze.length = 64 ∧ (s.frz 5).state = .frozen) ∧ (State.reset.frz 0).state = .free := by decide +kernel

/-! ### Media engines, dispatchers, the paths' own events -/

/-- A decode job of 16 bytes at VA 0x8_0000, its record at 0x8_0300. -/
def jobBytes : List Byte := natBytes 8 7 ++ natBytes 8 0x80000 ++ natBytes 4 16 ++ natBytes 4 256 ++ natBytes 8 0x80100 ++ List.replicate 16 0 ++
  natBytes 8 0x80300 ++ List.replicate 8 0
def theJob (bs : List Byte) : MediaJob := newJob watch3 bs
def mediaAt (f : Engine → Engine) (bs : List Byte := []) : State :=
  let s : State := homeWrite base 0x2000 0 bs
  { s with cur := none, media := s.media.modify 0 f, sched := { s.sched with watches := [watch3] }, arg := { watch := 3 } }
theorem witness_MediaEvents_dispatch : [List.replicate 64 0, jobBytes].all (fun bs => let s := mediaAt (fun e => { e with pending := [(3, 0)] }) bs
    let u := s.updEngine 0 (fun x => { x with pending := x.pending.erase (3, 0) })
    let lo := coherentRead (acquireLine u 0x2000) 0x100000 32
    let hi := coherentRead lo.1 0x100020 32
    let v := hi.1
    s.sched.raised.isEmpty && decide (0 < v.media.length) && (s.engine 0).pending == [(3, 0)] && (s.engine 0).state == .idle && s.watch? 3 == some watch3 && v.sched.raised.isEmpty &&
    granulePa watch3 0 == 0x100000 && lineOf 0x100000 == 0x2000 && lo.2.1 ++ hi.2.1 == bs && !lo.2.2 && !hi.2.2 &&
    (if bs == jobBytes then jobOk (theJob bs) && !(theJob bs).encodes && decide ((theJob bs).f 5 1 < 2) && (theJob bs).f 6 2 == 0 &&
      (match (readJob (theJob bs)).run v with
        | .ok (ps, input) s1 => ps.isEmpty && input.length == 16 && s1.sched.raised.isEmpty && decide (0 < s1.media.length)
        | _ => false)
     else !jobOk (theJob bs))) = true := by decide +kernel
def running (st : EngState) : State := mediaAt (fun e => { e with job := some (theJob jobBytes), state := st })
theorem witness_MediaEvents_rows : (running .run).sched.raised = [] ∧ ((running .run).engine 0).job = some (theJob jobBytes) ∧
    ((running .run).engine 0).state = .run ∧ ((running .waitFilt).engine 0).state = .waitFilt ∧ ((running .contained).engine 0).state = .contained ∧
    0 < (running .run).media.length ∧ (theJob jobBytes).toCount = false ∧ (theJob jobBytes).streams = false ∧ farWaits (running .run) 0 = false ∧
    (theJob jobBytes).encodes = false ∧ (theJob jobBytes).filter = false ∧
    (match (storeDone 0 (theJob jobBytes)).run (running .run) with
      | .ok _ s1 => s1.sched.raised.isEmpty && decide (0 < s1.media.length)
      | _ => false) = true ∧
    (match (rowReady (theJob jobBytes)).run (running .waitFilt) with
      | .ok true s1 => s1.sched.raised.isEmpty && decide (0 < s1.media.length)
      | _ => false) = true := by decide +kernel
/-- The number of rows is free: a job that has made as many ends, and an encode job that has not makes its next row at once. -/
theorem witness_MediaEvents_ends : let j := { theJob jobBytes with row := Config.mediaRows [] [] }
    j.toCount = false ∧ j.settings = [] ∧ j.input = [] ∧ Config.mediaRows j.settings j.input ≤ j.row := ⟨rfl, rfl, rfl, le_refl _⟩
theorem witness_MediaEvents_makes (s : State) (e : Nat) (j : MediaJob) (h : j.encodes = true) : (makeRow e j).run s = .ok (j, true) s := by
  simp [makeRow, h, EStateM.run, pure, EStateM.pure]

/-- Launch 1 watches 64 KiB at 0x10_0000 with the pending bit of granule 5 set, and the queue of die 0, slice 0 holds it. -/
def watchL : Watch := { watch3 with engine := false, launch := 1 }
def triggered (g : Watch → Watch) : State :=
  let s : State := homeWrite base 0x4000 0 [32]
  { s with cur := none, sched := { s.sched with watches := [g watchL], trigQ := [(0, ⟨3, 2, 5⟩)] }, arg := { watch := 3, trig := .queue 0 0 } }
theorem witness_Dispatching_queue : (let s := triggered id
    s.sched.raised.isEmpty && s.arg.trig == .queue 0 0 && (match takeQueued s 0 with
      | some (e, rest) => e.watch == 3 && rest.isEmpty && s.watch? 3 == some watchL && (s.launch? 1).isSome && (match bitSwap { s with sched := { s.sched with trigQ := rest } } watchL e.granule false with
        | (true, s1) => s1.sched.raised.isEmpty
        | _ => false)
      | none => false)) = true := by decide +kernel
theorem witness_Dispatching_sweep : [true, false].all (fun clean => let s := triggered (fun w => { w with sweep := true, scanPos := 1024, passClean := clean })
    s.sched.raised.isEmpty && (s.watch? s.arg.watch).elim false (fun w => w.sweep && decide (granulesOf w ≤ w.scanPos) && w.passClean == clean)) = true := by
  decide +kernel

/-- Block 5 of launch 1 waits on die 0, beside the hatch of `base`. -/
def block5 : Block := { newBlock 5 1 0 0 progRec 0 with areas := [0x80400] }
def queued (g : Block → Block := id) (l : Launch → Launch := id) (s : State := base) : State :=
  { s with cur := none, sched := { s.sched with blocks := s.sched.blocks ++ [g block5], launches := s.sched.launches.map l } }
theorem witness_Dispatching_admission : [96, 97].all (fun n => let b := block5
    let s := queued id (fun l => { l with rcd := { l.rcd with floor := if n == 96 then l.rcd.floor else 257 } })
    s.sched.raised.isEmpty && waiting s 0 == [b] && (s.dies.getD 0 Die.reset).gate == .powered && coopWaits s b == none && !b.triggered &&
    (s.launch? 1).elim false (fun l => match placeOn (roomOf s) 0 l.rcd (blockSize b l.rcd) (toStart b l.rcd) with
      | some cs => n == 96 && (match takeAreas s b l with
        | (s1, some areas) => (admitAt s1 b l cs areas).sched.raised.isEmpty
        | _ => false)
      | none => n == 97)) = true := by decide +kernel

/-- Block 5 is a continuation: one that core 0's spawn asks to be placed, or one in core 0's queue. -/
def continued (suspended inQ : Bool) : State :=
  let s := queued (fun b => { b with spawnArea := some 0x80400, areas := [0x80400] }) (fun l => if suspended then { l with phase := .suspended } else l)
  if inQ then s.updCore 0 (fun k => { k with spawnQ := [5] })
  else { s with ops := [⟨40, 1, 0, 0, 0, 0, 0, progVa, .spawn fSpawn, 1, [], [5], [], 0, false, false⟩] }
theorem witness_Dispatching_spawns : (let s := continued true false
    s.sched.raised.isEmpty && firstOp s (fun o => o.core == 0 && isSpawn o.what && o.vals == [5]) && (s.block? 5).map (·.launch) == some 1 && (s.core 0).spawnQ.isEmpty &&
    decide (0 < s.cores.length) && s.sched.blocks.all (fun x => x.inst == 5 || !unplaced x) && (s.launch? 1).map (·.phase) == some .suspended) = true ∧
    (let s := continued false true
    s.sched.raised.isEmpty && s.ops.isEmpty && s.sched.blocks.all (fun x => !inRing s x) && (s.core 0).spawnQ == [5] && (s.block? 5).elim false (fun b =>
      b.launch == 1 && mayPlace s b && !heldByCoop s b && b.spawnArea.isSome && (s.launch? 1).elim false (fun l =>
        (match placeOn (roomOf s) b.die l.rcd (blockSize b l.rcd) (toStart b l.rcd) with
          | some cs => (match takeAreas s b l with
            | (s1, some areas) => (admitAt s1 b l cs areas).sched.raised.isEmpty
            | _ => false)
          | none => false)))) = true := by decide +kernel

/-- Block 5 has waited long enough to age, and to take the place of block 0. -/
def waited : State := { queued (fun b => { b with effPrio := 3 }) with clock := 2400000, arg := { block := 5 } }
theorem witness_Dispatching_aging : (let s := waited; s.sched.raised.isEmpty && (s.block? 5).elim false (fun b => b.phase == .queued && decide (b.effPrio < 7) &&
      decide (b.agedFrom + 2400000 ≤ s.clock))) = true := by decide +kernel
/-- The same with no way free on any core: block 0 has all those of core 0, and every block of the launch needs one. -/
def crowded : State :=
  let s := waited
  let ls := s.sched.launches.map (fun (l : Launch) => { l with rcd := { l.rcd with local_ := 65536 } })
  let bs := s.sched.blocks.map (fun (b : Block) => if b.inst == 0 then { b with cores := [0] } else b)
  let cs := s.cores.map (fun (k : Core) => { k with ways := List.replicate 14 (.owned 99 [] []) })
  let s : State := { s with cores := cs, sched := { s.sched with launches := ls, blocks := bs } }
  s.updCore 0 (fun k => { k with ways := List.replicate 14 (.owned 0 [] []) })
theorem witness_Dispatching_preemption : (let s := crowded
    let late := s.sched.blocks.filter (fun b => b.die == 0 && b.phase == .queued && decide (b.queuedAt + 240000 ≤ s.clock) &&
      mayPlace s b)
    ((late.flatMap (blocksInWay s)).filter (blockPreemptible s)).map (·.inst) == [0] &&
      (s.block? 0).isSome) = true := by decide +kernel
/-- The only hatch of its partition waits for a register. -/
def boundTo : State := let s := base (vec 4 [1]); { s with cur := none, dry := [⟨1, 0⟩] }
theorem witness_Dispatching_bound : (let s := boundTo
    s.sched.raised.isEmpty && (boundPartitions s).contains (0, 0) && (((partHatches s 0 0).filter (fun h => decide ((recOf s h).floor < h.held))).filter
      (fun h => (s.block? h.block).elim false (blockPreemptible s))).map (·.inst) == [1]) = true := by decide +kernel

def waitingPath (w : Wait) : State := { base (pathed (fun p => { p with wait := w })) with clock := 70000, arg := { hatch := 1 } }
theorem witness_PathEvents : [Wait.none, .yield 0 3, .waddr true 0x80000 0, .sema 0x80000 0].all (fun w => let s := waitingPath w
    s.sched.raised.isEmpty && (s.hatch? 1).elim false (fun h => !h.handler && (h.path? s.arg.slot).elim false (fun p => p.wait == w && !p.handler &&
      decide (p.prio + p.promo < 7) && decide (0 + 65536 ≤ s.clock)))) = true := by decide +kernel
def faulted : State := (waitingPath .none).updCore 0 (fun k => { k with sfrq := [⟨1, 4, 2, 3, 1, progVa, 0x90000, 1⟩] })
theorem witness_PathEvents_traps : ((faulted.hatch? 1).elim false (fun h => !h.handler && (oldestRecord faulted h).isSome)) = true ∧
    (let s := (waitingPath .none).updHatch 1 (fun h => { h with engFaults := [⟨1, 2, 3, 0x40⟩] })
     (s.hatch? 1).elim false (fun h => !h.handler && oldestRecord s h == none && h.engFaults == [⟨1, 2, 3, 0x40⟩])) = true := by decide +kernel

end Sys2Proof.Tests
end

section
/-! PROOFS. Numbers and bits: what `wrapN`, `sxt`, `bitAt`, `elemCode` and the folds of the integer instructions are in
terms of integers modulo 2^w and of single bits. -/

namespace Sys2Proof.Machine

/-! ### Integers modulo 2^w -/

@[simp] theorem natCast_wrapN (w : Nat) (x : Int) : ((wrapN w x : Nat) : Int) = x % 2 ^ w := by
  have h : (0 : Int) ≤ x % (2 ^ w : Nat) := Int.emod_nonneg x (by positivity)
  rw [wrapN, Int.toNat_of_nonneg h]
  push_cast
  rfl

theorem wrapN_eq_ofInt (w : Nat) (x : Int) : wrapN w x = (BitVec.ofInt w x).toNat := (BitVec.toNat_ofInt x).symm

/-- A code read as signed is the two's complement value of its low bits. -/
theorem sxt_eq_toInt (w v : Nat) : sxt w v = (BitVec.ofNat w v).toInt := by
  rw [BitVec.toInt_eq_toNat_cond, BitVec.toNat_ofNat, sxt]
  cases w with
  | zero => simp [Nat.mod_one]
  | succ n =>
    have h : 2 ^ (n + 1) = 2 * 2 ^ n := Nat.pow_succ'
    by_cases hv : 2 ^ n ≤ v % 2 ^ (n + 1)
    · rw [if_pos (by simpa using hv), if_neg (by omega)]
    · rw [if_neg (by simpa using hv), if_pos (by omega)]

/-- The bits of a code of n bits that is sign-extended to W: its own, and copies of its last. -/
theorem testBit_wrapN_sxt {W n k : Nat} (x : Nat) (hn : 0 < n) (hk : k < W) :
    (wrapN W (sxt n x)).testBit k = x.testBit (min k (n - 1)) := by
  have h : wrapN W (sxt n x) = ((BitVec.ofNat n x).signExtend W).toNat := by
    rw [wrapN_eq_ofInt, sxt_eq_toInt, BitVec.signExtend]
  rw [h, BitVec.testBit_toNat, BitVec.getLsbD_signExtend, BitVec.msb_eq_getLsbD_last, BitVec.getLsbD_ofNat,
    BitVec.getLsbD_ofNat]
  by_cases hkn : k < n
  · simp [hk, hkn, Nat.min_eq_left (Nat.le_sub_one_of_lt hkn)]
  · simp [hk, hkn, hn, Nat.min_eq_right (show n - 1 ≤ k by omega)]

theorem sxt_bounds (w v : Nat) : -(2 ^ w : Nat) ≤ sxt w v ∧ sxt w v < (2 ^ w : Nat) := by
  have h : v % 2 ^ w < 2 ^ w := Nat.mod_lt v (Nat.two_pow_pos w)
  unfold sxt
  split <;> omega

/-- Past the width a right shift of a signed value gives its sign only. -/
theorem sxt_div_two_pow_min (w n v : Nat) : sxt w v / ((2 ^ min n w : Nat) : Int) = sxt w v / 2 ^ n := by
  obtain ⟨hlo, hhi⟩ := sxt_bounds w v
  by_cases h : n ≤ w
  · rw [Nat.min_eq_left h]; push_cast; rfl
  · have hpow : (2 ^ w : Nat) ≤ 2 ^ n := Nat.pow_le_pow_right (by omega) (by omega)
    have hcast : ((2 ^ n : Nat) : Int) = 2 ^ n := by push_cast; rfl
    rw [Nat.min_eq_right (by omega), ← hcast]
    by_cases hs : sxt w v < 0
    · rw [Int.ediv_eq_neg_one_of_neg_of_le hs (by omega), Int.ediv_eq_neg_one_of_neg_of_le hs (by omega)]
    · rw [Int.ediv_eq_zero_of_lt (by omega) hhi, Int.ediv_eq_zero_of_lt (by omega) (by omega)]

/-- The high half of a product of two codes of w bits, modulo 2^w. -/
theorem wrapN_double_div_mod (w : Nat) (x : Int) :
    ((wrapN (2 * w) x / 2 ^ w % 2 ^ w : Nat) : Int) = x / 2 ^ w % 2 ^ w := by
  have hm : (2 : Int) ^ (2 * w) = 2 ^ w * 2 ^ w := by rw [two_mul, pow_add]
  have hx : x = x % 2 ^ (2 * w) + 2 ^ w * (2 ^ w * (x / 2 ^ (2 * w))) := by
    rw [← mul_assoc, ← hm, Int.emod_add_mul_ediv]
  have hdiv : x / 2 ^ w = x % 2 ^ (2 * w) / 2 ^ w + 2 ^ w * (x / 2 ^ (2 * w)) := by
    conv_lhs => rw [hx]
    exact Int.add_mul_ediv_left _ _ (by positivity)
  rw [hdiv, Int.add_mul_emod_self_left]
  push_cast
  rw [natCast_wrapN]

/-! ### Single bits -/

theorem bitAt_eq_testBit (v i : Nat) : bitAt v i = v.testBit i := by
  rw [Nat.testBit_eq_decide_div_mod_eq]; rfl

/-! ### Elements -/

theorem elemCode_lt (w v j : Nat) : elemCode w v j < 2 ^ w := Nat.mod_lt _ (Nat.two_pow_pos w)

/-- An element packed from a value that fits it. -/
theorem elemCode_packElems_of_lt {n w j : Nat} {f : Nat → Nat} (hj : j < n) (hf : f j < 2 ^ w) :
    elemCode w (packElems n w f) j = f j := by
  rw [elemCode_packElems n w f j hj, Nat.mod_eq_of_lt hf]

/-! ### Folds over indices -/

theorem foldl_add_eq_add_sum {M : Type} [AddMonoid M] (g : Nat → M) (xs : List Nat) (a : M) :
    xs.foldl (fun a j => a + g j) a = a + (xs.map g).sum := by
  induction xs generalizing a with
  | nil => simp
  | cons x r ih => simp [ih, add_assoc]

/-- The indices below n that have a property, counted from 0 up to the first that has not. -/
theorem length_takeWhile_range (p : Nat → Bool) (n : Nat) :
    ((List.range n).takeWhile p).length ≤ n ∧ (∀ k, k < ((List.range n).takeWhile p).length → p k = true) ∧
      (((List.range n).takeWhile p).length < n → p ((List.range n).takeWhile p).length = false) := by
  induction n with
  | zero => simp
  | succ n ih =>
    obtain ⟨hle, hall, hend⟩ := ih
    rw [List.range_succ, List.takeWhile_append, List.length_range]
    by_cases hfull : ((List.range n).takeWhile p).length = n
    · rw [hfull] at hall
      rw [if_pos hfull]
      cases hp : p n
      · simpa [hp] using hall
      · simpa [hp, Nat.le_iff_lt_or_eq, or_imp, forall_and] using hall
    · rw [if_neg hfull]
      exact ⟨by omega, hall, fun _ => hend (by omega)⟩

end Sys2Proof.Machine
end

section
/-! PROOFS. What the integer instructions compute, one lemma for each value function of 14 R323 to R336. -/

namespace Sys2Proof.Machine

/-! ### Arithmetic (R323 to R325) -/

/-- An elementwise instruction completes, and its elements are those of any function that agrees with its own. -/
theorem elemOp_reg {i : Instr} {op w : Nat} {f : AForm} {g g' : Int → Int → Int → Int}
    (h : ∀ s, exec i s = intExec op w f (elemOp f g) s) (hg : ∀ a b c, g a b c = g' a b c) :
    WritesReg i op f w (ElemsAre f g') := by
  obtain rfl : g = g' := by funext a b c; exact hg a b c
  exact intExec_reg h (elemOp_elems f g)

theorem carryIn_eq (c : Iss) (f : AForm) (l : Nat) :
    carryIn c f l = if f.sub % 2 ≠ 1 ∧ c.h.pcode (f.aux.toNat % 8) l = .t then 1 else 0 := by
  unfold carryIn carryReg
  by_cases hcz : f.sub % 2 = 1 <;> simp [hcz]

theorem carryIn_bounds (c : Iss) (f : AForm) (l : Nat) : 0 ≤ carryIn c f l ∧ carryIn c f l ≤ 1 := by
  rw [carryIn_eq]; split <;> simp

theorem ofBool_cases (b : Bool) : Tri.ofBool b = .t ∨ Tri.ofBool b = .f := by cases b <;> simp [Tri.ofBool]

theorem ofBool_eq_t (b : Bool) : Tri.ofBool b = .t ↔ b = true := by cases b <;> simp [Tri.ofBool]

/-- The sum of `addc` is its low word and its carry. -/
theorem addcExact_carry {c : Iss} {f : AForm} {l : Nat} (ha : intA c f l < 2 ^ 32) (hb : intB c f l < 2 ^ 32) :
    (wrapN 32 (addcExact c f l) : Int) + (if 2 ^ 32 ≤ addcExact c f l then 2 ^ 32 else 0) =
      intA c f l + intB c f l + carryIn c f l := by
  obtain ⟨h0, h1⟩ := carryIn_bounds c f l
  rw [natCast_wrapN, addcExact]
  split <;> omega

/-- The difference of `subb` is its low word less its borrow. -/
theorem subbExact_borrow {c : Iss} {f : AForm} {l : Nat} (ha : intA c f l < 2 ^ 32) (hb : intB c f l < 2 ^ 32) :
    (wrapN 32 (subbExact c f l) : Int) + intB c f l + carryIn c f l =
      intA c f l + (if subbExact c f l < 0 then 2 ^ 32 else 0) := by
  obtain ⟨h0, h1⟩ := carryIn_bounds c f l
  rw [natCast_wrapN, subbExact]
  split <;> omega

/-- The carry of a chain of `addc` loses nothing. -/
theorem addc_carry {c : Iss} {f : AForm} {l : Nat} (ha : intA c f l < 2 ^ 32) (hb : intB c f l < 2 ^ 32) :
    wrapN 32 (addcExact c f l) + (if Tri.ofBool (decide (2 ^ 32 ≤ addcExact c f l)) = .t then 2 ^ 32 else 0) =
      intA c f l + intB c f l + (if f.sub % 2 ≠ 1 ∧ c.h.pcode (f.aux.toNat % 8) l = .t then 1 else 0) := by
  have h := addcExact_carry ha hb
  rw [carryIn_eq] at h
  simp only [ofBool_eq_t, decide_eq_true_eq]
  exact_mod_cast h

/-- The borrow of a chain of `subb` loses nothing. -/
theorem subb_borrow {c : Iss} {f : AForm} {l : Nat} (ha : intA c f l < 2 ^ 32) (hb : intB c f l < 2 ^ 32) :
    wrapN 32 (subbExact c f l) + intB c f l + (if f.sub % 2 ≠ 1 ∧ c.h.pcode (f.aux.toNat % 8) l = .t then 1 else 0) =
      intA c f l + (if Tri.ofBool (decide (subbExact c f l < 0)) = .t then 2 ^ 32 else 0) := by
  have h := subbExact_borrow ha hb
  rw [carryIn_eq] at h
  simp only [ofBool_eq_t, decide_eq_true_eq]
  exact_mod_cast h

theorem mulhiVal_elem (f : AForm) (c : Iss) (l : Nat) {j : Nat} (hj : j < tyCount f.tyN) :
    (elemCode (tyWidth f.tyN) (mulhiVal f c l) j : Int) =
      (intElemA c f l j * intElemB c f l j / 2 ^ tyWidth f.tyN) % 2 ^ tyWidth f.tyN := by
  rw [← wrapN_double_div_mod, mulhiVal]
  exact congrArg _ (elemCode_packElems _ _ _ _ hj)

/-! ### Logic (R327) -/

/-- A function of words that acts bit by bit does so on the numbers that the words stand for. -/
theorem testBit_wordFn {g : Word → Word → Word → Word} {b : Bool → Bool → Bool → Bool}
    (hg : ∀ (x y z : Word) (k : Nat), k < 32 → (g x y z).getLsbD k = b (x.getLsbD k) (y.getLsbD k) (z.getLsbD k))
    (x y z : Nat) {k : Nat} (hk : k < 32) :
    (g (BitVec.ofNat 32 x) (BitVec.ofNat 32 y) (BitVec.ofNat 32 z)).toNat.testBit k =
      b (x.testBit k) (y.testBit k) (z.testBit k) := by
  rw [BitVec.testBit_toNat, hg _ _ _ k hk]
  simp only [BitVec.getLsbD_ofNat, hk, decide_true, Bool.true_and]

/-- A bitwise instruction completes, and each bit of D is the function of the bits of A, B and C. -/
theorem logicOp_reg {i : Instr} {op : Nat} {f : AForm} {g : Word → Word → Word → Word} {b : Bool → Bool → Bool → Bool}
    (h : ∀ s, exec i s = logicOp op f g s)
    (hg : ∀ (x y z : Word) (k : Nat), k < 32 → (g x y z).getLsbD k = b (x.getLsbD k) (y.getLsbD k) (z.getLsbD k)) :
    WritesReg i op f 1 (fun val => ∀ c l, val c l < 2 ^ 32 ∧ ∀ k, k < 32 →
      (val c l).testBit k = b ((intA c f l).testBit k) ((intB c f l).testBit k) ((c.srcC f 1 l).testBit k)) :=
  intExec_reg h (fun _ _ => ⟨BitVec.isLt _, fun _ hk => testBit_wordFn hg _ _ _ hk⟩)

/-- Each bit of a table function is the bit of the table that the bits of its operands choose. -/
theorem tableWord_bit (t : Nat) (a b : Word) {k : Nat} (hk : k < 32) :
    (tableWord t a b).getLsbD k = t.testBit (2 * (b.getLsbD k).toNat + (a.getLsbD k).toNat) := by
  unfold tableWord
  simp only [bitAt_eq_testBit, BitVec.getLsbD_or, apply_ite (fun x : Word => x.getLsbD k), BitVec.getLsbD_and,
    BitVec.getLsbD_not, hk]
  cases a.getLsbD k <;> cases b.getLsbD k <;> simp

/-- The two tables of `bitf`: where C is 1 its low 4 bits, where C is 0 the rest. -/
theorem bitf_bit (t : Nat) (a b c : Word) {k : Nat} (hk : k < 32) :
    ((c &&& tableWord (t % 16) a b) ||| (~~~c &&& tableWord (t / 16) a b)).getLsbD k =
      (t / (if c.getLsbD k then 1 else 16)).testBit (2 * (b.getLsbD k).toNat + (a.getLsbD k).toNat) := by
  have hi : 2 * (b.getLsbD k).toNat + (a.getLsbD k).toNat < 4 := by
    have := Bool.toNat_lt (b.getLsbD k); have := Bool.toNat_lt (a.getLsbD k); omega
  have hlow : (t % 16).testBit (2 * (b.getLsbD k).toNat + (a.getLsbD k).toNat) =
      t.testBit (2 * (b.getLsbD k).toNat + (a.getLsbD k).toNat) := by
    rw [show 16 = 2 ^ 4 from rfl, Nat.testBit_mod_two_pow]; simp [hi]
  simp only [BitVec.getLsbD_or, BitVec.getLsbD_and, BitVec.getLsbD_not, hk, tableWord_bit _ _ _ hk]
  cases c.getLsbD k
  · simp
  · simpa using hlow

/-! ### Shifts (R328) -/

theorem shiftElem_left (w x n : Nat) : shiftElem 0 w x n = x * 2 ^ n % 2 ^ w := by
  unfold shiftElem
  by_cases h : w ≤ n
  · simp [h, Nat.mod_eq_zero_of_dvd (Dvd.dvd.mul_left (Nat.pow_dvd_pow 2 h) x)]
  · simp [h]

theorem shiftElem_right {w x : Nat} (n : Nat) (hx : x < 2 ^ w) : shiftElem 1 w x n = x / 2 ^ n := by
  unfold shiftElem
  by_cases h : w ≤ n
  · simp [h, Nat.div_eq_of_lt (lt_of_lt_of_le hx (Nat.pow_le_pow_right (by omega) h))]
  · simp [h]

theorem shiftElem_arith (w x n : Nat) : shiftElem 2 w x n = wrapN w (sxt w x / 2 ^ n) := by
  rw [← sxt_div_two_pow_min]; rfl

theorem shiftVal_elem {kind : Nat} {f : AForm} {c : Iss} {l j r : Nat} (hj : j < tyCount f.tyN)
    (h : shiftElem kind (tyWidth f.tyN) (elemCode (tyWidth f.tyN) (intA c f l) j)
      (elemCode (tyWidth f.tyN) (intB c f l) j) = r) (hr : r < 2 ^ tyWidth f.tyN) :
    elemCode (tyWidth f.tyN) (shiftVal kind f c l) j = r := by
  subst h
  exact elemCode_packElems_of_lt hj hr

/-- A bit of a rotated word stands as many places higher as the count says. -/
theorem testBit_rotateLeft (x y : Nat) {k : Nat} (hk : k < 32) :
    ((BitVec.ofNat 32 x).rotateLeft ((BitVec.ofNat 32 y).toNat % 32)).toNat.testBit ((k + y % 2 ^ 32) % 32) =
      x.testBit k := by
  rw [BitVec.testBit_toNat, BitVec.getLsbD_rotateLeft, BitVec.toNat_ofNat, Nat.mod_mod, BitVec.getLsbD_ofNat,
    BitVec.getLsbD_ofNat]
  have hr : y % 2 ^ 32 % 32 < 32 := Nat.mod_lt _ (by omega)
  by_cases hw : (k + y % 2 ^ 32) % 32 < y % 2 ^ 32 % 32
  · have hi : 32 - y % 2 ^ 32 % 32 + (k + y % 2 ^ 32) % 32 = k := by omega
    simp only [hw, hi, hk, decide_true, cond_true, Bool.true_and]
  · have hi : (k + y % 2 ^ 32) % 32 - y % 2 ^ 32 % 32 = k := by omega
    have hlt : (k + y % 2 ^ 32) % 32 < 32 := Nat.mod_lt _ (by omega)
    simp only [hw, hi, hk, hlt, decide_true, decide_false, cond_false, Bool.true_and]

/-! ### Bit fields (R329) -/

theorem field_end_le (w : Nat) : fieldPos w + fieldLen w ≤ 32 := by
  unfold fieldLen fieldPos; omega

theorem testBit_fieldMask (w k : Nat) :
    (fieldMask w).testBit k = decide (fieldPos w ≤ k ∧ k < fieldPos w + fieldLen w) := by
  rw [fieldMask, Nat.testBit_mul_two_pow, Nat.testBit_two_pow_sub_one, ← Bool.decide_and, decide_eq_decide]
  omega

theorem fieldMask_lt (w : Nat) : fieldMask w < 2 ^ 32 := by
  refine Nat.lt_pow_two_of_testBit _ (fun k hk => ?_)
  have := field_end_le w
  rw [testBit_fieldMask, decide_eq_false_iff_not]
  omega

/-- A bit of a field that was moved down to bit 0. -/
theorem testBit_field (x w : Nat) (k : Nat) :
    (x / 2 ^ fieldPos w % 2 ^ fieldLen w).testBit k = (decide (k < fieldLen w) && x.testBit (fieldPos w + k)) := by
  rw [Nat.testBit_mod_two_pow, Nat.testBit_div_two_pow, Nat.add_comm]

theorem bxtVal_lt (f : AForm) (c : Iss) (l : Nat) : bxtVal f c l < 2 ^ 32 := by
  have hlen : fieldLen (intB c f l) ≤ 32 := by have := field_end_le (intB c f l); omega
  have hx : intA c f l / 2 ^ fieldPos (intB c f l) % 2 ^ fieldLen (intB c f l) < 2 ^ 32 :=
    lt_of_lt_of_le (Nat.mod_lt _ (Nat.two_pow_pos _)) (Nat.pow_le_pow_right (by omega) hlen)
  unfold bxtVal
  dsimp only
  split
  · exact Nat.two_pow_pos 32
  · split
    · exact wrapN_lt 32 _
    · exact hx

theorem testBit_bxtVal (f : AForm) (c : Iss) (l : Nat) {k : Nat} (hk : k < 32) :
    (bxtVal f c l).testBit k =
      if k < fieldLen (intB c f l) then (intA c f l).testBit (fieldPos (intB c f l) + k)
      else isSigned f.tyN && decide (0 < fieldLen (intB c f l)) &&
        (intA c f l).testBit (fieldPos (intB c f l) + fieldLen (intB c f l) - 1) := by
  unfold bxtVal
  dsimp only
  by_cases h0 : fieldLen (intB c f l) = 0
  · simp [h0]
  have hn : 0 < fieldLen (intB c f l) := Nat.pos_of_ne_zero h0
  rw [if_neg (by simpa using h0)]
  cases hs : isSigned f.tyN
  · simp only [Bool.false_eq_true, if_false, testBit_field, Bool.false_and]
    split <;> simp_all
  · rw [if_pos rfl, testBit_wrapN_sxt _ hn hk, testBit_field]
    by_cases hkn : k < fieldLen (intB c f l)
    · simp [hkn, Nat.min_eq_left (Nat.le_sub_one_of_lt hkn)]
    · simp [hkn, hn, Nat.min_eq_right (show fieldLen (intB c f l) - 1 ≤ k by omega), Nat.add_sub_assoc hn]

theorem testBit_binsVal (f : AForm) (c : Iss) (l : Nat) {k : Nat} (hk : k < 32) :
    (binsVal f c l).testBit k =
      if fieldPos (c.srcC f 1 l) ≤ k ∧ k < fieldPos (c.srcC f 1 l) + fieldLen (c.srcC f 1 l)
      then (intA c f l).testBit (k - fieldPos (c.srcC f 1 l)) else (intB c f l).testBit k := by
  unfold binsVal
  simp only [BitVec.testBit_toNat, BitVec.getLsbD_or, BitVec.getLsbD_and, BitVec.getLsbD_not, BitVec.getLsbD_ofNat, hk,
    testBit_fieldMask, Nat.testBit_mul_two_pow]
  by_cases h : fieldPos (c.srcC f 1 l) ≤ k ∧ k < fieldPos (c.srcC f 1 l) + fieldLen (c.srcC f 1 l)
  · simp [h]
  · simp only [h, decide_false, Bool.not_false, decide_true, Bool.and_true, Bool.true_and,
      Bool.and_false, Bool.or_false, if_false]

theorem sextVal_lt (f : AForm) (c : Iss) (l : Nat) (h : intA c f l < 2 ^ 32) : sextVal f c l < 2 ^ 32 := by
  unfold sextVal
  dsimp only
  split
  · exact h
  · exact wrapN_lt 32 _

theorem testBit_sextVal (f : AForm) (c : Iss) (l : Nat) {k : Nat} (hk : k < 32) :
    (sextVal f c l).testBit k = (intA c f l).testBit (min k (intB c f l)) := by
  unfold sextVal
  dsimp only
  split
  · rw [Nat.min_eq_left (by omega)]
  · rw [testBit_wrapN_sxt _ (Nat.add_one_pos _) hk, Nat.add_sub_cancel]

/-! ### Counts and byte shuffles (R330) -/

theorem bitCount_eq (v : Nat) : bitCount v = ((List.range 32).filter (fun k => v.testBit k)).length := by
  simp only [bitCount, bitAt_eq_testBit]

theorem leadingZeros_spec (v : Nat) : leadingZeros v ≤ 32 ∧ (∀ k, k < leadingZeros v → v.testBit (31 - k) = false) ∧
    (leadingZeros v < 32 → v.testBit (31 - leadingZeros v) = true) := by
  simpa [leadingZeros, bitAt_eq_testBit] using length_takeWhile_range (fun i => !bitAt v (31 - i)) 32

theorem trailingZeros_spec (v : Nat) : trailingZeros v ≤ 32 ∧ (∀ k, k < trailingZeros v → v.testBit k = false) ∧
    (trailingZeros v < 32 → v.testBit (trailingZeros v) = true) := by
  simpa [trailingZeros, bitAt_eq_testBit] using length_takeWhile_range (fun i => !bitAt v i) 32

/-- The low n bits of a number in reverse order. -/
def revBits (v : Nat) : Nat → Nat
  | 0 => 0
  | n + 1 => Nat.bit (v.testBit n) (revBits v n)

theorem revBits_lt (v n : Nat) : revBits v n < 2 ^ n := by
  induction n with
  | zero => simp [revBits]
  | succ n ih => exact Nat.bit_lt_two_pow_succ_iff.mpr ih

theorem testBit_revBits (v : Nat) {n k : Nat} (hk : k < n) : (revBits v n).testBit k = v.testBit (n - 1 - k) := by
  induction n generalizing k with
  | zero => omega
  | succ n ih =>
    cases k with
    | zero => simp [revBits]
    | succ k =>
      rw [revBits, Nat.testBit_bit_succ, ih (by omega)]
      congr 1
      omega

/-- The sum that reverses a word, after n of its terms. -/
theorem foldl_reverse (v : Nat) {n : Nat} (hn : n ≤ 32) :
    (List.range n).foldl (fun a i => a + (if bitAt v i then 2 ^ (31 - i) else 0)) 0 = 2 ^ (32 - n) * revBits v n := by
  induction n with
  | zero => rfl
  | succ n ih =>
    have hp : 2 ^ (32 - n) = 2 * 2 ^ (31 - n) := by rw [← Nat.pow_succ']; congr 1; omega
    rw [List.range_succ, List.foldl_append, ih (by omega), List.foldl_cons, List.foldl_nil, hp, bitAt_eq_testBit]
    cases hb : v.testBit n <;> simp [revBits, Nat.bit, hb] <;> ring

theorem bitReverse_eq_revBits (v : Nat) : bitReverse v = revBits v 32 := by
  rw [bitReverse, foldl_reverse v le_rfl]; simp

theorem bitReverse_lt (v : Nat) : bitReverse v < 2 ^ 32 := by
  rw [bitReverse_eq_revBits]; exact revBits_lt v 32

theorem testBit_bitReverse (v : Nat) {k : Nat} (hk : k < 32) : (bitReverse v).testBit k = v.testBit (31 - k) := by
  rw [bitReverse_eq_revBits, testBit_revBits v hk]

theorem testBit_seven_of_byte {m : Nat} (hm : m < 256) : m.testBit 7 = decide (128 ≤ m) := by
  rw [Nat.testBit_eq_decide_div_mod_eq, decide_eq_decide]
  omega

theorem shufByte_eq (a sel : Nat) : shufByte a sel =
    if sel / 4 % 4 = 0 then elemCode 8 a (sel % 4)
    else if sel / 4 % 4 = 1 then 0
    else if sel / 4 % 4 = 2 then (if (elemCode 8 a (sel % 4)).testBit 7 then 0xFF else 0) else 0xFF := by
  have h : (elemCode 8 a (sel % 4)).testBit 7 = true ↔ 128 ≤ elemCode 8 a (sel % 4) := by
    rw [testBit_seven_of_byte (elemCode_lt 8 a _), decide_eq_true_eq]
  simp only [h, shufByte, beq_iff_eq]
  rfl

theorem shufByte_lt (a sel : Nat) : shufByte a sel < 2 ^ 8 := by
  have h := elemCode_lt 8 a (sel % 4)
  rw [shufByte_eq]
  split
  · exact h
  · split
    · omega
    · split
      · split <;> omega
      · omega

theorem bshufVal_elem (f : AForm) (c : Iss) (l : Nat) {i : Nat} (hi : i < 4) :
    elemCode 8 (bshufVal f c l) i = shufByte (intA c f l) (elemCode 8 (intB c f l) i) :=
  elemCode_packElems_of_lt hi (shufByte_lt _ _)

/-! ### Comparison (R332), sums and dot products (R335) -/

/-- A comparison by the sign of the difference. -/
theorem relHolds_sub (cond : Nat) (a b : Int) : relHolds cond (a - b) =
    if cond = 0 then decide (a = b) else if cond = 1 then decide (a ≠ b) else if cond = 2 then decide (a < b)
    else if cond = 3 then decide (a ≤ b) else if cond = 4 then decide (b < a) else decide (b ≤ a) := by
  have heq : (a - b == 0) = decide (a = b) := by rw [Bool.eq_iff_iff]; simp [sub_eq_zero]
  have hlt : ∀ x y : Int, decide (x - y < 0) = decide (x < y) := fun x y => decide_eq_decide.mpr (by omega)
  simp only [relHolds, bne, heq, beq_iff_eq]
  simp

theorem natCast_sadVal (f : AForm) (c : Iss) (l : Nat) : (sadVal f c l : Int) =
    ((c.srcC f 1 l : Int) +
      ((List.range (tyCount f.tyN)).map (fun j => |intElemA c f l j - intElemB c f l j|)).sum) % 2 ^ 32 := by
  unfold sadVal
  dsimp only
  rw [foldl_add_eq_add_sum]
  push_cast
  simp [Function.comp_def, intElemA, intElemB]

theorem dotVal_eq (n w : Nat) (f : AForm) (c : Iss) (l : Nat) :
    let sb := if f.sub % 2 = 1 then !isSigned f.tyN else isSigned f.tyN
    let sg := isSigned f.tyN || sb
    dotVal n w f c l = fit 32 sg f.satBit (elemInt 32 sg (c.srcC f 1 l) 0 +
      ((List.range n).map (fun j => elemInt w (isSigned f.tyN) (intA c f l) j * elemInt w sb (intB c f l) j)).sum) := by
  simp only [dotVal, foldl_add_eq_add_sum, beq_iff_eq]

end Sys2Proof.Machine
end

section
/-! PROOFS. The statements of 14 about the integer instructions: each instruction completes with the values it computes
(`intExec_reg`, `aluExec_pred`, `aluExec_writes`), and a lemma above says what these are. -/

namespace Sys2Proof.Machine

/-- Settles O1: every elementwise instruction is `elemOp` of its exact function. -/
theorem integerElements : Obligations.IntegerElements := by
  unfold Obligations.IntegerElements
  refine fun f => ⟨?add, ?sub, ?add64, ?sub64, ?mul, ?mad, ?min, ?max, ?clamp, ?abs, ?neg⟩
  case min => exact elemOp_reg (fun _ => rfl) (fun a b _ => (min_def a b).symm)
  case max => exact elemOp_reg (fun _ => rfl) (fun a b _ => by rw [max_comm, max_def])
  case abs => exact elemOp_reg (fun _ => rfl) (fun a _ _ => Int.natCast_natAbs a)
  all_goals exact elemOp_reg (fun _ => rfl) (fun _ _ _ => rfl)

/-- Settles O2: the exact sum and difference split into a word and a carry, and products are exact before they are cut. -/
theorem wideArithmetic : Obligations.WideArithmetic := by
  unfold Obligations.WideArithmetic
  refine ⟨fun f => ⟨?addc, ?subb⟩, fun f => ⟨?mulhi, ?mulw, ?madw⟩⟩
  case addc =>
    refine ⟨fun c l => wrapN 32 (addcExact c f l), fun c l => Tri.ofBool (decide (2 ^ 32 ≤ addcExact c f l)), ?_,
      fun c l => ⟨wrapN_lt 32 _, ofBool_cases _, addc_carry⟩⟩
    exact noFlags 0x22 f ▸ aluExec_writes (fun _ => rfl)
  case subb =>
    refine ⟨fun c l => wrapN 32 (subbExact c f l), fun c l => Tri.ofBool (decide (subbExact c f l < 0)), ?_,
      fun c l => ⟨wrapN_lt 32 _, ofBool_cases _, subb_borrow⟩⟩
    exact noFlags 0x23 f ▸ aluExec_writes (fun _ => rfl)
  case mulhi => exact intExec_reg (val := mulhiVal f) (fun _ => rfl) (fun c l _ hj => mulhiVal_elem f c l hj)
  case mulw =>
    exact intExec_reg (val := fun c l => wrapN 64 (wideProduct f c l)) (fun _ => rfl) (fun _ _ => natCast_wrapN 64 _)
  case madw =>
    exact intExec_reg (val := fun c l => wrapN 64 (wideProduct f c l + (c.srcC f 2 l : Int))) (fun _ => rfl)
      (fun _ _ => natCast_wrapN 64 _)

/-- Settles O4: logic acts bit by bit, and a shift past the width agrees with the unbounded shift. -/
theorem logicAndShifts : Obligations.LogicAndShifts := by
  unfold Obligations.LogicAndShifts
  refine ⟨fun f => ⟨?and, ?or, ?xor, ?andn, ?not, ?bitf⟩, fun f => ⟨?shl, ?shr, ?sar, ?rot, ?dsh, ?shl64, ?shr64⟩⟩
  case and =>
    exact logicOp_reg (g := fun a b _ => a &&& b) (b := fun a b _ => a && b) (fun _ => rfl) (fun _ _ _ _ _ => by simp)
  case or =>
    exact logicOp_reg (g := fun a b _ => a ||| b) (b := fun a b _ => a || b) (fun _ => rfl) (fun _ _ _ _ _ => by simp)
  case xor =>
    exact logicOp_reg (g := fun a b _ => a ^^^ b) (b := fun a b _ => a ^^ b) (fun _ => rfl) (fun _ _ _ _ _ => by simp)
  case andn =>
    exact logicOp_reg (g := fun a b _ => a &&& ~~~b) (b := fun a b _ => a && !b) (fun _ => rfl)
      (fun _ _ _ _ hk => by simp [hk])
  case not =>
    exact logicOp_reg (g := fun a _ _ => ~~~a) (b := fun a _ _ => !a) (fun _ => rfl) (fun _ _ _ _ hk => by simp [hk])
  case bitf =>
    exact logicOp_reg (b := fun a b c => (f.ctl.toNat / (if c then 1 else 16)).testBit (2 * b.toNat + a.toNat))
      (g := fun a b c => (c &&& tableWord (f.ctl.toNat % 16) a b) ||| (~~~c &&& tableWord (f.ctl.toNat / 16) a b))
      (fun _ => rfl) (fun a b c _ hk => bitf_bit f.ctl.toNat a b c hk)
  case shl =>
    exact intExec_reg (val := shiftVal 0 f) (fun _ => rfl) (fun _ _ _ hj =>
      shiftVal_elem hj (shiftElem_left _ _ _) (Nat.mod_lt _ (Nat.two_pow_pos _)))
  case shr =>
    exact intExec_reg (val := shiftVal 1 f) (fun _ => rfl) (fun _ _ _ hj =>
      shiftVal_elem hj (shiftElem_right _ (elemCode_lt _ _ _)) (lt_of_le_of_lt (Nat.div_le_self _ _) (elemCode_lt _ _ _)))
  case sar =>
    exact intExec_reg (val := shiftVal 2 f) (fun _ => rfl) (fun _ _ _ hj =>
      shiftVal_elem hj (shiftElem_arith _ _ _) (wrapN_lt _ _))
  case rot =>
    exact intExec_reg (val := fun c l => ((BitVec.ofNat 32 (intA c f l)).rotateLeft
        ((BitVec.ofNat 32 (intB c f l)).toNat % 32)).toNat)
      (fun _ => rfl) (fun _ _ => ⟨BitVec.isLt _, fun _ hk => testBit_rotateLeft _ _ hk⟩)
  case dsh => exact intExec_reg (val := dshVal f) (fun _ => rfl) (fun c l => by simp only [dshVal, beq_iff_eq])
  case shl64 => exact intExec_reg (val := shift64Val 0 f) (fun _ => rfl) (fun _ _ _ => shiftElem_left 64 _ _)
  case shr64 =>
    refine intExec_reg (val := shift64Val (if isSigned f.tyN then 2 else 1) f) (fun _ => rfl) (fun c l ha => ?_)
    cases isSigned f.tyN
    · exact shiftElem_right _ ha
    · exact shiftElem_arith 64 _ _

/-- Settles O5: each result is given bit by bit, byte by byte, or by where its leading bits end. -/
theorem bitFieldsAndCounts : Obligations.BitFieldsAndCounts := by
  unfold Obligations.BitFieldsAndCounts
  refine ⟨fun f => ⟨?bxt, ?bins, ?bfset, ?sext⟩, fun f => ⟨?bcnt, ?clz, ?ctz, ?bitrev, ?bshuf⟩⟩
  case bxt =>
    exact intExec_reg (val := bxtVal f) (fun _ => rfl) (fun c l => ⟨bxtVal_lt f c l, fun _ hk => testBit_bxtVal f c l hk⟩)
  case bins =>
    exact intExec_reg (val := binsVal f) (fun _ => rfl) (fun c l => ⟨BitVec.isLt _, fun _ hk => testBit_binsVal f c l hk⟩)
  case bfset =>
    exact intExec_reg (val := fun c l => fieldMask (intA c f l)) (fun _ => rfl)
      (fun _ _ => ⟨fieldMask_lt _, fun k _ => testBit_fieldMask _ k⟩)
  case sext =>
    exact intExec_reg (val := sextVal f) (fun _ => rfl)
      (fun c l h => ⟨sextVal_lt f c l h, fun _ hk => testBit_sextVal f c l hk⟩)
  case bcnt => exact intExec_reg (val := fun c l => bitCount (intA c f l)) (fun _ => rfl) (fun _ _ => bitCount_eq _)
  case clz =>
    exact intExec_reg (val := fun c l => leadingZeros (intA c f l)) (fun _ => rfl) (fun _ _ => leadingZeros_spec _)
  case ctz =>
    exact intExec_reg (val := fun c l => trailingZeros (intA c f l)) (fun _ => rfl) (fun _ _ => trailingZeros_spec _)
  case bitrev =>
    exact intExec_reg (val := fun c l => bitReverse (intA c f l)) (fun _ => rfl)
      (fun _ _ => ⟨bitReverse_lt _, fun _ hk => testBit_bitReverse _ hk⟩)
  case bshuf =>
    refine intExec_reg (val := bshufVal f) (fun _ => rfl) (fun c l i hi => ?_)
    rw [bshufVal_elem f c l hi, shufByte_eq]
    dsimp only
    generalize elemCode 8 (intB c f l) i / 4 % 4 = mode
    match mode with
    | 0 => rfl
    | 1 => rfl
    | 2 => rfl
    | _ + 3 => rfl

/-- Settles O6: comparisons go by the sign of the difference, sums and products are exact before they are cut, and
`cvti` packs what each of its rows selects. -/
theorem integerSelectAndConvert : Obligations.IntegerSelectAndConvert := by
  unfold Obligations.IntegerSelectAndConvert
  refine ⟨fun f => ?_, fun f => ⟨?sad, ?dp2, ?dp4, ?dp8, ?cvti⟩⟩
  · intro rel
    have hrel : ∀ a b : Int, relHolds f.sub (a - b) = rel a b := by
      intro a b
      rw [relHolds_sub]
      dsimp only [rel]
      generalize f.sub = cond
      match cond with
      | 0 => rfl
      | 1 => rfl
      | 2 => rfl
      | 3 => rfl
      | 4 => rfl
      | _ + 5 => rfl
    have hcmp : ∀ c l, cmpVal f c l = if rel (intElemA c f l 0) (intElemB c f l 0) then .t else .f :=
      fun c l => congrArg Tri.ofBool (hrel _ _)
    refine ⟨?cmp, ?cmp64, ?sel, ?mov, ?mov64, ?lea⟩
    case cmp => exact aluExec_pred (val := cmpVal f) (fun _ => rfl) hcmp
    case cmp64 => exact aluExec_pred (val := cmpVal f) (fun _ => rfl) hcmp
    case sel =>
      refine intExec_reg (val := selVal f) (fun _ => rfl) (fun c l => ?_)
      unfold selVal
      generalize f.sub = rule
      cases c.h.pcode (predReg f.srca) l with
      | t => rfl
      | f => rfl
      | u =>
        match rule with
        | 0 => rfl
        | 1 => rfl
        | _ + 2 => rfl
    case mov =>
      exact intExec_reg (val := fun c l => if f.immForm then f.imm else c.srcA f 1 l) (fun _ => rfl) (fun _ _ => rfl)
    case mov64 =>
      refine intExec_reg (val := fun c l => if f.immForm then mov64Imm f else c.srcA f 2 l) (fun _ => rfl) (fun c l => ?_)
      cases f.immForm <;> simp [mov64Imm]
    case lea =>
      refine intExec_reg (val := leaVal f) (fun _ => rfl) (fun c l => ?_)
      rw [leaVal, natCast_wrapN]
      push_cast
      rfl
  case sad => exact intExec_reg (val := sadVal f) (fun _ => rfl) (natCast_sadVal f)
  case dp2 => exact intExec_reg (val := dotVal 2 16 f) (fun _ => rfl) (dotVal_eq 2 16 f)
  case dp4 => exact intExec_reg (val := dotVal 4 8 f) (fun _ => rfl) (dotVal_eq 4 8 f)
  case dp8 => exact intExec_reg (val := dotVal 8 4 f) (fun _ => rfl) (dotVal_eq 8 4 f)
  case cvti =>
    refine intExec_reg (val := cvtiVal f) (fun _ => rfl) (fun c l => ?_)
    unfold cvtiVal
    dsimp only
    cases cvtiRow (f.aux.toNat % 16) f.tyN with
    | whole => rfl
    | pack => exact fun j hj => elemCode_packElems_of_lt hj (fit_lt _ _ _ _)
    | select => exact fun j hj => elemCode_packElems_of_lt hj (fit_lt _ _ _ _)
    | same => exact fun j hj => elemCode_packElems_of_lt hj (fit_lt _ _ _ _)
    | bad => exact fun j hj => elemCode_packElems_of_lt hj (fit_lt _ _ _ _)

end Sys2Proof.Machine
end

section
/-! PROOFS. The statement of 15 R341 to R346: each instruction is a lane function (`laneExec_float`) whose elements are those
of its operation (`floatLane_elems`); what the sign instructions do is stated bit by bit (`floatLane_signFn`). -/

namespace Sys2Proof.Machine

/-! ### Sign bits (R342) -/

/-- The sign, the exponent and the fraction of a type's format fill its elements. -/
theorem fWidth_eq (t : Nat) : fWidth t = (fmtOf t).e + (fmtOf t).m + 1 := by
  unfold fWidth fmtOf
  by_cases h8 : t = 8
  · simp [h8, fmtF16]
  by_cases h9 : t = 9
  · simp [h9, fmtBf16]
  by_cases hA : t = 0xA
  · simp [hA, fmtF64]
  · simp [h8, h9, hA, fmtF32]

theorem signOf_eq_testBit (ft : Fmt) (a : Nat) : signOf ft a = a.testBit (ft.e + ft.m) :=
  bitAt_eq_testBit a (ft.e + ft.m)

/-- The new sign stands at the sign bit, and every bit below it is kept. -/
theorem testBit_setSign {ft : Fmt} {k : Nat} (a : Nat) (neg : Bool) (hk : k ≤ ft.e + ft.m) :
    (setSign ft a neg).testBit k = if k = ft.e + ft.m then neg else a.testBit k := by
  unfold setSign withSign Fmt.signBit
  by_cases he : k = ft.e + ft.m
  · subst he
    cases neg <;> simp [Nat.testBit_two_pow_add_eq, Nat.testBit_mod_two_pow]
  · have hlt : k < ft.e + ft.m := by omega
    cases neg <;> simp [he, hlt, Nat.testBit_two_pow_add_gt, Nat.testBit_mod_two_pow]

/-- A code's sign replaced by a function of the signs of A and B; the rest of A is kept and no flag is raised. -/
def signFn (g : Bool → Bool → Bool) : ElemFn := fun ft _ _ a b _ => (setSign ft a (g (signOf ft a) (signOf ft b)), flNone)

/-- R342: in every lane the last bit of each element is `g` of the last bits of A and B, every other bit is A's, and no flag
is raised. -/
def SignsAre (f : AForm) (g : Bool → Bool → Bool) (val : Iss → Nat → Nat × FpFlags) : Prop :=
  ∀ c l, (val c l).2 = 0 ∧ ∀ j, j < fCount f.tyN → ∀ k, k < fWidth f.tyN →
    let a := floatElem f (floatA c f l) j
    let b := floatElem f (floatB c f l) j
    (elemCode (fWidth f.tyN) (val c l).1 j).testBit k =
      if k + 1 = fWidth f.tyN then g (a.testBit k) (b.testBit k) else a.testBit k

theorem floatLane_signFn (f : AForm) (g : Bool → Bool → Bool) : SignsAre f g (floatLane (signFn g) f) := by
  intro c l
  obtain ⟨hcode, hflag⟩ := floatLane_elems f (signFn g) c l
  refine ⟨BitVec.eq_of_getLsbD_eq fun i _ => ?_, fun j hj k hk => ?_⟩
  · rw [hflag]
    simp [signFn, flNone]
  · have hw := fWidth_eq f.tyN
    rw [hcode j hj, Nat.testBit_mod_two_pow, decide_eq_true hk, Bool.true_and]
    dsimp only [signFn]
    rw [testBit_setSign _ _ (by omega), signOf_eq_testBit, signOf_eq_testBit]
    by_cases he : k = (fmtOf f.tyN).e + (fmtOf f.tyN).m
    · rw [if_pos he, if_pos (by omega), he]
    · rw [if_neg he, if_neg (by omega)]

/-! ### Elementwise instructions (R341, R345, R346) -/

/-- An instruction that passes every element through an operation completes with the results and flags of that operation. -/
theorem floatExec_elems {i : Instr} {op : Nat} {f : AForm} {g : ElemFn} (h : ∀ s, exec i s = floatExec op f g s) :
    WritesFloat i op f (tyRegs f.tyN) (FloatsAre f (fun c a b d => g (fmtOf f.tyN) f.mode c.ftz a b d)) :=
  laneExec_float h (floatLane_elems f g)

/-- The elements of `fscale`: B is one i32, or an i16 for each of two elements (R346). -/
theorem fscaleLane_elem (f : AForm) (c : Iss) (l : Nat) {j : Nat} (hj : j < fCount f.tyN) :
    elemCode (fWidth f.tyN) (fscaleLane f c l).1 j =
      (fScale (fmtOf f.tyN) f.mode (c.ftz && f.tyN != 0xA) (floatElem f (floatA c f l) j)
        (if fCount f.tyN = 2 then sxt 16 (c.srcB f 1 f.imm l / 2 ^ (16 * j)) else sxt 32 (c.srcB f 1 f.imm l))).1
        % 2 ^ fWidth f.tyN := by
  unfold fscaleLane
  simp only [packFlags_fst, elemCode_packElems _ _ _ _ hj, beq_iff_eq]
  rfl

/-- Settles O8: every instruction is elementwise, and a sign instruction changes the top bit of an element only. -/
theorem floatSelectAndSigns : Obligations.FloatSelectAndSigns := by
  unfold Obligations.FloatSelectAndSigns
  refine ⟨fun f => ⟨?fmin, ?fmax, ?fmin3, ?fmax3, ?dmin, ?dmax, ?frnd, ?fgetexp, ?fscale⟩, fun f => ⟨?fneg, ?fabs, ?fcpsgn⟩⟩
  case fmin => exact floatExec_elems (g := fun ft _ z a b _ => fMinMax ft false z [a, b]) (fun _ => rfl)
  case fmax => exact floatExec_elems (g := fun ft _ z a b _ => fMinMax ft true z [a, b]) (fun _ => rfl)
  case fmin3 => exact floatExec_elems (g := fun ft _ z a b d => fMinMax ft false z [a, b, d]) (fun _ => rfl)
  case fmax3 => exact floatExec_elems (g := fun ft _ z a b d => fMinMax ft true z [a, b, d]) (fun _ => rfl)
  case dmin => exact floatExec_elems (g := fun ft _ _ a b _ => fMinMax ft false false [a, b]) (fun _ => rfl)
  case dmax => exact floatExec_elems (g := fun ft _ _ a b _ => fMinMax ft true false [a, b]) (fun _ => rfl)
  case frnd => exact floatExec_elems (g := fun ft rm z a _ _ => fRnd ft rm (flushFor f.tyN z) a) (fun _ => rfl)
  case fgetexp => exact floatExec_elems (g := fun ft _ z a _ _ => fGetexp ft (flushFor f.tyN z) a) (fun _ => rfl)
  case fscale => exact laneExec_float (fun _ => rfl) (fun c l _ hj => fscaleLane_elem f c l hj)
  case fneg => exact laneExec_float (fun _ => rfl) (floatLane_signFn f (fun a _ => !a))
  case fabs => exact laneExec_float (fun _ => rfl) (floatLane_signFn f (fun _ _ => false))
  case fcpsgn => exact laneExec_float (fun _ => rfl) (floatLane_signFn f (fun _ b => b))

end Sys2Proof.Machine
end

section
/-! PROOFS. The statement of 16 about the predicate instructions (R372, R373): the Kleene operations ordered by the rank of
a code, what `pset` writes for each SUB, and what `pcnt` counts. -/

namespace Sys2Proof.Machine

/-! ### Kleene logic (R372) -/

/-- F, U, T in ascending order: `and` takes the lower of two codes, `or` the higher, and `not` turns the order around. -/
def Tri.rank : Tri → Nat
  | .f => 0
  | .u => 1
  | .t => 2

theorem Tri.rank_and (a b : Tri) : (a.and b).rank = min a.rank b.rank := by cases a <;> cases b <;> rfl

theorem Tri.rank_or (a b : Tri) : (a.or b).rank = max a.rank b.rank := by cases a <;> cases b <;> rfl

theorem Tri.rank_not (a : Tri) : a.not.rank = 2 - a.rank := by cases a <;> rfl

/-- One of the two holds and the other does not. -/
theorem Tri.xor_eq_or_and_not (a b : Tri) : a.xor b = (a.and b.not).or (a.not.and b) := by
  cases a <;> cases b <;> rfl

theorem Tri.rank_xor (a b : Tri) :
    (a.xor b).rank = max (min a.rank (2 - b.rank)) (min (2 - a.rank) b.rank) := by
  rw [Tri.xor_eq_or_and_not, Tri.rank_or, Tri.rank_and, Tri.rank_and, Tri.rank_not, Tri.rank_not]

/-! ### `pset`, `pmov` and `pcnt` (R373) -/

theorem ofBool_bne_zero (a : Nat) : Tri.ofBool (a != 0) = if a = 0 then .f else .t := by
  by_cases h : a = 0 <;> simp [Tri.ofBool, h]

theorem pmovWrites_of_isPred {f : AForm} (c : Iss) (ha : isPred f.srca = true) (hd : isPred f.dst = true) :
    pmovWrites f c = [.pred (predReg f.dst) (pA c f)] := by
  have hcode : pmovCode f c = pA c f := funext fun l => if_pos ha
  rw [pmovWrites, if_pos hd, hcode]

/-- The code that `pcnt` counts. -/
def pcntCode (f : AForm) : Tri := if f.sub = 0 then .t else if f.sub = 1 then .f else .u

theorem pcntVal_eq (f : AForm) (c : Iss) (l : Nat) : pcntVal f c l =
    ((List.range 96).filter (fun i => c.act.getLsbD i &&
      c.h.pcode (predReg f.srca) (physLane c.prot (sideOf c.prot l) i) == pcntCode f)).length := by
  simp only [pcntVal, pcntCode, activeVis, lanesOf, List.filter_filter, Bool.and_comm, beq_iff_eq]

theorem pcntVal_le (f : AForm) (c : Iss) (l : Nat) : pcntVal f c l ≤ 96 := by
  rw [pcntVal_eq]
  exact (List.length_filter_le _ _).trans_eq List.length_range

/-! ### The statement -/

/-- Settles O15: the Kleene operations are minimum, maximum and reversal of the rank of a code. -/
theorem predicates : Obligations.Predicates := by
  unfold Obligations.Predicates
  refine fun f => ⟨?pand, ?por, ?pxor, ?pnot, ?pset, ?pmov, ?pcnt⟩
  case pand => exact aluExec_pred (val := fun c l => (pA c f l).and (pB c f l)) (fun _ => rfl) (fun _ _ => Tri.rank_and _ _)
  case por => exact aluExec_pred (val := fun c l => (pA c f l).or (pB c f l)) (fun _ => rfl) (fun _ _ => Tri.rank_or _ _)
  case pxor => exact aluExec_pred (val := fun c l => (pA c f l).xor (pB c f l)) (fun _ => rfl) (fun _ _ => Tri.rank_xor _ _)
  case pnot => exact aluExec_pred (val := fun c l => (pA c f l).not) (fun _ => rfl) (fun _ _ => Tri.rank_not _)
  case pset =>
    refine aluExec_pred (val := psetVal f) (fun _ => rfl) (fun c l => ?_)
    unfold psetVal
    generalize f.sub = op
    match op with
    | 0 => exact ofBool_bne_zero _
    | 1 => rfl
    | 2 => rfl
    | 3 => rfl
    | _ + 4 =>
      dsimp only
      generalize c.srcA f 1 l % 4 = code
      match code with
      | 0 => rfl
      | 1 => rfl
      | _ + 2 => rfl
  case pmov => exact ⟨pmovWrites f, noFlags 0x9D f ▸ aluExec_writes (fun _ => rfl), fun c => pmovWrites_of_isPred c⟩
  case pcnt =>
    refine intExec_reg (val := pcntVal f) (fun _ => rfl) (fun c l => ⟨pcntVal_le f c l, fun hprot => ?_⟩)
    rw [pcntVal_eq, hprot]
    rfl

end Sys2Proof.Machine
end

section
/-! PROOFS. The statement that every step answers a settled next state: an instruction of a path that issues, and every event,
answers (`exec_answers_issuing`, `exec_answers_event`); a plan runs nothing else (`plan_sound`); and what is left of a step
settles the triggers that it raised. -/

namespace Sys2Proof.Machine

/-! ### Every instruction and event answers -/

/-- A meaning that asks for nothing but an issuing path answers a next state where there is one. -/
theorem answers_of_issuing {s : State} {o : Host.Outcome State Fault Refusal} (g : Iss → State)
    (h : s.issuing.isSome = true)
    (ho : (match s.issuing with | none => .fault .noIssuingPath | some c => .next (g c)) = o) : ∃ t, o = .next t := by
  obtain ⟨c, hc⟩ := Option.isSome_iff_exists.1 h
  rw [hc] at ho
  exact ⟨_, ho.symm⟩

theorem Hatch.markEmpty_path? (h : Hatch) (ds : List (BitVec 8 × Nat)) (on : Bool) (slot : Nat) :
    (h.markEmpty ds on).path? slot = h.path? slot := by
  unfold Hatch.markEmpty
  induction ds generalizing h with
  | nil => rfl
  | cons d r ih =>
    rw [List.foldl_cons, ih]
    split <;> rfl

theorem issuing_isSome_iff (s : State) : s.issuing.isSome = true ↔
    ∃ r h p, s.cur = some r ∧ s.hatch? r.hatch = some h ∧ h.path? r.slot = some p := by
  unfold State.issuing
  constructor
  · intro e
    split at e
    · cases e
    · split at e
      · cases e
      · split at e
        · cases e
        · exact ⟨_, _, _, ‹_›, ‹_›, ‹_›⟩
  · rintro ⟨r, h, p, hc, hh, hp⟩
    simp only [hc, hh, hp, Option.isSome_some]

/-- Marking registers of the issuing path's own hatch leaves the path issuing. -/
theorem issuing_markEmpty {s : State} {c : Iss} (h : s.issuing = some c) (ds : List (BitVec 8 × Nat)) (on : Bool) :
    (s.updHatch c.inst (fun h => h.markEmpty ds on)).issuing.isSome = true := by
  obtain ⟨r, k, p, hc, hk, hp⟩ := (issuing_isSome_iff s).1 (by rw [h]; rfl)
  have hi : c.inst = r.hatch := by
    have e : s.issuing = some ⟨k, p, r.slot, recOf s k, hatchKernel s k, p.mask⟩ := by
      unfold State.issuing
      simp only [hc, hk, hp]
    rw [h] at e
    cases e
    exact hatch?_inst hk
  rw [hi]
  refine (issuing_isSome_iff _).2 ⟨r, k.markEmpty ds on, p, hc, ?_, by rw [Hatch.markEmpty_path?, hp]⟩
  rw [hatch?_updHatch _ _ _ (fun h e => by rw [Hatch.markEmpty_inst, e]), hk]
  rfl

theorem ownOp_hatch {s : State} {c : Iss} {what : Instr} {o : Op} (h : ownOp s c what = some o) : o.hatch = c.inst := by
  have := List.find?_some h
  simp only [Bool.and_eq_true, beq_iff_eq] at this
  exact this.1.1.1

/-- An instruction that may find its own operation waiting answers: the path still issues when its destination is taken as full. -/
theorem issueOwnBy_answers {issue : (Iss → State → State) → State → Host.Outcome State Fault Refusal} {op : Nat} {f : MForm}
    {what : Instr} {eff : Iss → Option Op → State → State} {s : State}
    (hi : ∀ e s, s.issuing.isSome = true → ∃ t, issue e s = .next t) (h : s.issuing.isSome = true) :
    ∃ t, issueOwnBy issue op f what eff s = .next t := by
  unfold issueOwnBy
  split
  case h_1 => exact hi _ s h
  case h_2 o ho =>
    obtain ⟨c, hc⟩ := Option.isSome_iff_exists.1 h
    rw [hc, Option.bind_some] at ho
    rw [ownOp_hatch ho]
    exact hi _ _ (issuing_markEmpty hc _ _)

theorem issueM_answers (op : Nat) (f : MForm) (e : Iss → State → State) (s : State) (h : s.issuing.isSome = true) :
    ∃ t, issueM op f e s = .next t := answers_of_issuing _ h rfl

theorem issueMS_answers (op : Nat) (f : MForm) (e : Iss → State → State) (s : State) (h : s.issuing.isSome = true) :
    ∃ t, issueMS op f e s = .next t := issueM_answers op f _ s h

theorem issueOwn_answers {op : Nat} {f : MForm} {what : Instr} {eff : Iss → Option Op → State → State} {s : State}
    (h : s.issuing.isSome = true) : ∃ t, issueOwn op f what eff s = .next t :=
  issueOwnBy_answers (issueMS_answers op f) h

theorem atomMem_answers (op : Nat) (f : MForm) (what : Instr) {s : State} (h : s.issuing.isSome = true) :
    ∃ t, atomMem op f what s = .next t := by
  unfold atomMem
  exact issueOwn_answers h

theorem execWaddr_answers (f : MForm) {s : State} (h : s.issuing.isSome = true) : ∃ t, execWaddr f s = .next t := by
  unfold execWaddr
  exact issueOwnBy_answers (issueM_answers 0xB1 f) h

theorem execSema_answers (f : MForm) {s : State} (h : s.issuing.isSome = true) : ∃ t, execSema f s = .next t := by
  unfold execSema
  exact issueOwn_answers h

/-- Every instruction answers a next state where a path issues. The seven that may find their own operation waiting look at it
first; every other asks only for the path. -/
theorem exec_answers_issuing {i : Instr} {s : State} (h : s.issuing.isSome = true) (hi : i.form ≠ .event) :
    ∃ t, exec i s = .next t := by
  cases i
  case waddr f => exact execWaddr_answers f h
  case atom f => exact atomMem_answers 0xB3 f (.atom f) h
  case atomf f => exact atomMem_answers 0xB4 f (.atomf f) h
  case atomflush f => exact atomMem_answers 0xB6 f (.atomflush f) h
  case cas f => exact atomMem_answers 0xB9 f (.cas f) h
  case cas128 f => exact atomMem_answers 0xBA f (.cas128 f) h
  case sema f => exact execSema_answers f h
  all_goals first | exact absurd rfl hi | exact answers_of_issuing _ h rfl

/-- Every event answers a next state. -/
theorem exec_answers_event {i : Instr} {s : State} (hi : i.form = .event) : ∃ t, exec i s = .next t := by
  cases i
  case rdRequest =>
    show ∃ t, (if s.arg.untracked then _ else _) = _
    split <;> exact ⟨_, rfl⟩
  all_goals first | contradiction | exact ⟨_, rfl⟩

/-! ### What a step runs -/

/-- Where a plan runs an instruction a path issues; otherwise it runs an event. -/
def Plan.Sound : Plan → Prop
  | .done _ => True
  | .run i t => t.issuing.isSome = true ∨ i.form = .event

theorem serve_sound (s : State) (e : Event) : (serve s e).Sound := by
  unfold serve
  dsimp only
  split
  next h =>
    simp only [Bool.and_eq_true, beq_iff_eq] at h
    exact Or.inr h.1
  next => trivial

theorem deferredTrap_event {s : State} {h : Hatch} {i : Instr} (e : deferredTrap s h = some i) : i.form = .event := by
  unfold deferredTrap at e
  split at e
  · cases e
  · split at e
    · cases e; rfl
    · split at e
      · cases e; rfl
      · cases e

theorem tryIssue_sound (s : State) (h : Hatch) (slot : Nat) (p : Path) : (tryIssue s h slot p).Sound := by
  unfold tryIssue
  split
  next e he => exact Or.inr (deferredTrap_event he)
  next =>
    dsimp only
    split
    · trivial
    · split
      · trivial
      · trivial
      · trivial
      · split
        · trivial
        · split
          · trivial
          · split
            next hi => exact Or.inl hi
            next => trivial

theorem serveNet_sound (s : State) (k : Nat) : (serveNet s k).Sound := by
  unfold serveNet
  dsimp only
  split
  · exact serve_sound _ _
  · trivial

theorem planFree_sound (s : State) : (planFree s).Sound := by
  unfold planFree
  split
  · exact serve_sound _ _
  · split
    · exact serveNet_sound _ _
    · split
      · exact tryIssue_sound _ _ _ _
      · trivial

theorem plan_sound (s : State) : (plan s).Sound := by
  unfold plan
  split
  · exact planFree_sound s
  · dsimp only
    split
    · trivial
    · split
      · exact serve_sound _ _
      · trivial
    · exact serveNet_sound _ _
    · split
      · exact tryIssue_sound _ _ _ _
      · trivial

theorem exec_answers {i : Instr} {s : State} (h : (Plan.run i s).Sound) : ∃ t, exec i s = .next t := by
  by_cases hi : i.form = .event
  · exact exec_answers_event hi
  · exact exec_answers_issuing (h.resolve_right hi) hi

/-! ### What is left of a step -/

theorem settle_settled (s : State) : (settle s).Settled := by
  unfold settle
  split
  next h => exact h
  next => rfl

theorem finish_isSettled (s : State) : (finish s).Settled := settle_settled s

theorem settleLost_settled {s : State} (h : s.Settled) : (settleLost s).Settled := by
  unfold settleLost
  split
  · exact h
  · exact finish_isSettled _

theorem withdraw_sched (s t : State) : (withdraw s t).sched = t.sched := by
  unfold withdraw
  generalize s.ops.filter _ = os
  induction os generalizing t with
  | nil => rfl
  | cons o r ih => rw [List.foldl_cons, ih]; rfl

theorem withdraw_settled {t : State} (h : t.Settled) (s : State) : (withdraw s t).Settled := by
  unfold State.Settled
  rw [withdraw_sched]
  exact h

theorem closeRun_settled (s t u : State) (i : Instr) : (closeRun s t u i).Settled :=
  withdraw_settled (settleLost_settled (settle_settled _)) _

theorem closeDone_settled (s t : State) : (closeDone s t).Settled :=
  withdraw_settled (settleLost_settled (settle_settled _)) _

/-- Settles O28: every move that `step` plans ends settled, and closing it raises no trigger. -/
theorem everyStepAnswers : Obligations.EveryStepAnswers := by
  unfold Obligations.EveryStepAnswers
  intro s _
  have hp := plan_sound s
  unfold step
  split
  next t _ => exact ⟨_, rfl, closeDone_settled s t⟩
  next i t e =>
    rw [e] at hp
    obtain ⟨u, hu⟩ := exec_answers hp
    rw [hu]
    exact ⟨_, rfl, closeRun_settled s t u i⟩

end Sys2Proof.Machine
end

section
/-! PROOFS. The statement that decoding and encoding agree. A word is parsed by the bits below its instruction's length alone
(`SameLow`). The fields of a format's word are its fields (`AForm.ofWord_word` and its like), so parsing undoes `Form.word`
(`parseWord_word`); and words of one format with the same fields agree up to their length (`AForm.sameLow_of_ofWord` and its
like), so the word of what was parsed is the word that was parsed (`parseWord_sound`). -/

namespace Sys2Proof

open Machine

/-! ### Words that agree in their low bits -/

/-- The m low bits of two words agree. -/
def SameLow (m : Nat) (v w : BitVec 128) : Prop := ∀ k, k < m → v.getLsbD k = w.getLsbD k

theorem SameLow.symm {m : Nat} {v w : BitVec 128} (h : SameLow m v w) : SameLow m w v := fun k hk => (h k hk).symm

theorem SameLow.mono {m n : Nat} {v w : BitVec 128} (h : SameLow n v w) (hm : m ≤ n) : SameLow m v w :=
  fun k hk => h k (by omega)

theorem SameLow.extract {m : Nat} {v w : BitVec 128} (h : SameLow m v w) (p n : Nat) (hb : p + n ≤ m) :
    v.extractLsb' p n = w.extractLsb' p n := by
  refine BitVec.eq_of_getLsbD_eq (fun i hi => ?_)
  rw [BitVec.getLsbD_extractLsb', BitVec.getLsbD_extractLsb', h _ (by omega)]

/-- Agreement up to a field and in the field is agreement past it. -/
theorem SameLow.field {m n : Nat} {v w : BitVec 128} (h : SameLow m v w) (e : v.extractLsb' m n = w.extractLsb' m n) :
    SameLow (m + n) v w := by
  intro k hk
  by_cases hm : k < m
  · exact h k hm
  · have e' := congrArg (fun x => x.getLsbD (k - m)) e
    simpa [BitVec.getLsbD_extractLsb', show k - m < n by omega, show m + (k - m) = k by omega] using e'

theorem SameLow.bit {m : Nat} {v w : BitVec 128} (h : SameLow m v w) (e : v.getLsbD m = w.getLsbD m) :
    SameLow (m + 1) v w := by
  intro k hk
  obtain hm | rfl : k < m ∨ k = m := by omega
  · exact h k hm
  · exact e

theorem sameLow_of_extract {m : Nat} {v w : BitVec 128} (h : v.extractLsb' 0 m = w.extractLsb' 0 m) : SameLow m v w := by
  have := SameLow.field (m := 0) (fun k hk => absurd hk (Nat.not_lt_zero k)) h
  rwa [Nat.zero_add] at this

/-! ### The length bits, the opcode and the fields of a format's word -/

theorem bit1_beq_one (b : Bool) : (bit1 b == 1#1) = b := by cases b <;> rfl

theorem extract_two (w : BitVec 128) : w.extractLsb' 0 2 = w.extractLsb' 1 1 ++ w.extractLsb' 0 1 :=
  (BitVec.extractLsb'_append_extractLsb'_eq_extractLsb' (x := w) (start₁ := 0) (len₁ := 1) (len₂ := 1) rfl).symm

theorem AForm.word_head (op : Nat) (f : AForm) :
    (f.word op).extractLsb' 0 2 = (if f.len96 then 1#2 else 0#2) ∧ (f.word op).extractLsb' 2 8 = BitVec.ofNat 8 op := by
  rw [extract_two]
  unfold AForm.word
  simp (disch := omega) only [BitVec.extractLsb'_append_eq_of_le, BitVec.extractLsb'_append_eq_of_add_le,
    BitVec.extractLsb'_eq_self, Nat.reduceSub, Nat.sub_self, and_true]
  cases f.len96 <;> rfl

theorem BForm.word_head (op : Nat) (f : BForm) :
    (f.word op).extractLsb' 0 2 = (if f.len96 then 1#2 else 0#2) ∧ (f.word op).extractLsb' 2 8 = BitVec.ofNat 8 op := by
  rw [extract_two]
  unfold BForm.word
  simp (disch := omega) only [BitVec.extractLsb'_append_eq_of_le, BitVec.extractLsb'_append_eq_of_add_le,
    BitVec.extractLsb'_eq_self, Nat.reduceSub, Nat.sub_self, and_true]
  cases f.len96 <;> rfl

theorem MForm.word_head (op : Nat) (f : MForm) :
    (f.word op).extractLsb' 0 2 = 2#2 ∧ (f.word op).extractLsb' 2 8 = BitVec.ofNat 8 op := by
  rw [extract_two]
  unfold MForm.word
  simp (disch := omega) only [BitVec.extractLsb'_append_eq_of_le, BitVec.extractLsb'_append_eq_of_add_le,
    BitVec.extractLsb'_eq_self, Nat.reduceSub, Nat.sub_self, and_true]
  rfl

theorem AForm.ofWord_word (op : Nat) (f : AForm) (hc : f.canonical = true) : AForm.ofWord (f.word op) = f := by
  have he : (if f.len96 then f.ext else 0#32) = f.ext := by
    unfold AForm.canonical at hc
    split <;> simp_all
  unfold AForm.ofWord AForm.word
  simp (disch := omega) only [BitVec.getLsbD_eq_extractLsb', BitVec.extractLsb'_append_eq_of_le,
    BitVec.extractLsb'_append_eq_of_add_le, BitVec.extractLsb'_eq_self, Nat.reduceSub, bit1_beq_one, Nat.sub_self]
  rw [he]

theorem BForm.ofWord_word (op : Nat) (f : BForm) (hc : f.canonical = true) : BForm.ofWord (f.word op) = f := by
  have he : (if f.len96 then f.ext else 0#32) = f.ext := by
    unfold BForm.canonical at hc
    split <;> simp_all
  unfold BForm.ofWord BForm.word
  simp (disch := omega) only [BitVec.getLsbD_eq_extractLsb', BitVec.extractLsb'_append_eq_of_le,
    BitVec.extractLsb'_append_eq_of_add_le, BitVec.extractLsb'_eq_self, Nat.reduceSub, bit1_beq_one, Nat.sub_self]
  rw [he]

theorem MForm.ofWord_word (op : Nat) (f : MForm) : MForm.ofWord (f.word op) = f := by
  unfold MForm.ofWord MForm.word
  simp (disch := omega) only [BitVec.getLsbD_eq_extractLsb', BitVec.extractLsb'_append_eq_of_le,
    BitVec.extractLsb'_append_eq_of_add_le, BitVec.extractLsb'_eq_self, Nat.reduceSub, bit1_beq_one, Nat.sub_self]

theorem AForm.ofWord_canonical (w : BitVec 128) : (AForm.ofWord w).canonical = true := by
  unfold AForm.canonical AForm.ofWord
  cases h : w.getLsbD 0 <;> simp

theorem BForm.ofWord_canonical (w : BitVec 128) : (BForm.ofWord w).canonical = true := by
  unfold BForm.canonical BForm.ofWord
  cases h : w.getLsbD 0 <;> simp

/-! ### Words with the same fields agree, and words that agree have the same fields -/

/-- Words with the same length bits and opcode whose fields agree are the same up to their length. -/
theorem AForm.sameLow_of_ofWord {v w : BitVec 128} (h : SameLow 10 v w) (e : AForm.ofWord v = AForm.ofWord w) :
    SameLow (if w.getLsbD 0 then 96 else 64) v w := by
  simp only [AForm.ofWord, AForm.mk.injEq] at e
  obtain ⟨e0, hd, ha, hal, hat, hb, hbl, hbt, hg, hs, ht, hc, hr, hx, he⟩ := e
  have h64 : SameLow 64 v w :=
    ((((((((((((h.field hd).field ha).bit hal).bit hat).field hb).bit hbl).bit hbt).field hg).field hs).field ht).field hc).bit
      hr).field hx
  rw [e0] at he
  split
  next h0 =>
    rw [if_pos h0, if_pos h0] at he
    exact h64.field he
  next => exact h64

theorem BForm.sameLow_of_ofWord {v w : BitVec 128} (h : SameLow 10 v w) (e : BForm.ofWord v = BForm.ofWord w) :
    SameLow (if w.getLsbD 0 then 96 else 64) v w := by
  simp only [BForm.ofWord, BForm.mk.injEq] at e
  obtain ⟨e0, hd, ha, hal, hat, hb, hbl, hbt, hg, hs, ho, he⟩ := e
  have h64 : SameLow 64 v w :=
    (((((((((h.field hd).field ha).bit hal).bit hat).field hb).bit hbl).bit hbt).field hg).field hs).field ho
  rw [e0] at he
  split
  next h0 =>
    rw [if_pos h0, if_pos h0] at he
    exact h64.field he
  next => exact h64

theorem MForm.sameLow_of_ofWord {v w : BitVec 128} (h : SameLow 10 v w) (e : MForm.ofWord v = MForm.ofWord w) :
    SameLow 128 v w := by
  simp only [MForm.ofWord, MForm.mk.injEq] at e
  obtain ⟨hd, ha, hal, hat, hi, hil, hit, hg, hs, ht, hc, hdl, hx, hm, hsc, ho, hh, hn, hw, hp⟩ := e
  exact ((((((((((((((((((((h.field hd).field ha).bit hal).bit hat).field hi).bit hil).bit hit).field hg).field hs).field ht).field
    hc).bit hdl).field hx).field hm).field hsc).field ho).field hh).field hn).bit hw).field hp)

theorem AForm.ofWord_congr {v w : BitVec 128} (h : SameLow (if w.getLsbD 0 then 96 else 64) v w) :
    AForm.ofWord v = AForm.ofWord w := by
  have h64 : SameLow 64 v w := h.mono (by split <;> omega)
  have he : (if w.getLsbD 0 then v.extractLsb' 64 32 else 0#32) = if w.getLsbD 0 then w.extractLsb' 64 32 else 0#32 := by
    split
    next h0 => rw [if_pos h0] at h; exact h.extract 64 32 (by omega)
    next => rfl
  have hf : ∀ p n, p + n ≤ 64 → v.extractLsb' p n = w.extractLsb' p n := h64.extract
  unfold AForm.ofWord
  simp (disch := omega) only [h64 _ , hf, he]

theorem BForm.ofWord_congr {v w : BitVec 128} (h : SameLow (if w.getLsbD 0 then 96 else 64) v w) :
    BForm.ofWord v = BForm.ofWord w := by
  have h64 : SameLow 64 v w := h.mono (by split <;> omega)
  have he : (if w.getLsbD 0 then v.extractLsb' 64 32 else 0#32) = if w.getLsbD 0 then w.extractLsb' 64 32 else 0#32 := by
    split
    next h0 => rw [if_pos h0] at h; exact h.extract 64 32 (by omega)
    next => rfl
  have hf : ∀ p n, p + n ≤ 64 → v.extractLsb' p n = w.extractLsb' p n := h64.extract
  unfold BForm.ofWord
  simp (disch := omega) only [h64 _ , hf, he]

theorem eq_of_sameLow {v w : BitVec 128} (h : SameLow 128 v w) : v = w := BitVec.eq_of_getLsbD_eq h

/-! ### Parsing -/

theorem lenOfWord_code {w : BitVec 128} {len : InstrLen} : lenOfWord w = some len ↔ w.extractLsb' 0 2 = len.code := by
  unfold lenOfWord
  generalize w.extractLsb' 0 2 = c
  cases len <;> revert c <;> decide

theorem lenOfWord_congr {v w : BitVec 128} (h : SameLow 10 v w) : lenOfWord v = lenOfWord w := by
  unfold lenOfWord
  rw [h.extract 0 2 (by omega)]

/-- The length that an A or B form's own bit names. -/
def lenOf (len96 : Bool) : InstrLen := if len96 then .l96 else .l64

theorem lenOf_code (b : Bool) : (lenOf b).code = if b then 1#2 else 0#2 := by cases b <;> rfl

theorem lenOf_bytes (b : Bool) : (lenOf b).bytes = if b then 12 else 8 := by cases b <;> rfl

theorem lenOf_ne_l128 (b : Bool) : lenOf b ≠ .l128 := by cases b <;> decide

/-- The bit of an A or B word that names its length. -/
theorem getLsbD_zero_of_len {w : BitVec 128} {b : Bool} (h : lenOfWord w = some (lenOf b)) : w.getLsbD 0 = b := by
  have e := congrArg (fun x => x.getLsbD 0) (lenOfWord_code.1 h)
  rw [lenOf_code] at e
  simp only [BitVec.getLsbD_extractLsb', Nat.reduceLT, decide_true, Bool.true_and, Nat.zero_add] at e
  rw [e]
  cases b <;> rfl

theorem lenOf_getLsbD {w : BitVec 128} {len : InstrLen} (h : lenOfWord w = some len) (hl : len ≠ .l128) :
    len = lenOf (w.getLsbD 0) := by
  cases len with
  | l64 => rw [getLsbD_zero_of_len (b := false) h]; rfl
  | l96 => rw [getLsbD_zero_of_len (b := true) h]; rfl
  | l128 => exact absurd rfl hl

/-- What a format, an opcode and fields must satisfy to be what some word parses to (R272, R291). -/
def Form.Parses : Form → Prop
  | .event => False
  | .nop len u => nopCanonical len u = true
  | .a op f => op ≠ 0 ∧ op < 0x9F ∧ isBOpcode op = false ∧ f.canonical = true ∧ aLenOk op f = true
  | .b op f => op ≠ 0 ∧ op < 0x9F ∧ isBOpcode op = true ∧ f.canonical = true ∧ bLenOk op f = true
  | .m op _ => 0x9F ≤ op ∧ op < 0xE0

/-- The length of what parses. -/
def Form.len : Form → InstrLen
  | .event => .l64
  | .nop len _ => len
  | .a _ f => lenOf f.len96
  | .b _ f => lenOf f.len96
  | .m _ _ => .l128

theorem Form.len_bytes {x : Form} (h : x.Parses) : x.len.bytes = x.bytes := by
  cases x with
  | event => exact h.elim
  | nop len u => rfl
  | a op f => exact lenOf_bytes _
  | b op f => exact lenOf_bytes _
  | m op f => rfl

theorem Form.bytes_ge {x : Form} (h : x.Parses) : 8 ≤ x.bytes ∧ x.bytes ≤ 16 := by
  rw [← x.len_bytes h]
  cases x.len <;> decide

/-- The upper bits of a `nop` of a length. -/
def nopUpper (w : BitVec 128) : InstrLen → BitVec 118
  | .l64 => (w.extractLsb' 10 54).zeroExtend 118
  | .l96 => (w.extractLsb' 10 86).zeroExtend 118
  | .l128 => w.extractLsb' 10 118

theorem parseWord_eq {w : BitVec 128} {len : InstrLen} (h : lenOfWord w = some len) : parseWord w =
    (let op := (w.extractLsb' 2 8).toNat
    if 0xE0 ≤ op then .error .opcode
    else if op == 0 then .ok (.nop len (nopUpper w len))
    else if 0x9F ≤ op then (if len == .l128 then .ok (.m op (MForm.ofWord w)) else .error .length)
    else if len == .l128 then .error .length
    else if isBOpcode op then
      (if bLenOk op (BForm.ofWord w) then .ok (.b op (BForm.ofWord w)) else .error .length)
    else if aLenOk op (AForm.ofWord w) then .ok (.a op (AForm.ofWord w)) else .error .length) := by
  unfold parseWord
  rw [h]
  cases len <;> rfl

theorem nop_word (len : InstrLen) (u : BitVec 118) : let w := (Form.nop len u).word
    w.extractLsb' 0 2 = len.code ∧ w.extractLsb' 2 8 = 0#8 ∧ w.extractLsb' 10 118 = u := by
  dsimp only [Form.word]
  simp (disch := omega) only [BitVec.extractLsb'_append_eq_of_le, BitVec.extractLsb'_append_eq_of_add_le,
    BitVec.extractLsb'_eq_self, Nat.reduceSub, Nat.sub_self, and_self]

/-- The opcode of what parses. -/
def Form.op : Form → Nat
  | .a op _ => op
  | .b op _ => op
  | .m op _ => op
  | _ => 0

/-- A format's word begins with its length bits and its opcode. -/
theorem Form.word_head {x : Form} (h : x.Parses) :
    x.word.extractLsb' 0 2 = x.len.code ∧ (x.word.extractLsb' 2 8).toNat = x.op := by
  cases x with
  | event => exact h.elim
  | nop len u =>
    obtain ⟨h0, h2, _⟩ := nop_word len u
    rw [h2]
    exact ⟨h0, rfl⟩
  | a op f =>
    obtain ⟨h0, h2⟩ := f.word_head op
    refine ⟨h0.trans (lenOf_code _).symm, ?_⟩
    show ((f.word op).extractLsb' 2 8).toNat = op
    rw [h2, BitVec.toNat_ofNat, Nat.mod_eq_of_lt (by have := h.2.1; omega)]
  | b op f =>
    obtain ⟨h0, h2⟩ := f.word_head op
    refine ⟨h0.trans (lenOf_code _).symm, ?_⟩
    show ((f.word op).extractLsb' 2 8).toNat = op
    rw [h2, BitVec.toNat_ofNat, Nat.mod_eq_of_lt (by have := h.2.1; omega)]
  | m op f =>
    obtain ⟨h0, h2⟩ := f.word_head op
    refine ⟨h0, ?_⟩
    show ((f.word op).extractLsb' 2 8).toNat = op
    rw [h2, BitVec.toNat_ofNat, Nat.mod_eq_of_lt (by have := h.2; omega)]

theorem nop_word_getLsbD (len : InstrLen) (u : BitVec 118) {k : Nat} (hk : k < 118) :
    (Form.nop len u).word.getLsbD (10 + k) = u.getLsbD k := by
  have e := congrArg (fun x => x.getLsbD k) (nop_word len u).2.2
  simpa [BitVec.getLsbD_extractLsb', hk] using e

/-- The upper bits of a `nop` are those of its word below its length, and 0 above it. -/
theorem nopUpper_getLsbD (w : BitVec 128) (len : InstrLen) {k : Nat} (hk : k < 118) :
    (nopUpper w len).getLsbD k = (decide (10 + k < 8 * len.bytes) && w.getLsbD (10 + k)) := by
  cases len with
  | l64 => simp [nopUpper, hk, show 10 + k < 8 * InstrLen.l64.bytes ↔ k < 54 by simp only [InstrLen.bytes]; omega]
  | l96 => simp [nopUpper, hk, show 10 + k < 8 * InstrLen.l96.bytes ↔ k < 86 by simp only [InstrLen.bytes]; omega]
  | l128 => simp [nopUpper, hk, show 10 + k < 8 * InstrLen.l128.bytes by simp only [InstrLen.bytes]; omega]

theorem nopCanonical_iff (len : InstrLen) (u : BitVec 118) :
    nopCanonical len u = true ↔ ∀ k, k < 118 → 8 * len.bytes ≤ 10 + k → u.getLsbD k = false := by
  have key : ∀ n, n ≤ 118 → (u.toNat < 2 ^ n ↔ ∀ k, k < 118 → n ≤ k → u.getLsbD k = false) := by
    intro n hn
    constructor
    · intro h k _ hk
      exact Nat.testBit_lt_two_pow (lt_of_lt_of_le h (Nat.pow_le_pow_right (by omega) hk))
    · intro h
      refine Nat.lt_pow_two_of_testBit _ (fun k hk => ?_)
      by_cases hk' : k < 118
      · exact h k hk' hk
      · exact BitVec.getLsbD_of_ge u k (by omega)
  cases len with
  | l64 =>
    rw [nopCanonical, decide_eq_true_eq, key 54 (by omega)]
    simp only [InstrLen.bytes, show ∀ k, 8 * 8 ≤ 10 + k ↔ 54 ≤ k by omega]
  | l96 =>
    rw [nopCanonical, decide_eq_true_eq, key 86 (by omega)]
    simp only [InstrLen.bytes, show ∀ k, 8 * 12 ≤ 10 + k ↔ 86 ≤ k by omega]
  | l128 =>
    simp only [nopCanonical, InstrLen.bytes, true_iff]
    omega

theorem nopUpper_of_sameLow {len : InstrLen} {u : BitVec 118} {v : BitVec 128} (hc : nopCanonical len u = true)
    (h : SameLow (8 * len.bytes) v (Form.nop len u).word) : nopUpper v len = u := by
  refine BitVec.eq_of_getLsbD_eq (fun k hk => ?_)
  rw [nopUpper_getLsbD v len hk]
  by_cases hb : 10 + k < 8 * len.bytes
  · rw [h _ hb, nop_word_getLsbD len u hk]
    simp [hb]
  · rw [(nopCanonical_iff len u).1 hc k hk (by omega)]
    simp [hb]

theorem nopUpper_canonical (w : BitVec 128) (len : InstrLen) : nopCanonical len (nopUpper w len) = true := by
  refine (nopCanonical_iff len _).2 (fun k hk hb => ?_)
  rw [nopUpper_getLsbD w len hk]
  simp [show ¬ 10 + k < 8 * len.bytes by omega]

/-- Parsing undoes `Form.word`, whatever stands above the instruction's length. -/
theorem parseWord_word {x : Form} {v : BitVec 128} (hp : x.Parses) (h : SameLow (8 * x.bytes) v x.word) :
    parseWord v = .ok x := by
  obtain ⟨hcode, hop⟩ := x.word_head hp
  have h8 := (x.bytes_ge hp).1
  have h10 : SameLow 10 v x.word := h.mono (by omega)
  have hl : lenOfWord v = some x.len := lenOfWord_code.2 ((h10.extract 0 2 (by omega)).trans hcode)
  rw [parseWord_eq hl, h10.extract 2 8 (by omega), hop]
  cases x with
  | event => exact hp.elim
  | nop len u =>
    dsimp only [Form.op]
    rw [if_neg (by omega), if_pos (by decide)]
    exact congrArg (fun y => Except.ok (Form.nop len y)) (nopUpper_of_sameLow hp h)
  | a op f =>
    obtain ⟨h0, h9, hb, hc, ha⟩ := hp
    have h0' : (f.word op).getLsbD 0 = f.len96 := getLsbD_zero_of_len (lenOfWord_code.2 hcode)
    have hf : AForm.ofWord v = f := by
      rw [AForm.ofWord_congr (w := f.word op), f.ofWord_word op hc]
      rw [h0']
      refine h.mono ?_
      simp only [Form.bytes]
      split <;> omega
    dsimp only [Form.op]
    rw [if_neg (by omega), if_neg (by simpa using h0), if_neg (by omega), if_neg (by simpa [Form.len] using lenOf_ne_l128 _),
      if_neg (by simpa using hb), hf, if_pos ha]
  | b op f =>
    obtain ⟨h0, h9, hb, hc, ha⟩ := hp
    have h0' : (f.word op).getLsbD 0 = f.len96 := getLsbD_zero_of_len (lenOfWord_code.2 hcode)
    have hf : BForm.ofWord v = f := by
      rw [BForm.ofWord_congr (w := f.word op), f.ofWord_word op hc]
      rw [h0']
      refine h.mono ?_
      simp only [Form.bytes]
      split <;> omega
    dsimp only [Form.op]
    rw [if_neg (by omega), if_neg (by simpa using h0), if_neg (by omega), if_neg (by simpa [Form.len] using lenOf_ne_l128 _),
      if_pos hb, hf, if_pos ha]
  | m op f =>
    obtain ⟨h9, he⟩ := hp
    have hf : MForm.ofWord v = f := by
      rw [eq_of_sameLow h]
      exact f.ofWord_word op
    dsimp only [Form.op]
    rw [if_neg (by omega), if_neg (by simp only [beq_iff_eq]; omega), if_pos h9, if_pos (show ((Form.m op f).len == .l128) = true from rfl), hf]

/-- A format's word heads like a word with its length and opcode. -/
theorem Form.sameHead {x : Form} {w : BitVec 128} (h : x.Parses) (hl : lenOfWord w = some x.len)
    (ho : (w.extractLsb' 2 8).toNat = x.op) : SameLow 10 w x.word := by
  obtain ⟨hcode, hop⟩ := x.word_head h
  have h2 : SameLow 2 w x.word := sameLow_of_extract ((lenOfWord_code.1 hl).trans hcode.symm)
  exact h2.field (BitVec.eq_of_toNat_eq (ho.trans hop.symm))

theorem AForm.sameLow_word {w : BitVec 128} {op : Nat} (hp : (Form.a op (AForm.ofWord w)).Parses)
    (hl : lenOfWord w = some (lenOf (w.getLsbD 0))) (ho : (w.extractLsb' 2 8).toNat = op) :
    SameLow (8 * (Form.a op (AForm.ofWord w)).bytes) w (Form.a op (AForm.ofWord w)).word := by
  have h := AForm.sameLow_of_ofWord (Form.sameHead hp hl ho).symm (AForm.ofWord_word op _ (AForm.ofWord_canonical w))
  refine (h.mono (le_of_eq ?_)).symm
  show 8 * (if w.getLsbD 0 then 12 else 8) = _
  split <;> rfl

theorem BForm.sameLow_word {w : BitVec 128} {op : Nat} (hp : (Form.b op (BForm.ofWord w)).Parses)
    (hl : lenOfWord w = some (lenOf (w.getLsbD 0))) (ho : (w.extractLsb' 2 8).toNat = op) :
    SameLow (8 * (Form.b op (BForm.ofWord w)).bytes) w (Form.b op (BForm.ofWord w)).word := by
  have h := BForm.sameLow_of_ofWord (Form.sameHead hp hl ho).symm (BForm.ofWord_word op _ (BForm.ofWord_canonical w))
  refine (h.mono (le_of_eq ?_)).symm
  show 8 * (if w.getLsbD 0 then 12 else 8) = _
  split <;> rfl

/-- What a word parses to has that word's length, and its own word is that word up to its length. -/
theorem parseWord_sound {w : BitVec 128} {x : Form} (h : parseWord w = .ok x) :
    x.Parses ∧ lenOfWord w = some x.len ∧ SameLow (8 * x.bytes) w x.word := by
  cases hl : lenOfWord w with
  | none => unfold parseWord at h; rw [hl] at h; cases h
  | some len =>
    rw [parseWord_eq hl] at h
    dsimp only at h
    split at h
    · cases h
    next hE =>
    split at h
    next h0 =>
      cases h
      have hp : (Form.nop len (nopUpper w len)).Parses := nopUpper_canonical w len
      have h10 := Form.sameHead hp hl (beq_iff_eq.1 h0)
      refine ⟨hp, rfl, fun k hk => ?_⟩
      by_cases h10k : k < 10
      · exact h10 k h10k
      · have hb : 10 + (k - 10) < 8 * len.bytes := by
          simp only [Form.bytes] at hk
          omega
        have hk' : k - 10 < 118 := by cases len <;> simp only [InstrLen.bytes] at hb <;> omega
        have e := nop_word_getLsbD len (nopUpper w len) hk'
        rw [nopUpper_getLsbD w len hk', decide_eq_true hb, Bool.true_and, show 10 + (k - 10) = k by omega] at e
        exact e.symm
    next h0 =>
    split at h
    next h9 =>
      split at h
      next hm =>
        cases h
        obtain rfl : len = .l128 := by simpa using hm
        have hp : (Form.m (w.extractLsb' 2 8).toNat (MForm.ofWord w)).Parses := ⟨h9, by omega⟩
        exact ⟨hp, rfl, (MForm.sameLow_of_ofWord (Form.sameHead hp hl rfl).symm (MForm.ofWord_word _ _)).symm⟩
      · cases h
    next h9 =>
    split at h
    · cases h
    next hm =>
    have hl' := hl
    rw [lenOf_getLsbD hl (by simpa using hm)] at hl'
    split at h
    next hb =>
      split at h
      next ha =>
        cases h
        have hp : (Form.b (w.extractLsb' 2 8).toNat (BForm.ofWord w)).Parses :=
          ⟨by simpa using h0, by omega, hb, BForm.ofWord_canonical w, ha⟩
        exact ⟨hp, hl.symm.trans hl', BForm.sameLow_word hp hl' rfl⟩
      · cases h
    next hb =>
      split at h
      next ha =>
        cases h
        have hp : (Form.a (w.extractLsb' 2 8).toNat (AForm.ofWord w)).Parses :=
          ⟨by simpa using h0, by omega, by simpa using hb, AForm.ofWord_canonical w, ha⟩
        exact ⟨hp, hl.symm.trans hl', AForm.sameLow_word hp hl' rfl⟩
      · cases h

/-! ### Bytes -/

theorem SameLow.shift {m : Nat} {v w : BitVec 128} (h : SameLow (8 + m) v w) : SameLow m (v >>> 8) (w >>> 8) := by
  intro k hk
  rw [BitVec.getLsbD_ushiftRight, BitVec.getLsbD_ushiftRight, h _ (by omega)]

theorem length_wordBytes (w : BitVec 128) (n : Nat) : (wordBytes w n).length = n := by
  induction n generalizing w with
  | zero => rfl
  | succ n ih => rw [wordBytes, List.length_cons, ih]

/-- The first n bytes of a word are those of its 8 n low bits. -/
theorem wordBytes_congr {n : Nat} {v w : BitVec 128} (h : SameLow (8 * n) v w) : wordBytes v n = wordBytes w n := by
  induction n generalizing v w with
  | zero => rfl
  | succ n ih =>
    have h' : SameLow (8 + 8 * n) v w := h.mono (by omega)
    rw [wordBytes, wordBytes, h'.extract 0 8 (by omega), ih h'.shift]

theorem bytesWord_cons_getLsbD (b : Byte) (bs : List Byte) {k : Nat} (hk : k < 128) :
    (bytesWord (b :: bs)).getLsbD k = if k < 8 then b.getLsbD k else (bytesWord bs).getLsbD (k - 8) := by
  simp only [bytesWord, BitVec.getLsbD_or, BitVec.truncate_eq_setWidth, BitVec.getLsbD_setWidth, BitVec.getLsbD_shiftLeft, hk,
    decide_true, Bool.true_and]
  by_cases h8 : k < 8
  · simp [h8]
  · simp [h8, BitVec.getLsbD_of_ge b k (by omega)]

/-- The word of a word's first bytes, whatever follows them, is that word up to them. -/
theorem sameLow_bytesWord (n : Nat) (hn : n ≤ 16) (w : BitVec 128) (bs : List Byte) :
    SameLow (8 * n) (bytesWord (wordBytes w n ++ bs)) w := by
  induction n generalizing w with
  | zero => exact fun k hk => absurd hk (by omega)
  | succ n ih =>
    intro k hk
    rw [wordBytes, List.cons_append, bytesWord_cons_getLsbD _ _ (by omega)]
    split
    next h8 => simp [h8]
    next h8 =>
      rw [ih (by omega) (w >>> 8) (k - 8) (by omega), BitVec.getLsbD_ushiftRight, show 8 + (k - 8) = k by omega]

/-- The bytes of the word of a list of bytes. -/
theorem wordBytes_bytesWord (bs r : List Byte) (h : bs.length ≤ 16) : wordBytes (bytesWord (bs ++ r)) bs.length = bs := by
  induction bs with
  | nil => rfl
  | cons b bs ih =>
    rw [List.length_cons] at h ⊢
    have hlow : ∀ k, k < 128 → (bytesWord (b :: bs ++ r)).getLsbD k =
        if k < 8 then b.getLsbD k else (bytesWord (bs ++ r)).getLsbD (k - 8) := fun k hk => bytesWord_cons_getLsbD b (bs ++ r) hk
    have hb : (bytesWord (b :: bs ++ r)).extractLsb' 0 8 = b := by
      refine BitVec.eq_of_getLsbD_eq (fun i hi => ?_)
      rw [BitVec.getLsbD_extractLsb', decide_eq_true hi, Bool.true_and, Nat.zero_add, hlow i (by omega), if_pos hi]
    have hs : SameLow (8 * bs.length) (bytesWord (b :: bs ++ r) >>> 8) (bytesWord (bs ++ r)) := by
      intro k hk
      rw [BitVec.getLsbD_ushiftRight, hlow _ (by omega), if_neg (by omega), Nat.add_sub_cancel_left]
    rw [wordBytes, hb, wordBytes_congr hs, ih (by omega)]

/-! ### Instructions and their formats -/

/-- An instruction is the one that its format stands for (R290): `Laws.FormInstr`, for every constructor. -/
theorem form_instr {i : Instr} (hs : i.subOk = true) (he : i.form ≠ .event) : i.form.instr = some i := by
  cases i
  case rett f => exact Laws.FormInstr.rett f hs he
  case rettRetry f => exact Laws.FormInstr.rettRetry f hs he
  all_goals first | rfl | exact absurd rfl he

theorem opLookup_mem {α : Type} {op : Nat} {xs : List (Nat × α)} {x : α} (h : opLookup op xs = some x) : (op, x) ∈ xs := by
  induction xs with
  | nil => cases h
  | cons y r ih =>
    obtain ⟨o, z⟩ := y
    rw [opLookup] at h
    split at h
    next e =>
      cases h
      rw [beq_iff_eq] at e
      exact e ▸ List.mem_cons_self
    next => exact List.mem_cons_of_mem _ (ih h)

/-- The opcodes of each format (R290, R291). -/
def Form.InRange : Form → Prop
  | .a op _ => op ≠ 0 ∧ op < 0x9F ∧ isBOpcode op = false
  | .b op _ => op ≠ 0 ∧ op < 0x9F ∧ isBOpcode op = true
  | .m op _ => 0x9F ≤ op ∧ op < 0xE0
  | _ => True

theorem a_inRange {op : Nat} (f : AForm) (h : op ≠ 0 ∧ op < 0x9F ∧ isBOpcode op = false) : (Form.a op f).InRange := h

theorem b_inRange {op : Nat} (f : BForm) (h : op ≠ 0 ∧ op < 0x9F ∧ isBOpcode op = true) : (Form.b op f).InRange := h

theorem m_inRange {op : Nat} (f : MForm) (h : 0x9F ≤ op ∧ op < 0xE0) : (Form.m op f).InRange := h

/-- An instruction has a format that is in range, and its SUB is right (R310). -/
def Instr.Has (i : Instr) (x : Form) : Prop := i.form = x ∧ i.subOk = true ∧ x.InRange

/-- What an opcode map of the A format should name; SUB tells instructions of opcode 0x14 apart. -/
def AForm.Names (f : AForm) (xs : List (Nat × (AForm → Instr))) : Prop :=
  ∀ x ∈ xs, ¬ (x.1 = 0x14 ∧ f.sub = 1) → (x.2 f).Has (.a x.1 f)

theorem AForm.names_nil (f : AForm) : f.Names [] := fun _ h => absurd h List.not_mem_nil

theorem AForm.names_cons {f : AForm} {op : Nat} {c : AForm → Instr} {r : List (Nat × (AForm → Instr))}
    (h : ¬ (op = 0x14 ∧ f.sub = 1) → (c f).Has (.a op f)) (hr : f.Names r) : f.Names ((op, c) :: r) :=
  List.forall_mem_cons.2 ⟨h, hr⟩

theorem rett_has {f : AForm} (h : ¬ (0x14 = 0x14 ∧ f.sub = 1)) : (Instr.rett f).Has (.a 0x14 f) :=
  ⟨rfl, by simpa [Instr.subOk] using h, a_inRange _ (by decide)⟩

theorem names_aOpcodes0 (f : AForm) : f.Names aOpcodes0 := by
  unfold aOpcodes0
  repeat first
    | exact f.names_nil
    | refine AForm.names_cons (fun _ => ⟨rfl, rfl, a_inRange _ (by decide)⟩) ?_
    | refine AForm.names_cons rett_has ?_

theorem names_aOpcodes1 (f : AForm) : f.Names aOpcodes1 := by
  unfold aOpcodes1
  repeat first | exact f.names_nil | refine AForm.names_cons (fun _ => ⟨rfl, rfl, a_inRange _ (by decide)⟩) ?_

theorem names_aOpcodes2 (f : AForm) : f.Names aOpcodes2 := by
  unfold aOpcodes2
  repeat first | exact f.names_nil | refine AForm.names_cons (fun _ => ⟨rfl, rfl, a_inRange _ (by decide)⟩) ?_

theorem names_aOpcodes3 (f : AForm) : f.Names aOpcodes3 := by
  unfold aOpcodes3
  repeat first | exact f.names_nil | refine AForm.names_cons (fun _ => ⟨rfl, rfl, a_inRange _ (by decide)⟩) ?_

theorem names_aOpcodes4 (f : AForm) : f.Names aOpcodes4 := by
  unfold aOpcodes4
  repeat first | exact f.names_nil | refine AForm.names_cons (fun _ => ⟨rfl, rfl, a_inRange _ (by decide)⟩) ?_

theorem names_append {f : AForm} {xs ys : List (Nat × (AForm → Instr))} (h : f.Names xs) (g : f.Names ys) : f.Names (xs ++ ys) :=
  fun x hx => (List.mem_append.1 hx).elim (h x) (g x)

/-- What the opcode map of the A format names has that format, opcode and fields. -/
theorem names_aOpcodes (f : AForm) : f.Names aOpcodes :=
  names_append (names_append (names_append (names_append (names_aOpcodes0 f) (names_aOpcodes1 f)) (names_aOpcodes2 f))
    (names_aOpcodes3 f)) (names_aOpcodes4 f)

theorem bOpcodes_has (f : BForm) : ∀ x ∈ bOpcodes, (x.2 f).Has (.b x.1 f) := by
  unfold bOpcodes bOpcodes0
  repeat first
    | exact fun _ h => absurd h List.not_mem_nil
    | refine List.forall_mem_cons.2 ⟨⟨rfl, rfl, b_inRange _ (by decide)⟩, ?_⟩

theorem mOpcodes0_has (f : MForm) : ∀ x ∈ mOpcodes0, (x.2 f).Has (.m x.1 f) := by
  unfold mOpcodes0
  repeat first
    | exact fun _ h => absurd h List.not_mem_nil
    | refine List.forall_mem_cons.2 ⟨⟨rfl, rfl, m_inRange _ (by decide)⟩, ?_⟩

theorem mOpcodes1_has (f : MForm) : ∀ x ∈ mOpcodes1, (x.2 f).Has (.m x.1 f) := by
  unfold mOpcodes1
  repeat first
    | exact fun _ h => absurd h List.not_mem_nil
    | refine List.forall_mem_cons.2 ⟨⟨rfl, rfl, m_inRange _ (by decide)⟩, ?_⟩

theorem mOpcodes2_has (f : MForm) : ∀ x ∈ mOpcodes2, (x.2 f).Has (.m x.1 f) := by
  unfold mOpcodes2
  repeat first
    | exact fun _ h => absurd h List.not_mem_nil
    | refine List.forall_mem_cons.2 ⟨⟨rfl, rfl, m_inRange _ (by decide)⟩, ?_⟩

theorem mOpcodes_has (f : MForm) (x : Nat × (MForm → Instr)) (hx : x ∈ mOpcodes) : (x.2 f).Has (.m x.1 f) := by
  simp only [mOpcodes, List.mem_append] at hx
  obtain (h | h) | h := hx
  · exact mOpcodes0_has f x h
  · exact mOpcodes1_has f x h
  · exact mOpcodes2_has f x h

/-- The format that stands for an instruction is its own. -/
theorem has_of_instr {x : Form} {i : Instr} (h : x.instr = some i) : i.Has x := by
  cases x with
  | event => cases h
  | nop len u => cases h; exact ⟨rfl, rfl, trivial⟩
  | a op f =>
    simp only [Form.instr] at h
    split at h
    next e =>
      cases h
      simp only [Bool.and_eq_true, beq_iff_eq] at e
      obtain ⟨rfl, hs⟩ := e
      exact ⟨rfl, by simp [Instr.subOk, hs], a_inRange _ (by decide)⟩
    next e =>
      obtain ⟨c, hc, rfl⟩ := Option.map_eq_some_iff.1 h
      exact names_aOpcodes f _ (opLookup_mem hc) (by simpa only [Bool.and_eq_true, beq_iff_eq] using e)
  | b op f =>
    obtain ⟨c, hc, rfl⟩ := Option.map_eq_some_iff.1 h
    exact bOpcodes_has f _ (opLookup_mem hc)
  | m op f =>
    obtain ⟨c, hc, rfl⟩ := Option.map_eq_some_iff.1 h
    exact mOpcodes_has f _ (opLookup_mem hc)

/-- An instruction that its word says whole is what its word parses to, and the other way round. -/
theorem encodable_iff {i : Instr} : i.encodable = true ↔ i.form.Parses ∧ i.form.instr = some i := by
  constructor
  · intro h
    simp only [Instr.encodable, Bool.and_eq_true] at h
    obtain ⟨⟨hc, hs⟩, hl⟩ := h
    have hi : i.form.instr = some i := form_instr hs (fun e => by rw [e] at hc; cases hc)
    have hr := (has_of_instr hi).2.2
    refine ⟨?_, hi⟩
    clear hi
    generalize i.form = x at hc hl hr
    cases x with
    | event => cases hc
    | nop len u => exact hc
    | a op f => exact ⟨hr.1, hr.2.1, hr.2.2, hc, hl⟩
    | b op f => exact ⟨hr.1, hr.2.1, hr.2.2, hc, hl⟩
    | m op f => exact hr
  · rintro ⟨hp, hi⟩
    have hs := (has_of_instr hi).2.1
    simp only [Instr.encodable, hs, Bool.and_true]
    clear hi
    generalize i.form = x at hp
    cases x with
    | event => exact hp.elim
    | nop len u => exact (Bool.and_true _).trans hp
    | a op f => exact Bool.and_eq_true_iff.2 ⟨hp.2.2.2.1, hp.2.2.2.2⟩
    | b op f => exact Bool.and_eq_true_iff.2 ⟨hp.2.2.2.1, hp.2.2.2.2⟩
    | m op f => rfl

/-! ### Decoding and encoding -/

theorem length_encode (i : Instr) : (encode i).length = i.bytes := length_wordBytes _ _

theorem take_append_of_length {n : Nat} (bs r : List Byte) (h : bs.length ≤ n) : (bs ++ r).take n = bs ++ r.take (n - bs.length) := by
  rw [List.take_append, List.take_of_length_le h]

/-- Decoding the bytes of an instruction. -/
theorem decode_encode {i : Instr} (h : i.encodable = true) (rest : List Byte) : decode (encode i ++ rest) = .ok (i, rest) := by
  obtain ⟨hp, hi⟩ := encodable_iff.1 h
  have h16 : (encode i).length ≤ 16 := (length_encode i).trans_le (i.form.bytes_ge hp).2
  have hlow : SameLow (8 * i.form.bytes) (bytesWord (encode i ++ rest.take (16 - (encode i).length))) i.form.word :=
    sameLow_bytesWord i.bytes (i.form.bytes_ge hp).2 i.word _
  have hparse := parseWord_word hp hlow
  have hdec : decodeWord (bytesWord (encode i ++ rest.take (16 - (encode i).length))) = .ok i := by
    unfold decodeWord
    rw [hparse]
    simp only [hi]
  have hlen : i.form.len.bytes = (encode i).length := (i.form.len_bytes hp).trans (length_encode i).symm
  unfold decode
  rw [take_append_of_length _ _ h16]
  simp only [(parseWord_sound hparse).2.1, hdec, hlen]
  rw [if_neg (by rw [List.length_append]; omega), List.drop_left]

/-- The bytes of what decodes. -/
theorem decode_sound {bs rest : List Byte} {i : Instr} (h : decode bs = .ok (i, rest)) :
    i.encodable = true ∧ bs = encode i ++ rest := by
  unfold decode at h
  dsimp only at h
  split at h
  · split at h <;> cases h
  next len hl =>
  split at h
  · cases h
  next hn =>
  split at h
  · cases h
  next j hd =>
  cases h
  unfold decodeWord at hd
  split at hd
  · cases hd
  next x hx =>
  split at hd
  next y hy =>
    cases hd
    obtain ⟨hp, hl', hlow⟩ := parseWord_sound hx
    obtain ⟨rfl, hs, _⟩ := has_of_instr hy
    refine ⟨encodable_iff.2 ⟨hp, hy⟩, ?_⟩
    obtain rfl : len = i.form.len := Option.some.inj (hl.symm.trans hl')
    rw [i.form.len_bytes hp] at hn ⊢
    have hle := (i.form.bytes_ge hp).2
    have hsplit : bs.take 16 = bs.take i.form.bytes ++ (bs.take 16).drop i.form.bytes := by
      conv_lhs => rw [← List.take_append_drop i.form.bytes (bs.take 16)]
      rw [List.take_take, Nat.min_eq_left hle]
    have hlen : (bs.take i.form.bytes).length = i.form.bytes := by rw [List.length_take]; omega
    have henc : encode i = bs.take i.form.bytes := by
      have e := wordBytes_bytesWord (bs.take i.form.bytes) ((bs.take 16).drop i.form.bytes) (by omega)
      rw [← hsplit, hlen] at e
      exact (wordBytes_congr hlow).symm.trans e
    rw [henc, List.take_append_drop]
  · cases hd

/-! ### Words that are no instruction -/

theorem decodeWord_error {w : BitVec 128} {e : DecodeError} (h : parseWord w = .error e) : decodeWord w = .error e := by
  unfold decodeWord
  rw [h]

theorem exists_lenOfWord {w : BitVec 128} (h : w.extractLsb' 0 2 ≠ 3#2) : ∃ len, lenOfWord w = some len := by
  have key : ∀ c : BitVec 2, c ≠ 3#2 → c = InstrLen.l64.code ∨ c = InstrLen.l96.code ∨ c = InstrLen.l128.code := by decide
  obtain e | e | e := key _ h
  · exact ⟨_, lenOfWord_code.2 e⟩
  · exact ⟨_, lenOfWord_code.2 e⟩
  · exact ⟨_, lenOfWord_code.2 e⟩

theorem parseWord_badLength {w : BitVec 128} (h : w.extractLsb' 0 2 = 3#2) : parseWord w = .error .lengthCode := by
  unfold parseWord lenOfWord
  rw [h]
  rfl

theorem parseWord_badOpcode {w : BitVec 128} (h : w.extractLsb' 0 2 ≠ 3#2) (ho : 0xE0 ≤ (w.extractLsb' 2 8).toNat) :
    parseWord w = .error .opcode := by
  obtain ⟨len, hl⟩ := exists_lenOfWord h
  rw [parseWord_eq hl]
  exact if_pos ho

/-- Settles O25: `decode_encode` and `decode_sound`, and the words that are none by the order of `parseWord`'s checks. -/
theorem encoding : Obligations.Encoding := by
  unfold Obligations.Encoding
  refine ⟨⟨fun i rest h => decode_encode h rest, fun bs rest i h => decode_sound h⟩, fun w => ?_⟩
  refine ⟨fun h => decodeWord_error (parseWord_badLength h), fun h ho => decodeWord_error (parseWord_badOpcode h ho),
    fun h h0 h9 => decodeWord_error ?_, fun h3 h2 h9 hE => decodeWord_error ?_⟩
  · rw [parseWord_eq (len := .l128) (lenOfWord_code.2 h)]
    dsimp only
    rw [if_neg (by omega), if_neg (by simpa using h0), if_neg (by omega), if_pos (by decide)]
  · obtain ⟨len, hl⟩ := exists_lenOfWord h3
    have hne : len ≠ .l128 := fun e => h2 (by rw [lenOfWord_code.1 hl, e]; rfl)
    rw [parseWord_eq hl]
    dsimp only
    rw [if_neg (by omega), if_neg (by simp only [beq_iff_eq]; omega), if_pos h9, if_neg (by simpa using hne)]

end Sys2Proof
end

section
/-! PROOFS. The statement about words written out from the encodings: each is decoded, and its fields read. -/

namespace Sys2Proof.Machine

/-- Settles O26: the fields that each word decodes to are those at the format's bit positions. -/
theorem decodedWords : Obligations.DecodedWords := by
  unfold Obligations.DecodedWords
  refine ⟨⟨AForm.ofWord 0x3FC000000001B80F00040D4D#128, ?_⟩, ⟨BForm.ofWord 0x0000500001500030#128, ?_⟩,
    ⟨AForm.ofWord 0x0340380020041224#128, ?_⟩, ⟨MForm.ofWord 0x00000200000000000080201021100682#128, ?_⟩⟩
  · decide
  · decide
  · decide
  · decide

end Sys2Proof.Machine
end

section
/-! PROOFS. Facts that several statements need: sets of lanes and the lists of their lanes, and the end of an A-format instruction. -/

namespace Sys2Proof.Machine

theorem mem_lanesOf {m : LaneSet} {l : Nat} : l ∈ lanesOf m ↔ l < 96 ∧ m.getLsbD l = true := by
  simp [lanesOf]

theorem getLsbD_laneBit (j l : Nat) (hl : l < 96) : (laneBit j).getLsbD l = decide (j = l) := by
  rw [laneBit, BitVec.getLsbD_ofNat, decide_eq_true hl, Bool.true_and, Nat.testBit_two_pow]

theorem getLsbD_laneSet (ls : List Nat) {l : Nat} (hl : l < 96) : (laneSet ls).getLsbD l = true ↔ l ∈ ls := by
  have key : ∀ (ls : List Nat) (m : LaneSet),
      (ls.foldl (fun m l => m ||| laneBit l) m).getLsbD l = true ↔ m.getLsbD l = true ∨ l ∈ ls := by
    intro ls
    induction ls with
    | nil => simp
    | cons j r ih =>
      intro m
      rw [List.foldl_cons, ih, BitVec.getLsbD_or, getLsbD_laneBit j l hl]
      simp only [Bool.or_eq_true, decide_eq_true_eq, List.mem_cons, or_assoc, @eq_comm _ l j]
  rw [laneSet, key, BitVec.ofNat_eq_ofNat, BitVec.getLsbD_zero]
  simp only [Bool.false_eq_true, false_or]

theorem laneSet_ne_zero {ls : List Nat} {l : Nat} (hl : l < 96) (h : l ∈ ls) : laneSet ls ≠ 0 := by
  intro e
  have := (getLsbD_laneSet ls hl).2 h
  rw [e, BitVec.ofNat_eq_ofNat, BitVec.getLsbD_zero] at this
  cases this

theorem laneSet_eq_zero {ls : List Nat} (h : ∀ l ∈ ls, l < 96) : laneSet ls = 0 ↔ ls = [] := by
  constructor
  · intro e
    by_contra hne
    obtain ⟨l, hl⟩ := List.exists_mem_of_ne_nil ls hne
    exact laneSet_ne_zero (h l hl) hl e
  · rintro rfl
    rfl

theorem visLane_lt {prot : Bool} {l : Nat} (h : l < 96) : visLane prot l < 96 := by
  unfold visLane
  split <;> omega

/-- The visible lanes of the lanes of a set of which p holds. -/
def visSet (prot : Bool) (m : LaneSet) (p : Nat → Bool) : LaneSet := laneSet (((lanesOf m).filter p).map (visLane prot))

theorem getLsbD_visSet (prot : Bool) (m : LaneSet) (p : Nat → Bool) {j : Nat} (hj : j < 96) :
    (visSet prot m p).getLsbD j = true ↔ ∃ l, l < 96 ∧ m.getLsbD l = true ∧ p l = true ∧ visLane prot l = j := by
  rw [visSet, getLsbD_laneSet _ hj]
  simp only [List.mem_map, List.mem_filter, mem_lanesOf]
  constructor
  · rintro ⟨l, ⟨⟨hl, hm⟩, hp⟩, e⟩
    exact ⟨l, hl, hm, hp, e⟩
  · rintro ⟨l, hl, hm, hp, e⟩
    exact ⟨l, ⟨⟨hl, hm⟩, hp⟩, e⟩

theorem visSet_ne_zero (prot : Bool) (m : LaneSet) (p : Nat → Bool) :
    visSet prot m p ≠ 0 ↔ ∃ l, l < 96 ∧ m.getLsbD l = true ∧ p l = true := by
  rw [visSet, Ne, laneSet_eq_zero, List.map_eq_nil_iff, List.filter_eq_nil_iff]
  · simp only [mem_lanesOf]
    push Not
    simp only [and_assoc]
  · intro l hl
    obtain ⟨k, hk, rfl⟩ := List.mem_map.1 hl
    exact visLane_lt (mem_lanesOf.1 (List.mem_filter.1 hk).1).1

/-! ### Instructions that complete -/

theorem Iss.shapeA_false (c : Iss) (op : Nat) (f : AForm) : c.shapeA op f false = aShape op (aRule c.fieldCtx op f) f := by
  simp only [Iss.shapeA, Bool.or_false]

/-- `complete` with the registers of an A-format instruction's results. -/
theorem complete_result {s : State} {c : Iss} {op : Nat} {f : AForm} {m : LaneSet} {ws : List Write} {fl : FpFlags} (hs : s.Settled)
    (hm : m ≠ 0) (ha : allocTest s c (c.resultA op f m ws fl).1 = .ok) :
    Finished s (complete s c (aShape op (aRule c.fieldCtx op f) f) m ws fl f.len) c (aShape op (aRule c.fieldCtx op f) f)
      (c.resultA op f m ws fl).1 (c.resultA op f m ws fl).2 f.len :=
  complete_spec hs _ m ws fl f.len hm ha

end Sys2Proof.Machine
end

section
/-! PROOFS. The statement of R326: `div` and `rem` trap for a zero divisor in a lane that runs and complete otherwise
(`divExec_writes`, `divExec_traps`); the quotient and the remainder are those of truncated division. -/

namespace Sys2Proof.Machine

theorem zeroLanes_eq (c : Iss) (f : AForm) (m : LaneSet) :
    zeroLanes c f m = visSet c.prot m (fun l => intB c f l % 2 ^ 32 == 0) := rfl

/-- A divisor of a type of 32 bits is zero where its bits are. -/
theorem elemInt_eq_zero (w : Nat) (sg : Bool) (v : Nat) : elemInt w sg v 0 = 0 ↔ v % 2 ^ w = 0 := by
  have he : elemCode w v 0 = v % 2 ^ w := by simp [elemCode]
  have hlt : v % 2 ^ w < 2 ^ w := Nat.mod_lt _ (Nat.two_pow_pos w)
  have hpos : 0 < 2 ^ (w - 1) := Nat.two_pow_pos _
  unfold elemInt sxt
  rw [he, Nat.mod_mod]
  split
  · split <;> omega
  · omega

/-- A division with no zero divisor, or in the form `.nz`, completes. -/
theorem divExec_writes {i : Instr} {op : Nat} {f : AForm} {val : Iss → Nat → Nat} (h : ∀ s, exec i s = divExec op f val s) :
    WritesIn i op f (fun c => f.sub % 2 = 1 ∨ ∀ l, l < 96 → (c.lanesA op f).getLsbD l = true → intB c f l % 2 ^ 32 ≠ 0)
      (fun c => c.lanesA op f) (fun c => [.reg f.dst 1 (val c)]) (fun _ => 0) := by
  intro s c hs hi hok hm ha
  refine ⟨_, (h s).trans (by unfold divExec issueA; exact issueWith_go hi _), ?_⟩
  have hz : ¬ (f.sub % 2 == 0 && zeroLanes c f (c.lanesA op f) != 0) = true := by
    simp only [Bool.and_eq_true, beq_iff_eq, bne_iff_ne, zeroLanes_eq, visSet_ne_zero]
    rintro ⟨hn, l, hl, hml, hb⟩
    obtain hok | hok := hok
    · omega
    · exact hok l hl hml hb
  rw [Iss.lanesA] at hz
  dsimp only
  rw [if_neg hz]
  rw [Iss.shapeA_false]
  exact complete_result hs hm ha

/-- A division with a zero divisor in a lane that runs traps, and names those lanes. -/
theorem divExec_traps {i : Instr} {op : Nat} {f : AForm} {val : Iss → Nat → Nat} (h : ∀ s, exec i s = divExec op f val s)
    {s : State} {c : Iss} (hi : IssuesA op f s c) (hn : f.sub % 2 = 0)
    (hz : ∃ l, l < 96 ∧ (c.lanesA op f).getLsbD l = true ∧ intB c f l % 2 ^ 32 = 0) :
    Answers i s (fun t => ∃ m : LaneSet,
      t = finish (takeTrap s c.inst c.slot c.p.pc { code := 0x18, info := 0, addr := 0, mask := m }) ∧
      m = if (aShape op (aRule c.fieldCtx op f) f).allScalar then c.act
        else laneSet (((lanesOf (c.lanesA op f)).filter (fun l => intB c f l % 2 ^ 32 == 0)).map (visLane c.prot))) := by
  refine ⟨_, (h s).trans (by unfold divExec issueA; exact issueWith_go hi _), _, ?_, rfl⟩
  have hz' : (f.sub % 2 == 0 && zeroLanes c f (c.lanesA op f) != 0) = true := by
    simp only [Bool.and_eq_true, beq_iff_eq, bne_iff_ne, zeroLanes_eq, visSet_ne_zero]
    exact ⟨hn, hz⟩
  dsimp only
  exact if_pos hz'

/-- Truncated division: the remainder is smaller than the divisor and has the dividend's sign. -/
theorem tdiv_tmod_spec (a b : Int) (hb : b ≠ 0) :
    a = b * a.tdiv b + a.tmod b ∧ |a.tmod b| < |b| ∧ (0 < a → 0 ≤ a.tmod b) ∧ (a < 0 → a.tmod b ≤ 0) := by
  refine ⟨(Int.mul_tdiv_add_tmod a b).symm, ?_, fun h => Int.tmod_nonneg b h.le, fun h => ?_⟩
  · rw [Int.abs_eq_natAbs, Int.abs_eq_natAbs, Int.natAbs_tmod]
    exact_mod_cast Nat.mod_lt _ (Int.natAbs_pos.2 hb)
  · have := Int.tmod_nonneg b (show 0 ≤ -a by omega)
    rw [Int.neg_tmod] at this
    omega

/-- Settles O3: truncated division gives the quotient and the remainder, and the zero lanes are looked for before any
write. -/
theorem division : Obligations.Division := by
  unfold Obligations.Division
  refine ⟨fun f => ⟨divVal f, remVal f, divExec_writes (fun _ => rfl), divExec_writes (fun _ => rfl), fun c l => ?_⟩,
    fun f s c => ⟨divExec_traps (fun _ => rfl), divExec_traps (fun _ => rfl)⟩⟩
  refine ⟨fun hb => ⟨by simp only [divVal, hb, if_true], ?_⟩, fun hb => ?_⟩
  · simp only [remVal, hb, if_true, natCast_wrapN]
  · obtain ⟨he, hlt, hp, hn⟩ := tdiv_tmod_spec (elemInt 32 (isSigned f.tyN) (intA c f l) 0) _ hb
    refine ⟨_, _, he, hlt, hp, hn, by simp only [divVal, if_neg hb], ?_⟩
    simp only [remVal, if_neg hb, natCast_wrapN]

end Sys2Proof.Machine
end

section
/-! PROOFS. The statement of R231 that a value of a format rounds to itself: a finite code's magnitude stands at the exponent at which
`roundTo` rounds it, so nothing is cut off and the code comes back (`roundTo_exact`, `roundVal_val`). -/

namespace Sys2Proof.Machine

theorem bitLen_spec {n : Nat} (h : n ≠ 0) : 2 ^ (bitLen n - 1) ≤ n ∧ n < 2 ^ bitLen n ∧ 1 ≤ bitLen n := by
  rw [bitLen, if_neg (by simpa using h)]
  exact ⟨Nat.log2_self_le h, Nat.lt_log2_self, by omega⟩

theorem bitLen_le {n k : Nat} (h : n < 2 ^ k) : bitLen n ≤ k := by
  by_cases h0 : n = 0
  · subst h0; exact Nat.zero_le k
  · by_contra hk
    have h2 := (bitLen_spec h0).1
    have := Nat.pow_le_pow_right (n := 2) (by omega) (show k ≤ bitLen n - 1 by omega)
    omega

theorem bitLen_eq {n k : Nat} (h : 2 ^ k ≤ n) (h' : n < 2 ^ (k + 1)) : bitLen n = k + 1 := by
  have hn : n ≠ 0 := by have := Nat.two_pow_pos k; omega
  have hle := bitLen_le h'
  by_contra hne
  have hlt := (bitLen_spec hn).2.1
  have := Nat.pow_le_pow_right (n := 2) (by omega) (show bitLen n ≤ k by omega)
  omega

/-- A magnitude at the exponent at which it is rounded is kept, and raises no flag. -/
theorem roundTo_exact {f : Fmt} (rm : Rm) (o : OverflowRule) (neg : Bool) {mag : Nat} {ex : Int} (h0 : mag ≠ 0)
    (hq : max (ex + (bitLen mag : Int) - 1 - (f.m : Int)) f.qmin = ex)
    (hmax : (ex - f.qmin).toNat * 2 ^ f.m + mag ≤ f.maxCode) :
    roundTo f rm o false neg mag ex = (withSign f neg ((ex - f.qmin).toNat * 2 ^ f.m + mag), flNone) := by
  have hr : roundAt rm neg mag ex ex = (mag, false) := by
    rw [roundAt, if_pos (le_refl ex), Int.sub_self]
    simp
  unfold roundTo
  rw [if_neg (by simpa using h0)]
  dsimp only
  rw [hq, hr]
  dsimp only
  rw [if_neg (Nat.not_lt.2 hmax), if_neg (by simp)]
  simp [flIf, flNone]

/-- The magnitude of a finite code and the exponent that it stands at. -/
theorem val_finite {f : Fmt} (hi : f.ieee = true) (ho : f.oneNan = false) {code : Nat} (h : code % f.signBit < f.infCode) :
    ∃ mag ex, f.val code = .fin (code / f.signBit % 2 == 1) mag ex ∧ (mag = 0 → code % f.signBit = 0) ∧
      (mag ≠ 0 → max (ex + (bitLen mag : Int) - 1 - (f.m : Int)) f.qmin = ex ∧
        (ex - f.qmin).toNat * 2 ^ f.m + mag = code % f.signBit) := by
  have hpos : 0 < 2 ^ f.m := Nat.two_pow_pos _
  have hsplit := Nat.div_add_mod (code % f.signBit) (2 ^ f.m)
  have hfrac : code % f.signBit % 2 ^ f.m < 2 ^ f.m := Nat.mod_lt _ hpos
  have he : code % f.signBit / 2 ^ f.m < 2 ^ f.e - 1 := by rwa [Nat.div_lt_iff_lt_mul hpos]
  unfold Fmt.val
  simp only [hi, ho, Bool.true_and, Bool.false_and, Bool.false_eq_true, if_false,
    show (code % f.signBit / 2 ^ f.m == 2 ^ f.e - 1) = false by simp; omega]
  generalize code % f.signBit / 2 ^ f.m = eb at *
  generalize code % f.signBit % 2 ^ f.m = fr at *
  by_cases heb : eb = 0
  · subst heb
    refine ⟨fr, f.qmin, by simp, fun h0 => by omega, fun _ => ⟨?_, by simp; omega⟩⟩
    have := bitLen_le hfrac
    exact max_eq_right (by omega)
  · refine ⟨2 ^ f.m + fr, (eb : Int) - 1 + f.qmin, by simp [heb], fun h0 => by omega, fun _ => ?_⟩
    have hb : bitLen (2 ^ f.m + fr) = f.m + 1 := bitLen_eq (by omega) (by rw [pow_succ]; omega)
    rw [hb]
    refine ⟨max_eq_left (by push_cast; omega) |>.trans (by push_cast; omega), ?_⟩
    rw [show ((eb : Int) - 1 + f.qmin - f.qmin).toNat = eb - 1 by omega, ← hsplit, Nat.sub_mul, Nat.mul_comm (2 ^ f.m) eb]
    have : 1 * 2 ^ f.m ≤ eb * 2 ^ f.m := Nat.mul_le_mul_right _ (by omega)
    omega

/-- A finite code of an IEEE format rounds to itself. -/
theorem roundVal_val {f : Fmt} (hi : f.ieee = true) (ho : f.oneNan = false) (rm : Rm) {code : Nat} (hc : code < 2 * f.signBit)
    (h : code % f.signBit < f.infCode) : roundVal f rm false (f.val code) = (code, flNone) := by
  have hsign : withSign f (code / f.signBit % 2 == 1) (code % f.signBit) = code := by
    have hpos : 0 < f.signBit := Nat.two_pow_pos _
    have hd := Nat.div_add_mod code f.signBit
    have hlt : code / f.signBit < 2 := Nat.div_lt_of_lt_mul (by omega)
    unfold withSign
    obtain e | e := Nat.le_one_iff_eq_zero_or_eq_one.1 (Nat.lt_succ_iff.1 hlt)
    · rw [e] at hd ⊢; simp at hd ⊢; omega
    · rw [e] at hd ⊢; simp at hd ⊢; omega
  obtain ⟨mag, ex, hv, hz, hn⟩ := val_finite hi ho h
  rw [hv, roundVal]
  by_cases h0 : mag = 0
  · rw [roundTo, if_pos (by simpa using h0)]
    rw [hz h0] at hsign
    rw [hsign]
  · obtain ⟨hq, hcode⟩ := hn h0
    have hmax : f.maxCode = f.infCode - 1 := by rw [Fmt.maxCode, if_pos hi, Fmt.infCode]
    rw [roundTo_exact rm .arith _ h0 hq (by omega), hcode, hsign]

/-- Settles O11: each of the formats is an IEEE one. -/
theorem roundingExact : Obligations.RoundingExact := by
  unfold Obligations.RoundingExact
  intro ft rm code hft
  simp only [List.mem_cons, List.not_mem_nil, or_false] at hft
  obtain rfl | rfl | rfl | rfl := hft
  · exact roundVal_val rfl rfl rm
  · exact roundVal_val rfl rfl rm
  · exact roundVal_val rfl rfl rm
  · exact roundVal_val rfl rfl rm

end Sys2Proof.Machine
end

section
/-! PROOFS. The statements of 15 R340, R343, R344, R347 and R348: each instruction is elementwise (`floatExec_elems`), and a comparison is
U just where an operand is a NaN (`fCmp_unordered`). -/

namespace Sys2Proof.Machine

/-- Settles O7: every instruction passes its elements through the operation of its name. -/
theorem floatArithmetic : Obligations.FloatArithmetic := by
  unfold Obligations.FloatArithmetic
  refine fun f => ⟨?fadd, ?fsub, ?fmul, ?ffma, ?dadd, ?dmul, ?dfma, ?fdiv, ?fsqrt, ?ddiv, ?dsqrt, ?drcp, ?drsq⟩
  case fadd => exact floatExec_elems (g := fun ft rm z a b _ => fAdd ft rm z a b) (fun _ => rfl)
  case fsub => exact floatExec_elems (g := fun ft rm z a b _ => fSub ft rm z a b) (fun _ => rfl)
  case fmul => exact floatExec_elems (g := fun ft rm z a b _ => fMul ft rm z a b) (fun _ => rfl)
  case ffma => exact floatExec_elems (g := fun ft rm z a b c => fFma ft rm z a b c) (fun _ => rfl)
  case dadd => exact floatExec_elems (g := fun ft rm _ a b _ => fAdd ft rm false a b) (fun _ => rfl)
  case dmul => exact floatExec_elems (g := fun ft rm _ a b _ => fMul ft rm false a b) (fun _ => rfl)
  case dfma => exact floatExec_elems (g := fun ft rm _ a b c => fFma ft rm false a b c) (fun _ => rfl)
  case fdiv => exact floatExec_elems (g := fun ft rm z a b _ => fDiv ft rm z a b) (fun _ => rfl)
  case fsqrt => exact floatExec_elems (g := fun ft rm z a _ _ => fSqrt ft rm z a) (fun _ => rfl)
  case ddiv => exact floatExec_elems (g := fun ft rm _ a b _ => fDiv ft rm false a b) (fun _ => rfl)
  case dsqrt => exact floatExec_elems (g := fun ft rm _ a _ _ => fSqrt ft rm false a) (fun _ => rfl)
  case drcp => exact floatExec_elems (g := fun _ rm _ a _ _ => fDrcp rm a) (fun _ => rfl)
  case drsq => exact floatExec_elems (g := fun _ rm _ a _ _ => fDrsq rm f.rm a) (fun _ => rfl)

/-! ### Comparison and classification (R343, R344) -/

theorem isNan_read (ft : Fmt) (z : Bool) (a : Nat) : (ft.read z a).isNan = (ft.val a).isNan := by
  unfold Fmt.read
  cases ft.val a with
  | nan s => rfl
  | inf n => rfl
  | fin n m e =>
    dsimp only
    split <;> rfl

/-- A comparison is unordered just where a source is a NaN. -/
theorem fCmp_unordered (ft : Fmt) (z : Bool) (cond a b : Nat) :
    (fCmp ft z cond a b).1 = .u ↔ (ft.val a).isNan = true ∨ (ft.val b).isNan = true := by
  unfold fCmp
  dsimp only
  rw [isNan_read, isNan_read, ← Bool.or_eq_true]
  split
  next h => simp [h]
  next h =>
    obtain e | e := ofBool_cases (relHolds cond ((ft.read z a).cmp (ft.read z b)))
    · simp [e, h]
    · simp [e, h]

/-- A comparison of floating-point values writes its predicate. -/
theorem cmpExec_writes {i : Instr} {op : Nat} {f : AForm} (h : ∀ s, exec i s = cmpExec op f s) :
    ∃ val : Iss → Nat → Tri × FpFlags,
      (∀ c l, val c l = fCmp (fmtOf f.tyN) (c.ftz && f.tyN != 0xA) f.sub (floatA c f l) (floatB c f l)) ∧
      (∀ c l, (val c l).1 = .u ↔
        ((fmtOf f.tyN).val (floatA c f l)).isNan = true ∨ ((fmtOf f.tyN).val (floatB c f l)).isNan = true) ∧
      Writes i op f (fun c => [.pred (predReg f.dst) (fun l => (val c l).1)])
        (fun c => laneFlags (c.lanesA op f) (fun l => (val c l).2)) :=
  ⟨_, fun _ _ => rfl, fun _ _ => fCmp_unordered _ _ _ _ _, aluExec_writes h⟩

/-- `fclass` tests the class of A against the mask B. -/
theorem fclass_writes (f : AForm) : WritesPred (.fclass f) 0x5F f (fun val => ∀ c l,
    (val c l = .t ↔ (c.srcB f 1 f.imm l).testBit (fClass (fmtOf f.tyN) (floatA c f l)) = true) ∧ val c l ≠ .u) := by
  refine aluExec_pred (val := fun c l => Tri.ofBool (bitAt (c.srcB f 1 f.imm l) (fClass (fmtOf f.tyN) (floatA c f l))))
    (fun _ => rfl) (fun c l => ?_)
  rw [← bitAt_eq_testBit]
  refine ⟨ofBool_eq_t _, fun e => ?_⟩
  obtain e' | e' := ofBool_cases (bitAt (c.srcB f 1 f.imm l) (fClass (fmtOf f.tyN) (floatA c f l)))
  · cases e'.symm.trans e
  · cases e'.symm.trans e

/-- Settles O9: comparisons by the law of `cmpExec`, and each special function as a function of an element's operands. -/
theorem floatCompareAndFunctions : Obligations.FloatCompareAndFunctions := by
  unfold Obligations.FloatCompareAndFunctions
  refine ⟨fun f => ⟨cmpExec_writes (fun _ => rfl), cmpExec_writes (fun _ => rfl), fclass_writes f⟩,
    fun f => ⟨?frcp, ?frsq, ?fex2, ?flg2, ?fexp, ?flog, ?fsin, ?fcos, ?ftanh, ?fsig⟩⟩
  case frcp => exact floatExec_elems (g := fun ft rm z a _ _ => fSpecial ft .rcp 0x65 rm f.rm z a) (fun _ => rfl)
  case frsq => exact floatExec_elems (g := fun ft rm z a _ _ => fSpecial ft .rsq 0x66 rm f.rm z a) (fun _ => rfl)
  case fex2 => exact floatExec_elems (g := fun ft rm z a _ _ => fSpecial ft .ex2 0x67 rm f.rm z a) (fun _ => rfl)
  case flg2 => exact floatExec_elems (g := fun ft rm z a _ _ => fSpecial ft .lg2 0x68 rm f.rm z a) (fun _ => rfl)
  case fexp => exact floatExec_elems (g := fun ft rm z a _ _ => fSpecial ft .exp 0x69 rm f.rm z a) (fun _ => rfl)
  case flog => exact floatExec_elems (g := fun ft rm z a _ _ => fSpecial ft .log 0x6A rm f.rm z a) (fun _ => rfl)
  case fsin => exact floatExec_elems (g := fun ft rm z a _ _ => fSpecial ft .sin 0x6B rm f.rm z a) (fun _ => rfl)
  case fcos => exact floatExec_elems (g := fun ft rm z a _ _ => fSpecial ft .cos 0x6C rm f.rm z a) (fun _ => rfl)
  case ftanh => exact floatExec_elems (g := fun ft rm z a _ _ => fSpecial ft .tanh 0x6D rm f.rm z a) (fun _ => rfl)
  case fsig => exact floatExec_elems (g := fun ft rm z a _ _ => fSpecial ft .sig 0x6E rm f.rm z a) (fun _ => rfl)

end Sys2Proof.Machine
end

section
/-! PROOFS. The statement of 15 R349 to R353: each instruction is a lane function (`laneExec_float`); what `cvtfi` gives is in the
destination's range (`fToInt_bounds`), and `pack` writes the words that some active lane's element reaches (`packWrites_words`). -/

namespace Sys2Proof.Machine

theorem intLo_le_zero (t : Nat) : intLo t ≤ 0 := by
  unfold intLo
  have := Nat.two_pow_pos (intLo.tyBits t - 1)
  split <;> omega

theorem zero_le_intHi (t : Nat) : 0 ≤ intHi t := by
  unfold intHi
  dsimp only
  have h : ∀ n : Nat, (0 : Int) ≤ (2 ^ n : Nat) - 1 := fun n => by have := Nat.two_pow_pos n; omega
  split <;> exact h _

/-- A value converted to an integer stands in the range it is given. -/
theorem fToInt_bounds (ft : Fmt) (rm : Rm) (z : Bool) {lo hi : Int} (hlo : lo ≤ 0) (hhi : 0 ≤ hi) (a : Nat) :
    lo ≤ (fToInt ft rm z lo hi a).1 ∧ (fToInt ft rm z lo hi a).1 ≤ hi := by
  unfold fToInt
  split
  · exact ⟨hlo, hhi⟩
  · dsimp only
    split <;> omega
  · dsimp only
    split
    · dsimp only; omega
    · split
      · dsimp only; omega
      · dsimp only; omega

theorem cvtfiLane_range (f : AForm) (c : Iss) (l : Nat) : ∃ x : Int, intLo f.tyN ≤ x ∧ x ≤ intHi f.tyN ∧
    (cvtfiLane f c l).1 = wrapN (32 * tyRegs f.tyN) x := by
  obtain ⟨h1, h2⟩ := fToInt_bounds (fmtOf (f.aux.toNat % 16)) f.mode (flushFor (f.aux.toNat % 16) c.ftz) (intLo_le_zero f.tyN)
    (zero_le_intHi f.tyN) (if fCount (f.aux.toNat % 16) == 2 then
      c.srcA f (tyRegs (f.aux.toNat % 16)) l / 2 ^ (16 * (f.sub % 2)) % 2 ^ 16 else c.srcA f (tyRegs (f.aux.toNat % 16)) l)
  exact ⟨_, h1, h2, rfl⟩

/-! ### `pack` (R351) -/

theorem getLsbD_physMask {prot : Bool} {m : LaneSet} {l : Nat} (hl : l < 96) :
    (physMask prot m).getLsbD l = m.getLsbD (visLane prot l) := by
  unfold physMask visLane
  cases prot with
  | false => rfl
  | true =>
    simp only [if_true]
    rw [Bool.eq_iff_iff, getLsbD_laneSet _ hl]
    simp [hl]

/-- Every word of D that `pack` writes is reached by the element of an active lane. -/
theorem packWrites_words (f : AForm) (c : Iss) : ∀ w ∈ packWrites f c, ∃ r m val, w = .regAt r m val ∧
    (r = vecReg f.dst ∨ r = vecReg f.dst + 1) ∧ (r = vecReg f.dst → ∀ l, l < 96 → m.getLsbD l = true →
      ∃ j, c.act.getLsbD j = true ∧ mfBits (f.aux.toNat % 16) * j < 32 * visLane c.prot l + 32 ∧
        32 * visLane c.prot l < mfBits (f.aux.toNat % 16) * (j + 1)) := by
  have key : ∀ w ∈ packWrites f c,
      w = .regAt (vecReg f.dst) (physMask c.prot (laneSet ((List.range (visCount c.prot)).filter
        (fun i => !(packLanes c (mfBits (f.aux.toNat % 16)) i).isEmpty))))
        (fun l => packWord f c (vecReg f.dst) (sideOf c.prot l) (visLane c.prot l)) ∨
      ∃ m val, w = .regAt (vecReg f.dst + 1) m val := by
    intro w hw
    unfold packWrites at hw
    dsimp only at hw
    split at hw
    · rw [List.mem_append] at hw
      obtain hw | hw := hw
      · split at hw
        · cases hw
        · exact Or.inl (List.mem_singleton.1 hw)
      · exact Or.inr ⟨_, _, List.mem_singleton.1 hw⟩
    · split at hw
      · cases hw
      · exact Or.inl (List.mem_singleton.1 hw)
  intro w hw
  obtain rfl | ⟨m, val, rfl⟩ := key w hw
  · refine ⟨_, _, _, rfl, Or.inl rfl, fun _ l hl hm => ?_⟩
    rw [getLsbD_physMask hl, getLsbD_laneSet _ (visLane_lt hl), List.mem_filter] at hm
    obtain ⟨j, hj⟩ := List.exists_mem_of_ne_nil (packLanes c (mfBits (f.aux.toNat % 16)) (visLane c.prot l))
      (by simpa using hm.2)
    simp only [packLanes, List.mem_filter, Bool.and_eq_true, decide_eq_true_eq] at hj
    obtain ⟨_, ⟨ha, hb⟩, he⟩ := hj
    exact ⟨j, ha, hb, by rw [Nat.mul_succ]; exact he⟩
  · exact ⟨_, _, _, rfl, Or.inr rfl, fun h => absurd h (by omega)⟩

/-! ### Dot products (R353) -/

/-- The lane function of `fdot2`: the two elements of a word. -/
def fdot2Lane (f : AForm) (c : Iss) (l : Nat) : Nat × FpFlags :=
  let ft := if f.sub % 2 == 1 then fmtBf16 else fmtF16
  let els := fun (v : Nat) => (List.range 2).map (fun j => ft.read c.ftz (v / 2 ^ (16 * j) % 2 ^ 16))
  fDot f.mode c.ftz (els (c.srcA f 1 l)) (els (c.srcB f 1 f.imm l)) (fmtF32.read c.ftz (c.srcC f 1 l))

/-- The lane function of `fdot4`: the four elements of a word. -/
def fdot4Lane (f : AForm) (c : Iss) (l : Nat) : Nat × FpFlags :=
  let els := fun (e5 : Bool) (v : Nat) =>
    (List.range 4).map (fun j => (if e5 then fmtE5m2 else fmtE4m3).val (v / 2 ^ (8 * j) % 2 ^ 8))
  fDot f.mode c.ftz (els (f.sub % 2 == 1) (c.srcA f 1 l)) (els (f.sub / 2 % 2 == 1) (c.srcB f 1 f.imm l))
    (fmtF32.read c.ftz (c.srcC f 1 l))

theorem fdot2Lane_eq (f : AForm) (c : Iss) (l : Nat) :
    let ft := if f.sub % 2 = 1 then fmtBf16 else fmtF16
    let els := fun (v : Nat) => [ft.read c.ftz (v % 2 ^ 16), ft.read c.ftz (v / 2 ^ 16 % 2 ^ 16)]
    fdot2Lane f c l = fDot f.mode c.ftz (els (c.srcA f 1 l)) (els (c.srcB f 1 f.imm l)) (fmtF32.read c.ftz (c.srcC f 1 l)) := by
  have h : ∀ v : Nat, v / 2 ^ (16 * 0) = v := fun v => Nat.div_one v
  simp only [fdot2Lane, List.range_succ, List.range_zero, List.nil_append, List.map_cons, List.map_nil,
    List.cons_append, h, beq_iff_eq, Nat.mul_one]

/-- Settles O10: each instruction is a lane function, but `pack`, whose words are followed one by one. -/
theorem floatConversions : Obligations.FloatConversions := by
  unfold Obligations.FloatConversions
  refine fun f => ⟨?cvt, ?cvtfi, ?cvtif, ?pack, ?unpack, ?fdot2, ?fdot4⟩
  case cvt => exact laneExec_float (val := cvtLane f) (fun _ => rfl) (fun _ _ => rfl)
  case cvtfi => exact laneExec_float (val := cvtfiLane f) (fun _ => rfl) (cvtfiLane_range f)
  case cvtif => exact laneExec_float (val := cvtifLane f) (fun _ => rfl) (fun _ _ => rfl)
  case pack =>
    exact ⟨_, _, aluExec_writes (ws := packWrites f) (fl := fun c l => (packOf f c (sideOf c.prot l) (visLane c.prot l)).2)
      (fun _ => rfl), packWrites_words f⟩
  case unpack => exact laneExec_float (val := unpackLane f) (fun _ => rfl) (fun _ _ => rfl)
  case fdot2 => exact laneExec_float (val := fdot2Lane f) (fun _ => rfl) (fdot2Lane_eq f)
  case fdot4 => exact laneExec_float (val := fdot4Lane f) (fun _ => rfl) (fun _ _ => rfl)

end Sys2Proof.Machine
end

section
/-! PROOFS. The statements of 16 R357 to R363: an interval instruction completes where every lane has a result or its form is `.p`, and
traps otherwise (`ivlExec_writes`, `ivlExec_traps`); the others are lane functions. -/

namespace Sys2Proof.Machine

/-! ### Interval results (R357, R359) -/

theorem getLsbD_fullLanes (m : LaneSet) (g : Nat → Option (Ivl × FpFlags)) {l : Nat} (hl : l < 96) :
    (fullLanes m g).getLsbD l = true ↔ m.getLsbD l = true ∧ (g l).isSome = true := by
  rw [fullLanes, getLsbD_laneSet _ hl, List.mem_filter, mem_lanesOf]
  simp only [hl, true_and]

/-- The visible lanes of a set that have no result. -/
def emptyLanes (prot : Bool) (m : LaneSet) (g : Nat → Option (Ivl × FpFlags)) : LaneSet :=
  laneSet ((lanesOf (m &&& ~~~(fullLanes m g))).map (visLane prot))

theorem mem_lanesOf_empty {m : LaneSet} {g : Nat → Option (Ivl × FpFlags)} {l : Nat} :
    l ∈ lanesOf (m &&& ~~~(fullLanes m g)) ↔ l < 96 ∧ m.getLsbD l = true ∧ g l = none := by
  rw [mem_lanesOf, BitVec.getLsbD_and, BitVec.getLsbD_not]
  constructor
  · rintro ⟨hl, h⟩
    rw [Bool.and_eq_true, decide_eq_true hl, Bool.true_and, Bool.not_eq_true'] at h
    refine ⟨hl, h.1, ?_⟩
    have := mt (getLsbD_fullLanes m g hl).2 (by rw [h.2]; decide)
    simpa [h.1] using this
  · rintro ⟨hl, hm, hg⟩
    have hn : (fullLanes m g).getLsbD l = false := by
      rw [Bool.eq_false_iff, Ne, getLsbD_fullLanes m g hl, hg]
      simp
    exact ⟨hl, by rw [hm, hn, decide_eq_true hl]; rfl⟩

theorem getLsbD_emptyLanes (prot : Bool) (m : LaneSet) (g : Nat → Option (Ivl × FpFlags)) {j : Nat} (hj : j < 96) :
    (emptyLanes prot m g).getLsbD j = true ↔ ∃ l, l < 96 ∧ m.getLsbD l = true ∧ g l = none ∧ visLane prot l = j := by
  rw [emptyLanes, getLsbD_laneSet _ hj]
  simp only [List.mem_map, mem_lanesOf_empty, and_assoc]

theorem emptyLanes_ne_zero (prot : Bool) (m : LaneSet) (g : Nat → Option (Ivl × FpFlags)) :
    emptyLanes prot m g ≠ 0 ↔ ∃ l, l < 96 ∧ m.getLsbD l = true ∧ g l = none := by
  rw [emptyLanes, Ne, laneSet_eq_zero]
  · rw [List.map_eq_nil_iff, List.eq_nil_iff_forall_not_mem]
    simp only [mem_lanesOf_empty, not_forall, not_not]
  · intro l hl
    obtain ⟨k, hk, rfl⟩ := List.mem_map.1 hl
    exact visLane_lt (mem_lanesOf_empty.1 hk).1

/-- An interval instruction completes where every lane has a result, or its form is `.p`. -/
theorem ivlExec_writes {i : Instr} {op : Nat} {f : AForm} {g : IvlFn} (h : ∀ s, exec i s = ivlExec op f g s) :
    WritesIvl i op f g := by
  refine ⟨fun c l => ((g c l).map (·.1)).getD ⟨0, 0⟩, fun c => fullLanes (c.execMask false (f.gsense != 0)) (g c),
    fun c l hl => getLsbD_fullLanes _ _ hl, fun c l x hx => by simp only [hx, Option.map_some, Option.getD_some], ?_⟩
  intro s c hs hi hok hm ha
  refine ⟨_, (h s).trans (by unfold ivlExec issueA; exact issueWith_go hi _), ?_⟩
  have hb : ¬ (emptyLanes c.prot (c.execMask false (f.gsense != 0)) (g c) != 0 && !decide (4 ≤ f.sub)) = true := by
    simp only [Bool.and_eq_true, bne_iff_ne, emptyLanes_ne_zero, Bool.not_eq_true', decide_eq_false_iff_not]
    rintro ⟨⟨l, hl, hml, hg⟩, hp⟩
    have := (hok.resolve_left hp) l hl hml
    rw [hg] at this
    cases this
  unfold emptyLanes at hb
  dsimp only
  rw [if_neg hb, Iss.shapeA_false]
  simp only [decide_eq_true_eq]
  exact complete_result hs hm ha

/-- An interval instruction whose form is not `.p` traps where a lane has no result, and names those lanes. -/
theorem ivlExec_traps {i : Instr} {op : Nat} {f : AForm} {g : IvlFn} (h : ∀ s, exec i s = ivlExec op f g s) (hp : f.sub < 4)
    {s : State} {c : Iss} (hi : IssuesA op f s c)
    (he : ∃ l, l < 96 ∧ (c.execMask false (f.gsense != 0)).getLsbD l = true ∧ g c l = none) :
    Answers i s (fun t => ∃ bad : LaneSet,
      t = finish (takeTrap s c.inst c.slot c.p.pc { code := 0x0E, info := 0, addr := 0, mask := bad }) ∧
      ∀ j, j < 96 → (bad.getLsbD j = true ↔ ∃ l, l < 96 ∧ (c.execMask false (f.gsense != 0)).getLsbD l = true ∧ g c l = none ∧
        visLane c.prot l = j)) := by
  refine ⟨_, (h s).trans (by unfold ivlExec issueA; exact issueWith_go hi _),
    emptyLanes c.prot (c.execMask false (f.gsense != 0)) (g c), ?_, fun j hj => getLsbD_emptyLanes _ _ _ hj⟩
  have hb : (emptyLanes c.prot (c.execMask false (f.gsense != 0)) (g c) != 0 && !decide (4 ≤ f.sub)) = true := by
    simp only [Bool.and_eq_true, bne_iff_ne, emptyLanes_ne_zero, Bool.not_eq_true', decide_eq_false_iff_not]
    exact ⟨he, by omega⟩
  unfold emptyLanes at hb ⊢
  dsimp only
  exact if_pos hb

/-- What `iisect` gives in a lane. -/
def iisectLane (f : AForm) : IvlFn := fun c l => (Ivl.isect (fmtOf f.tyN) (ivlA c f l).1 (ivlB c f l).1).map
  (fun x => (x, (ivlA c f l).2 ||| (ivlB c f l).2 ||| flNone))

theorem exec_iisect (f : AForm) (s : State) : exec (.iisect f) s = ivlExec 0x89 f (iisectLane f) s := by
  have e : iisectLane f = fun c l => ((Ivl.isect (fmtOf f.tyN) (ivlA c f l).1 (ivlB c f l).1).map (fun i => (i, flNone))).map
      (fun x => (x.1, (ivlA c f l).2 ||| (ivlB c f l).2 ||| x.2)) := by
    funext c l
    rw [Option.map_map]
    rfl
  rw [e]
  rfl

/-- What `iset` gives in a lane: two bounds, or a midpoint and a radius. -/
def isetLane (f : AForm) : IvlFn := fun c l =>
  if f.sub % 2 = 1 then Ivl.setRadius (fmtOf f.tyN) (floatA c f l) (floatB c f l)
  else Ivl.set (fmtOf f.tyN) (floatA c f l) (floatB c f l)

theorem exec_iset (f : AForm) (s : State) : exec (.iset f) s = ivlExec 0x80 f (isetLane f) s := by
  have e : isetLane f = fun c l => if f.sub % 2 == 1 then Ivl.setRadius (fmtOf f.tyN) (floatA c f l) (floatB c f l)
      else Ivl.set (fmtOf f.tyN) (floatA c f l) (floatB c f l) := by
    funext c l
    simp only [isetLane, beq_iff_eq]
  rw [e]
  rfl

/-- What `isqrt` gives in a lane. -/
def isqrtLane (f : AForm) : IvlFn := fun c l =>
  (Ivl.sqrt (fmtOf f.tyN) (ivlA c f l).1).map (fun x => (x.1, (ivlA c f l).2 ||| x.2))

/-- What `idiv` gives in a lane. -/
def idivLane (f : AForm) : IvlFn := fun c l =>
  (Ivl.div (fmtOf f.tyN) (ivlA c f l).1 (ivlB c f l).1).map (fun x => (x.1, (ivlA c f l).2 ||| (ivlB c f l).2 ||| x.2))

theorem exec_idiv (f : AForm) (s : State) : exec (.idiv f) s = ivlExec 0x86 f (idivLane f) s := by
  show ivlBinOpt 0x86 f Ivl.div s = _
  unfold ivlBinOpt
  rfl

/-- What an operation on two operands that is never empty gives in a lane. -/
def ivlBinLane (f : AForm) (g : Ivl → Ivl → Ivl × FpFlags) : IvlFn := fun c l =>
  some ((g (ivlA c f l).1 (ivlB c f l).1).1, (ivlA c f l).2 ||| (ivlB c f l).2 ||| (g (ivlA c f l).1 (ivlB c f l).1).2)

/-- Settles O12: each instruction is a lane function that answers none where the result is empty. -/
theorem intervalOperations : Obligations.IntervalOperations := by
  unfold Obligations.IntervalOperations
  refine ⟨fun f => ⟨?iset, ?ipt, ?iadd, ?isub, ?imul, ?isqr, ?idiv, ?isqrt, ?ihull, ?iisect⟩, fun f s c hp => ⟨?isectTrap, ?sqrtTrap⟩⟩
  case iset => exact ivlExec_writes (g := isetLane f) (exec_iset f)
  case ipt => exact ivlExec_writes (g := fun c l => some (Ivl.ofPoint (fmtOf f.tyN) (floatA c f l))) (fun _ => rfl)
  case iadd => exact ivlExec_writes (g := ivlBinLane f (Ivl.add (fmtOf f.tyN))) (fun _ => rfl)
  case isub => exact ivlExec_writes (g := ivlBinLane f (Ivl.sub (fmtOf f.tyN))) (fun _ => rfl)
  case imul => exact ivlExec_writes (g := ivlBinLane f (Ivl.mul (fmtOf f.tyN))) (fun _ => rfl)
  case isqr =>
    exact ivlExec_writes (g := fun c l => some ((Ivl.sqr (fmtOf f.tyN) (ivlA c f l).1).1,
      (ivlA c f l).2 ||| (Ivl.sqr (fmtOf f.tyN) (ivlA c f l).1).2)) (fun _ => rfl)
  case idiv => exact ivlExec_writes (g := idivLane f) (exec_idiv f)
  case isqrt => exact ivlExec_writes (g := isqrtLane f) (fun _ => rfl)
  case ihull => exact ivlExec_writes (g := ivlBinLane f (fun x y => (Ivl.hull (fmtOf f.tyN) x y, flNone))) (fun _ => rfl)
  case iisect => exact ivlExec_writes (g := iisectLane f) (exec_iisect f)
  case isectTrap => exact fun hi he => ivlExec_traps (g := iisectLane f) (exec_iisect f) hp hi he
  case sqrtTrap => exact fun hi he => ivlExec_traps (g := isqrtLane f) (fun _ => rfl) hp hi he

/-! ### Parts of intervals (R361 to R363) -/

theorem taggedAt_point {c : Iss} {x : BitVec 8} (h : (c.h.vreg (vecReg x)).tag = 0) (w : Nat) (m : BitVec 12) (l : Nat) :
    taggedAt c x w m l = none := by
  unfold taggedAt
  split
  next r hr =>
    have e : vecReg x = r := by rw [vecReg, hr]
    rw [e] at h
    rw [if_pos (by simpa using h)]
  next => rfl

theorem taggedAt_tagged {c : Iss} {x : BitVec 8} {r : Nat} (hr : specKind x = .v r) (h : (c.h.vreg r).tag ≠ 0) (w : Nat)
    (m : BitVec 12) (l : Nat) : taggedAt c x w m l =
      some ⟨boundCode c r w false (modLane c.prot m l), boundCode c r w true (modLane c.prot m l)⟩ := by
  unfold taggedAt
  simp only [hr]
  rw [if_neg (by simpa using h)]

theorem iextVal_point (f : AForm) {c : Iss} (h : (c.h.vreg (vecReg f.srca)).tag = 0) (l : Nat) :
    iextVal f c l = if f.sub % 2 = 1 then (ivlA c f l).1.hi else (ivlA c f l).1.lo := by
  simp only [iextVal, taggedAt_point h, Option.getD_none, beq_iff_eq]

theorem iextVal_tagged (f : AForm) {c : Iss} {r : Nat} (hr : specKind f.srca = .v r) (h : (c.h.vreg r).tag ≠ 0) (l : Nat) :
    iextVal f c l = boundCode c r (tyRegs f.tyN) (f.sub % 2 == 1) (modLane c.prot (if f.regForm then f.moda else 0) l) := by
  simp only [iextVal, taggedAt_tagged hr h, Option.getD_some]
  cases hb : f.sub % 2 == 1 <;> simp

/-- Settles O13: each of them is a lane function. -/
theorem intervalParts : Obligations.IntervalParts := by
  unfold Obligations.IntervalParts
  intro f s c hs
  refine ⟨?imid, ?iwid, ⟨iextVal f c, fun h l => iextVal_point f h l, fun r hr h l => iextVal_tagged f hr h l, ?iext⟩, ?icmp,
    fun l => (halves (fmtOf f.tyN) (ivlA c f l).1).1, fun l => (halves (fmtOf f.tyN) (ivlA c f l).1).2,
    fun l => ⟨rfl, rfl, rfl, rfl⟩, ?isplit⟩
  case imid =>
    intro hi hm ha
    exact aluExec_writes (i := .imid f) (op := 0x8A) (f := f) (ws := fun c => [.reg f.dst (tyRegs f.tyN) (fun l => (ivlA c f l).1.mid (fmtOf f.tyN))])
      (fl := fun _ _ => 0) (fun _ => rfl) s c hs hi trivial hm ha
  case iwid =>
    intro hi hm ha
    exact aluExec_writes (i := .iwid f) (op := 0x8B) (f := f)
      (ws := fun c => [.reg f.dst (tyRegs f.tyN) (fun l => ((ivlA c f l).1.width (fmtOf f.tyN)).1)])
      (fl := fun c l => (ivlA c f l).2 ||| ((ivlA c f l).1.width (fmtOf f.tyN)).2) (fun _ => rfl) s c hs hi trivial hm ha
  case iext =>
    intro hi hm ha
    exact aluExec_writes (i := .iext f) (op := 0x8C) (f := f) (ws := fun c => [.reg f.dst (tyRegs f.tyN) (iextVal f c)])
      (fl := fun _ _ => 0) (fun _ => rfl) s c hs hi trivial hm ha
  case icmp =>
    intro hi hm ha
    exact aluExec_writes (i := .icmp f) (op := 0x8D) (f := f)
      (ws := fun c => [.pred (predReg f.dst) (fun l => Ivl.cmp (fmtOf f.tyN) f.sub (ivlA c f l).1 (ivlB c f l).1)])
      (fl := fun c l => (ivlA c f l).2 ||| (ivlB c f l).2) (fun _ => rfl) s c hs hi trivial hm ha
  case isplit =>
    intro hi hm ha
    exact aluExec_writes (i := .isplit f) (op := 0x8E) (f := f)
      (ws := fun c => [.ivl f.dst (tyRegs f.tyN) (fun l => (halves (fmtOf f.tyN) (ivlA c f l).1).1),
        .ivl f.aux (tyRegs f.tyN) (fun l => (halves (fmtOf f.tyN) (ivlA c f l).1).2)])
      (fl := fun c l => (ivlA c f l).2) (fun _ => rfl) s c hs hi trivial hm ha

end Sys2Proof.Machine
end

section
/-! PROOFS. The statement of R249 that an instruction with no lane to run in has no effect but that it issues: each register instruction
ends in `complete`, which only goes on for the empty set (`skips_of_complete`); a division then has no zero divisor and an
interval instruction no empty lane. -/

namespace Sys2Proof.Machine

/-- The issuing path with the lanes that an A-format instruction's guard leaves. -/
def Iss.guardedBy (c : Iss) (f : AForm) : Iss := { c with act := c.guarded f.gidx f.gsense }

/-- An instruction whose meaning ends in `complete` goes on when its lanes are none. -/
theorem skips_of_complete {i : Instr} {op : Nat} {f : AForm} {lanes : Iss → LaneSet} (m : Iss → LaneSet) (sh : Iss → Shape)
    (ws : Iss → List Write) (fl : Iss → FpFlags)
    (h : ∀ s, (match s.issuing with
      | none => .fault .noIssuingPath
      | some c => .next (match preA op f c with
        | .trap code info => c.trap s { code := code, info := info }
        | .wait => stall s
        | .go => complete s (c.guardedBy f) (sh c) (m c) (ws c) (fl c) f.len)) = exec i s)
    (hm : ∀ c : Iss, m c = lanes (c.guardedBy f)) : Skips i op f lanes := by
  rintro s c hs ⟨c0, hi, hp, rfl⟩ hz
  have e := h s
  rw [hi] at e
  simp only [hp, hm] at e
  have hz' : lanes (c0.guardedBy f) = 0 := hz
  rw [hz'] at e
  exact ⟨_, e.symm, complete_none hs _ _ _ _⟩

theorem divExec_skips {i : Instr} {op : Nat} {f : AForm} {val : Iss → Nat → Nat} (h : ∀ s, exec i s = divExec op f val s) :
    Skips i op f (fun c => c.lanesA op f) := by
  intro s c hs hi hm
  refine ⟨_, (h s).trans (by unfold divExec issueA; exact issueWith_go hi _), ?_⟩
  have hm' : c.execMask (aShape op (aRule c.fieldCtx op f) f).allScalar (f.gsense != 0) = 0 := hm
  have hz : zeroLanes c f 0 = 0 := by
    by_contra hne
    rw [zeroLanes_eq, ← Ne, visSet_ne_zero] at hne
    obtain ⟨l, _, hl, _⟩ := hne
    simp at hl
  dsimp only
  rw [hm', hz, if_neg (by simp)]
  exact complete_none hs _ _ _ _

theorem ivlExec_skips {i : Instr} {op : Nat} {f : AForm} {g : IvlFn} (h : ∀ s, exec i s = ivlExec op f g s) :
    Skips i op f (fun c => c.execMask false (f.gsense != 0)) := by
  intro s c hs hi hm
  refine ⟨_, (h s).trans (by unfold ivlExec issueA; exact issueWith_go hi _), ?_⟩
  have hm' : c.execMask false (f.gsense != 0) = 0 := hm
  have hz : emptyLanes c.prot 0 (g c) = 0 := by
    by_contra hne
    obtain ⟨l, _, hl, _⟩ := (emptyLanes_ne_zero _ _ _).1 hne
    simp at hl
  unfold emptyLanes at hz
  dsimp only
  rw [hm', hz, if_neg (by simp)]
  exact complete_none hs _ _ _ _

/-! ### The opcode map -/

/-- What is stated of an entry of the opcode map of the A format. -/
def SkipsNoLane (f : AForm) (x : Nat × (AForm → Instr)) : Prop :=
  (0x20 ≤ x.1 ∧ x.1 < 0x80 ∨ 0x8A ≤ x.1 ∧ x.1 ≤ 0x9E ∧ x.1 ≠ 0x8F → Skips (x.2 f) x.1 f (fun c => c.lanesA x.1 f)) ∧
  (0x80 ≤ x.1 ∧ x.1 < 0x8A → Skips (x.2 f) x.1 f (fun c => c.execMask false (f.gsense != 0)))

theorem skipsNoLane_of_lanes {f : AForm} {op : Nat} {c : AForm → Instr} (h : Skips (c f) op f (fun k => k.lanesA op f))
    (ho : ¬ (0x80 ≤ op ∧ op < 0x8A)) : SkipsNoLane f (op, c) := ⟨fun _ => h, fun e => absurd e ho⟩

theorem skipsNoLane_of_ivl {f : AForm} {op : Nat} {c : AForm → Instr} (h : Skips (c f) op f (fun k => k.execMask false (f.gsense != 0)))
    (ho : 0x80 ≤ op ∧ op < 0x8A) : SkipsNoLane f (op, c) := ⟨fun e => absurd e (by omega), fun _ => h⟩

theorem skipsNoLane_of_other {f : AForm} {op : Nat} (c : AForm → Instr) (h : op < 0x20 ∨ op = 0x8F) : SkipsNoLane f (op, c) :=
  ⟨fun e => absurd e (by simp only; omega), fun e => absurd e (by simp only; omega)⟩

theorem skipsNoLane_of_complete {f : AForm} {op : Nat} {c : AForm → Instr} {m : Iss → LaneSet} {sh : Iss → Shape}
    {ws : Iss → List Write} {fl : Iss → FpFlags} (ho : ¬ (0x80 ≤ op ∧ op < 0x8A))
    (h : ∀ s, (match s.issuing with
      | none => .fault .noIssuingPath
      | some c => .next (match preA op f c with
        | .trap code info => c.trap s { code := code, info := info }
        | .wait => stall s
        | .go => complete s (c.guardedBy f) (sh c) (m c) (ws c) (fl c) f.len)) = exec (c f) s)
    (hm : ∀ c : Iss, m c = (c.guardedBy f).lanesA op f) : SkipsNoLane f (op, c) :=
  skipsNoLane_of_lanes (skips_of_complete (lanes := fun k => k.lanesA op f) m sh ws fl h hm) ho

theorem noLane_aOpcodes0 (f : AForm) : ∀ x ∈ aOpcodes0, SkipsNoLane f x := by
  unfold aOpcodes0
  repeat first
    | exact fun _ h => absurd h List.not_mem_nil
    | refine List.forall_mem_cons.2 ⟨skipsNoLane_of_other _ (by decide), ?_⟩
    | refine List.forall_mem_cons.2 ⟨skipsNoLane_of_complete (by decide) (fun _ => rfl) (fun _ => rfl), ?_⟩

theorem noLane_div (f : AForm) : SkipsNoLane f (0x2B, .div) :=
  skipsNoLane_of_lanes (divExec_skips (val := divVal f) (fun _ => rfl)) (by decide)

theorem noLane_rem (f : AForm) : SkipsNoLane f (0x2C, .rem) :=
  skipsNoLane_of_lanes (divExec_skips (val := remVal f) (fun _ => rfl)) (by decide)

theorem noLane_aOpcodes1 (f : AForm) : ∀ x ∈ aOpcodes1, SkipsNoLane f x := by
  unfold aOpcodes1
  refine List.forall_mem_cons.2 ⟨skipsNoLane_of_complete (by decide) (fun _ => rfl) (fun _ => rfl), ?_⟩
  refine List.forall_mem_cons.2 ⟨noLane_div f, List.forall_mem_cons.2 ⟨noLane_rem f, ?_⟩⟩
  repeat first
    | exact fun _ h => absurd h List.not_mem_nil
    | refine List.forall_mem_cons.2 ⟨skipsNoLane_of_complete (by decide) (fun _ => rfl) (fun _ => rfl), ?_⟩

theorem noLane_aOpcodes2 (f : AForm) : ∀ x ∈ aOpcodes2, SkipsNoLane f x := by
  unfold aOpcodes2
  repeat first
    | exact fun _ h => absurd h List.not_mem_nil
    | refine List.forall_mem_cons.2 ⟨skipsNoLane_of_complete (by decide) (fun _ => rfl) (fun _ => rfl), ?_⟩

theorem noLane_iset (f : AForm) : SkipsNoLane f (0x80, .iset) :=
  skipsNoLane_of_ivl (ivlExec_skips (exec_iset f)) (by decide)

theorem noLane_ipt (f : AForm) : SkipsNoLane f (0x81, .ipt) :=
  skipsNoLane_of_ivl (ivlExec_skips (g := fun c l => some (Ivl.ofPoint (fmtOf f.tyN) (floatA c f l))) (fun _ => rfl)) (by decide)

theorem noLane_iadd (f : AForm) : SkipsNoLane f (0x82, .iadd) :=
  skipsNoLane_of_ivl (ivlExec_skips (g := ivlBinLane f (Ivl.add (fmtOf f.tyN))) (fun _ => rfl)) (by decide)

theorem noLane_isub (f : AForm) : SkipsNoLane f (0x83, .isub) :=
  skipsNoLane_of_ivl (ivlExec_skips (g := ivlBinLane f (Ivl.sub (fmtOf f.tyN))) (fun _ => rfl)) (by decide)

theorem noLane_imul (f : AForm) : SkipsNoLane f (0x84, .imul) :=
  skipsNoLane_of_ivl (ivlExec_skips (g := ivlBinLane f (Ivl.mul (fmtOf f.tyN))) (fun _ => rfl)) (by decide)

theorem noLane_isqr (f : AForm) : SkipsNoLane f (0x85, .isqr) :=
  skipsNoLane_of_ivl (ivlExec_skips (g := fun c l => some ((Ivl.sqr (fmtOf f.tyN) (ivlA c f l).1).1,
    (ivlA c f l).2 ||| (Ivl.sqr (fmtOf f.tyN) (ivlA c f l).1).2)) (fun _ => rfl)) (by decide)

theorem noLane_idiv (f : AForm) : SkipsNoLane f (0x86, .idiv) :=
  skipsNoLane_of_ivl (ivlExec_skips (exec_idiv f)) (by decide)

theorem noLane_isqrt (f : AForm) : SkipsNoLane f (0x87, .isqrt) :=
  skipsNoLane_of_ivl (ivlExec_skips (g := isqrtLane f) (fun _ => rfl)) (by decide)

theorem noLane_ihull (f : AForm) : SkipsNoLane f (0x88, .ihull) :=
  skipsNoLane_of_ivl (ivlExec_skips (g := ivlBinLane f (fun x y => (Ivl.hull (fmtOf f.tyN) x y, flNone))) (fun _ => rfl)) (by decide)

theorem noLane_iisect (f : AForm) : SkipsNoLane f (0x89, .iisect) :=
  skipsNoLane_of_ivl (ivlExec_skips (exec_iisect f)) (by decide)

theorem noLane_intervals (f : AForm) : ∀ x ∈ [(0x80, Instr.iset), (0x81, .ipt), (0x82, .iadd), (0x83, .isub), (0x84, .imul),
    (0x85, .isqr), (0x86, .idiv), (0x87, .isqrt), (0x88, .ihull), (0x89, .iisect)], SkipsNoLane f x := by
  simp only [List.forall_mem_cons]
  exact ⟨noLane_iset f, noLane_ipt f, noLane_iadd f, noLane_isub f, noLane_imul f, noLane_isqr f, noLane_idiv f, noLane_isqrt f,
    noLane_ihull f, noLane_iisect f, fun _ h => absurd h List.not_mem_nil⟩

theorem noLane_aOpcodes3 (f : AForm) : ∀ x ∈ aOpcodes3, SkipsNoLane f x := by
  unfold aOpcodes3
  repeat first
    | exact noLane_intervals f
    | refine List.forall_mem_cons.2 ⟨skipsNoLane_of_complete (by decide) (fun _ => rfl) (fun _ => rfl), ?_⟩

theorem noLane_aOpcodes4 (f : AForm) : ∀ x ∈ aOpcodes4, SkipsNoLane f x := by
  unfold aOpcodes4
  repeat first
    | exact fun _ h => absurd h List.not_mem_nil
    | refine List.forall_mem_cons.2 ⟨skipsNoLane_of_other _ (by decide), ?_⟩
    | refine List.forall_mem_cons.2 ⟨skipsNoLane_of_complete (by decide) (fun _ => rfl) (fun _ => rfl), ?_⟩

/-- Settles O16: an instruction that runs in no lane goes on, proved opcode group by opcode group. -/
theorem noLaneNoEffect : Obligations.NoLaneNoEffect := by
  unfold Obligations.NoLaneNoEffect
  intro f x hx
  simp only [aOpcodes, List.mem_append] at hx
  obtain (((h | h) | h) | h) | h := hx
  · exact noLane_aOpcodes0 f x h
  · exact noLane_aOpcodes1 f x h
  · exact noLane_aOpcodes2 f x h
  · exact noLane_aOpcodes3 f x h
  · exact noLane_aOpcodes4 f x h

end Sys2Proof.Machine
end

section
/-! PROOFS. The statements of `nop`, `pad`, `prio` and `yield`, and of branches that take or leave a whole path: `branchTo` falls
through where no side has a lane (`branchTo_none`), and moves the path where one side has all of its mask (`branchTo_whole`). -/

namespace Sys2Proof.Machine

/-- An instruction whose meaning is an effect after its checks answers that effect where it issues. -/
theorem answers_of_issues {i : Instr} {pre : Iss → Pre} {g : BitVec 3} {gs : BitVec 2} {s : State} {c : Iss} {P : State → Prop}
    (eff : Iss → State → State) (hi : IssuesWith pre g gs s c) (he : exec i s = issueWith pre g gs eff s) (hp : P (eff c s)) :
    Answers i s P := ⟨_, he.trans (issueWith_go hi eff), hp⟩

/-! ### `nop`, `pad`, `prio` and `yield` -/

theorem nop_passes {s : State} {c : Iss} (hs : s.Settled) (hi : s.issuing = some c) (len : InstrLen) :
    Answers (.nop len 0) s (fun t => Passed s t c len.bytes) := by
  have h : IssuesWith (fun _ => .go) 0 0 s { c with act := c.guarded 0 0 } := ⟨c, hi, rfl, rfl⟩
  exact answers_of_issues (fun c s => finish (retire s c.inst c.slot c.p.pc len.bytes)) h rfl (passed_of hs c len.bytes)

theorem updHatch_id (s : State) (i : Nat) : s.updHatch i id = s := by
  simp [State.updHatch, updWhere]

theorem updHatch_setPrio_updPath (s : State) (i slot n : Nat) (q : Path → Path) :
    (s.updHatch i (setPrio n slot)).updPath i slot q = s.updPath i slot (fun p => q { p with prio := n }) := by
  unfold State.updPath
  rw [updHatch_updHatch _ _ _ _ (fun h e => by unfold setPrio; rw [Hatch.setPath_inst, e])]
  congr 1
  funext h
  simp only [Function.comp, setPrio, Hatch.setPath_path?, Hatch.setPath_setPath, Option.map_map]
  rfl

theorem hatch?_updPath (s : State) (i slot : Nat) (q : Path → Path) :
    (s.updPath i slot q).hatch? i = (s.hatch? i).map (fun h => h.setPath slot ((h.path? slot).map q)) :=
  hatch?_updHatch s i _ (fun h e => by rw [Hatch.setPath_inst, e])

/-- The path of a slot after a change to it. -/
theorem path_updPath (s : State) (i slot : Nat) (q : Path → Path) :
    ((s.updPath i slot q).hatch? i).bind (fun h => h.path? slot) = ((s.hatch? i).bind (fun h => h.path? slot)).map q := by
  rw [hatch?_updPath]
  cases s.hatch? i <;> simp [Hatch.setPath_path?]

/-- A path of a hatch after it has issued is there still. -/
theorem path_retire {s : State} {c : Iss} (hh : s.hatch? c.inst = some c.h) (hp : c.h.path? c.slot = some c.p) (pc len : Nat) :
    ∃ p, ((retire s c.inst c.slot pc len).hatch? c.inst).bind (fun h => h.path? c.slot) = some p := by
  unfold retire
  rw [(noteIssue_spec _ _ _).2, path_updPath, hh]
  exact ⟨_, by simp only [Option.bind_some, hp, Option.map_some]; rfl⟩

theorem retire_near (s : State) (inst slot pc len : Nat) :
    Near (s.updPath inst slot (fun p => p.arrive (wrap64 (pc + len)))) (retire s inst slot pc len) :=
  (noteIssue_spec _ _ _).1

/-- Settles O17: each of the four issues and changes its own path only. -/
theorem plainControl : Obligations.PlainControl := by
  unfold Obligations.PlainControl
  intro s c hs
  refine ⟨fun len hi => nop_passes hs hi len, fun f hi => ?pad, fun f hi => ?prio, fun f hi => ?yield⟩
  case pad =>
    refine answers_of_issues (fun c s => moveOn c s f.len id) hi rfl ?_
    unfold moveOn
    rw [updHatch_id]
    exact passed_of hs c f.len
  case prio =>
    refine answers_of_issues (fun c s => moveOn c s f.len (setPrio (f.aux.toNat % 8) c.slot)) hi rfl ?_
    unfold moveOn retire
    rw [updHatch_setPrio_updPath]
    exact issued_of (s := s.updPath c.inst c.slot _) hs c.inst c.slot
  case yield =>
    refine answers_of_issues (fun c s => finish ((retire s c.inst c.slot c.p.pc f.len).updPath c.inst c.slot
      (fun p => { p with wait := .yield (retire s c.inst c.slot c.p.pc f.len).clock 0 }))) hi rfl ?_
    have n := retire_near s c.inst c.slot c.p.pc f.len
    have n2 := near_updPath (retire s c.inst c.slot c.p.pc f.len) c.inst c.slot
      (fun p => { p with wait := .yield (retire s c.inst c.slot c.p.pc f.len).clock 0 }) (fun _ => rfl)
    have hc : (retire s c.inst c.slot c.p.pc f.len).clock = s.clock := by
      have := congrArg State.clock n.1
      exact this
    have hset := (n.trans n2).settled (s := s.updPath c.inst c.slot _) hs
    rw [finish_settled hset]
    refine ⟨(n.trans n2).1, (n.trans n2).2, ?_⟩
    obtain ⟨p, hp⟩ := path_retire (issues_hatch hi) (issues_path hi) c.p.pc f.len
    have e := path_updPath (retire s c.inst c.slot c.p.pc f.len) c.inst c.slot
      (fun p => { p with wait := .yield (retire s c.inst c.slot c.p.pc f.len).clock 0 })
    rw [hp, hc] at e
    show Option.bind (State.hatch? (State.updPath _ _ _ _) _) _ = _
    rw [hc]
    generalize State.hatch? (State.updPath _ _ _ _) _ = o at e ⊢
    cases o with
    | none => cases e
    | some h =>
      simp only [Option.bind_some, Option.map_some] at e ⊢
      rw [e]; rfl

/-! ### Branches of a whole path -/

/-- A branch with no side that has a lane falls through (R297). -/
theorem branchTo_none {s : State} (hs : s.Settled) (c : Iss) (len : Nat) (misuse : Bool) (link : Option (BitVec 8))
    {sides : List Side} (h : sides.filter (fun x => x.lanes != 0) = []) : Passed s (branchTo c s len misuse link sides) c len := by
  unfold branchTo
  simp only [h, List.isEmpty_nil, if_true]
  exact passed_of hs c len

theorem branchPieces_whole {p : Path} {x : Side} (h : x.lanes = p.mask) (pc len : Nat) :
    ∃ d, branchPieces p pc len [x] = [⟨d, x.lanes, x.target, x.loops⟩] := by
  unfold branchPieces
  simp [h]

/-- A branch one of whose sides has every lane of the mask moves the path there (R297). -/
theorem branchTo_whole {s : State} (hs : s.Settled) {c : Iss} (len : Nat) (link : Option (BitVec 8)) {sides : List Side} {x : Side}
    (h : sides.filter (fun x => x.lanes != 0) = [x]) (hx : x.lanes = c.p.mask) :
    Advanced s (branchTo c s len false link sides) c (writeLink c len link (c.h, { c.p with pc := x.target, loops := x.loops })).1
      (writeLink c len link (c.h, { c.p with pc := x.target, loops := x.loops })).2 := by
  obtain ⟨d, hd⟩ := branchPieces_whole hx c.p.pc len
  unfold branchTo
  simp only [h, List.isEmpty_cons, hd, Bool.false_eq_true, if_false]
  exact issued_of (s := s.updHatch c.inst _) hs c.inst c.slot

theorem sides_cons_pos {x : Side} (h : x.lanes ≠ 0) (r : List Side) :
    (x :: r).filter (fun x => x.lanes != 0) = x :: r.filter (fun x => x.lanes != 0) :=
  List.filter_cons_of_pos (by simpa using h)

theorem sides_cons_zero {x : Side} (h : x.lanes = 0) (r : List Side) :
    (x :: r).filter (fun x => x.lanes != 0) = r.filter (fun x => x.lanes != 0) :=
  List.filter_cons_of_neg (by simpa using h)

/-- A branch of one side and no link, taken by the whole path. -/
theorem branchTo_went {s : State} (hs : s.Settled) {c : Iss} (len target : Nat) (hm : c.act = c.p.mask) (h0 : c.act ≠ 0) :
    Advanced s (branchTo c s len false none [relSide c c.act target false]) c c.h
      { c.p with pc := target, loops := unwind c.p.pc target c.p.loops } :=
  branchTo_whole hs len none (sides_cons_pos h0 []) hm

/-- A branch of one side that writes the link. -/
theorem branchTo_linked {s : State} (hs : s.Settled) {c : Iss} (len target : Nat) (d : BitVec 8) (hm : c.act = c.p.mask)
    (h0 : c.act ≠ 0) :
    Advanced s (branchTo c s len false (some d) [relSide c c.act target true]) c
      (applyWrite c.prot 1 (c.h, { c.p with pc := target }) (.reg d 2 (fun _ => wrap64 (c.p.pc + len)))).1
      (applyWrite c.prot 1 (c.h, { c.p with pc := target }) (.reg d 2 (fun _ => wrap64 (c.p.pc + len)))).2 :=
  branchTo_whole hs len (some d) (sides_cons_pos h0 []) hm

/-- `jmpi` and `calli` of a whole path branch once the block at the target has been fetched and holds its `pad`. -/
theorem indirect_branches {s s' : State} {c : Iss} {f : BForm} {bs : List Byte} (link : Option (BitVec 8))
    (hb : fetchBlock s c.h { c.p with pc := c.sval f.srca 2 } = (s', .bytes bs)) (ha : c.sval f.srca 2 % 4 = 0)
    (hp : padInfo bs (c.sval f.srca 2 % 32) f.off.toNat = none) (h0 : c.act ≠ 0) :
    indirect c s f link = branchTo c s' f.len false link [relSide c c.act (c.sval f.srca 2) link.isSome] := by
  unfold indirect
  simp only [beq_iff_eq, h0, if_false, ha, hb, hp, bne_self_eq_false, Bool.false_eq_true]

/-- The branches of the B format. -/
theorem wholeBranches_b (s : State) (c : Iss) (f : BForm) (hs : s.Settled) :
    let went := fun (pc : Nat) (t : State) => Advanced s t c c.h { c.p with pc := pc, loops := unwind c.p.pc pc c.p.loops }
    (IssuesB 0x01 f s c → (c.act = 0 → Answers (.bra f) s (fun t => Passed s t c f.len)) ∧
      (c.act = c.p.mask → c.act ≠ 0 → Answers (.bra f) s (went (relTarget c.p.pc f.off)))) ∧
    (IssuesB 0x02 f s c → (c.act = 0 → Answers (.bru f) s (fun t => Passed s t c f.len)) ∧
      (c.act ≠ 0 → Answers (.bru f) s (fun t => Issued (s.updPath c.inst c.slot (fun p =>
        { p with pc := relTarget c.p.pc f.off, loops := unwind c.p.pc (relTarget c.p.pc f.off) c.p.loops })) t c.inst c.slot))) ∧
    (IssuesB 0x03 f s c → c.act = c.p.mask → c.act ≠ 0 →
      (lanesWith c (predReg f.srca) .t = c.act → lanesWith c (predReg f.srca) .u = 0 →
        Answers (.brt f) s (went (relTarget c.p.pc f.off21.toInt))) ∧
      (lanesWith c (predReg f.srca) .u = c.act → lanesWith c (predReg f.srca) .t = 0 →
        Answers (.brt f) s (went (relTarget c.p.pc f.ext.toInt))) ∧
      (lanesWith c (predReg f.srca) .u = 0 → lanesWith c (predReg f.srca) .t = 0 →
        Answers (.brt f) s (fun t => Passed s t c f.len))) := by
  intro went
  refine ⟨fun hi => ?bra, fun hi => ?bru, fun hi hm h0 => ?brt⟩
  case bra =>
    have go : ∀ P : State → Prop, P (branchTo c s f.len false none [relSide c c.act (relTarget c.p.pc f.off) false]) →
        Answers (.bra f) s P := fun P h => answers_of_issues (fun c s =>
      branchTo c s f.len false none [relSide c c.act (relTarget c.p.pc f.off) false]) hi rfl h
    exact ⟨fun h0 => go _ (branchTo_none hs c f.len false none (sides_cons_zero h0 [])),
      fun hm h0 => go _ (branchTo_went hs f.len _ hm h0)⟩
  case bru =>
    have go := fun P => answers_of_issues (i := .bru f) (P := P) (fun c s =>
      if c.act == 0 then finish (retire s c.inst c.slot c.p.pc f.len)
      else finish (noteIssue (s.updPath c.inst c.slot (fun p =>
        { p with pc := relTarget c.p.pc f.off, loops := unwind c.p.pc (relTarget c.p.pc f.off) c.p.loops })) c.inst c.slot)) hi rfl
    refine ⟨fun h0 => go _ ?_, fun h0 => go _ ?_⟩
    · rw [if_pos (by simpa using h0)]; exact passed_of hs c f.len
    · rw [if_neg (by simpa using h0)]; exact issued_of (s := s.updPath c.inst c.slot _) hs c.inst c.slot
  case brt =>
    have go : ∀ P : State → Prop, P (branchTo c s f.len false none
        [relSide c (lanesWith c (predReg f.srca) .t) (relTarget c.p.pc f.off21.toInt) false,
          relSide c (lanesWith c (predReg f.srca) .u) (relTarget c.p.pc f.ext.toInt) false]) → Answers (.brt f) s P :=
      fun P h => answers_of_issues (fun c s => branchTo c s f.len false none
        [relSide c (lanesWith c (predReg f.srca) .t) (relTarget c.p.pc f.off21.toInt) false,
          relSide c (lanesWith c (predReg f.srca) .u) (relTarget c.p.pc f.ext.toInt) false]) hi rfl h
    refine ⟨fun ht hu => go _ ?_, fun hu ht => go _ ?_, fun hu ht => go _ ?_⟩
    · exact branchTo_whole hs f.len none (x := relSide c _ _ false)
        ((sides_cons_pos (by rwa [relSide, ht]) _).trans (by rw [sides_cons_zero (by rwa [relSide])]; rfl)) (ht.trans hm)
    · exact branchTo_whole hs f.len none (x := relSide c _ _ false)
        ((sides_cons_zero (by rwa [relSide]) _).trans (sides_cons_pos (by rwa [relSide, hu]) [])) (hu.trans hm)
    · exact branchTo_none hs c f.len false none ((sides_cons_zero (by rwa [relSide]) _).trans (sides_cons_zero (by rwa [relSide]) []))

/-- `ret` goes to an aligned address, and traps for another (R297, R298). -/
theorem ret_branches (s : State) (c : Iss) (f : AForm) (hs : s.Settled) (hi : IssuesA 0x05 f s c) :
    (c.act = 0 → Answers (.ret f) s (fun t => Passed s t c f.len)) ∧
    (c.act = c.p.mask → c.act ≠ 0 → c.sval f.srca 2 % 4 = 0 → Answers (.ret f) s (fun t =>
      Advanced s t c c.h { c.p with pc := c.sval f.srca 2, loops := unwind c.p.pc (c.sval f.srca 2) c.p.loops })) ∧
    (c.act ≠ 0 → c.sval f.srca 2 % 4 ≠ 0 → Answers (.ret f) s (fun t =>
      t = finish (takeTrap s c.inst c.slot c.p.pc { code := 0x0F, info := 0, addr := c.sval f.srca 2, mask := 0 }))) := by
  have go := fun P => answers_of_issues (i := .ret f) (P := P) (fun c s =>
    if c.act != 0 && c.sval f.srca 2 % 4 != 0 then c.trap s { code := tcAlign, addr := c.sval f.srca 2 }
    else branchTo c s f.len false none [relSide c c.act (c.sval f.srca 2) false]) hi rfl
  refine ⟨fun h0 => go _ ?_, fun hm h0 ha => go _ ?_, fun h0 ha => go _ ?_⟩
  · rw [if_neg (by simp [h0])]
    exact branchTo_none hs c f.len false none (sides_cons_zero h0 [])
  · rw [if_neg (by simp [ha])]
    exact branchTo_went hs f.len _ hm h0
  · rw [if_pos (by simpa [ha] using h0)]
    rfl

/-- Settles O18: each branch is `branchTo` with its lanes, and a whole path takes one side of it. -/
theorem wholeBranches : Obligations.WholeBranches := by
  unfold Obligations.WholeBranches
  refine ⟨fun s c f hs => ?b, fun s c f hs hi => ret_branches s c f hs hi⟩
  case b =>
    obtain ⟨hbra, hbru, hbrt⟩ := wholeBranches_b s c f hs
    refine ⟨hbra, hbru, fun hi hm h0 => ?call, hbrt, fun s' bs hb hs' ha hp hm h0 => ⟨fun hi => ?jmpi, fun hi => ?calli⟩⟩
    case call =>
      exact answers_of_issues (fun c s => branchTo c s f.len false (some f.dst) [relSide c c.act (relTarget c.p.pc f.off) true])
        hi rfl (branchTo_linked hs f.len _ f.dst hm h0)
    case jmpi =>
      refine answers_of_issues (fun c s => indirect c s f none) hi rfl ?_
      rw [indirect_branches none hb ha hp h0]
      exact branchTo_went hs' f.len _ hm h0
    case calli =>
      refine answers_of_issues (fun c s => indirect c s f (some f.dst)) hi rfl ?_
      rw [indirect_branches (some f.dst) hb ha hp h0]
      exact branchTo_linked hs' f.len _ f.dst hm h0

end Sys2Proof.Machine
end

section
/-! PROOFS. The statement of a branch that splits its path, and of the loop instructions. What the split leaves of the issuing
hatch is one hatch (`Iss.splitHatch`), which `noteIssue` changes in the marks of issue choice only. -/

namespace Sys2Proof.Machine

/-! ### Reading a hatch through the marks of issue choice -/

/-- A hatch of a state is there, but for the marks of issue choice, in every state with the same stills. -/
theorem hatch_of_stills {s t : State} {i : Nat} {h : Hatch} (e : t.stills = s.stills) (hh : s.hatch? i = some h) :
    ∃ k, t.hatch? i = some k ∧ k.still = h.still := by
  have hc := hatch?_still_congr e i
  rw [hh] at hc
  cases ht : t.hatch? i with
  | none => rw [ht] at hc; cases hc
  | some k => rw [ht] at hc; exact ⟨k, rfl, Option.some.inj hc⟩

/-- A path of a hatch is there, but for the marks of issue choice, in every hatch with the same still. -/
theorem path_of_still {h k : Hatch} {slot : Nat} {p : Path} (e : k.still = h.still) (hp : h.path? slot = some p) :
    ∃ q, k.path? slot = some q ∧ q.still = p.still := by
  have hc : (k.path? slot).map Path.still = (h.path? slot).map Path.still := by
    rw [← Hatch.path?_still, ← Hatch.path?_still, e]
  rw [hp] at hc
  cases ht : k.path? slot with
  | none => rw [ht] at hc; cases hc
  | some q => rw [ht] at hc; exact ⟨q, rfl, Option.some.inj hc⟩

theorem path?_setPath_ne {h : Hatch} {a b : Nat} (p : Option Path) (e : (a == 0) ≠ (b == 0)) :
    (h.setPath a p).path? b = h.path? b := by
  unfold Hatch.setPath Hatch.path?
  split <;> split <;> simp_all

/-! ### The area operations of a split -/

theorem getHatch_run {s : State} {i : Nat} {h : Hatch} (hh : s.hatch? i = some h) : (getHatch i).run s = .ok h s := by
  show getHatch i s = _
  unfold getHatch
  rw [hh]

/-- A record that finds room in the on-chip cache changes that only (R168). -/
theorem splitPut_run {s : State} {i : Nat} {h : Hatch} {r : SplitRec} (hh : s.hatch? i = some h)
    (hr : (h.splits.filter (fun x => x.idx != r.idx)).length < 8) :
    (splitPut i r).run s = .ok () (s.updHatch i (fun k => { k with splits := h.splits.filter (fun x => x.idx != r.idx) ++ [r] })) := by
  unfold splitPut
  rw [EStateM.run_bind, getHatch_run hh]
  dsimp only
  rw [if_pos hr]
  rfl

/-- A hatch with an entry of its split table in use, and its record in the cache. -/
def Hatch.withSplit (h : Hatch) (r : SplitRec) : Hatch :=
  { h with
    splitUsed := h.splitUsed ||| bit64 r.idx
    splitHandler := if r.handler then h.splitHandler ||| bit64 r.idx else h.splitHandler
    splits := h.splits.filter (fun x => x.idx != r.idx) ++ [r] }

/-- Two changes of a hatch that is known are one replacement. -/
theorem updHatch_known {s : State} {i : Nat} {h : Hatch} (f : Hatch → Hatch) :
    s.hatch? i = some h → (∀ k, k.inst = i → (f k).inst = i) → (s.updHatch i f).hatch? i = some (f h) := by
  intro hh hf
  rw [hatch?_updHatch _ _ _ hf, hh]
  rfl

theorem splitAlloc_run {s : State} {i : Nat} {h : Hatch} {r : SplitRec} (hh : s.hatch? i = some h)
    (hr : (h.splits.filter (fun x => x.idx != r.idx)).length < 8) :
    ∃ u, (splitAlloc i r).run s = .ok () u ∧ u.hatch? i = some (h.withSplit r) ∧ u.mem = s.mem ∧ u.sched = s.sched := by
  have h1 : (s.updHatch i (fun k => { k with
      splitUsed := k.splitUsed ||| bit64 r.idx
      splitHandler := if r.handler then k.splitHandler ||| bit64 r.idx else k.splitHandler })).hatch? i = some _ :=
    updHatch_known _ hh (fun _ e => e)
  refine ⟨_, (splitPut_run (r := r) h1 hr), ?_, rfl, rfl⟩
  exact updHatch_known _ h1 (fun _ e => e)

/-! ### A branch that splits its path -/

/-- The split record of a branch (R168). -/
def Iss.splitRec (c : Iss) (s : State) (idx : Nat) : SplitRec := ⟨idx, c.p.domain, c.p.domain, c.p.split, c.p.prio, c.p.handler, s.clock⟩

/-- The issuing hatch after a split into two pieces, with its record. -/
def Iss.splitHatch (c : Iss) (s : State) (idx : Nat) (x y : Piece) : Hatch :=
  ((c.h.setPath c.slot (some (x.path c.p idx))).setPath (1 - c.slot) (some (y.path c.p idx))).withSplit (c.splitRec s idx)

theorem Hatch.setPath_splits (h : Hatch) (k : Nat) (p : Option Path) : (h.setPath k p).splits = h.splits := by
  unfold Hatch.setPath; split <;> rfl

theorem splitPath_two {s : State} {c : Iss} {idx len : Nat} {x y : Piece} (hh : s.hatch? c.inst = some c.h)
    (ho : c.h.path? (1 - c.slot) = none) (hr : (c.h.splits.filter (fun r => r.idx != idx)).length < 8) :
    (splitPath c s len idx none [x, y]).hatch? c.inst = some (c.splitHatch s idx x y) ∧
      (splitPath c s len idx none [x, y]).mem = s.mem ∧ (splitPath c s len idx none [x, y]).sched = s.sched := by
  have h1 : (s.updHatch c.inst (fun _ => c.h.setPath c.slot (some (x.path c.p idx)))).hatch? c.inst = some _ :=
    updHatch_known _ hh (fun _ _ => (Hatch.setPath_inst _ _ _).trans rfl)
  have h2 := updHatch_known (fun h => h.setPath (1 - c.slot) (some (y.path c.p idx))) h1
    (fun _ e => (Hatch.setPath_inst _ _ _).trans e)
  obtain ⟨u, hu, hk, hm, hsc⟩ := splitAlloc_run (r := c.splitRec s idx) h2 (by rw [Hatch.setPath_splits, Hatch.setPath_splits]; exact hr)
  have e : splitPath c s len idx none [x, y] = u := by
    unfold splitPath withArea
    simp only [ho, Option.isNone_none, if_true, writeLink, List.drop_succ_cons, List.drop_zero]
    have : (do splitAlloc c.inst (c.splitRec s idx); ([] : List Piece).forM (fun y => divPush c.inst c.prot (y.path c.p idx)) :
        AreaM Unit).run ((s.updHatch c.inst (fun _ => c.h.setPath c.slot (some (x.path c.p idx)))).updHatch c.inst
          (fun h => h.setPath (1 - c.slot) (some (y.path c.p idx)))) = .ok () u := by
      rw [EStateM.run_bind, hu]; rfl
    exact (congrArg (fun r => match r with
      | EStateM.Result.ok _ s => s
      | .error (code, pa) s => areaFault s c.inst c.p.pc code pa) this)
  rw [e]
  exact ⟨hk, hm, hsc⟩

/-- The pieces of a branch that some lanes of the mask take. -/
theorem branchPieces_some (p : Path) (pc len : Nat) {x : Side} (h : p.mask &&& ~~~x.lanes ≠ 0) :
    branchPieces p pc len [x] = [⟨x.lanes, x.lanes, x.target, x.loops⟩,
      ⟨(p.mask &&& ~~~x.lanes) ||| (p.domain &&& ~~~p.mask), p.mask &&& ~~~x.lanes, (endCheck (wrap64 (pc + len)) p.loops).2,
        (endCheck (wrap64 (pc + len)) p.loops).1⟩] := by
  have h' : ((p.mask &&& ~~~(0 ||| x.lanes)) == 0) = false := by simpa using h
  unfold branchPieces
  simp only [List.foldl_cons, List.foldl_nil, List.zipIdx_cons, List.zipIdx_nil, List.map_cons, List.map_nil, h']
  simp

/-- A branch of one side that some lanes of the mask take, with room for the split. -/
theorem branchTo_splits {s : State} {c : Iss} {len idx : Nat} {x : Side} (h0 : x.lanes ≠ 0) (hf : c.p.mask &&& ~~~x.lanes ≠ 0)
    (hps : c.h.pstack = []) (ho : c.h.path? (1 - c.slot) = none) (hi : splitFree c.h = some idx) (hd : c.h.divDepth ≤ 64) :
    branchTo c s len false none [x] = finish (noteIssue (splitPath c s len idx none
      [⟨x.lanes, x.lanes, x.target, x.loops⟩,
      ⟨(c.p.mask &&& ~~~x.lanes) ||| (c.p.domain &&& ~~~c.p.mask), c.p.mask &&& ~~~x.lanes,
        (endCheck (wrap64 (c.p.pc + len)) c.p.loops).2, (endCheck (wrap64 (c.p.pc + len)) c.p.loops).1⟩]) c.inst c.slot) := by
  have hn : ¬ 64 < c.h.divDepth + pushNeed [] := by show ¬ 64 < c.h.divDepth + 0; omega
  unfold branchTo
  simp only [sides_cons_pos h0 [], List.filter_nil, List.isEmpty_cons, Bool.false_eq_true, if_false,
    branchPieces_some c.p c.p.pc len hf, hps, List.isEmpty_nil, Bool.not_true, ho, Option.isNone_none, if_true,
    List.drop_succ_cons, List.drop_zero, hi, hn]

theorem splitHatch_regs (c : Iss) (s : State) (idx : Nat) (x y : Piece) :
    (c.splitHatch s idx x y).v = c.h.v ∧ (c.splitHatch s idx x y).s = c.h.s ∧ (c.splitHatch s idx x y).p = c.h.p := by
  unfold Iss.splitHatch Hatch.withSplit Hatch.setPath
  split <;> split <;> exact ⟨rfl, rfl, rfl⟩

theorem splitHatch_moved {c : Iss} (s : State) (idx : Nat) (x y : Piece) (h : c.slot < 2) :
    (c.splitHatch s idx x y).path? c.slot = some (x.path c.p idx) := by
  have e : (1 - c.slot == 0) ≠ (c.slot == 0) := by
    obtain e | e : c.slot = 0 ∨ c.slot = 1 := by omega
    all_goals rw [e]; decide
  exact (path?_setPath_ne _ e).trans (Hatch.setPath_path? _ _ _)

theorem splitHatch_stayed (c : Iss) (s : State) (idx : Nat) (x y : Piece) :
    (c.splitHatch s idx x y).path? (1 - c.slot) = some (y.path c.p idx) := Hatch.setPath_path? _ _ _

theorem splitRec_mem (c : Iss) (s : State) (idx : Nat) (x y : Piece) :
    c.splitRec s idx ∈ (c.splitHatch s idx x y).splits := List.mem_append_right _ (List.mem_singleton.2 rfl)

/-- The path of a piece, read through the marks of issue choice. -/
theorem piece_of_still {q : Path} {x : Piece} {p : Path} {idx : Nat} (h : q.still = (x.path p idx).still) :
    q.pc = x.pc ∧ q.mask = x.mask ∧ q.domain = x.domain ∧ q.split = some idx :=
  ⟨congrArg Path.pc h, congrArg Path.mask h, congrArg Path.domain h, congrArg Path.split h⟩

theorem finish_noteIssue_spec {u : State} (hu : u.Settled) (inst slot : Nat) :
    (finish (noteIssue u inst slot)).stills = u.stills ∧ (finish (noteIssue u inst slot)).mem = u.mem := by
  have i := issued_of hu inst slot
  have := congrArg State.mem i.rest
  exact ⟨i.hatches, this⟩

/-- A branch that some lanes take and some do not (R167, R297). -/
theorem bra_splits (s : State) (c : Iss) (f : BForm) (idx : Nat) (hs : s.Settled) (hi : IssuesB 0x01 f s c) (h0 : c.act ≠ 0)
    (hf : c.p.mask &&& ~~~c.act ≠ 0) (hps : c.h.pstack = []) (ho : c.h.path? (1 - c.slot) = none) (hsl : c.slot < 2)
    (hfree : splitFree c.h = some idx) (hd : c.h.divDepth ≤ 64) (hr : (c.h.splits.filter (fun r => r.idx != idx)).length < 8) :
    Answers (.bra f) s (fun t => ∃ h moved stayed, t.hatch? c.inst = some h ∧
      h.path? c.slot = some moved ∧ h.path? (1 - c.slot) = some stayed ∧
      moved.pc = relTarget c.p.pc f.off ∧ moved.mask = c.act ∧ moved.domain = c.act ∧ moved.split = some idx ∧
      stayed.pc = (endCheck (wrap64 (c.p.pc + f.len)) c.p.loops).2 ∧ stayed.mask = c.p.mask &&& ~~~c.act ∧
      stayed.domain = (c.p.mask &&& ~~~c.act) ||| (c.p.domain &&& ~~~c.p.mask) ∧ stayed.split = some idx ∧
      (∃ r ∈ h.splits, r.idx = idx ∧ r.outstanding = c.p.domain ∧ r.domain = c.p.domain ∧ r.parent = c.p.split) ∧
      h.v = c.h.v ∧ h.s = c.h.s ∧ h.p = c.h.p ∧ t.mem = s.mem) := by
  refine answers_of_issues (fun c s => branchTo c s f.len false none [relSide c c.act (relTarget c.p.pc f.off) false]) hi rfl ?_
  have e := branchTo_splits (s := s) (len := f.len) (x := relSide c c.act (relTarget c.p.pc f.off) false) h0 hf hps ho hfree hd
  dsimp only [relSide] at e
  dsimp only [relSide]
  rw [e]
  generalize hx : Piece.mk c.act c.act _ _ = x
  generalize hy : Piece.mk ((c.p.mask &&& ~~~c.act) ||| _) _ _ _ = y
  obtain ⟨hk, hm, hsc⟩ := splitPath_two (len := f.len) (x := x) (y := y) (issues_hatch hi) ho hr
  have hset : (splitPath c s f.len idx none [x, y]).Settled := by unfold State.Settled; rw [hsc]; exact hs
  obtain ⟨hst, hme⟩ := finish_noteIssue_spec hset c.inst c.slot
  obtain ⟨k, hk1, hk2⟩ := hatch_of_stills hst hk
  obtain ⟨q1, hq1, hs1⟩ := path_of_still hk2 (splitHatch_moved s idx x y hsl)
  obtain ⟨q2, hq2, hs2⟩ := path_of_still hk2 (splitHatch_stayed c s idx x y)
  obtain ⟨a1, a2, a3, a4⟩ := piece_of_still hs1
  obtain ⟨b1, b2, b3, b4⟩ := piece_of_still hs2
  obtain ⟨v1, v2, v3⟩ := splitHatch_regs c s idx x y
  have hsp : k.splits = (c.splitHatch s idx x y).splits := by
    have := congrArg Hatch.splits hk2
    exact this
  subst hx hy
  refine ⟨k, q1, q2, hk1, hq1, hq2, a1, a2, a3, a4, b1, b2, b3, b4,
    ⟨c.splitRec s idx, by rw [hsp]; exact splitRec_mem c s idx _ _, rfl, rfl, rfl, rfl⟩, ?_, ?_, ?_, hme.trans hm⟩
  · rw [← v1]; have := congrArg Hatch.v hk2; exact this
  · rw [← v2]; have := congrArg Hatch.s hk2; exact this
  · rw [← v3]; have := congrArg Hatch.p hk2; exact this

/-! ### Loops -/

/-- Whether a loop's end lies beyond the end of the body that it is in (R300). -/
def beyondBody (ls : List LoopEntry) (e : Nat) : Bool :=
  match ls with
  | [] => false
  | t :: _ => decide (t.start + t.len < e)

theorem beyondBody_false {ls : List LoopEntry} {e : Nat} (h : ∀ x r, ls = x :: r → e ≤ x.start + x.len) : beyondBody ls e = false := by
  cases ls with
  | nil => rfl
  | cons x r => simpa [beyondBody] using h x r rfl

/-- The effect of `loop` (R300). -/
def loopEffect (f : BForm) (c : Iss) (s : State) : State :=
  if beyondBody c.p.loops (relTarget c.p.pc f.off) then c.trap s { code := tcLoopMisuse }
  else if 4 ≤ c.p.loops.length then c.trap s { code := tcLoopOverflow }
  else if c.sval f.srca 1 == 0 then
    finish (noteIssue (s.updPath c.inst c.slot (fun p => p.arrive (relTarget c.p.pc f.off))) c.inst c.slot)
  else finish (noteIssue (s.updPath c.inst c.slot (fun p =>
    { p with
      pc := wrap64 (c.p.pc + f.len)
      loops := ⟨wrap64 (c.p.pc + f.len), relTarget c.p.pc f.off - wrap64 (c.p.pc + f.len), c.sval f.srca 1⟩ :: p.loops }))
      c.inst c.slot)

theorem exec_loop (f : BForm) (s : State) : exec (.loop f) s = issueWith (preB 0x0C f) f.gidx f.gsense (loopEffect f) s := rfl

theorem updPath_if (s : State) (i k : Nat) (b : Prop) [Decidable b] (f g : Path → Path) :
    s.updPath i k (fun p => if b then f p else g p) = if b then s.updPath i k f else s.updPath i k g := by
  split <;> rfl

/-- `brk` out of a body that the stack holds, and `cont`, move the whole path (R302, R303). -/
theorem branchTo_loop {s : State} (hs : s.Settled) {c : Iss} (len : Nat) (x : LoopEntry) (rest : List LoopEntry)
    (hm : c.act = c.p.mask) (h0 : c.act ≠ 0) :
    Advanced s (branchTo c s len false none [loopSide c.act (some x) rest]) c c.h { c.p with
      pc := (endCheck (wrap64 (x.start + x.len)) rest).2
      loops := (endCheck (wrap64 (x.start + x.len)) rest).1 } :=
  branchTo_whole hs len none (x := loopSide c.act (some x) rest) (sides_cons_pos h0 []) hm

/-- Settles O19: `bra` by the law of a split, and the loop instructions by the loop stack that they leave. -/
theorem splitsAndLoops : Obligations.SplitsAndLoops := by
  unfold Obligations.SplitsAndLoops
  refine ⟨bra_splits, fun s c f hs => ⟨fun hi hb hl => ?enter, fun hi hb hl => ?full, fun hi hm h0 x hx hn => ?brk,
    fun hi hm h0 x r hx => ?cont⟩⟩
  case enter =>
    refine answers_of_issues (loopEffect f) hi (exec_loop f s) ?_
    unfold loopEffect
    rw [if_neg (by rw [beyondBody_false hb]; decide), if_neg (by omega), updPath_if]
    by_cases hc : c.sval f.srca 1 = 0
    · rw [if_pos hc, if_pos (by simpa using hc)]
      exact issued_of (s := s.updPath c.inst c.slot _) hs c.inst c.slot
    · rw [if_neg hc, if_neg (by simpa using hc)]
      exact issued_of (s := s.updPath c.inst c.slot _) hs c.inst c.slot
  case full =>
    refine answers_of_issues (loopEffect f) hi (exec_loop f s) ?_
    unfold loopEffect
    rw [if_neg (by rw [beyondBody_false hb]; decide), if_pos hl]
    rfl
  case brk =>
    refine answers_of_issues (fun c s => branchTo c s f.len (decide (c.p.loops.length < f.off.toNat)) none
      [loopSide c.act (c.p.loops[f.off.toNat - 1]?) (c.p.loops.drop f.off.toNat)]) hi rfl ?_
    dsimp only
    rw [decide_eq_false (by omega), hx]
    exact branchTo_loop hs f.len x _ hm h0
  case cont =>
    refine answers_of_issues (fun c s => branchTo c s f.len c.p.loops.isEmpty none [loopSide c.act c.p.loops.head? c.p.loops])
      hi rfl ?_
    dsimp only
    rw [hx]
    exact branchTo_loop hs f.len x _ hm h0

end Sys2Proof.Machine
end

section
/-! PROOFS. What the operations of memory leave alone: translations, reads and writes at a home, publications and the devices'
accesses change memory, the copies of it, what is asked for and what paths wait for, and nothing else (`MemKeeps`). -/

namespace Sys2Proof.Machine

/-- A core without its copies of memory. -/
def Core.calm (k : Core) : Core := { k with l1 := [], tlb := [], releases := [] }

/-- All of a state that no operation of memory touches, but for the hatches and the messages on their way. -/
def State.calm (s : State) : State :=
  { s with
    mem := [], slices := [], poison := [], ecc1 := [], slicePoison := [], ms := MemSide.reset, coh := Coh.reset
    tr := { Trans.reset with walks := s.tr.walks, shoots := s.tr.shoots, ctxs := s.tr.ctxs }
    out := [], hatches := [], net := [], parked := [], wants := []
    cores := s.cores.map Core.calm
    ops := s.ops.map (fun o => { o with prog := 0 })
    sched := { s.sched with raised := [] } }

/-- State t is state s after operations of memory: no more than the waits of paths differs in a hatch, and no message but one of the
coherence protocol has been withdrawn. Memory keeps its form. -/
structure MemKeeps (s t : State) : Prop where
  calm : t.calm = s.calm
  stills : t.stills = s.stills
  net : ∀ e ∈ s.net, cohMessage e.what = false → e ∈ t.net
  form : s.MemOk → t.MemOk

theorem MemKeeps.refl (s : State) : MemKeeps s s := ⟨rfl, rfl, fun _ h _ => h, id⟩

theorem MemKeeps.trans {s t u : State} (h : MemKeeps s t) (g : MemKeeps t u) : MemKeeps s u :=
  ⟨g.calm.trans h.calm, g.stills.trans h.stills, fun e he hc => g.net e (h.net e he hc) hc, fun m => g.form (h.form m)⟩

/-- The same, with the last change first. -/
theorem MemKeeps.after {s t u : State} (g : MemKeeps t u) (h : MemKeeps s t) : MemKeeps s u := h.trans g

theorem memKeeps_foldl {α : Type} (f : State → α → State) (hf : ∀ s a, MemKeeps s (f s a)) (xs : List α) (s : State) :
    MemKeeps s (xs.foldl f s) := by
  induction xs generalizing s with
  | nil => exact MemKeeps.refl s
  | cons a r ih => exact (hf s a).trans (ih (f s a))

theorem memKeeps_ite {p : Prop} [Decidable p] {s a b : State} (ha : MemKeeps s a) (hb : MemKeeps s b) :
    MemKeeps s (if p then a else b) := by split <;> assumption

/-! ### The parts of a state -/

theorem memKeeps_updCoh (s : State) (f : Coh → Coh) : MemKeeps s (updCoh s f) := ⟨rfl, rfl, fun _ h _ => h, id⟩
theorem memKeeps_setAgent (s : State) (a : Agent) : MemKeeps s (setAgent s a) := memKeeps_updCoh s _
theorem memKeeps_setDir (s : State) (e : DirEntry) : MemKeeps s (setDir s e) := ⟨rfl, rfl, fun _ h _ => h, id⟩
theorem memKeeps_setChan (s : State) (c : Nat) (ch : Channel) : MemKeeps s (s.setChan c ch) := ⟨rfl, rfl, fun _ h _ => h, id⟩
theorem memKeeps_emit (s : State) (m : OutMsg) : MemKeeps s (s.emit m) := ⟨rfl, rfl, fun _ h _ => h, id⟩

theorem memKeeps_post (s : State) (i : Instr) (a : Arg) : MemKeeps s (s.post i a) :=
  ⟨rfl, rfl, fun _ h _ => List.mem_append_left _ h, id⟩

theorem memKeeps_want (s : State) (w : Want) : MemKeeps s (s.want w) := by
  unfold State.want
  exact memKeeps_ite (MemKeeps.refl s) ⟨rfl, rfl, fun _ h _ => h, id⟩

theorem memKeeps_updCore {f : Core → Core} (hf : ∀ k, (f k).calm = k.calm) (s : State) (c : Nat) : MemKeeps s (s.updCore c f) := by
  refine ⟨?_, rfl, fun _ h _ => h, id⟩
  have := map_set_same Core.calm Core.reset (f (s.core c)) c s.cores (hf _)
  simp only [State.calm, State.updCore, this]

theorem memKeeps_updOp {f : Op → Op} (hf : ∀ o, { f o with prog := 0 } = { o with prog := 0 }) (s : State) (i : Nat) :
    MemKeeps s (s.updOp i f) := by
  refine ⟨?_, rfl, fun _ h _ => h, id⟩
  have : (s.updOp i f).ops.map (fun o => { o with prog := 0 }) = s.ops.map (fun o => { o with prog := 0 }) := by
    simp only [State.updOp, updWhere, List.map_map]
    refine List.map_congr_left (fun o _ => ?_)
    simp only [Function.comp]
    split
    · exact hf o
    · rfl
  simp only [State.calm, this]
  rfl

theorem Path.still_wakeIf (hit : Bool → Nat → Bool) (p : Path) : (p.wakeIf hit).still = p.still := by
  unfold Path.wakeIf
  split
  · split <;> rfl
  · split <;> rfl
  · rfl

theorem memKeeps_wakePaths (s : State) (who : Hatch → Bool) (hit : Bool → Nat → Bool) : MemKeeps s (wakePaths s who hit) := by
  refine ⟨rfl, stills_updWhere s _ _ (fun h => ?_), fun _ h _ => h, id⟩
  simp only [Hatch.still, Option.map_map]
  congr 1
  · cases h.slot0 <;> simp [Path.still_wakeIf]
  · cases h.slot1 <;> simp [Path.still_wakeIf]

theorem memKeeps_wakeLine (s : State) (line : Nat) : MemKeeps s (wakeLine s line) := memKeeps_wakePaths s _ _

theorem memKeeps_raiseTriggers (s : State) (line : Nat) (old new : List Byte) (mask : BitVec 128) (depth : Nat) (src : Option Raiser) :
    MemKeeps s (raiseTriggers s line old new mask depth src) := ⟨rfl, rfl, fun _ h _ => h, id⟩

/-! ### Writes at a home -/

theorem memKeeps_homeSetPoison (s : State) (line : Nat) (p : BitVec 4) : MemKeeps s (homeSetPoison s line p) := by
  unfold homeSetPoison
  split
  · exact MemKeeps.refl s
  · split <;> exact ⟨rfl, rfl, fun _ h _ => h, id⟩

theorem memKeeps_cleanSectors (s : State) (line k : Nat) (qs : List Nat) : MemKeeps s (cleanSectors s line k qs) := by
  unfold cleanSectors
  split <;> exact ⟨rfl, rfl, fun _ h _ => h, id⟩

theorem memKeeps_homeWriteMask (s : State) (line : Nat) (bs : List Byte) (m : BitVec 128) : MemKeeps s (homeWriteMask s line bs m) := by
  unfold homeWriteMask
  split
  · exact MemKeeps.refl s
  · rename_i k _
    have h := memKeeps_cleanSectors s line k ((List.range 4).filter (fun q => (List.range 32).all (fun i => m.getLsbD (32 * q + i))))
    exact memKeeps_ite (h.trans ⟨rfl, rfl, fun _ h _ => h, id⟩) (h.trans ⟨rfl, rfl, fun _ h _ => h, fun w => cellFold_wf _ _ _ _ w⟩)

theorem memKeeps_homeCommit (s : State) (line : Nat) (bs : List Byte) (m : BitVec 128) (trig : Option (Nat × Option Raiser))
    (quiet : BitVec 128) : MemKeeps s (homeCommit s line bs m trig quiet) := by
  have h := (memKeeps_homeWriteMask s line bs m).trans (memKeeps_wakeLine _ line)
  unfold homeCommit
  cases trig with
  | none => exact h
  | some x => exact h.trans (memKeeps_raiseTriggers _ _ _ _ _ _ _)

theorem memKeeps_pointWrite (s : State) (d line : Nat) (bs : List Byte) (m : BitVec 128) (depth : Nat) (src : Option Raiser)
    (quiet : BitVec 128) : MemKeeps s (pointWrite s d line bs m depth src quiet) := by
  unfold pointWrite
  split
  · exact memKeeps_homeCommit _ _ _ _ _ _
  · split
    · exact memKeeps_homeCommit _ _ _ _ _ _
    · exact .after (memKeeps_wakeLine _ _) (.after (memKeeps_setAgent _ _)
        (memKeeps_ite (memKeeps_raiseTriggers _ _ _ _ _ _ _) (MemKeeps.refl s)))

/-! ### Publications (R76, R77) -/

theorem memKeeps_quitList (s : State) (c line : Nat) : MemKeeps s (quitList s c line) :=
  memKeeps_ite (memKeeps_setDir s _) (MemKeeps.refl s)

theorem memKeeps_leaveReleases (s : State) (c line : Nat) : MemKeeps s (leaveReleases s c line) := by
  unfold leaveReleases
  refine memKeeps_ite (MemKeeps.refl s) ?_
  exact .after (memKeeps_foldl _ (fun s (r : Release) => memKeeps_quitList s c r.line) _ _)
    (memKeeps_updCore (by intro; rfl) s c)

theorem memKeeps_dropLine (s : State) (c line : Nat) : MemKeeps s (s.updCore c (fun k => k.dropLine line)) :=
  memKeeps_updCore (by intro; rfl) s c

theorem memKeeps_publishBytes (s : State) (c line : Nat) : MemKeeps s (publishBytes s c line) := by
  unfold publishBytes
  split
  · exact MemKeeps.refl s
  · refine memKeeps_ite (MemKeeps.refl s) ?_
    exact .after (memKeeps_foldl _ (fun s o => memKeeps_ite (memKeeps_dropLine s o line) (MemKeeps.refl s)) _ _)
      (.after (memKeeps_leaveReleases _ c line) (.after (memKeeps_updCore (by intro; rfl) _ c)
        (memKeeps_pointWrite _ _ _ _ _ _ _ _)))

theorem memKeeps_drainFor (s : State) (c line : Nat) : MemKeeps s (drainFor s c line) := by
  unfold drainFor
  exact .after (memKeeps_updCore (by intro; rfl) _ c) (memKeeps_foldl _ (fun s x => memKeeps_publishBytes s c x) _ s)

theorem memKeeps_publishRaw (s : State) (c line : Nat) : MemKeeps s (publishRaw s c line) :=
  .after (memKeeps_publishBytes _ c line) (memKeeps_ite (memKeeps_drainFor s c line) (MemKeeps.refl s))

theorem memKeeps_forcePublish (s : State) (c line : Nat) : MemKeeps s (forcePublish s c line) := by
  unfold forcePublish
  split
  · exact MemKeeps.refl s
  · exact memKeeps_ite (MemKeeps.refl s) (.after (memKeeps_publishRaw _ c line)
      (.after (memKeeps_ite (memKeeps_updCoh _ _) (MemKeeps.refl _)) (memKeeps_updCoh s _)))

theorem memKeeps_drainCore (s : State) (c : Nat) : MemKeeps s (drainCore s c) := by
  have h := memKeeps_foldl (fun s x => publishBytes s c x) (fun s x => memKeeps_publishBytes s c x) (dirtyLines s c) s
  exact .after (memKeeps_foldl _ (fun s (r : Release) => memKeeps_quitList s c r.line) _ _)
    (memKeeps_ite h (.after (memKeeps_updCore (by intro; rfl) _ c) h))

theorem memKeeps_dropCopies (s : State) (ds : List Nat) (line : Nat) : MemKeeps s (dropCopies s ds line) :=
  memKeeps_foldl _ (fun s c => memKeeps_ite (memKeeps_dropLine s c line) (MemKeeps.refl s)) _ s

theorem memKeeps_publishDie (s : State) (ds : List Nat) (line : Nat) : MemKeeps s (publishDie s ds line) :=
  memKeeps_foldl _ (fun s c => memKeeps_publishRaw s c line) _ s

theorem memKeeps_mergeDie (s : State) (ds : List Nat) (line : Nat) : MemKeeps s (mergeDie s ds line) :=
  .after (memKeeps_foldl _ (fun s c => memKeeps_dropLine s c line) _ _) (.after (memKeeps_publishDie _ ds line)
    (memKeeps_ite (MemKeeps.refl s) (memKeeps_updCoh s _)))

theorem memKeeps_settleDie (s : State) (ds : List Nat) (line : Nat) : MemKeeps s (settleDie s ds line) :=
  memKeeps_ite (memKeeps_mergeDie s ds line) (memKeeps_publishDie s ds line)

theorem memKeeps_forceDie (s : State) (ds : List Nat) (line : Nat) : MemKeeps s (forceDie s ds line) :=
  .after (memKeeps_ite (memKeeps_mergeDie _ ds line) (MemKeeps.refl _))
    (memKeeps_foldl _ (fun s c => memKeeps_forcePublish s c line) _ s)

theorem memKeeps_acquireAfar (s : State) (line : Nat) : MemKeeps s (acquireAfar s line) :=
  memKeeps_ite (memKeeps_updCoh s _) (memKeeps_ite (memKeeps_want s _) (MemKeeps.refl s))

theorem memKeeps_publishHere (s : State) (line : Nat) : MemKeeps s (publishHere s line) :=
  .after (memKeeps_foldl _ (fun s ds => memKeeps_forceDie s ds line) _ _)
    (.after (memKeeps_ite (MemKeeps.refl _) (memKeeps_setDir _ _))
      (memKeeps_foldl _ (fun s (x : Nat × Nat) => memKeeps_drainFor s x.2 line) _ s))

theorem memKeeps_acquireLine (s : State) (line : Nat) : MemKeeps s (acquireLine s line) :=
  (memKeeps_publishHere s line).trans (memKeeps_acquireAfar _ line)

/-! ### Taking a line for its home (R91) -/

/-- What a filter of the messages takes away besides messages of the coherence protocol is nothing. -/
theorem memKeeps_dropMessages (s : State) (line : Nat) : MemKeeps s { s with
    net := s.net.filter (fun e => !(cohMessage e.what && e.arg.line == line))
    parked := s.parked.filter (fun e => !(cohMessage e.what && e.arg.line == line)) } :=
  ⟨rfl, rfl, fun e he hc => List.mem_filter.2 ⟨he, by simp [hc]⟩, id⟩

theorem memKeeps_overtake (s : State) (line : Nat) : MemKeeps s (overtake s line) :=
  .after (memKeeps_foldl _ (fun s (_ : Who × CohReq) => memKeeps_post s _ _) _ _) (memKeeps_dropMessages s line)

theorem memKeeps_mergeHolders (s : State) (line : Nat) : MemKeeps s (mergeHolders s line) :=
  memKeeps_foldl _ (fun s ds => (memKeeps_settleDie s ds line).trans (memKeeps_dropCopies _ ds line)) _ s

theorem memKeeps_acceptData (s : State) (line : Nat) (d : LineData) : MemKeeps s (acceptData s line d) :=
  (memKeeps_homeCommit s line d.bytes _ _ d.quiet).trans (memKeeps_homeSetPoison _ line d.poison)

theorem memKeeps_collectLine (s : State) (line : Nat) : MemKeeps s (collectLine s line) := by
  have h : MemKeeps (overtake s line) (match dirtyAgent (overtake s line) line with
      | none => overtake s line
      | some a => acceptData (overtake s line) line a.data) := by
    split
    · exact MemKeeps.refl _
    · exact memKeeps_acceptData _ line _
  exact .after (memKeeps_setDir _ _) (.after (memKeeps_updCoh _ _) (h.after (memKeeps_overtake s line)))

theorem memKeeps_takeLine (s : State) (line : Nat) : MemKeeps s (takeLine s line) :=
  .after (memKeeps_ite (MemKeeps.refl _) (memKeeps_ite (memKeeps_ite (MemKeeps.refl _) (memKeeps_want _ _))
    (memKeeps_ite (memKeeps_want _ _) (memKeeps_collectLine _ line)))) (memKeeps_mergeHolders s line)

theorem memKeeps_agentWrite (s : State) (a : Agent) (off : Nat) (bs : List Byte) (trig : Option (Nat × Option Raiser)) :
    MemKeeps s (agentWrite s a off bs trig) := by
  unfold agentWrite
  refine .after (memKeeps_wakeLine _ _) (.after (memKeeps_setAgent _ _) ?_)
  cases trig with
  | none => exact MemKeeps.refl s
  | some x => exact memKeeps_ite (memKeeps_raiseTriggers _ _ _ _ _ _ _) (MemKeeps.refl s)

theorem memKeeps_pokePa (s : State) (pa : Nat) (bs : List Byte) (trig : Option (Nat × Option Raiser)) :
    MemKeeps s (pokePa s pa bs trig) := by
  refine .after (t := takeLine s (lineOf pa)) (memKeeps_ite (memKeeps_updCoh _ _) (memKeeps_ite (memKeeps_homeCommit _ _ _ _ _ _) ?_))
    (memKeeps_takeLine s _)
  split
  · exact memKeeps_agentWrite _ _ _ _ _
  · exact .after (memKeeps_homeCommit _ _ _ _ _ _) (memKeeps_want _ _)

/-! ### Reads and channels -/

theorem memKeeps_windowHit (s : State) (off : Nat) : MemKeeps s (windowHit s off) := by
  unfold windowHit
  split
  · exact MemKeeps.refl s
  · split
    · exact MemKeeps.refl s
    · exact ⟨rfl, rfl, fun _ h _ => h, id⟩

theorem memKeeps_chanFill (s : State) (line : Nat) (sectors : BitVec 4) : MemKeeps s (chanFill s line sectors) := by
  unfold chanFill
  split
  · exact MemKeeps.refl s
  · dsimp only
    split
    · exact memKeeps_setChan s _ _
    · exact .after (memKeeps_setChan _ _ _) (memKeeps_ite ⟨rfl, rfl, fun _ h _ => h, id⟩ (MemKeeps.refl s))

theorem memKeeps_chanHit (s : State) (line : Nat) (sectors : BitVec 4) : MemKeeps s (chanHit s line sectors) := by
  unfold chanHit
  split
  · exact MemKeeps.refl s
  · exact memKeeps_ite (memKeeps_setChan s _ _) (memKeeps_ite (MemKeeps.refl s)
      (.after (memKeeps_windowHit _ _) (memKeeps_chanFill s line sectors)))

theorem memKeeps_chanRead (s : State) (line : Nat) (sectors : BitVec 4) : MemKeeps s (chanRead s line sectors) :=
  memKeeps_ite (MemKeeps.refl s) (memKeeps_ite (memKeeps_chanHit s line sectors) (memKeeps_want s _))

theorem memKeeps_coherentRead (s : State) (pa n : Nat) : MemKeeps s (coherentRead s pa n).1 :=
  .after (memKeeps_ite (MemKeeps.refl _) (memKeeps_chanRead _ _ _)) (memKeeps_ite (MemKeeps.refl s) (memKeeps_want s _))

/-! ### Translation (R63 to R67) -/

theorem memKeeps_readPte (s : State) (pa : Nat) : MemKeeps s (readPte s pa).1 := memKeeps_coherentRead s pa 8

theorem memKeeps_walkLevels (s : State) (va n level table : Nat) (tr : List (Nat × Nat)) :
    MemKeeps s (walkLevels s va n level table tr).1 := by
  induction n generalizing s level table tr with
  | zero => exact MemKeeps.refl s
  | succ n ih =>
    unfold walkLevels
    have h := memKeeps_readPte s (table + 8 * vaIndex va level)
    dsimp only
    repeat' split
    all_goals first
      | exact MemKeeps.refl s
      | exact h
      | exact h.trans (ih _ _ _ _)

theorem memKeeps_walkFor (s : State) (die ctx va : Nat) : MemKeeps s (walkFor s die ctx va).1 := by
  unfold walkFor
  dsimp only
  repeat' split
  all_goals exact (memKeeps_walkLevels s va _ _ _ []).trans ⟨rfl, rfl, fun _ h _ => h, id⟩

theorem memKeeps_addFrozen (s : State) (pa n : Nat) : MemKeeps s (addFrozen s pa n) :=
  memKeeps_ite (MemKeeps.refl s) ⟨rfl, rfl, fun _ h _ => h, id⟩

theorem memKeeps_l1TlbFill (s : State) (c va : Nat) (e : TlbEntry) : MemKeeps s (l1TlbFill s c va e) :=
  memKeeps_updCore (by intro; rfl) s c

theorem memKeeps_routerTlbFill (s : State) (c va : Nat) (e : TlbEntry) : MemKeeps s (routerTlbFill s c va e) :=
  ⟨rfl, rfl, fun _ h _ => h, id⟩

theorem memKeeps_setAD (s : State) (a pte : Nat) (store frozen : Bool) : MemKeeps s (setAD s a pte store frozen).1 := by
  have h : ∀ (b : Bool) (bs : List Byte) (n m : Nat),
      MemKeeps s (if b then (s, n) else (pokePa s a bs none, m)).1 := by
    intro b bs n m
    cases b
    · exact memKeeps_pokePa s a bs none
    · exact MemKeeps.refl s
  exact h _ _ _ _

theorem memKeeps_walkFill (s : State) (c ctx va : Nat) (kern : Bool) (k : AccKind) : MemKeeps s (walkFill s c ctx va kern k).1 := by
  have h := memKeeps_walkFor s (coreDie c) ctx va
  unfold walkFill
  dsimp only
  split
  · exact h
  · exact h
  · split
    · dsimp only
      split
      · exact h
      · exact .after (memKeeps_setAD _ _ _ _ _) h
    · exact .after (memKeeps_routerTlbFill _ c va _) (.after (memKeeps_l1TlbFill _ c va _) (.after
        (memKeeps_ite (memKeeps_addFrozen _ _ _) (memKeeps_ite (memKeeps_addFrozen _ _ _) (MemKeeps.refl _)))
        (.after (memKeeps_setAD _ _ _ _ _) h)))

theorem memKeeps_translateNow (s : State) (c ctx : Nat) (kern : Bool) (k : AccKind) (va : Nat) :
    MemKeeps s (translateNow s c ctx kern k va).1 := by
  unfold translateNow
  split
  · exact MemKeeps.refl s
  · dsimp only
    split
    · split
      · exact memKeeps_walkFill _ _ _ _ _ _
      · exact memKeeps_l1TlbFill _ _ _ _
    · exact memKeeps_walkFill _ _ _ _ _ _

theorem memKeeps_translate (s : State) (c ctx : Nat) (kern : Bool) (k : AccKind) (va : Nat) :
    MemKeeps s (translate s c ctx kern k va).1 := by
  unfold translate
  dsimp only
  split
  · exact memKeeps_translateNow _ _ _ _ _ _
  · split
    · exact ⟨rfl, rfl, fun _ h _ => h, id⟩
    · exact .after (memKeeps_translateNow _ _ _ _ _ _) (memKeeps_want s _)

/-! ### Accesses through a context (R125) -/

theorem memKeeps_freshMt4 (s : State) (core line : Nat) : MemKeeps s (freshMt4 s core line).1 := by
  unfold freshMt4
  split
  · exact memKeeps_updOp (by intro; rfl) s _
  · exact memKeeps_want s _

theorem memKeeps_domainRead (s : State) (core pa n mt : Nat) : MemKeeps s (domainRead s core pa n mt).1 := by
  unfold domainRead
  dsimp only
  repeat' split
  · exact MemKeeps.refl s
  · exact memKeeps_freshMt4 s core _
  · exact .after (memKeeps_coherentRead _ _ _) (memKeeps_acquireLine s _)

theorem memKeeps_domainWrite (s : State) (pa mt : Nat) (bs : List Byte) : MemKeeps s (domainWrite s pa mt bs) :=
  memKeeps_ite (memKeeps_emit s _) (memKeeps_pokePa s pa bs none)

/-- The state that an access leaves, whether it ends or faults. -/
def AreaM.left {α : Type} (m : AreaM α) (s : State) : State :=
  match m.run s with
  | .ok _ t => t
  | .error _ t => t

/-- An access to memory is an operation of memory, whether it ends or faults. -/
def AreaM.Keeps {α : Type} (m : AreaM α) : Prop := ∀ s, MemKeeps s (m.left s)

theorem left_of_ok {α : Type} {m : AreaM α} {s t : State} {a : α} (h : m.run s = .ok a t) : m.left s = t := by
  unfold AreaM.left; rw [h]

theorem left_of_error {α : Type} {m : AreaM α} {s t : State} {e : Nat × Nat} (h : m.run s = .error e t) : m.left s = t := by
  unfold AreaM.left; rw [h]

theorem AreaM.Keeps.bind {α β : Type} {m : AreaM α} {f : α → AreaM β} (hm : m.Keeps) (hf : ∀ a, (f a).Keeps) : (m >>= f).Keeps := by
  intro s
  have h := hm s
  cases e : m.run s with
  | ok a t =>
    rw [left_of_ok e] at h
    have g := hf a t
    have : (m >>= f).left s = (f a).left t := by
      unfold AreaM.left
      rw [EStateM.run_bind, e]
    rw [this]
    exact h.trans g
  | error a t =>
    have : (m >>= f).run s = .error a t := by rw [EStateM.run_bind, e]
    rw [left_of_error this]
    rwa [left_of_error e] at h

theorem AreaM.Keeps.pure {α : Type} (a : α) : (Pure.pure a : AreaM α).Keeps := fun s => MemKeeps.refl s

theorem keeps_get : (get : AreaM State).Keeps := fun s => MemKeeps.refl s

theorem keeps_throw {α : Type} (e : Nat × Nat) : (throw e : AreaM α).Keeps := fun s => MemKeeps.refl s

theorem keeps_modify {f : State → State} (hf : ∀ s, MemKeeps s (f s)) : (modify f : AreaM Unit).Keeps := fun s => hf s

theorem keeps_devXlate (c ctx : Nat) (k : AccKind) (va : Nat) : (devXlate c ctx k va).Keeps := by
  intro s
  have h := memKeeps_translate s c ctx (ctxKernel s ctx) k va
  have hr : (devXlate c ctx k va).run s = devXlate c ctx k va s := rfl
  unfold AreaM.left
  rw [hr]
  unfold devXlate
  rcases e : translate s c ctx (ctxKernel s ctx) k va with ⟨t, r⟩
  rw [e] at h
  cases r <;> exact h

/-- The part of a read after its translation. -/
def devReadAt (c n : Nat) (x : Nat × Nat) : AreaM (List Byte) := fun s =>
  if (domainRead s c x.1 n x.2).2.2 then .error (tcPoison, x.1) (domainRead s c x.1 n x.2).1
  else .ok (domainRead s c x.1 n x.2).2.1 (domainRead s c x.1 n x.2).1

theorem devReadPiece_eq (c ctx va n : Nat) : devReadPiece c ctx va n = devXlate c ctx .load va >>= devReadAt c n := by
  unfold devReadPiece
  refine bind_congr (fun x => funext (fun s => ?_))
  obtain ⟨pa, mt⟩ := x
  show (match domainRead s c pa n mt with
    | (t, bs, p) => (if p then throw (tcPoison, pa) else pure bs : AreaM (List Byte)) t) = _
  unfold devReadAt
  rcases domainRead s c pa n mt with ⟨t, bs, p⟩
  cases p <;> rfl

theorem keeps_devReadAt (c n : Nat) (x : Nat × Nat) : (devReadAt c n x).Keeps := by
  intro s
  have h := memKeeps_domainRead s c x.1 n x.2
  have hr : (devReadAt c n x).run s = if (domainRead s c x.1 n x.2).2.2 then .error (tcPoison, x.1) (domainRead s c x.1 n x.2).1
    else .ok (domainRead s c x.1 n x.2).2.1 (domainRead s c x.1 n x.2).1 := rfl
  cases e : (domainRead s c x.1 n x.2).2.2 <;> rw [e] at hr
  · rw [left_of_ok hr]; exact h
  · rw [left_of_error hr]; exact h

theorem keeps_devReadPiece (c ctx va n : Nat) : (devReadPiece c ctx va n).Keeps := by
  rw [devReadPiece_eq]
  exact (keeps_devXlate c ctx .load va).bind (keeps_devReadAt c n)

theorem keeps_devWritePiece (c ctx va : Nat) (bs : List Byte) : (devWritePiece c ctx va bs).Keeps :=
  (keeps_devXlate c ctx .store va).bind (fun x => keeps_modify (fun s => memKeeps_domainWrite s x.1 x.2 bs))

theorem keeps_devReadPieces (c ctx : Nat) (ps : List (Nat × Nat × Nat)) : (devReadPieces c ctx ps).Keeps := by
  induction ps with
  | nil => exact .pure _
  | cons p r ih => exact (keeps_devReadPiece c ctx _ _).bind (fun x => ih.bind (fun y => .pure _))

theorem keeps_devRead (c ctx va n : Nat) : (devRead c ctx va n).Keeps := keeps_devReadPieces c ctx _

theorem keeps_devWritePieces (c ctx : Nat) (bs : List Byte) (ps : List (Nat × Nat × Nat)) : (devWritePieces c ctx bs ps).Keeps := by
  induction ps with
  | nil => exact .pure _
  | cons p r ih => exact (keeps_devWritePiece c ctx _ _).bind (fun _ => ih)

theorem keeps_devWrite (c ctx va : Nat) (bs : List Byte) : (devWrite c ctx va bs).Keeps := keeps_devWritePieces c ctx bs _

/-! ### Accesses to a hatch's area -/

theorem keeps_getHatch (i : Nat) : (getHatch i).Keeps := by
  intro s
  have hr : (getHatch i).run s = getHatch i s := rfl
  unfold AreaM.left
  rw [hr]
  unfold getHatch
  cases s.hatch? i <;> exact MemKeeps.refl s

theorem keeps_areaRead (i off n : Nat) : (areaRead i off n).Keeps :=
  (keeps_getHatch i).bind (fun _ => keeps_get.bind (fun _ => keeps_devRead _ _ _ _))

theorem keeps_areaWrite (i off : Nat) (bs : List Byte) : (areaWrite i off bs).Keeps :=
  (keeps_getHatch i).bind (fun _ => keeps_get.bind (fun _ => keeps_devWrite _ _ _ _))

end Sys2Proof.Machine
end

section
/-! PROOFS. The statement of trap entry and of both returns. A return's last act replaces the hatch, so that what it leaves in it
does not depend on the reads and writes of the frame before (`AreaM.Ends`). -/

namespace Sys2Proof.Machine

/-! ### Taking a trap (R170, R173) -/

/-- The hatch in its handler. -/
def Hatch.inHandler (k : Hatch) (entry : Nat) (domain : LaneSet) (r : TrapReport) : Hatch :=
  { k with
    slot0 := some (Path.start entry domain 0 true), slot1 := none, pstack := [], handler := true, dstackHandler := 0
    trapcode := r.code, trapinfo := r.info, trapaddr := r.addr, trapmask := r.mask }

theorem startHandler_run (inst entry : Nat) (domain : LaneSet) (r : TrapReport) (s : State) :
    (startHandler inst entry domain r).run s =
      .ok () (({ s with dry := s.dry.filter (fun x => x.hatch != inst) } : State).updHatch inst (fun h => h.inHandler entry domain r)) := rfl

theorem fatal_iff (r : TrapReport) : (r.code == tcPoison || r.code == tcShadowMismatch) = true ↔ r.code = 0x14 ∨ r.code = 0x15 := by
  simp [tcPoison, tcShadowMismatch]

theorem takeTrap_starts {s s' : State} {inst slot pc : Nat} {r : TrapReport} {h k : Hatch} {p : Path} (hh : s.hatch? inst = some h)
    (hp : h.path? slot = some p) (h1 : r.code ≠ 0x14) (h2 : r.code ≠ 0x15) (hn : h.handler = false)
    (hw : (writeFrame inst (recOf s h).prot slot pc r).run s = .ok () s') (hk : s'.hatch? inst = some k) :
    (takeTrap s inst slot pc r).hatch? inst = some (k.inHandler (recOf s h).trap p.domain r) := by
  have hf : ¬ (r.code == tcPoison || r.code == tcShadowMismatch) = true := by rw [fatal_iff]; tauto
  have e : takeTrap s inst slot pc r = ({ s' with dry := s'.dry.filter (fun x => x.hatch != inst) } : State).updHatch inst
      (fun h' => h'.inHandler (recOf s h).trap p.domain r) := by
    unfold takeTrap
    simp only [hh, hp, if_neg hf, hn, Bool.false_eq_true, if_false]
    unfold withArea
    rw [EStateM.run_bind, hw]
    rfl
  rw [e]
  exact (hatch?_updHatch _ inst _ (by intro _ e; exact e)).trans (congrArg (Option.map _) hk)

theorem takeTrap_double {s : State} {inst slot pc : Nat} {r : TrapReport} {h : Hatch} {p : Path} (hh : s.hatch? inst = some h)
    (hp : h.path? slot = some p) (h1 : r.code ≠ 0x14) (h2 : r.code ≠ 0x15) (hn : h.handler = true) :
    takeTrap s inst slot pc r = killHatch s inst 0x1B pc := by
  have hf : ¬ (r.code == tcPoison || r.code == tcShadowMismatch) = true := by rw [fatal_iff]; tauto
  unfold takeTrap
  simp only [hh, hp, if_neg hf, hn, if_true]
  rfl

theorem takeTrap_kills {s : State} {inst slot pc : Nat} {r : TrapReport} {h : Hatch} {p : Path} (hh : s.hatch? inst = some h)
    (hp : h.path? slot = some p) (hf : r.code = 0x14 ∨ r.code = 0x15) : takeTrap s inst slot pc r = killHatch s inst r.code pc := by
  unfold takeTrap
  simp only [hh, hp, if_pos ((fatal_iff r).2 hf)]

/-! ### Returning (R172) -/

/-- What holds of every state in which an access ends. -/
def AreaM.Ends {α : Type} (m : AreaM α) (P : State → Prop) : Prop := ∀ s a t, m.run s = .ok a t → P t

theorem AreaM.Ends.bind {α β : Type} {m : AreaM α} {f : α → AreaM β} {P : State → Prop} (h : ∀ a, (f a).Ends P) : (m >>= f).Ends P := by
  intro s a t e
  rw [EStateM.run_bind] at e
  split at e
  · exact h _ _ _ _ e
  · cases e

theorem keeps_splitClear (inst : Nat) (is : List Nat) : (splitClear inst is).Keeps := by
  induction is with
  | nil => exact .pure _
  | cons i r ih => exact (keeps_areaWrite inst _ _).bind (fun _ => ih)

/-- A hatch is there after an operation of memory. -/
theorem MemKeeps.hatch {s t : State} (k : MemKeeps s t) {i : Nat} {h : Hatch} (hh : s.hatch? i = some h) :
    ∃ g, t.hatch? i = some g ∧ g.still = h.still := by
  have hc := hatch?_still_congr k.stills i
  rw [hh] at hc
  cases ht : t.hatch? i with
  | none => rw [ht] at hc; cases hc
  | some g => rw [ht] at hc; exact ⟨g, rfl, Option.some.inj hc⟩

/-- What a return leaves of a hatch. -/
def Returned (inst : Nat) (t : State) : Prop :=
  (t.hatch? inst).map (fun h => (h.handler, h.splitHandler, h.dstackHandler)) = some (false, 0, 0)

/-- The last part of a return. -/
theorem ends_setHatch {inst : Nat} (is : Hatch → List Nat) {f : Hatch → Hatch} (hi : ∀ h, (f h).inst = h.inst)
    (hf : ∀ h, ((f h).handler, (f h).splitHandler, (f h).dstackHandler) = (false, 0, 0)) :
    (do let h ← getHatch inst; splitClear inst (is h); setHatch inst f : AreaM Unit).Ends (Returned inst) := by
  intro s a t e
  cases hh : s.hatch? inst with
  | none =>
    have hg : (getHatch inst).run s = .error (0, 0) s := by
      show getHatch inst s = _
      unfold getHatch
      rw [hh]
    rw [EStateM.run_bind, hg] at e
    cases e
  | some h =>
    have hg : (getHatch inst).run s = .ok h s := by
      show getHatch inst s = _
      unfold getHatch
      rw [hh]
    rw [EStateM.run_bind, hg] at e
    dsimp only at e
    rw [EStateM.run_bind] at e
    split at e
    · rename_i u hc
      obtain ⟨g, hg, _⟩ := ((keeps_splitClear inst (is h)) s).hatch hh
      rw [left_of_ok hc] at hg
      have : t = u.updHatch inst f := by
        have e' : (.ok () (u.updHatch inst f) : EStateM.Result (Nat × Nat) State Unit) = .ok a t := e
        cases e'; rfl
      rw [this]
      unfold Returned
      rw [hatch?_updHatch _ _ _ (fun k hk => (hi k).trans hk), hg]
      exact congrArg some (hf g)
    · cases e

theorem restored_inst (h : Hatch) (slot : Nat) (p q : Option Path) : ((h.setPath slot p).setPath (1 - slot) q).inst = h.inst := by
  rw [Hatch.setPath_inst, Hatch.setPath_inst]

theorem restored_parts (h : Hatch) (slot : Nat) (p q : Option Path) :
    (((h.setPath slot p).setPath (1 - slot) q).handler, ((h.setPath slot p).setPath (1 - slot) q).splitHandler,
      ((h.setPath slot p).setPath (1 - slot) q).dstackHandler) = (h.handler, h.splitHandler, h.dstackHandler) := by
  unfold Hatch.setPath
  split <;> split <;> rfl

theorem restoreFrame_ends (inst pc : Nat) (fall : Bool) : (restoreFrame inst pc fall).Ends (Returned inst) := by
  unfold restoreFrame
  refine .bind (fun n => .bind (fun s => .bind (fun rec0 => ?_)))
  dsimp only
  -- the second path is read where there is one, and then the predicate stack where it is not empty
  split
  all_goals
    refine .bind (fun rec1 => ?_)
    split
    all_goals exact .bind (fun st => .bind (fun _ => ends_setHatch
      (fun h => (List.range 64).filter (fun i => h.splitHandler.getLsbD i && h.splitOut.getLsbD i))
      (fun h => restored_inst _ _ _ _) (fun h => restored_parts _ _ _ _)))

theorem returnFrom_outside {c : Iss} (s : State) (retry : Bool) (h : c.p.handler = false) :
    returnFrom c s retry = c.trap s { code := tcIllegalOperand, info := 0x13 } := by
  unfold returnFrom
  simp only [h, Bool.not_false, if_true]

/-- A return without a fetch of the instruction at the frame PC. -/
theorem returnFrom_at {c : Iss} {s s1 s2 : State} {retry : Bool} {bs : List Byte} (hh : c.p.handler = true) (hr : c.h.noRestart = false)
    (hf : framePc s c.h = .ok bs s1) (ha : bytesNat bs % 4 = 0) (hb : (retry || c.h.atRestart) = true)
    (hx : (restoreFrame c.inst (bytesNat bs) false).run (noteIssue s1 c.inst c.slot) = .ok () s2) :
    returnFrom c s retry = finish s2 := by
  unfold returnFrom
  simp only [hh, hr, hf, ha, hb, Bool.not_true, Bool.false_eq_true, if_false, if_true, bne_self_eq_false]
  unfold resumeAt withArea
  rw [hx]

/-- A return past the instruction at the frame PC. -/
theorem returnFrom_past {c : Iss} {s s1 s2 s3 : State} {bs blk : List Byte} (hh : c.p.handler = true) (hr : c.h.noRestart = false)
    (hf : framePc s c.h = .ok bs s1) (ha : bytesNat bs % 4 = 0) (hb : c.h.atRestart = false)
    (hk : fetchBlock s1 c.h { c.p with pc := bytesNat bs } = (s2, .bytes blk))
    (hx : (restoreFrame c.inst (wrap64 (bytesNat bs + skipLength blk (bytesNat bs % 32))) true).run (noteIssue s2 c.inst c.slot) =
      .ok () s3) :
    returnFrom c s false = finish s3 := by
  unfold returnFrom
  rw [if_neg (by simp [hh]), if_neg (by simp [hr]), hf]
  dsimp only
  rw [if_neg (by simp [ha]), if_neg (by simp [hb]), hk]
  unfold resumeAt withArea
  dsimp only
  rw [hx]

/-- Settles O21: a trap is taken in one of three ways, and a return restores the frame that the reads gave. -/
theorem trapEntryAndReturn : Obligations.TrapEntryAndReturn := by
  unfold Obligations.TrapEntryAndReturn
  refine ⟨fun s inst slot pc r h p hh hp => ⟨fun h1 h2 hn s' k hw hk => ⟨_, takeTrap_starts hh hp h1 h2 hn hw hk, rfl⟩,
    fun h1 h2 hn => takeTrap_double hh hp h1 h2 hn, fun hf => takeTrap_kills hh hp hf⟩, fun s c f hi => ⟨fun hn => ?outside,
    fun hh hr bs s1 hf ha => ⟨fun s2 hx => ⟨restoreFrame_ends _ _ _ _ _ _ hx, ?retry⟩,
      fun s2 blk s3 hb hk hx => ⟨restoreFrame_ends _ _ _ _ _ _ hx, ?past⟩⟩⟩⟩
  case outside =>
    exact ⟨answers_of_issues (fun c s => returnFrom c s false) hi rfl (returnFrom_outside s false hn),
      answers_of_issues (fun c s => returnFrom c s true) hi rfl (returnFrom_outside s true hn)⟩
  case retry =>
    exact answers_of_issues (fun c s => returnFrom c s true) hi rfl (returnFrom_at hh hr hf ha rfl hx)
  case past =>
    exact answers_of_issues (fun c s => returnFrom c s false) hi rfl (returnFrom_past hh hr hf ha hb hk hx)

end Sys2Proof.Machine
end

section
/-! PROOFS. What writing a register changes: one rule for each kind of write, and the statement of R165, R166, R175 and R246. -/

namespace Sys2Proof.Machine

/-! ### Vector registers (R175) -/

theorem getD_set_self {α : Type} {xs : List α} {i : Nat} (x d : α) (h : i < xs.length) : (xs.set i x).getD i d = x := by
  rw [List.getD_eq_getElem?_getD, List.getElem?_set_self h]; rfl

theorem getD_set_ne {α : Type} {xs : List α} {i j : Nat} (x d : α) (h : j ≠ i) : (xs.set i x).getD j d = xs.getD j d := by
  rw [List.getD_eq_getElem?_getD, List.getD_eq_getElem?_getD, List.getElem?_set_ne h.symm]

theorem getD_setLanes (old : Lanes) (m : LaneSet) (f : Nat → Word) {l : Nat} (hl : l < 96) :
    (setLanes old m f).getD l 0 = if m.getLsbD l then f l else old.getD l 0 := by
  unfold setLanes
  rw [List.getD_eq_getElem?_getD, List.getElem?_map, List.getElem?_range hl]
  rfl

@[simp] theorem Hatch.length_writeV (h : Hatch) (r : Nat) (m : LaneSet) (f : Nat → Word) : (h.writeV r m f).v.length = h.v.length :=
  List.length_set

theorem Hatch.vreg_writeV_ne {h : Hatch} {r r' : Nat} (m : LaneSet) (f : Nat → Word) (e : r' ≠ r) :
    (h.writeV r m f).vreg r' = h.vreg r' := getD_set_ne _ _ e

theorem Hatch.vreg_writeV_same {h : Hatch} {r : Nat} (m : LaneSet) (f : Nat → Word) (e : r < h.v.length) :
    (h.writeV r m f).vreg r = ⟨true, 0, setLanes (h.vreg r).lo m f, []⟩ := getD_set_self _ _ e

theorem Hatch.vword_writeV_same {h : Hatch} {r l : Nat} (m : LaneSet) (f : Nat → Word) (e : r < h.v.length) (hl : l < 96) :
    (h.writeV r m f).vword r l = if m.getLsbD l then f l else h.vword r l := by
  unfold Hatch.vword
  rw [Hatch.vreg_writeV_same m f e]
  exact getD_setLanes _ m f hl

theorem wordOf_zero (v : Nat) : wordOf v 0 = BitVec.ofNat 32 v := by simp [wordOf]

/-! ### A write to consecutive vector registers -/

/-- The words of a value written to w registers from r. -/
def Hatch.writeVs (h : Hatch) (r w : Nat) (m : LaneSet) (val : Nat → Nat) : Hatch :=
  (List.range w).foldl (fun h k => h.writeV (r + k) m (fun l => wordOf (val l) k)) h

theorem applyWrite_vector {prot : Bool} {m : LaneSet} {hp : Hatch × Path} {x : BitVec 8} {w r : Nat} {val : Nat → Nat}
    (e : specKind x = .v r) : applyWrite prot m hp (.reg x w val) = (hp.1.writeVs r w m val, hp.2) := by
  unfold applyWrite Hatch.writeVs
  simp only [e]

theorem Hatch.writeVs_succ (h : Hatch) (r w : Nat) (m : LaneSet) (val : Nat → Nat) :
    h.writeVs r (w + 1) m val = (h.writeVs r w m val).writeV (r + w) m (fun l => wordOf (val l) w) := by
  unfold Hatch.writeVs
  rw [List.range_succ, List.foldl_append]
  rfl

/-- A write to vector registers changes the vector registers only. -/
theorem Hatch.writeVs_eq (h : Hatch) (r w : Nat) (m : LaneSet) (val : Nat → Nat) :
    h.writeVs r w m val = { h with v := (h.writeVs r w m val).v } := by
  induction w with
  | zero => rfl
  | succ w ih => rw [Hatch.writeVs_succ]; unfold Hatch.writeV; dsimp only; rw [ih]

@[simp] theorem Hatch.length_writeVs (h : Hatch) (r w : Nat) (m : LaneSet) (val : Nat → Nat) :
    (h.writeVs r w m val).v.length = h.v.length := by
  induction w with
  | zero => rfl
  | succ w ih => rw [Hatch.writeVs_succ, Hatch.length_writeV, ih]

theorem Hatch.vreg_writeVs_out {h : Hatch} {r w r' : Nat} (m : LaneSet) (val : Nat → Nat) (e : r' < r ∨ r + w ≤ r') :
    (h.writeVs r w m val).vreg r' = h.vreg r' := by
  induction w with
  | zero => rfl
  | succ w ih => rw [Hatch.writeVs_succ, Hatch.vreg_writeV_ne _ _ (by omega), ih (by omega)]

theorem Hatch.vword_writeVs_in {h : Hatch} {r w k l : Nat} (m : LaneSet) (val : Nat → Nat) (hk : k < w) (hr : r + w ≤ h.v.length)
    (hl : l < 96) : (h.writeVs r w m val).vword (r + k) l = if m.getLsbD l then wordOf (val l) k else h.vword (r + k) l := by
  induction w with
  | zero => omega
  | succ w ih =>
    rw [Hatch.writeVs_succ]
    by_cases e : k = w
    · subst e
      rw [Hatch.vword_writeV_same _ _ (by rw [Hatch.length_writeVs]; omega) hl]
      congr 1
      unfold Hatch.vword
      rw [Hatch.vreg_writeVs_out m val (by omega)]
    · have hn : ((h.writeVs r w m val).writeV (r + w) m (fun l => wordOf (val l) w)).vword (r + k) l =
          (h.writeVs r w m val).vword (r + k) l := by
        unfold Hatch.vword
        rw [Hatch.vreg_writeV_ne _ _ (by omega)]
      rw [hn, ih (by omega) (by omega)]

/-! ### What a specifier names (R246) -/

theorem specKind_v_lt {x : BitVec 8} {r : Nat} (h : specKind x = .v r) : r < 64 ∧ r = x.toNat := by
  unfold specKind at h
  dsimp only at h
  split at h
  · cases h; exact ⟨by assumption, rfl⟩
  all_goals (repeat' split at h) <;> cases h

theorem specKind_s_lt {x : BitVec 8} {r : Nat} (h : specKind x = .s r) : r < 128 := by
  unfold specKind at h
  dsimp only at h
  split at h
  · cases h
  · split at h
    · cases h; omega
    · (repeat' split at h) <;> cases h

theorem specKind_of_lt {x : BitVec 8} (h : x.toNat < 64) : specKind x = .v x.toNat := by
  unfold specKind
  exact if_pos h

/-! ### Scalars and the mask (R165, R166) -/

theorem applyWrite_scalar {prot : Bool} {m : LaneSet} {hp : Hatch × Path} {x : BitVec 8} {r : Nat} {val : Nat → Nat}
    (e : specKind x = .s r) : applyWrite prot m hp (.reg x 1 val) =
      writeScalar hp r (BitVec.ofNat 32 (val 0)) (BitVec.ofNat 32 (val (natOfBool prot))) := by
  unfold applyWrite
  simp only [e, List.range_one, List.foldl_cons, List.foldl_nil, wordOf_zero, Nat.add_zero]

theorem writeScalar_high {h : Hatch} {p : Path} {r : Nat} (v sv : Word) (hr : 4 ≤ r) :
    writeScalar (h, p) r v sv = ({ h with s := h.s.set r v, shadow := h.shadow.set r sv }, p) := by
  unfold writeScalar
  dsimp only
  rw [if_neg (by omega), if_neg (by simp; omega)]

theorem writeScalar_three (h : Hatch) (p : Path) (v sv : Word) : writeScalar (h, p) 3 v sv = (h, p) := rfl

/-- The mask of a path after a write to one of its words. -/
def maskWith (m domain : LaneSet) (r : Nat) (v : Word) : LaneSet :=
  (m &&& ~~~((BitVec.ofNat 96 0xFFFFFFFF) <<< (32 * r)) ||| (BitVec.ofNat 96 v.toNat) <<< (32 * r)) &&& domain

theorem writeScalar_low {h : Hatch} {p : Path} {r : Nat} (v sv : Word) (hr : r < 3) :
    (writeScalar (h, p) r v sv).1 = h ∧ (writeScalar (h, p) r v sv).2.domain = p.domain ∧
      (writeScalar (h, p) r v sv).2.pc = p.pc ∧ (writeScalar (h, p) r v sv).2.mask = maskWith p.mask p.domain r v := by
  unfold writeScalar
  dsimp only
  rw [if_pos hr]
  exact ⟨rfl, rfl, rfl, rfl⟩

theorem getLsbD_low32 (k : Nat) (hk : k < 96) : (BitVec.ofNat 96 0xFFFFFFFF).getLsbD k = decide (k < 32) := by
  have : (0xFFFFFFFF : Nat) = 2 ^ 32 - 1 := rfl
  rw [BitVec.getLsbD_ofNat, this, Nat.testBit_two_pow_sub_one]
  simp [hk]

theorem getLsbD_maskWith (m domain : LaneSet) (r n : Nat) {l : Nat} (hl : l < 96) :
    (maskWith m domain r (BitVec.ofNat 32 n)).getLsbD l =
      (domain.getLsbD l && if l / 32 = r then n.testBit (l % 32) else m.getLsbD l) := by
  unfold maskWith
  simp only [BitVec.getLsbD_and, BitVec.getLsbD_or, BitVec.getLsbD_not, BitVec.getLsbD_shiftLeft, hl, decide_true, Bool.true_and]
  rw [getLsbD_low32 _ (by omega), BitVec.getLsbD_ofNat, BitVec.toNat_ofNat, Nat.testBit_mod_two_pow]
  by_cases h1 : l < 32 * r
  · simp [h1, show ¬ l / 32 = r by omega, Bool.and_comm]
  · by_cases h2 : l - 32 * r < 32
    · have h3 : l - 32 * r = l % 32 := by omega
      have h4 : l % 32 < 32 := Nat.mod_lt _ (by decide)
      simp [h1, h3, h4, show l / 32 = r by omega, show l % 32 < 96 by omega, Bool.and_comm]
    · simp [h1, h2, show ¬ l / 32 = r by omega, Bool.and_comm]

/-! ### Predicates -/

theorem pcode_writeP_same {h : Hatch} {r l : Nat} (m : LaneSet) (c : Nat → Tri) (hr : r < h.p.length) (hl : l < 96) :
    (h.writeP r m c).pcode r l = if m.getLsbD l then c l else h.pcode r l := by
  unfold Hatch.pcode Hatch.writeP
  dsimp only
  rw [getD_set_self _ _ hr, List.getD_eq_getElem?_getD, List.getElem?_map, List.getElem?_range hl]
  rfl

theorem pcode_writeP_ne {h : Hatch} {r r' : Nat} (m : LaneSet) (c : Nat → Tri) (l : Nat) (e : r' ≠ r) :
    (h.writeP r m c).pcode r' l = h.pcode r' l := by
  unfold Hatch.pcode Hatch.writeP
  dsimp only
  rw [getD_set_ne _ _ e]

/-- Settles O30: one case for each kind of specifier. -/
theorem registerWrites : Obligations.RegisterWrites := by
  unfold Obligations.RegisterWrites
  intro prot m h p x val hv hs hp
  refine ⟨fun r e => ?vector, fun r e h4 => ?scalar, fun r e h3 => ?mask, fun e => ?nothing, fun r c hr => ?pred⟩
  case vector =>
    rw [applyWrite_vector e]
    have hr : r < h.v.length := by rw [hv]; exact (specKind_v_lt e).1
    have hw : h.writeVs r 1 m val = h.writeV r m (fun l => BitVec.ofNat 32 (val l)) := by
      rw [Hatch.writeVs_succ]; simp only [wordOf_zero]; rfl
    dsimp only
    rw [hw, Hatch.vreg_writeV_same _ _ hr]
    exact ⟨rfl, rfl, fun l hl => Hatch.vword_writeV_same _ _ hr hl, fun r' e' => Hatch.vreg_writeV_ne _ _ e', rfl, rfl, rfl⟩
  case scalar =>
    rw [applyWrite_scalar e, writeScalar_high _ _ h4]
    exact ⟨getD_set_self _ _ (by rw [hs]; exact specKind_s_lt e), fun r' e' => getD_set_ne _ _ e', rfl, rfl, rfl⟩
  case mask =>
    rw [applyWrite_scalar e]
    obtain ⟨h1, h2, h3', h4⟩ := writeScalar_low (h := h) (p := p) (BitVec.ofNat 32 (val 0)) (BitVec.ofNat 32 (val (natOfBool prot))) h3
    refine ⟨h1, h2, h3', fun l hl => ?_⟩
    rw [h4]
    exact getLsbD_maskWith _ _ r _ hl
  case nothing =>
    obtain e | e := e
    · rw [applyWrite_scalar e]; exact ⟨rfl, rfl⟩
    · have hn : applyWrite prot m (h, p) (.reg x 1 val) = (h, p) := by unfold applyWrite; simp only [e]
      rw [hn]; exact ⟨rfl, rfl⟩
  case pred =>
    exact ⟨fun l hl => pcode_writeP_same (h := h) m c (by omega) hl, fun r' l e => pcode_writeP_ne m c l e, rfl, rfl, rfl⟩

end Sys2Proof.Machine
end

section
/-! PROOFS. Bytes written at a line's home read back, through the overlay of the home's slice, and every operation that writes
memory keeps its form (`MemKeeps.form`). -/

namespace Sys2Proof.Machine

theorem overGet_overSetBytes (i : Nat) (bs : List Byte) (a : Nat) (m : List Host.Cell) :
    overGet i (overSetBytes a bs m) = if a ≤ i ∧ i < a + bs.length then some (bs.getD (i - a) 0) else overGet i m := by
  induction bs generalizing a m with
  | nil => rw [overSetBytes, if_neg (by simp)]
  | cons b r ih =>
    rw [overSetBytes, ih, overGet_overSet, List.length_cons]
    by_cases e : i = a
    · subst e
      rw [if_neg (by omega), if_pos rfl, if_pos (by omega), Nat.sub_self, List.getD_cons_zero]
    · by_cases h : a + 1 ≤ i ∧ i < a + 1 + r.length
      · rw [if_pos h, if_pos (by omega), show i - a = (i - (a + 1)) + 1 by omega, List.getD_cons_succ]
      · rw [if_neg h, if_neg e, if_neg (by omega)]

/-- A write at the home of a line of this package goes to the overlay of its slice. -/
theorem homeWrite_own {s : State} {line k : Nat} (off : Nat) (bs : List Byte) (ho : lineIsOwn s line = true) (hk : lineKey s line = some k) :
    homeWrite s line off bs = { s with
      slicePoison := s.slicePoison.filter (fun x => !((wholeSectors off bs.length).map (line * 4 + ·)).contains x)
      slices := overSetBytes (line * 128 + off) bs s.slices } := by
  unfold homeWrite
  rw [hk]
  dsimp only
  have hc : cleanSectors s line k (wholeSectors off bs.length) = { s with
      slicePoison := s.slicePoison.filter (fun x => !((wholeSectors off bs.length).map (line * 4 + ·)).contains x) } := if_pos ho
  rw [hc]
  exact if_pos ho

/-- A byte of a line at its home. -/
theorem getD_homeRead {s : State} {line k i : Nat} (hk : lineKey s line = some k) (hi : i < 128) :
    (homeRead s line).getD i 0 = (overGet (line * 128 + i) s.slices).getD (cellGet (k * 128 + i) s.mem) := by
  unfold homeRead
  rw [hk]
  dsimp only
  rw [List.getD_eq_getElem?_getD, List.getElem?_map, List.getElem?_range hi, Option.map_some, Option.getD_some]
  cases overGet (line * 128 + i) s.slices <;> rfl

/-- The bit of a sum of powers of two of distinct exponents below 4. -/
theorem getLsbD_sectorSum (b : Nat → Bool) {q : Nat} (hq : q < 4) :
    (BitVec.ofNat 4 ((List.range 4).foldl (fun a i => a + if b i then 2 ^ i else 0) 0)).getLsbD q = b q := by
  have h4 : List.range 4 = [0, 1, 2, 3] := rfl
  simp only [h4, List.foldl_cons, List.foldl_nil]
  have hall : ∀ b0 b1 b2 b3 : Bool, ∀ q : Fin 4,
      (BitVec.ofNat 4 (0 + (if b0 then 2 ^ 0 else 0) + (if b1 then 2 ^ 1 else 0) + (if b2 then 2 ^ 2 else 0) +
        if b3 then 2 ^ 3 else 0)).getLsbD q = [b0, b1, b2, b3].getD q false := by decide
  have := hall (b 0) (b 1) (b 2) (b 3) ⟨q, hq⟩
  rw [this]
  obtain rfl | rfl | rfl | rfl : q = 0 ∨ q = 1 ∨ q = 2 ∨ q = 3 := by omega
  all_goals rfl

theorem getLsbD_homePoison {s : State} {line k q : Nat} (hk : lineKey s line = some k) (hq : q < 4) :
    (homePoison s line).getLsbD q =
      (s.slicePoison.contains (line * 4 + q) || (s.poison.contains (k * 4 + q) && !(lineIsOwn s line && sectorOver s line q))) := by
  unfold homePoison
  rw [hk]
  exact getLsbD_sectorSum (fun q => s.slicePoison.contains (line * 4 + q) ||
    (s.poison.contains (k * 4 + q) && !(lineIsOwn s line && sectorOver s line q))) hq

/-- What a write at the home of a line of this package reads as. -/
theorem homeRead_homeWrite {s : State} {line off k : Nat} {bs : List Byte} (ho : lineIsOwn s line = true)
    (hk : lineKey s line = some k) {i : Nat} (hi : i < 128) : (homeRead (homeWrite s line off bs) line).getD i 0 =
      if off ≤ i ∧ i < off + bs.length then bs.getD (i - off) 0 else (homeRead s line).getD i 0 := by
  rw [homeWrite_own off bs ho hk, getD_homeRead hk hi]
  refine Eq.trans (getD_homeRead (k := k) (by exact hk) hi) ?_
  dsimp only
  rw [overGet_overSetBytes]
  by_cases h : off ≤ i ∧ i < off + bs.length
  · rw [if_pos (by omega), if_pos h, show line * 128 + i - (line * 128 + off) = i - off by omega]; rfl
  · rw [if_neg (by omega), if_neg h]

/-- What a line reads as at its home depends on memory and on the overlay at its bytes. -/
theorem homeRead_congr {s t : State} {line : Nat} (hk : lineKey t line = lineKey s line) (hm : t.mem = s.mem)
    (ho : ∀ i, i < 128 → overGet (line * 128 + i) t.slices = overGet (line * 128 + i) s.slices) : homeRead t line = homeRead s line := by
  unfold homeRead
  rw [hk]
  cases lineKey s line with
  | none => rfl
  | some k => exact List.map_congr_left (fun i hi => by rw [ho i (List.mem_range.1 hi), hm])

theorem homeRead_homeWrite_ne {s : State} {line off k other : Nat} {bs : List Byte} (ho : lineIsOwn s line = true)
    (hb : off + bs.length ≤ 128) (hk : lineKey s line = some k) (hn : other ≠ line) :
    homeRead (homeWrite s line off bs) other = homeRead s other := by
  rw [homeWrite_own off bs ho hk]
  exact homeRead_congr rfl rfl (fun i hi => by dsimp only; rw [overGet_overSetBytes, if_neg (by omega)])

/-- A sector written wholly is no longer poisoned (R43). -/
theorem homePoison_homeWrite {s : State} {line off k q : Nat} {bs : List Byte} (ho : lineIsOwn s line = true)
    (hk : lineKey s line = some k) (hq : q < 4) (h1 : off ≤ 32 * q) (h2 : 32 * q + 32 ≤ off + bs.length) :
    (homePoison (homeWrite s line off bs) line).getLsbD q = false := by
  rw [homeWrite_own off bs ho hk]
  refine Eq.trans (getLsbD_homePoison (k := k) (by exact hk) hq) ?_
  have hw : q ∈ wholeSectors off bs.length := by
    unfold wholeSectors
    simp only [List.mem_filter, List.mem_range, Bool.and_eq_true, decide_eq_true_eq]
    exact ⟨hq, h1, h2⟩
  have ha : (s.slicePoison.filter (fun x => !((wholeSectors off bs.length).map (line * 4 + ·)).contains x)).contains (line * 4 + q) =
      false := by
    rw [List.contains_eq_mem, decide_eq_false_iff_not, List.mem_filter]
    exact fun h => absurd hw (by simpa using h.2)
  have hs : ∀ t : State, t.slices = overSetBytes (line * 128 + off) bs s.slices → sectorOver t line q = true := by
    intro t ht
    unfold sectorOver
    rw [List.all_eq_true]
    intro i hi
    have hi := List.mem_range.1 hi
    rw [ht, overGet_overSetBytes, if_pos (by omega)]
    rfl
  dsimp only
  rw [ha, hs _ rfl]
  show (false || _ && !(lineIsOwn s line && true)) = false
  rw [ho]
  simp

/-- Settles O31: a write at a home reads back by the cell laws, and every operation that writes memory keeps its form. -/
theorem memoryReadsBack : Obligations.MemoryReadsBack := by
  unfold Obligations.MemoryReadsBack
  refine ⟨fun s line off bs hm ho hb hs => ?_, fun s hm => ⟨fun line off bs => homeWrite_memOk hm line off bs,
    fun line bs m => homeWriteMask_memOk hm line bs m, fun line bs m trig => (memKeeps_homeCommit s line bs m trig 0).form hm,
    fun line => (memKeeps_takeLine s line).form hm, fun pa bs trig => (memKeeps_pokePa s pa bs trig).form hm,
    fun c line => (memKeeps_publishRaw s c line).form hm, fun c => (memKeeps_drainCore s c).form hm, fun line => flushLine_memOk hm line,
    flushAll_memOk hm⟩⟩
  obtain ⟨k, hk⟩ := Option.isSome_iff_exists.1 hs
  refine ⟨homeWrite_memOk hm line off bs, ?_, fun i hi => homeRead_homeWrite ho hk hi,
    fun other hn => homeRead_homeWrite_ne ho hb hk hn, fun q hq h1 h2 => homePoison_homeWrite ho hk hq h1 h2⟩
  rw [homeWrite_own off bs ho hk]

end Sys2Proof.Machine
end

section
/-! PROOFS. The statement of a translation that the core's TLB serves: no walk runs, and `judge` finds the first fault. -/

namespace Sys2Proof.Machine

theorem setsD_false {kern : Bool} {k : AccKind} {e : TlbEntry} (h : k.writes = false ∨ e.d = true ∨ e.f = true) :
    setsD kern k e = false := by
  unfold setsD
  obtain h | h | h := h <;> simp [h]

/-- A translation of a canonical address that the core's TLB serves. -/
theorem translate_l1 {s : State} {core ctx : Nat} {kern : Bool} {k : AccKind} {va : Nat} {e : TlbEntry} (hc : canonical va = true)
    (hl : l1Tlb s core ctx (va % 2 ^ 52) = some e) (hd : k.writes = false ∨ e.d = true ∨ e.f = true) :
    translate s core ctx kern k va = (l1TlbFill s core (va % 2 ^ 52) e, judge s kern k (va % 2 ^ 52) e 0) := by
  have ht : tlbAt s core ctx (va % 2 ^ 52) = some e := by unfold tlbAt; rw [hl]
  have hn : needsWalk s core ctx kern k va = false := by
    unfold needsWalk
    rw [ht, hc]
    exact setsD_false hd
  unfold translate
  rw [hn]
  unfold translateNow
  simp only [hc, ht, setsD_false hd, Bool.not_false, Bool.not_true, Bool.false_eq_true, if_true, if_false]

theorem translate_notCanonical {s : State} {core ctx : Nat} {kern : Bool} {k : AccKind} {va : Nat} (hc : canonical va = false) :
    translate s core ctx kern k va = (s, .fault 0x10 0x01 0) := by
  have hn : needsWalk s core ctx kern k va = false := by unfold needsWalk; rw [hc]; rfl
  unfold translate
  rw [hn]
  unfold translateNow
  simp only [hc, Bool.not_false, if_true]
  rfl

/-- A permission that an access lacks (R65, R66). -/
def Denied (kern : Bool) (k : AccKind) (e : TlbEntry) : Prop :=
  (kern = false ∧ e.u = false) ∨ (match k with
    | .load => e.r = false
    | .store => e.w = false
    | .atomic => e.r = false ∨ e.w = false
    | .fetch => e.x = false ∨ (kern = true ∧ e.u = true))

theorem permFault_iff (kern : Bool) (k : AccKind) (e : TlbEntry) : permFault kern k e = true ↔ Denied kern k e := by
  unfold permFault Denied
  cases k <;> cases kern <;> simp

/-- Settles O32: a translation that the TLB serves is `judge` of its entry. -/
theorem translation : Obligations.Translation := by
  unfold Obligations.Translation
  intro s core ctx kern k va e
  refine ⟨translate_notCanonical, fun hc hl hd => ⟨l1TlbFill s core (va % 2 ^ 52) e, rfl, rfl, ?_⟩⟩
  have hp := permFault_iff kern k e
  rw [translate_l1 hc hl hd]
  unfold judge
  have hpa : tlbPa e (va % 2 ^ 52) = e.pa + va % 2 ^ 52 % 2 ^ pageBits e.level := rfl
  rw [hpa]
  refine ⟨fun hu => ?unbacked, fun hu hden => ?denied, fun hu hden hw hf => ?frozen, fun hu hden hwf => ?passes⟩
  case unbacked =>
    simp only [hu, if_true]; rfl
  case denied =>
    simp only [hu, hp.2 hden, Bool.false_eq_true, if_false, if_true]; rfl
  case frozen =>
    simp only [hu, Bool.eq_false_iff.2 (fun h => hden (hp.1 h)), hw, hf, Bool.false_eq_true, if_false, Bool.and_self, if_true]; rfl
  case passes =>
    have hb : (k.writes && e.f) = false := by obtain h | h := hwf <;> simp [h]
    simp only [hu, Bool.eq_false_iff.2 (fun h => hden (hp.1 h)), hb, Bool.false_eq_true, if_false]

end Sys2Proof.Machine
end

section
/-! PROOFS. The statement of what a step runs: the plan of a step whose next move is a path's, an event's or the clock's, and what the
end of a step changes. -/

namespace Sys2Proof.Machine

/-! ### The word at a path's PC (R272) -/

/-- The length of what decodes is that of its length bits. -/
theorem length_of_decodeWord {w : BitVec 128} {i : Instr} (h : decodeWord w = .ok i) :
    ∃ len, lenOfWord w = some len ∧ len.bytes = i.bytes := by
  unfold decodeWord at h
  split at h
  · cases h
  next x hx =>
  split at h
  next y hy =>
    cases h
    obtain ⟨hp, hl, _⟩ := parseWord_sound hx
    obtain ⟨rfl, _, _⟩ := has_of_instr hy
    exact ⟨_, hl, Form.len_bytes hp⟩
  · cases h

theorem checkWord_ok {bs : List Byte} {off : Nat} {i : Instr} (h : decodeWord (bytesWord (sliceBytes bs off 16)) = .ok i)
    (hb : off + i.bytes ≤ 32) : checkWord bs off = .ok i := by
  obtain ⟨len, hl, hn⟩ := length_of_decodeWord h
  unfold checkWord
  simp only [hl, h]
  rw [if_neg (by omega)]

theorem checkWord_long {bs : List Byte} {off : Nat} {i : Instr} (h : decodeWord (bytesWord (sliceBytes bs off 16)) = .ok i)
    (hb : 32 < off + i.bytes) : checkWord bs off = .error { code := tcFetchBoundary, info := i.bytes } := by
  obtain ⟨len, hl, hn⟩ := length_of_decodeWord h
  unfold checkWord
  simp only [hl]
  rw [if_pos (by omega), hn]

theorem checkWord_lengthCode {bs : List Byte} {off : Nat} (h : (bytesWord (sliceBytes bs off 16)).extractLsb' 0 2 = 3#2) :
    checkWord bs off = .error { code := tcIllegalOpcode, info := word32 (bytesWord (sliceBytes bs off 16)) } := by
  have hl : lenOfWord (bytesWord (sliceBytes bs off 16)) = none := by
    unfold lenOfWord
    rw [h]
    rfl
  unfold checkWord
  simp only [hl]

theorem word32_eq (w : BitVec 128) : word32 w = w.toNat % 2 ^ 32 := by
  unfold word32
  simp

/-! ### The plan of a step whose next move is a path's -/

/-- What a path's move is once its block has been fetched. -/
def afterFetch (t : State) (h : Hatch) (slot : Nat) (p : Path) (bs : List Byte) : Plan :=
  match checkWord bs (p.pc % 32) with
  | .error x => .done (finish (takeTrap t h.inst slot p.pc x))
  | .ok i => if !pipeReady { t with pipe := instrPipe i } h i then .done (stall { t with pipe := instrPipe i })
    else if ({ t with pipe := instrPipe i } : State).issuing.isSome then .run i { t with pipe := instrPipe i }
    else .done { t with pipe := instrPipe i }

theorem plan_of_free {s : State} (h : s.turns = []) : plan s = planFree s := by
  unfold plan
  split
  next => rfl
  next e => rw [h] at e; cases e

theorem planFree_inbox {s : State} {e : Event} {r : List Event} (h : s.inbox = e :: r) : planFree s = serve { s with inbox := r } e := by
  unfold planFree
  split
  next e2 r2 h2 => rw [h] at h2; cases h2; rfl
  next h2 => rw [h] at h2; cases h2

theorem planFree_net {s : State} (h : s.inbox = []) (hn : s.net ≠ []) : planFree s = serveNet s 0 := by
  unfold planFree
  split
  next h2 => rw [h] at h2; cases h2
  next => rw [if_pos (by simpa using hn)]

theorem planFree_path {s : State} {h : Hatch} {slot : Nat} {p : Path} (hi : s.inbox = []) (hn : s.net = [])
    (hb : bestPath (candidates s) = some (h, slot, p)) : planFree s = tryIssue s h slot p := by
  unfold planFree
  split
  next h2 => rw [hi] at h2; cases h2
  next => rw [if_neg (by simp [hn]), hb]

theorem planFree_clock {s : State} (hi : s.inbox = []) (hn : s.net = []) (hb : bestPath (candidates s) = none) :
    planFree s = .done (tick s) := by
  unfold planFree
  split
  next h2 => rw [hi] at h2; cases h2
  next => rw [if_neg (by simp [hn]), hb]

theorem plan_fetched {s t : State} {h : Hatch} {slot : Nat} {p : Path} {bs : List Byte} (h1 : s.turns = []) (h2 : s.inbox = [])
    (h3 : s.net = []) (hb : bestPath (candidates s) = some (h, slot, p)) (hd : deferredTrap s h = none)
    (hf : fetchBlock { s with cur := some ⟨h.inst, slot⟩, arg := {} } h p = (t, .bytes bs)) (hw : t.wants = []) :
    plan s = afterFetch t h slot p bs := by
  rw [plan_of_free h1, planFree_path h2 h3 hb]
  unfold tryIssue
  rw [hd]
  simp only [hf]
  rw [if_neg (by simp [hw])]
  rfl

theorem step_of_done {s t : State} (h : plan s = .done t) : step s = .next (closeDone s t) := by
  unfold step; rw [h]

theorem step_of_run {s t u : State} {i : Instr} (h : plan s = .run i t) (he : exec i t = .next u) : step s = .next (closeRun s t u i) := by
  unfold step; rw [h]; simp only [he]

/-- The moves of a path whose block has been fetched. -/
theorem step_fetched {s t : State} {h : Hatch} {slot : Nat} {p : Path} {bs : List Byte} (hp : plan s = afterFetch t h slot p bs) :
    let w := bytesWord (sliceBytes bs (p.pc % 32) 16)
    (∀ i, decodeWord w = .ok i → p.pc % 32 + i.bytes ≤ 32 → pipeReady t h i = true → t.issuing ≠ none →
      ∃ u, exec i { t with pipe := instrPipe i } = .next u ∧ step s = .next (closeRun s { t with pipe := instrPipe i } u i)) ∧
    (∀ i, decodeWord w = .ok i → p.pc % 32 + i.bytes ≤ 32 → pipeReady t h i = false →
      step s = .next (closeDone s (stall { t with pipe := instrPipe i }))) ∧
    (w.extractLsb' 0 2 = 3#2 →
      step s = .next (closeDone s (finish (takeTrap t h.inst slot p.pc { code := 0x01, info := w.toNat % 2 ^ 32 })))) ∧
    (∀ i, decodeWord w = .ok i → 32 < p.pc % 32 + i.bytes →
      step s = .next (closeDone s (finish (takeTrap t h.inst slot p.pc { code := 0x03, info := i.bytes })))) := by
  refine ⟨fun i hd hl hr hi => ?runs, fun i hd hl hr => step_of_done ?held, fun hl => step_of_done ?code,
    fun i hd hl => step_of_done ?long⟩
  case runs =>
    have hi' : ({ t with pipe := instrPipe i } : State).issuing.isSome = true := Option.isSome_iff_ne_none.2 hi
    have hr' : pipeReady { t with pipe := instrPipe i } h i = true := hr
    have hrun : plan s = .run i { t with pipe := instrPipe i } := by
      rw [hp]
      unfold afterFetch
      simp only [checkWord_ok hd hl, hr', hi', Bool.not_true, Bool.false_eq_true, if_false, if_true]
    obtain ⟨u, hu⟩ := exec_answers (i := i) (s := { t with pipe := instrPipe i }) (Or.inl hi')
    exact ⟨u, hu, step_of_run hrun hu⟩
  case held =>
    have hr' : pipeReady { t with pipe := instrPipe i } h i = false := hr
    rw [hp]
    unfold afterFetch
    simp only [checkWord_ok hd hl, hr', Bool.not_false, if_true]
  case code =>
    rw [hp]
    unfold afterFetch
    rw [checkWord_lengthCode hl, word32_eq]
    rfl
  case long =>
    rw [hp]
    unfold afterFetch
    rw [checkWord_long hd hl]
    rfl

/-! ### What the end of a step changes -/

/-- The parts of a state that the end of a step keeps. -/
structure SameCore (s t : State) : Prop where
  stills : t.stills = s.stills
  mem : t.mem = s.mem
  slices : t.slices = s.slices
  sched : t.sched = s.sched
  tr : t.tr = s.tr
  coh : t.coh = s.coh
  host : t.host = s.host
  clock : t.clock = s.clock
  lost : t.fab.lost = s.fab.lost

theorem SameCore.refl (s : State) : SameCore s s := ⟨rfl, rfl, rfl, rfl, rfl, rfl, rfl, rfl, rfl⟩

theorem SameCore.trans {s t u : State} (h : SameCore s t) (g : SameCore t u) : SameCore s u :=
  ⟨g.stills.trans h.stills, g.mem.trans h.mem, g.slices.trans h.slices, g.sched.trans h.sched, g.tr.trans h.tr, g.coh.trans h.coh,
    g.host.trans h.host, g.clock.trans h.clock, g.lost.trans h.lost⟩

theorem sameCore_foldl {α : Type} (f : State → α → State) (hf : ∀ s a, SameCore s (f s a)) (xs : List α) (s : State) :
    SameCore s (xs.foldl f s) := by
  induction xs generalizing s with
  | nil => exact SameCore.refl s
  | cons a r ih => exact (hf s a).trans (ih (f s a))

theorem sameCore_post (s : State) (i : Instr) (a : Arg) : SameCore s (s.post i a) := ⟨rfl, rfl, rfl, rfl, rfl, rfl, rfl, rfl, rfl⟩

theorem sameCore_updPath (s : State) (i k : Nat) {f : Path → Path} (hf : ∀ p, (f p).still = p.still) : SameCore s (s.updPath i k f) :=
  ⟨(near_updPath s i k f hf).2, rfl, rfl, rfl, rfl, rfl, rfl, rfl, rfl⟩

theorem sameCore_passOver (s : State) (i k : Nat) : SameCore s (passOver s i k) := by
  unfold passOver
  split
  · exact SameCore.refl s
  · split
    · exact sameCore_updPath s i k (by intro; rfl)
    · exact (sameCore_updPath s i k (f := fun p => { p with passed := 0 }) (by intro; rfl)).trans (sameCore_post _ _ _)

theorem sameCore_countPassed (s t u : State) : SameCore u (countPassed s t u) := by
  unfold countPassed
  split
  · exact SameCore.refl u
  · split
    · exact SameCore.refl u
    · exact sameCore_foldl _ (fun s x => sameCore_passOver s _ _) _ u

theorem sameCore_noteTaken (s t u : State) (i : Instr) : SameCore u (noteTaken s t u i) := by
  unfold noteTaken
  split
  · exact SameCore.refl u
  · split
    · exact SameCore.refl u
    · exact ⟨rfl, rfl, rfl, rfl, rfl, rfl, rfl, rfl, rfl⟩

theorem sameCore_concluded {u : State} (h : u.wants = []) (s : State) (i : Instr) : SameCore u (concluded s u i) := by
  unfold concluded
  rw [if_pos (by rw [h]; rfl)]
  split
  · exact ⟨rfl, rfl, rfl, rfl, rfl, rfl, rfl, rfl, rfl⟩
  · exact SameCore.refl u

theorem sameCore_withdraw (s t : State) : SameCore t (withdraw s t) := sameCore_foldl _ (fun s _ => sameCore_post s _ _) _ t

theorem sameCore_busyNote (s : State) : SameCore s (busyNote s) := ⟨rfl, rfl, rfl, rfl, rfl, rfl, rfl, rfl, rfl⟩

theorem settle_of_settled {s : State} (h : s.Settled) : settle s = s := by
  unfold settle
  rw [h]

theorem settleLost_of_none {s : State} (h : s.fab.lost = []) : settleLost s = s := by
  unfold settleLost
  rw [if_pos (by rw [h]; rfl)]

/-- Settling does nothing where nothing is raised or lost. -/
theorem settled_keeps {s : State} (h : s.Settled) (hl : s.fab.lost = []) : settleLost (settle s) = s := by
  rw [settle_of_settled h, settleLost_of_none hl]

theorem sameCore_closeRun {s t u : State} {i : Instr} (h : u.Settled) (hw : u.wants = []) (hl : u.fab.lost = []) :
    SameCore u (closeRun s t u i) := by
  have e : closeRun s t u i = busyNote (withdraw t (settleLost (settle (noteTaken s t (countPassed s t (concluded t u i)) i)))) := by
    unfold closeRun
    simp only [hw, List.isEmpty_nil, if_true]
  have k := (sameCore_concluded hw t i).trans ((sameCore_countPassed s t _).trans (sameCore_noteTaken s t _ i))
  have hk : (noteTaken s t (countPassed s t (concluded t u i)) i).Settled := by unfold State.Settled; rw [k.sched]; exact h
  rw [e, settled_keeps hk (k.lost.trans hl)]
  exact k.trans ((sameCore_withdraw t _).trans (sameCore_busyNote _))

/-! ### Events and the clock -/

theorem serve_event {s : State} {e : Event} (he : e.what.form = .event) (ht : s.pkg.thermtrip = false) :
    serve s e = .run e.what { s with arg := e.arg, cur := none } := by
  unfold serve
  dsimp only
  rw [if_pos (by rw [ht, he]; rfl)]

theorem plan_inbox {s : State} {e : Event} {r : List Event} (h1 : s.turns = []) (h2 : s.inbox = e :: r) (he : e.what.form = .event)
    (ht : s.pkg.thermtrip = false) : plan s = .run e.what { s with inbox := r, arg := e.arg, cur := none } := by
  rw [plan_of_free h1, planFree_inbox h2]
  exact serve_event he ht

theorem streamFirst_head {s : State} {e : Event} {r : List Event} (h : s.net = e :: r) : streamFirst s 0 = 0 := by
  unfold streamFirst
  rw [h]
  cases he : e.stream s with
  | none => simp [he]
  | some st => simp [he, List.findIdx?_cons]

theorem sameClockFirst_head {s : State} {e : Event} {r : List Event} (h : s.net = e :: r) (hh : homeRequest e.what = false) :
    sameClockFirst s 0 = 0 := by
  unfold sameClockFirst
  simp [h, hh]

theorem plan_net {s : State} {e : Event} {r : List Event} (h1 : s.turns = []) (h2 : s.inbox = []) (h3 : s.net = e :: r)
    (he : e.what.form = .event) (hh : homeRequest e.what = false) (ht : s.pkg.thermtrip = false) :
    plan s = .run e.what { s with net := r, arg := e.arg, cur := none } := by
  have hn : serveNet s 0 = serve { s with net := r } e := by
    unfold serveNet
    rw [streamFirst_head h3, sameClockFirst_head h3 hh, streamFirst_head h3]
    simp only [h3, List.getElem?_cons_zero]
    rfl
  rw [plan_of_free h1, planFree_net h2 (by simp [h3]), hn]
  exact serve_event he ht

theorem plan_tick {s : State} (h1 : s.turns = []) (h2 : s.inbox = []) (h3 : s.net = []) (hb : bestPath (candidates s) = none) :
    plan s = .done (tick s) := by
  rw [plan_of_free h1, planFree_clock h2 h3 hb]

/-- What is kept by changes to the messages and to the routers' notes. -/
structure SameTick (s t : State) : Prop where
  clock : t.clock = s.clock
  mem : t.mem = s.mem
  hatches : t.hatches = s.hatches
  ops : t.ops = s.ops
  sched : t.sched = s.sched
  wants : t.wants = s.wants
  lost : t.fab.lost = s.fab.lost
  stalled : t.stalled = s.stalled

theorem sameTick_foldl {α : Type} (f : State → α → State) (hf : ∀ s a, SameTick s (f s a)) (xs : List α) (s : State) :
    SameTick s (xs.foldl f s) := by
  induction xs generalizing s with
  | nil => exact ⟨rfl, rfl, rfl, rfl, rfl, rfl, rfl, rfl⟩
  | cons a r ih =>
    have h := hf s a
    have g := ih (f s a)
    exact ⟨g.clock.trans h.clock, g.mem.trans h.mem, g.hatches.trans h.hatches, g.ops.trans h.ops, g.sched.trans h.sched,
      g.wants.trans h.wants, g.lost.trans h.lost, g.stalled.trans h.stalled⟩

theorem sameTick_postOnce (s : State) (i : Instr) (a : Arg) : SameTick s (s.postOnce i a) := by
  unfold State.postOnce
  split <;> exact ⟨rfl, rfl, rfl, rfl, rfl, rfl, rfl, rfl⟩

theorem sameTick_routerNote (s : State) : SameTick s (routerNote s) := by
  unfold routerNote
  split <;> exact ⟨rfl, rfl, rfl, rfl, rfl, rfl, rfl, rfl⟩

theorem sameTick_withdraw (s t : State) : SameTick t (withdraw s t) := by
  unfold withdraw
  exact sameTick_foldl _ (by intro s a; exact ⟨rfl, rfl, rfl, rfl, rfl, rfl, rfl, rfl⟩) _ t

/-- What a clock changes of the state itself. -/
theorem tick_spec (s : State) : (tick s).clock = s.clock + 1 ∧ (tick s).mem = s.mem ∧ (tick s).hatches = s.hatches.map (endLateAt s) ∧
    (tick s).ops = s.ops ∧ (tick s).sched = s.sched ∧ (tick s).wants = s.wants ∧ (tick s).fab.lost = s.fab.lost ∧
    (tick s).stalled = [] := by
  unfold tick
  dsimp only
  generalize hu : routerNote _ = u
  have h1 := sameTick_routerNote { s with
    clock := s.clock + 1
    hatches := s.hatches.map (endLateAt s)
    cores := s.cores.zipIdx.map (fun x => Core.endTaken (s.clock + 1)
      (if coresRun s && diePowered (s.dies.getD (coreDie x.2) Die.reset) then { x.1 with cycle := (x.1.cycle + 1) % 2 ^ 64 } else x.1)) }
  rw [hu] at h1
  have h2 := sameTick_foldl (fun s (e : Event) => s.postOnce e.what e.arg) (fun s e => sameTick_postOnce s _ _) (timersDue u) u
  exact ⟨h2.clock.trans h1.clock, h2.mem.trans h1.mem, h2.hatches.trans h1.hatches, h2.ops.trans h1.ops, h2.sched.trans h1.sched,
    h2.wants.trans h1.wants, h2.lost.trans h1.lost, rfl⟩

/-- The reads of MT 4 that have been used are over. -/
theorem concluded_ops {u : State} (h : u.wants = []) (s : State) (i : Instr) :
    (concluded s u i).ops = u.ops.filter (fun o => !(o.what == mt4Read && o.prog == 1)) := by
  unfold concluded
  rw [if_pos (by rw [h]; rfl)]
  split
  next => rfl
  next hn =>
    refine (List.filter_eq_self.2 (fun o ho => ?_)).symm
    by_contra hc
    exact hn (List.any_eq_true.2 ⟨o, ho, by simpa using hc⟩)

theorem concluded_stalled {u : State} (h : u.wants = []) (s : State) (i : Instr) :
    (concluded s u i).stalled = u.stalled ∧ (concluded s u i).hatches = u.hatches := by
  unfold concluded
  rw [if_pos (by rw [h]; rfl)]
  split <;> exact ⟨rfl, rfl⟩

theorem step_tick {s : State} (h1 : s.turns = []) (h2 : s.inbox = []) (h3 : s.net = []) (hb : bestPath (candidates s) = none)
    (hs : s.Settled) (hw : s.wants = []) (hl : s.fab.lost = []) :
    ∃ t, step s = .next t ∧ t.clock = s.clock + 1 ∧ t.mem = s.mem ∧ t.hatches = s.hatches.map (endLateAt s) ∧
      t.ops = s.ops.filter (fun o => !(o.what == mt4Read && o.prog == 1)) ∧ t.sched = s.sched ∧ t.stalled = [] := by
  obtain ⟨k1, k2, k3, k4, k5, k6, k7, k8⟩ := tick_spec s
  refine ⟨_, step_of_done (plan_tick h1 h2 h3 hb), ?_⟩
  unfold closeDone
  generalize hv : concluded _ (tick s) (.nop .l64 0) = v
  have hc := sameCore_concluded (k6.trans hw) { s with cur := (tick s).cur, arg := (tick s).arg, turns := (tick s).turns } (.nop .l64 0)
  have ho := concluded_ops (k6.trans hw) { s with cur := (tick s).cur, arg := (tick s).arg, turns := (tick s).turns } (.nop .l64 0)
  obtain ⟨hst, hha⟩ :=
    concluded_stalled (k6.trans hw) { s with cur := (tick s).cur, arg := (tick s).arg, turns := (tick s).turns } (.nop .l64 0)
  rw [hv] at hc ho hst hha
  have hvs : v.Settled := by unfold State.Settled; rw [hc.sched, k5]; exact hs
  rw [settled_keeps hvs (hc.lost.trans (k7.trans hl))]
  have w := sameTick_withdraw s v
  refine ⟨w.clock.trans (hc.clock.trans k1), w.mem.trans (hc.mem.trans k2), w.hatches.trans (hha.trans k3), ?_, w.sched.trans (hc.sched.trans k5),
    w.stalled.trans (hst.trans k8)⟩
  show (withdraw s v).ops = _
  rw [w.ops, ho, k4]

/-- Settles O27: what `plan` chooses in each case, and `closeRun` keeps what an instruction left. -/
theorem stepRunsDecoded : Obligations.StepRunsDecoded := by
  unfold Obligations.StepRunsDecoded
  refine ⟨fun s t h slot p bs h1 h2 h3 hb hd hf hw => step_fetched (plan_fetched h1 h2 h3 hb hd hf hw),
    fun s t u i hs hw hl => ?closes, fun s h1 ht => ⟨fun e r u h2 he hu => ?inbox, fun e r u h2 h3 he hh hu => ?net,
      fun h2 h3 hb hs hw hl => step_tick h1 h2 h3 hb hs hw hl⟩⟩
  case closes =>
    have k := sameCore_closeRun (s := s) (t := t) (i := i) hs hw hl
    exact ⟨k.stills, k.mem, k.slices, k.sched, k.tr, k.coh, k.host, k.clock⟩
  case inbox => exact step_of_run (plan_inbox h1 h2 he ht) hu
  case net => exact step_of_run (plan_net h1 h2 h3 he hh ht) hu

end Sys2Proof.Machine
end

section
/-! PROOFS. The statement of the paths' own events. -/

namespace Sys2Proof.Machine

/-! ### Events that end with the retry of what waits -/

/-- An event whose effect is the state u, with no trigger left to settle, answers u with everything tried again. -/
theorem answers_of_finish {i : Instr} {s u : State} {P : State → Prop} (he : exec i s = .next (finish u)) (hu : u.Settled)
    (hp : P u.wake) : Answers i s P := ⟨_, by rw [he, finish_settled hu], hp⟩

/-! ### Promotion, time-outs and deferred traps (R161, R162, R191) -/

/-- A wait of the path that the event names, which has been long enough, is over. -/
theorem answers_endWait {i : Instr} {s : State} {ends : Wait → Bool} {h : Hatch} {p : Path} (he : exec i s = .next (endWait s ends))
    (hs : s.Settled) (hh : s.hatch? s.arg.hatch = some h) (hp : h.path? s.arg.slot = some p) (hw : ends p.wait = true) :
    Answers i s (fun t => (t.hatch? s.arg.hatch).bind (fun g => g.path? s.arg.slot) = some { p with wait := .none } ∧
      t.mem = s.mem) := by
  refine answers_of_finish he hs ⟨?_, rfl⟩
  have := path_updPath s s.arg.hatch s.arg.slot (fun p => if ends p.wait then { p with wait := .none } else p)
  rw [hh, Option.bind_some, hp, Option.map_some, if_pos hw] at this
  exact this

/-- A record of a hatch outside its handler traps at the named path's instruction. -/
theorem deferTrap_some {s : State} {pick : Hatch → Option TrapReport} {note : State → State} {h : Hatch} {p : Path} {r : TrapReport}
    (hh : s.hatch? s.arg.hatch = some h) (hp : h.path? s.arg.slot = some p) (hr : pick h = some r) (ho : h.handler = false) :
    deferTrap s pick note = finish (takeTrap (note s) h.inst s.arg.slot p.pc r) := by
  simp [deferTrap, hh, hp, hr, ho]

/-- Settles O60, event by event: the three that change one path by the law of such changes, the two traps by the record that is
picked. -/
theorem pathEvents : Obligations.PathEvents := by
  intro s h p hh hp
  refine ⟨fun hs ho hn => ?_, fun since k hs hw ht => ?_, fun since a m hs hw ht => ?_, fun r ho hr => ?_, fun e rest ho hr he => ?_⟩
  · refine answers_of_finish (u := s.updPath s.arg.hatch s.arg.slot (fun p =>
      if p.handler || decide (7 ≤ p.prio + p.promo) then p else { p with promo := p.promo + 1 })) rfl hs ⟨?_, rfl, rfl⟩
    have := path_updPath s s.arg.hatch s.arg.slot (fun p =>
      if p.handler || decide (7 ≤ p.prio + p.promo) then p else { p with promo := p.promo + 1 })
    rw [hh, Option.bind_some, hp, Option.map_some, if_neg (by simp [ho]; omega)] at this
    exact this
  · exact answers_endWait rfl hs hh hp (by simp [hw, ht])
  · refine answers_endWait rfl hs hh hp ?_
    rcases hw with hw | hw <;> simp [hw, ht]
  · refine ⟨_, rfl, deferTrap_some hh hp ?_ ho⟩
    simp [hr]
  · refine ⟨_, rfl, deferTrap_some hh hp ?_ ho⟩
    simp [hr, he]
    rfl

end Sys2Proof.Machine
end

section
/-! PROOFS. What the log of errors and the channels leave unchanged. -/

namespace Sys2Proof.Machine

/-! ### The error log (R96, R97, R109) -/

/-- The host interface without what the error log and its signals change. -/
def HostIf.steady (h : HostIf) : HostIf :=
  { h with
    portA := { h.portA with statCorr := false, statUncorr := false, pba := 0 }
    portB := { h.portB with statCorr := false, statUncorr := false, pba := 0 }
    errCorr := 0, errNonfatal := 0, errFatal := 0, errLost := 0, errLog := [], errSeq := 0, errFirst := [] }

/-- The counters of errors by class. -/
def HostIf.counts (h : HostIf) : Nat × Nat × Nat := (h.errCorr, h.errNonfatal, h.errFatal)

/-- Between s and t nothing has happened but reports of errors. -/
structure Reports (s t : State) : Prop where
  eq : t = { s with host := t.host, out := t.out }
  host : t.host.steady = s.host.steady
  out : ∃ o, t.out = s.out ++ o

theorem Reports.refl (s : State) : Reports s s := ⟨rfl, rfl, [], (List.append_nil _).symm⟩

theorem Reports.trans {s t u : State} (h : Reports s t) (g : Reports t u) : Reports s u := by
  obtain ⟨o, ho⟩ := h.out
  obtain ⟨p, hp⟩ := g.out
  refine ⟨?_, g.host.trans h.host, o ++ p, by rw [hp, ho, List.append_assoc]⟩
  have e := g.eq
  rw [h.eq] at e
  exact e

/-- What does not look at the host interface and the messages out is as it was. -/
theorem Reports.keeps {α : Type} {s t : State} (h : Reports s t) (F : State → α)
    (hF : ∀ a b, F { s with host := a, out := b } = F s) : F t = F s := (congrArg F h.eq).trans (hF _ _)

theorem Reports.sched {s t : State} (h : Reports s t) : t.sched = s.sched := h.keeps State.sched (fun _ _ => rfl)
theorem Reports.ms {s t : State} (h : Reports s t) : t.ms = s.ms := h.keeps State.ms (fun _ _ => rfl)
theorem Reports.ecc1 {s t : State} (h : Reports s t) : t.ecc1 = s.ecc1 := h.keeps State.ecc1 (fun _ _ => rfl)
theorem Reports.work {s t : State} (h : Reports s t) : SameWork s t :=
  ⟨h.keeps State.mem (fun _ _ => rfl), h.keeps State.slices (fun _ _ => rfl), h.keeps State.hatches (fun _ _ => rfl),
    h.keeps State.ops (fun _ _ => rfl)⟩

theorem Reports.settled {s t : State} (h : Reports s t) (hs : s.Settled) : t.Settled := (congrArg Sched.raised h.sched).trans hs

theorem reports_ite {b : Prop} [Decidable b] {s t u : State} (ht : Reports s t) (hu : Reports s u) : Reports s (if b then t else u) := by
  split <;> assumption

theorem reports_emit (s : State) (m : OutMsg) : Reports s (s.emit m) := ⟨rfl, rfl, [m], rfl⟩

/-- A change to a port that its status bits and pending vectors alone show. -/
theorem reports_updPort (s : State) (p : Port) {f : PortState → PortState}
    (hf : ∀ q, { f q with statCorr := false, statUncorr := false, pba := 0 } = { q with statCorr := false, statUncorr := false, pba := 0 }) :
    Reports s (s.updPort p f) ∧ (s.updPort p f).host.counts = s.host.counts := by
  cases p
  · refine ⟨⟨rfl, ?_, [], (List.append_nil _).symm⟩, rfl⟩
    simp only [State.updPort, HostIf.steady, hf]
  · refine ⟨⟨rfl, ?_, [], (List.append_nil _).symm⟩, rfl⟩
    simp only [State.updPort, HostIf.steady, hf]

theorem reports_aerSignal (s : State) (p : Port) (cls event : Nat) :
    Reports s (aerSignal s p cls event) ∧ (aerSignal s p cls event).host.counts = s.host.counts := by
  unfold aerSignal
  extract_lets q masked s1
  have h1 : Reports s s1 ∧ s1.host.counts = s.host.counts := by
    unfold s1
    split
    · exact reports_updPort s p (fun q => by split <;> rfl)
    · exact ⟨.refl s, rfl⟩
  split
  · exact ⟨h1.1.trans (reports_emit _ _), h1.2⟩
  · exact h1

theorem reports_sendVector (s : State) (p : Port) (v : Nat) :
    Reports s (sendVector s p v) ∧ (sendVector s p v).host.counts = s.host.counts := by
  unfold sendVector
  dsimp only
  split
  · exact ⟨.refl s, rfl⟩
  split
  · exact reports_updPort s p (fun q => rfl)
  · exact ⟨reports_emit s _, rfl⟩

/-- What the log of an event counts, by its class. -/
def HostIf.counted (h : HostIf) (cls : Nat) : Nat × Nat × Nat :=
  if cls = 0 then (satInc h.errCorr, h.errNonfatal, h.errFatal)
  else if cls = 1 then (h.errCorr, satInc h.errNonfatal, h.errFatal)
  else (h.errCorr, h.errNonfatal, satInc h.errFatal)

theorem reports_recordError (s : State) (cls source event where_ info addr : Nat) :
    Reports s (recordError s cls source event where_ info addr) ∧
      (recordError s cls source event where_ info addr).host.counts = s.host.counted cls := by
  unfold recordError
  extract_lets h0 h1 first want h2 h3 stored s1 vec
  have e1 : h1.steady = h0.steady ∧ h1.counts = h0.counted cls := by
    unfold h1 HostIf.counted
    by_cases c0 : cls = 0
    · simp [c0, HostIf.steady, HostIf.counts]
    · by_cases c1 : cls = 1 <;> simp [c0, c1, HostIf.steady, HostIf.counts]
  have e2 : h2.steady = h1.steady ∧ h2.counts = h1.counts := by unfold h2; split <;> exact ⟨rfl, rfl⟩
  have e3 : h3.steady = h2.steady ∧ h3.counts = h2.counts := by unfold h3; split_ifs <;> exact ⟨rfl, rfl⟩
  have hs : Reports s s1 := ⟨rfl, e3.1.trans (e2.1.trans e1.1), [], (List.append_nil _).symm⟩
  have hv : ∀ u p, Reports u (vec u p) ∧ (vec u p).host.counts = u.host.counts := by
    intro u p
    unfold vec
    split
    · exact reports_sendVector u p 1
    · exact ⟨.refl u, rfl⟩
  exact ⟨hs.trans ((hv _ _).1.trans (hv _ _).1),
    (hv _ _).2.trans ((hv _ _).2.trans (e3.2.trans (e2.2.trans e1.2)))⟩

/-- A logged event changes nothing but the log and its signals, and is counted in its class (R109). -/
theorem reports_logError (s : State) (cls source event where_ info addr : Nat) :
    Reports s (logError s cls source event where_ info addr) ∧
      (logError s cls source event where_ info addr).host.counts = s.host.counted cls := by
  have h := reports_recordError s cls source event where_ info addr
  have ha := reports_aerSignal (recordError s cls source event where_ info addr) .a cls event
  have hb := reports_aerSignal (aerSignal (recordError s cls source event where_ info addr) .a cls event) .b cls event
  exact ⟨h.1.trans (ha.1.trans hb.1), hb.2.trans (ha.2.trans h.2)⟩

/-! ### The channels' records -/

theorem find?_assocSet {α : Type} (k c : Nat) (v : α) (xs : List (Nat × α)) :
    (assocSet k v xs).find? (fun x => x.1 == c) = if c = k then some (k, v) else xs.find? (fun x => x.1 == c) := by
  induction xs with
  | nil =>
    by_cases h : c = k
    · simp [assocSet, h]
    · simp [assocSet, h, Ne.symm h]
  | cons x xs ih =>
    obtain ⟨j, w⟩ := x
    unfold assocSet
    by_cases h : c = k
    · subst h
      split
      · simp
      split
      · simp
      next h1 h2 => simp [h2, ih]
    · split
      · simp [List.find?_cons, Ne.symm h]
      split
      next h1 h2 => subst h2; simp [Ne.symm h]
      next h1 h2 => simp only [List.find?_cons, ih, if_neg h]

theorem chan_setChan (s : State) (i c : Nat) (ch : Channel) : (s.setChan i ch).chan c = if c = i then ch else s.chan c := by
  unfold State.chan State.setChan
  dsimp only
  rw [find?_assocSet]
  split <;> rfl

theorem chan_of_ms {s t : State} (h : t.ms = s.ms) (c : Nat) : t.chan c = s.chan c := by
  unfold State.chan; rw [h]

end Sys2Proof.Machine
end

section
/-! PROOFS. The statement of the memory side: which request a channel serves, the scrubber, and the fading of windows. -/

namespace Sys2Proof.Machine

/-! ### The request that a channel serves next (R58) -/

theorem leastBy_none {α : Type} {key : α → Nat} {xs : List α} (h : leastBy key xs = none) : xs = [] := by
  cases xs with
  | nil => rfl
  | cons x r =>
    unfold leastBy at h
    split at h
    · cases h
    · split_ifs at h

theorem leastBy_some {α : Type} {key : α → Nat} {xs : List α} {r : α} (h : leastBy key xs = some r) :
    r ∈ xs ∧ ∀ x ∈ xs, key r ≤ key x := by
  induction xs generalizing r with
  | nil => cases h
  | cons x xs ih =>
    unfold leastBy at h
    split at h
    next hn =>
      cases h
      rw [leastBy_none hn]
      simp
    next y hy =>
      obtain ⟨hm, hle⟩ := ih hy
      split_ifs at h with hk
      · cases h
        exact ⟨List.mem_cons_self, List.forall_mem_cons.2 ⟨Nat.le_refl _, fun z hz => Nat.le_trans hk (hle z hz)⟩⟩
      · cases h
        exact ⟨List.mem_cons_of_mem _ hm, List.forall_mem_cons.2 ⟨by omega, hle⟩⟩

/-- Where a request has waited 2,048 clocks, the one that has waited longest is next. -/
theorem nextRequest_starved {s : State} {ch : Channel} {r : ChanReq} (h : nextRequest s ch = some r)
    (hx : ∃ x ∈ ch.pending, x.at_ + 2048 ≤ s.clock) : r ∈ ch.pending ∧ ∀ x ∈ ch.pending, r.at_ ≤ x.at_ := by
  obtain ⟨x, hm, ht⟩ := hx
  have hf : x ∈ ch.pending.filter (fun r => decide (r.at_ + 2048 ≤ s.clock)) := List.mem_filter.2 ⟨hm, by simpa using ht⟩
  unfold nextRequest at h
  split at h
  next y hy =>
    cases h
    obtain ⟨hr, hle⟩ := leastBy_some hy
    obtain ⟨hr, hd⟩ := List.mem_filter.1 hr
    refine ⟨hr, fun z hz => ?_⟩
    by_cases hw : z.at_ + 2048 ≤ s.clock
    · exact hle z (List.mem_filter.2 ⟨hz, by simpa using hw⟩)
    · have := of_decide_eq_true hd
      omega
  next hn => rw [leastBy_none hn] at hf; cases hf

/-- Where none has waited so long, a request of the group in service is next. -/
theorem nextRequest_serving {s : State} {ch : Channel} {r : ChanReq} {g : Nat} (h : nextRequest s ch = some r)
    (hw : ∀ x ∈ ch.pending, s.clock < x.at_ + 2048) (hg : ch.serving = some g) (hx : ∃ x ∈ ch.pending, x.group = g ∧ x.single = false) :
    r.group = g ∧ r.single = false := by
  have hf : ch.pending.filter (fun r => decide (r.at_ + 2048 ≤ s.clock)) = [] :=
    List.filter_eq_nil_iff.2 (fun x hm => by have := hw x hm; simpa using this)
  obtain ⟨x, hm, hxg, hxs⟩ := hx
  unfold nextRequest at h
  rw [hf, hg] at h
  dsimp only [leastBy, Option.bind_some] at h
  split at h
  next y hy => cases h; simpa using List.find?_some hy
  next hn => exact absurd (List.find?_eq_none.1 hn x hm) (by simp [hxg, hxs])

/-! ### What the channels' service leaves unchanged (R51 to R55) -/

/-- Between s and t the memory side alone has worked: nothing that runs and no trigger has changed, and no channel's list of requests. -/
structure Serves (s t : State) : Prop where
  work : SameWork s t
  sched : t.sched = s.sched
  pending : ∀ c, (t.chan c).pending = (s.chan c).pending

theorem Serves.refl (s : State) : Serves s s := ⟨⟨rfl, rfl, rfl, rfl⟩, rfl, fun _ => rfl⟩

theorem SameWork.trans {s t u : State} (h : SameWork s t) (g : SameWork t u) : SameWork s u := by
  obtain ⟨h1, h2, h3, h4⟩ := h
  obtain ⟨g1, g2, g3, g4⟩ := g
  exact ⟨g1.trans h1, g2.trans h2, g3.trans h3, g4.trans h4⟩

theorem Serves.trans {s t u : State} (h : Serves s t) (g : Serves t u) : Serves s u :=
  ⟨h.work.trans g.work, g.sched.trans h.sched, fun c => (g.pending c).trans (h.pending c)⟩

theorem Reports.serves {s t : State} (h : Reports s t) : Serves s t :=
  ⟨h.work, h.sched, fun c => by rw [chan_of_ms h.ms]⟩

theorem serves_foldl {α : Type} (f : State → α → State) (hf : ∀ s a, Serves s (f s a)) (xs : List α) (s : State) :
    Serves s (xs.foldl f s) := by
  induction xs generalizing s with
  | nil => exact .refl s
  | cons x xs ih => exact (hf s x).trans (ih _)

theorem serves_setChan (s : State) (c : Nat) {ch : Channel} (h : ch.pending = (s.chan c).pending) : Serves s (s.setChan c ch) := by
  refine ⟨⟨rfl, rfl, rfl, rfl⟩, rfl, fun k => ?_⟩
  rw [chan_setChan]
  split
  next e => rw [h, e]
  · rfl

/-- A correction of one sector with its report. -/
theorem serves_correct (s : State) (x cls source event where_ info addr : Nat) :
    Serves s (logError { s with ecc1 := sectorDel x s.ecc1 } cls source event where_ info addr) :=
  .trans (t := { s with ecc1 := sectorDel x s.ecc1 }) ⟨⟨rfl, rfl, rfl, rfl⟩, rfl, fun _ => rfl⟩
    (reports_logError _ cls source event where_ info addr).1.serves

theorem serves_eccRead (s : State) (line : Nat) (sectors : BitVec 4) : Serves s (eccRead s line sectors) := by
  unfold eccRead
  split
  · exact .refl s
  · exact serves_foldl _ (fun s i => serves_correct s _ _ _ _ _ _ _) _ _

theorem serves_chanFill (s : State) (line : Nat) (sectors : BitVec 4) : Serves s (chanFill s line sectors) := by
  unfold chanFill
  split
  · exact .refl s
  next d hd =>
  extract_lets c ch more same pins win full ms s1 lines
  split
  · exact serves_setChan s c rfl
  · have h1 : Serves s s1 := by
      unfold s1
      split
      · exact ⟨⟨rfl, rfl, rfl, rfl⟩, rfl, fun _ => rfl⟩
      · exact .refl s
    exact h1.trans (serves_setChan s1 c (h1.pending c).symm)

theorem serves_chanMiss (s : State) (c : Nat) : Serves s (chanMiss s c) := by
  have h : Serves s (s.setChan c { s.chan c with misses := (s.chan c).misses + 1 }) := serves_setChan s c rfl
  unfold chanMiss
  dsimp only
  split
  · exact h.trans ⟨⟨rfl, rfl, rfl, rfl⟩, rfl, fun _ => rfl⟩
  · exact h

theorem serves_chanServe (s : State) (line : Nat) (sectors : BitVec 4) : Serves s (chanServe s line sectors) := by
  unfold chanServe
  split
  · exact .refl s
  dsimp only
  split
  · exact serves_chanFill s line sectors
  · exact (serves_eccRead s line _).trans ((serves_chanFill _ line sectors).trans
      ((serves_chanMiss _ _).trans (serves_setChan _ _ rfl)))

/-- Serving a request takes it from its channel's list. -/
theorem serveRequest_spec (s : State) (c : Nat) (r : ChanReq) :
    SameWork s (serveRequest s c r) ∧ (serveRequest s c r).sched = s.sched ∧
      ((serveRequest s c r).chan c).pending = (s.chan c).pending.erase r := by
  unfold serveRequest
  extract_lets ch rest left serving s1
  have h := serves_chanServe s1 r.line r.sectors
  refine ⟨h.work, h.sched, (h.pending c).trans ?_⟩
  unfold s1
  rw [chan_setChan, if_pos rfl]

/-! ### Patrol scrubbing (R43) -/

/-- Corrections of sectors take them, and no others, from those with a single-bit error, and leave the scrubber where it stands. -/
theorem corrections_ecc1 (d : Nat) (where_ : Nat) (addr : State → Nat → Nat) (hit : List Nat) (s : State) :
    let t := hit.foldl (fun s i => logError { s with ecc1 := sectorDel (d * 4 + i) s.ecc1 } 0 0 0x0001 where_ 0 (addr s i)) s
    t.ms = s.ms ∧ ∀ x, x ∈ t.ecc1 ↔ x ∈ s.ecc1 ∧ ∀ i ∈ hit, x ≠ d * 4 + i := by
  induction hit generalizing s with
  | nil => simp
  | cons i hit ih =>
    have hr := (reports_logError { s with ecc1 := sectorDel (d * 4 + i) s.ecc1 } 0 0 0x0001 where_ 0 (addr s i)).1
    obtain ⟨hm, he⟩ := ih (logError { s with ecc1 := sectorDel (d * 4 + i) s.ecc1 } 0 0 0x0001 where_ 0 (addr s i))
    refine ⟨hm.trans hr.ms, fun x => (he x).trans ?_⟩
    rw [hr.ecc1, List.forall_mem_cons]
    simp [sectorDel, and_assoc]

/-- A scrubbed line has no single-bit error left, and every other line keeps its own. -/
theorem scrubLine_spec (s : State) (d : Nat) :
    Serves s (scrubLine s d) ∧ (scrubLine s d).ms = s.ms ∧ (∀ i, i < 4 → d * 4 + i ∉ (scrubLine s d).ecc1) ∧
      ∀ x ∈ s.ecc1, x / 4 ≠ d → x ∈ (scrubLine s d).ecc1 := by
  unfold scrubLine
  obtain ⟨hm, he⟩ := corrections_ecc1 d (dlStack d) (fun s i => (paOfDram s d).elim 0 (fun pa => pa + 32 * i))
    ((List.range 4).filter (fun i => s.ecc1.contains (d * 4 + i))) s
  refine ⟨serves_foldl _ (fun s i => serves_correct s (d * 4 + i) 0 0 1 (dlStack d) 0 _) _ _, hm, fun i hi hc => ?_, fun x hx hd => (he x).2 ⟨hx, fun i hi => ?_⟩⟩
  · obtain ⟨hx, hn⟩ := (he _).1 hc
    exact hn i (List.mem_filter.2 ⟨List.mem_range.2 hi, by simpa using hx⟩) rfl
  · have := List.mem_range.1 (List.mem_filter.1 hi).1
    omega

/-! ### Fading windows (R54, R55) -/

/-- A window after a decrement at a clock: it is kept where it was hit in that clock, and gone where it would fall to 0. -/
def Window.faded (clock : Nat) (w : Window) : Option Window :=
  if w.hitAt = some clock then some w else if w.fade ≤ 1 then none else some { w with fade := w.fade - 1 }

theorem fadeOne_spec (s : State) (i : Nat) :
    SameWork s (fadeOne s i) ∧ (fadeOne s i).sched = s.sched ∧ (fadeOne s i).clock = s.clock ∧
      ∀ j, (fadeOne s i).ms.windows.getD j none =
        if j = i then (s.ms.windows.getD j none).bind (Window.faded s.clock) else s.ms.windows.getD j none := by
  have set_at : ∀ (xs : List (Option Window)) (w : Window) (y : Option Window) (j : Nat), xs.getD i none = some w →
      (xs.set i y).getD j none = if j = i then y else xs.getD j none := by
    intro xs w y j hw
    have hl : i < xs.length := by
      by_contra hc
      rw [List.getD_eq_default _ _ (by omega)] at hw
      cases hw
    split
    next e => rw [e]; exact getD_set_self y none hl
    next e => exact getD_set_ne y none e
  unfold fadeOne
  split
  next hn => exact ⟨⟨rfl, rfl, rfl, rfl⟩, rfl, rfl, fun j => by split <;> simp_all⟩
  next w hw =>
  have hb : (s.ms.windows.getD i none).bind (Window.faded s.clock) = Window.faded s.clock w := by rw [hw]; rfl
  split_ifs with h1 h2
  · refine ⟨⟨rfl, rfl, rfl, rfl⟩, rfl, rfl, fun j => ?_⟩
    split
    next e => rw [e, hb, hw]; simp_all [Window.faded]
    · rfl
  · refine ⟨⟨rfl, rfl, rfl, rfl⟩, rfl, rfl, fun j => (set_at _ w none j hw).trans ?_⟩
    split
    next e => rw [e, hb]; simp_all [Window.faded]
    · rfl
  · refine ⟨⟨rfl, rfl, rfl, rfl⟩, rfl, rfl, fun j => (set_at _ w _ j hw).trans ?_⟩
    split
    next e => rw [e, hb]; simp_all [Window.faded]
    · rfl

/-- One decrement of several windows. -/
theorem fades_spec (due : List Nat) (hd : due.Nodup) (s : State) :
    SameWork s (due.foldl fadeOne s) ∧ (due.foldl fadeOne s).sched = s.sched ∧
      ∀ j, (due.foldl fadeOne s).ms.windows.getD j none =
        if j ∈ due then (s.ms.windows.getD j none).bind (Window.faded s.clock) else s.ms.windows.getD j none := by
  induction due generalizing s with
  | nil => exact ⟨⟨rfl, rfl, rfl, rfl⟩, rfl, fun j => rfl⟩
  | cons i due ih =>
    obtain ⟨hi, hd⟩ := List.nodup_cons.1 hd
    obtain ⟨hw, hs, hc, hj⟩ := fadeOne_spec s i
    obtain ⟨kw, ks, kj⟩ := ih hd (fadeOne s i)
    refine ⟨hw.trans kw, ks.trans hs, fun j => (kj j).trans ?_⟩
    rw [hj, hc]
    by_cases e : j = i
    · subst e; simp [hi]
    · simp [e]

/-- Settles O48: the order of requests by its two rules, the scrubber by its corrections, and fading window by window. -/
theorem memorySide : Obligations.MemorySide := by
  intro s hs
  refine ⟨fun r hr => ⟨nextRequest_starved hr, fun g => nextRequest_serving hr, ?_⟩, fun hl => ?_, ?_⟩
  · obtain ⟨hw, hq, hp⟩ := serveRequest_spec s s.arg.chan r
    refine answers_of_finish (u := serveRequest s s.arg.chan r) ?_ ((congrArg Sched.raised hq).trans hs) ⟨hw, hp⟩
    change execChannelAccess s = _
    simp only [execChannelAccess, hr]
  · obtain ⟨hv, hm, hn, hk⟩ := scrubLine_spec { s with ms := { s.ms with scrubNext := (s.ms.scrubNext + 1) % dramLines } } s.ms.scrubNext
    refine answers_of_finish (u := scrubLine { s with ms := { s.ms with scrubNext := (s.ms.scrubNext + 1) % dramLines } } s.ms.scrubNext)
      ?_ ((congrArg Sched.raised hv.sched).trans hs) ⟨hv.work, congrArg MemSide.scrubNext hm, hn, hk⟩
    change execPatrolScrub s = _
    simp [execPatrolScrub, hl]
  · obtain ⟨hw, hq, hj⟩ := fades_spec ((List.range 32).filter (fun i => (s.ms.windows.getD i none).elim false (fun w => windowOn s w s.arg.chan)))
      (List.nodup_range.filter _) s
    refine answers_of_finish rfl ((congrArg Sched.raised hq).trans hs) ⟨hw, fun i w hi hx => (hj i).trans ?_⟩
    have hg : s.ms.windows.getD i none = some w := by rw [List.getD_eq_getElem?_getD, hx]; rfl
    by_cases ho : windowOn s w s.arg.chan = true
    · rw [if_pos (List.mem_filter.2 ⟨List.mem_range.2 hi, by rw [hg]; exact ho⟩), hg]
      simp [Window.faded, ho]
    · rw [if_neg (fun hc => ho (by have := (List.mem_filter.1 hc).2; rwa [hg] at this)), hg]
      simp [ho]

end Sys2Proof.Machine
end

section
/-! PROOFS. How the commands of the management window end: the semaphore, the response, and what they leave unchanged. -/

namespace Sys2Proof.Machine

/-! ### Messages to the ports (R97) -/

/-- A vector sent on a port changes the pending vectors of the ports, and what has left. -/
theorem sendVector_eq (s : State) (p : Port) (v : Nat) : ∃ a b o, sendVector s p v =
    { s with
      host := { s.host with portA := { s.host.portA with pba := a }, portB := { s.host.portB with pba := b } }
      out := s.out ++ o } := by
  unfold sendVector
  dsimp only
  split
  · exact ⟨s.host.portA.pba, s.host.portB.pba, [], by rw [List.append_nil]⟩
  split
  · cases p
    · refine ⟨if bitAt s.host.portA.pba v then s.host.portA.pba else s.host.portA.pba + 2 ^ v, s.host.portB.pba, [], ?_⟩
      rw [List.append_nil]
      rfl
    · refine ⟨s.host.portA.pba, if bitAt s.host.portB.pba v then s.host.portB.pba else s.host.portB.pba + 2 ^ v, [], ?_⟩
      rw [List.append_nil]
      rfl
  · exact ⟨s.host.portA.pba, s.host.portB.pba, [.msix p v], rfl⟩

/-- The semaphore falls free, and the ports that were refused are told. -/
theorem freeSem_eq (s : State) : ∃ a b o, freeSem s =
    { s with
      host := { s.host with
        portA := { s.host.portA with pba := a }, portB := { s.host.portB with pba := b }
        semHolder := none, semReleasePending := false, semRefused := [] }
      out := s.out ++ o } := by
  unfold freeSem
  extract_lets told _ s1
  have tell : ∀ (u : State) (p : Port), ∃ a b o, (if told.contains (portRequester p) then sendVector u p 2 else u) =
      { u with
        host := { u.host with portA := { u.host.portA with pba := a }, portB := { u.host.portB with pba := b } }
        out := u.out ++ o } := by
    intro u p
    split
    · exact sendVector_eq u p 2
    · exact ⟨u.host.portA.pba, u.host.portB.pba, [], by rw [List.append_nil]⟩
  obtain ⟨a, b, o, e1⟩ := tell s1 .a
  obtain ⟨c, d, q, e2⟩ := tell { s1 with
      host := { s1.host with portA := { s1.host.portA with pba := a }, portB := { s1.host.portB with pba := b } },
      out := s1.out ++ o } .b
  refine ⟨c, d, o ++ q, ?_⟩
  rw [List.foldl_cons, List.foldl_cons, List.foldl_nil, e1, e2, ← List.append_assoc]

theorem freeSem_work (s : State) : SameWork s (freeSem s) := by
  obtain ⟨a, b, o, e⟩ := freeSem_eq s
  rw [e]
  exact ⟨rfl, rfl, rfl, rfl⟩

theorem freeSem_settled {s : State} (h : s.Settled) : (freeSem s).Settled := by
  obtain ⟨a, b, o, e⟩ := freeSem_eq s
  rw [e]
  exact h

/-! ### The end of a command (R97, R102, R103) -/

/-- A command ends: its response is in the buffer, the semaphore may fall free and vectors be sent, and nothing else changes. -/
theorem completeCmd_eq (s : State) (status : Nat) (resp : List Byte) : ∃ a b sem pend ref o, completeCmd s status resp =
    { s with
      host := { s.host with
        portA := { s.host.portA with pba := a }, portB := { s.host.portB with pba := b }
        semHolder := sem, semReleasePending := pend, semRefused := ref
        cmdBusy := false, cmdDone := true, cmdRespLen := resp.length, cmdStatus := status, cmdBuf := bufWrite s.host.cmdBuf 0 resp }
      out := s.out ++ o } := by
  unfold completeCmd
  extract_lets _ s1 s2
  have h2 : ∃ a b o, s2 = { s1 with
      host := { s1.host with portA := { s1.host.portA with pba := a }, portB := { s1.host.portB with pba := b } }
      out := s1.out ++ o } := by
    unfold s2
    split
    · exact ⟨s1.host.portA.pba, s1.host.portB.pba, [], by rw [List.append_nil]⟩
    next p hp => exact sendVector_eq s1 p 0
  obtain ⟨a, b, o, e⟩ := h2
  split
  · obtain ⟨c, d, q, e'⟩ := freeSem_eq s2
    refine ⟨c, d, none, false, [], o ++ q, ?_⟩
    rw [e', e, ← List.append_assoc]
  · exact ⟨a, b, s.host.semHolder, s.host.semReleasePending, s.host.semRefused, o, e⟩

theorem take_bufWrite (buf bs : List Byte) : (bufWrite buf 0 bs).take bs.length = bs := by
  simp [bufWrite, sliceBytes]

/-- The host interface without what a command's end changes. -/
def HostIf.uncommanded (h : HostIf) : HostIf :=
  { h with
    portA := { h.portA with pba := 0 }, portB := { h.portB with pba := 0 }
    semHolder := none, semReleasePending := false, semRefused := []
    cmdBusy := false, cmdDone := false, cmdRespLen := 0, cmdStatus := 0, cmdBuf := [] }

/-- State t is what is left when a command ends in u: it has its response, and everything that waits is tried again. -/
structure CommandEnds (u t : State) (status : Nat) (resp : List Byte) : Prop where
  eq : t = { u.wake with host := t.host, out := t.out }
  host : t.host.uncommanded = u.host.uncommanded
  done : CmdDone t status resp

theorem completeCmd_ends (u : State) (status : Nat) (resp : List Byte) : CommandEnds u (completeCmd u status resp).wake status resp := by
  obtain ⟨a, b, sem, pend, ref, o, e⟩ := completeCmd_eq u status resp
  rw [e]
  exact ⟨rfl, rfl, rfl, rfl, rfl, rfl, take_bufWrite _ _⟩

/-- What does not look at the host interface and the messages is as the command's own work left it. -/
theorem CommandEnds.keeps {α : Type} {u t : State} {st : Nat} {r : List Byte} (h : CommandEnds u t st r) (F : State → α)
    (hF : ∀ a b, F { u.wake with host := a, out := b } = F u) : F t = F u := (congrArg F h.eq).trans (hF _ _)

theorem CommandEnds.work {u t : State} {st : Nat} {r : List Byte} (h : CommandEnds u t st r) : SameWork u t :=
  ⟨h.keeps State.mem (fun _ _ => rfl), h.keeps State.slices (fun _ _ => rfl), h.keeps State.hatches (fun _ _ => rfl),
    h.keeps State.ops (fun _ _ => rfl)⟩

theorem completeCmd_settled {s : State} (h : s.Settled) (st : Nat) (r : List Byte) : (completeCmd s st r).Settled := by
  obtain ⟨a, b, sem, pend, ref, o, e⟩ := completeCmd_eq s st r
  rw [e]
  exact h

/-- A command whose body gives a response ends with it. -/
theorem commands_of_done {i : Instr} {s u : State} {body : State → State × CmdRes} {r : List Byte} {P : State → Prop}
    (he : exec i s = runCommand i body s) (hb : body s = (u, .done r)) (hu : u.Settled)
    (hp : ∀ t, CommandEnds u t 0 r → P t) : Commands i s 0 r P := by
  have h := completeCmd_ends u 0 r
  refine answers_of_finish (u := completeCmd u 0 r) ?_ (completeCmd_settled hu _ _) ⟨h.done, hp _ h⟩
  rw [he, runCommand, hb]
  rfl

/-- A command whose body fails ends with its status and no response. -/
theorem commands_of_fail {i : Instr} {s u : State} {body : State → State × CmdRes} {st : Nat} {P : State → Prop}
    (he : exec i s = runCommand i body s) (hb : body s = (u, .fail st)) (hu : u.Settled)
    (hp : ∀ t, CommandEnds u t st [] → P t) : Commands i s st [] P := by
  have h := completeCmd_ends u st []
  refine answers_of_finish (u := completeCmd u st []) ?_ (completeCmd_settled hu _ _) ⟨h.done, hp _ h⟩
  rw [he, runCommand, hb]

/-- A command that has made progress goes on as an event of its own row. -/
theorem answers_of_again {i : Instr} {s u : State} {body : State → State × CmdRes} {P : State → Prop}
    (he : exec i s = runCommand i body s) (hb : body s = (u, .again)) (hu : u.Settled) (hp : P (u.post i u.arg).wake) : Answers i s P := by
  refine answers_of_finish (u := u.post i u.arg) ?_ hu hp
  rw [he, runCommand, hb]

/-- A command that must wait is tried again after the next change. -/
theorem answers_of_wait {i : Instr} {s u : State} {body : State → State × CmdRes} {P : State → Prop}
    (he : exec i s = runCommand i body s) (hb : body s = (u, .wait)) (hu : u.Settled) (hp : P (u.park i)) : Answers i s P := by
  refine ⟨_, ?_, hp⟩
  rw [he, runCommand, hb]
  have hq : settle u = u := by unfold settle; rw [hu]
  exact congrArg (fun x => Host.Outcome.next (x.park i)) hq

/-- What a post adds is in flight once everything is tried again. -/
theorem mem_net_post (s : State) (i : Instr) (a : Arg) : (⟨i, a⟩ : Event) ∈ (s.post i a).wake.net :=
  List.mem_append_right _ (List.mem_append_right _ (List.mem_singleton.2 rfl))

end Sys2Proof.Machine
end

section
/-! PROOFS. The statement of the management window: reads and releases of the semaphore, the command buffer, and GO. -/

namespace Sys2Proof.Machine

/-! ### Bytes of a number, and bytes written to a buffer -/

theorem length_natBytes (n v : Nat) : (natBytes n v).length = n := by
  induction n generalizing v with
  | zero => rfl
  | succ n ih => exact congrArg (· + 1) (ih _)

theorem bytesNat_natBytes (n v : Nat) : bytesNat (natBytes n v) = v % 256 ^ n := by
  induction n generalizing v with
  | zero => simp [natBytes, bytesNat, Nat.mod_one]
  | succ n ih =>
    rw [natBytes, bytesNat, ih, Nat.pow_succ, Nat.mul_comm (256 ^ n), Nat.mod_mul]
    simp

theorem length_sliceBytes (bs : List Byte) (off n : Nat) : (sliceBytes bs off n).length = n := by
  simp [sliceBytes]

theorem sliceBytes_eq {xs ys : List Byte} {off n : Nat} (hl : ys.length = n) (h : ∀ i, i < n → xs.getD (off + i) 0 = ys.getD i 0) :
    sliceBytes xs off n = ys := by
  refine List.ext_getElem (by rw [length_sliceBytes, hl]) (fun i h1 h2 => ?_)
  rw [hl] at h2
  simp only [sliceBytes, List.getElem_map, List.getElem_range]
  rw [h i h2, List.getD_eq_getElem ys 0 (by omega)]

/-- What is written to the command buffer reads back. -/
theorem sliceBytes_bufWrite {buf bs : List Byte} {off m : Nat} (h : off + bs.length ≤ m) :
    sliceBytes ((bufWrite buf off bs).take m) off bs.length = bs := by
  refine sliceBytes_eq rfl (fun i hi => ?_)
  rw [List.getD_eq_getElem?_getD, List.getElem?_take_of_lt (by omega)]
  unfold bufWrite
  rw [List.append_assoc, List.getElem?_append_right (by rw [length_sliceBytes]; omega), length_sliceBytes,
    List.getElem?_append_left (by omega), Nat.add_sub_cancel_left, ← List.getD_eq_getElem?_getD]

theorem mem_dedup {α : Type} [BEq α] [LawfulBEq α] (x : α) (xs : List α) (h : x ∈ xs) : x ∈ dedup xs := by
  induction xs with
  | nil => exact h
  | cons y ys ih =>
    rw [dedup]
    by_cases e : x = y
    · rw [e]; exact List.mem_cons_self
    · have := ih ((List.mem_cons.1 h).resolve_left e)
      exact List.mem_cons_of_mem _ (List.mem_filter.2 ⟨this, by simpa using e⟩)

/-! ### The semaphore (R99, R100) -/

/-- Readers that are refused: each is told who holds the semaphore. -/
theorem refuseReads_eq (h : Requester) (rs : List Requester) (s : State) : ∃ ref, rs.foldl (refuseRead h) s =
    { s with host := { s.host with semRefused := ref }, out := s.out ++ rs.map (fun r => .readData r (semRefusal h)) } := by
  induction rs generalizing s with
  | nil => exact ⟨s.host.semRefused, by simp⟩
  | cons r rs ih =>
    obtain ⟨ref, e⟩ := ih (refuseRead h s r)
    refine ⟨ref, ?_⟩
    rw [List.foldl_cons, e]
    simp [refuseRead, State.emit]

/-- Reads of a semaphore that is held are refused. -/
theorem semRead_held {s : State} {w : Requester} (h : s.host.semHolder = some w) (rs : List Requester) :
    semRead s rs = (dedup rs).foldl (refuseRead w) s := by
  simp [semRead, h]

/-- Reads of a free semaphore: the first contender takes it, and the others are refused. -/
theorem semRead_free {s : State} {w : Requester} {rs : List Requester} (h : s.host.semHolder = none)
    (hw : firstAt s.host.semNext (dedup rs) = some w) : ∃ next, semRead s rs =
    ((dedup rs).filter (fun r => r != w)).foldl (refuseRead w)
      (State.emit { s with host := { s.host with semHolder := some w, semNext := next } } (.readData w 0)) := by
  refine ⟨if 2 ≤ (dedup rs).length then reqNext w else s.host.semNext, ?_⟩
  simp only [semRead, h, hw]

/-! ### Writes (R98, R101, R103) -/

/-- A held semaphore that its holder releases, with no command running, falls free. -/
theorem semWrite_frees {s : State} {r : Requester} (h : s.host.semHolder = some r) (hb : s.host.cmdBusy = false) :
    semWrite s r 1 = freeSem s := by
  simp [semWrite, h, hb]

theorem semWrite_waits {s : State} {r : Requester} (h : s.host.semHolder = some r) (hb : s.host.cmdBusy = true) :
    semWrite s r 1 = { s with host := { s.host with semReleasePending := true } } := by
  simp [semWrite, h, hb]

theorem semWrite_drops {s : State} {r : Requester} {v : Word} (h : s.host.semHolder ≠ some r ∨ v ≠ 1) : semWrite s r v = dropWrite s := by
  unfold semWrite
  rw [if_pos (by simpa using h)]

/-- A word of the buffer reads back. -/
theorem field_bufWrite {buf : List Byte} {off m : Nat} (v : Word) (h : off + 4 ≤ m) :
    BitVec.ofNat 32 (fieldAt ((bufWrite buf off (natBytes 4 v.toNat)).take m) off 4) = v := by
  have h4 := sliceBytes_bufWrite (buf := buf) (bs := natBytes 4 v.toNat) (off := off) (m := m) (by rw [length_natBytes]; exact h)
  rw [length_natBytes] at h4
  rw [fieldAt, h4, bytesNat_natBytes, show 256 ^ 4 = 2 ^ 32 from rfl, Nat.mod_eq_of_lt v.isLt, BitVec.ofNat_toNat, BitVec.setWidth_eq]

/-- The holder writes a word of the command buffer. -/
theorem regWrite_buffer {s : State} {r : Requester} {o : Nat} {v : Word} (h : s.host.semHolder = some r) (hb : s.host.cmdBusy = false)
    (h1 : 0x8000 ≤ o) (h2 : o + 4 ≤ 0x10000) : ∃ buf, regWrite s r o v = { s with host := { s.host with cmdBuf := buf } } ∧
      BitVec.ofNat 32 (fieldAt buf (o - 0x8000) 4) = v := by
  refine ⟨(bufWrite s.host.cmdBuf (o - 0x8000) (natBytes 4 v.toNat)).take 0x8000, ?_, field_bufWrite v (by omega)⟩
  unfold regWrite
  rw [if_neg (by simp; omega), if_pos (by simp; omega), if_neg (by simp [h, hb]), if_neg (by simp; omega)]

/-- The state in which GO of a command word starts the command. -/
def State.commanded (s : State) (v : Word) : State :=
  { s with host := { s.host with
    cmdLen := bitsOf v.toNat 23 8, cmdOpcode := v.toNat % 256, cmdBusy := true, cmdDone := false, cmdRespLen := 0, cmdStatus := 0 } }

/-- A write of the holder to CMD_CTL with GO and no reserved bit starts the command of a device that is ready. -/
theorem regWrite_go {s : State} {r : Requester} {v : Word} (h : s.host.semHolder = some r) (hb : s.host.cmdBusy = false)
    (hg : bitAt v.toNat 31 = true) (hr : bitsOf v.toNat 30 24 = 0) (hd : s.pkg.devState = .ready) :
    regWrite s r 0x24 v = startCommand (s.commanded v) := by
  simp [regWrite, ctlWrite, goCommand, State.commanded, h, hb, hg, hr, hd]

/-- A word of the buffer as a register. -/
theorem mgmtRead_buffer {s : State} {o : Nat} (h1 : 0x8000 ≤ o) (h2 : o + 4 ≤ 0x10000) :
    mgmtRead s o = BitVec.ofNat 32 (fieldAt s.host.cmdBuf (o - 0x8000) 4) := by
  have e : ∀ k : Nat, k < 0x8000 → (o == k) = false := fun k hk => by simpa using (by omega : o ≠ k)
  unfold mgmtRead
  rw [e 0 (by decide), e 0x10 (by decide), e 0x24 (by decide), e 0x28 (by decide), e 0x2C (by decide), e 0x1000 (by decide),
    e 0x1004 (by decide), e 0x1008 (by decide), e 0x100C (by decide), e 0x1010 (by decide), if_neg (by omega : ¬ (0x2000 ≤ o ∧ o < 0x2180)),
    if_neg (by omega : ¬ (0x3000 ≤ o ∧ o < 0x3100)), if_neg (by omega : ¬ (0x4000 ≤ o ∧ o < 0x4100)),
    if_neg (by omega : ¬ (0x5000 ≤ o ∧ o < 0x5100)), if_pos (by omega : 0x8000 ≤ o ∧ o < 0x10000)]
  rfl

/-- A command that its table lists, of its length and without a reserved value, starts. -/
theorem startCommand_listed {s : State} {e : CmdEntry} {i : Instr} (he : cmdEntry s.host.cmdOpcode s.host.cmdBuf = some e)
    (hl : s.host.cmdLen = e.len) (hd : s.pkg.devState = .ready) (hr : requestReserved e s.host.cmdBuf = false) (hi : e.what = some i) :
    startCommand s = s.post i {} := by
  simp [startCommand, he, hl, hd, hr, hi]

theorem startCommand_unlisted {s : State} (he : cmdEntry s.host.cmdOpcode s.host.cmdBuf = none) :
    startCommand s = completeCmd s stInvalidOpcode [] := by
  simp [startCommand, he]

/-- Settles O54: each access by the law of its register. -/
theorem managementWindow : Obligations.ManagementWindow := by
  intro s hs
  refine ⟨fun w hh hw => ?_, fun w hh => ?_, fun hh h1 => ⟨fun hb => ?_, fun hb => ?_⟩, fun hd => ?_,
    fun hh hb => ⟨fun o ho h1 h2 => ?_, fun ho hg hr hp => ⟨fun he hd => ?_, fun e i he hl hi hq hd => ?_⟩⟩, fun hh ho => ?_⟩
  · obtain ⟨next, e⟩ := semRead_free hh hw
    obtain ⟨ref, e'⟩ := refuseReads_eq w ((dedup s.arg.readers).filter (fun r => r != w))
      (State.emit { s with host := { s.host with semHolder := some w, semNext := next } } (.readData w 0))
    rw [e'] at e
    refine answers_of_finish rfl (u := semRead s s.arg.readers) (by rw [e]; exact hs) ?_
    rw [e]
    refine ⟨⟨rfl, rfl, rfl, rfl⟩, rfl, ?_, fun r hr hn => ?_⟩
    · exact List.mem_append_left _ (List.mem_append_right _ (List.mem_singleton.2 rfl))
    · exact List.mem_append_right _ (List.mem_map.2 ⟨r, List.mem_filter.2 ⟨mem_dedup r _ hr, by simpa using hn⟩, rfl⟩)
  · obtain ⟨ref, e⟩ := refuseReads_eq w (dedup s.arg.readers) s
    rw [← semRead_held hh] at e
    refine answers_of_finish rfl (u := semRead s s.arg.readers) (by rw [e]; exact hs) ?_
    rw [e]
    exact ⟨⟨rfl, rfl, rfl, rfl⟩, hh, fun r hr => List.mem_append_right _ (List.mem_map.2 ⟨r, mem_dedup r _ hr, rfl⟩)⟩
  · have e := semWrite_frees hh hb
    rw [← h1] at e
    refine answers_of_finish rfl (u := semWrite s s.arg.req s.arg.word) (by rw [e]; exact freeSem_settled hs) ?_
    obtain ⟨a, b, o, e'⟩ := freeSem_eq s
    rw [e, e']
    exact ⟨⟨rfl, rfl, rfl, rfl⟩, rfl⟩
  · have e := semWrite_waits hh hb
    rw [← h1] at e
    exact congrArg Host.Outcome.next ((congrArg finish e).trans (finish_settled hs))
  · exact congrArg Host.Outcome.next ((congrArg finish (semWrite_drops hd)).trans (finish_settled hs))
  · obtain ⟨buf, e, hf⟩ := regWrite_buffer (v := s.arg.word) hh hb h1 h2
    rw [← ho] at e
    refine answers_of_finish rfl (u := regWrite s s.arg.req s.arg.offset s.arg.word) (by rw [e]; exact hs) ?_
    rw [e]
    exact ⟨⟨rfl, rfl, rfl, rfl⟩, (mgmtRead_buffer h1 h2).trans hf⟩
  · have e := regWrite_go (v := s.arg.word) hh hb hg hr hd
    rw [startCommand_unlisted (by exact he), ← ho] at e
    refine answers_of_finish rfl (u := regWrite s s.arg.req s.arg.offset s.arg.word)
      (by rw [e]; exact completeCmd_settled (s := s.commanded s.arg.word) hs _ _) ?_
    rw [e]
    have h := completeCmd_ends (s.commanded s.arg.word) stInvalidOpcode []
    exact ⟨h.done, h.work⟩
  · have e' := regWrite_go (v := s.arg.word) hh hb hg hr hd
    rw [startCommand_listed (e := e) (i := i) (by exact he) (by exact hl.symm) (by exact hd) (by exact hq) hi, ← ho] at e'
    refine answers_of_finish rfl (u := regWrite s s.arg.req s.arg.offset s.arg.word) (by rw [e']; exact hs) ?_
    rw [e']
    exact ⟨⟨rfl, rfl, rfl, rfl⟩, rfl, mem_net_post _ i {}⟩
  · have e : regWrite s s.arg.req s.arg.offset s.arg.word = dropWrite s := by
      rw [ho]
      simp [regWrite, hh]
    exact congrArg Host.Outcome.next ((congrArg finish e).trans (finish_settled hs))

end Sys2Proof.Machine
end

section
/-! PROOFS. The statement of the commands on identity, the error log, engines, links, power, attestation and reset. -/

namespace Sys2Proof.Machine

/-! ### What they use of lines and links -/

/-- Where a line stands depends on the map and the chip id. -/
theorem lineKey_congr {s t : State} (hr : t.ms.regions = s.ms.regions) (hf : t.fab.chipId = s.fab.chipId) (line : Nat) :
    lineKey t line = lineKey s line := by
  have hd : ∀ off, dramLine t off = dramLine s off := fun off => by unfold dramLine regionOf; rw [hr]
  unfold lineKey lineIsOwn
  rw [hf, hd]

theorem mem_sectorAdd (x : Nat) (xs : List Nat) : x ∈ sectorAdd x xs := by
  induction xs with
  | nil => exact List.mem_singleton.2 rfl
  | cons y r ih =>
    unfold sectorAdd
    split_ifs with h1 h2
    · exact List.mem_cons_self
    · rw [h2]; exact List.mem_cons_self
    · exact List.mem_cons_of_mem _ ih

theorem link_id (s : State) (id : LinkId) : (s.link id).id = id := by
  unfold State.link
  cases h : s.link? id with
  | none => rfl
  | some l => simpa using List.find?_some h

/-- The first record of a name, once the records of a name have been replaced by one of that name. -/
theorem find?_updLinks (id j : LinkId) {y : Link} (hy : y.id = id) (xs : List Link) :
    (updWhere (fun x => x.id == id) (fun _ => y) xs).find? (fun l => l.id == j) =
      if j = id then (xs.find? (fun l => l.id == id)).map (fun _ => y) else xs.find? (fun l => l.id == j) := by
  induction xs with
  | nil => split <;> rfl
  | cons x xs ih =>
    unfold updWhere at ih ⊢
    rw [List.map_cons]
    by_cases hx : x.id = id
    · rw [if_pos (by simpa using hx)]
      by_cases hj : j = id
      · rw [List.find?_cons_of_pos (by simp [hy, hj]), if_pos hj, List.find?_cons_of_pos (by simpa using hx)]
        rfl
      · rw [List.find?_cons_of_neg (by simpa [hy] using Ne.symm hj), ih, if_neg hj, if_neg hj,
          List.find?_cons_of_neg (by simpa [hx] using Ne.symm hj)]
    · rw [if_neg (by simpa using hx)]
      by_cases hj : j = id
      · rw [List.find?_cons_of_neg (by simpa [hj] using hx), ih, if_pos hj, if_pos hj, List.find?_cons_of_neg (by simpa using hx)]
      · rw [if_neg hj] at ih ⊢
        by_cases hxj : x.id = j
        · rw [List.find?_cons_of_pos (by simpa using hxj), List.find?_cons_of_pos (by simpa using hxj)]
        · rw [List.find?_cons_of_neg (by simpa using hxj), ih, List.find?_cons_of_neg (by simpa using hxj)]

/-- The record of a link after a change to one that keeps its name. -/
theorem link_updLink (s : State) (id j : LinkId) {f : Link → Link} (hf : ∀ l, (f l).id = l.id) :
    (s.updLink id f).link j = if j = id then f (s.link id) else s.link j := by
  have hid : (f (s.link id)).id = id := (hf _).trans (link_id s id)
  change ((if (s.link? id).isSome then updWhere (fun x => x.id == id) (fun _ => f (s.link id)) s.fab.links
    else s.fab.links ++ [f (s.link id)]).find? (fun l => l.id == j)).getD (Link.reset j .up) = _
  cases h : s.link? id with
  | none =>
    rw [if_neg (by simp), List.find?_append]
    by_cases hj : j = id
    · have hn : s.fab.links.find? (fun l => l.id == id) = none := h
      rw [if_pos hj, hj, hn, Option.none_or, List.find?_cons_of_pos (by simpa using hid)]
      rfl
    · rw [if_neg hj, List.find?_cons_of_neg (by simpa [hid] using Ne.symm hj), List.find?_nil, Option.or_none]
      rfl
  | some l =>
    have hs : s.fab.links.find? (fun l => l.id == id) = some l := h
    rw [if_pos (by rfl), find?_updLinks id j hid, hs]
    by_cases hj : j = id
    · rw [if_pos hj, if_pos hj]; rfl
    · rw [if_neg hj, if_neg hj]; rfl

/-- A change to both ends of a link changes the record of the one that is named, once or twice. -/
theorem link_updEnds (s : State) (id : LinkId) {f : Link → Link} (hf : ∀ l, (f l).id = l.id) :
    (updEnds s id f).link id = f (s.link id) ∨ (updEnds s id f).link id = f (f (s.link id)) := by
  have h1 : (s.updLink id f).link id = f (s.link id) := by rw [link_updLink s id id hf, if_pos rfl]
  unfold updEnds
  cases peerEnd id with
  | none => exact .inl h1
  | some e =>
    rw [Option.elim_some, link_updLink _ e id hf]
    split
    next h => right; rw [← h, h1]
    · exact .inl h1

/-- What every change of a record gives, or keeps, the record that is named has after a change to both ends. -/
theorem updEnds_gives {α : Type} (s : State) (id : LinkId) {f : Link → Link} (hf : ∀ l, (f l).id = l.id) {F : Link → α} {v : α}
    (h : ∀ l, F (f l) = v) : F ((updEnds s id f).link id) = v := by
  rcases link_updEnds s id hf with e | e <;> rw [e, h]

theorem updEnds_leaves {α : Type} (s : State) (id : LinkId) {f : Link → Link} (hf : ∀ l, (f l).id = l.id) {F : Link → α}
    (h : ∀ l, F (f l) = F l) : F ((updEnds s id f).link id) = F (s.link id) := by
  rcases link_updEnds s id hf with e | e
  · rw [e, h]
  · rw [e, h, h]

theorem updEnds_eq (s : State) (id : LinkId) (f : Link → Link) : ∃ ls, updEnds s id f = { s with fab := { s.fab with links := ls } } := by
  unfold updEnds
  cases peerEnd id with
  | none => exact ⟨_, rfl⟩
  | some e => exact ⟨_, rfl⟩

/-- A retraining that begins stops the link. -/
theorem startRetrain_spec (s : State) (id : LinkId) : (∃ ls, startRetrain s id = { s with fab := { s.fab with links := ls } }) ∧
    ((startRetrain s id).link id).state = .retraining ∧ ((startRetrain s id).link id).half = (s.link id).half :=
  ⟨updEnds_eq s id _, updEnds_gives (F := Link.state) s id (by intro; rfl) (by intro; rfl),
    updEnds_leaves (F := Link.half) s id (by intro; rfl) (by intro; rfl)⟩

theorem fullWidth_spec (s : State) (id : LinkId) : (∃ ls us, fullWidth s id = { s with fab := { s.fab with links := ls, ulain := us } }) ∧
    ((fullWidth s id).link id).half = false := by
  have hl : ((updEnds s id (fun l => { l with half := false })).link id).half = false :=
    updEnds_gives (F := Link.half) s id (by intro; rfl) (by intro; rfl)
  obtain ⟨ls, e⟩ := updEnds_eq s id (fun l => { l with half := false })
  unfold fullWidth
  split
  next p => rw [e] at hl ⊢; exact ⟨⟨ls, _, rfl⟩, hl⟩
  next => rw [e] at hl ⊢; exact ⟨⟨ls, s.fab.ulain, rfl⟩, hl⟩

/-! ### Lines that leave the caches (R48) -/

theorem memKeeps_flushLine (s : State) (line : Nat) : MemKeeps s (flushLine s line) := by
  refine ⟨?_, ?_, fun e he _ => ?_, fun h => flushLine_memOk h line⟩ <;> unfold flushLine <;> split
  all_goals first | rfl | exact he

theorem memKeeps_evictLine (s : State) (line : Nat) : MemKeeps s (evictLine s line) := by
  unfold evictLine
  extract_lets s1 s2
  have h1 : MemKeeps s s1 := memKeeps_ite (.refl s) (memKeeps_acquireLine s line)
  have h2 : MemKeeps s s2 := h1.trans ((memKeeps_takeLine s1 line).trans (memKeeps_flushLine _ line))
  split
  · exact h2
  · exact h2.trans (memKeeps_setChan _ _ _)

theorem memKeeps_evictLines (s : State) (p : Nat → Bool) : MemKeeps s (evictLines s p) :=
  memKeeps_foldl evictLine memKeeps_evictLine _ s

/-- What no operation of memory touches is as it was. -/
theorem MemKeeps.keeps {α : Type} {s t : State} (h : MemKeeps s t) (F : State → α) (hF : ∀ u : State, F u.calm = F u) : F t = F s :=
  (hF t).symm.trans ((congrArg F h.calm).trans (hF s))

theorem MemKeeps.host {s t : State} (h : MemKeeps s t) : t.host = s.host := h.keeps State.host (fun _ => rfl)

/-- What a command has posted is in flight when it has ended. -/
theorem CommandEnds.net {u t : State} {st : Nat} {r : List Byte} (h : CommandEnds u t st r) : t.net = u.wake.net :=
  (congrArg State.net h.eq).trans rfl

/-! ### Power (R18, R20) -/

/-- Dies that wake keep their mode, and the cap stands. -/
theorem wakeDies_spec (ds : List Nat) (s : State) : SameWork s (ds.foldl wakeDie s) ∧ (ds.foldl wakeDie s).sched = s.sched ∧
    (ds.foldl wakeDie s).pkg = s.pkg ∧ ∀ d, ((ds.foldl wakeDie s).dies.getD d Die.reset).onMode = (s.dies.getD d Die.reset).onMode := by
  have gates : ∀ (u : State) (k : Nat) (g : GateState), ∀ d,
      ((setGate u k g).dies.getD d Die.reset).onMode = (u.dies.getD d Die.reset).onMode := by
    intro u k g d
    unfold setGate State.updDie
    simp only [List.getD_eq_getElem?_getD, List.getElem?_modify]
    cases u.dies[d]? with
    | none => rfl
    | some x => simp only [Option.getD_some]; split <;> rfl
  have one : ∀ (u : State) (k : Nat), SameWork u (wakeDie u k) ∧ (wakeDie u k).sched = u.sched ∧ (wakeDie u k).pkg = u.pkg ∧
      ∀ d, ((wakeDie u k).dies.getD d Die.reset).onMode = (u.dies.getD d Die.reset).onMode := by
    intro u k
    unfold wakeDie
    split
    · exact ⟨⟨rfl, rfl, rfl, rfl⟩, rfl, rfl, fun _ => rfl⟩
    split
    · exact ⟨⟨rfl, rfl, rfl, rfl⟩, rfl, rfl, gates u k _⟩
    · exact ⟨⟨rfl, rfl, rfl, rfl⟩, rfl, rfl, gates u k _⟩
    · exact ⟨⟨rfl, rfl, rfl, rfl⟩, rfl, rfl, fun _ => rfl⟩
  induction ds generalizing s with
  | nil => exact ⟨⟨rfl, rfl, rfl, rfl⟩, rfl, rfl, fun _ => rfl⟩
  | cons k ds ih =>
    obtain ⟨h1, h2, h3, h4⟩ := one s k
    obtain ⟨g1, g2, g3, g4⟩ := ih (wakeDie s k)
    exact ⟨h1.trans g1, g2.trans h2, g3.trans h3,
      fun d => (g4 d).trans (h4 d)⟩

theorem engine_updEngine {s : State} {e : Nat} (f : Engine → Engine) (h : e < s.media.length) : (s.updEngine e f).engine e = f (s.engine e) := by
  unfold State.engine State.updEngine
  simp only [List.getD_eq_getElem?_getD, List.getElem?_modify, List.getElem?_eq_getElem h]
  simp

/-- A sector that is marked poisoned is. -/
theorem injectSector_poisons {s : State} {pa k : Nat} (hk : lineKey s (lineOf pa) = some k) :
    k * 4 + offsetInLine pa / 32 ∈ (injectSector s pa 0x0101).poison := by
  have hf : (flushLine s (lineOf pa)).ms = s.ms ∧ (flushLine s (lineOf pa)).fab = s.fab := by
    unfold flushLine; split <;> exact ⟨rfl, rfl⟩
  have hc : ∀ u : State, (chanForget u pa).ms.regions = u.ms.regions ∧ (chanForget u pa).fab = u.fab := by
    intro u
    unfold chanForget
    split
    · exact ⟨rfl, rfl⟩
    · dsimp only
      split <;> exact ⟨rfl, rfl⟩
  have hl := lineKey_congr ((hc (flushLine s (lineOf pa))).1.trans (congrArg MemSide.regions hf.1))
    (congrArg Fabric.chipId ((hc (flushLine s (lineOf pa))).2.trans hf.2)) (lineOf pa)
  unfold injectSector
  dsimp only
  rw [hl, hk]
  exact mem_sectorAdd _ _

/-- A port after the mask of enables is written (R39). -/
theorem setEnable_spec (u : UlainPort) (on : Bool) : (setEnable u on).enabled = on ∧ (u.enabled = on → (setEnable u on).state = u.state) ∧
    (u.enabled ≠ on → (setEnable u on).state = if (setEnable u on).enabled then .training else .disabled) := by
  unfold setEnable
  cases h : u.enabled <;> cases on <;> simp [h]

/-- Settles O55, command by command: each body's result on the request, and what its effect leaves unchanged. -/
theorem deviceCommands : Obligations.DeviceCommands := by
  intro s hs q same
  have ends : ∀ {t st r}, CommandEnds s t st r → same t := fun h => h.work
  refine ⟨?identify, ?caps, fun h1 h2 => ?logRead, fun h => ?logReadBad, ?logClear, fun k hc h1 h2 h3 hk hu => ?inject, fun hc => ?injectBad,
    fun h1 h2 h3 => ⟨fun h0 => ?engine0, fun h0 => ?engine1⟩, fun h => ?engineBad, fun h1 h2 hu => ?chip, fun h1 h2 => ?chipBad,
    fun h => ?enable, fun h => ?route, fun h => ?routeBad, fun id hid => ⟨fun h0 ht => ?retrain0, fun h0 hr => ?retrain1, ?query⟩,
    fun h => ⟨?retrainBad, ?queryBad⟩, ?pm, fun h1 h2 h3 => ?power, fun h => ?powerBad, ?powerQuery, ?attest, ?reset⟩
  case identify => exact commands_of_done (body := fun s => (s, .done (identifyResp s))) rfl rfl hs (fun t => ends)
  case caps => exact commands_of_done (body := fun s => (s, .done (capsResp s))) rfl rfl hs (fun t => ends)
  case logRead =>
    refine commands_of_done (body := errLogRead) rfl ?_ hs (fun t => ends)
    rw [errLogRead, if_neg (by have h1 : 1 ≤ req s 4 2 := h1; have h2 : req s 4 2 ≤ 1023 := h2; simp; omega)]
  case logReadBad =>
    refine commands_of_fail (body := errLogRead) rfl ?_ hs (fun t => ends)
    rw [errLogRead, if_pos (by simpa using h)]
    rfl
  case logClear =>
    refine commands_of_done (body := fun s => (clearErrors s, .done [])) rfl rfl (u := clearErrors s) hs (fun t h => ⟨h.work, ?_⟩)
    have hh := h.host
    exact ⟨congrArg HostIf.errLog hh, congrArg HostIf.errCorr hh, congrArg HostIf.errNonfatal hh, congrArg HostIf.errFatal hh,
      congrArg HostIf.errLost hh, congrArg HostIf.errSeq hh⟩
  case inject =>
    refine commands_of_done (body := errInject) (u := injectSector s (q 8 8) 0x0101) rfl ?_ hu (fun t h => ?_)
    · have hc : req s 0 2 = 0x0101 := hc
      rw [errInject, if_pos (by simp [hc]), if_neg (by simpa using (⟨⟨h1, h2⟩, h3⟩ : (_ ∧ _) ∧ _)), hc]
    · rw [h.keeps State.poison (fun _ _ => rfl)]
      exact injectSector_poisons hk
  case injectBad =>
    refine commands_of_fail (body := errInject) rfl ?_ hs (fun t => ends)
    have hc : req s 0 2 ∉ [0x0001, 0x0101, 0x0002, 0x0105, 0x0203] := hc
    simp only [List.mem_cons, List.not_mem_nil, or_false, not_or] at hc
    obtain ⟨c1, c2, c3, c4, c5⟩ := hc
    simp [errInject, c1, c2, c3, c4, c5, stInvalidParam]
  case engine0 =>
    have he : ¬ 3 < req s 0 1 := Nat.not_lt.2 h1
    have hb : engineReset s = ({ loseJob s (q 0 1) .reset with arg := { s.arg with seq := 1 } }, .again) := by
      have h2 : (s.engine (req s 0 1)).state ≠ .contained := h2
      simp only [engineReset]
      rw [if_neg he, if_neg (by simpa using h2), if_pos (by simpa using h0)]
    refine answers_of_again rfl hb hs ⟨⟨rfl, rfl, rfl, rfl⟩, ?_, ?_, mem_net_post _ .engineReset _⟩
    all_goals
      have := engine_updEngine (s := s) (e := q 0 1) (fun x => { x with
        state := .reset, lastStatus := 0, lost := if x.job.isSome || !x.pending.isEmpty then satInc x.lost else x.lost, job := none, pending := [] })
        (by have h1 : req s 0 1 ≤ 3 := h1; change req s 0 1 < _; omega)
    · exact congrArg Engine.state this
    · exact congrArg Engine.job this
  case engine1 =>
    have he : ¬ 3 < req s 0 1 := Nat.not_lt.2 h1
    have hb : engineReset s = (idleEngine s (q 0 1), .done []) := by
      have h2 : (s.engine (req s 0 1)).state ≠ .contained := h2
      simp only [engineReset]
      rw [if_neg he, if_neg (by simpa using h2), if_neg (by simpa using h0)]
    refine commands_of_done rfl hb hs (fun t h => ⟨h.work, ?_⟩)
    have := engine_updEngine (s := s) (e := q 0 1) (fun x => { x with state := .idle, job := none })
      (by have h1 : req s 0 1 ≤ 3 := h1; change req s 0 1 < _; omega)
    exact (h.keeps (fun t => (t.engine (q 0 1)).state) (fun _ _ => rfl)).trans (congrArg Engine.state this)
  case engineBad =>
    refine commands_of_fail (body := engineReset) rfl ?_ hs (fun t => ends)
    have h : 3 < req s 0 1 := h
    simp [engineReset, h, stInvalidParam]
  case chip =>
    have h1 : ¬ 15 < req s 1 1 := Nat.not_lt.2 h1
    have hq : ∀ u : State, u.host = s.host → req u 1 1 = req s 1 1 := fun u e => by rw [req, e]; rfl
    by_cases hc : req s 1 1 = s.fab.chipId
    · refine commands_of_done (body := setChip) (u := { s with fab := { s.fab with chipId := req s 1 1 } }) rfl ?_ hs
        (fun t h => (h.keeps (fun t => t.fab.chipId) (fun _ _ => rfl)))
      rw [setChip, if_neg h1, if_neg (by simp [h2]), if_pos (by simpa using hc)]
    · have he := hq _ (memKeeps_evictLines s (lineIsOwn s)).host
      refine commands_of_done (body := setChip)
        (u := { evictLines s (lineIsOwn s) with fab := { (evictLines s (lineIsOwn s)).fab with chipId := req s 1 1 } }) rfl ?_ hu
        (fun t h => (h.keeps (fun t => t.fab.chipId) (fun _ _ => rfl)))
      rw [setChip, if_neg h1, if_neg (by simp [h2]), if_neg (by simpa using hc)]
      dsimp only
      rw [he]
  case chipBad =>
    refine commands_of_fail (body := setChip) rfl ?_ hs (fun t => ends)
    have h2 : ¬ 15 < req s 1 1 := Nat.not_lt.2 h2
    simp [setChip, h1, h2, stLinkState]
  case enable =>
    have hn : ¬ (s.fab.ulain.zipIdx.any (fun x => x.1.state == .up && x.1.enabled != bitAt (q 2 2) x.2) = true) := by
      intro hc
      obtain ⟨⟨u, i⟩, hm, hx⟩ := List.any_eq_true.1 hc
      simp only [Bool.and_eq_true, beq_iff_eq, bne_iff_ne] at hx
      exact hx.2 (h i u (List.mem_zipIdx_iff_getElem?.1 hm) hx.1)
    have hb : portEnable s = ({ s with fab := { s.fab with
        ulain := s.fab.ulain.zipIdx.map (fun x => setEnable x.1 (bitAt (q 2 2) x.2)) } }, .done []) := if_neg hn
    refine commands_of_done rfl hb hs (fun t ht => ⟨ht.work, fun i u hu => ⟨setEnable u (bitAt (q 2 2) i), ?_, setEnable_spec u _⟩⟩)
    rw [ht.keeps (fun t => t.fab.ulain) (fun _ _ => rfl)]
    simp [hu]
  case route =>
    refine commands_of_done (body := setRoutes) (u := { s with fab := { s.fab with
      routes := (List.range 16).map (fun c => BitVec.ofNat 12 (req s (8 + 2 * c) 2)) } }) rfl ?_ hs (fun t ht => ⟨ht.work, fun c hc => ?_⟩)
    · simp [setRoutes, h]
    · rw [ht.keeps (fun t => t.fab.routes) (fun _ _ => rfl)]
      simp [List.getD_eq_getElem?_getD, hc]
      rfl
  case routeBad =>
    refine commands_of_fail (body := setRoutes) rfl ?_ hs (fun t => ends)
    simp [setRoutes, h, stLinkState]
  case retrain0 =>
    obtain ⟨⟨ls, us, e1⟩, hh⟩ := fullWidth_spec s id
    obtain ⟨⟨ls', e2⟩, hst, hhf⟩ := startRetrain_spec (fullWidth s id) id
    have ha : (fullWidth s id).arg = s.arg := by rw [e1]
    have hb : retrain s = ({ startRetrain (fullWidth s id) id with arg := { s.arg with seq := 1 } }, .again) := by
      simp [retrain, hid, h0, ht]
    refine answers_of_again rfl hb ?_ ⟨?_, hst, hhf.trans hh, mem_net_post _ .retrain _⟩
    · rw [e2, e1]; exact hs
    · rw [e2, e1]; exact ⟨rfl, rfl, rfl, rfl⟩
  case retrain1 =>
    refine commands_of_done (body := retrain) rfl ?_ hs (fun t => ends)
    simp [retrain, hid, h0, hr]
  case query =>
    refine commands_of_done (body := queryLink) rfl ?_ hs (fun t => ends)
    simp [queryLink, hid]
  case retrainBad =>
    refine commands_of_fail (body := retrain) rfl ?_ hs (fun t => ends)
    simp [retrain, h, stInvalidParam]
  case queryBad =>
    refine commands_of_fail (body := queryLink) rfl ?_ hs (fun t => ends)
    simp [queryLink, h, stInvalidParam]
  case pm =>
    refine commands_of_done (body := routerPm) rfl rfl hs (fun t ht => ⟨ht.work, fun d x hx => ?_⟩)
    rw [ht.keeps State.dies (fun _ _ => rfl)]
    simp [hx]
    rfl
  case power =>
    obtain ⟨hw, hq, hp, hd⟩ := wakeDies_spec ((List.range 4).filter (fun d => bitAt (q 4 1) d)) { s with
      pkg := { s.pkg with capW := q 2 2 }, dies := s.dies.zipIdx.map (fun x => { x.1 with onMode := bitAt (q 4 1) x.2 }) }
    refine commands_of_done (body := powerSet) (u := ((List.range 4).filter (fun d => bitAt (q 4 1) d)).foldl wakeDie { s with
      pkg := { s.pkg with capW := q 2 2 }, dies := s.dies.zipIdx.map (fun x => { x.1 with onMode := bitAt (q 4 1) x.2 }) }) rfl ?_
      ((congrArg Sched.raised hq).trans hs) (fun t ht => ⟨hw.trans ht.work, ?_, fun d hl => ?_⟩)
    · have h1 : 1000 ≤ req s 2 2 := h1
      have h2 : req s 2 2 ≤ 2800 := h2
      have h3 : req s 2 2 % 50 = 0 := h3
      rw [powerSet, if_neg (by simp [h3]; omega)]
    · rw [ht.keeps State.pkg (fun _ _ => rfl), hp]
    · rw [ht.keeps State.dies (fun _ _ => rfl), hd]
      simp [List.getD_eq_getElem?_getD, hl]
  case powerBad =>
    refine commands_of_fail (body := powerSet) rfl ?_ hs (fun t => ends)
    rw [powerSet, if_pos (by simpa [or_assoc] using h)]
    rfl
  case powerQuery => exact commands_of_done (body := fun s => (s, .done (powerResp s))) rfl rfl hs (fun t => ends)
  case attest =>
    exact commands_of_done (body := fun s => (s, .done (report s (sliceBytes s.host.cmdBuf 0 32)))) rfl rfl hs (fun t => ends)
  case reset =>
    refine commands_of_done (body := fun s => (s.post .warmReset { source := 1 }, .done [])) rfl rfl (u := s.post .warmReset { source := 1 }) hs (fun t ht => ⟨ht.work, ?_⟩)
    rw [ht.net]
    exact mem_net_post _ _ _

end Sys2Proof.Machine
end

section
/-! PROOFS. The statement of the commands on contexts, the address map and pinned windows. -/

namespace Sys2Proof.Machine

/-! ### An invalidation begins (R68) -/

theorem dropTlbs_eq (cs : List Nat) (f : Core → Core) (s : State) : ∃ cores, cs.foldl (fun s c =>
    if (s.core c).tlb.isEmpty then s else s.updCore c f) s = { s with cores := cores } := by
  induction cs generalizing s with
  | nil => exact ⟨s.cores, rfl⟩
  | cons c cs ih =>
    rw [List.foldl_cons]
    split
    · exact ih s
    · obtain ⟨cores, e⟩ := ih (s.updCore c f)
      exact ⟨cores, e⟩

/-- A die's part of an invalidation changes translations that are held, and nothing else. -/
theorem shootDie_eq (s : State) (d : Nat) (k : ShootKind) : ∃ cores rt wc ws,
    shootDie s d k = { s with cores := cores, tr := { s.tr with routerTlb := rt, walkCache := wc, walks := ws } } := by
  unfold shootDie
  extract_lets s1 rt wc ws
  obtain ⟨cores, e⟩ := dropTlbs_eq (dieCores d) (fun x => { x with tlb := x.tlb.filterMap (shootEntry k) }) s
  have e1 : s1 = { s with cores := cores } := e
  clear_value rt wc ws s1
  subst e1
  exact ⟨cores, rt, wc, ws, rfl⟩

/-- An invalidation begins under a new number, with a part on every die. -/
theorem startShoot_eq (s : State) (k : ShootKind) : (startShoot s k).1 = s.nextId ∧ ∃ cores rt wc ws net,
    (startShoot s k).2 = { s with
      nextId := s.nextId + 1, cores := cores, net := s.net ++ net
      tr := { s.tr with
        routerTlb := rt, walkCache := wc, walks := ws
        shoots := s.tr.shoots ++ (List.range 4).map (fun d => Shoot.mk s.nextId d k) } } := by
  have part : ∀ (ds : List Nat) (n : Nat) (u : State), ∃ cores rt wc ws net, ds.foldl (fun s d =>
      ({ shootDie s d k with tr := { (shootDie s d k).tr with shoots := (shootDie s d k).tr.shoots ++ [Shoot.mk n d k] } } : State).post
        .shootdownComplete { die := d, shoot := n }) u = { u with
      cores := cores, net := u.net ++ net
      tr := { u.tr with
        routerTlb := rt, walkCache := wc, walks := ws, shoots := u.tr.shoots ++ ds.map (fun d => Shoot.mk n d k) } } := by
    intro ds n
    induction ds with
    | nil => exact fun u => ⟨u.cores, u.tr.routerTlb, u.tr.walkCache, u.tr.walks, [], by simp⟩
    | cons d ds ih =>
      intro u
      obtain ⟨c1, r1, w1, x1, e1⟩ := shootDie_eq u d k
      obtain ⟨c2, r2, w2, x2, n2, e2⟩ := ih (({ shootDie u d k with
        tr := { (shootDie u d k).tr with shoots := (shootDie u d k).tr.shoots ++ [Shoot.mk n d k] } } : State).post
        .shootdownComplete { die := d, shoot := n })
      refine ⟨c2, r2, w2, x2, ⟨.shootdownComplete, { die := d, shoot := n }⟩ :: n2, ?_⟩
      rw [List.foldl_cons, e2, e1]
      simp [State.post]
  obtain ⟨cores, rt, wc, ws, net, e⟩ := part (List.range 4) s.nextId { s with nextId := s.nextId + 1 }
  refine ⟨rfl, cores, rt, wc, ws, net, ?_⟩
  unfold startShoot State.fresh
  dsimp only
  rw [e]

/-- What the start of an invalidation leaves: it is busy, under its number. -/
theorem startShoot_spec (s : State) (k : ShootKind) : let t := (startShoot s k).2
    SameWork s t ∧ t.sched = s.sched ∧ t.tr.ctxs = s.tr.ctxs ∧ t.ms = s.ms ∧ t.arg = s.arg ∧ shootBusy t s.nextId = true := by
  obtain ⟨-, cores, rt, wc, ws, net, e⟩ := startShoot_eq s k
  dsimp only
  rw [e]
  refine ⟨⟨rfl, rfl, rfl, rfl⟩, rfl, rfl, rfl, rfl, List.any_eq_true.2 ⟨⟨s.nextId, 0, k⟩, ?_, by simp⟩⟩
  exact List.mem_append_right _ (List.mem_map.2 ⟨0, List.mem_range.2 (by decide), rfl⟩)

/-- A command that begins an invalidation goes on under its number. -/
theorem beginShoot_spec (s : State) (k : ShootKind) : ∃ v : State,
    beginShoot s k = ({ v with arg := { s.arg with seq := 1, shoot := s.nextId } }, .again) ∧
      SameWork s v ∧ v.sched = s.sched ∧ v.tr.ctxs = s.tr.ctxs ∧ v.ms = s.ms ∧ shootBusy v s.nextId = true := by
  have h1 := (startShoot_eq s k).1
  obtain ⟨hw, hq, hc, hm, ha, hb⟩ := startShoot_spec s k
  refine ⟨(startShoot s k).2, ?_, hw, hq, hc, hm, hb⟩
  unfold beginShoot
  dsimp only
  rw [h1, ha]

/-- The first free place of a list of places is within it. -/
theorem idxOf?_lt {α : Type} [BEq α] [LawfulBEq α] {x : α} {xs : List α} {i : Nat} (h : xs.idxOf? x = some i) : i < xs.length :=
  (List.findIdx?_eq_some_iff_findIdx_eq.1 h).1

/-- A slot that the checks let through is one of the sixteen. -/
theorem mapCheck_slot {s : State} {slot : Nat} {r : Region} (h : mapCheck s slot r = none) : slot < 16 := by
  by_contra hc
  unfold mapCheck at h
  dsimp only at h
  rw [if_pos (by simp; omega)] at h
  cases h

/-- The state in which a window has been pinned under a number. -/
def State.pinned (s : State) (w : Nat) (x : Window) : State :=
  { s with ms := { s.ms with
    windows := s.ms.windows.set w (some x), chans := s.ms.chans.map (fun c => (c.1, pinLines s w x c.2)) } }

/-- A range that may be a window is one where it meets no other and a number is free. -/
theorem pinWindow_checked {s : State} (h1 : req s 0 8 % 65536 = 0) (h2 : req s 8 8 % 65536 = 0) (h3 : req s 8 8 ≠ 0)
    (h4 : req s 8 8 ≤ 2 ^ 32) (h5 : req s 0 8 < 2 ^ 51) (h6 : paChip (req s 0 8) = s.fab.chipId)
    (h7 : rangeBacked s 17 (paOffset (req s 0 8)) (req s 8 8) = true) : pinWindow s =
      if (s.ms.windows.filterMap id).any (fun x => rangesMeet x.base x.size (paOffset (req s 0 8)) (req s 8 8)) then (s, .fail stWindowOverlap)
      else (s.ms.windows.idxOf? none).elim (s, .fail stNoWindow)
        (fun w => (s.pinned w ⟨paOffset (req s 0 8), req s 8 8, 255, none⟩, .done (natBytes 1 w))) := by
  have h5 : ¬ 2 ^ 51 ≤ req s 0 8 := Nat.not_le.2 h5
  have h4 : ¬ 2 ^ 32 < req s 8 8 := Nat.not_lt.2 h4
  unfold pinWindow
  dsimp only
  rw [if_neg (by simp only [h1, h2, h6, h7, decide_eq_false h5, decide_eq_false h4]; simpa using h3)]
  cases s.ms.windows.idxOf? none <;> rfl

/-- Settles O56, command by command: each body's result on the request, and what its effect leaves unchanged. -/
theorem memoryCommands : Obligations.MemoryCommands := by
  intro s hs q same
  have ends : ∀ {t st r}, CommandEnds s t st r → same t := fun h => h.work
  refine ⟨fun i h1 h2 => ?create, fun h => ?createBad, fun h1 h2 => ?createFull, fun x h0 hx => ⟨fun hu => ?destroy, fun hu => ?destroyUsed⟩,
    fun h0 hx => ?destroyNone, fun h0 hb => ⟨?destroyed, ?mapped⟩, fun h0 hb => ⟨?destroying, ?mapping⟩,
    fun h0 => ⟨fun st hc => ?mapBad, fun hc hl => ?mapBusy, fun hc hl hv hr => ?map⟩,
    ⟨fun slot d h1 h2 h3 h4 => ?query, fun h1 h2 h3 => ?queryNone, fun h => ?queryBad⟩,
    fun h1 h2 h3 h4 h5 h6 h7 => ⟨fun hm => ?pinMeets, fun hm hw => ?pinFull, fun w hm hw => ?pin⟩, fun x hx => ?unpin, fun hx => ?unpinNone⟩
  case create =>
    have h1 : rootOk s (req s 0 8) = true := h1
    refine commands_of_done (body := ctxCreate) (u := { s with tr := { s.tr with
      ctxs := s.tr.ctxs.set i (some ⟨req s 0 8, req s 8 1 == 1⟩) } }) rfl ?_ hs (fun t ht => ⟨ht.work, ?_⟩)
    · simp [ctxCreate, h1, h2]
    · refine (ht.keeps (fun t => t.ctx? i) (fun _ _ => rfl)).trans ?_
      exact getD_set_self _ _ (idxOf?_lt h2)
  case createBad =>
    refine commands_of_fail (body := ctxCreate) rfl ?_ hs (fun t => ends)
    have h : rootOk s (req s 0 8) = false := h
    simp [ctxCreate, h, stInvalidParam]
  case createFull =>
    refine commands_of_fail (body := ctxCreate) rfl ?_ hs (fun t => ends)
    have h1 : rootOk s (req s 0 8) = true := h1
    simp [ctxCreate, h1, h2, stNoContext]
  case destroy =>
    obtain ⟨v, hv, hw, hq, hc, -, hb⟩ := beginShoot_spec { s with tr := { s.tr with ctxs := s.tr.ctxs.set (q 0 1) none } } (.ctx (q 0 1))
    have he : ctxDestroy s = beginShoot { s with tr := { s.tr with ctxs := s.tr.ctxs.set (q 0 1) none } } (.ctx (q 0 1)) := by
      have hx : s.ctx? (req s 0 1) = some x := hx
      rw [ctxDestroy]
      dsimp only
      rw [if_neg (by simp [h0]), if_neg (by simp [hx]), if_neg (by rw [Bool.not_eq_true]; exact hu)]
    refine answers_of_again rfl (he.trans hv) ((congrArg Sched.raised hq).trans hs) ⟨hw, ?_, hb, mem_net_post _ .ctxDestroy _⟩
    refine (congrArg (fun xs => xs.getD (q 0 1) none) hc).trans ?_
    simp only [List.getD_eq_getElem?_getD, List.getElem?_set]
    split_ifs <;> rfl
  case destroyUsed =>
    refine commands_of_fail (body := ctxDestroy) rfl ?_ hs (fun t => ends)
    have hx : s.ctx? (req s 0 1) = some x := hx
    rw [ctxDestroy]
    dsimp only
    rw [if_neg (by simp [h0]), if_neg (by simp [hx]), if_pos (by exact hu)]
    rfl
  case destroyNone =>
    refine commands_of_fail (body := ctxDestroy) rfl ?_ hs (fun t => ends)
    have hx : s.ctx? (req s 0 1) = none := hx
    simp [ctxDestroy, h0, hx, stNotFound]
  case destroyed =>
    refine commands_of_done (body := ctxDestroy) rfl ?_ hs (fun t => ends)
    simp [ctxDestroy, h0, hb, afterShoot]
  case mapped =>
    refine commands_of_done (body := mapRegion) rfl ?_ hs (fun t => ends)
    simp [mapRegion, h0, hb, afterShoot]
  case destroying =>
    refine answers_of_wait (body := ctxDestroy) (u := s) rfl ?_ hs
      ⟨⟨rfl, rfl, rfl, rfl⟩, rfl, List.mem_append_right _ (List.mem_singleton.2 rfl)⟩
    simp [ctxDestroy, h0, hb, afterShoot]
  case mapping =>
    refine answers_of_wait (body := mapRegion) (u := s) rfl ?_ hs
      ⟨⟨rfl, rfl, rfl, rfl⟩, rfl, List.mem_append_right _ (List.mem_singleton.2 rfl)⟩
    simp [mapRegion, h0, hb, afterShoot]
  case mapBad =>
    refine commands_of_fail (body := mapRegion) rfl ?_ hs (fun t => ends)
    have hc : mapCheck s (req s 0 1) (reqRegion s) = some st := hc
    simp [mapRegion, h0, hc]
  case mapBusy =>
    refine answers_of_wait (body := mapRegion) (u := s) rfl ?_ hs
      ⟨⟨rfl, rfl, rfl, rfl⟩, rfl, List.mem_append_right _ (List.mem_singleton.2 rfl)⟩
    have hc : mapCheck s (req s 0 1) (reqRegion s) = none := hc
    rw [mapRegion]
    dsimp only
    rw [if_neg (by simp [h0]), hc]
    dsimp only
    rw [if_pos (by exact hl)]
  case map =>
    generalize hev : evictLines s (lineInside s ((s.ms.regions.getD (q 0 1) none).toList ++
      (if (reqRegion s).k == 0 then none else some (reqRegion s)).toList)) = v at hv hr ⊢
    obtain ⟨w, hw, -, hq, -, hm, hb⟩ := beginShoot_spec { v with ms := { v.ms with
      regions := v.ms.regions.set (q 0 1) (if (reqRegion s).k == 0 then none else some (reqRegion s)) } } .all
    have he : mapRegion s = beginShoot { v with ms := { v.ms with
        regions := v.ms.regions.set (q 0 1) (if (reqRegion s).k == 0 then none else some (reqRegion s)) } } .all := by
      have hc : mapCheck s (req s 0 1) (reqRegion s) = none := hc
      rw [mapRegion]
      dsimp only
      rw [if_neg (by simp [h0]), hc]
      dsimp only
      rw [if_neg (by rw [Bool.not_eq_true]; exact hl)]
      exact congrArg (fun u : State => beginShoot { u with ms := { u.ms with
        regions := u.ms.regions.set (q 0 1) (if (reqRegion s).k == 0 then none else some (reqRegion s)) } } .all) hev
    have hslot : q 0 1 < v.ms.regions.length := by rw [hr]; exact mapCheck_slot hc
    have hregions := congrArg MemSide.regions hm
    refine answers_of_again rfl (he.trans hw) ((congrArg Sched.raised hq).trans hv)
      ⟨?_, fun i hi => ?_, hb, mem_net_post _ .mapRegion _⟩
    · refine (congrArg (fun xs => xs.getD (q 0 1) none) hregions).trans ((getD_set_self _ _ hslot).trans ?_)
      simp
    · exact (congrArg (fun xs => xs.getD i none) hregions).trans (getD_set_ne _ _ hi)
  case query =>
    refine commands_of_done (body := queryMap) (r := queryResp slot d) rfl ?_ hs (fun t => ends)
    rw [queryMap]
    rw [if_neg (by simpa using ⟨h1, h2⟩), h3, h4]
  case queryNone =>
    refine commands_of_fail (body := queryMap) rfl ?_ hs (fun t => ends)
    rw [queryMap]
    rw [if_neg (by simpa using ⟨h1, h2⟩), h3]
    rfl
  case queryBad =>
    refine commands_of_fail (body := queryMap) rfl ?_ hs (fun t => ends)
    rw [queryMap]
    rw [if_pos (by simpa using h)]
    rfl
  case pinMeets =>
    refine commands_of_fail (body := pinWindow) rfl ?_ hs (fun t => ends)
    rw [pinWindow_checked h1 h2 h3 h4 h5 h6 h7, if_pos hm]
    rfl
  case pinFull =>
    refine commands_of_fail (body := pinWindow) rfl ?_ hs (fun t => ends)
    rw [pinWindow_checked h1 h2 h3 h4 h5 h6 h7, if_neg (by rw [hm]; decide), hw]
    rfl
  case pin =>
    refine commands_of_done (body := pinWindow) (u := s.pinned w ⟨paOffset (q 0 8), q 8 8, 255, none⟩) rfl ?_ hs (fun t ht => ⟨ht.work, ?_⟩)
    · rw [pinWindow_checked h1 h2 h3 h4 h5 h6 h7, if_neg (by rw [hm]; decide), hw]
      rfl
    · refine (ht.keeps (fun t => t.ms.windows.getD w none) (fun _ _ => rfl)).trans ?_
      exact getD_set_self _ _ (idxOf?_lt hw)
  case unpin =>
    refine commands_of_done (body := unpinWindow) (u := dropWindow s (q 0 1)) rfl ?_ hs (fun t ht => ⟨ht.work, ?_⟩)
    · have hx : s.ms.windows.getD (req s 0 1) none = some x := hx
      rw [unpinWindow]
      rw [if_neg (by rw [hx]; simp)]
    · refine (ht.keeps (fun t => t.ms.windows.getD (q 0 1) none) (fun _ _ => rfl)).trans ?_
      unfold dropWindow
      simp only [List.getD_eq_getElem?_getD, List.getElem?_set]
      split_ifs <;> rfl
  case unpinNone =>
    refine commands_of_fail (body := unpinWindow) rfl ?_ hs (fun t => ends)
    have hx : s.ms.windows.getD (req s 0 1) none = none := hx
    rw [unpinWindow]
    rw [if_pos (by rw [hx]; rfl)]
    rfl

end Sys2Proof.Machine
end

section
/-! PROOFS. What leaves the hatches that are in flight no more than they were, and the scheduler as it was. -/

namespace Sys2Proof.Machine

/-! ### Hatches that may have gone -/

/-- Every hatch of t is one of s: of the same number and the same block. -/
def NoNewHatch (s t : State) : Prop := ∀ h ∈ t.hatches, ∃ g ∈ s.hatches, g.inst = h.inst ∧ g.block = h.block

/-- The scheduler without its raised triggers. -/
def State.plans (s : State) : Sched := { s.sched with raised := [] }

/-- Between s and t hatches may have gone, and nothing of the scheduler but its triggers, and nothing of the host interface, has
changed. -/
structure Sheds (s t : State) : Prop where
  hatches : NoNewHatch s t
  plans : t.plans = s.plans
  host : t.host = s.host

theorem NoNewHatch.refl (s : State) : NoNewHatch s s := fun h hm => ⟨h, hm, rfl, rfl⟩

theorem NoNewHatch.trans {s t u : State} (h : NoNewHatch s t) (g : NoNewHatch t u) : NoNewHatch s u := by
  intro k hk
  obtain ⟨j, hj, ji, jb⟩ := g k hk
  obtain ⟨i, hi, ii, ib⟩ := h j hj
  exact ⟨i, hi, ii.trans ji, ib.trans jb⟩

theorem noNewHatch_of_eq {s t : State} (h : t.hatches = s.hatches) : NoNewHatch s t := by
  intro k hk
  rw [h] at hk
  exact ⟨k, hk, rfl, rfl⟩

/-- A block that no hatch of s is of has none in t. -/
theorem NoNewHatch.blockless {s t : State} (h : NoNewHatch s t) {b : Nat} (hb : ∀ k ∈ s.hatches, k.block ≠ b) : ∀ k ∈ t.hatches, k.block ≠ b := by
  intro k hk
  obtain ⟨g, hg, -, e⟩ := h k hk
  rw [← e]
  exact hb g hg

/-- A number that no hatch of s has, none of t has. -/
theorem NoNewHatch.gone {s t : State} (h : NoNewHatch s t) {i : Nat} (hi : s.hatch? i = none) : t.hatch? i = none := by
  rw [State.hatch?, List.find?_eq_none] at hi ⊢
  intro k hk
  obtain ⟨g, hg, e, -⟩ := h k hk
  rw [← e]
  exact hi g hg

theorem Sheds.refl (s : State) : Sheds s s := ⟨.refl s, rfl, rfl⟩
theorem Sheds.trans {s t u : State} (h : Sheds s t) (g : Sheds t u) : Sheds s u := ⟨h.hatches.trans g.hatches, g.plans.trans h.plans, g.host.trans h.host⟩

/-- Where none of the three has changed. -/
theorem sheds_of_eq {s t : State} (h : t.hatches = s.hatches) (g : t.sched = s.sched) (k : t.host = s.host) : Sheds s t :=
  ⟨noNewHatch_of_eq h, by unfold State.plans; rw [g], k⟩

theorem sheds_foldl {α : Type} (f : State → α → State) (hf : ∀ s a, Sheds s (f s a)) (xs : List α) (s : State) : Sheds s (xs.foldl f s) := by
  induction xs generalizing s with
  | nil => exact .refl s
  | cons x xs ih => exact (hf s x).trans (ih _)

theorem sheds_ite {b : Prop} [Decidable b] {s t u : State} (ht : Sheds s t) (hu : Sheds s u) : Sheds s (if b then t else u) := by
  split <;> assumption

/-- A change to hatches that keeps what they are. -/
theorem sheds_updHatch (s : State) (i : Nat) {f : Hatch → Hatch} (hi : ∀ h, (f h).inst = h.inst) (hb : ∀ h, (f h).block = h.block) :
    Sheds s (s.updHatch i f) := by
  refine ⟨fun h hm => ?_, rfl, rfl⟩
  obtain ⟨g, hg, e⟩ := List.mem_map.1 hm
  refine ⟨g, hg, ?_⟩
  rw [← e]
  dsimp only
  split
  · exact ⟨(hi g).symm, (hb g).symm⟩
  · exact ⟨rfl, rfl⟩

theorem sheds_filter (s : State) (p : Hatch → Bool) : Sheds s { s with hatches := s.hatches.filter p } :=
  ⟨fun h hm => ⟨h, (List.mem_filter.1 hm).1, rfl, rfl⟩, rfl, rfl⟩

theorem sheds_updCore (s : State) (c : Nat) (f : Core → Core) : Sheds s (s.updCore c f) := sheds_of_eq rfl rfl rfl

/-- What an operation of memory knows of hatches is what they are, and it leaves the scheduler but for its triggers. -/
theorem MemKeeps.sheds {s t : State} (h : MemKeeps s t) : Sheds s t := by
  refine ⟨fun k hk => ?_, (congrArg State.sched h.calm).trans rfl, (congrArg State.host h.calm).trans rfl⟩
  have hm : k.still ∈ s.stills := by rw [← h.stills]; exact List.mem_map.2 ⟨k, hk, rfl⟩
  obtain ⟨g, hg, e⟩ := List.mem_map.1 hm
  exact ⟨g, hg, (congrArg Hatch.inst e).trans rfl, (congrArg Hatch.block e).trans rfl⟩

theorem left_eq_orElseState (m : AreaM Unit) (s : State) : AreaM.orElseState m s = m.left s := by
  unfold AreaM.orElseState AreaM.left
  cases m.run s <;> rfl

theorem AreaM.Keeps.sheds {m : AreaM Unit} (h : m.Keeps) (s : State) : Sheds s (AreaM.orElseState m s) := by
  rw [left_eq_orElseState]
  exact (h s).sheds

/-! ### The end of operations, records and what a block holds -/

/-- What each step of a fold leaves alone, the fold leaves alone. -/
theorem foldl_field {α β γ : Type} (F : β → γ) {f : β → α → β} (hf : ∀ b a, F (f b a) = F b) (xs : List α) (b : β) :
    F (xs.foldl f b) = F b := by
  induction xs generalizing b with
  | nil => rfl
  | cons x xs ih => exact (ih _).trans (hf b x)

theorem markEmpty_block (h : Hatch) (ds : List (BitVec 8 × Nat)) (on : Bool) : (h.markEmpty ds on).block = h.block := by
  unfold Hatch.markEmpty
  exact foldl_field Hatch.block (fun h d => by split <;> rfl) ds h

theorem sheds_popDone (s : State) (i : Nat) : Sheds s (popDone s i) := sheds_updHatch s i (by intro; rfl) (by intro; rfl)

theorem sheds_endOp (s : State) (o : Op) : Sheds s (endOp s o) := by
  unfold endOp
  extract_lets s1
  have h1 : Sheds s s1 := sheds_ite (sheds_updCore s _ _) (.refl s)
  exact h1.trans (.trans (t := s1.dropOp o.id) (sheds_of_eq rfl rfl rfl) (sheds_popDone _ _))

theorem sheds_cancelWait (s : State) (o : Op) : Sheds s (cancelWait s o) := by
  unfold cancelWait
  extract_lets s1
  have h1 : Sheds s s1 := by
    unfold s1
    split
    · exact .refl s
    · exact sheds_updHatch s _ (fun h => h.markEmpty_inst _ _) (fun h => markEmpty_block h _ _)
  exact h1.trans ((sheds_updHatch s1 o.hatch (by intro; rfl) (by intro; rfl)).trans (sheds_endOp _ _))

theorem sheds_dropRecords (s : State) (c i : Nat) : Sheds s (dropRecords s c i) := sheds_updCore s _ _

theorem sheds_freeWays (s : State) (b : Block) : Sheds s (freeWays s b) := sheds_foldl _ (fun s c => sheds_updCore s c _) _ _

theorem sheds_dropAtDiscard (s : State) (i : Nat) : Sheds s (dropAtDiscard s i) := sheds_of_eq rfl rfl rfl

/-! ### Pools and spill areas -/

theorem keeps_poolFree (c ctx pool : Nat) : (poolFree c ctx pool).Keeps :=
  (AreaM.Keeps.bind (keeps_devRead _ _ _ _) (fun _ => .pure _)).bind (fun _ => (keeps_devRead _ _ _ _).bind (fun _ => .pure _))

theorem keeps_poolMark (c ctx pool i : Nat) (taken : Bool) (free : Nat) : (poolMark c ctx pool i taken free).Keeps :=
  (keeps_devRead _ _ _ _).bind (fun _ => (keeps_devWrite _ _ _ _).bind (fun _ => keeps_devWrite _ _ _ _))

theorem keeps_poolRelease (c ctx pool addr : Nat) : (poolRelease c ctx pool addr).Keeps :=
  (keeps_poolFree c ctx pool).bind (fun _ => keeps_poolMark _ _ _ _ _ _)

theorem sheds_setUsed (s : State) (c ctx buf n : Nat) : Sheds s (setUsed s c ctx buf n) := (keeps_devWrite _ _ _ _).sheds s

end Sys2Proof.Machine
end

section
/-! PROOFS. The statement of the commands on watches, launches and the freeze table. -/

namespace Sys2Proof.Machine

/-! ### Tables by their keys -/

/-- The first entry of a key, after a change to the entries of one key that keeps it. -/
theorem find?_updWhere_key {α β : Type} [DecidableEq β] (key : α → β) {i : β} {f : α → α} (hf : ∀ x, key x = i → key (f x) = i) (j : β)
    (xs : List α) :
    (updWhere (fun x => key x == i) f xs).find? (fun x => key x == j) =
      if j = i then (xs.find? (fun x => key x == i)).map f else xs.find? (fun x => key x == j) := by
  induction xs with
  | nil => split <;> rfl
  | cons x xs ih =>
    unfold updWhere at ih ⊢
    rw [List.map_cons]
    by_cases hx : key x = i
    · rw [if_pos (by simpa using hx)]
      by_cases hj : j = i
      · rw [List.find?_cons_of_pos (by simp [hf x hx, hj]), if_pos hj, List.find?_cons_of_pos (by simpa using hx)]
        rfl
      · rw [if_neg hj] at ih ⊢
        rw [List.find?_cons_of_neg (by simpa [hf x hx] using Ne.symm hj), ih, List.find?_cons_of_neg (by simpa [hx] using Ne.symm hj)]
    · rw [if_neg (by simpa using hx)]
      by_cases hj : j = i
      · rw [if_pos hj] at ih ⊢
        rw [List.find?_cons_of_neg (by simpa [hj] using hx), ih, List.find?_cons_of_neg (by simpa using hx)]
      · rw [if_neg hj] at ih ⊢
        by_cases hxj : key x = j
        · rw [List.find?_cons_of_pos (by simpa using hxj), List.find?_cons_of_pos (by simpa using hxj)]
        · rw [List.find?_cons_of_neg (by simpa using hxj), ih, List.find?_cons_of_neg (by simpa using hxj)]

theorem watch?_updWatch (s : State) (i j : Nat) {f : Watch → Watch} (hf : ∀ w, (f w).id = w.id) :
    (s.updWatch i f).watch? j = if j = i then (s.watch? i).map f else s.watch? j :=
  find?_updWhere_key Watch.id (fun w h => (hf w).trans h) j s.sched.watches

theorem launch?_updLaunch (s : State) (i j : Nat) {f : Launch → Launch} (hf : ∀ l, (f l).id = l.id) :
    (s.updLaunch i f).launch? j = if j = i then (s.launch? i).map f else s.launch? j :=
  find?_updWhere_key Launch.id (fun l h => (hf l).trans h) j s.sched.launches

theorem block?_updBlock (s : State) (i j : Nat) {f : Block → Block} (hf : ∀ b, (f b).inst = b.inst) :
    (s.updBlock i f).block? j = if j = i then (s.block? i).map f else s.block? j :=
  find?_updWhere_key Block.inst (fun b h => (hf b).trans h) j s.sched.blocks

theorem watch?_id {s : State} {i : Nat} {w : Watch} (h : s.watch? i = some w) : w.id = i := by simpa using List.find?_some h
theorem launch?_id {s : State} {i : Nat} {l : Launch} (h : s.launch? i = some l) : l.id = i := by simpa using List.find?_some h

theorem watch?_mem {s : State} {i : Nat} {w : Watch} (h : s.watch? i = some w) : w ∈ s.sched.watches := List.mem_of_find?_eq_some h

/-! ### SUSPEND (R152) -/

/-- A block is saved: no hatch of it is left, and it is suspended. -/
def Saved (s : State) (i : Nat) : Prop := (∀ h ∈ s.hatches, h.block ≠ i) ∧ (s.block? i).map (·.phase) = some .suspended

theorem block?_of_plans {s t : State} (h : t.plans = s.plans) (i : Nat) : t.block? i = s.block? i := by
  have hb : t.sched.blocks = s.sched.blocks := (congrArg Sched.blocks h).trans rfl
  unfold State.block?
  rw [hb]

theorem Sheds.saved {s t : State} (h : Sheds s t) {i : Nat} (hi : Saved s i) : Saved t i :=
  ⟨h.hatches.blockless hi.1, by rw [block?_of_plans h.plans]; exact hi.2⟩

/-- A block that is saved loses its hatches and becomes suspended; the hatches and the phases of the others stay. -/
theorem saveBlock_spec (s : State) (r : LaunchRec) (b : Block) : ∃ u f, Sheds s u ∧ (∀ h ∈ u.hatches, h.block ≠ b.inst) ∧
    (∀ x : Block, (f x).inst = x.inst ∧ (f x).phase = .suspended) ∧ saveBlock s r b = u.updBlock b.inst f := by
  unfold saveBlock
  extract_lets mine s1 hs sfr sv s2 s3
  have h1 : Sheds s s1 := sheds_foldl _ (fun s o => sheds_cancelWait s o) _ _
  have h2 : Sheds s1 s2 := sheds_foldl _ (fun s h => sheds_dropRecords s _ _) _ _
  refine ⟨s3, fun b => { b with phase := .suspended, saved := some sv, cores := [], hwGroups := [] }, h1.trans (h2.trans ((sheds_filter s2 _).trans (sheds_freeWays _ b))), ?_, fun x => ⟨rfl, rfl⟩, rfl⟩
  refine (sheds_freeWays { s2 with hatches := s2.hatches.filter (fun h => h.block != b.inst) } b).hatches.blockless (fun h hm => ?_)
  simpa using (List.mem_filter.1 hm).2

theorem saveBlock_host (s : State) (r : LaunchRec) (b : Block) : (saveBlock s r b).host = s.host := by
  obtain ⟨u, f, hu, -, -, e⟩ := saveBlock_spec s r b
  rw [e]
  exact hu.host

theorem saveBlock_saves {s : State} (r : LaunchRec) {b : Block} (hb : (s.block? b.inst).isSome = true) :
    Saved (saveBlock s r b) b.inst := by
  obtain ⟨u, f, hu, hn, hf, e⟩ := saveBlock_spec s r b
  refine ⟨?_, ?_⟩
  · rw [e]; exact hn
  · rw [e, block?_updBlock _ _ _ (fun x => (hf x).1), if_pos rfl, block?_of_plans hu.plans]
    cases h : s.block? b.inst with
    | none => rw [h] at hb; cases hb
    | some x => exact congrArg some (hf x).2

theorem saveBlock_keeps {s : State} (r : LaunchRec) (b : Block) (i : Nat) :
    (Saved s i → Saved (saveBlock s r b) i) ∧ ((s.block? i).isSome = true → ((saveBlock s r b).block? i).isSome = true) := by
  obtain ⟨u, f, hu, hn, hf, e⟩ := saveBlock_spec s r b
  have hk : (saveBlock s r b).block? i = if i = b.inst then (s.block? b.inst).map f else s.block? i := by
    rw [e, block?_updBlock _ _ _ (fun x => (hf x).1), block?_of_plans hu.plans, block?_of_plans hu.plans]
  refine ⟨fun hi => ⟨?_, ?_⟩, fun hi => ?_⟩
  · rw [e]; exact (hu.saved hi).1
  · rw [hk]
    split
    next h =>
      subst h
      cases hx : s.block? b.inst with
      | none => have := hi.2; rw [hx] at this; cases this
      | some x => exact congrArg some (hf x).2
    · exact hi.2
  · rw [hk]
    split
    next h => subst h; rw [Option.isSome_map]; exact hi
    · exact hi

/-- Every block of a list is saved by saving them one after the other. -/
theorem saveBlocks_save (r : LaunchRec) (bs : List Block) (s : State) (hb : ∀ b ∈ bs, (s.block? b.inst).isSome = true) {i : Nat}
    (hi : Saved s i ∨ ∃ b ∈ bs, b.inst = i) : Saved (bs.foldl (fun s b => saveBlock s r b) s) i := by
  induction bs generalizing s with
  | nil => exact hi.resolve_right (by simp)
  | cons b bs ih =>
    refine ih (saveBlock s r b) (fun x hx => (saveBlock_keeps r b _).2 (hb x (List.mem_cons_of_mem _ hx))) ?_
    rcases hi with hi | ⟨x, hx, e⟩
    · exact .inl ((saveBlock_keeps r b i).1 hi)
    · rcases List.mem_cons.1 hx with hx | hx
      · rw [← e, hx]; exact .inl (saveBlock_saves r (hb b List.mem_cons_self))
      · exact .inr ⟨x, hx, e⟩

theorem residents_known {s : State} {id : Nat} {b : Block} (h : b ∈ residents s id) : (s.block? b.inst).isSome = true :=
  List.find?_isSome.2 ⟨b, (List.mem_filter.1 h).1, beq_self_eq_true _⟩

theorem sheds_pokeRange (s : State) (pa : Nat) (bs : List Byte) : Sheds s (pokeRange s pa bs) :=
  sheds_foldl _ (fun s _ => (memKeeps_pokePa s _ _ _).sheds) _ _

theorem sheds_openRange (s : State) (pa n : Nat) : Sheds s (openRange s pa n) :=
  sheds_foldl _ (fun s _ => .trans (t := { s with draws := s.draws + 128 }) (sheds_of_eq rfl rfl rfl) (sheds_pokeRange _ _ _)) _ _

/-- The state of a launch whose resident blocks have been saved, with the header of its save area written. -/
def State.headed (s : State) (l : Launch) : State :=
  let rs := residents s (req s 0 4)
  let u := rs.foldl (fun s b => saveBlock s l.rcd b) s
  pokeRange u (req s 8 8) (saveHeader u l rs.length)

/-- The state in which SUSPEND completes. -/
def State.suspended (s : State) (l : Launch) : State :=
  openRange (s.headed l) (req s 8 8 + 256) (saveSize l.rcd s.arg.block - 256)

theorem suspended_saved (s : State) (l : Launch) : ∀ b ∈ residents s (req s 0 4), Saved (s.suspended l) b.inst := by
  intro b hb
  have h1 := saveBlocks_save l.rcd (residents s (req s 0 4)) s (fun b hb => residents_known hb) (.inr ⟨b, hb, rfl⟩)
  exact ((sheds_pokeRange _ _ _).trans (sheds_openRange _ _ _)).saved h1

theorem suspend_begins {s : State} {l : Launch} (h0 : s.arg.seq = 0) (hl : s.launch? (req s 0 4) = some l) (hp : l.phase = .running)
    (hn : saveSize l.rcd (residents s (req s 0 4)).length ≤ req s 0x10 8) :
    suspend s = ({ s.updLaunch (req s 0 4) (fun l => { l with phase := .suspended }) with
      arg := { s.arg with seq := 1, block := (residents s (req s 0 4)).length } }, .again) := by
  unfold suspend
  dsimp only
  rw [hl]
  dsimp only
  rw [if_pos (by simp [h0]), if_neg (by simp [hp]), if_neg (Nat.not_lt.2 hn)]

theorem suspend_done {s : State} {l : Launch} (h0 : s.arg.seq ≠ 0) (hl : s.launch? (req s 0 4) = some l)
    (hq : launchQuiet s (req s 0 4) = true) : suspend s = (s.suspended l, .done (natBytes 8 (saveSize l.rcd s.arg.block))) := by
  have same : ∀ u : State, u.host = s.host → req u 8 8 = req s 8 8 := fun u h => by unfold req; rw [h]
  have hu := foldl_field State.host (fun s b => saveBlock_host s l.rcd b) (residents s (req s 0 4)) s
  unfold suspend
  dsimp only
  rw [hl]
  dsimp only
  rw [if_neg (by simp [h0]), if_neg (by simp [hq]), same _ hu, same _ ((sheds_pokeRange _ _ _).host.trans hu)]
  rfl

/-! ### RESUME and KILL (R153 to R155) -/

/-- Suspended blocks that still fit go back to their queue with what was saved. -/
theorem requeueBlocks_spec (r : LaunchRec) (bs : List Block) (hb : ∀ b ∈ bs, ∃ sv, b.saved = some sv ∧ overCapacity b sv r = false)
    (s : State) : let t := bs.foldl (requeueBlock r) s
    (∃ xs, t = { s with sched := { s.sched with blocks := xs } }) ∧
      ∀ x ∈ t.sched.blocks, (x ∈ s.sched.blocks ∧ ∀ b ∈ bs, x.inst ≠ b.inst) ∨ x.phase = .queued := by
  induction bs generalizing s with
  | nil => exact ⟨⟨s.sched.blocks, rfl⟩, fun x hx => .inl ⟨hx, by simp⟩⟩
  | cons b bs ih =>
    obtain ⟨sv, hs, ho⟩ := hb b List.mem_cons_self
    have hq : requeue r s.clock b = { b with phase := .queued, queuedAt := s.clock, agedFrom := s.clock } := by
      unfold requeue
      dsimp only
      rw [hs]
      exact if_pos (congrArg not ho)
    have he : requeueBlock r s b = s.updBlock b.inst (fun _ => { b with phase := .queued, queuedAt := s.clock, agedFrom := s.clock }) := by
      unfold requeueBlock
      dsimp only
      rw [hq, if_neg (by simp [hs])]
    obtain ⟨⟨xs, ht⟩, hx⟩ := ih (fun x hm => hb x (List.mem_cons_of_mem _ hm)) (requeueBlock r s b)
    refine ⟨⟨xs, ?_⟩, fun x hm => ?_⟩
    · rw [List.foldl_cons, ht, he]; rfl
    · rcases hx x hm with ⟨hx, hn⟩ | hx
      · rw [he] at hx
        obtain ⟨y, hy, e⟩ := List.mem_map.1 hx
        dsimp only at e
        split at e
        · exact .inr (by rw [← e])
        next hne =>
          rw [← e] at hn ⊢
          exact .inl ⟨hy, List.forall_mem_cons.2 ⟨by simpa using hne, hn⟩⟩
      · exact .inr hx

theorem postOnces_eq (ds : List Nat) (i : Instr) (a : Nat → Arg) (s : State) : ∃ net,
    ds.foldl (fun s d => s.postOnce i (a d)) s = { s with net := net } := by
  induction ds generalizing s with
  | nil => exact ⟨s.net, rfl⟩
  | cons d ds ih =>
    rw [List.foldl_cons]
    unfold State.postOnce
    split
    · exact ih s
    · obtain ⟨net, e⟩ := ih (s.post i (a d))
      exact ⟨net, e⟩

/-- A launch as the header of its save area and its record have it. -/
def Launch.resumed (h : List Byte) (r : LaunchRec) (l : Launch) : Launch :=
  { l with phase := .running, rcd := r, ctx := fieldAt h 0x10 1, recVa := fieldAt h 8 8 }

/-- RESUME of a launch whose blocks still fit: it runs with its record, and none of its blocks is suspended. -/
theorem resume_done {s s0 s1 : State} {l : Launch} {h : List Byte} {r : LaunchRec} (hl : s.launch? (req s 0 4) = some l)
    (hp : l.phase = .suspended) (hr : readHeader s (req s 8 8) = (s0, some h)) (h1 : fieldAt h 0 4 = 0x09405A5E)
    (h2 : fieldAt h 0x14 4 = req s 0 4) (h3 : (s0.ctx? (fieldAt h 0x10 1)).isSome = true)
    (h4 : (readRecord 0 (fieldAt h 0x10 1) (fieldAt h 8 8)).run s0 = .ok (some r) s1) (hc : r.coop = false)
    (hb : ∀ b ∈ s1.sched.blocks, b.launch = req s 0 4 → b.phase = .suspended → ∃ sv, b.saved = some sv ∧ overCapacity b sv r = false) :
    ∃ u : State, resume s = (u, .done []) ∧ u.sched.raised = s1.sched.raised ∧
      (u.launch? (req s 0 4) = (s1.launch? (req s 0 4)).map (Launch.resumed h r)) ∧
      ∀ b ∈ u.sched.blocks, b.launch = req s 0 4 → b.phase ≠ .suspended := by
  obtain ⟨⟨xs, e1⟩, hx⟩ := requeueBlocks_spec r
    ((s1.updLaunch (req s 0 4) (Launch.resumed h r)).sched.blocks.filter (fun b => b.launch == req s 0 4 && b.phase == .suspended))
    (fun b hm => by
      obtain ⟨hm, hq⟩ := List.mem_filter.1 hm
      rw [Bool.and_eq_true, beq_iff_eq, beq_iff_eq] at hq
      exact hb b hm hq.1 hq.2) (s1.updLaunch (req s 0 4) (Launch.resumed h r))
  generalize hf : ((s1.updLaunch (req s 0 4) (Launch.resumed h r)).sched.blocks.filter
      (fun b => b.launch == req s 0 4 && b.phase == .suspended)).foldl (requeueBlock r)
    (s1.updLaunch (req s 0 4) (Launch.resumed h r)) = u at e1 hx
  obtain ⟨net, e2⟩ := postOnces_eq (List.range 4) .blockAdmission (fun d => { die := d }) u
  refine ⟨{ u with net := net }, ?_, by rw [e1]; rfl, ?_, fun b hm hl hp => ?_⟩
  · unfold resume
    dsimp only
    rw [hl]
    dsimp only
    rw [if_neg (by simp [hp]), hr]
    dsimp only
    rw [if_neg (by rw [h1, h2]; simpa using Option.isSome_iff_ne_none.1 h3), h4]
    dsimp only
    rw [if_neg (by simp [hc]), ← e2, ← hf]
    rfl
  · rw [e1]
    exact (launch?_updLaunch s1 (req s 0 4) (req s 0 4) (f := Launch.resumed h r) (by intro; rfl)).trans (if_pos rfl)
  · rcases hx b hm with ⟨hm, hn⟩ | hq
    · exact hn b (List.mem_filter.2 ⟨hm, by simp [hl, hp]⟩) rfl
    · rw [hq] at hp
      cases hp

/-- A block that is killed is gone from the table. -/
theorem killBlock_blocks (s : State) (l : Launch) (b : Block) :
    (killBlock s l b).sched.blocks = s.sched.blocks.filter (fun x => x.inst != b.inst) := by
  unfold killBlock
  extract_lets hs s1 s2 c s3 trim
  have h1 : Sheds s s1 := sheds_foldl _ (fun s h => (sheds_dropAtDiscard s _).trans (sheds_dropRecords _ _ _)) _ _
  have h2 : Sheds s s2 := h1.trans ((sheds_filter s1 _).trans (sheds_freeWays _ b))
  have h3 : Sheds s s3 := h2.trans (sheds_foldl _ (fun s a => (keeps_poolRelease _ _ _ _).sheds s) _ _)
  have hb : s3.sched.blocks = s.sched.blocks := (congrArg Sched.blocks h3.plans).trans rfl
  rw [hb]

theorem killBlocks_blocks (l : Launch) (bs : List Block) (s : State) : ∀ x ∈ (bs.foldl (fun s b => killBlock s l b) s).sched.blocks,
    x ∈ s.sched.blocks ∧ ∀ b ∈ bs, x.inst ≠ b.inst := by
  induction bs generalizing s with
  | nil => exact fun x hx => ⟨hx, by simp⟩
  | cons b bs ih =>
    intro x hx
    obtain ⟨hm, hn⟩ := ih (killBlock s l b) x hx
    rw [killBlock_blocks] at hm
    obtain ⟨hm, hb⟩ := List.mem_filter.1 hm
    exact ⟨hm, List.forall_mem_cons.2 ⟨by simpa using hb, hn⟩⟩

/-- A killed launch that no watch started leaves neither its entry nor a block. -/
theorem killLaunch_spec {s : State} {l : Launch} (hl : l.watched = false) :
    (killLaunch s l).launch? l.id = none ∧ ∀ b ∈ (killLaunch s l).sched.blocks, b.launch ≠ l.id := by
  unfold killLaunch
  extract_lets gone s1 _ s2 s3
  rw [if_neg (by simp [hl])]
  have h3 : s3.sched.blocks = s1.sched.blocks := by
    unfold s3
    split
    · rfl
    · exact (congrArg Sched.blocks (sheds_setUsed s2 0 l.ctx l.rcd.spill 0).plans).trans rfl
  refine ⟨?_, fun b hb hc => ?_⟩
  · simp [State.launch?]
  · have hb : b ∈ s1.sched.blocks := by rw [← h3]; exact hb
    obtain ⟨hm, hn⟩ := killBlocks_blocks l gone s b hb
    exact hn b (List.mem_filter.2 ⟨hm, by simp [hc, hl]⟩) rfl

/-! ### WATCH_ATTACH and WATCH_DETACH -/

/-- A scan of a watch whose granules are all behind it has passed. -/
theorem scanFrom_pass {s : State} {w : Watch} {pos depth : Nat} (h : granulesOf w ≤ pos) : scanFrom s w pos depth = (s, .pass, pos) :=
  if_pos h

/-- A watch without a mask of contexts marks no page. -/
theorem markContexts_none {s : State} {w : Watch} (h : w.ctxMask = 0) (on : Bool) : markContexts s w on = s := by
  have hf : (List.range 64).filter (fun c => bitAt w.ctxMask c) = [] :=
    List.filter_eq_nil_iff.2 (fun c _ => by simp [h, bitAt])
  unfold markContexts
  rw [hf]
  rfl

/-- The state in which a watch of an engine has its entry. -/
def State.attached (s : State) (w : Watch) : State := { s with sched := { s.sched with watches := s.sched.watches ++ [w] } }

theorem watch?_attached {s : State} {w : Watch} (h : s.watch? w.id = none) : (s.attached w).watch? w.id = some w := by
  have hn : s.sched.watches.find? (fun x => x.id == w.id) = none := h
  change (s.sched.watches ++ [w]).find? (fun x => x.id == w.id) = some w
  rw [List.find?_append, hn, Option.none_or, List.find?_cons_of_pos (by simp)]

/-- The watch of the request, as an image. -/
def reqWatch (s : State) : Watch := watchOf (sliceBytes s.host.cmdBuf 0 64)

theorem attach_refused {s : State} (h : watchOk s (reqWatch s) (fieldAt (sliceBytes s.host.cmdBuf 0 64) 0x2D 1) = false) :
    attach s = (s, .error stInvalidParam) := by
  unfold reqWatch at h
  simp [attach, h]

theorem attach_meets {s : State} {i : Nat} (h : watchOk s (reqWatch s) (fieldAt (sliceBytes s.host.cmdBuf 0 64) 0x2D 1) = true)
    (hi : freeWatch s = some i) (hm : s.sched.watches.any (fun x => rangesMeet x.base x.size (reqWatch s).base (reqWatch s).size) = true) :
    attach s = (s, .error stWatchOverlap) := by
  unfold reqWatch at h hm
  unfold attach
  dsimp only
  rw [h, hi]
  dsimp only
  rw [if_neg (by decide), if_pos hm]

theorem attach_engine {s : State} {i : Nat} (h : watchOk s (reqWatch s) (fieldAt (sliceBytes s.host.cmdBuf 0 64) 0x2D 1) = true)
    (hi : freeWatch s = some i) (hm : s.sched.watches.any (fun x => rangesMeet x.base x.size (reqWatch s).base (reqWatch s).size) = false)
    (he : (reqWatch s).engine = true) (hc : (reqWatch s).ctxMask = 0) :
    attach s = (s.attached { reqWatch s with id := i, launch := 0 }, .ok i) := by
  have hp := markContexts_none (s := s.attached { reqWatch s with id := i, launch := 0 }) (w := { reqWatch s with id := i }) hc true
  unfold reqWatch at h hm he hc hp
  unfold attach
  dsimp only
  rw [h, hi]
  dsimp only
  rw [if_neg (by decide), hm, if_neg (by decide), if_pos he]
  exact congrArg (fun u : State => ((u, .ok i) : State × Except Nat Nat)) hp

/-- A thaw that begins. -/
theorem startThaw_eq (s : State) (i : Nat) : ∃ net fz, startThaw s i = { s with freeze := fz, net := net } ∧
    fz = s.freeze.set i { s.frz i with state := .thawing, thawIssued := true, thawWanted := false } := ⟨_, _, rfl, rfl⟩

/-! ### The commands -/

/-- Settles O57, command by command: each body's result on the request, and what its effect leaves unchanged. -/
theorem schedulerCommands : Obligations.SchedulerCommands := by
  intro s hs
  dsimp only
  have ends : ∀ {t st r}, CommandEnds s t st r → SameWork s t := fun h => h.work
  refine ⟨fun h0 => ⟨fun hw => ?attachBad, fun i hw hi => ⟨fun hm => ?attachMeets, fun hm he hc => ?attach⟩⟩,
    fun x h0 hx hsh hsw hg => ?attached, fun hx => ?detachNone,
    fun x hx he => ⟨fun h0 => ?detach, fun h0 h2 hp hg hc => ?detachScan, fun h2 hsh => ?detached⟩, fun hc => ?launchNone,
    fun s1 r x hx hl h1 => ⟨fun id hr => ?launchOk, fun code hr => ?launchFail⟩, fun hl => ⟨?suspendNone, ?resumeNone, ?killNone⟩,
    fun l hl => ⟨fun h0 hp hq => ?suspend, fun h0 hp => ?suspendTwice, ?saved, ?resume, fun hw hk => ?kill⟩, ?freezeList,
    fun h0 hf => ?thawNone, fun h0 hi hn hf => ?thaw, fun h0 hf => ?thawed⟩
  case attachBad =>
    refine commands_of_fail (body := watchAttach) rfl ?_ hs (fun t => ends)
    rw [watchAttach, if_neg (by simp [h0]), attach_refused hw]
    rfl
  case attachMeets =>
    refine commands_of_fail (body := watchAttach) rfl ?_ hs (fun t => ends)
    rw [watchAttach, if_neg (by simp [h0]), attach_meets hw hi hm]
    rfl
  case attach =>
    have hn : s.watch? i = none := by
      have := List.find?_some hi
      simpa using this
    have hb : watchAttach s = ({ s.attached { reqWatch s with id := i, launch := 0 } with
        arg := { s.arg with seq := 1, watch := i, offset := 0 } }, .again) := by
      rw [watchAttach, if_neg (by simp [h0]), attach_engine hw hi hm he hc]
      rfl
    exact answers_of_again rfl hb hs ⟨⟨rfl, rfl, rfl, rfl⟩, watch?_attached (w := { reqWatch s with id := i, launch := 0 }) hn,
      mem_net_post _ .watchAttach _⟩
  case attached =>
    refine commands_of_done (body := watchAttach) rfl ?_ hs (fun t => ends)
    rw [watchAttach, if_pos (by simp [h0]), attachSweep]
    dsimp only
    rw [hx]
    dsimp only
    rw [if_neg (by simp [hsh]), scanFrom_pass hg]
    dsimp only
    rw [if_neg (by rw [hx]; simp [hsw])]
  case detachNone =>
    refine commands_of_fail (body := watchDetach) rfl ?_ hs (fun t => ends)
    rw [watchDetach, hx]
    rfl
  case detach =>
    have hid := watch?_id hx
    have hb : watchDetach s = ({ s.updWatch x.id (fun w => { w with detaching := true }) with
        arg := { s.arg with seq := 1, offset := 0 } }, .again) := by
      rw [watchDetach, hx]
      dsimp only
      rw [if_pos (by simp [h0]), if_neg (by simp [he])]
    refine answers_of_again rfl hb hs ⟨⟨rfl, rfl, rfl, rfl⟩, ?_, mem_net_post _ .watchDetach _⟩
    refine (congrArg (Option.map Watch.detaching)
      ((watch?_updWatch s x.id (req s 0 1) (f := fun w => { w with detaching := true }) (by intro; rfl)).trans (if_pos hid.symm))).trans ?_
    rw [hid, hx]
    rfl
  case detachScan =>
    have hid := watch?_id hx
    have hb : watchDetach s = ({ s with arg := { s.arg with seq := 2 } }, .again) := by
      rw [watchDetach, hx]
      dsimp only
      rw [if_neg (by simp [h0]), if_neg (by simp [h2]), if_neg (by simp [hp]), scanFrom_pass hg]
      dsimp only
      rw [if_neg (by rw [hid, hx]; simp [hp]), markContexts_none hc]
    exact answers_of_again rfl hb hs ⟨⟨rfl, rfl, rfl, rfl⟩, mem_net_post _ .watchDetach _⟩
  case detached =>
    have hid := watch?_id hx
    have hb : watchDetach s = (dropWatch s x, .done []) := by
      rw [watchDetach, hx]
      dsimp only
      rw [if_neg (by simp [h2]), if_pos (by simp [h2]), if_neg (by simp [hsh])]
    have hd : dropWatch s x = { s with sched := { s.sched with watches := s.sched.watches.filter (fun y => y.id != x.id) } } := by
      rw [dropWatch, if_pos he]
    rw [hd] at hb
    refine commands_of_done rfl hb hs (fun t ht => ⟨ht.work, ?_⟩)
    refine (ht.keeps (fun t => t.watch? (req s 0 1)) (fun _ _ => rfl)).trans ?_
    rw [State.watch?, List.find?_eq_none]
    intro y hy
    have := (List.mem_filter.1 hy).2
    rw [hid] at this
    simpa using this
  case launchNone =>
    refine commands_of_fail (body := launchCmd) rfl ?_ hs (fun t => ends)
    rw [launchCmd]
    rw [if_pos (by rw [hc]; rfl)]
    rfl
  case launchOk =>
    have hb : launchCmd s = (s1, .done (natBytes 4 id)) := by
      rw [launchCmd]
      rw [if_neg (by rw [hx]; simp), hl, hr]
    exact commands_of_done rfl hb h1 (fun t ht => ht.keeps (fun t => t.sched.launches) (fun _ _ => rfl))
  case launchFail =>
    have hb : launchCmd s = (s1, .fail (if code = 4 then 0x0D else 0x02)) := by
      rw [launchCmd]
      rw [if_neg (by rw [hx]; simp), hl, hr]
      simp [stNoResource, stInvalidParam]
    exact commands_of_fail rfl hb h1 (fun t ht => ht.keeps (fun t => t.sched.launches) (fun _ _ => rfl))
  case suspendNone =>
    refine commands_of_fail (body := suspend) rfl ?_ hs (fun t => ends)
    rw [suspend]
    dsimp only
    rw [hl]
    rfl
  case resumeNone =>
    refine commands_of_fail (body := resume) rfl ?_ hs (fun t => ends)
    rw [resume]
    dsimp only
    rw [hl]
    rfl
  case killNone =>
    refine commands_of_fail (body := kill) rfl ?_ hs (fun t => ends)
    rw [kill, hl]
    rfl
  case suspend =>
    rw [launch?_id hl] at hq ⊢
    refine answers_of_again rfl (suspend_begins h0 hl hp hq) (show s.sched.raised = [] from hs)
      ⟨⟨rfl, rfl, rfl, rfl⟩, ?_, mem_net_post _ .suspend _⟩
    have := launch?_updLaunch s (req s 0 4) (req s 0 4) (f := fun l => { l with phase := .suspended }) (by intro; rfl)
    rw [if_pos rfl, hl] at this
    exact congrArg (Option.map Launch.phase) this
  case suspendTwice =>
    refine commands_of_fail (body := suspend) rfl ?_ hs (fun t => ends)
    rw [suspend]
    dsimp only
    rw [hl]
    dsimp only
    rw [if_pos (by simp [h0]), if_pos (by simp [hp])]
    rfl
  case saved =>
    intro h0 hq hu
    refine commands_of_done rfl (suspend_done h0 hl hq) hu (fun t ht b hb => ?_)
    have h2 := suspended_saved s l b hb
    refine ⟨fun h hh => h2.1 h ?_, ?_⟩
    · rw [ht.work.2.2.1] at hh; exact hh
    · rw [← h2.2]
      exact ht.keeps (fun t => (t.block? b.inst).map (·.phase)) (fun _ _ => rfl)
  case resume =>
    intro h r s0 s1 hp hr h1 h2 h3 h4 h5 h6 h7 h8
    obtain ⟨u, hb, hu, hx, hf⟩ := resume_done hl hp hr h1 h2 h3 h4 h7 h8
    refine commands_of_done rfl hb (hu.trans h5) (fun t ht => ⟨?_, fun b hm hl hp => ?_⟩)
    · refine (ht.keeps (fun t => (t.launch? (req s 0 4)).map (fun x => (x.phase, x.rcd, x.ctx))) (fun _ _ => rfl)).trans ?_
      rw [hx, h6]
      rfl
    · rw [ht.keeps State.sched (fun _ _ => rfl)] at hm
      exact hf b hm hl hp
  case kill =>
    have hid := launch?_id hl
    have hb : kill s = (killLaunch s l, .done []) := by rw [kill, hl]
    obtain ⟨hn, hx⟩ := killLaunch_spec (s := s) hw
    refine commands_of_done rfl hb hk (fun t ht => ⟨?_, ?_⟩)
    · refine (ht.keeps (fun t => t.launch? (req s 0 4)) (fun _ _ => rfl)).trans ?_
      rw [hid] at hn
      exact hn
    · rw [ht.keeps State.sched (fun _ _ => rfl)]
      exact hx
  case freezeList => exact commands_of_done (body := fun s => (s, .done (freezeListResp s))) rfl rfl hs (fun t => ends)
  case thawNone =>
    refine commands_of_fail (body := forceThaw) rfl ?_ hs (fun t => ends)
    rw [forceThaw]
    dsimp only
    rw [if_neg (by simp [h0]), if_pos (by simp [hf])]
    rfl
  case thaw =>
    obtain ⟨net, fz, e, hz⟩ := startThaw_eq { s with arg := { s.arg with seq := 1, granule := (s.frz (req s 0 1)).gen } } (req s 0 1)
    have hb : forceThaw s = (startThaw { s with arg := { s.arg with seq := 1, granule := (s.frz (req s 0 1)).gen } } (req s 0 1), .again) := by
      rw [forceThaw]
      dsimp only
      rw [if_neg (by simp [h0]), if_neg (by simp [hf]; omega), hf]
    rw [e] at hb
    refine answers_of_again rfl hb hs ⟨?_, rfl, rfl, mem_net_post _ .forceThaw _⟩
    refine (congrArg (fun xs => (xs.getD (req s 0 1) FreezeEnt.reset).state) hz).trans ?_
    rw [getD_set_self (xs := s.freeze) _ FreezeEnt.reset (by omega)]
  case thawed =>
    refine commands_of_done (body := forceThaw) rfl ?_ hs (fun t => ends)
    rw [forceThaw]
    dsimp only
    rw [if_pos (by simp [h0]), if_pos (by simp [hf])]

end Sys2Proof.Machine
end

section
/-! PROOFS. The statement of the dispatchers: triggers, sweeps, admission, placement, aging and replay. -/

namespace Sys2Proof.Machine

theorem launch?_of_plans {s t : State} (h : t.plans = s.plans) (i : Nat) : t.launch? i = s.launch? i := by
  have hl : t.sched.launches = s.sched.launches := (congrArg Sched.launches h).trans rfl
  unfold State.launch?
  rw [hl]

theorem block?_inst {s : State} {i : Nat} {b : Block} (h : s.block? i = some b) : b.inst = i := by simpa using List.find?_some h

theorem postOnce_eq (s : State) (i : Instr) (a : Arg) : ∃ net, s.postOnce i a = { s with net := net } := by
  unfold State.postOnce
  split
  · exact ⟨s.net, rfl⟩
  · exact ⟨_, rfl⟩

/-! ### Discard (R148, R149) -/

/-- A discarded block as it waits to be placed again: with the priority that it had. -/
def Replays (b x : Block) : Prop := x.phase = .queued ∧ x.replay = true ∧ x.effPrio = b.effPrio

theorem discardBlock_sched (s : State) (b : Block) (why : Discard) : ∃ f : Block → Block,
    (∀ x, (f x).inst = x.inst ∧ Replays x (f x)) ∧ (discardBlock s b why).sched = (s.updBlock b.inst f).sched := by
  unfold discardBlock
  extract_lets hs rs s1 s2 s3 again
  have h1 : s1.sched = s.sched := foldl_field State.sched (by intro _ _; rfl) hs s
  have h3 : s3.sched = s1.sched := foldl_field State.sched (by intro _ _; rfl) b.cores s2
  obtain ⟨net, e⟩ := postOnce_eq (s3.updBlock b.inst again) .blockAdmission { die := b.die }
  refine ⟨again, fun x => ⟨rfl, rfl, rfl, rfl⟩, ?_⟩
  rw [e]
  show (s3.updBlock b.inst again).sched = _
  unfold State.updBlock
  rw [show s3.sched = s.sched from h3.trans h1]

theorem discardBlock_hatches (s : State) (b : Block) (why : Discard) : ∀ h ∈ (discardBlock s b why).hatches, h.block ≠ b.inst := by
  unfold discardBlock
  extract_lets hs rs s1 s2 s3 again
  obtain ⟨net, e⟩ := postOnce_eq (s3.updBlock b.inst again) .blockAdmission { die := b.die }
  rw [e]
  refine (sheds_freeWays s2 b).hatches.blockless (fun h hm => ?_)
  simpa using (List.mem_filter.1 hm).2

theorem discardBlock_settled {s : State} (hs : s.Settled) (b : Block) (why : Discard) : (discardBlock s b why).Settled := by
  obtain ⟨f, -, e⟩ := discardBlock_sched s b why
  show (discardBlock s b why).sched.raised = []
  rw [e]
  exact hs

/-- A discarded block has no hatch left and waits to be placed again. -/
theorem discardBlock_replays {s : State} {b : Block} (hb : s.block? b.inst = some b) (why : Discard) :
    (∀ h ∈ (discardBlock s b why).hatches, h.block ≠ b.inst) ∧
      ∃ x, (discardBlock s b why).block? b.inst = some x ∧ Replays b x := by
  obtain ⟨f, hf, e⟩ := discardBlock_sched s b why
  refine ⟨discardBlock_hatches s b why, f b, ?_, (hf b).2⟩
  have := block?_updBlock s b.inst b.inst (fun x => (hf x).1)
  rw [if_pos rfl, hb] at this
  unfold State.block?
  rw [e]
  exact this

theorem answers_of_discard {i : Instr} {s : State} {b : Block} (hs : s.Settled) (hb : s.block? b.inst = some b)
    (he : exec i s = .next (finish (discardBlock s b .clean))) : Answers i s (fun t => (∀ h ∈ t.hatches, h.block ≠ b.inst) ∧
      ∃ x, t.block? b.inst = some x ∧ Replays b x) :=
  answers_of_finish he (discardBlock_settled hs b _) (discardBlock_replays hb .clean)

/-! ### Triggers and sweeps (R136 to R138) -/

/-- What a granule's bit is read and written with leaves of the scheduler. -/
def State.queues (s : State) : List (Nat × TrigEntry) × List Block × List Launch := (s.sched.trigQ, s.sched.blocks, s.sched.launches)

theorem queues_of_plans {s t : State} (h : t.plans = s.plans) : t.queues = s.queues :=
  (congrArg (fun p : Sched => (p.trigQ, p.blocks, p.launches)) h).trans rfl

theorem queues_logError (s : State) (a b c d e f : Nat) : (logError s a b c d e f).queues = s.queues := by
  rw [(reports_logError s a b c d e f).1.eq]
  rfl

theorem queues_enterSweep (s : State) (w : Watch) (die depth : Nat) : (enterSweep s w die depth).queues = s.queues := by
  unfold enterSweep
  split
  · rfl
  · exact queues_logError _ _ _ _ _ _ _

theorem queues_bitmapReady (s : State) (w : Watch) (die pa : Nat) : (bitmapReady s w die pa).queues = s.queues := by
  have h : (coherentRead (takeLine s (lineOf pa)) pa 1).1.queues = s.queues :=
    queues_of_plans ((memKeeps_takeLine s (lineOf pa)).trans (memKeeps_coherentRead _ pa 1)).sheds.plans
  unfold bitmapReady
  dsimp only
  generalize coherentRead (takeLine s (lineOf pa)) pa 1 = r at h ⊢
  split
  · exact h
  · rw [queues_enterSweep, queues_logError, queues_of_plans (memKeeps_pokePa r.1 _ _ _).sheds.plans, h]

theorem queues_bitSwap (s : State) (w : Watch) (g : Nat) (on : Bool) : (bitSwap s w g on).2.queues = s.queues := by
  unfold bitSwap
  extract_lets pa s1 b old new
  have h : s1.queues = s.queues := queues_bitmapReady s w _ pa
  dsimp only
  split
  · exact h
  · rw [queues_of_plans (memKeeps_pokePa s1 _ _ _).sheds.plans, h]

theorem queueBlock_spec (s : State) (b : Block) : ∃ net,
    queueBlock s b = { s with sched := { s.sched with blocks := s.sched.blocks ++ [b] }, net := net } := by
  obtain ⟨n1, e1⟩ := postOnce_eq { s with sched := { s.sched with blocks := s.sched.blocks ++ [b] } } .blockAdmission { die := b.die }
  unfold queueBlock
  dsimp only
  rw [e1]
  split
  · exact ⟨n1, rfl⟩
  · exact postOnce_eq { s with sched := { s.sched with blocks := s.sched.blocks ++ [b] }, net := n1 } .blockAdmission { die := 0 }

/-- What is taken first is in the list and has the property. -/
theorem takeFirst_some {α : Type} {p : α → Bool} {xs : List α} {y : α} {r : List α} (h : takeFirst p xs = some (y, r)) : y ∈ xs ∧ p y = true := by
  induction xs generalizing y r with
  | nil => cases h
  | cons x xs ih =>
    unfold takeFirst at h
    split at h
    next hx => cases h; exact ⟨List.mem_cons_self, hx⟩
    next =>
      obtain ⟨⟨z, q⟩, hz, e⟩ := Option.map_eq_some_iff.1 h
      cases e
      exact ⟨List.mem_cons_of_mem _ (ih hz).1, (ih hz).2⟩

theorem takeQueued_any {s : State} {q : Nat} {e : TrigEntry} {rest : List (Nat × TrigEntry)} (h : takeQueued s q = some (e, rest)) :
    s.sched.trigQ.any (fun x => x.1 == q) = true := by
  obtain ⟨⟨x, r⟩, hx, -⟩ := Option.map_eq_some_iff.1 h
  obtain ⟨hm, hp⟩ := takeFirst_some hx
  rw [Bool.and_eq_true] at hp
  exact List.any_eq_true.2 ⟨x, hm, hp.1⟩

/-- The work of a launch's granule waits in its die's queue. -/
theorem startWork_queues {s : State} {w : Watch} {l : Launch} (hw : w.engine = false) (hl : s.launch? w.launch = some l) (g depth : Nat) :
    ∃ b net n, startWork s w g depth = { s with nextId := n, net := net, sched := { s.sched with blocks := s.sched.blocks ++ [b] } } ∧
      b.triggered = true ∧ b.launch = l.id ∧ b.phase = .queued ∧ b.granule = lineOf (granulePa w g) ∧ b.depth = depth ∧
      b.trigArg = wrap64 (w.argBase + g * 2 ^ w.granule) := by
  unfold startWork
  rw [if_neg (by simp [hw]), hl]
  dsimp only
  obtain ⟨net, e⟩ := queueBlock_spec s.fresh.2.fresh.2 { newBlock s.fresh.1 l.id 0 (granuleHome s.fresh.2.fresh.2 w g).1 l.rcd s.clock with
    triggered := true, granule := lineOf (granulePa w g), granuleN := (2 ^ w.granule + 127) / 128
    trigArg := wrap64 (w.argBase + g * 2 ^ w.granule), depth := depth, age := s.fresh.2.fresh.1 }
  exact ⟨_, net, _, e, rfl, rfl, rfl, rfl, rfl, rfl⟩

/-! ### Admission and placement (R128, R129, R146) -/

/-- A block whose launch is there and that finds its cores and its areas takes its place. -/
theorem tryAdmit_admits {s s1 : State} {b : Block} {l : Launch} {cs areas : List Nat} (hl : s.launch? b.launch = some l)
    (ht : b.triggered = false ∨ b.spawnArea.isSome = true ∨ residentTriggered s l.id < l.rcd.blocks)
    (hp : placeOn (roomOf s) b.die l.rcd (blockSize b l.rcd) (toStart b l.rcd) = some cs) (ha : takeAreas s b l = (s1, some areas)) :
    tryAdmit s b = (admitAt s1 b l cs areas, true) := by
  have hn : ¬(b.triggered && b.spawnArea.isNone && decide (l.rcd.blocks ≤ residentTriggered s l.id)) = true := by
    rcases ht with h | h | h
    · simp [h]
    · simp [h, ← Option.not_isSome]
    · simp [h]
  unfold tryAdmit
  rw [hl]
  dsimp only
  rw [if_neg hn, hp]
  dsimp only
  rw [ha]

theorem tryAdmit_waits {s : State} {b : Block} {l : Launch} (hl : s.launch? b.launch = some l)
    (hp : placeOn (roomOf s) b.die l.rcd (blockSize b l.rcd) (toStart b l.rcd) = none) : tryAdmit s b = (s, false) := by
  unfold tryAdmit
  rw [hl]
  dsimp only
  rw [hp]
  exact ite_self _

/-- The only block that waits is the one that its die's dispatcher tries. -/
theorem admitDie_single {s : State} {d : Nat} {b : Block} (hw : waiting s d = [b]) (hc : coopWaits s b = none) :
    admitDie s d = if (tryAdmit s b).2 then ((tryAdmit s b).1, true) else ((tryAdmit s b).1, false) := by
  unfold admitDie
  rw [hw]
  simp [blockInsert, hc, admitFirst]

theorem acceptSpawn_queues {s : State} {k : Nat} {o : Op} {b : Block} (ho : s.ops.find? (fun o => o.core == k && isSpawn o.what) = some o)
    (hv : o.vals = [b.inst]) (hb : s.block? b.inst = some b) (hq : (s.core k).spawnQ = []) :
    acceptSpawn s k = (endOp (s.updCore k (fun k => { k with spawnQ := k.spawnQ ++ [b.inst] })) o, true) := by
  unfold acceptSpawn
  rw [ho]
  dsimp only
  rw [hv, List.getD_cons_zero, hb]
  dsimp only
  rw [if_pos (by simp [hq])]

theorem refillSpawn_none {s : State} (k : Nat) (h : ∀ x ∈ s.sched.blocks, inRing s x = false) : refillSpawn s k = (s, false) := by
  have hn : s.sched.blocks.find? (inRing s) = none := List.find?_eq_none.2 (fun x hx => by simp [h x hx])
  unfold refillSpawn
  rw [hn]
  exact ite_self _

theorem placeSpawn_held {s : State} {b : Block} (k : Nat) (hb : s.block? b.inst = some b) (hm : mayPlace s b = false) :
    placeSpawn s k [b.inst] = (s, false) := by
  unfold placeSpawn
  rw [hb]
  simp [hm, placeSpawn]

theorem placeSpawn_places {s : State} {b : Block} (k : Nat) (hb : s.block? b.inst = some b) (hm : mayPlace s b = true)
    (hh : heldByCoop s b = false) (ha : (tryAdmit s b).2 = true) : placeSpawn s k [b.inst] =
      ((tryAdmit s b).1.updCore k (fun k => { k with spawnQ := k.spawnQ.filter (fun x => x != b.inst) }), true) := by
  unfold placeSpawn
  rw [hb]
  simp [hm, hh, ha]

/-- The end of an operation leaves every core as it was, but for the order of its matrix operations. -/
theorem core_endOp (s : State) (o : Op) (k : Nat) : ((endOp s o).core k).spawnQ = (s.core k).spawnQ := by
  unfold endOp
  extract_lets s1
  show (s1.core k).spawnQ = _
  unfold s1
  split
  · unfold State.updCore
    show ((s.cores.set _ _).getD k Core.reset).spawnQ = (s.cores.getD k Core.reset).spawnQ
    by_cases hk : o.core = k
    · by_cases hl : k < s.cores.length
      · rw [hk, getD_set_self _ _ hl]; rfl
      · rw [List.set_eq_of_length_le (by omega)]
    · rw [getD_set_ne _ _ (Ne.symm hk)]
  · rfl

theorem op?_endOp (s : State) (o : Op) : (endOp s o).op? o.id = none := by
  unfold endOp
  extract_lets s1
  show (s1.ops.filter (fun x => x.id != o.id)).find? _ = none
  refine List.find?_eq_none.2 (fun x hx => ?_)
  simpa using (List.mem_filter.1 hx).2

theorem endOp_sched (s : State) (o : Op) : (endOp s o).sched = s.sched ∧ (endOp s o).mem = s.mem ∧ (endOp s o).cores.length = s.cores.length := by
  unfold endOp
  extract_lets s1
  show s1.sched = _ ∧ s1.mem = _ ∧ s1.cores.length = _
  unfold s1
  split
  · exact ⟨rfl, rfl, List.length_set⟩
  · exact ⟨rfl, rfl, rfl⟩

/-- An acceptance of the only continuation of a core whose launch is suspended leaves it in the core's queue. -/
theorem spawnPlacement_accepts {s : State} {o : Op} {b : Block} {l : Launch}
    (ho : s.ops.find? (fun o => o.core == s.arg.core && isSpawn o.what) = some o) (hv : o.vals = [b.inst]) (hb : s.block? b.inst = some b)
    (hq : (s.core s.arg.core).spawnQ = []) (hk : s.arg.core < s.cores.length) (hx : ∀ x ∈ s.sched.blocks, x.inst = b.inst ∨ unplaced x = false)
    (hl : s.launch? b.launch = some l) (hp : l.phase = .suspended) : ∃ u : State,
      execSpawnPlacement s = .next (finish (u.post .spawnPlacement { core := s.arg.core })) ∧ u.sched = s.sched ∧ u.mem = s.mem ∧
      u.op? o.id = none ∧ (u.core s.arg.core).spawnQ = [b.inst] := by
  have ha := acceptSpawn_queues ho hv hb hq
  have hcore := core_endOp (s.updCore s.arg.core (fun k => { k with spawnQ := k.spawnQ ++ [b.inst] })) o s.arg.core
  have hs := endOp_sched (s.updCore s.arg.core (fun k => { k with spawnQ := k.spawnQ ++ [b.inst] })) o
  have hid := op?_endOp (s.updCore s.arg.core (fun k => { k with spawnQ := k.spawnQ ++ [b.inst] })) o
  generalize endOp (s.updCore s.arg.core (fun k => { k with spawnQ := k.spawnQ ++ [b.inst] })) o = u at ha hcore hs hid
  obtain ⟨hsched, hmem, hlen⟩ := hs
  have hsched : u.sched = s.sched := hsched
  have hu : (u.core s.arg.core).spawnQ = [b.inst] := by
    rw [hcore]
    unfold State.updCore
    show ((s.cores.set _ _).getD _ Core.reset).spawnQ = _
    rw [getD_set_self _ _ hk]
    show (s.core s.arg.core).spawnQ ++ _ = _
    rw [hq]
    rfl
  have hlen : s.arg.core < u.cores.length := by rw [hlen]; exact (List.length_set ..).symm ▸ hk
  have hr : refillSpawn u s.arg.core = (u, false) := by
    refine refillSpawn_none _ (fun x hm => ?_)
    rw [hsched] at hm
    unfold inRing
    rcases hx x hm with h | h
    · have hc : u.cores.any (fun k => k.spawnQ.contains x.inst) = true := by
        refine List.any_eq_true.2 ⟨u.core s.arg.core, ?_, by rw [hu, h]; simp⟩
        unfold State.core
        rw [List.getD_eq_getElem _ _ hlen]
        exact List.getElem_mem hlen
      rw [hc]
      simp
    · rw [h]
      rfl
  have hm : mayPlace u b = false := by
    unfold mayPlace State.launch?
    rw [hsched]
    show ((s.launch? b.launch).elim false _ && _) = false
    rw [hl]
    simp [hp]
  refine ⟨u, ?_, hsched, hmem, hid, hu⟩
  unfold execSpawnPlacement
  dsimp only
  rw [ha]
  dsimp only
  rw [hr]
  dsimp only
  rw [hu]
  rw [placeSpawn_held _ (show u.block? b.inst = some b by unfold State.block?; rw [hsched]; exact hb) hm]
  simp

theorem sweepScan_passes {s : State} {w : Watch} (hw : s.watch? s.arg.watch = some w) (hs : w.sweep = true) (hg : granulesOf w ≤ w.scanPos) :
    exec .sweepScan s = .next (finish (endPass s w)) := by
  show execSweepScan s = _
  unfold execSweepScan
  rw [hw]
  dsimp only
  rw [if_neg (by simp [hs]), scanFrom_pass hg]

/-- Settles O59: each event is followed from the queue entry or block that it takes to what it leaves. -/
theorem dispatching : Obligations.Dispatching := by
  intro s hs
  dsimp only
  refine ⟨fun die slice e rest w l s1 ht hq hw he hl hb h1 => ?_, fun w hw hsw hg => ⟨fun hc => ?_, fun hc => ?_⟩,
    fun b l cs areas s1 hw hg hc hl ht hp ha h1 => ?_, fun b l hw hg hc hl hp => ?_,
    fun o b l ho hv hb hq hk hx hl hp => ?_, fun b l cs areas s1 ho hr hq hb hl hm hh hsp hp ha h1 => ?_,
    fun b hb hp he ha => ?_, fun b hb hk => ?_, fun h b hc hh hb hk => ?_⟩
  · have hk := (queues_bitSwap { s with sched := { s.sched with trigQ := rest } } w e.granule false)
    rw [hb] at hk
    have h2 : s1.launch? w.launch = some l := by
      have : s1.sched.launches = s.sched.launches := (congrArg (fun q => q.2.2) hk).trans rfl
      unfold State.launch?
      rw [this]
      exact hl
    obtain ⟨b, net, n, e1, hb1⟩ := startWork_queues (s := s1) he h2 e.granule e.depth
    refine answers_of_finish (u := startWork s1 w e.granule e.depth) ?_ (by rw [e1]; exact h1) ?_
    · show execTriggerDispatch s = _
      unfold execTriggerDispatch
      rw [ht]
      dsimp only
      unfold dispatchQueue
      rw [if_neg (by rw [takeQueued_any hq]; simp), hq]
      dsimp only
      unfold dispatchGranule
      rw [show State.watch? { s with sched := { s.sched with trigQ := rest } } e.watch = some w from hw]
      dsimp only
      rw [hb]
      rfl
    · rw [e1]
      have : s1.sched.trigQ = rest := (congrArg (fun q => q.1) hk).trans rfl
      exact ⟨this, b, List.mem_append_right _ List.mem_cons_self, hb1⟩
  · refine answers_of_finish (u := s.updWatch w.id (fun w => { w with sweep := false, sweepDepth := 0, scanPos := 0 })) ?_ hs ⟨⟨rfl, rfl, rfl, rfl⟩, ?_⟩
    · refine (sweepScan_passes hw hsw hg).trans ?_
      unfold endPass
      rw [if_pos hc]
    · have := watch?_updWatch s w.id w.id (f := fun w => { w with sweep := false, sweepDepth := 0, scanPos := 0 }) (by intro; rfl)
      rw [if_pos rfl, watch?_id hw, hw] at this
      rw [watch?_id hw]
      exact congrArg (Option.map (·.sweep)) this
  · refine answers_of_finish (u := (s.updWatch w.id (fun w => { w with scanPos := 0, passClean := w.wr == w.rd })).post .sweepScan { watch := w.id })
      ?_ hs ⟨⟨rfl, rfl, rfl, rfl⟩, ?_, mem_net_post _ _ _⟩
    · refine (sweepScan_passes hw hsw hg).trans ?_
      unfold endPass
      rw [if_neg (by simp [hc])]
    · have := watch?_updWatch s w.id w.id (f := fun w => { w with scanPos := 0, passClean := w.wr == w.rd }) (by intro; rfl)
      rw [if_pos rfl, watch?_id hw, hw] at this
      rw [watch?_id hw]
      exact congrArg (Option.map (·.scanPos)) this
  · refine (?_ : exec .blockAdmission s = .next (finish ((admitAt s1 b l cs areas).post .blockAdmission { die := s.arg.die }))).trans
      (congrArg Host.Outcome.next (finish_settled h1))
    show execBlockAdmission s = _
    unfold execBlockAdmission
    dsimp only
    rw [if_neg (by simp [hw]), if_neg (by rw [hg]; simp), admitDie_single hw hc, tryAdmit_admits hl ht hp ha]
    rfl
  · refine ⟨s.park .blockAdmission, ?_, ⟨rfl, rfl, rfl, rfl⟩, List.mem_append_right _ List.mem_cons_self, rfl⟩
    show execBlockAdmission s = _
    unfold execBlockAdmission
    dsimp only
    rw [if_neg (by simp [hw]), if_neg (by rw [hg]; simp), admitDie_single hw hc, tryAdmit_waits hl hp]
    show Host.Outcome.next ((settle s).park .blockAdmission) = _
    rw [settle_of_settled hs]
  · obtain ⟨u, he, hsched, hmem, hid, hcore⟩ := spawnPlacement_accepts ho hv hb hq hk hx hl hp
    exact answers_of_finish he (show u.sched.raised = [] by rw [hsched]; exact hs) ⟨hid, hcore, hmem⟩
  · refine (?_ : exec .spawnPlacement s = .next (finish (((admitAt s1 b l cs areas).updCore s.arg.core
      (fun c => { c with spawnQ := c.spawnQ.filter (fun x => x != b.inst) })).post .spawnPlacement { core := s.arg.core }))).trans
      (congrArg Host.Outcome.next (finish_settled h1))
    have hn : s.ops.find? (fun o => o.core == s.arg.core && isSpawn o.what) = none := by
      refine List.find?_eq_none.2 (fun o hm => ?_)
      by_cases hc : o.core = s.arg.core
      · simp [ho o hm hc]
      · simp [hc]
    have hacc : acceptSpawn s s.arg.core = (s, false) := by
      unfold acceptSpawn
      rw [hn]
    have ht := tryAdmit_admits (areas := areas) hl (.inr (.inl hsp)) hp ha
    show execSpawnPlacement s = _
    unfold execSpawnPlacement
    dsimp only
    rw [hacc]
    dsimp only
    rw [refillSpawn_none _ hr]
    dsimp only
    rw [hq, placeSpawn_places _ hb hm hh (by rw [ht]), ht]
    rfl
  · refine answers_of_finish rfl hs ⟨⟨rfl, rfl, rfl, rfl⟩, ?_⟩
    have := block?_updBlock s s.arg.block s.arg.block (f := fun b =>
      if b.phase == .queued && decide (b.effPrio < 7) && decide (b.agedFrom + 2400000 ≤ s.clock)
      then { b with effPrio := b.effPrio + 1, agedFrom := b.agedFrom + 2400000 } else b) (by intro b; split <;> rfl)
    rw [if_pos rfl, hb, Option.map_some, if_pos (by simp [hp, he, ha])] at this
    exact this
  · refine answers_of_discard hs hk ?_
    show execPreemption s = _
    unfold execPreemption
    dsimp only
    rw [hb]
    rfl
  · refine answers_of_discard hs hk ?_
    show execRegisterBoundDiscard s = _
    unfold execRegisterBoundDiscard
    dsimp only
    rw [if_neg (by simpa using hc), hh]
    show Host.Outcome.next (finish ((s.block? h.block).elim s _)) = _
    rw [hb]
    rfl

end Sys2Proof.Machine
end

section
/-! PROOFS. What an emptied core keeps: no publication, no read and no trigger brings a line or a translation to a core. -/

namespace Sys2Proof.Machine

/-- A core holds neither a line nor a translation. -/
def Core.bare (k : Core) : Prop := k.l1 = [] ∧ k.tlb = []

/-- Between s and t no core that is bare has taken anything. -/
def Quenches (s t : State) : Prop := ∀ k, (s.core k).bare → (t.core k).bare

theorem Quenches.refl (s : State) : Quenches s s := fun _ h => h
theorem Quenches.trans {s t u : State} (h : Quenches s t) (g : Quenches t u) : Quenches s u := fun k b => g k (h k b)
theorem Quenches.after {s t u : State} (g : Quenches t u) (h : Quenches s t) : Quenches s u := h.trans g

theorem quenches_of_eq {s t : State} (h : t.cores = s.cores) : Quenches s t := by
  intro k b
  unfold State.core
  rw [h]
  exact b

theorem quenches_foldl {α : Type} (f : State → α → State) (hf : ∀ s a, Quenches s (f s a)) (xs : List α) (s : State) :
    Quenches s (xs.foldl f s) := by
  induction xs generalizing s with
  | nil => exact .refl s
  | cons x xs ih => exact (hf s x).trans (ih _)

theorem quenches_ite {p : Prop} [Decidable p] {s t u : State} (ht : Quenches s t) (hu : Quenches s u) : Quenches s (if p then t else u) := by
  split <;> assumption

/-- The cores after a change to one of them. -/
theorem core_updCore (s : State) (c k : Nat) (f : Core → Core) :
    (s.updCore c f).core k = if k = c ∧ c < s.cores.length then f (s.core c) else s.core k := by
  unfold State.updCore
  show (s.cores.set c _).getD k Core.reset = _
  split
  next h => rw [h.1, getD_set_self _ _ h.2]
  next h =>
    by_cases hk : k = c
    · rw [List.set_eq_of_length_le (by omega)]; rfl
    · rw [getD_set_ne _ _ hk]; rfl

theorem quenches_updCore {f : Core → Core} (hf : ∀ k, k.bare → (f k).bare) (s : State) (c : Nat) : Quenches s (s.updCore c f) := by
  intro k b
  rw [core_updCore]
  split
  next h => rw [h.1] at b; exact hf _ b
  next => exact b

theorem quenches_updCoh (s : State) (f : Coh → Coh) : Quenches s (updCoh s f) := quenches_of_eq rfl
theorem quenches_setDir (s : State) (e : DirEntry) : Quenches s (setDir s e) := quenches_of_eq rfl
theorem quenches_post (s : State) (i : Instr) (a : Arg) : Quenches s (s.post i a) := quenches_of_eq rfl

/-! ### Writes and publications -/

theorem quenches_homeSetPoison (s : State) (line : Nat) (p : BitVec 4) : Quenches s (homeSetPoison s line p) := by
  unfold homeSetPoison
  split
  · exact .refl s
  · split <;> exact quenches_of_eq rfl

theorem quenches_cleanSectors (s : State) (line k : Nat) (qs : List Nat) : Quenches s (cleanSectors s line k qs) := by
  unfold cleanSectors
  split <;> exact quenches_of_eq rfl

theorem quenches_homeWriteMask (s : State) (line : Nat) (bs : List Byte) (m : BitVec 128) : Quenches s (homeWriteMask s line bs m) := by
  unfold homeWriteMask
  split
  · exact .refl s
  next k _ =>
    have h := quenches_cleanSectors s line k ((List.range 4).filter (fun q => (List.range 32).all (fun i => m.getLsbD (32 * q + i))))
    exact quenches_ite (h.trans (quenches_of_eq rfl)) (h.trans (quenches_of_eq rfl))

theorem quenches_homeCommit (s : State) (line : Nat) (bs : List Byte) (m : BitVec 128) (trig : Option (Nat × Option Raiser))
    (quiet : BitVec 128) : Quenches s (homeCommit s line bs m trig quiet) := by
  have h := quenches_homeWriteMask s line bs m
  unfold homeCommit
  cases trig with
  | none => exact h
  | some x => exact h.trans (quenches_of_eq rfl)

theorem quenches_pointWrite (s : State) (d line : Nat) (bs : List Byte) (m : BitVec 128) (depth : Nat) (src : Option Raiser)
    (quiet : BitVec 128) : Quenches s (pointWrite s d line bs m depth src quiet) := by
  unfold pointWrite
  split
  · exact quenches_homeCommit _ _ _ _ _ _
  · split
    · exact quenches_homeCommit _ _ _ _ _ _
    · exact .after (quenches_of_eq rfl) (quenches_ite (t := raiseTriggers _ _ _ _ _ _ _) (quenches_of_eq rfl) (.refl s))

theorem quenches_quitList (s : State) (c line : Nat) : Quenches s (quitList s c line) :=
  quenches_ite (quenches_of_eq rfl) (.refl s)

theorem quenches_leaveReleases (s : State) (c line : Nat) : Quenches s (leaveReleases s c line) := by
  unfold leaveReleases
  exact quenches_ite (.refl s) (.after (quenches_foldl _ (fun s (r : Release) => quenches_quitList s c r.line) _ _)
    (quenches_updCore (by intro _ h; exact h) s c))

/-- A core that loses a line, or whose lines change one by one, stays bare. -/
theorem quenches_dropLine (s : State) (c line : Nat) : Quenches s (s.updCore c (fun k => k.dropLine line)) :=
  quenches_updCore (by intro k h; exact ⟨by show k.l1.filter _ = []; rw [h.1]; rfl, h.2⟩) s c

theorem quenches_publishBytes (s : State) (c line : Nat) : Quenches s (publishBytes s c line) := by
  unfold publishBytes
  split
  · exact .refl s
  · refine quenches_ite (.refl s) ?_
    exact .after (quenches_foldl _ (fun s o => quenches_ite (quenches_dropLine s o line) (.refl s)) _ _)
      (.after (quenches_leaveReleases _ c line) (.after (quenches_updCore (by
        intro k h
        refine ⟨?_, h.2⟩
        show k.l1.map _ = []
        rw [h.1]
        rfl) _ c)
        (quenches_pointWrite _ _ _ _ _ _ _ _)))

theorem quenches_drainFor (s : State) (c line : Nat) : Quenches s (drainFor s c line) := by
  unfold drainFor
  exact .after (quenches_updCore (by intro _ h; exact h) _ c) (quenches_foldl _ (fun s x => quenches_publishBytes s c x) _ s)

theorem quenches_publishRaw (s : State) (c line : Nat) : Quenches s (publishRaw s c line) :=
  .after (quenches_publishBytes _ c line) (quenches_ite (quenches_drainFor s c line) (.refl s))

theorem quenches_drainCore (s : State) (c : Nat) : Quenches s (drainCore s c) := by
  have h := quenches_foldl (fun s x => publishBytes s c x) (fun s x => quenches_publishBytes s c x) (dirtyLines s c) s
  exact .after (quenches_foldl _ (fun s (r : Release) => quenches_quitList s c r.line) _ _)
    (quenches_ite h (.after (quenches_updCore (by intro _ h; exact h) _ c) h))

theorem quenches_dropCopies (s : State) (ds : List Nat) (line : Nat) : Quenches s (dropCopies s ds line) :=
  quenches_foldl _ (fun s c => quenches_ite (quenches_dropLine s c line) (.refl s)) _ s

theorem quenches_publishDie (s : State) (ds : List Nat) (line : Nat) : Quenches s (publishDie s ds line) :=
  quenches_foldl _ (fun s c => quenches_publishRaw s c line) _ s

theorem quenches_mergeDie (s : State) (ds : List Nat) (line : Nat) : Quenches s (mergeDie s ds line) :=
  .after (quenches_foldl _ (fun s c => quenches_dropLine s c line) _ _) (.after (quenches_publishDie _ ds line)
    (quenches_ite (.refl s) (quenches_of_eq rfl)))

theorem quenches_settleDie (s : State) (ds : List Nat) (line : Nat) : Quenches s (settleDie s ds line) :=
  quenches_ite (quenches_mergeDie s ds line) (quenches_publishDie s ds line)

theorem quenches_want (s : State) (w : Want) : Quenches s (s.want w) := quenches_ite (.refl s) (quenches_of_eq rfl)

theorem quenches_overtake (s : State) (line : Nat) : Quenches s (overtake s line) :=
  .after (quenches_foldl _ (fun s (_ : Who × CohReq) => quenches_post s _ _) _ _) (quenches_of_eq rfl)

theorem quenches_mergeHolders (s : State) (line : Nat) : Quenches s (mergeHolders s line) :=
  quenches_foldl _ (fun s ds => (quenches_settleDie s ds line).trans (quenches_dropCopies _ ds line)) _ s

theorem quenches_acceptData (s : State) (line : Nat) (d : LineData) : Quenches s (acceptData s line d) :=
  (quenches_homeCommit s line d.bytes _ _ d.quiet).trans (quenches_homeSetPoison _ line d.poison)

theorem quenches_collectLine (s : State) (line : Nat) : Quenches s (collectLine s line) := by
  have h : Quenches (overtake s line) (match dirtyAgent (overtake s line) line with
      | none => overtake s line
      | some a => acceptData (overtake s line) line a.data) := by
    split
    · exact .refl _
    · exact quenches_acceptData _ line _
  exact .after (quenches_setDir _ _) (.after (quenches_updCoh _ _) (h.after (quenches_overtake s line)))

theorem quenches_takeLine (s : State) (line : Nat) : Quenches s (takeLine s line) :=
  .after (quenches_ite (.refl _) (quenches_ite (quenches_ite (.refl _) (quenches_want _ _))
    (quenches_ite (quenches_want _ _) (quenches_collectLine _ line)))) (quenches_mergeHolders s line)

theorem quenches_pokePa (s : State) (pa : Nat) (bs : List Byte) (trig : Option (Nat × Option Raiser)) :
    Quenches s (pokePa s pa bs trig) := by
  refine .after (t := takeLine s (lineOf pa)) (quenches_ite (quenches_of_eq rfl) (quenches_ite (quenches_homeCommit _ _ _ _ _ _) ?_))
    (quenches_takeLine s _)
  split
  · unfold agentWrite
    refine .after (quenches_of_eq rfl) ?_
    cases trig with
    | none => exact .refl _
    | some x => exact quenches_ite (t := raiseTriggers _ _ _ _ _ _ _) (quenches_of_eq rfl) (.refl _)
  · exact .after (quenches_homeCommit _ _ _ _ _ _) (quenches_want _ _)

/-! ### Reads -/

theorem quenches_chanFill (s : State) (line : Nat) (sectors : BitVec 4) : Quenches s (chanFill s line sectors) := by
  unfold chanFill
  split
  · exact .refl s
  · dsimp only
    split
    · exact quenches_of_eq rfl
    · exact .after (quenches_of_eq rfl) (quenches_ite (quenches_of_eq rfl) (.refl s))

theorem quenches_windowHit (s : State) (off : Nat) : Quenches s (windowHit s off) := by
  unfold windowHit
  split
  · exact .refl s
  · split
    · exact .refl s
    · exact quenches_of_eq rfl

theorem quenches_chanRead (s : State) (line : Nat) (sectors : BitVec 4) : Quenches s (chanRead s line sectors) := by
  refine quenches_ite (.refl s) (quenches_ite ?_ (quenches_want s _))
  unfold chanHit
  split
  · exact .refl s
  · exact quenches_ite (quenches_of_eq rfl) (quenches_ite (.refl s) (.after (quenches_windowHit _ _) (quenches_chanFill s line sectors)))

theorem quenches_coherentRead (s : State) (pa n : Nat) : Quenches s (coherentRead s pa n).1 :=
  .after (quenches_ite (.refl _) (quenches_chanRead _ _ _)) (quenches_ite (.refl s) (quenches_want s _))

end Sys2Proof.Machine
end

section
/-! PROOFS. What moving packets changes: packets, links and routers, the messages handed over and those that leave. -/

namespace Sys2Proof.Machine

/-- A fabric without what its packets and links are doing. -/
def Fabric.still (f : Fabric) : Fabric := { f with links := [], routers := [], packets := [], lost := [], nextPacket := 0 }

/-- What moving packets keeps of a link end: whether it is in service and how wide it is, and, out of service, the flits that it
holds. -/
structure Link.Carries (l m : Link) : Prop where
  state : m.state = l.state
  half : m.half = l.half
  held : l.state ≠ .up → m.held = l.held

theorem Link.Carries.refl (l : Link) : l.Carries l := ⟨rfl, rfl, fun _ => rfl⟩

theorem Link.Carries.trans {l m n : Link} (h : l.Carries m) (g : m.Carries n) : l.Carries n :=
  ⟨g.state.trans h.state, g.half.trans h.half, fun hl => (g.held (h.state ▸ hl)).trans (h.held hl)⟩

/-- Between s and t packets may have been sent and moved, and nothing else has happened. -/
structure Conveys (s t : State) : Prop where
  eq : t = { s with fab := t.fab, net := t.net, out := t.out }
  still : t.fab.still = s.fab.still
  links : ∀ j, (s.link j).Carries (t.link j)

theorem Conveys.refl (s : State) : Conveys s s := ⟨rfl, rfl, fun _ => .refl _⟩

theorem Conveys.trans {s t u : State} (h : Conveys s t) (g : Conveys t u) : Conveys s u := by
  refine ⟨?_, g.still.trans h.still, fun j => (h.links j).trans (g.links j)⟩
  have e := g.eq
  rw [h.eq] at e
  exact e

/-- What a change outside the fabric, the messages and the output kept, moving packets keeps. -/
theorem Conveys.keeps {s t : State} (h : Conveys s t) {α : Type} (F : State → α)
    (hF : ∀ (u : State) f n o, F { u with fab := f, net := n, out := o } = F u) : F t = F s := by
  rw [h.eq]
  exact hF _ _ _ _

theorem conveys_foldl {α : Type} (f : State → α → State) (hf : ∀ s a, Conveys s (f s a)) (xs : List α) (s : State) :
    Conveys s (xs.foldl f s) := by
  induction xs generalizing s with
  | nil => exact .refl s
  | cons x xs ih => exact (hf s x).trans (ih _)

theorem conveys_ite {p : Prop} [Decidable p] {s t u : State} (ht : Conveys s t) (hu : Conveys s u) : Conveys s (if p then t else u) := by
  split <;> assumption

/-- A change to routers and packets alone. -/
theorem conveys_of_links {s : State} {f : Fabric} (hs : f.still = s.fab.still) (hl : f.links = s.fab.links) :
    Conveys s { s with fab := f } := by
  refine ⟨rfl, hs, fun j => ?_⟩
  have : State.link { s with fab := f } j = s.link j := congrArg (fun ls => (ls.find? (fun l : Link => l.id == j)).getD (Link.reset j .up)) hl
  rw [this]
  exact .refl _

theorem conveys_updLink {s : State} {i : LinkId} {f : Link → Link} (hi : ∀ l, (f l).id = l.id) (hf : (s.link i).Carries (f (s.link i))) :
    Conveys s (s.updLink i f) := by
  refine ⟨rfl, rfl, fun j => ?_⟩
  rw [link_updLink s i j hi]
  split
  next h => rw [h]; exact hf
  · exact .refl _

theorem conveys_setRouter (s : State) (r : RouterId) (st : RouterState) : Conveys s (setRouter s r st) := conveys_of_links rfl rfl
theorem conveys_updPacket (s : State) (i : Nat) (f : Packet → Packet) : Conveys s (updPacket s i f) := conveys_of_links rfl rfl
theorem conveys_dropPacket (s : State) (i : Nat) : Conveys s (dropPacket s i) := conveys_of_links rfl rfl
theorem conveys_emit (s : State) (m : OutMsg) : Conveys s (s.emit m) := ⟨rfl, rfl, fun _ => .refl _⟩

theorem conveys_wakeRouter (s : State) (r : RouterId) : Conveys s (wakeRouter s r) := by
  unfold wakeRouter
  split
  · exact conveys_setRouter s r _
  · exact conveys_setRouter s r _
  · exact conveys_ite (conveys_setRouter s r _) (conveys_setRouter s r _)
  · exact .refl s

theorem conveys_wakeHeld (s : State) : Conveys s (wakeHeld s) :=
  conveys_foldl _ (fun s id => conveys_ite (.refl s) (conveys_foldl _ conveys_wakeRouter (routersOf id) s)) _ s

theorem conveys_freeBuffer (s : State) (p : Packet) (n : Nat) : Conveys s (freeBuffer s p n) := by
  unfold freeBuffer
  split
  · exact .refl s
  · exact conveys_updLink (fun _ => rfl) ⟨rfl, rfl, fun _ => rfl⟩

theorem conveys_payCredits (s : State) (id : LinkId) : Conveys s (s.updLink id payCredits) :=
  conveys_updLink (fun _ => rfl) ⟨rfl, rfl, fun _ => rfl⟩

/-! ### Flits -/

theorem conveys_handOver (s : State) (p : Packet) : Conveys s (handOver s p) := by
  unfold handOver
  split
  · exact ⟨rfl, rfl, fun _ => .refl _⟩
  · exact .refl s
  · exact .refl s

theorem conveys_handOut (s : State) (port : Nat) (p : Packet) : Conveys s (handOut s port p) := by
  unfold handOut
  split
  · exact .refl s
  · exact conveys_emit s _
  · exact conveys_emit s _

theorem conveys_crossed (s : State) (p : Packet) (id : LinkId) : Conveys s (crossed s p id) :=
  conveys_ite ((conveys_dropPacket s p.id).trans ((conveys_freeBuffer _ _ _).trans (conveys_handOver _ _))) (conveys_updPacket s p.id _)

theorem conveys_acceptFlit {s : State} {id : LinkId} (hu : (s.link id).state = .up) (peer : LinkId) (f : HeldFlit) :
    Conveys s (acceptFlit s id peer f) := by
  unfold acceptFlit
  extract_lets s1 s2
  have h1 : Conveys s s1 := conveys_updLink (fun _ => rfl) ⟨rfl, rfl, fun _ => rfl⟩
  have h2 : Conveys s1 s2 := conveys_updLink (fun _ => rfl) ⟨rfl, rfl, fun h => absurd ((h1.links id).state.trans hu) h⟩
  refine (h1.trans h2).trans ?_
  split
  · exact .refl s2
  · exact conveys_ite (conveys_crossed s2 _ id) (conveys_updPacket s2 _ _)

theorem conveys_sendFlit {s : State} {id : LinkId} (hu : (s.link id).state = .up) (p : Packet) : Conveys s (sendFlit s id p) := by
  unfold sendFlit
  extract_lets l f s1 s2 s3 s4 s5
  have h1 : Conveys s s1 := conveys_foldl _ (fun s r => conveys_setRouter s r _) _ _
  have h2 : Conveys s1 s2 := conveys_updLink (fun _ => rfl) ⟨rfl, rfl, fun h => absurd ((h1.links id).state.trans hu) h⟩
  have h4 : Conveys s s4 := (h1.trans h2).trans ((conveys_freeBuffer s2 p 1).trans (conveys_updPacket _ _ _))
  split
  · exact h4.trans (conveys_acceptFlit ((h4.links _).state.trans hu) _ f)
  next port _ =>
    have h5 : Conveys s s5 := h4.trans ((conveys_payCredits _ _).trans (conveys_emit _ _))
    exact h5.trans (conveys_ite ((conveys_updPacket _ _ _).trans (conveys_handOut _ port p)) (.refl _))
  · exact h4

/-! ### Sending -/

theorem conveys_pumpOnce {s t : State} (h : pumpOnce s = some t) : Conveys s t := by
  unfold pumpOnce at h
  obtain ⟨id, -, hid⟩ := List.exists_of_findSome?_eq_some h
  split at hid
  next hr =>
    obtain ⟨p, -, rfl⟩ := Option.map_eq_some_iff.1 hid
    have hu : (s.link id).state = .up := by
      simp only [linkReady, linkUp, Bool.and_eq_true, beq_iff_eq] at hr
      exact hr.1.1.1
    exact conveys_sendFlit hu p
  · cases hid

theorem conveys_pumpN (n : Nat) (s : State) : Conveys s (pumpN n s) := by
  induction n generalizing s with
  | zero => exact conveys_wakeHeld s
  | succ n ih =>
    unfold pumpN
    dsimp only
    split
    · exact conveys_wakeHeld s
    next t ht => exact ((conveys_wakeHeld s).trans (conveys_pumpOnce ht)).trans (ih t)

theorem conveys_pump (s : State) : Conveys s (pump s) := conveys_ite (.refl s) (conveys_pumpN _ s)

/-- With no packet under way, nothing moves. -/
theorem pump_of_empty {s : State} (h : s.fab.packets = []) : pump s = s := by
  unfold pump
  rw [h]
  rfl

theorem conveys_inject (s : State) (cls : TrafficClass) (src dst : Station) (pa : Option Nat) (n : Nat) (c : Cargo) :
    Conveys s (inject s cls src dst pa n c) := by
  unfold inject
  extract_lets p _ s1
  have h1 : Conveys s s1 := conveys_of_links rfl rfl
  split
  · exact h1.trans (conveys_of_links rfl rfl)
  · exact h1.trans (conveys_handOver s1 p)
  · refine h1.trans (.trans ?_ (conveys_pump _))
    exact conveys_of_links rfl rfl

theorem conveys_send (s : State) (cls : TrafficClass) (src dst : Station) (line : Option Nat) (what : Instr) (a : Arg) :
    Conveys s (s.send cls src dst line what a) := conveys_inject s _ _ _ _ _ _

theorem conveys_reroute (s : State) : Conveys s (reroute s) := by
  refine .trans ?_ (conveys_pump _)
  exact conveys_of_links rfl rfl

end Sys2Proof.Machine
end

section
/-! PROOFS. The statement of resets, port loss, thermal and power-cap events and gating. -/

namespace Sys2Proof.Machine

/-! ### Emptying a die's cores (R20) -/

/-- No die has changed, and no bare core has taken anything. -/
structure Rests (s t : State) : Prop where
  dies : t.dies = s.dies
  bare : Quenches s t

theorem Rests.refl (s : State) : Rests s s := ⟨rfl, .refl s⟩
theorem Rests.trans {s t u : State} (h : Rests s t) (g : Rests t u) : Rests s u := ⟨g.dies.trans h.dies, h.bare.trans g.bare⟩

theorem rests_of_eq {s t : State} (h : t.dies = s.dies) (g : t.cores = s.cores) : Rests s t := ⟨h, quenches_of_eq g⟩

theorem rests_ite {p : Prop} [Decidable p] {s t u : State} (ht : Rests s t) (hu : Rests s u) : Rests s (if p then t else u) := by
  split <;> assumption

theorem MemKeeps.rests {s t : State} (h : MemKeeps s t) (q : Quenches s t) : Rests s t := ⟨h.keeps State.dies (fun _ => rfl), q⟩

theorem rests_logError (s : State) (a b c d e f : Nat) : Rests s (logError s a b c d e f) :=
  have h := (reports_logError s a b c d e f).1
  rests_of_eq (h.keeps State.dies (fun _ _ => rfl)) (h.keeps State.cores (fun _ _ => rfl))

theorem rests_send (s : State) (cls : TrafficClass) (src dst : Station) (line : Option Nat) (what : Instr) (a : Arg) :
    Rests s (s.send cls src dst line what a) :=
  have h := conveys_send s cls src dst line what a
  rests_of_eq (h.keeps State.dies (fun _ _ _ _ => rfl)) (h.keeps State.cores (fun _ _ _ _ => rfl))

/-- A dispatcher is told, after a change to neither dies nor cores. -/
theorem Rests.tell {s u v : State} (h : Rests s u) (hd : v.dies = u.dies) (hc : v.cores = u.cores) (die slice : Nat) (t : TriggerSource) :
    Rests s (tellDispatcher v die slice t) := h.trans (.trans (t := v) (rests_of_eq hd hc) (rests_send _ _ _ _ _ _ _))

theorem rests_pokePa (s : State) (pa : Nat) (bs : List Byte) (trig : Option (Nat × Option Raiser)) : Rests s (pokePa s pa bs trig) :=
  (memKeeps_pokePa s pa bs trig).rests (quenches_pokePa s pa bs trig)

theorem rests_read (s : State) (pa n : Nat) : Rests s (coherentRead (takeLine s (lineOf pa)) pa n).1 :=
  ((memKeeps_takeLine s _).trans (memKeeps_coherentRead _ pa n)).rests ((quenches_takeLine s _).trans (quenches_coherentRead _ pa n))

theorem rests_enterSweep (s : State) (w : Watch) (die depth : Nat) : Rests s (enterSweep s w die depth) := by
  unfold enterSweep
  exact rests_ite (rests_of_eq rfl rfl) ((rests_logError _ _ _ _ _ _ _).trans (rests_of_eq rfl rfl))

theorem rests_bitmapReady (s : State) (w : Watch) (die pa : Nat) : Rests s (bitmapReady s w die pa) := by
  have h := rests_read s pa 1
  unfold bitmapReady
  dsimp only
  generalize coherentRead (takeLine s (lineOf pa)) pa 1 = r at h ⊢
  exact rests_ite h (h.trans ((rests_pokePa r.1 _ _ _).trans ((rests_logError _ _ _ _ _ _ _).trans (rests_enterSweep _ _ _ _))))

theorem rests_bitSwap (s : State) (w : Watch) (g : Nat) (on : Bool) : Rests s (bitSwap s w g on).2 := by
  unfold bitSwap
  extract_lets pa s1 b old new
  have h : Rests s s1 := rests_bitmapReady s w _ pa
  exact rests_ite h (h.trans (rests_pokePa s1 _ _ _))

theorem rests_ringPush (s : State) (w : Watch) (die : Nat) (e : TrigEntry) : Rests s (ringPush s w die e).2 := by
  unfold ringPush
  split
  · exact .refl s
  · have h := rests_read s (w.ring + 8 * (w.wr % w.ringN)) 8
    dsimp only
    generalize coherentRead (takeLine s (lineOf (w.ring + 8 * (w.wr % w.ringN)))) (w.ring + 8 * (w.wr % w.ringN)) 8 = r at h ⊢
    split
    · exact h.trans (rests_logError _ _ _ _ _ _ _)
    · exact (h.trans (rests_pokePa r.1 _ _ _)).tell (by rfl) (by rfl) _ _ _

theorem rests_pushSfr (s : State) (c : Nat) (r : SfrRec) : Rests s (pushSfr s c r) := by
  unfold pushSfr
  refine rests_ite (.refl s) ⟨rfl, quenches_updCore (by intro k h; split <;> exact h) s c⟩

theorem rests_settleOne (s : State) (r : Raise) : Rests s (settleOne s r) := by
  unfold settleOne
  split
  · exact .refl s
  next w hw =>
    dsimp only
    split
    · have h := rests_logError s 1 2 0x0104 (granuleHome s w r.granule).1 w.id r.pa
      split
      · exact h
      · exact h.trans (rests_pushSfr _ _ _)
    · have h := rests_bitSwap s w r.granule true
      generalize bitSwap s w r.granule true = b at h ⊢
      refine rests_ite h ?_
      split
      · exact h
      next w2 _ =>
        refine rests_ite (h.trans (rests_enterSweep _ _ _ _)) (rests_ite (h.tell (by rfl) (by rfl) _ _ _) ?_)
        have g := rests_ringPush b.2 w2 (granuleHome s w r.granule).1 ⟨w2.id, r.depth, r.granule⟩
        exact rests_ite (h.trans g) (h.trans (g.trans (rests_enterSweep _ _ _ _)))

theorem rests_settle (s : State) : Rests s (settle s) := by
  unfold settle
  split
  · exact .refl s
  next rs _ =>
    extract_lets t _
    have : ∀ (rs : List Raise) (u : State), Rests u (rs.foldl settleOne u) := by
      intro rs
      induction rs with
      | nil => exact fun u => .refl u
      | cons r rs ih => exact fun u => (rests_settleOne u r).trans (ih _)
    exact (this _ s).trans (u := { t with sched := { t.sched with raised := [] } }) (rests_of_eq (by rfl) (by rfl))

theorem rests_finish (s : State) : Rests s (finish s) := (rests_settle s).trans (rests_of_eq rfl rfl)

theorem bare_emptied {k : Core} : Core.bare { k with l1 := [], tlb := [] } := ⟨rfl, rfl⟩

/-- A core that has been emptied holds nothing, whatever it held. -/
theorem core_emptied (s : State) (c : Nat) (h : Core.reset.bare) : ((s.updCore c (fun k => { k with l1 := [], tlb := [] })).core c).bare := by
  rw [core_updCore]
  split
  · exact bare_emptied
  next hc =>
    unfold State.core
    rw [List.getD_eq_default _ _ (by simpa using hc)]
    exact h

/-- What emptying a die does to one of its cores. -/
def State.emptyCore (s : State) (c : Nat) : State :=
  if (s.core c).l1.isEmpty && (s.core c).tlb.isEmpty then s
  else (drainCore s c).updCore c (fun k => { k with l1 := [], tlb := [] })

theorem emptyCore_rests (s : State) (c : Nat) : Rests s (s.emptyCore c) ∧ ((s.emptyCore c).core c).bare := by
  unfold State.emptyCore
  split
  next h =>
    rw [Bool.and_eq_true, List.isEmpty_iff, List.isEmpty_iff] at h
    exact ⟨.refl s, h⟩
  next =>
    exact ⟨((memKeeps_drainCore s c).rests (quenches_drainCore s c)).trans ⟨rfl, quenches_updCore (fun _ _ => bare_emptied) _ c⟩,
      core_emptied _ c ⟨rfl, rfl⟩⟩

theorem foldl_emptyCore (cs : List Nat) (s : State) : Rests s (cs.foldl State.emptyCore s) ∧
    ∀ c, (c ∈ cs ∨ (s.core c).bare) → ((cs.foldl State.emptyCore s).core c).bare := by
  induction cs generalizing s with
  | nil => exact ⟨.refl s, fun c h => h.resolve_left (by simp)⟩
  | cons x cs ih =>
    obtain ⟨h1, h2⟩ := ih (s.emptyCore x)
    refine ⟨(emptyCore_rests s x).1.trans h1, fun c hc => h2 c ?_⟩
    rcases hc with hc | hc
    · rcases List.mem_cons.1 hc with hc | hc
      · rw [hc]; exact .inr (emptyCore_rests s x).2
      · exact .inl hc
    · exact .inr ((emptyCore_rests s x).1.bare c hc)

/-- One core after the other is emptied, and stays so. -/
theorem emptyCores_rests (s : State) (d : Nat) : Rests s (emptyCores s d) ∧ ∀ c, c / 64 = d → ((emptyCores s d).core c).bare := by
  obtain ⟨h1, h2⟩ := foldl_emptyCore (dieCores d) s
  refine ⟨h1, fun c hc => h2 c (.inl (List.mem_map.2 ⟨c % 64, List.mem_range.2 (Nat.mod_lt _ (by omega)), ?_⟩))⟩
  omega

theorem quenches_setGate (s : State) (d : Nat) (g : GateState) : Quenches s (setGate s d g) := quenches_of_eq rfl

theorem gate_setGate {s : State} {d : Nat} (hd : d < s.dies.length) (g : GateState) : ((setGate s d g).dies.getD d Die.reset).gate = g := by
  unfold setGate State.updDie
  show ((s.dies.modify d _).getD d Die.reset).gate = g
  rw [List.getD_eq_getElem _ _ (by rw [List.length_modify]; exact hd), List.getElem_modify]
  simp

/-! ### The semaphore after the loss of a port (R97, R102) -/

/-- A port that is lost no longer holds the semaphore; the ports change in nothing but the vectors they are owed. -/
theorem dropSem_eq (s : State) (p : Port) : ∃ a b h r q o, dropSem s p =
    { s with
      host := { s.host with
        portA := { s.host.portA with pba := a }, portB := { s.host.portB with pba := b }
        semHolder := h, semReleasePending := r, semRefused := q }
      out := s.out ++ o } ∧ h ≠ some (portRequester p) := by
  unfold dropSem
  split
  next =>
    obtain ⟨a, b, o, e⟩ := freeSem_eq s
    exact ⟨a, b, _, _, _, o, e, by simp⟩
  next h => exact ⟨s.host.portA.pba, s.host.portB.pba, _, _, _, [], by rw [List.append_nil], by simpa using h⟩

/-- The loss of a port, where f is what it leaves of the port. -/
theorem answers_of_loss {i : Instr} {s u : State} {f : PortState → PortState} {p : Port} (hs : s.Settled)
    (he : exec i s = .next (finish (dropSem (u.updPort p f) p))) (hu : ∃ pk, u = { s with pkg := pk }) :
    Answers i s (fun t => SameWork s t ∧ t.host.semHolder ≠ some (portRequester p) ∧ (t.port p).link = (f (s.port p)).link ∧
      (t.port p).maskCorr = (f (s.port p)).maskCorr ∧ (t.port p).maskUncorr = (f (s.port p)).maskUncorr ∧
      ∀ q, q ≠ p → t.port q = { s.port q with pba := (t.port q).pba }) := by
  obtain ⟨pk, rfl⟩ := hu
  obtain ⟨a, b, h, r, q, o, e, hh⟩ := dropSem_eq (State.updPort { s with pkg := pk } p f) p
  refine answers_of_finish he (by rw [e]; cases p <;> exact hs) ?_
  rw [e]
  cases p
  · refine ⟨⟨rfl, rfl, rfl, rfl⟩, hh, rfl, rfl, rfl, fun q hq => ?_⟩
    cases q
    · exact absurd rfl hq
    · rfl
  · refine ⟨⟨rfl, rfl, rfl, rfl⟩, hh, rfl, rfl, rfl, fun q hq => ?_⟩
    cases q
    · rfl
    · exact absurd rfl hq

/-! ### Resets (R21 to R25) -/

theorem resetPorts_eq (s t : State) (warm cmd : Bool) : ∃ pk h o, resetPorts s t warm cmd = { t with pkg := pk, host := h, out := o } ∧
    pk.devState = t.pkg.devState ∧ pk.warm = t.pkg.warm ∧ h.errLog = t.host.errLog := by
  unfold resetPorts
  extract_lets keep t1 t2
  have h2 : ∃ pk h, t2 = { t with pkg := pk, host := h } ∧ pk.devState = t.pkg.devState ∧ pk.warm = t.pkg.warm ∧ h.errLog = t.host.errLog := by
    unfold t2
    split
    · exact ⟨_, _, rfl, rfl, rfl, rfl⟩
    · exact ⟨_, _, rfl, rfl, rfl, rfl⟩
  obtain ⟨pk, h, e, h1, h2, h3⟩ := h2
  obtain ⟨a, b, o, e2⟩ := freeSem_eq { t2 with host := { t2.host with semRefused := s.host.semRefused } }
  rw [e2, e]
  exact ⟨_, _, _, rfl, h1, h2, h3⟩

/-- A reset begins: the state is the reset state, and with a warm reset what memory held and the log are there. -/
theorem beginReset_spec (s : State) (warm cmd : Bool) : let t := beginReset s warm cmd
    t.slices = [] ∧ t.hatches = [] ∧ t.ops = [] ∧ t.sched = Sched.reset ∧ t.pkg.warm = warm ∧
      t.mem = (if warm then s.mem else []) ∧ t.poison = (if warm then s.poison else []) ∧ t.host.errLog = (if warm then s.host.errLog else []) := by
  have from_ : ∀ t1 : State, beginReset s warm cmd = resetPorts s { t1 with pkg := { t1.pkg with devState := .reset, warm := warm } } warm cmd →
      t1.slices = [] → t1.hatches = [] → t1.ops = [] → t1.sched = Sched.reset → (beginReset s warm cmd).slices = [] ∧
        (beginReset s warm cmd).hatches = [] ∧ (beginReset s warm cmd).ops = [] ∧ (beginReset s warm cmd).sched = Sched.reset ∧
        (beginReset s warm cmd).pkg.warm = warm ∧ (beginReset s warm cmd).mem = t1.mem ∧ (beginReset s warm cmd).poison = t1.poison ∧
        (beginReset s warm cmd).host.errLog = t1.host.errLog := by
    intro t1 e1 hsl hh ho hsc
    obtain ⟨pk, h, o, e, -, hw, hl⟩ := resetPorts_eq s { t1 with pkg := { t1.pkg with devState := .reset, warm := warm } } warm cmd
    rw [e1, e]
    exact ⟨hsl, hh, ho, hsc, hw, rfl, rfl, hl⟩
  cases warm
  · exact from_ (keepOutside s State.reset) rfl rfl rfl rfl rfl
  · exact from_ { keepErrors s (keepMemory s (keepOutside s State.reset)) with clock := s.clock } rfl rfl rfl rfl rfl

theorem runHeld_none {s : State} (h : s.host.cmdHeld = false) : runHeld s = s := by
  unfold runHeld
  rw [if_neg (by simp [h])]

/-- The first step of a reset that does not fail in it. -/
theorem resetStep_begins {s : State} {what : Instr} {warm : Bool} (h0 : s.arg.seq = 0) (hf : s.arg.failStep ≠ if warm then 3 else 1) :
    ∃ u pk, resetStep s what warm = State.post { u with pkg := pk } what { s.arg with seq := if warm then 4 else 2 } ∧
      u = beginReset s warm (s.arg.source == 1) ∧ pk.devState = (if warm then .fuses else .reset) ∧ pk.warm = u.pkg.warm := by
  have e0 : (s.arg.seq == 0) = true := by simp [h0]
  have ef : ¬(s.arg.failStep == if warm then 3 else 1) = true := by simpa using hf
  unfold resetStep
  dsimp only
  rw [if_pos e0, if_pos e0, if_neg ef]
  cases warm
  · exact ⟨beginReset s false (s.arg.source == 1), _, rfl, rfl, rfl, rfl⟩
  · exact ⟨beginReset s true (s.arg.source == 1), _, rfl, rfl, rfl, rfl⟩

/-- A later step of a cold reset. -/
theorem resetStep_later {s : State} {what : Instr} (h0 : s.arg.seq ≠ 0) (hh : s.host.cmdHeld = false) :
    let u := stepWork { s with pkg := { s.pkg with devState := stepState s.arg.seq } } s.arg.seq false
    resetStep s what false = if s.arg.failStep = s.arg.seq then { u with pkg := { u.pkg with devState := .failed, failStep := s.arg.seq } }
      else if s.arg.seq = 7 then u else u.post what { s.arg with seq := s.arg.seq + 1 } := by
  intro u
  have hu : u.host = s.host := by
    unfold u stepWork
    repeat' split
    all_goals rfl
  have e0 : ¬(s.arg.seq == 0) = true := by simpa using h0
  unfold resetStep
  dsimp only
  rw [if_neg e0, if_neg e0]
  change (if (s.arg.failStep == s.arg.seq) = true then runHeld { u with pkg := { u.pkg with devState := .failed, failStep := s.arg.seq } }
    else if (s.arg.seq == 7) = true then runHeld u else u.post what { s.arg with seq := s.arg.seq + 1 }) = _
  rw [runHeld_none (s := u) (by rw [hu]; exact hh),
    runHeld_none (s := { u with pkg := { u.pkg with devState := .failed, failStep := s.arg.seq } }) (by rw [show State.host _ = u.host from rfl, hu]; exact hh)]
  simp only [beq_iff_eq]

/-- A step of a cold reset after the first, at its own state. -/
theorem answers_of_step {s u : State} {P : State → Prop} (h0 : s.arg.seq ≠ 0) (hh : s.host.cmdHeld = false)
    (hu : stepWork { s with pkg := { s.pkg with devState := stepState s.arg.seq } } s.arg.seq false = u) (hs : u.Settled)
    (hp : P (State.wake (if s.arg.failStep = s.arg.seq then { u with pkg := { u.pkg with devState := .failed, failStep := s.arg.seq } }
      else if s.arg.seq = 7 then u else u.post .coldReset { s.arg with seq := s.arg.seq + 1 }))) : Answers .coldReset s P := by
  refine answers_of_finish (u := resetStep s .coldReset false) rfl ?_ ?_
  · rw [resetStep_later h0 hh, hu]
    split
    · exact hs
    · split <;> exact hs
  · rw [resetStep_later h0 hh, hu]
    exact hp

theorem stepWork_settled {s : State} (hs : s.Settled) (n : Nat) (warm : Bool) : (stepWork s n warm).Settled := by
  unfold stepWork trainMemory
  repeat' split
  all_goals first | exact hs | rfl

theorem thermalTrip_spec {s : State} (hs : s.Settled) : let t := thermalTrip s
    t.Settled ∧ t.pkg.thermtrip = true ∧ t.hatches = [] ∧ t.ops = [] ∧ (∀ x ∈ t.dies, x.gate = .gated) ∧
      (∃ m ∈ t.out, m = .pin 0 true) ∧ t.mem = s.mem ∧ t.host.errFatal = satInc s.host.errFatal := by
  unfold thermalTrip
  extract_lets off _ s1
  obtain ⟨h, hc⟩ := reports_logError (s1.emit (.pin pinThermtrip true)) 2 7 0x0200 s1.arg.die 0 0
  have hout : OutMsg.pin 0 true ∈ (s1.emit (.pin pinThermtrip true)).out := List.mem_append_right _ List.mem_cons_self
  obtain ⟨o, ho⟩ := h.out
  refine ⟨(congrArg Sched.raised h.sched).trans hs, ?_, ?_, ?_, ?_, ⟨_, ?_, rfl⟩, ?_, ?_⟩
  · exact h.keeps (fun u => u.pkg.thermtrip) (by intro _ _; rfl)
  · exact h.keeps State.hatches (by intro _ _; rfl)
  · exact h.keeps State.ops (by intro _ _; rfl)
  · rw [show (logError (s1.emit (.pin pinThermtrip true)) 2 7 0x0200 s1.arg.die 0 0).dies = s.dies.map off from
      h.keeps State.dies (by intro _ _; rfl)]
    intro x hx
    obtain ⟨y, -, rfl⟩ := List.mem_map.1 hx
    rfl
  · rw [ho]
    exact List.mem_append_left _ hout
  · exact h.keeps State.mem (by intro _ _; rfl)
  · exact congrArg (fun c => c.2.2) hc

theorem setThermal_depth (s : State) (k : Nat) : SameWork s (setThermal s k) ∧ (setThermal s k).sched = s.sched ∧
    (setThermal s k).pkg.thermalDepth = k := by
  unfold setThermal
  split
  next h => exact ⟨⟨rfl, rfl, rfl, rfl⟩, rfl, (eq_of_beq h).symm⟩
  next => exact ⟨⟨rfl, rfl, rfl, rfl⟩, rfl, rfl⟩

/-- An event that may move the gate of its die. -/
theorem leads_gate {i : Instr} {s : State} (hs : s.Settled) {d : Nat} {g : GateState} (he : exec i s = .next (finish (setGate s d g))) :
    Leads i s (setGate s d g) := he.trans (congrArg Host.Outcome.next (finish_settled hs))

/-- Settles O49: each step of a reset and each power event by what its effect leaves unchanged. -/
theorem resetsAndPower : Obligations.ResetsAndPower := by
  refine ⟨fun s => ?_, fun s hs => ?_⟩
  · dsimp only
    refine ⟨fun h0 hf => ?_, fun h0 hf ht hd => ?_, fun hs h0 hh => ⟨fun hf => ?_, fun h4 hf => ?_, fun h5 hf => ?_, fun hf h7 => ?_⟩,
      fun hs => ⟨?_, ?_, ?_, ?_, ?_⟩, fun o b hs ho hc hi hb hp => ?_⟩
    · obtain ⟨u, pk, e, hu, h1, h2⟩ := resetStep_begins (what := .coldReset) (warm := false) h0 hf
      obtain ⟨b1, b2, b3, b4, b5, b6, b7, b8⟩ := beginReset_spec s false (s.arg.source == 1)
      rw [← hu] at b1 b2 b3 b4 b5 b6 b7 b8
      refine answers_of_finish (u := resetStep s .coldReset false) rfl ?_ ?_
      · rw [e]
        show u.sched.raised = []
        rw [b4]
        rfl
      · rw [e]
        exact ⟨b6, b1, b2, b3, b4, h1, h2.trans b5, b8, mem_net_post _ _ _⟩
    · obtain ⟨u, pk, e, hu, h1, h2⟩ := resetStep_begins (what := .warmReset) (warm := true) h0 hf
      obtain ⟨b1, b2, b3, b4, b5, b6, b7, b8⟩ := beginReset_spec s true (s.arg.source == 1)
      rw [← hu] at b1 b2 b3 b4 b5 b6 b7 b8
      have hn : ¬(s.pkg.thermtrip || s.pkg.devState == .failed && s.pkg.failStep == 2) = true := by
        simpa [ht] using hd
      refine answers_of_finish (u := resetStep s .warmReset true) ?_ ?_ ?_
      · exact congrArg (fun u => Host.Outcome.next (finish u)) (if_neg hn)
      · rw [e]
        show u.sched.raised = []
        rw [b4]
        rfl
      · rw [e]
        exact ⟨b6, b7, b1, b2, b3, b4, h1, h2.trans b5, b8, mem_net_post _ _ _⟩
    · refine answers_of_step h0 hh rfl (stepWork_settled (s := { s with pkg := { s.pkg with devState := stepState s.arg.seq } }) hs _ _) ?_
      rw [if_pos hf]
      exact ⟨rfl, rfl⟩
    · refine answers_of_step h0 hh (u := clearLogic { s with pkg := { s.pkg with devState := .logic } }) (by rw [h4]; rfl) hs ?_
      rw [if_neg (by rw [h4]; exact hf), if_neg (by rw [h4]; decide), h4]
      exact ⟨rfl, rfl, rfl, rfl, rfl, rfl, rfl, rfl, rfl, mem_net_post _ _ _⟩
    · refine answers_of_step h0 hh (u := trainMemory { s with pkg := { s.pkg with devState := .memory } } false) (by rw [h5]; rfl) hs ?_
      rw [if_neg (by rw [h5]; exact hf), if_neg (by rw [h5]; decide), h5]
      exact ⟨rfl, rfl, rfl, rfl, mem_net_post _ _ _⟩
    · have e := resetStep_later (what := .coldReset) h0 hh
      dsimp only at e
      rw [if_neg (by rw [h7]; exact hf), if_pos h7, h7] at e
      refine (congrArg (fun u => Host.Outcome.next (finish u)) e).trans (congrArg Host.Outcome.next (finish_settled ?_))
      rfl
    · exact answers_of_loss (u := setPerst (setPerst s s.arg.port true) (otherPort s.arg.port) false)
        (f := fun q => { resetFunction q with link := false }) hs rfl ⟨_, rfl⟩
    · exact answers_of_loss (u := s) (f := fun q => { resetFunction q with
        maskCorr := q.maskCorr, maskUncorr := q.maskUncorr, statCorr := q.statCorr, statUncorr := q.statUncorr }) hs rfl ⟨s.pkg, rfl⟩
    · exact answers_of_loss (u := s) (f := fun q => { q with link := false }) hs rfl ⟨s.pkg, rfl⟩
    · refine answers_of_finish (u := (setPerst s s.arg.port false).updPort s.arg.port (fun q => { q with link := true })) rfl ?_ ?_
      · cases s.arg.port <;> exact hs
      · cases s.arg.port
        · exact ⟨⟨rfl, rfl, rfl, rfl⟩, rfl, by intro q hq; cases q; exacts [absurd rfl hq, rfl], fun _ => rfl, by simp⟩
        · exact ⟨⟨rfl, rfl, rfl, rfl⟩, rfl, by intro q hq; cases q; exacts [rfl, absurd rfl hq], by simp, fun _ => rfl⟩
    · obtain ⟨h, hc⟩ := reports_logError s 2 s.arg.source 0x0202 s.arg.block 0 0
      exact answers_of_finish (u := logError s 2 s.arg.source 0x0202 s.arg.block 0 0) rfl (h.settled hs)
        ⟨h.work, congrArg (fun c => c.2.2) hc⟩
    · have hk := block?_inst hb
      rw [← hk] at hb
      obtain ⟨h1, h2⟩ := discardBlock_replays hb .transient
      refine answers_of_finish (u := (discardBlock s b .transient).dropOp o.id) ?_ (discardBlock_settled hs b _) ⟨?_, h1, h2⟩
      · show execCopyMatrixEngineReset s = _
        have he : (instrForm o.what).elim false (fun x => decide (0xC5 ≤ x.1) && decide (x.1 ≤ 0xD9)) = true := by
          cases hf : instrForm o.what with
          | none => rw [hf] at hi; cases hi
          | some x =>
            rw [hf] at hi
            simpa using hi
        unfold execCopyMatrixEngineReset
        rw [ho]
        dsimp only
        rw [if_neg (by rw [he, hc]; simp), ← hk, hb]
        dsimp only
        rw [if_pos (by simp [hp])]
      · show ((discardBlock s b .transient).ops.filter _).find? _ = none
        exact List.find?_eq_none.2 (fun x hx => by simpa using (List.mem_filter.1 hx).2)
  · dsimp only
    refine ⟨?_, ?_, fun ht => ⟨fun h => ⟨?_, ?_⟩, fun hd h => ?_, fun hd h1 h2 => ?_, fun hd h => ?_, fun h1 h2 => ?_⟩,
      fun h => ?_, fun h => ?_, fun hg ho hb hc => ?_, fun hg hb => ?_, fun hg hb ho hc hd => ?_, fun ht hg => ?_, fun ht hg hc => ?_,
      fun ht hg hc => ?_, fun hg hc => ?_⟩
    · exact congrArg Host.Outcome.next (finish_settled hs)
    · exact congrArg Host.Outcome.next (finish_settled hs)
    · refine ⟨thermalTrip s, ?_, (thermalTrip_spec hs).2⟩
      exact congrArg Host.Outcome.next (if_neg (by simp [ht]; omega))
    · refine ⟨thermalTrip s, ?_, (thermalTrip_spec hs).2⟩
      show execThermalStep s = _
      unfold execThermalStep
      dsimp only
      rw [if_neg (by simp [ht]), if_pos h]
    · show execThermalStep s = _
      have hn : thermalDue s = false := by simpa [thermalDue] using hd
      unfold execThermalStep
      dsimp only
      rw [if_neg (by simp [ht]), if_neg (by omega), if_pos (by simp [hn]), finish_settled hs]
    · show ∃ t, execThermalStep s = _ ∧ _
      have hn : thermalDue s = true := by simpa [thermalDue] using hd
      have hw : SameWork s (if s.pkg.thermalDepth == 0 then logError s 0 7 0x0003 s.arg.die 0 0 else s) ∧
          (if s.pkg.thermalDepth == 0 then logError s 0 7 0x0003 s.arg.die 0 0 else s).Settled := by
        have h := (reports_logError s 0 7 0x0003 s.arg.die 0 0).1
        split
        · exact ⟨h.work, h.settled hs⟩
        · exact ⟨⟨rfl, rfl, rfl, rfl⟩, hs⟩
      unfold execThermalStep
      dsimp only
      rw [if_neg (by simp [ht]), if_neg (by omega), if_neg (by simp [hn]), if_pos h1]
      obtain ⟨h3, h4, h5⟩ := setThermal_depth (if s.pkg.thermalDepth == 0 then logError s 0 7 0x0003 s.arg.die 0 0 else s)
        (min 15 (s.pkg.thermalDepth + 1))
      exact ⟨_, rfl, by rw [finish_settled ((congrArg Sched.raised h4).trans hw.2)]; exact ⟨hw.1.trans h3, h5⟩⟩
    · have hn : thermalDue s = true := by simpa [thermalDue] using hd
      obtain ⟨h3, h4, h5⟩ := setThermal_depth s (s.pkg.thermalDepth - 1)
      refine answers_of_finish (u := setThermal s (s.pkg.thermalDepth - 1)) ?_ ((congrArg Sched.raised h4).trans hs) ⟨h3, h5⟩
      show execThermalStep s = _
      unfold execThermalStep
      dsimp only
      rw [if_neg (by simp [ht]), if_neg (by omega), if_neg (by simp [hn]), if_neg (by omega), if_pos h]
    · show execThermalStep s = _
      unfold execThermalStep
      dsimp only
      rw [if_neg (by simp [ht]), if_neg (by omega), if_neg (show ¬1000 ≤ s.arg.temp by omega), if_neg (show ¬s.arg.temp < 980 by omega), ite_self,
        finish_settled hs]
    · exact ⟨s.park .capWindowEnd, congrArg Host.Outcome.next (if_pos h), ⟨rfl, rfl, rfl, rfl⟩, rfl, List.mem_append_right _ List.mem_cons_self⟩
    · exact answers_of_finish (congrArg Host.Outcome.next (if_neg (Nat.not_lt.2 h))) hs ⟨⟨rfl, rfl, rfl, rfl⟩, rfl, rfl⟩
    · refine leads_gate hs (congrArg (fun u => Host.Outcome.next (finish u)) (if_pos ?_))
      unfold State.die
      rw [hg, ho, hb]
      simpa using hc
    · refine leads_gate hs (congrArg (fun u => Host.Outcome.next (finish u)) ((if_neg ?_).trans (if_pos ?_)))
      · unfold State.die
        rw [hg]
        decide
      · unfold State.die
        rcases hb with hb | hb <;> rw [hb] <;> simp
    · obtain ⟨h1, h2⟩ := emptyCores_rests s s.arg.die
      have hr := rests_finish (setGate (emptyCores s s.arg.die) s.arg.die .gated)
      refine ⟨_, congrArg (fun u => Host.Outcome.next (finish u)) ((if_neg ?_).trans ((if_neg ?_).trans (if_pos hc))), ?_, fun k hk => ?_⟩
      · unfold State.die
        rw [hg]
        decide
      · unfold State.die
        rw [hb, ho]
        decide
      · rw [hr.dies]
        exact gate_setGate (by rw [h1.dies]; exact hd) _
      · exact hr.bare k (quenches_setGate _ _ _ k (h2 k hk))
    all_goals have hm : s.die s.arg.die = s.dies.getD s.arg.die Die.reset := rfl
    · refine leads_gate hs (congrArg (fun u => Host.Outcome.next (finish u)) ((if_neg (by simp [ht])).trans ?_))
      rw [hm, hg]
    · refine leads_gate hs (congrArg (fun u => Host.Outcome.next (finish u)) ((if_neg (by simp [ht])).trans ?_))
      rw [hm, hg]
      exact congrArg (setGate s s.arg.die) (if_neg (mt eq_of_beq hc))
    · refine leads_gate hs (congrArg (fun u => Host.Outcome.next (finish u)) ((if_neg (by simp [ht])).trans ?_))
      rw [hm, hg]
      exact congrArg (setGate s s.arg.die) (if_pos (beq_of_eq hc))
    · refine leads_gate hs (congrArg (fun u => Host.Outcome.next (finish u)) (if_pos ?_))
      unfold State.die
      rw [hg]
      simpa using hc

end Sys2Proof.Machine
end

section
/-! PROOFS. Two statements on coherence that do not ask whether a line has just been granted, where requests and snoops wait
(entry 64), and what refutes them. -/

namespace Sys2Proof.Machine

/-- Shared state in the directory of a home die whose own agent has just been granted the line; the next die asks to read it. -/
def justGrantedHome : State := { State.reset with
  coh := { Coh.reset with
    dir := [{ DirEntry.empty 0 with st := .sh }], granted := [(homeDie State.reset 0, 0, 8)] }
  arg := { State.reset.arg with line := 0, who := .agent State.reset.fab.chipId (homeDie State.reset 0 + 1), untracked := false } }

/-- The home puts the request off for the 8 clocks of the grant. -/
theorem rdRequest_putOff : exec .rdRequest justGrantedHome = .next (justGrantedHome.park .rdRequest) := by
  have hg : justGranted justGrantedHome (homeDie justGrantedHome 0) 0 = true := by decide +kernel
  have hw : (Who.agent State.reset.fab.chipId (homeDie State.reset 0 + 1) != selfWho justGrantedHome 0) = true := by decide +kernel
  have hr : serveReq justGrantedHome 0 (.agent State.reset.fab.chipId (homeDie State.reset 0 + 1)) .rd = (justGrantedHome, false) := by
    unfold serveReq
    dsimp only
    rw [if_neg (by decide +kernel), if_pos (by rw [hg, hw]; rfl)]
  show requestEvent .rd justGrantedHome = _
  unfold requestEvent
  rw [show justGrantedHome.arg.line = 0 from rfl,
    show justGrantedHome.arg.who = .agent State.reset.fab.chipId (homeDie State.reset 0 + 1) from rfl, hr]
  exact congrArg (fun u => Host.Outcome.next (State.park u .rdRequest)) (settle_of_settled rfl)

/-- Refutes O51: where the home's own agent has just been granted the line, a read of another die for a shared line is parked, and
the directory does not record it. -/
theorem not_homeRequests : ¬ Obligations.HomeRequests := by
  intro h
  have hy : (homeYields justGrantedHome justGrantedHome.arg.line).Settled := by
    show (homeYields justGrantedHome justGrantedHome.arg.line).sched.raised = []
    decide +kernel
  have hp : (homeYields justGrantedHome justGrantedHome.arg.line).fab.packets = [] := by decide +kernel
  obtain ⟨hrd, -⟩ := h justGrantedHome (homeDie State.reset 0 + 1) rfl (by decide +kernel) (by decide +kernel) (by decide +kernel)
    rfl hy rfl hp (.inl (by decide +kernel))
  obtain ⟨hshared, -⟩ := hrd rfl (by decide +kernel)
  obtain ⟨t, ht, -, -, hw, -⟩ := hshared (by decide +kernel) (by decide +kernel)
  rw [rdRequest_putOff] at ht
  rw [← Host.Outcome.next.inj ht] at hw
  have hn : (dirAt (justGrantedHome.park .rdRequest) 0).sharers = [] := by decide +kernel
  rw [show justGrantedHome.arg.line = 0 from rfl, hn] at hw
  cases hw

/-- A die's agent shares a line that it has just been granted; the line's home forwards a read of the next die to it. -/
def justGrantedAgent : State := { State.reset with
  coh := { Coh.reset with
    agents := [⟨1, 0, .s, { bytes := List.replicate 128 0, poison := 0, depth := 0 }, false, none⟩], granted := [(1, 0, 8)] }
  arg := { State.reset.arg with die := 1, line := 0, who := .agent State.reset.fab.chipId 2 } }

/-- The agent puts the snoop off for the 8 clocks of the grant. -/
theorem fwdS_putOff : exec .fwdS justGrantedAgent = .next (justGrantedAgent.park .fwdS) :=
  congrArg Host.Outcome.next (if_pos (by decide +kernel))

/-- Refutes O52: a snoop of a line that the agent has just been granted is parked, and no answer is under way. -/
theorem not_coherenceAnswers : ¬ Obligations.CoherenceAnswers := by
  intro h
  obtain ⟨t, ht, -, hu, -⟩ := ((h justGrantedAgent 2 rfl rfl).1 ⟨1, 0, .s, { bytes := List.replicate 128 0, poison := 0, depth := 0 }, false, none⟩
    (by decide +kernel) (by decide +kernel) rfl (by decide +kernel) (by decide +kernel)).1
  rw [fwdS_putOff] at ht
  rw [← Host.Outcome.next.inj ht] at hu
  rcases hu with ⟨e, he, -⟩ | ⟨p, hp, -⟩
  · cases he
  · cases hp

end Sys2Proof.Machine
end

section
/-! PROOFS. Masked writes at a home, and the bytes of a line. -/

namespace Sys2Proof.Machine

theorem getLsbD_maskOf (off n i : Nat) : (maskOf off n).getLsbD i = decide (i < 128 ∧ off ≤ i ∧ i < off + n) := by
  unfold maskOf
  rw [BitVec.getLsbD_ofNat, Nat.testBit_mul_two_pow, Nat.testBit_two_pow_sub_one]
  rw [Bool.eq_iff_iff]
  simp only [Bool.and_eq_true, decide_eq_true_eq]
  omega

/-- A byte of a list with other bytes put in. -/
theorem getD_spliceBytes {bs : List Byte} {off : Nat} {new : List Byte} (h : off + new.length ≤ bs.length) (i : Nat) :
    (spliceBytes bs off new).getD i 0 = if off ≤ i ∧ i < off + new.length then new.getD (i - off) 0 else bs.getD i 0 := by
  unfold spliceBytes
  have ht : (bs.take off).length = off := by rw [List.length_take]; omega
  simp only [List.getD_eq_getElem?_getD, List.append_assoc]
  by_cases h1 : i < off
  · rw [List.getElem?_append_left (by omega), if_neg (by omega), List.getElem?_take_of_lt h1]
  · rw [List.getElem?_append_right (by omega), ht]
    by_cases h2 : i < off + new.length
    · rw [List.getElem?_append_left (by omega), if_pos (by omega)]
    · rw [List.getElem?_append_right (by omega), if_neg (by omega), List.getElem?_drop]
      congr 2
      omega

theorem length_lineImage {off : Nat} {bs : List Byte} (h : off + bs.length ≤ 128) : (lineImage off bs).length = 128 := by
  unfold lineImage spliceBytes
  simp
  omega

theorem getD_lineImage {off : Nat} {bs : List Byte} (h : off + bs.length ≤ 128) {i : Nat} (h1 : off ≤ i) (h2 : i < off + bs.length) :
    (lineImage off bs).getD i 0 = bs.getD (i - off) 0 :=
  (getD_spliceBytes (by rw [List.length_replicate]; exact h) i).trans (if_pos ⟨h1, h2⟩)

theorem getD_maskBytes (old new : List Byte) (m : BitVec 128) {i : Nat} (hi : i < 128) :
    (maskBytes old new m).getD i 0 = if m.getLsbD i then new.getD i 0 else old.getD i 0 := by
  unfold maskBytes
  rw [List.getD_eq_getElem?_getD, List.getElem?_map, List.getElem?_range hi]
  rfl

/-! ### Masked writes -/

theorem overGet_setAt (j base : Nat) (bs : List Byte) (is : List Nat) (m : List Host.Cell) :
    overGet j (is.foldl (fun m i => overSet (base + i) (bs.getD i 0) m) m) =
      if base ≤ j ∧ j - base ∈ is then some (bs.getD (j - base) 0) else overGet j m := by
  induction is generalizing m with
  | nil => rw [if_neg (by simp)]; rfl
  | cons x is ih =>
    rw [List.foldl_cons, ih, overGet_overSet]
    by_cases h1 : base ≤ j ∧ j - base ∈ is
    · rw [if_pos h1, if_pos ⟨h1.1, List.mem_cons_of_mem _ h1.2⟩]
    · rw [if_neg h1]
      by_cases h2 : j = base + x
      · subst h2
        rw [if_pos rfl, if_pos ⟨Nat.le_add_right _ _, by simp⟩, Nat.add_sub_cancel_left]
      · rw [if_neg h2, if_neg]
        rintro ⟨h3, h4⟩
        rcases List.mem_cons.1 h4 with h4 | h4
        · omega
        · exact h1 ⟨h3, h4⟩

/-- A masked write at the home of a line of this package goes to the overlay of its slice. -/
theorem homeWriteMask_own {s : State} {line k : Nat} (bs : List Byte) (m : BitVec 128) (ho : lineIsOwn s line = true)
    (hk : lineKey s line = some k) : ∃ p, homeWriteMask s line bs m = { s with
      slicePoison := p
      slices := ((List.range 128).filter (fun i => m.getLsbD i)).foldl (fun v i => overSet (line * 128 + i) (bs.getD i 0) v) s.slices } := by
  unfold homeWriteMask
  rw [hk]
  dsimp only
  unfold cleanSectors
  rw [if_pos ho]
  exact ⟨_, if_pos ho⟩

theorem homeRead_homeWriteMask {s : State} {line k : Nat} {bs : List Byte} {m : BitVec 128} (ho : lineIsOwn s line = true)
    (hk : lineKey s line = some k) {i : Nat} (hi : i < 128) : (homeRead (homeWriteMask s line bs m) line).getD i 0 =
      if m.getLsbD i then bs.getD i 0 else (homeRead s line).getD i 0 := by
  obtain ⟨p, e⟩ := homeWriteMask_own bs m ho hk
  rw [e, getD_homeRead hk hi]
  refine Eq.trans (getD_homeRead (k := k) (by exact hk) hi) ?_
  dsimp only
  rw [overGet_setAt]
  by_cases h : m.getLsbD i = true
  · rw [if_pos h, if_pos ⟨Nat.le_add_right _ _, by rw [Nat.add_sub_cancel_left]; exact List.mem_filter.2 ⟨List.mem_range.2 hi, h⟩⟩,
      Nat.add_sub_cancel_left]
    rfl
  · rw [if_neg h, if_neg]
    rintro ⟨-, h2⟩
    rw [Nat.add_sub_cancel_left] at h2
    exact h (List.mem_filter.1 h2).2

theorem homeRead_homeWriteMask_ne {s : State} {line k other : Nat} {bs : List Byte} {m : BitVec 128} (ho : lineIsOwn s line = true)
    (hk : lineKey s line = some k) (hn : other ≠ line) : homeRead (homeWriteMask s line bs m) other = homeRead s other := by
  obtain ⟨p, e⟩ := homeWriteMask_own bs m ho hk
  rw [e]
  refine homeRead_congr rfl rfl (fun i hi => ?_)
  dsimp only
  rw [overGet_setAt, if_neg]
  rintro ⟨h1, h2⟩
  have := List.mem_range.1 (List.mem_filter.1 h2).1
  omega

end Sys2Proof.Machine
end

section
/-! PROOFS. The statement of host reads, writes, snoops and answers. -/

namespace Sys2Proof.Machine

/-! ### What single operations change -/

/-- A read at a channel changes the memory side, and may ask for the line. -/
theorem chanRead_eq (s : State) (line : Nat) (sectors : BitVec 4) : ∃ m w, chanRead s line sectors = { s with ms := m, wants := w } := by
  have hfill : ∃ m, chanFill s line sectors = { s with ms := m } := by
    unfold chanFill
    split
    · exact ⟨s.ms, rfl⟩
    · dsimp only
      split
      · exact ⟨_, rfl⟩
      · split <;> exact ⟨_, rfl⟩
  have hhit : ∃ m, chanHit s line sectors = { s with ms := m } := by
    unfold chanHit
    split
    · exact ⟨s.ms, rfl⟩
    · dsimp only
      split
      · exact ⟨_, rfl⟩
      · split
        · exact ⟨s.ms, rfl⟩
        · obtain ⟨m, e⟩ := hfill
          rw [e]
          unfold windowHit
          split
          · exact ⟨m, rfl⟩
          · split <;> exact ⟨_, rfl⟩
  unfold chanRead
  split
  · exact ⟨s.ms, s.wants, rfl⟩
  · split
    · obtain ⟨m, e⟩ := hhit
      exact ⟨m, s.wants, e⟩
    · unfold State.want
      split <;> exact ⟨s.ms, _, rfl⟩

/-- Calling host copies back changes what has been called back, and what has left. -/
theorem sendBisnp_eq (s : State) (line : Nat) (excl : Bool) : ∃ b n o, sendBisnp s line excl =
    { s with coh := { s.coh with bisnp := b, bisnpCount := n }, out := o } := by
  unfold sendBisnp
  generalize hostConflicts s line excl = es
  induction es generalizing s with
  | nil => exact ⟨s.coh.bisnp, s.coh.bisnpCount, s.out, rfl⟩
  | cons e es ih =>
    rw [List.foldl_cons]
    split
    · exact ih s
    · obtain ⟨b, n, o, h⟩ := ih ((updCoh s (fun c => { c with
        bisnp := c.bisnp ++ [(e.port, e.half, excl)], bisnpCount := satInc c.bisnpCount })).emit (.biSnp e.port e.half excl))
      exact ⟨b, n, o, h⟩

theorem hostRoom_eq (s : State) (line : Nat) : ∃ b n o, hostRoom s line = { s with coh := { s.coh with bisnp := b, bisnpCount := n }, out := o } := by
  unfold hostRoom
  split
  · exact ⟨s.coh.bisnp, s.coh.bisnpCount, s.out, rfl⟩
  · split
    · exact ⟨s.coh.bisnp, s.coh.bisnpCount, s.out, rfl⟩
    · exact sendBisnp_eq s _ true

/-- A host's half is recorded. -/
theorem hostRecord_eq (s : State) (p : Port) (half : Nat) (excl : Bool) : ∃ co o, hostRecord s p half excl = { s with coh := co, out := o } ∧
    ∃ e ∈ co.hostDir, e.port = p ∧ e.half = half ∧ e.excl = excl := by
  obtain ⟨b, n, o, e⟩ := hostRoom_eq s (half / 2)
  unfold hostRecord
  rw [e]
  exact ⟨_, o, rfl, _, List.mem_append_right _ List.mem_cons_self, rfl, rfl, rfl⟩

/-- A write of a line of a host, at the home slice or in memory, changes the bytes and the marks of poison and of errors alone. -/
theorem homeWrite_eq (s : State) (line off : Nat) (bs : List Byte) : ∃ m sl p sp c, homeWrite s line off bs =
    { s with mem := m, slices := sl, poison := p, slicePoison := sp, ecc1 := c } := by
  have hc : ∀ k qs, ∃ p sp c, cleanSectors s line k qs = { s with poison := p, slicePoison := sp, ecc1 := c } := by
    intro k qs
    unfold cleanSectors
    split <;> exact ⟨_, _, _, rfl⟩
  unfold homeWrite
  split
  · exact ⟨s.mem, s.slices, s.poison, s.slicePoison, s.ecc1, rfl⟩
  next k _ =>
    obtain ⟨p, sp, c, e⟩ := hc k (wholeSectors off bs.length)
    dsimp only
    rw [e]
    split <;> exact ⟨_, _, _, _, _, rfl⟩

theorem homeSetPoison_eq (s : State) (line : Nat) (q : BitVec 4) : ∃ p sp, homeSetPoison s line q = { s with poison := p, slicePoison := sp } := by
  unfold homeSetPoison
  split
  · exact ⟨s.poison, s.slicePoison, rfl⟩
  · split <;> exact ⟨_, _, rfl⟩

/-- Changes to cores alone. -/
theorem foldl_cores {α : Type} {f : State → α → State} (hf : ∀ s a, ∃ cs, f s a = { s with cores := cs }) (xs : List α) (s : State) :
    ∃ cs, xs.foldl f s = { s with cores := cs } := by
  induction xs generalizing s with
  | nil => exact ⟨s.cores, rfl⟩
  | cons x xs ih =>
    obtain ⟨cs, e⟩ := hf s x
    rw [List.foldl_cons, e]
    exact ih { s with cores := cs }

theorem dropCopies_eq (s : State) (ds : List Nat) (line : Nat) : ∃ cs, dropCopies s ds line = { s with cores := cs } :=
  foldl_cores (fun _ _ => by split <;> exact ⟨_, rfl⟩) _ s

theorem demoteDie_eq (s : State) (ds : List Nat) (line : Nat) : ∃ cs, demoteDie s ds line = { s with cores := cs } :=
  foldl_cores (fun _ _ => ⟨_, rfl⟩) _ s

/-! ### The agents of a line -/

theorem agentAt_some {s : State} {d line : Nat} {a : Agent} (h : agentAt s d line = some a) : a.die = d ∧ a.line = line ∧ a.wbBuf = false := by
  have := List.find?_some h
  simp only [Bool.and_eq_true, beq_iff_eq, Bool.not_eq_true'] at this
  exact ⟨this.1.1, this.1.2, this.2⟩

/-- The agent that has been written. -/
theorem agentAt_setAgent {s : State} {a : Agent} {d line : Nat} (hd : a.die = d) (hl : a.line = line) (hb : a.wbBuf = false) :
    agentAt (setAgent s a) d line = some a := by
  subst hd hl
  show List.find? _ (s.coh.agents.filter _ ++ [a]) = _
  rw [List.find?_append, List.find?_eq_none.2, Option.none_or]
  · exact List.find?_cons_of_pos (by simp [hb])
  · intro x hx
    have h := (List.mem_filter.1 hx).2
    cases hw : x.wbBuf <;> simp_all [imp_iff_not_or]

theorem agentAt_dropAgent (s : State) (d line : Nat) : agentAt (dropAgent s d line) d line = none := by
  show List.find? _ (s.coh.agents.filter _) = _
  refine List.find?_eq_none.2 (fun x hx => ?_)
  have h := (List.mem_filter.1 hx).2
  cases hw : x.wbBuf <;> simp_all [imp_iff_not_or]

/-! ### Reads and writes of a host (R86 to R88) -/

theorem getD_sliceBytes (bs : List Byte) (off : Nat) {n i : Nat} (hi : i < n) : (sliceBytes bs off n).getD i 0 = bs.getD (off + i) 0 := by
  unfold sliceBytes
  rw [List.getD_eq_getElem?_getD, List.getElem?_map, List.getElem?_range hi]
  rfl

theorem hostWaits_none {s : State} {p : Port} {pa : Nat} {excl : Bool} (hb : (dirAt s (lineOf pa)).st.busy = false)
    (hf : foreignHolds s (lineOf pa) = false) (ho : otherCopies s p (pa / 64) excl = []) : hostWaits s p pa excl = none := by
  unfold hostWaits
  dsimp only
  rw [if_neg (by simp [hb]), ho, if_neg (by simp), if_neg (by simp [hf])]

theorem dirRoom_of {s : State} {line : Nat} (h : lineTracked s line = true ∨ (setLines s line).length < 16) : dirRoom s line = (s, true) := by
  unfold dirRoom
  rw [if_pos (by simpa using h)]

/-- A host's read of backed memory gives the bytes, and the half is recorded. -/
theorem hostRead_gives {s r : State} {p : Port} {offset pa : Nat} {excl : Bool} {bs : List Byte} (hpa : hostPa s offset = pa)
    (hk : hostBacked s p offset = true) (hw : hostWaits s p pa excl = none) (hd : dirRoom s (lineOf pa) = (s, true))
    (hr : takeForHost (acquireLine s (lineOf pa)) (lineOf pa) = r)
    (hp : peekPa (chanRead r (lineOf pa) (sectorMask (offsetInLine pa) 64)) pa 64 = (bs, false)) :
    ∃ u : State, hostRead s p offset excl = (u, true) ∧ u.sched = r.sched ∧ OutMsg.memData p offset bs false ∈ u.out ∧
      ∃ e ∈ u.coh.hostDir, e.port = p ∧ e.half = pa / 64 ∧ e.excl = excl := by
  obtain ⟨m, w, e1⟩ := chanRead_eq r (lineOf pa) (sectorMask (offsetInLine pa) 64)
  have e2 : ∃ hs, (if excl then wakeLine { r with ms := m, wants := w } (lineOf pa) else { r with ms := m, wants := w }) =
      { r with ms := m, wants := w, hatches := hs } := by
    split
    · exact ⟨_, rfl⟩
    · exact ⟨r.hatches, rfl⟩
  obtain ⟨hs, e2⟩ := e2
  obtain ⟨co, o, e3, he⟩ := hostRecord_eq { r with ms := m, wants := w, hatches := hs } p (pa / 64) excl
  refine ⟨State.emit { r with ms := m, wants := w, hatches := hs, coh := co, out := o } (.memData p offset bs false), ?_, rfl,
    List.mem_append_right _ List.mem_cons_self, he⟩
  rw [hostRead, if_neg (by rw [hk]; decide), hpa]
  dsimp only
  rw [hw]
  dsimp only
  rw [hd]
  dsimp only
  rw [hr, hp]
  dsimp only
  rw [if_neg (by decide), e1, e2, e3]

/-- Bytes of a host written at the home of a page that is not frozen. -/
theorem hostBytes_reads {s : State} {p : Port} {pa k : Nat} {bs : List Byte} (hf : pageFrozen s pa = false) (ho : lineIsOwn s (lineOf pa) = true)
    (hk : lineKey s (lineOf pa) = some k) (ha : pa % 64 = 0) {i : Nat} (hi : i < 128) :
    (homeRead (hostBytes s p pa bs) (lineOf pa)).getD i 0 = if offsetInLine pa ≤ i ∧ i < offsetInLine pa + 64
      then bs.getD (i - offsetInLine pa) 0 else (homeRead s (lineOf pa)).getD i 0 := by
  have hl : (sliceBytes bs 0 64).length = 64 := length_sliceBytes _ _ _
  have hoff : offsetInLine pa + (sliceBytes bs 0 64).length ≤ 128 := by
    rw [hl]
    unfold offsetInLine
    omega
  unfold hostBytes
  rw [if_neg (by simp [hf])]
  unfold homeCommit
  show (homeRead (homeWriteMask s (lineOf pa) _ _) (lineOf pa)).getD i 0 = _
  rw [homeRead_homeWriteMask ho hk hi, getLsbD_maskOf]
  by_cases h : offsetInLine pa ≤ i ∧ i < offsetInLine pa + 64
  · rw [if_pos (by simpa using ⟨hi, h⟩), if_pos h, getD_lineImage hoff h.1 (by rw [hl]; exact h.2),
      getD_sliceBytes bs 0 (by omega), Nat.zero_add]
  · rw [if_neg (by simpa using fun _ h1 => Nat.le_of_not_lt (fun h2 => h ⟨h1, h2⟩)), if_neg h]

/-- A host's write of backed memory is made at the home once the line has been taken. -/
theorem hostWrite_makes {s : State} {p : Port} {offset pa : Nat} (bs : List Byte) (hpa : hostPa s offset = pa) (hk : hostBacked s p offset = true)
    (hw : hostWaits s p pa true = none) :
    hostWrite s p offset bs = ((hostBytes (takeForHost s (lineOf pa)) p pa bs).emit (.memDone p offset), true) := by
  rw [hostWrite, if_neg (by rw [hk]; decide), hpa]
  dsimp only
  rw [hw]

/-- A write to a frozen page is discarded and logged. -/
theorem discarded_write (u : State) (p : Port) (offset pa : Nat) :
    let t := ((logError u 1 4 0x0102 (Port.idx p) 0 pa).emit (.memDone p offset)).wake
    t.mem = u.mem ∧ t.slices = u.slices ∧ OutMsg.memDone p offset ∈ t.out ∧ t.host.errNonfatal = satInc u.host.errNonfatal := by
  obtain ⟨h, hc⟩ := reports_logError u 1 4 0x0102 (Port.idx p) 0 pa
  exact ⟨h.work.1, h.work.2.1, List.mem_append_right _ List.mem_cons_self, congrArg (fun c => c.2.1) hc⟩

theorem discarded_settled {u : State} (h : u.Settled) (p : Port) (offset pa : Nat) :
    ((logError u 1 4 0x0102 (Port.idx p) 0 pa).emit (.memDone p offset)).Settled :=
  (reports_logError u 1 4 0x0102 (Port.idx p) 0 pa).1.settled h

theorem settled_emit {s : State} (h : s.Settled) (m : OutMsg) : (s.emit m).Settled := h

theorem homeRead_emit_wake (s : State) (m : OutMsg) (line i : Nat) :
    (homeRead (s.emit m).wake line).getD i 0 = (homeRead s line).getD i 0 := rfl

theorem hostPa_aligned (s : State) (offset : Nat) : hostPa s offset % 64 = 0 := by
  unfold hostPa
  omega

/-! ### Answers and snoops (R88, R89) -/

/-- A response to a home that awaits nobody changes nothing. -/
theorem response_idle {s : State} {line : Nat} (h : (dirAt s line).st.busy = false) (w : Who) (a : SnoopAnswer) : response s line w a = s := by
  unfold response
  exact if_pos (by rw [h]; rfl)

/-- A host gives up a half that it was called back for, clean. -/
theorem birsp_clean {s : State} {p : Port} {half : Nat} {x : Port × Nat × Bool}
    (hx : s.coh.bisnp.find? (fun x => x.1 == p && x.2.1 == half) = some x) (hi : x.2.2 = true) (hb : (dirAt s (half / 2)).st.busy = false) :
    ∃ ds, birsp s p half [] = updCoh s (fun c => { c with bisnp := c.bisnp.erase x, hostDir := ds }) ∧
      ∀ e ∈ ds, ¬ (e.port = p ∧ e.half = half) := by
  unfold birsp
  rw [hx]
  dsimp only
  rw [if_pos List.isEmpty_nil]
  refine ⟨_, (ite_congr rfl (fun _ => rfl) (fun _ => ?_)).trans (ite_self _), ?_⟩
  · exact response_idle (by exact hb) _ _
  · intro e he ⟨h1, h2⟩
    obtain ⟨y, -, hy⟩ := List.mem_filterMap.1 he
    split at hy
    · cases hy
    next hn =>
      cases hy
      exact hn (by simp [h1, h2])

/-- What a snoop of the host finds in the slice that holds the line, and leaves there. -/
theorem hostSnoop_holds {s q : State} {p : Port} {line : Nat} {a : Agent} {k : Instr} (hq : acquireLine s line = q)
    (ha : agentAt q (hostDie line) line = some a) (hh : a.st.holds = true) (hp : a.pending = none) :
    ∃ u : State, hostSnoop s p line k = u.emit (.snpResp p line a.data.bytes) ∧ u.sched = q.sched ∧
      (k = .snpcur → agentAt u (hostDie line) line = some a) ∧
      (k = .snpdata → agentAt u (hostDie line) line = some { a with st := .s }) ∧
      (k = .snpinv → agentAt u (hostDie line) line = none) := by
  obtain ⟨hd, hl, hb⟩ := agentAt_some ha
  have e : ∃ u : State, homeSetPoison (homeWrite q line 0 a.data.bytes) line a.data.poison = u ∧ u.sched = q.sched ∧ u.coh = q.coh := by
    obtain ⟨m, sl, po, sp, c, e1⟩ := homeWrite_eq q line 0 a.data.bytes
    obtain ⟨po2, sp2, e2⟩ := homeSetPoison_eq { q with mem := m, slices := sl, poison := po, slicePoison := sp, ecc1 := c } line a.data.poison
    exact ⟨_, (congrArg (fun u => homeSetPoison u line a.data.poison) e1).trans e2, rfl, rfl⟩
  obtain ⟨u, e, h1, h2⟩ := e
  have ha2 : ∀ cs, agentAt { u with cores := cs } (hostDie line) line = some a := fun cs => by
    unfold agentAt
    dsimp only
    rw [h2]
    exact ha
  unfold hostSnoop
  dsimp only
  rw [hq, ha, Option.filter_some, if_pos hh]
  dsimp only
  rw [e]
  obtain ⟨c1, f1⟩ := demoteDie_eq u (pointDies (hostDie line) line) line
  obtain ⟨c2, f2⟩ := dropCopies_eq u (pointDies (hostDie line) line) line
  rw [f1, f2, if_neg (by simp [hp])]
  split
  · exact ⟨u, rfl, h1, fun _ => ha2 u.cores, by simp, by simp⟩
  · exact ⟨_, rfl, h1, by simp, fun _ => agentAt_setAgent hd hl hb, by simp⟩
  next h3 h4 =>
    exact ⟨_, rfl, h1, fun h => absurd h h3, fun h => absurd h h4, fun _ => agentAt_dropAgent _ _ _⟩

theorem hostSnoop_none {s q : State} {p : Port} {line : Nat} (hq : acquireLine s line = q) (ha : agentAt q (hostDie line) line = none) (k : Instr) :
    hostSnoop s p line k = q.emit (.snpResp p line []) := by
  unfold hostSnoop
  dsimp only
  rw [hq, ha]
  rfl

/-- Settles O53: each access by the branch of the home or the agent that serves it. -/
theorem hostAccesses : Obligations.HostAccesses := by
  intro s hs p pa line d excl r u q
  refine ⟨fun hk => ⟨?_, ?_⟩, fun hk hb hf => ⟨fun bs ho hd hr hp => ?_, fun ho => ⟨fun hz hu => ?_, fun hz hu hw hkey => ?_⟩⟩,
    fun x hx hi hn hb => ?_, fun hq => ⟨fun hn i hi => ?_, fun a ha hh hp => ⟨?_, ?_, ?_⟩⟩, fun a k ha hk hb => ?_⟩
  · have e : hostRead s p s.arg.offset excl = (s.emit (.memData p s.arg.offset poisonBytes true), true) := if_pos (by rw [hk]; rfl)
    show execHostRead s = _
    unfold execHostRead
    rw [show hostRead s s.arg.port s.arg.offset (s.arg.grant != .shared) = _ from e]
    exact congrArg Host.Outcome.next (finish_settled hs)
  · have e : hostWrite s p s.arg.offset s.arg.bytes = ((logError s 1 4 0x0108 (Port.idx p) 0 pa).emit (.memDone p s.arg.offset), true) :=
      if_pos (by rw [hk]; rfl)
    obtain ⟨h, hc⟩ := reports_logError s 1 4 0x0108 (Port.idx p) 0 pa
    refine answers_of_finish (u := (logError s 1 4 0x0108 (Port.idx p) 0 pa).emit (.memDone p s.arg.offset)) ?_ (h.settled hs)
      ⟨h.work, List.mem_append_right _ List.mem_cons_self, congrArg (fun c => c.2.1) hc⟩
    show execHostWrite s = _
    unfold execHostWrite
    rw [show hostWrite s s.arg.port s.arg.offset s.arg.bytes = _ from e]
  · obtain ⟨v, e, h1, h2, h3⟩ := hostRead_gives (pa := pa) rfl hk (hostWaits_none hb hf ho) (dirRoom_of hd) rfl hp
    refine answers_of_finish (u := v) ?_ ((congrArg Sched.raised h1).trans hr) ⟨h2, h3⟩
    show execHostRead s = _
    unfold execHostRead
    rw [show hostRead s s.arg.port s.arg.offset (s.arg.grant != .shared) = _ from e]
  · have e := hostWrite_makes (pa := pa) s.arg.bytes rfl hk (hostWaits_none hb hf ho)
    have hby : hostBytes u p pa s.arg.bytes = logError u 1 4 0x0102 (Port.idx p) 0 pa := if_pos hz
    refine answers_of_finish (u := (logError u 1 4 0x0102 (Port.idx p) 0 pa).emit (.memDone p s.arg.offset)) ?_ (discarded_settled hu _ _ _)
      (discarded_write u p s.arg.offset pa)
    show execHostWrite s = _
    unfold execHostWrite
    rw [show hostWrite s s.arg.port s.arg.offset s.arg.bytes = _ from e, show hostBytes (takeForHost s (lineOf pa)) p pa s.arg.bytes = _ from hby]
  · have e := hostWrite_makes (pa := pa) s.arg.bytes rfl hk (hostWaits_none hb hf ho)
    obtain ⟨key, hkey⟩ := Option.isSome_iff_exists.1 hkey
    refine answers_of_finish (u := (hostBytes u p pa s.arg.bytes).emit (.memDone p s.arg.offset)) ?_ (settled_emit hu _)
      ⟨List.mem_append_right _ List.mem_cons_self, fun i hi => ?_⟩
    · show execHostWrite s = _
      unfold execHostWrite
      rw [show hostWrite s s.arg.port s.arg.offset s.arg.bytes = _ from e]
    · exact (homeRead_emit_wake _ _ _ i).trans (hostBytes_reads hz hw hkey (hostPa_aligned s _) hi)
  · obtain ⟨ds, e, h⟩ := birsp_clean hx hi hb
    refine answers_of_finish (u := updCoh s (fun c => { c with bisnp := c.bisnp.erase x, hostDir := ds })) ?_ hs ⟨⟨rfl, rfl, rfl, rfl⟩, rfl, h⟩
    show execBirsp s = _
    unfold execBirsp
    rw [hn, show birsp s s.arg.port s.arg.offset [] = _ from e]
  · have e := hostSnoop_none (p := p) rfl hn
    have hm : OutMsg.snpResp p line [] ∈ (q.emit (.snpResp p line [])).wake.out := List.mem_append_right _ List.mem_cons_self
    rcases hi with rfl | rfl | rfl
    · exact answers_of_finish (congrArg (fun u => Host.Outcome.next (finish u)) (e .snpdata)) (settled_emit hq _) hm
    · exact answers_of_finish (congrArg (fun u => Host.Outcome.next (finish u)) (e .snpinv)) (settled_emit hq _) hm
    · exact answers_of_finish (congrArg (fun u => Host.Outcome.next (finish u)) (e .snpcur)) (settled_emit hq _) hm
  · obtain ⟨v, e, h1, -, h2, -⟩ := hostSnoop_holds (p := p) (k := .snpdata) rfl ha hh hp
    refine answers_of_finish (congrArg (fun u => Host.Outcome.next (finish u)) e) ((congrArg Sched.raised h1).trans hq)
      ⟨List.mem_append_right _ List.mem_cons_self, ?_⟩
    exact congrArg (Option.map (·.st)) (h2 rfl)
  · obtain ⟨v, e, h1, -, -, h2⟩ := hostSnoop_holds (p := p) (k := .snpinv) rfl ha hh hp
    exact answers_of_finish (congrArg (fun u => Host.Outcome.next (finish u)) e) ((congrArg Sched.raised h1).trans hq)
      ⟨List.mem_append_right _ List.mem_cons_self, h2 rfl⟩
  · obtain ⟨v, e, h1, h2, -⟩ := hostSnoop_holds (p := p) (k := .snpcur) rfl ha hh hp
    exact answers_of_finish (congrArg (fun u => Host.Outcome.next (finish u)) e) ((congrArg Sched.raised h1).trans hq)
      ⟨List.mem_append_right _ List.mem_cons_self, h2 rfl⟩
  · obtain ⟨hd, hl, hw⟩ := agentAt_some ha
    obtain ⟨m, sl, po, sp, c, e1⟩ := homeWrite_eq s line 0 (sliceBytes s.arg.bytes 0 128)
    have hne : s.arg.bytes.isEmpty = false := by simpa using hb
    have e : hostAnswer s line s.arg.bytes s.arg.grant = setAgent { s with mem := m, slices := sl, poison := po, slicePoison := sp, ecc1 := c }
        { a with
          st := if k == .rd && s.arg.grant == .shared then .s else .e
          data := { bytes := sliceBytes s.arg.bytes 0 128, poison := 0, depth := 0 }, pending := none } := by
      unfold hostAnswer
      dsimp only
      rw [ha]
      dsimp only
      rw [hk]
      dsimp only
      rw [hne, if_neg (by simp), if_neg (by simp), e1]
    refine answers_of_finish (congrArg (fun u => Host.Outcome.next (finish u)) e) hs ?_
    have h := agentAt_setAgent (s := { s with mem := m, slices := sl, poison := po, slicePoison := sp, ecc1 := c })
      (a := { a with
        st := if k == .rd && s.arg.grant == .shared then .s else .e
        data := { bytes := sliceBytes s.arg.bytes 0 128, poison := 0, depth := 0 }, pending := none }) hd hl hw
    refine (congrArg (Option.map (fun b : Agent => (b.st, b.data.bytes, b.pending))) h).trans ?_
    simp

end Sys2Proof.Machine
end

section
namespace Sys2Proof.Machine

/-! ### Flits (R32) -/

/-- The fields of a header of which each is in its range. -/
def headerNat (kind seq ack vc credit : Nat) : Nat := kind % 8 * 2 ^ 29 + seq % 512 * 2 ^ 20 + ack % 512 * 2 ^ 11 + vc % 8 * 2 ^ 8 + credit % 256

/-- A frame of 480 bits and a checksum above it. -/
def framed (body : BitVec 480) (crc : BitVec 32) : BitVec 512 := body.setWidth 512 ||| (crc.setWidth 512 <<< 480)

theorem extract_framed_low (body : BitVec 480) (crc : BitVec 32) (i n : Nat) (h : i + n ≤ 480) :
    (framed body crc).extractLsb' i n = body.extractLsb' i n := by
  refine BitVec.eq_of_getLsbD_eq (fun j hj => ?_)
  simp only [framed, BitVec.getLsbD_extractLsb', BitVec.getLsbD_or, BitVec.getLsbD_setWidth, BitVec.getLsbD_shiftLeft]
  have h1 : i + j < 480 := by omega
  have h2 : i + j < 512 := by omega
  simp [hj, h1, h2]

theorem extract_framed_crc (body : BitVec 480) (crc : BitVec 32) : (framed body crc).extractLsb' 480 32 = crc := by
  refine BitVec.eq_of_getLsbD_eq (fun j hj => ?_)
  simp only [framed, BitVec.getLsbD_extractLsb', BitVec.getLsbD_or, BitVec.getLsbD_setWidth, BitVec.getLsbD_shiftLeft]
  have h2 : 480 + j < 512 := by omega
  have h3 : j < 512 := by omega
  simp [hj, h2, h3]

theorem flitOf_eq (kind seq ack vc credit : Nat) (payload : BitVec 448) : ∃ body : BitVec 480,
    body.extractLsb' 0 32 = BitVec.ofNat 32 (headerNat kind seq ack vc credit) ∧
    flitOf kind seq ack vc credit payload = framed body (crc32c ((List.range 60).map (fun i => body.extractLsb' (8 * i) 8))) := by
  refine ⟨(BitVec.ofNat 32 (headerNat kind seq ack vc credit)).setWidth 480 ||| (payload.setWidth 480 <<< 32), ?_, rfl⟩
  refine BitVec.eq_of_getLsbD_eq (fun j hj => ?_)
  rw [BitVec.getLsbD_extractLsb', BitVec.getLsbD_or, BitVec.getLsbD_setWidth, BitVec.getLsbD_shiftLeft, Nat.zero_add]
  have h1 : j < 480 := by omega
  simp [hj, h1]

theorem flitHeader_flitOf (kind seq ack vc credit : Nat) (payload : BitVec 448) :
    flitHeader (flitOf kind seq ack vc credit payload) = headerNat kind seq ack vc credit := by
  obtain ⟨body, hb, e⟩ := flitOf_eq kind seq ack vc credit payload
  unfold flitHeader
  rw [e, extract_framed_low _ _ _ _ (by omega), hb, BitVec.toNat_ofNat]
  unfold headerNat
  omega

theorem take_flitBytes (f : BitVec 512) : (flitBytes f).take 60 = (List.range 60).map (fun i => f.extractLsb' (8 * i) 8) := by
  unfold flitBytes
  rw [← List.map_take, List.take_range]
  rfl

/-- The checksum of a flit that was made is that of its bytes. -/
theorem crc_flitOf (kind seq ack vc credit : Nat) (payload : BitVec 448) : let x := flitOf kind seq ack vc credit payload
    crc32c ((flitBytes x).take 60) = x.extractLsb' 480 32 := by
  obtain ⟨body, -, e⟩ := flitOf_eq kind seq ack vc credit payload
  dsimp only
  rw [e, take_flitBytes, extract_framed_crc]
  refine congrArg crc32c (List.map_congr_left (fun i hi => extract_framed_low _ _ _ _ ?_))
  have := List.mem_range.1 hi
  omega

/-- A flit is read as it was made (R32). -/
theorem flit_roundTrip {kind seq ack vc credit : Nat} (payload : BitVec 448) (hk : kind < 7) (hs : seq < 512) (ha : ack < 512) (hv : vc < 6)
    (hc : credit < 64) : let x := flitOf kind seq ack vc credit payload
    flitGood x = true ∧ flitKind x = kind ∧ flitSeq x = seq ∧ flitAck x = ack ∧ flitVc x = vc ∧ flitCredit x = credit := by
  intro x
  have hh : flitHeader x = kind * 2 ^ 29 + seq * 2 ^ 20 + ack * 2 ^ 11 + vc * 2 ^ 8 + credit := by
    rw [flitHeader_flitOf]
    unfold headerNat
    omega
  have fields : flitKind x = kind ∧ flitSeq x = seq ∧ flitAck x = ack ∧ flitVc x = vc ∧ flitCredit x = credit := by
    simp only [flitKind, flitSeq, flitAck, flitVc, flitCredit, hh, bitsOf]
    omega
  obtain ⟨fk, fs, fa, fv, fc⟩ := fields
  refine ⟨?_, fk, fs, fa, fv, fc⟩
  unfold flitGood
  have crc : crc32c ((flitBytes x).take 60) = x.extractLsb' 480 32 := crc_flitOf kind seq ack vc credit payload
  rw [fk, fv, fc, crc]
  simp [hk, hv, hc]

/-! ### Routes (R27, R31) -/

theorem straight_direct {s : State} {d : Nat} (hl : ∀ r c x y, linkLives s (.grid d r c x y) = true) (a b : Nat × Nat) :
    straight s d a b = some (if a = b then [] else [.grid d a.1 a.2 b.1 b.2]) := by
  unfold straight
  by_cases h : a = b
  · simp [h]
  · simp [h, hl]

theorem gridRoute_direct {s : State} {d : Nat} (hl : ∀ r c x y, linkLives s (.grid d r c x y) = true) (a b : Nat × Nat) :
    gridRoute s d a b = some ((if a.2 = b.2 then [] else [.grid d a.1 a.2 a.1 b.2]) ++
      (if a.1 = b.1 then [] else [.grid d a.1 b.2 b.1 b.2])) := by
  unfold gridRoute
  rw [straight_direct hl, straight_direct hl]
  obtain ⟨a1, a2⟩ := a
  obtain ⟨b1, b2⟩ := b
  simp only [Prod.mk.injEq, true_and, and_true]
  rfl

theorem length_peerPorts (k : Nat) : (peerPorts k).length = 4 := by
  unfold peerPorts
  split_ifs <;> rfl

/-- The first choice of a list of ports is taken where it is in service. -/
theorem pickPort_first {α : Type} {ports : List α} {i : Nat} {ok : α → Bool} (d : α) (hi : i < ports.length) (h : ok (ports.getD i d) = true) :
    pickPort ports i ok = some (ports.getD i d) := by
  unfold pickPort
  rw [Nat.mod_eq_of_lt hi, List.drop_eq_getElem_cons hi]
  rw [List.getD_eq_getElem _ _ hi] at h ⊢
  exact List.find?_cons_of_pos h

theorem bridgeFor_selects {s : State} {d k pa col : Nat} (h : let x := (peerPorts k).getD (bitsOf pa 8 7) (0, 0)
    linkLives s (.bridge d x.1 x.2) = true) : bridgeFor s d k (some pa) col = some ((peerPorts k).getD (bitsOf pa 8 7) (0, 0)) := by
  unfold bridgeFor
  exact pickPort_first (ok := fun x => linkLives s (.bridge d x.1 x.2)) (0, 0)
    (by rw [length_peerPorts]; unfold bitsOf; exact Nat.mod_lt _ (by decide)) h

/-! ### Changes to the fabric alone -/

/-- Nothing that runs has changed, and no trigger has been left. -/
def Idles (s t : State) : Prop := SameWork s t ∧ t.sched = s.sched

theorem Idles.refl (s : State) : Idles s s := ⟨⟨rfl, rfl, rfl, rfl⟩, rfl⟩

theorem Idles.trans {s t u : State} (h : Idles s t) (g : Idles t u) : Idles s u := ⟨SameWork.trans h.1 g.1, g.2.trans h.2⟩

theorem Idles.settled {s t : State} (h : Idles s t) (hs : s.Settled) : t.Settled := (congrArg Sched.raised h.2).trans hs

theorem Conveys.idles {s t : State} (h : Conveys s t) : Idles s t :=
  ⟨⟨h.keeps State.mem (fun _ _ _ _ => rfl), h.keeps State.slices (fun _ _ _ _ => rfl), h.keeps State.hatches (fun _ _ _ _ => rfl),
    h.keeps State.ops (fun _ _ _ _ => rfl)⟩, h.keeps State.sched (fun _ _ _ _ => rfl)⟩

theorem Reports.idles {s t : State} (h : Reports s t) : Idles s t := ⟨h.work, h.sched⟩

theorem idles_updLink (s : State) (id : LinkId) (f : Link → Link) : Idles s (s.updLink id f) := .refl s
theorem idles_setRouter (s : State) (r : RouterId) (st : RouterState) : Idles s (setRouter s r st) := .refl s

theorem idles_updEnds (s : State) (id : LinkId) (f : Link → Link) : Idles s (updEnds s id f) := by
  obtain ⟨ls, e⟩ := updEnds_eq s id f
  rw [e]
  exact .refl s

theorem link_of_fab {s t : State} (h : t.fab = s.fab) (id : LinkId) : t.link id = s.link id :=
  congrArg (fun f : Fabric => (f.links.find? (fun l : Link => l.id == id)).getD (Link.reset id .up)) h

theorem Reports.link {s t : State} (h : Reports s t) (id : LinkId) : t.link id = s.link id :=
  link_of_fab (h.keeps State.fab (fun _ _ => rfl)) id

theorem link_updLink_self (s : State) (id : LinkId) {f : Link → Link} (hf : ∀ l, (f l).id = l.id) : (s.updLink id f).link id = f (s.link id) := by
  rw [link_updLink s id id hf, if_pos rfl]

/-- An event that ends with a change to the fabric. -/
theorem Idles.answers {i : Instr} {s u : State} {P : State → Prop} (h : Idles s u) (hs : s.Settled) (he : exec i s = .next (finish u))
    (hp : P u.wake) : Answers i s (fun t => SameWork s t ∧ P t) := answers_of_finish he (h.settled hs) ⟨h.1, hp⟩

/-! ### Acknowledgements and replay (R32, R33) -/

/-- An ACK or NACK names the last good flit. -/
theorem emitControl_spec (s : State) (id : LinkId) (kind : Nat) : Idles s (emitControl s id kind) ∧
    (emitControl s id kind).link id = payCredits (s.link id) ∧
    ∃ credit, OutMsg.flit id (flitOf kind 0 (s.link id).lastGood 0 credit 0) ∈ (emitControl s id kind).out :=
  ⟨.refl s, link_updLink_self s id (by intro; rfl), _, List.mem_append_right _ List.mem_cons_self⟩

/-- A link end once the flits up to the i-th that it holds are acknowledged. -/
def Link.acked (i now : Nat) (l : Link) : Link := { l with held := l.held.drop (i + 1), replays := 0, ackAt := now }

theorem ackFlits_of_empty {s : State} (h : s.fab.packets = []) (fs : List HeldFlit) : ackFlits s fs = s := by
  unfold ackFlits
  induction fs with
  | nil => rfl
  | cons f fs ih =>
    rw [List.foldl_cons, h]
    exact ih

theorem takeAck_some {s : State} {id : LinkId} {seq i : Nat} (hp : s.fab.packets = []) (hi : ((s.link id).held.map (·.seq)).idxOf? seq = some i) :
    takeAck s id seq = s.updLink id (Link.acked i s.clock) := by
  unfold takeAck
  rw [hi]
  exact (congrArg pump (ackFlits_of_empty (s := s.updLink id (Link.acked i s.clock)) hp _)).trans (pump_of_empty hp)

/-- With no packet under way an acknowledgement changes nothing but the flits that the link end holds. -/
theorem takeAck_of_empty {s : State} (hp : s.fab.packets = []) (id : LinkId) (seq : Nat) : Idles s (takeAck s id seq) ∧
    (takeAck s id seq).fab.packets = [] ∧ ∃ held n a, (takeAck s id seq).link id = { s.link id with
      held := held
      replays := n
      ackAt := a } := by
  cases hi : ((s.link id).held.map (·.seq)).idxOf? seq with
  | none =>
    have e : takeAck s id seq = s := by unfold takeAck; rw [hi]
    rw [e]
    exact ⟨.refl s, hp, _, _, _, rfl⟩
  | some i =>
    rw [takeAck_some hp hi]
    exact ⟨.refl s, hp, _, _, _, link_updLink_self s id (by intro; rfl)⟩

theorem conveys_ackFlits (s : State) (fs : List HeldFlit) : Conveys s (ackFlits s fs) := by
  refine conveys_foldl _ (fun s f => ?_) fs s
  split
  · exact .refl s
  · exact conveys_ite (conveys_dropPacket s _) (conveys_updPacket s _ _)

theorem conveys_takeAck {s : State} {id : LinkId} (hu : (s.link id).state = .up) (seq : Nat) : Conveys s (takeAck s id seq) := by
  unfold takeAck
  split
  · exact .refl s
  next i _ =>
    refine .trans (conveys_updLink (f := Link.acked i s.clock) (by intro; rfl) ⟨rfl, rfl, fun h => absurd hu h⟩) ?_
    exact (conveys_ackFlits _ _).trans (conveys_pump _)

/-- A replay counts; a port's held flits are sent again (R33). -/
theorem replayLink_spec (s : State) (id : LinkId) : Idles s (replayLink s id) ∧
    ((replayLink s id).link id).state = (s.link id).state ∧ ((replayLink s id).link id).half = (s.link id).half ∧
    ((replayLink s id).link id).held = (s.link id).held ∧
    ((replayLink s id).link id).replayCount = satInc (s.link id).replayCount ∧
    (peerEnd id = none → ∀ x ∈ (s.link id).held, OutMsg.flit id (heldBits (s.link id) x) ∈ (replayLink s id).out) := by
  unfold replayLink
  extract_lets l u count
  have emits : ∀ (fs : List HeldFlit) (v : State), ∃ o, fs.foldl (fun s f => s.emit (.flit id (heldBits l f))) v = { v with out := v.out ++ o } ∧
      ∀ x ∈ fs, OutMsg.flit id (heldBits l x) ∈ o := by
    intro fs
    induction fs with
    | nil => exact fun v => ⟨[], by simp, by simp⟩
    | cons f fs ih =>
      intro v
      obtain ⟨o, e, ho⟩ := ih (v.emit (.flit id (heldBits l f)))
      refine ⟨.flit id (heldBits l f) :: o, ?_, fun x hx => ?_⟩
      · rw [List.foldl_cons, e]
        simp [State.emit]
      · rcases List.mem_cons.1 hx with rfl | hx
        · exact List.mem_cons_self
        · exact List.mem_cons_of_mem _ (ho x hx)
  have hu : Idles s u ∧ (u.link id = l ∨ u.link id = payCredits l) ∧
      (peerEnd id = none → ∀ x ∈ l.held, OutMsg.flit id (heldBits l x) ∈ u.out) := by
    unfold u
    split
    next h =>
      refine ⟨.refl s, .inl rfl, fun hn x hx => ?_⟩
      rw [hn] at h
      have : l.held = [] := by simpa using h
      rw [this] at hx
      cases hx
    · obtain ⟨o, e, ho⟩ := emits l.held (s.updLink id payCredits)
      rw [e]
      exact ⟨.refl s, .inr (link_updLink_self s id (by intro; rfl)), fun _ x hx => List.mem_append_right _ (ho x hx)⟩
  obtain ⟨hi, hl, ho⟩ := hu
  have hr := (reports_logError (u.updLink id count) 0 1 0x0002 (linkWhere id) 0 0).1
  have hk : (logError (u.updLink id count) 0 1 0x0002 (linkWhere id) 0 0).link id = count (u.link id) := by
    rw [hr.link id, link_updLink_self u id (by intro; rfl)]
  obtain ⟨o, hout⟩ := hr.out
  refine ⟨(hi.trans (idles_updLink u id count)).trans hr.idles, ?_⟩
  rw [hk, hout]
  rcases hl with e | e <;> rw [e] <;>
    exact ⟨rfl, rfl, rfl, rfl, fun hn x hx => List.mem_append_left _ (ho hn x hx)⟩

theorem replayOrTrain_replays {s : State} {id : LinkId} (hh : (s.link id).held ≠ []) (hr : (s.link id).replays < 8) :
    replayOrTrain s id = replayLink s id := by
  unfold replayOrTrain
  dsimp only
  rw [if_neg (by simpa using hh), if_neg (Nat.not_le.2 hr)]

theorem replayOrTrain_trains {s : State} {id : LinkId} (hh : (s.link id).held ≠ []) (hr : 8 ≤ (s.link id).replays) :
    replayOrTrain s id = s.post .retrainStart { link := id } := by
  unfold replayOrTrain
  dsimp only
  rw [if_neg (by simpa using hh), if_pos hr]

/-! ### FLIT_RECEIVE -/

/-- A good flit of the sequence, with no packet under way, is accepted and acknowledged. -/
theorem receiveFlit_next {s : State} {id : LinkId} {f : BitVec 512} (hg : flitGood f = true) (h1 : 1 ≤ flitKind f) (h4 : flitKind f ≤ 4)
    (hq : flitSeq f = ((s.link id).lastGood + 1) % 512) (hp : s.fab.packets = []) :
    Idles s (receiveFlit s id f) ∧ ((receiveFlit s id f).link id).lastGood = flitSeq f ∧
      ∃ credit, OutMsg.flit id (flitOf 5 0 (flitSeq f) 0 credit 0) ∈ (receiveFlit s id f).out := by
  unfold receiveFlit
  extract_lets u v
  have hu : Idles s u := idles_updLink s id _
  have lu : (u.link id).lastGood = (s.link id).lastGood := by
    rw [show u.link id = _ from link_updLink_self s id (by intro; rfl)]
  rw [if_neg (by rw [hg]; decide)]
  have hc : Idles u (takeCredits u id (flitCredit f)) := idles_updLink u id _
  have lc : ((takeCredits u id (flitCredit f)).link id).lastGood = (u.link id).lastGood := by
    unfold takeCredits
    rw [link_updLink_self u id (by intro; rfl)]
  obtain ⟨ha, pa, held, n, a, la⟩ := takeAck_of_empty (s := takeCredits u id (flitCredit f)) hp id (flitAck f)
  have hv : v = takeAck (takeCredits u id (flitCredit f)) id (flitAck f) := pump_of_empty pa
  rw [← hv] at ha la
  have lv : (v.link id).lastGood = (s.link id).lastGood := (congrArg Link.lastGood la).trans (lc.trans lu)
  rw [if_neg (by simp only [kindNack, beq_iff_eq]; omega), if_pos (by simp [flitCounts, h1, h4])]
  unfold takeFlit
  dsimp only
  rw [if_pos (by rw [lv, hq]; exact beq_self_eq_true _)]
  generalize hw : v.updLink id _ = w
  have lw : (w.link id).lastGood = flitSeq f := by rw [← hw]; exact congrArg Link.lastGood (link_updLink_self v id (by intro; rfl))
  have iw : Idles v w := by rw [← hw]; exact idles_updLink v id _
  obtain ⟨ie, le, c, hc'⟩ := emitControl_spec w id kindAck
  refine ⟨hu.trans (hc.trans (ha.trans (iw.trans ie))), ?_, c, by rw [lw] at hc'; exact hc'⟩
  rw [le]
  exact lw

/-- A flit with a CRC error is counted and answered with a NACK. -/
theorem crcError_spec (s : State) (id : LinkId) : Idles s (crcError s id) ∧ ((crcError s id).link id).crc = satInc (s.link id).crc ∧
    ((crcError s id).link id).discarding = true ∧ ((crcError s id).link id).lastGood = (s.link id).lastGood ∧
    ∃ credit, OutMsg.flit id (flitOf 6 0 (s.link id).lastGood 0 credit 0) ∈ (crcError s id).out := by
  unfold crcError
  extract_lets note u
  have ln : (s.updLink id note).link id = note (s.link id) := link_updLink_self s id (by intro; rfl)
  obtain ⟨ie, le, c, hc⟩ := emitControl_spec (s.updLink id note) id kindNack
  rw [ln] at le hc
  have all : Idles s u ∧ (u.link id).crc = satInc (s.link id).crc ∧ (u.link id).discarding = true ∧
      (u.link id).lastGood = (s.link id).lastGood ∧ ∃ credit, OutMsg.flit id (flitOf 6 0 (s.link id).lastGood 0 credit 0) ∈ u.out := by
    refine ⟨(idles_updLink s id note).trans ie, ?_⟩
    rw [le]
    exact ⟨rfl, rfl, rfl, c, hc⟩
  split
  · exact all
  · exact all

/-- A flit with a CRC error, as it is received. -/
theorem receiveFlit_bad {s : State} {id : LinkId} {f : BitVec 512} (hg : flitGood f = false) :
    Idles s (receiveFlit s id f) ∧ ((receiveFlit s id f).link id).crc = satInc (s.link id).crc ∧
    ((receiveFlit s id f).link id).discarding = true ∧ ((receiveFlit s id f).link id).lastGood = (s.link id).lastGood ∧
    ∃ credit, OutMsg.flit id (flitOf 6 0 (s.link id).lastGood 0 credit 0) ∈ (receiveFlit s id f).out := by
  unfold receiveFlit
  dsimp only
  rw [if_pos (by rw [hg]; rfl)]
  generalize hw : s.updLink id _ = w
  have lw : (w.link id).crc = (s.link id).crc ∧ (w.link id).lastGood = (s.link id).lastGood := by
    rw [← hw]
    rw [link_updLink_self s id (by intro; rfl)]
    exact ⟨rfl, rfl⟩
  have iw : Idles s w := by rw [← hw]; exact idles_updLink s id _
  obtain ⟨ie, h⟩ := crcError_spec w id
  rw [lw.1, lw.2] at h
  exact ⟨iw.trans ie, h⟩

/-- A flit that a link in service takes, where its router is active. -/
theorem exec_flitReceive {s : State} (hu : linkUp s s.arg.link = true)
    (hr : linkRouter s.arg.link = none ∨ ∃ r, linkRouter s.arg.link = some r ∧ (s.router r).state = .active) :
    ∃ v, Idles s v ∧ v.link s.arg.link = s.link s.arg.link ∧ v.fab.packets = s.fab.packets ∧
      exec .flitReceive s = .next (finish (receiveFlit v s.arg.link s.arg.flit)) := by
  rcases hr with h | ⟨r, h, ha⟩
  · refine ⟨s, .refl s, rfl, rfl, ?_⟩
    show execFlitReceive s = _
    unfold execFlitReceive
    dsimp only
    rw [if_neg (by rw [hu]; decide), h]
  · refine ⟨setRouter s r .active, .refl s, rfl, rfl, ?_⟩
    show execFlitReceive s = _
    unfold execFlitReceive
    dsimp only
    rw [if_neg (by rw [hu]; decide), h]
    dsimp only
    rw [if_pos (by rw [ha]; rfl)]

/-! ### Retraining (R34, R35) -/

/-- A link whose other end is another one changes once, and so does that end. -/
theorem link_updEnds_apart (s : State) {id : LinkId} (hp : peerEnd id ≠ some id) {f : Link → Link} (hf : ∀ l, (f l).id = l.id) :
    (updEnds s id f).link id = f (s.link id) ∧ ∀ e, peerEnd id = some e → (updEnds s id f).link e = f (s.link e) := by
  unfold updEnds
  cases h : peerEnd id with
  | none => exact ⟨link_updLink_self s id hf, fun e he => by cases he⟩
  | some e =>
    have hne : e ≠ id := fun he => hp (he ▸ h)
    rw [Option.elim_some]
    refine ⟨?_, fun x hx => ?_⟩
    · rw [link_updLink _ e id hf, if_neg (Ne.symm hne), link_updLink_self s id hf]
    · cases hx
      rw [link_updLink_self _ e hf, link_updLink s id e hf, if_neg hne]

/-- A link that resumes is up, at half width where it was or where the lane test says so. -/
theorem resumeLink_spec (s : State) (id : LinkId) (g : BitVec 8) (half : Bool) : Idles s (resumeLink s id g half) ∧
    ((resumeLink s id g half).link id).state = .up ∧ ((resumeLink s id g half).link id).half = ((s.link id).half || half) := by
  unfold resumeLink
  extract_lets u _ v
  have hu : Idles s u := idles_updEnds s id _
  have lu : (u.link id).state = .up ∧ (u.link id).half = ((s.link id).half || half) := by
    refine ⟨updEnds_gives (F := Link.state) s id (by intro; rfl) (by intro; rfl), ?_⟩
    rcases link_updEnds s id (f := fun l => { l with
      state := .up
      half := l.half || half
      ackAt := s.clock }) (by intro; rfl) with e | e
    · rw [show u.link id = _ from e]
    · rw [show u.link id = _ from e]
      simp only [Bool.or_assoc, Bool.or_self]
  have hv : Idles u v ∧ v.link id = u.link id := by
    unfold v
    split
    · exact ⟨.refl u, rfl⟩
    · exact ⟨.refl u, rfl⟩
  obtain ⟨ir, sr, hr, -⟩ := replayLink_spec v id
  have hw : ∀ w : State, Idles v w → (w.link id).state = (v.link id).state → (w.link id).half = (v.link id).half →
      Idles s (pump w) ∧ ((pump w).link id).state = .up ∧ ((pump w).link id).half = ((s.link id).half || half) := by
    intro w iw sw hw
    have hp := conveys_pump w
    refine ⟨hu.trans (hv.1.trans (iw.trans hp.idles)), ?_, ?_⟩
    · rw [(hp.links id).state, sw, hv.2, lu.1]
    · rw [(hp.links id).half, hw, hv.2, lu.2]
  split
  · exact hw v (.refl v) rfl rfl
  · exact hw _ ir sr hr

/-- A link that goes down holds no flit any more. -/
theorem linkDown_spec (s : State) (id : LinkId) : (linkDown s id).sched = s.sched ∧
    ((linkDown s id).link id).state = .down ∧ ((linkDown s id).link id).held = [] := by
  unfold linkDown
  extract_lets u
  have hr := (reports_logError (updEnds s id (fun l => { l with
    state := .down
    held := []
    replays := 0 })) 1 1 0x0105 (linkWhere id) 0 0).1
  have su : u.sched = s.sched := hr.sched.trans (idles_updEnds s id _).2
  have lu : (u.link id).state = .down ∧ (u.link id).held = [] := by
    rw [show u.link id = _ from hr.link id]
    exact ⟨updEnds_gives (F := Link.state) s id (by intro; rfl) (by intro; rfl),
      updEnds_gives (F := Link.held) s id (by intro; rfl) (by intro; rfl)⟩
  have hw : ∀ w : State, w.sched = u.sched → w.link id = u.link id → (reroute w).sched = s.sched ∧
      ((reroute w).link id).state = .down ∧ ((reroute w).link id).held = [] := by
    intro w sw lw
    have hp := conveys_reroute w
    have hl := hp.links id
    refine ⟨hp.idles.2.trans (sw.trans su), ?_, ?_⟩
    · rw [hl.state, lw, lu.1]
    · rw [hl.held (by rw [lw, lu.1]; decide), lw, lu.2]
  split
  · exact hw _ rfl rfl
  · exact hw _ rfl rfl

/-- RETRAIN_DONE, where the lane test has taken its time. -/
theorem exec_retrainDone {s : State} (hl : (s.link s.arg.link).state = .retraining)
    (ht : (s.link s.arg.link).since + retrainTime s.arg.link ≤ s.clock) : ∃ u, Idles s u ∧
      (u.link s.arg.link).half = (s.link s.arg.link).half ∧
      exec .retrainDone s = .next (finish (match widthOf s.arg.link (goodLanes s.arg.lanes) with
        | .full => resumeLink u s.arg.link (goodLanes s.arg.lanes) false
        | .half => resumeLink u s.arg.link (goodLanes s.arg.lanes) true
        | .none => linkDown (match s.arg.link with
          | .ulain p => { u with fab := { u.fab with
              ulain := u.fab.ulain.modify p (fun (x : UlainPort) => { x with good := goodLanes s.arg.lanes }) } }
          | _ => u) s.arg.link)) := by
  refine ⟨_, idles_updEnds s s.arg.link (fun l => { l with laneFails := countLanes (goodLanes s.arg.lanes) l.laneFails }),
    updEnds_leaves (F := Link.half) s _ (by intro; rfl) (by intro; rfl), ?_⟩
  show execRetrainDone s = _
  unfold execRetrainDone
  dsimp only
  rw [if_neg (by rw [hl]; decide), if_neg (Nat.not_lt.2 ht)]
  cases widthOf s.arg.link (goodLanes s.arg.lanes) <;> rfl

/-! ### Ulain ports and forwarding (R36, R39, R40) -/

/-- A change to the port that the event names. -/
def trainPort (s : State) (f : UlainPort → UlainPort) : State :=
  { s with fab := { s.fab with ulain := s.fab.ulain.modify s.arg.uport f } }

/-- The link end of a port that has trained: as at reset, but for what it has counted. -/
def trainedLink (s : State) (p : Nat) : Link :=
  { Link.reset (.ulain p) .up with
    crc := (s.link (.ulain p)).crc
    replayCount := (s.link (.ulain p)).replayCount
    retrains := (s.link (.ulain p)).retrains
    laneFails := (s.link (.ulain p)).laneFails }

def trainedPort (a : Arg) (w : Width) (p : UlainPort) : UlainPort :=
  { p with
    state := .up
    peer := a.peer % 16
    good := a.good
    half := w == .half }

theorem answers_trainPort {i : Instr} {s v : State} {u : UlainPort} {f : UlainPort → UlainPort} (hs : s.Settled)
    (hu : s.fab.ulain[s.arg.uport]? = some u) (hi : Idles s v) (ha : v.arg = s.arg) (hv : v.fab.ulain = s.fab.ulain)
    (he : exec i s = .next (finish (trainPort v f))) :
    Answers i s (fun t => SameWork s t ∧ t.fab.ulain[s.arg.uport]? = some (f u)) := by
  refine (hi.trans (u := trainPort v f) (.refl v)).answers hs he ?_
  show (v.fab.ulain.modify v.arg.uport f)[s.arg.uport]? = _
  rw [hv, ha, List.getElem?_modify, hu]
  simp

/-- A port that has trained is up at the width of its good lanes, or down with none. -/
theorem answers_ulainTrained {s : State} (hs : s.Settled) {u : UlainPort} (hu : s.fab.ulain[s.arg.uport]? = some u) (ht : u.state = .training) :
    let w := widthOf (.ulain s.arg.uport) s.arg.good
    Answers .ulainTrained s (fun t => SameWork s t ∧ ∃ v, t.fab.ulain[s.arg.uport]? = some v ∧ v.good = s.arg.good ∧
      v.state = (if w = .none then .down else .up) ∧ v.half = decide (w = .half)) := by
  intro w
  have hg : s.fab.ulain.getD s.arg.uport UlainPort.reset = u := by rw [List.getD_eq_getElem?_getD, hu]; rfl
  have goes : ∀ x, exec .ulainTrained s = .next (finish (if (s.fab.ulain.getD s.arg.uport UlainPort.reset).state != .training then s else x)) →
      exec .ulainTrained s = .next (finish x) := by
    intro x h
    rwa [hg, ht, if_neg (by decide)] at h
  have exec_up : w ≠ .none → exec .ulainTrained s =
      .next (finish (trainPort (s.updLink (.ulain s.arg.uport) (fun _ => trainedLink s s.arg.uport)) (trainedPort s.arg w))) := by
    intro hn
    refine goes _ ?_
    show execUlainTrained s = _
    unfold execUlainTrained
    dsimp only
    cases hw : w with
    | none => exact absurd hw hn
    | full => rw [show widthOf (.ulain s.arg.uport) s.arg.good = .full from hw]; rfl
    | half => rw [show widthOf (.ulain s.arg.uport) s.arg.good = .half from hw]; rfl
  by_cases hw : w = .none
  · obtain ⟨t, ht, hq, hp⟩ := answers_trainPort (i := .ulainTrained) (v := s) (f := fun p => { p with
      state := .down
      good := s.arg.good
      half := false }) hs hu (.refl s) rfl rfl (goes _ (by
        show execUlainTrained s = _
        unfold execUlainTrained
        dsimp only
        rw [show widthOf (.ulain s.arg.uport) s.arg.good = .none from hw]
        rfl))
    exact ⟨t, ht, hq, _, hp, rfl, (if_pos hw).symm, by rw [hw]; rfl⟩
  · obtain ⟨t, ht, hq, hp⟩ := answers_trainPort hs hu (idles_updLink s _ _) rfl rfl (exec_up hw)
    exact ⟨t, ht, hq, _, hp, rfl, (if_neg hw).symm, rfl⟩

theorem Reports.fab {s t : State} (h : Reports s t) : t.fab = s.fab := h.keeps State.fab (fun _ _ => rfl)

theorem wakeHeld_out (s : State) : (wakeHeld s).out = s.out := by
  have wakes : ∀ (s : State) (r : RouterId), (wakeRouter s r).out = s.out := by
    intro s r
    unfold wakeRouter
    split
    · rfl
    · rfl
    · split <;> rfl
    · rfl
  refine foldl_field State.out (fun s id => ?_) (pumpLinks s) s
  split
  · rfl
  · exact foldl_field State.out wakes (routersOf id) s

/-- The first flit of a packet that a Ulain port takes at once leaves with what it carries. -/
theorem pump_forwards {s : State} {p : Packet} {port chip pa hops : Nat} (hp : s.fab.packets = [p]) (hr : p.route = [.ulain port])
    (hs : p.size = 1) (h0 : p.sent = 0) (ho : p.out = false) (hc : p.cls = .req) (hk : p.cargo = .forward chip pa hops)
    (hu : linkUp s (.ulain port) = true) (hh : (s.link (.ulain port)).held.length < 256)
    (hc0 : (s.link (.ulain port)).credits.getD 0 0 ≠ 0) : OutMsg.ulain port chip pa (hops + 1) ∈ (pump s).out := by
  have links : pumpLinks s = [.ulain port] := by
    unfold pumpLinks
    rw [hp]
    simp [hs, h0, hr, dedup]
  have wake : wakeHeld s = s := by
    unfold wakeHeld
    rw [links]
    rfl
  have waits : ∀ c, (waitingFor s (.ulain port) c).head? = if c = .req then some p else none := by
    intro c
    unfold waitingFor
    rw [hp]
    by_cases h : c = .req
    · subst h
      simp [hr, hc, hs, h0]
    · have : (p.cls == c) = false := by rw [hc]; simpa using Ne.symm h
      simp [this, h]
  have arb : arbitrate s (.ulain port) = some p := by
    unfold arbitrate
    extract_lets l
    have hm : TrafficClass.req ∈ classes.drop l.turn ++ classes.take l.turn := by
      refine List.mem_append.2 (List.mem_append.1 ?_).symm
      rw [List.take_append_drop]
      decide
    have takes : ∀ c, (if l.credits.getD c.code 0 == 0 then none else (waitingFor s (.ulain port) c).head?) = if c = .req then some p else none := by
      intro c
      rw [waits c]
      by_cases h : c = .req
      · subst h
        exact if_neg (fun h => hc0 (eq_of_beq h))
      · rw [if_neg h]
        exact ite_self none
    simp only [takes]
    cases hf : (classes.drop l.turn ++ classes.take l.turn).findSome? (fun c => if c = .req then some p else none) with
    | none => exact absurd (List.findSome?_eq_none_iff.1 hf _ hm) (by simp)
    | some q =>
      obtain ⟨c, -, h⟩ := List.exists_of_findSome?_eq_some hf
      split at h
      · exact h.symm
      · cases h
  have once : pumpOnce s = some (sendFlit s (.ulain port) p) := by
    unfold pumpOnce
    rw [links, List.findSome?_cons, if_pos (by simp [linkReady, hu, hh, endsActive, routersOf, linkRouter, peerEnd]), arb]
    rfl
  have fuel : s.fab.packets.foldl (fun a p => a + p.size * p.route.length) 0 = 1 := by
    rw [hp]
    simp [hs, hr]
  have out : OutMsg.ulain port chip pa (hops + 1) ∈ (sendFlit s (.ulain port) p).out := by
    unfold sendFlit
    extract_lets l f s1 s2 s3 s4 s5
    show _ ∈ (if p.sent + 1 == p.size && !p.out then handOut (updPacket s5 p.id (fun q => { q with out := true })) port p else s5).out
    rw [if_pos (by rw [h0, hs, ho]; rfl)]
    unfold handOut
    rw [hk]
    exact List.mem_append_right _ List.mem_cons_self
  have all : pump s = wakeHeld (sendFlit s (.ulain port) p) := by
    unfold pump
    rw [if_neg (by rw [hp]; exact Bool.false_ne_true), fuel]
    unfold pumpN
    dsimp only
    rw [wake, once]
    rfl
  rw [all, wakeHeld_out]
  exact out

/-- An event that is posted is in flight, if need be as one that was put off. -/
theorem mem_postOnce (s : State) (i : Instr) (a : Arg) : (⟨i, a⟩ : Event) ∈ (s.postOnce i a).parked ++ (s.postOnce i a).net := by
  refine List.mem_append.2 (Or.symm ?_)
  unfold State.postOnce
  split
  next h => simpa using h
  · exact .inl <| List.mem_append_right _ List.mem_cons_self

/-- A forwarded packet that was lost is logged, and its package is failed (R36). -/
theorem settleLost_forward {s : State} (hs : s.Settled) {x : Packet} {chip pa hops : Nat} (hl : s.fab.lost = [x])
    (hx : x.cargo = .forward chip pa hops) : SameWork s (settleLost s) ∧
      (settleLost s).host.errNonfatal = satInc s.host.errNonfatal ∧
      ∃ m, (⟨.packageFailure, { chip := chip, uport := m }⟩ : Event) ∈ (settleLost s).net := by
  unfold settleLost
  rw [if_neg (by rw [hl]; exact Bool.false_ne_true), hl, List.foldl_cons, List.foldl_nil]
  generalize hu : ({ s with fab := { s.fab with lost := [] } } : State) = u
  have iu : Idles s u ∧ u.host = s.host := by rw [← hu]; exact ⟨.refl s, rfl⟩
  unfold losePacket
  rw [hx]
  dsimp only
  generalize lostWhere u x = w
  obtain ⟨hr, hc⟩ := reports_logError u 1 1 0x0106 w 0 0
  generalize logError u 1 1 0x0106 w 0 0 = v at hr hc ⊢
  generalize lostWhere v x = m
  have hm := mem_postOnce v .packageFailure { chip := chip, uport := m }
  obtain ⟨net, e⟩ := postOnce_eq v .packageFailure { chip := chip, uport := m }
  rw [e] at hm ⊢
  have iv : Idles s { v with net := net } := (iu.1.trans hr.idles).trans (.refl v)
  rw [finish_settled (iv.settled hs)]
  refine ⟨iv.1, ?_, m, hm⟩
  exact (congrArg (fun c => c.2.1) hc).trans (congrArg (fun h : HostIf => satInc h.errNonfatal) iu.2)

/-! ### Routers (R37, R38) -/

theorem router_of_find {s : State} {id : RouterId} {r : Router} (h : s.fab.routers.find? (fun x => x.id == id) = some r) : s.router id = r := by
  unfold State.router
  rw [h]
  rfl

theorem router_setRouter {s : State} {id : RouterId} {r : Router} (h : s.fab.routers.find? (fun x => x.id == id) = some r)
    (st : RouterState) : ((setRouter s id st).router id).state = st ∧ ((setRouter s id st).router id).since = s.clock := by
  have e : (setRouter s id st).router id = { r with
      state := st
      since := s.clock } := by
    refine router_of_find ((find?_updWhere_key Router.id (i := id) (by intro _ h; exact h) id s.fab.routers).trans ?_)
    rw [if_pos rfl, show s.fab.routers.find? (fun x => x.id == id) = some r from h]
    rfl
  rw [e]
  exact ⟨rfl, rfl⟩

end Sys2Proof.Machine

open Sys2Proof.Machine in
/-- Settles O50: links change through updLink and updEnds, and moving packets keeps whether a link is in service. -/
theorem linksAndRouters : Obligations.LinksAndRouters := by
  intro s hs id l f g answers again rid sets
  refine ⟨?_, ?_, ?_, ?_, ?_, ?_, ?_, ?_, ?_, ?_, ?_, ?_, ?_, ?_, ?_, ?_⟩
  · intro d a b pa hl
    unfold routeFrom
    dsimp only
    rw [if_pos (beq_self_eq_true d)]
    exact gridRoute_direct hl a b
  · intro d k pa col
    exact bridgeFor_selects
  · intro kind seq ack vc credit payload hk hq ha hv hc
    exact flit_roundTrip payload hk hq ha hv hc
  · intro hu hr
    obtain ⟨v, hi, hl, hp, he⟩ := exec_flitReceive hu hr
    refine ⟨fun hg h1 h4 hq h0 => ?_, fun hg => ?_⟩
    · obtain ⟨ir, lr, ho⟩ := receiveFlit_next (s := v) hg h1 h4 (by rw [hl]; exact hq) (hp.trans h0)
      exact (hi.trans ir).answers hs he ⟨lr, ho⟩
    · obtain ⟨ir, h⟩ := receiveFlit_bad (s := v) (id := s.arg.link) hg
      rw [hl] at h
      exact (hi.trans ir).answers hs he h
  · intro hu
    show execFlitReceive s = _
    unfold execFlitReceive
    dsimp only
    rw [if_pos (by rw [hu]; rfl), finish_settled hs]
  · intro i hp hi
    show Host.Outcome.next (finish (takeAck s s.arg.link (s.arg.seq % 512))) = _
    rw [takeAck_some hp hi, finish_settled (s := s.updLink s.arg.link (Link.acked i s.clock)) hs]
    rfl
  · intro hl hh hr
    have hc := conveys_takeAck (s := s) (id := s.arg.link) hl (s.arg.seq % 512)
    obtain ⟨ir, -, -, h⟩ := replayLink_spec (takeAck s s.arg.link (s.arg.seq % 512)) s.arg.link
    refine (hc.idles.trans ir).answers hs ?_ h
    show execNackReceive s = _
    unfold execNackReceive
    dsimp only
    rw [if_pos (by rw [show (s.link s.arg.link).state = _ from hl]; rfl), replayOrTrain_replays hh hr]
  · intro hl ha hh hr
    obtain ⟨ir, -, -, h⟩ := replayLink_spec s s.arg.link
    refine ir.answers hs ?_ h
    show execReplayTimeout s = _
    unfold execReplayTimeout
    dsimp only
    rw [if_pos (by rw [show (s.link s.arg.link).state = _ from hl]; simpa using ha), replayOrTrain_replays hh hr]
  · intro hl ha hh hr
    show execReplayTimeout s = _
    unfold execReplayTimeout
    dsimp only
    rw [if_pos (by rw [show (s.link s.arg.link).state = _ from hl]; simpa using ha), replayOrTrain_trains hh hr]
    exact congrArg Host.Outcome.next (finish_settled (s := s.post .retrainStart { link := s.arg.link }) hs)
  · intro hl ht hp
    have he : exec .retrainStart s = .next (finish (startRetrain s s.arg.link)) := by
      show execRetrainStart s = _
      unfold execRetrainStart
      dsimp only
      rw [if_pos (by rw [show (s.link s.arg.link).state = _ from hl, ht]; rfl)]
    have hi : Idles s (startRetrain s s.arg.link) := idles_updEnds s s.arg.link _
    refine hi.answers hs he ?_
    obtain ⟨e1, e2⟩ := link_updEnds_apart s hp (f := fun l => { l with
      state := .retraining
      since := s.clock
      retrains := satInc l.retrains
      winFlits := 0
      winErrors := []
      replays := 0
      discarding := false }) (by intro; rfl)
    exact ⟨congrArg Link.state e1, congrArg Link.since e1, congrArg Link.retrains e1, fun e he => congrArg Link.state (e2 e he)⟩
  · intro hl ht
    obtain ⟨u, iu, hu, he⟩ := exec_retrainDone (s := s) hl ht
    refine ⟨fun hw => ?_, fun hw => ?_⟩
    · have resumes : ∀ half, exec .retrainDone s = .next (finish (resumeLink u s.arg.link g half)) →
          decide (widthOf id g = .half) = half → Answers .retrainDone s (fun t => SameWork s t ∧ (t.link id).state = .up ∧
            (t.link id).half = (l.half || decide (widthOf id g = .half))) := by
        intro half hx hd
        obtain ⟨ir, h1, h2⟩ := resumeLink_spec u s.arg.link g half
        rw [hd]
        exact (iu.trans ir).answers hs hx ⟨h1, by rw [← hu]; exact h2⟩
      change exec .retrainDone s = .next (finish (match widthOf id g with
        | .full => _
        | .half => _
        | .none => _)) at he
      cases h : widthOf id g with
      | full => rw [h] at he resumes; exact resumes false he rfl
      | half => rw [h] at he resumes; exact resumes true he rfl
      | none => exact absurd h hw
    · change exec .retrainDone s = .next (finish (match widthOf id g with
        | .full => _
        | .half => _
        | .none => _)) at he
      rw [hw] at he
      dsimp only at he
      generalize hv : (match s.arg.link with
          | .ulain p => { u with fab := { u.fab with
              ulain := u.fab.ulain.modify p (fun (x : UlainPort) => { x with good := goodLanes s.arg.lanes }) } }
          | _ => u : State) = v at he
      have sv : v.sched = u.sched := by rw [← hv]; split <;> rfl
      obtain ⟨sd, h1, h2⟩ := linkDown_spec v s.arg.link
      exact answers_of_finish he ((congrArg Sched.raised (sd.trans (sv.trans iu.2))).trans hs) ⟨h1, h2⟩
  · intro hl ht
    refine ⟨s.park .retrainDone, ?_, ?_⟩
    · show execRetrainDone s = _
      unfold execRetrainDone
      dsimp only
      rw [if_neg (by rw [show (s.link s.arg.link).state = _ from hl]; decide), if_pos ht]
    · exact ⟨⟨rfl, rfl, rfl, rfl⟩, rfl, List.mem_append_right _ List.mem_cons_self⟩
  · intro u hu ht w
    exact answers_ulainTrained hs hu ht
  · intro hc
    have he : ∀ x, exec .ulainForward s = .next (finish (if s.arg.chip == s.fab.chipId then s else x)) → exec .ulainForward s = .next (finish x) := by
      intro x h
      rwa [if_neg (by simpa using hc)] at h
    refine ⟨fun hh => ?_, fun p hh hf hp hu hl hc0 => ?_, fun hh hf => ?_⟩
    · have hx := he (logError s 2 1 0x0201 s.arg.uport s.arg.chip 0) (by
        show execUlainForward s = _
        unfold execUlainForward
        dsimp only
        rw [if_pos hh])
      obtain ⟨hr, hn⟩ := reports_logError s 2 1 0x0201 s.arg.uport s.arg.chip 0
      exact hr.idles.answers hs hx (congrArg (fun c => c.2.2) hn)
    · have hx := he (inject s .req .io (.chip s.arg.chip) (some s.arg.offset) 1 (.forward s.arg.chip s.arg.offset s.arg.hops)) (by
        show execUlainForward s = _
        unfold execUlainForward
        dsimp only
        rw [if_neg (Nat.not_le.2 hh)])
      refine (conveys_inject _ _ _ _ _ _ _).idles.answers hs hx ?_
      have hr : routeFrom s .io (.chip s.arg.chip) (some s.arg.offset) = some [.ulain p] := by
        show (forwardPort s s.arg.chip s.arg.offset).map _ = _
        rw [hf]
        rfl
      unfold inject
      dsimp only
      rw [show routeFrom { s with fab := { s.fab with nextPacket := s.fab.nextPacket + 1 } } .io (.chip s.arg.chip) (some s.arg.offset) = _ from hr]
      dsimp only
      exact pump_forwards (by rw [hp]; rfl) rfl rfl rfl rfl rfl rfl hu hl hc0
    · have hx := he (inject s .req .io (.chip s.arg.chip) (some s.arg.offset) 1 (.forward s.arg.chip s.arg.offset s.arg.hops)) (by
        show execUlainForward s = _
        unfold execUlainForward
        dsimp only
        rw [if_neg (Nat.not_le.2 hh)])
      refine (conveys_inject _ _ _ _ _ _ _).idles.answers hs hx ?_
      have hr : routeFrom s .io (.chip s.arg.chip) (some s.arg.offset) = none := by
        show (forwardPort s s.arg.chip s.arg.offset).map _ = _
        rw [hf]
        rfl
      unfold inject
      dsimp only
      rw [show routeFrom { s with fab := { s.fab with nextPacket := s.fab.nextPacket + 1 } } .io (.chip s.arg.chip) (some s.arg.offset) = _ from hr]
      exact ⟨_, List.mem_append_right _ List.mem_cons_self, rfl⟩
  · intro x chip pa hops hl hx
    exact settleLost_forward hs hl hx
  · intro r hr
    have e : s.router s.arg.router = r := router_of_find hr
    have gives : ∀ {i : Sys2Proof.Instr} {st : RouterState}, exec i s = .next (finish (setRouter s s.arg.router st)) → sets i st := fun {i st} he =>
      (idles_setRouter s s.arg.router st).answers hs he (router_setRouter hr st)
    refine ⟨fun ha hp ht => ?_, fun ha ht => ?_, fun ha => ?_, fun ha => ?_, fun ha ht hp => ?_⟩
    · refine gives ?_
      show execRouterIdleTimeout s = _
      unfold execRouterIdleTimeout
      dsimp only
      rw [e, ha, show s.die s.arg.router.die = s.dies.getD s.arg.router.die Die.reset from rfl, hp, if_neg (by simpa using ht)]
      exact congrArg (fun u => Host.Outcome.next (finish u)) (apply_ite (setRouter s s.arg.router) _ _ _).symm
    · refine gives ?_
      show execRouterDowningEnd s = _
      unfold execRouterDowningEnd
      dsimp only
      rw [e, ha, if_pos (by simpa using ht)]
    · refine gives ?_
      show Host.Outcome.next (finish (wakeRouter s s.arg.router)) = _
      unfold wakeRouter
      rw [e, ha]
    · refine gives ?_
      show Host.Outcome.next (finish (wakeRouter s s.arg.router)) = _
      unfold wakeRouter
      rw [e, ha]
      dsimp only
      rw [← apply_ite (setRouter s s.arg.router)]
      simp only [beq_iff_eq]
    · refine gives ?_
      show execRouterWakingEnd s = _
      unfold execRouterWakingEnd
      dsimp only
      rw [e, ha, if_pos (by simpa using ht), pump_of_empty (s := setRouter s s.arg.router .active) hp]

end

section
/-! PROOFS. What the end of a load leaves in its hatch. -/

namespace Sys2Proof.Machine

/-! ### A hatch's register files -/

/-- The register files of a hatch. -/
def Hatch.files (h : Hatch) : List VReg × List Word × List (List Tri) × BitVec 64 := (h.v, h.s, h.p, h.emptyV)

theorem hatch?_updHatch_files (s : State) (i j : Nat) {f : Hatch → Hatch} (hi : ∀ h, (f h).inst = h.inst)
    (hf : ∀ h, (f h).files = h.files) : ((s.updHatch i f).hatch? j).map Hatch.files = (s.hatch? j).map Hatch.files := by
  have h := find?_updWhere_key Hatch.inst (i := i) (fun h e => (hi h).trans e) j s.hatches
  rw [show (s.updHatch i f).hatch? j = _ from h]
  split
  next e =>
    subst e
    show ((s.hatch? j).map f).map Hatch.files = _
    rw [Option.map_map]
    exact congrArg (fun g => Option.map g (s.hatch? j)) (funext hf)
  · rfl

theorem noteRead_files (s : State) (i line j : Nat) : ((noteRead s i line).hatch? j).map Hatch.files = (s.hatch? j).map Hatch.files := by
  refine hatch?_updHatch_files s i j (fun h => ?_) (fun h => ?_)
  · split_ifs <;> rfl
  · split_ifs <;> rfl

theorem popDone_files (s : State) (i j : Nat) : ((popDone s i).hatch? j).map Hatch.files = (s.hatch? j).map Hatch.files :=
  hatch?_updHatch_files s i j (fun _ => rfl) (fun _ => rfl)

theorem endOp_files (s : State) (o : Op) (j : Nat) : ((endOp s o).hatch? j).map Hatch.files = (s.hatch? j).map Hatch.files := by
  unfold endOp
  extract_lets s1
  refine (popDone_files _ o.hatch j).trans ?_
  show (s1.hatch? j).map _ = _
  unfold s1
  split <;> rfl

theorem endOp_slices (s : State) (o : Op) : (endOp s o).slices = s.slices := by
  unfold endOp
  extract_lets s1
  show s1.slices = _
  unfold s1
  split <;> rfl

/-- The first register that consecutive vector registers are written from. -/
theorem Hatch.vword_writeVs_first {h : Hatch} {r w l : Nat} (m : LaneSet) (val : Nat → Nat) (hw : 0 < w) (hr : r < h.v.length) (hl : l < 96) :
    (h.writeVs r w m val).vword r l = if m.getLsbD l then BitVec.ofNat 32 (val l) else h.vword r l := by
  induction w, hw using Nat.le_induction with
  | base =>
    rw [← wordOf_zero]
    exact Hatch.vword_writeVs_in (k := 0) m val Nat.zero_lt_one hr hl
  | succ w hw ih =>
    rw [← ih, Hatch.writeVs_succ]
    unfold Hatch.vword
    rw [Hatch.vreg_writeV_ne _ _ (by omega)]

/-- The registers from r are no longer empty. -/
theorem getLsbD_markEmpty_off (h : Hatch) {x : BitVec 8} {r w : Nat} (hx : specKind x = .v r) (hw : 0 < w) (hr : r < 64) :
    (h.markEmpty [(x, w)] false).emptyV.getLsbD r = false := by
  unfold Hatch.markEmpty
  rw [List.foldl_cons, List.foldl_nil]
  dsimp only
  rw [hx]
  dsimp only
  rw [if_neg Bool.false_ne_true]
  have gives : ∀ (is : List Nat) (m : BitVec 64), (m.getLsbD r = true ∨ r ∈ is) →
      (is.foldl (fun m i => m ||| BitVec.ofNat 64 (2 ^ i)) m).getLsbD r = true := by
    intro is
    induction is with
    | nil => exact fun m h => h.resolve_right (by simp)
    | cons i is ih =>
      intro m h
      refine ih _ ?_
      rw [BitVec.getLsbD_or]
      rcases h with h | h
      · exact .inl (by rw [h]; rfl)
      · rcases List.mem_cons.1 h with rfl | h
        · left
          rw [BitVec.getLsbD_ofNat, Nat.testBit_two_pow_self]
          simp [hr]
        · exact .inr h
  rw [BitVec.getLsbD_and, BitVec.getLsbD_not, gives _ 0#64 (.inr (by unfold regRange; simp; omega))]
  simp

/-! ### Late results -/

/-- Marking registers empty or not changes nothing but the marks. -/
theorem markEmpty_rest (h : Hatch) (ds : List (BitVec 8 × Nat)) (on : Bool) {α : Type} (F : Hatch → α)
    (hF : ∀ k a b c, F { k with
      emptyV := a
      emptyS := b
      emptyP := c } = F k) : F (h.markEmpty ds on) = F h := by
  refine foldl_field F (fun h d => ?_) ds h
  split
  · exact hF h _ _ _
  · exact hF h _ _ _
  · exact hF h _ _ _
  · rfl

theorem foldl_applyWrite_inst (prot : Bool) (m : LaneSet) (ws : List Write) (hp : Hatch × Path) :
    (ws.foldl (applyWrite prot m) hp).1.inst = hp.1.inst :=
  foldl_field (fun hp : Hatch × Path => hp.1.inst) (applyWrite_inst prot m) ws hp

/-- What a late write leaves in the hatch: the results, and registers that are no longer empty. -/
theorem lateWrite_hatch {s : State} {o : Op} {h : Hatch} (hh : s.hatch? o.hatch = some h) (prot : Bool) (m : LaneSet) (ws : List Write)
    (sh : Shape) (fl : FpFlags) : ∃ g k, (lateWrite s o prot m ws sh fl).hatch? o.hatch = some g ∧
      g.v = (ws.foldl (applyWrite prot m) (h, (h.path? o.slot).getD (Path.start 0 0 0 false))).1.v ∧
      g.s = (ws.foldl (applyWrite prot m) (h, (h.path? o.slot).getD (Path.start 0 0 0 false))).1.s ∧
      g.p = (ws.foldl (applyWrite prot m) (h, (h.path? o.slot).getD (Path.start 0 0 0 false))).1.p ∧
      g.emptyV = (Hatch.markEmpty k sh.dsts false).emptyV := by
  unfold lateWrite
  rw [hh]
  dsimp only
  have hi : (ws.foldl (applyWrite prot m) (h, (h.path? o.slot).getD (Path.start 0 0 0 false))).1.inst = o.hatch :=
    (foldl_applyWrite_inst prot m ws _).trans (hatch?_inst hh)
  generalize ws.foldl (applyWrite prot m) (h, (h.path? o.slot).getD (Path.start 0 0 0 false)) = hp at hi ⊢
  generalize hk : ({ hp.1 with fpflags := hp.1.fpflags ||| fl } : Hatch) = k
  rw [updHatch_known _ hh (fun _ _ => by rw [Hatch.setPath_inst, Hatch.markEmpty_inst, ← hk, hi])]
  refine ⟨_, k, rfl, ?_⟩
  have hv := markEmpty_rest k sh.dsts false Hatch.v (fun _ _ _ _ => rfl)
  have hs := markEmpty_rest k sh.dsts false Hatch.s (fun _ _ _ _ => rfl)
  have hp := markEmpty_rest k sh.dsts false Hatch.p (fun _ _ _ _ => rfl)
  rw [← hk] at hv hs hp ⊢
  unfold Hatch.setPath
  split <;> exact ⟨hv, hs, hp, rfl⟩

theorem lateWrite_eq (s : State) (o : Op) (prot : Bool) (m : LaneSet) (ws : List Write) (sh : Shape) (fl : FpFlags) :
    ∃ hs, lateWrite s o prot m ws sh fl = { s with hatches := hs } := by
  unfold lateWrite
  split
  · exact ⟨s.hatches, rfl⟩
  · exact ⟨_, rfl⟩

end Sys2Proof.Machine
end

section
/-! PROOFS. The statement of the data that return to a load. -/

namespace Sys2Proof.Machine

/-- The plain loads of memory: `ld`, `ldu` and `ldc`. -/
def PlainLoad (op : Nat) : Prop := op = 0x9F ∨ op = 0xA1 ∨ op = 0xAA

theorem PlainLoad.width {op : Nat} (h : PlainLoad op) (f : MForm) : (mRule op f).d.width = twfRegs f.twf.toNat := by
  rcases h with rfl | rfl | rfl <;> rfl

theorem PlainLoad.dsts {op : Nat} (h : PlainLoad op) (f : MForm) : (mShape op f).dsts = [(f.d, twfRegs f.twf.toNat)] := by
  rcases h with rfl | rfl | rfl <;> rfl

theorem twfRegs_pos (t : Nat) : 0 < twfRegs t := by
  unfold twfRegs
  split_ifs <;> decide

theorem PlainLoad.once {op : Nat} (h : PlainLoad op) {f : MForm} (hd : f.d.toNat < 64) : memOnce op f = false := by
  unfold memOnce Shape.allScalar
  rw [h.dsts f]
  have : specKind f.d = .v f.d.toNat := specKind_of_lt hd
  simp [isScal, specIs, this]

/-- What an operation notes of the lines that it read, and its end, leave registers, memory and triggers as they were. -/
theorem endOp_noteReads (s : State) (o : Op) (lines : List Nat) : let t := endOp (lines.foldl (fun s ln => noteRead s o.hatch ln) s) o
    t.op? o.id = none ∧ t.sched = s.sched ∧ t.mem = s.mem ∧ t.slices = s.slices ∧
      (t.hatch? o.hatch).map Hatch.files = (s.hatch? o.hatch).map Hatch.files := by
  intro t
  have notes : ∀ {α : Type} (F : State → α), (∀ s ln, F (noteRead s o.hatch ln) = F s) →
      F (lines.foldl (fun s ln => noteRead s o.hatch ln) s) = F s := fun F h => foldl_field F h lines s
  have ends := endOp_sched (lines.foldl (fun s ln => noteRead s o.hatch ln) s) o
  refine ⟨op?_endOp _ o, ends.1.trans (notes State.sched (fun _ _ => rfl)), ends.2.1.trans (notes State.mem (fun _ _ => rfl)),
    (endOp_slices _ o).trans (notes State.slices (fun _ _ => rfl)), ?_⟩
  exact (endOp_files _ o o.hatch).trans (notes (fun s => (s.hatch? o.hatch).map Hatch.files) (fun s ln => noteRead_files s o.hatch ln o.hatch))

/-- The state of a load without poison before it is over. -/
theorem finishLoad_eq {s : State} {o : Op} {op : Nat} {f : MForm} {h : Hatch} (hi : instrForm o.what = some (op, f)) (ho : PlainLoad op)
    (hf : f.acquires = false) (hh : s.hatch? o.hatch = some h) (hp : hatchProt s h = false) (hb : o.lanes.find? (·.poison) = none)
    (hd : f.d.toNat < 64) : finishLoad s o = endOp ((linesOf (o.lanes.filter (fun a => a.fault == 0 && a.mt != 4))).foldl (fun s ln => noteRead s o.hatch ln)
      (lateWrite (lateWrite s o false o.active [.reg f.d (twfRegs f.twf.toNat) (fun l => extend f.twf.toNat (o.bytesAt false false l))]
        (mShape op f) 0) o false o.active [] (mShape op f) 0)) o := by
  have hr : loadResults o op f false (physMask false (loadLanes o op)) =
      ([.reg f.d (twfRegs f.twf.toNat) (fun l => extend f.twf.toNat (o.bytesAt false false l))], 0) := by
    unfold loadResults
    rw [ho.width, ho.once hd]
    rcases ho with rfl | rfl | rfl <;> rfl
  have hl : loadLanes o op = o.active := by rcases ho with rfl | rfl | rfl <;> rfl
  have n1 : (op == 0xB2 || op == 0xAD) = false := by rcases ho with rfl | rfl | rfl <;> rfl
  have n2 : (op == 0xAD) = false := by rcases ho with rfl | rfl | rfl <;> rfl
  unfold finishLoad
  rw [hi, hh]
  dsimp only
  rw [n1, if_neg Bool.false_ne_true, hb, hp, hr, hl]
  dsimp only
  rw [n2, if_neg Bool.false_ne_true, hf, if_neg Bool.false_ne_true]
  rfl

/-- The end of a load in whose lanes no poison was found: D holds the bytes of each lane, extended, and is no longer empty. -/
theorem finishLoad_spec {s : State} {o : Op} {op : Nat} {f : MForm} {h : Hatch} (hi : instrForm o.what = some (op, f)) (ho : PlainLoad op)
    (hf : f.acquires = false) (hh : s.hatch? o.hatch = some h) (hp : hatchProt s h = false) (hb : o.lanes.find? (·.poison) = none)
    (hv : h.v.length = 64) (hd : f.d.toNat < 64) : (finishLoad s o).op? o.id = none ∧
      (finishLoad s o).sched = s.sched ∧ (finishLoad s o).mem = s.mem ∧ (finishLoad s o).slices = s.slices ∧
      ∃ g, (finishLoad s o).hatch? o.hatch = some g ∧ g.s = h.s ∧ g.p = h.p ∧ g.emptyV.getLsbD f.d.toNat = false ∧
        ∀ l, l < 96 → g.vword f.d.toNat l =
          if o.active.getLsbD l then BitVec.ofNat 32 (extend f.twf.toNat (o.bytesAt false false l)) else h.vword f.d.toNat l := by
  have hx : specKind f.d = .v f.d.toNat := specKind_of_lt hd
  rw [finishLoad_eq hi ho hf hh hp hb hd]
  generalize hw : [Write.reg f.d (twfRegs f.twf.toNat) (fun l => extend f.twf.toNat (o.bytesAt false false l))] = ws
  obtain ⟨hs1, e1⟩ := lateWrite_eq s o false o.active ws (mShape op f) 0
  obtain ⟨g1, -, h1, v1, s1, p1, -⟩ := lateWrite_hatch hh false o.active ws (mShape op f) 0
  generalize lateWrite s o false o.active ws (mShape op f) 0 = u1 at e1 h1 ⊢
  obtain ⟨hs2, e2⟩ := lateWrite_eq u1 o false o.active [] (mShape op f) 0
  obtain ⟨g2, k2, h2, v2, s2, p2, m2⟩ := lateWrite_hatch h1 false o.active [] (mShape op f) 0
  generalize lateWrite u1 o false o.active [] (mShape op f) 0 = u2 at e2 h2 ⊢
  obtain ⟨ends, sched, mem, slices, files⟩ := endOp_noteReads u2 o (linesOf (o.lanes.filter (fun a => a.fault == 0 && a.mt != 4)))
  rw [h2] at files
  obtain ⟨g, hg, hfiles⟩ := Option.map_eq_some_iff.1 files
  have regs : g.v = g2.v ∧ g.s = g2.s ∧ g.p = g2.p ∧ g.emptyV = g2.emptyV := by
    simpa [Hatch.files] using hfiles
  obtain ⟨gv, gs, gp, ge⟩ := regs
  have writes : ws.foldl (applyWrite false o.active) (h, (h.path? o.slot).getD (Path.start 0 0 0 false)) =
      (h.writeVs f.d.toNat (twfRegs f.twf.toNat) o.active (fun l => extend f.twf.toNat (o.bytesAt false false l)),
        (h.path? o.slot).getD (Path.start 0 0 0 false)) := by
    rw [← hw]
    exact applyWrite_vector hx
  rw [writes] at v1 s1 p1
  have kept := Hatch.writeVs_eq h f.d.toNat (twfRegs f.twf.toNat) o.active (fun l => extend f.twf.toNat (o.bytesAt false false l))
  have first := fun l (hl : l < 96) => Hatch.vword_writeVs_first (h := h) o.active (fun l => extend f.twf.toNat (o.bytesAt false false l))
    (twfRegs_pos f.twf.toNat) (hv.symm ▸ hd) hl
  generalize h.writeVs f.d.toNat (twfRegs f.twf.toNat) o.active (fun l => extend f.twf.toNat (o.bytesAt false false l)) = w at v1 s1 p1 kept first
  refine ⟨ends, sched.trans (by rw [e2, e1]), mem.trans (by rw [e2, e1]), slices.trans (by rw [e2, e1]), g, hg, ?_, ?_, ?_, fun l hl => ?_⟩
  · rw [gs, s2]
    exact s1.trans (by rw [kept])
  · rw [gp, p2]
    exact p1.trans (by rw [kept])
  · rw [ge, m2, ho.dsts]
    exact getLsbD_markEmpty_off k2 hx (twfRegs_pos _) hd
  · rw [← first l hl]
    unfold Hatch.vword Hatch.vreg
    rw [gv, v2]
    exact congrArg (fun v : List VReg => ((v.getD f.d.toNat VReg.unmapped).lo).getD l 0) v1

/-! ### The lanes of a load whose line has come -/

/-- A lane with its bytes. -/
def LaneAcc.filled (a : LaneAcc) (size : Nat) (bs : List Byte) : LaneAcc :=
  { a with
    bytes := sliceBytes bs (offsetInLine a.pa) size
    poison := false
    done := true }

/-- The last line of a load that holds no poison fills every lane. -/
theorem fillLanes_last {o : Op} {line : Nat} (h : ∀ x ∈ o.lanes, x.pending = true ∧ x.line = line) (size : Nat) (bs : List Byte) :
    (fillLanes o line size bs 0).lanes = o.lanes.map (fun a => a.filled size bs) := by
  refine List.map_congr_left (fun a ha => ?_)
  obtain ⟨hp, hl⟩ := h a ha
  rw [if_pos (by rw [hp, hl]; simp)]
  have : (touchedSectors (offsetInLine a.pa) size).any (fun q => (0 : BitVec 4).getLsbD q) = false := by simp
  dsimp only
  rw [this]
  rfl

/-- The lane of a number, among lanes of different numbers. -/
theorem find?_lane {as : List LaneAcc} (hn : (as.map (·.lane)).Nodup) {x : LaneAcc} (hx : x ∈ as) :
    as.find? (fun a => a.lane == x.lane) = some x := by
  cases h : as.find? (fun a => a.lane == x.lane) with
  | none => exact absurd (List.find?_eq_none.1 h x hx) (by simp)
  | some y =>
    have hy : y.lane = x.lane := by simpa using List.find?_some h
    exact congrArg some (List.inj_on_of_nodup_map hn (List.mem_of_find?_eq_some h) hx hy)

theorem bytesAt_filled {o : Op} {line : Nat} (h : ∀ x ∈ o.lanes, x.pending = true ∧ x.line = line) (hn : (o.lanes.map (·.lane)).Nodup)
    {x : LaneAcc} (hx : x ∈ o.lanes) (size : Nat) (bs : List Byte) :
    (fillLanes o line size bs 0).bytesAt false false x.lane = sliceBytes bs (offsetInLine x.pa) size := by
  unfold Op.bytesAt Op.accOf
  rw [fillLanes_last h, List.find?_map]
  change Option.elim (Option.map _ (o.lanes.find? (fun a => a.lane == x.lane))) _ _ = _
  rw [find?_lane hn hx]
  rfl

/-- What the last line of a load brings. -/
def Delivered (s t : State) (o : Op) (f : MForm) (size : Nat) (bs : List Byte) (h : Hatch) : Prop :=
  t.op? o.id = none ∧ t.mem = s.mem ∧ t.slices = s.slices ∧ ∃ g, t.hatch? o.hatch = some g ∧ g.s = h.s ∧ g.p = h.p ∧
    g.emptyV.getLsbD f.d.toNat = false ∧
    (∀ x ∈ o.lanes, g.vword f.d.toNat x.lane = BitVec.ofNat 32 (extend f.twf.toNat (sliceBytes bs (offsetInLine x.pa) size))) ∧
    ∀ l, l < 96 → o.active.getLsbD l = false → g.vword f.d.toNat l = h.vword f.d.toNat l

theorem deliver_spec {s : State} {o : Op} {op : Nat} {f : MForm} {h : Hatch} {line : Nat} (size : Nat) (bs : List Byte)
    (hi : instrForm o.what = some (op, f)) (ho : PlainLoad op) (hf : f.acquires = false)
    (hl : ∀ x ∈ o.lanes, x.pending = true ∧ x.line = line) (hn : (o.lanes.map (·.lane)).Nodup)
    (ha : ∀ x ∈ o.lanes, x.lane < 96 ∧ o.active.getLsbD x.lane = true)
    (hh : s.hatch? o.hatch = some h) (hp : hatchProt s h = false) (hv : h.v.length = 64) (hd : f.d.toNat < 64) :
    (deliver s o line size bs 0).sched = s.sched ∧ Delivered s (deliver s o line size bs 0) o f size bs h := by
  have fills := fillLanes_last hl size bs
  have none_pending : (fillLanes o line size bs 0).lanes.any LaneAcc.pending = false := by
    rw [fills]
    simp [LaneAcc.filled, LaneAcc.pending]
  have e : deliver s o line size bs 0 = finishLoad (s.updOp o.id (fun _ => fillLanes o line size bs 0)) (fillLanes o line size bs 0) := by
    unfold deliver
    dsimp only
    rw [none_pending, if_neg Bool.false_ne_true]
    rfl
  have clean : (fillLanes o line size bs 0).lanes.find? (·.poison) = none := by
    rw [fills]
    simp [LaneAcc.filled]
  obtain ⟨ends, sched, mem, slices, g, hg, gs, gp, ge, gv⟩ := finishLoad_spec (s := s.updOp o.id (fun _ => fillLanes o line size bs 0))
    (o := fillLanes o line size bs 0) hi ho hf hh hp clean hv hd
  rw [e]
  refine ⟨sched, ends, mem, slices, g, hg, gs, gp, ge, fun x hx => ?_, fun l hl ha => ?_⟩
  · obtain ⟨h96, hact⟩ := ha x hx
    exact (gv x.lane h96).trans ((if_pos hact).trans (by rw [bytesAt_filled hl hn hx]))
  · rw [gv l hl, if_neg (by rw [show (fillLanes o line size bs 0).active = o.active from rfl, ha]; exact Bool.false_ne_true)]

end Sys2Proof.Machine

open Sys2Proof.Machine in
/-- Settles O34: the last line of a load fills its lanes, and the end of a load writes them to D. -/
theorem loadDataReturns : Obligations.LoadDataReturns := by
  refine ⟨fun s s1 o op f a r bs h hs ho hi hop hf hl hx hn hact hob hr hh hp hv hd => ?_, fun s o f ho => ⟨?_, ?_, ?_⟩⟩
  · have hall : ∀ x ∈ o.lanes, x.pending = true ∧ x.line = s.arg.line := fun x h => by
      rw [hl] at h
      exact ⟨(hx x h).1, (hx x h).2.1⟩
    have mine : o.lanes.filter (fun x => x.pending && x.line == s.arg.line) = o.lanes :=
      List.filter_eq_self.2 (fun x h => by rw [(hall x h).1, (hall x h).2]; simp)
    obtain ⟨sched, ends, mem, slices, g, hg, gs, gp, ge, gv, gk⟩ := deliver_spec (s := s1) (accSize op f) bs hi hop hf hall (by rw [hl]; exact hn)
      (fun x h => by rw [hl] at h; exact ⟨(hx x h).2.2.2, (hact x.lane (hx x h).2.2.2).2 ⟨x, h, rfl⟩⟩) hh hp hv hd
    refine answers_of_finish (u := deliver s1 o s.arg.line (accSize op f) bs 0) ?_ ((congrArg Sched.raised sched).trans hs)
      ⟨ends, g, hg, ge, fun x hx => gv x (hl ▸ hx), gk, gs, gp, mem, slices⟩
    have hmt : (a.mt == 4) = false := by
      have := (hx a List.mem_cons_self).2.2.1
      simp only [beq_eq_false_iff_ne]
      omega
    show execLoadDataReturn s = _
    unfold execLoadDataReturn
    rw [ho]
    dsimp only
    rw [hi]
    dsimp only
    rw [mine, hl]
    dsimp only
    rw [hob, if_neg Bool.false_ne_true, hmt, if_neg Bool.false_ne_true, hf, ← hl, hr]
  · intro bs a h s1 hs hw hf hc hl hap hal hmt h96 hact hh hp hv hd
    have hi : instrForm o.what = some (0x9F, f) := by rw [hw]; rfl
    obtain ⟨sched, ends, -, -, g, hg, -, -, -, gv, gk⟩ := deliver_spec (s := s1) (o := o) (line := s.arg.line) (accSize 0x9F f) (sliceBytes bs 0 128)
      hi (.inl rfl) hf (by rw [hl]; simp [hap, hal]) (by rw [hl]; simp) (by rw [hl, hact]; simp only [List.mem_singleton, forall_eq]; exact ⟨h96, by rw [getLsbD_laneBit _ _ h96]; simp⟩) hh hp hv hd
    refine answers_of_finish (u := deliver s1 o s.arg.line (accSize 0x9F f) (sliceBytes bs 0 128) 0) ?_
      ((congrArg Sched.raised sched).trans hs) ⟨ends, g, hg, gv a (by rw [hl]; exact List.mem_cons_self), fun l h96' hne => gk l h96' ?_⟩
    · show execMt4Completion s = _
      unfold execMt4Completion
      rw [ho]
      dsimp only
      rw [hw, hc]
      rfl
    · rw [hact]
      rw [getLsbD_laneBit _ _ h96']
      simpa using Ne.symm hne
  · intro p hs hw hv
    refine ⟨fun hp => ?_, fun hp => ?_⟩
    · show execMt4Completion s = _
      unfold execMt4Completion
      rw [ho]
      dsimp only
      rw [hw, hp, hv]
      exact congrArg Host.Outcome.next (finish_settled (s := (s.dropOp o.id).updHatch o.hatch _) hs)
    · show execMt4Completion s = _
      unfold execMt4Completion
      rw [ho]
      dsimp only
      rw [hw, hp]
      exact congrArg Host.Outcome.next (finish_settled (s := s.dropOp o.id) hs)
  · intro hs hw hc
    show execMt4Completion s = _
    unfold execMt4Completion
    rw [ho]
    dsimp only
    rw [hw, hc]
    exact congrArg Host.Outcome.next (finish_settled (s := s.updOp o.id (fun o => { o with
      prog := 1
      done := true })) hs)

end

section
/-! PROOFS. How M-format instructions that write once end, go on, wait and trap. -/

namespace Sys2Proof.Machine

theorem Iss.onceMask_ne (c : Iss) : (if c.prot then 3 else 1 : LaneSet) ≠ 0 := by split <;> decide

/-- A result in lane 0 of D ends the instruction. -/
theorem ended_of {s : State} {c : Iss} {op : Nat} {f : MForm} {w v : Nat} (h : CanEnd s c op f w v) :
    Ended s (complete s (c.refresh s) (mShape op f) (if c.prot then 3 else 1) [.reg f.d w (fun _ => v)] 0 16) c op f w v :=
  complete_spec (c := c.refresh s) h.1 (mShape op f) _ [.reg f.d w (fun _ => v)] 0 16 c.onceMask_ne h.2

/-- A change to the hatch alone, with which the path goes on. -/
theorem moveOn_changed {s : State} (hs : s.Settled) (c : Iss) (len : Nat) {g : Hatch → Hatch} (hi : ∀ h, (g h).inst = h.inst)
    (hp : ∀ h, (g h).path? c.slot = h.path? c.slot) :
    Changed s (moveOn c s len g) c g (fun p => p.arrive (wrap64 (c.p.pc + len))) := by
  have e : (s.updHatch c.inst g).updPath c.inst c.slot (fun p => p.arrive (wrap64 (c.p.pc + len))) =
      s.updHatch c.inst (fun h => (g h).setPath c.slot ((h.path? c.slot).map (fun p => p.arrive (wrap64 (c.p.pc + len))))) := by
    unfold State.updPath
    rw [updHatch_updHatch s c.inst g _ (fun h e => (hi h).trans e)]
    refine congrArg (fun f => s.updHatch c.inst f) (funext (fun h => ?_))
    show (g h).setPath c.slot (((g h).path? c.slot).map _) = _
    rw [hp]
  unfold moveOn retire Changed
  rw [e]
  exact issued_of (s := s.updHatch c.inst _) hs c.inst c.slot

/-- An instruction that cannot go on waits to be tried again. -/
theorem stalled_stall {s : State} (hs : s.Settled) : Stalled s (stall s) := by
  unfold stall Stalled
  rw [settle_of_settled hs]
  dsimp only
  split <;> rfl

end Sys2Proof.Machine
end

section
/-! PROOFS. The statement of drains, fences and barriers. -/

namespace Sys2Proof.Machine

/-! ### Barriers (R145, R394) -/

/-- The first entry of a key, after a change to some entries that keeps the keys. -/
theorem find?_updWhere_keeps {α : Type} {q : α → Bool} (p : α → Bool) {f : α → α} (hf : ∀ x, q (f x) = q x) (xs : List α) :
    (updWhere p f xs).find? q = (xs.find? q).map (fun x => if p x then f x else x) := by
  unfold updWhere
  rw [List.find?_map]
  refine congrArg (fun g => Option.map _ (xs.find? g)) (funext (fun x => ?_))
  show q (if p x then f x else x) = q x
  split
  · exact hf x
  · rfl

/-- The arrival of a hatch at a barrier, which notes it once. -/
def Block.arrive (w i : Nat) (b : Block) : Block :=
  { b with arrived := if b.arrived.contains (w, i) then b.arrived else b.arrived ++ [(w, i)] }

/-- A hatch whose release is over, in its wait at a barrier. -/
def waitsAt (s : State) (c : Iss) (w : Nat) : State :=
  ((markDirty s c.inst).updBlock c.h.block (Block.arrive w c.h.index)).updPath c.inst c.slot (fun p => { p with wait := .barrier w })

theorem Hatch.depart_inst (w : Nat) (h : Hatch) : (h.depart w).inst = h.inst := by
  unfold Hatch.depart
  dsimp only
  split <;> rfl

/-- A path that waits at a barrier departs from it with the status that its hatch has noted. -/
theorem Hatch.depart_path {h : Hatch} {slot w : Nat} {p : Path} (hp : h.path? slot = some p) (hw : p.wait = .barrier w) :
    (h.depart w).path? slot = some { p with wait := .depart (natOfBool (h.abandoned.contains w)) } := by
  have waits : (p.wait == .barrier w) = true := by rw [hw]; simp
  unfold Hatch.path? at hp ⊢
  unfold Hatch.depart
  by_cases hs : (slot == 0) = true
  · rw [if_pos hs] at hp ⊢
    rw [if_pos (by rw [hp]; simp [waits])]
    show Option.map _ h.slot0 = _
    rw [hp, Option.map_some, if_pos waits]
  · rw [if_neg hs] at hp ⊢
    rw [if_pos (by rw [hp]; simp [waits])]
    show Option.map _ h.slot1 = _
    rw [hp, Option.map_some, if_pos waits]

theorem waitsAt_hatch {s : State} {c : Iss} {h : Hatch} (hh : s.hatch? c.inst = some h) (hp : (h.path? c.slot).isSome = true) (w : Nat) :
    ∃ g p, (waitsAt s c w).hatch? c.inst = some g ∧ g.block = h.block ∧ g.abandoned = h.abandoned ∧ g.path? c.slot = some p ∧
      p.wait = .barrier w := by
  obtain ⟨p, hp⟩ := Option.isSome_iff_exists.1 hp
  have h1 : ((markDirty s c.inst).updBlock c.h.block (Block.arrive w c.h.index)).hatch? c.inst = some { h with clean := false } :=
    updHatch_known (fun h => { h with clean := false }) hh (fun _ e => e)
  unfold waitsAt
  rw [hatch?_updPath, h1, Option.map_some]
  refine ⟨_, { p with wait := .barrier w }, rfl, ?_, ?_, ?_, rfl⟩
  · unfold Hatch.setPath
    split <;> rfl
  · unfold Hatch.setPath
    split <;> rfl
  · rw [Hatch.setPath_path?]
    show Option.map _ (h.path? c.slot) = _
    rw [hp]
    rfl

theorem waitsAt_block {s : State} {c : Iss} {b : Block} (hb : s.block? c.h.block = some b) (w : Nat) :
    (waitsAt s c w).block? c.h.block = some (b.arrive w c.h.index) := by
  show ((markDirty s c.inst).updBlock c.h.block (Block.arrive w c.h.index)).block? c.h.block = _
  rw [block?_updBlock (markDirty s c.inst) _ _ (by intro; rfl), if_pos rfl]
  show (s.block? c.h.block).map _ = _
  rw [hb]
  rfl

/-- Whether a barrier is full looks at the blocks alone. -/
theorem barrierFull_waitsAt {s : State} {c : Iss} {b : Block} (hb : s.sched.blocks.filter (fun y => y.inst == c.h.block) = [b]) (w : Nat)
    (x : Block) (l : Launch) : barrierFull (waitsAt s c w) x l w =
      barrierFull (s.updBlock c.h.block (fun _ => b.arrive w c.h.index)) x l w := by
  have e : (waitsAt s c w).sched.blocks = (s.updBlock c.h.block (fun _ => b.arrive w c.h.index)).sched.blocks := by
    refine List.map_congr_left (fun y hy => ?_)
    split
    next hi =>
      have : y ∈ s.sched.blocks.filter (fun y => y.inst == c.h.block) := List.mem_filter.2 ⟨hy, hi⟩
      rw [hb, List.mem_singleton] at this
      rw [this]
    · rfl
  unfold barrierFull
  rw [e]

/-- A group that a hardware unit counts, and the barriers of a block and of a launch, have no counter in memory. -/
theorem countGroup_unit {s : State} {i w : Nat} {b : Block} (hb : s.block? i = some b)
    (hw : w = 0 ∨ w = 257 ∨ b.hwGroups.contains (w - 1) = true) : countGroup s i w = s := by
  have hu : (w == barBlock || w == barLaunch || b.hwGroups.contains (w - 1)) = true := by
    unfold barBlock barLaunch
    rcases hw with h | h | h
    · rw [h]; rfl
    · rw [h]; rfl
    · rw [h, Bool.or_true]
  unfold countGroup countGroupWith
  rw [hb]
  dsimp only
  split
  · rfl
  · exact if_pos hu

theorem tryDepart_waits {s : State} {i w : Nat} {b : Block} {l : Launch} (hb : s.block? i = some b) (hl : s.launch? b.launch = some l)
    (hf : barrierFull s b l w = false) : tryDepart s i w = s := by
  unfold tryDepart
  rw [hb]
  dsimp only
  rw [hl]
  dsimp only
  rw [hf]
  rfl

/-- With the last arrival, a path of the block that waits at the barrier departs. -/
theorem tryDepart_departs {s : State} {i w inst slot : Nat} {b : Block} {l : Launch} {g : Hatch} {p : Path} (hb : s.block? i = some b)
    (hl : s.launch? b.launch = some l) (hf : barrierFull s b l w = true) (hg : s.hatch? inst = some g) (hi : g.block = i)
    (hp : g.path? slot = some p) (hw : p.wait = .barrier w) : (tryDepart s i w).sched.raised = s.sched.raised ∧
      ((tryDepart s i w).hatch? inst).bind (fun h => (h.path? slot).map (fun p => p.wait)) =
        some (.depart (natOfBool (g.abandoned.contains w))) := by
  have departs : ∀ mine : Hatch → Bool, mine g = true →
      ((updWhere mine (Hatch.depart w) s.hatches).find? (fun h => h.inst == inst)).bind (fun h => (h.path? slot).map (fun p => p.wait)) =
        some (.depart (natOfBool (g.abandoned.contains w))) := by
    intro mine hm
    rw [find?_updWhere_keeps mine (fun h => by rw [Hatch.depart_inst])]
    rw [show s.hatches.find? (fun h => h.inst == inst) = some g from hg, Option.map_some, if_pos hm, Option.bind_some, Hatch.depart_path hp hw]
    rfl
  unfold tryDepart
  rw [hb]
  dsimp only
  rw [hl]
  dsimp only
  rw [hf, if_neg (by decide)]
  split
  · refine ⟨rfl, departs _ ?_⟩
    rw [hi, hb]
    exact beq_self_eq_true _
  · refine ⟨rfl, departs (fun h => h.block == i) ?_⟩
    rw [hi]
    exact beq_self_eq_true _

/-! ### Releases that precede an effect -/

theorem release_none {s : State} {h : Hatch} {r : Bool} (hr : r = false ∨ releaseReady s h = (s, true)) :
    (if r then releaseReady s h else (s, true)) = (s, true) := by
  rcases hr with h | h
  · rw [h]; rfl
  · rw [h]; exact ite_self _

/-- An instruction that runs whatever its lanes are, or in some lane, does not merely go on. -/
theorem runs_of {act : LaneSet} {g : BitVec 2} (h : g = 0 ∨ act ≠ 0) : (act == 0 && g != 0) = false := by
  rcases h with h | h
  · rw [h]; exact Bool.and_false _
  · rw [beq_eq_false_iff_ne.2 h]; rfl

theorem arrives_answers {s : State} {c : Iss} {op : Nat} {i : Instr} {f : MForm} {w : Nat} {b : Block} {l : Launch} {h : Hatch}
    (he : ∀ s, exec i s = barrierExec op f s) (hi : IssuesM op f s c) (hw : ∀ st, c.p.wait ≠ .depart st) (hb : barrierOf s c op f = some w)
    (hr : releaseReady s c.h = (s, true)) (hs : (releaseAll s c.h).Settled) (hh : (releaseAll s c.h).hatch? c.inst = some h)
    (hp : (h.path? c.slot).isSome = true) (hk : (releaseAll s c.h).block? c.h.block = some b)
    (hl : (releaseAll s c.h).launch? b.launch = some l) (hu : w = 0 ∨ w = 257 ∨ b.hwGroups.contains (w - 1) = true)
    (hc : c.h.block = h.block) (ho : (releaseAll s c.h).sched.blocks.filter (fun y => y.inst == c.h.block) = [b]) :
    Answers i s (fun t =>
      (barrierFull ((releaseAll s c.h).updBlock c.h.block (fun _ => b.arrive w c.h.index)) (b.arrive w c.h.index) l w = false →
        waitOf t c = some (.barrier w) ∧ t.block? c.h.block = some (b.arrive w c.h.index)) ∧
      (barrierFull ((releaseAll s c.h).updBlock c.h.block (fun _ => b.arrive w c.h.index)) (b.arrive w c.h.index) l w = true →
        waitOf t c = some (.depart (if h.abandoned.contains w then 1 else 0)))) := by
  have e : exec i s = .next (finish (tryDepart (countGroup (waitsAt (releaseAll s c.h) c w) c.h.block w) c.h.block w)) := by
    rw [he]
    unfold barrierExec issueM
    rw [issueWith_go hi]
    have : arriveAt c s w = finish (tryDepart (countGroup (waitsAt (releaseAll s c.h) c w) c.h.block w) c.h.block w) := by
      unfold arriveAt afterRelease
      rw [hr]
      rfl
    rw [hb]
    dsimp only
    rw [this]
    split
    next st hst => exact absurd hst (hw st)
    · rfl
  obtain ⟨g, p, hg, hgb, hga, hgp, hpw⟩ := waitsAt_hatch hh hp w
  have hkb := waitsAt_block hk w
  have hlb : (waitsAt (releaseAll s c.h) c w).launch? (b.arrive w c.h.index).launch = some l := hl
  have hfb := barrierFull_waitsAt ho w (b.arrive w c.h.index) l
  rw [countGroup_unit hkb hu] at e
  generalize barrierFull ((releaseAll s c.h).updBlock c.h.block (fun _ => b.arrive w c.h.index)) (b.arrive w c.h.index) l w = full at hfb ⊢
  refine ⟨_, e, fun hf => ?_, fun hf => ?_⟩
  · rw [hf] at hfb
    rw [tryDepart_waits hkb hlb hfb, finish_settled (s := waitsAt (releaseAll s c.h) c w) hs]
    refine ⟨?_, hkb⟩
    show Option.bind ((waitsAt (releaseAll s c.h) c w).hatch? c.inst) _ = _
    rw [hg, Option.bind_some, hgp, Option.map_some, hpw]
  · rw [hf] at hfb
    obtain ⟨raised, wait⟩ := tryDepart_departs hkb hlb hfb hg (hgb.trans hc.symm) hgp hpw
    rw [finish_settled (raised.trans hs)]
    rw [hga] at wait
    refine wait.trans ?_
    cases h.abandoned.contains w <;> rfl

theorem exec_barrier {x : Nat × Instr} {f : MForm} (hx : x ∈ [(0xBD, Instr.bar f), (0xBE, .gbar f), (0xBF, .lbar f)]) (s : State) :
    exec x.2 s = barrierExec x.1 f s := by
  simp only [List.mem_cons, List.not_mem_nil, or_false] at hx
  rcases hx with rfl | rfl | rfl <;> rfl

end Sys2Proof.Machine

open Sys2Proof.Machine in
/-- Settles O39: a barrier whose participants have all arrived lets every path that waits at it depart. -/
theorem fencesAndBarriers : Obligations.FencesAndBarriers := by
  refine ⟨fun s c f hs hg => ⟨fun hi hd => ?_, fun hi hd => ?_, fun hi hr ha => ?_⟩, fun s c f x hx hi => ⟨?_, ?_, ?_⟩⟩
  · show ∃ t, execSdrain f s = .next t ∧ _
    unfold execSdrain issueM
    rw [issueWith_go hi, hd, if_pos rfl, ite_self]
    exact ⟨_, rfl, passed_of hs c 16⟩
  · show ∃ t, execSdrain f s = .next t ∧ _
    unfold execSdrain issueM
    rw [issueWith_go hi, runs_of hg, hd]
    exact ⟨_, rfl, stalled_stall hs⟩
  · intro s1 s2 h2
    show ∃ t, execFence f s = .next t ∧ _
    unfold execFence issueM
    rw [issueWith_go hi, release_none hr]
    dsimp only
    have go : (f.acquires && !loadsDone s c.h) = false := by
      rcases ha with h | h
      · rw [h]; rfl
      · rw [h]; exact Bool.and_false _
    rw [go]
    exact ⟨_, rfl, moveOn_changed h2 c 16 (fun _ => rfl) (fun _ => rfl)⟩
  · intro w b l h s1 arrived hw hb hr hs hh hp hk hl hu hc ho
    exact arrives_answers (exec_barrier hx) hi hw hb hr hs hh hp hk hl hu hc ho
  · intro st s1 hw hl he
    refine ⟨_, ?_, ended_of he⟩
    rw [exec_barrier hx]
    unfold barrierExec issueM
    rw [issueWith_go hi, hw]
    dsimp only
    unfold departWith
    rw [hl]
    rfl
  · intro hb hw
    refine ⟨_, ?_, rfl⟩
    rw [exec_barrier hx]
    unfold barrierExec issueM
    rw [issueWith_go hi, hb]
    split
    next st hst => exact absurd hst (hw st)
    · rfl

end

section
/-! PROOFS. The statement of freezing and thawing. -/

namespace Sys2Proof.Machine

/-! ### What the end of an instruction keeps -/

theorem Ended.rest {s t : State} {c : Iss} {op : Nat} {f : MForm} {w v : Nat} (h : Ended s t c op f w v) :
    t.rest = (keepNewer s (c.refresh s).inst (mShape op f).dsts).rest := (Issued.rest h).trans rfl

theorem keepNewer_eq (s : State) (i : Nat) (ds : List (BitVec 8 × Nat)) : ∃ ops, keepNewer s i ds = { s with ops := ops } := by
  unfold keepNewer
  split
  · exact ⟨_, rfl⟩
  · exact ⟨s.ops, rfl⟩

/-- What looks at neither hatches, operations, cores nor messages is as the instruction left it. -/
theorem Ended.keeps {s t : State} {c : Iss} {op : Nat} {f : MForm} {w v : Nat} (h : Ended s t c op f w v) {α : Type} (F : State → α)
    (hr : ∀ u : State, F u.rest = F u) (ho : ∀ u ops, F { u with ops := ops } = F u) : F t = F s := by
  obtain ⟨ops, e⟩ := keepNewer_eq s (c.refresh s).inst (mShape op f).dsts
  have := h.rest
  rw [e] at this
  exact (hr t).symm.trans ((congrArg F this).trans ((hr _).trans (ho s ops)))

theorem Ended.freeze {s t : State} {c : Iss} {op : Nat} {f : MForm} {w v : Nat} (h : Ended s t c op f w v) : t.freeze = s.freeze :=
  h.keeps State.freeze (fun _ => rfl) (fun _ _ => rfl)

theorem noteIssue_net (s : State) (inst slot : Nat) : (noteIssue s inst slot).net = s.net := by
  unfold noteIssue
  split <;> rfl

/-- What is in flight stays in flight. -/
theorem mem_net_finish {s : State} (hs : s.Settled) {e : Event} (he : e ∈ s.net) : e ∈ (finish s).net := by
  rw [finish_settled hs]
  exact List.mem_append_right _ he

theorem mem_net_complete {s : State} {c : Iss} (hs : s.Settled) (sh : Shape) (m : LaneSet) (ws : List Write) (fl : FpFlags) (len : Nat)
    (ha : allocTest s c (ws.foldl (applyWrite c.prot m) (c.h.freeLast sh, c.p)).1 = .ok) {e : Event} (he : e ∈ s.net) :
    e ∈ (complete s c sh m ws fl len).net := by
  have goes : ∀ u : State, u.Settled → e ∈ u.net → e ∈ (finish (retire u c.inst c.slot c.p.pc len)).net := by
    intro u hu hn
    refine mem_net_finish ((retire_near u c.inst c.slot c.p.pc len).settled hu) ?_
    unfold retire
    rw [noteIssue_net]
    exact hn
  unfold complete
  split
  · exact goes s hs he
  · obtain ⟨ops, e⟩ := keepNewer_eq s c.inst sh.dsts
    simp only [ha, e]
    exact goes _ hs he

theorem mem_net_once {s : State} {c : Iss} {op : Nat} {f : MForm} {w v : Nat} (h : CanEnd s c op f w v) {e : Event} (he : e ∈ s.net) :
    e ∈ (onceResult c s op f w v).net := mem_net_complete h.1 _ _ _ _ _ h.2 he

/-! ### Freeze-table entries -/

theorem frz_updFrz_self {s : State} {i : Nat} (hi : i < s.freeze.length) (f : FreezeEnt → FreezeEnt) : (s.updFrz i f).frz i = f (s.frz i) :=
  getD_set_self _ _ hi

theorem frz_updFrz_ne (s : State) {i j : Nat} (h : j ≠ i) (f : FreezeEnt → FreezeEnt) : (s.updFrz i f).frz j = s.frz j := getD_set_ne _ _ h

theorem frz_of_freeze {s t : State} (h : t.freeze = s.freeze) (i : Nat) : t.frz i = s.frz i :=
  congrArg (fun xs : List FreezeEnt => xs.getD i FreezeEnt.reset) h

/-! ### Reading page tables -/

/-- Page tables have been read: the memory side and what is asked of it may differ. -/
def Reads (s t : State) : Prop := ∃ m w, t = { s with
  ms := m
  wants := w }

theorem Reads.refl (s : State) : Reads s s := ⟨s.ms, s.wants, rfl⟩

theorem Reads.trans {s t u : State} (h : Reads s t) (g : Reads t u) : Reads s u := by
  obtain ⟨m, w, rfl⟩ := h
  obtain ⟨n, x, rfl⟩ := g
  exact ⟨n, x, rfl⟩

theorem reads_foldl {α : Type} (f : State → α → State) (hf : ∀ s a, Reads s (f s a)) (xs : List α) (s : State) : Reads s (xs.foldl f s) := by
  induction xs generalizing s with
  | nil => exact .refl s
  | cons x xs ih => exact (hf s x).trans (ih _)

theorem reads_want (s : State) (w : Want) : Reads s (s.want w) := by
  unfold State.want
  split
  · exact .refl s
  · exact ⟨s.ms, _, rfl⟩

theorem reads_readPte (s : State) (pa : Nat) : Reads s (readPte s pa).1 := by
  show Reads s (coherentRead s pa 8).1
  unfold coherentRead
  extract_lets line s1 s2
  have h1 : Reads s s1 := by
    unfold s1
    split
    · exact .refl s
    · exact reads_want s _
  have h2 : Reads s1 s2 := by
    unfold s2
    split
    · exact .refl s1
    · exact chanRead_eq s1 line _
  exact h1.trans h2

theorem reads_readBelow (k : Nat) (s : State) (level table base lo hi : Nat) : Reads s (readBelow k s level table base lo hi) := by
  induction k generalizing s level table base with
  | zero => exact .refl s
  | succ k ih =>
    refine reads_foldl _ (fun s i => ?_) _ s
    dsimp only
    split
    · exact .refl s
    · have h := reads_readPte s (table + 8 * i)
      generalize readPte s (table + 8 * i) = r at h ⊢
      split
      · exact h
      · exact h.trans (ih _ _ _ _)

theorem reads_readTables (s : State) (ctx lo hi : Nat) : Reads s (readTables s ctx lo hi) := by
  unfold readTables
  split
  · exact .refl s
  · exact reads_readBelow 3 s 1 _ 0 lo hi

theorem reads_readEntries (s : State) (es : List FreezeEnt) : Reads s (readEntries s es) :=
  reads_foldl (fun (s : State) (e : FreezeEnt) => readTables s e.ctx e.base (e.base + e.size)) (fun s e => reads_readTables s e.ctx e.base (e.base + e.size)) es s

/-! ### The start of a freeze -/

theorem addFrozen_freeze (s : State) (pa n : Nat) : (addFrozen s pa n).freeze = s.freeze :=
  (memKeeps_addFrozen s pa n).keeps State.freeze (fun _ => rfl)

/-- What a freeze of a range leaves in the freeze table. -/
theorem beginFreeze_freeze (s : State) (i : Nat) (e : FreezeEnt) : (beginFreeze s i e).freeze = s.freeze.set i e := by
  unfold beginFreeze
  extract_lets s1 s2 s3
  have h1 : s1.freeze = s.freeze := by
    obtain ⟨m, w, h⟩ := reads_readTables s e.ctx e.base (e.base + e.size)
    unfold s1
    rw [h]
  have h3 : s3.freeze = s2.freeze := foldl_field State.freeze (f := fun (s : State) (x : Nat × Nat) => addFrozen s (x.1 * 65536) x.2) (fun s x => addFrozen_freeze s _ _) _ s2
  obtain ⟨-, cores, rt, wc, ws, net, h4⟩ := startShoot_eq s3 (freezeShoot (s3.frz i))
  rw [h4]
  show s3.freeze = _
  rw [h3]
  show s1.freeze.set i e = _
  rw [h1]

theorem frz_begun {s : State} {i : Nat} (hi : i < s.freeze.length) (e : FreezeEnt) (j : Instr) (a : Arg) :
    ((beginFreeze s i e).post j a).frz i = e := by
  have h := beginFreeze_freeze s i e
  generalize beginFreeze s i e = u at h ⊢
  show u.freeze.getD i FreezeEnt.reset = e
  rw [h, getD_set_self _ _ hi]

theorem mem_posted (s : State) (i : Instr) (a : Arg) : (⟨i, a⟩ : Event) ∈ (s.post i a).net :=
  List.mem_append_right _ (List.mem_singleton.2 rfl)

theorem startFreeze_spec {s : State} {i : Nat} (hi : i < s.freeze.length) (ctx base size : Nat) :
    (startFreeze s i ctx base size).frz i = ⟨((s.frz i).gen + 1) % 2 ^ 24, .freezing, ctx, base, size, false, false⟩ ∧
      (⟨.freezeComplete, { entry := i }⟩ : Event) ∈ (startFreeze s i ctx base size).net := by
  unfold startFreeze
  exact ⟨frz_begun hi _ _ _, mem_posted _ _ _⟩

/-- A free entry that is chosen is an entry. -/
theorem choose_lt {s : State} (p : FreezeEnt → Bool) (k : Nat)
    (hf : ((s.freeze.zipIdx.filter (fun x => p x.1)).map (·.2)) ≠ []) :
    ((s.freeze.zipIdx.filter (fun x => p x.1)).map (·.2)).getD (k % ((s.freeze.zipIdx.filter (fun x => p x.1)).map (·.2)).length) 0 <
      s.freeze.length := by
  have each : ∀ j ∈ (s.freeze.zipIdx.filter (fun x => p x.1)).map (·.2), j < s.freeze.length := by
    intro j hj
    obtain ⟨x, hx, rfl⟩ := List.mem_map.1 hj
    exact (List.mem_zipIdx' (List.mem_filter.1 hx).1).1
  generalize (s.freeze.zipIdx.filter (fun x => p x.1)).map (·.2) = free at hf each ⊢
  have hl : k % free.length < free.length := Nat.mod_lt _ (List.length_pos_iff.2 hf)
  rw [List.getD_eq_getElem _ _ hl]
  exact each _ (List.getElem_mem hl)

/-! ### What a thaw reads of the page tables -/

/-- The leaves of page tables are those of what a reader of memory sees. -/
theorem leavesBelow_congr {s t : State} (hu : ∀ a, paUnbacked t a = paUnbacked s a) (hp : ∀ a n, peekPa t a n = peekPa s a n) (k : Nat) :
    ∀ level table base lo hi, leavesBelow t k level table base lo hi = leavesBelow s k level table base lo hi := by
  induction k with
  | zero => exact fun _ _ _ _ _ => rfl
  | succ k ih =>
    intro level table base lo hi
    unfold leavesBelow
    refine List.flatMap_congr (fun i _ => ?_)
    simp only [hu, hp, ih]

/-- Which packages are still to answer is not read with a page table. -/
theorem entryPages_asked (s : State) (f : List DomainAsk → List DomainAsk) (e : FreezeEnt) :
    entryPages (updCoh s (fun c => { c with asked := f c.asked })) e = entryPages s e := by
  unfold entryPages pagesOf leavesOf
  rw [show (updCoh s (fun c => { c with asked := f c.asked })).ctx? e.ctx = s.ctx? e.ctx from rfl]
  split
  · rfl
  · exact congrArg _ (leavesBelow_congr (fun _ => rfl) (fun _ _ => rfl) 3 _ _ _ _ _)

/-! ### What a freeze publishes -/

theorem MemKeeps.freeze {s t : State} (h : MemKeeps s t) : t.freeze = s.freeze := h.keeps State.freeze (fun _ => rfl)
theorem Conveys.freeze {s t : State} (h : Conveys s t) : t.freeze = s.freeze := h.keeps State.freeze (fun _ _ _ _ => rfl)

theorem memKeeps_evictAgent (s : State) (d line : Nat) : MemKeeps s (evictAgent s d line) := by
  unfold evictAgent
  extract_lets ds s1
  have h1 : MemKeeps s s1 := (memKeeps_settleDie s ds line).trans (memKeeps_dropCopies _ ds line)
  split
  · exact h1
  · exact h1.trans (memKeeps_ite ((memKeeps_updCoh _ _).trans (memKeeps_setAgent _ _)) (memKeeps_updCoh _ _))

theorem conveys_sendWb (s : State) (d line : Nat) : Conveys s (sendWb s d line) := by
  unfold sendWb
  split
  · exact .refl s
  · exact conveys_ite (conveys_inject s _ _ _ _ _ _) (conveys_inject s _ _ _ _ _ _)

/-- Writing copies back leaves the freeze table. -/
theorem freeze_evictCopies (s : State) (line : Nat) (all : Bool) : (evictCopies s line all).freeze = s.freeze :=
  foldl_field State.freeze (fun s (a : Agent) =>
    (conveys_sendWb (evictAgent s a.die line) a.die line).freeze.trans (memKeeps_evictAgent s a.die line).freeze) _ s

theorem memKeeps_cleanAgent (s : State) (line : Nat) : MemKeeps s (cleanAgent s line) := by
  unfold cleanAgent
  split
  · exact .refl s
  · exact (memKeeps_homeCommit s _ _ _ _ _).trans ((memKeeps_homeSetPoison _ _ _).trans (memKeeps_setAgent _ _))

theorem memKeeps_settleOwner (s : State) (line : Nat) : MemKeeps s (settleOwner s line) :=
  memKeeps_ite (.refl s) (memKeeps_setDir s _)

theorem memKeeps_publishListed (s : State) (line : Nat) : MemKeeps s (publishListed s line) := by
  unfold publishListed
  extract_lets e s1 _ s2
  have h1 : MemKeeps s s1 := memKeeps_foldl (fun s (x : Nat × Nat) => drainFor s x.2 line) (fun s x => memKeeps_drainFor s x.2 line) _ s
  have h2 : MemKeeps s s2 := h1.trans (memKeeps_setDir s1 _)
  exact h2.trans (memKeeps_ite (memKeeps_want s2 _) (memKeeps_ite (memKeeps_acquireAfar s2 line) (.refl s2)))

theorem freeze_publishOwned (s : State) (line : Nat) : (publishOwned s line).freeze = s.freeze := by
  unfold publishOwned
  split
  · exact ((memKeeps_cleanAgent s line).trans (memKeeps_settleOwner _ line)).freeze
  · exact freeze_evictCopies s line false

theorem freeze_publishPages (s : State) (inside : Nat → Bool) : (publishPages s inside).freeze = s.freeze := by
  unfold publishPages
  extract_lets here listed s1 dirty s2 owned
  have h1 : MemKeeps s s1 := memKeeps_foldl publishListed memKeeps_publishListed listed s
  have h2 : MemKeeps s1 s2 := memKeeps_foldl (fun s line => (linePoints line).foldl (fun s ds => settleDie s ds line) s)
    (fun s line => memKeeps_foldl (fun s ds => settleDie s ds line) (fun s ds => memKeeps_settleDie s ds line) _ s) dirty s1
  exact (foldl_field State.freeze freeze_publishOwned owned s2).trans (h1.trans h2).freeze

theorem conveys_tellDomain (s : State) (a : DomainAct) : Conveys s (tellDomain s a) :=
  conveys_foldl _ (fun s _ => conveys_inject s _ _ _ _ _ _) _ s

theorem freezeHandle_freeze (gen i : Nat) : freezeHandle gen i false = gen % 2 ^ 24 * 256 + i % 64 := by
  simp [freezeHandle, natOfBool]

theorem freezeHandle_thaw {gen i : Nat} (h : i < 64) : freezeHandle gen i true = gen % 2 ^ 24 * 256 + 64 + i := by
  simp [freezeHandle, natOfBool, Nat.mod_eq_of_lt h]

/-! ### FREEZE_COMPLETE and THAW_COMPLETE -/

theorem shooting_eq (s : State) (f : Coh → Coh) (k : ShootKind) : shooting (updCoh s f) k = shooting s k := rfl

/-- An action of the whole domain that is over is asked for no longer; another one is wanted. Neither changes the freeze table. -/
theorem freeze_domainAct (s : State) (a : DomainAct) : (domainAct s a).freeze = s.freeze := by
  unfold domainAct dropAsk State.want
  split
  · rfl
  · split <;> rfl

theorem otherEntries_congr {s t : State} (h : t.freeze = s.freeze) (i : Nat) : otherEntries t i = otherEntries s i := by
  unfold otherEntries
  rw [h]

/-! ### freeze, thaw and fwait -/

/-- A freeze that takes an entry ends with its handle; the entry is freezing and its event is in flight. -/
theorem startFreeze_ends {v : State} {c : Iss} {f : MForm} {i ctx va size n : Nat} (hi : i < v.freeze.length)
    (he : CanEnd (startFreeze v i ctx va size) c 0xC2 f 1 n) : let t := onceResult c (startFreeze v i ctx va size) 0xC2 f 1 n
    Ended (startFreeze v i ctx va size) t c 0xC2 f 1 n ∧
      t.frz i = ⟨((v.frz i).gen + 1) % 2 ^ 24, .freezing, ctx, va, size, false, false⟩ ∧
      (⟨.freezeComplete, { entry := i }⟩ : Event) ∈ t.net := by
  have hf := ended_of he
  obtain ⟨h1, h2⟩ := startFreeze_spec hi ctx va size
  exact ⟨hf, (frz_of_freeze hf.freeze i).trans h1, mem_net_once he h2⟩

/-- A thaw of an entry ends with its handle; the entry is thawing and its event is in flight. -/
theorem startThaw_ends {v : State} {c : Iss} {f : MForm} {i n : Nat} (hi : i < v.freeze.length)
    (he : CanEnd (startThaw v i) c 0xC3 f 1 n) : let t := onceResult c (startThaw v i) 0xC3 f 1 n
    Ended (startThaw v i) t c 0xC3 f 1 n ∧ (t.frz i).state = .thawing ∧ (⟨.thawComplete, { entry := i }⟩ : Event) ∈ t.net := by
  have hf := ended_of he
  refine ⟨hf, (congrArg FreezeEnt.state (frz_of_freeze hf.freeze i)).trans ?_, mem_net_once he (mem_posted _ _ _)⟩
  exact congrArg FreezeEnt.state (frz_updFrz_self hi (fun e => { e with
    state := .thawing
    thawIssued := true
    thawWanted := false }))

/-- What `freeze` does once its operands pass their checks, no thaw is in its range, and its release is over. -/
theorem exec_freeze {s : State} {c : Iss} {f : MForm} (hi : IssuesM 0xC2 f s c) (hg : f.gsense = 0 ∨ c.act ≠ 0)
    (hc : freezeCheck c (baseImm c f) (c.sval f.x 2) = none)
    (hm : ∀ x ∈ s.freeze, x.state = .thawing → x.ctx = ctxOf s c.h → x.base < baseImm c f % 2 ^ 52 + c.sval f.x 2 →
      baseImm c f % 2 ^ 52 < x.base + x.size → False) (hr : releaseReady s c.h = (s, true)) :
    exec (.freeze f) s = .next (
      let s1 := markDirty (releaseAll s c.h) c.inst
      let free := (s1.freeze.zipIdx.filter (fun x => x.1.state == .free)).map (·.2)
      if free.isEmpty then onceResult c s1 0xC2 f 1 refused
      else
        let i := free.getD (s1.choose free.length).1 0
        let s2 := startFreeze (s1.choose free.length).2 i (ctxOf s c.h) (baseImm c f % 2 ^ 52) (c.sval f.x 2)
        onceResult c s2 0xC2 f 1 (freezeHandle (s2.frz i).gen i false)) := by
  have meets : s.freeze.any (fun e => e.state == .thawing && e.ctx == ctxOf s c.h && decide (e.base < baseImm c f % 2 ^ 52 + c.sval f.x 2) &&
      decide (baseImm c f % 2 ^ 52 < e.base + e.size)) = false := by
    refine Bool.eq_false_iff.2 (fun ha => ?_)
    obtain ⟨x, hx, h⟩ := List.any_eq_true.1 ha
    simp only [Bool.and_eq_true, beq_iff_eq, decide_eq_true_eq] at h
    exact hm x hx h.1.1.1 h.1.1.2 h.1.2 h.2
  show execFreeze f s = _
  unfold execFreeze issueM
  rw [issueWith_go hi, runs_of hg]
  dsimp only
  rw [if_neg Bool.false_ne_true, hc]
  dsimp only
  rw [meets, if_neg Bool.false_ne_true]
  unfold afterRelease
  rw [hr]

theorem exec_freeze_trap {s : State} {c : Iss} {f : MForm} {r : TrapReport} (hi : IssuesM 0xC2 f s c) (hg : f.gsense = 0 ∨ c.act ≠ 0)
    (hc : freezeCheck c (baseImm c f) (c.sval f.x 2) = some r) : exec (.freeze f) s = .next (c.trap s r) := by
  show execFreeze f s = _
  unfold execFreeze issueM
  rw [issueWith_go hi, runs_of hg]
  dsimp only
  rw [if_neg Bool.false_ne_true, hc]

/-- What `thaw` does for a handle h of entry e. -/
theorem exec_thaw {s : State} {c : Iss} {f : MForm} (hi : IssuesM 0xC3 f s c) (hg : f.gsense = 0 ∨ c.act ≠ 0) :
    let h := c.sval f.x 1
    let e := s.frz (handleEntry h)
    exec (.thaw f) s = .next (
      if !handleOk h || handleThaw h || e.state == .free || e.state == .thawing || e.gen != handleGen h || e.ctx != ctxOf s c.h then
        onceResult c (markDirty s c.inst) 0xC3 f 1 refused
      else if e.state == .freezing then stall s
      else onceResult c (startThaw (markDirty s c.inst) (handleEntry h)) 0xC3 f 1 (freezeHandle e.gen (handleEntry h) true)) := by
  show execThaw f s = _
  unfold execThaw issueM
  rw [issueWith_go hi, runs_of hg]
  rfl

theorem exec_fwait {s : State} {c : Iss} {f : MForm} (hi : IssuesM 0xC4 f s c) (hg : f.gsense = 0 ∨ c.act ≠ 0) :
    exec (.fwait f) s = .next (match fwaitAnswer s (c.sval f.x 1) with
      | none => stall s
      | some 0 => if !loadsDone s c.h then stall s else onceResult c (acquireFence s c.inst) 0xC4 f 1 0
      | some v => onceResult c s 0xC4 f 1 v) := by
  show execFwait f s = _
  unfold execFwait issueM
  rw [issueWith_go hi, runs_of hg]
  rfl

/-- A handle of the generation that its entry holds is answered by the entry's state. -/
theorem fwaitAnswer_same {s : State} {h : Nat} (hg : (s.frz (handleEntry h)).gen = handleGen h) (h7 : bitAt h 7 = false)
    (ht : handleThaw h = false) : fwaitAnswer s h = if (s.frz (handleEntry h)).state = .freezing then none else some 0 := by
  have ok : handleOk h = true := by unfold handleOk; rw [h7]; rfl
  simp [fwaitAnswer, ok, hg, ht]

/-! ### The events -/

/-- An entry that is frozen, of which the other packages are told. -/
theorem frz_frozen {s v : State} (hf : v.freeze = s.freeze) {i : Nat} (hi : i < s.freeze.length) (a : DomainAct) :
    let t := tellDomain (v.updFrz i (fun e => { e with state := .frozen })) a
    t.sched = v.sched ∧ t.frz i = { s.frz i with state := .frozen } ∧ ∀ j, j ≠ i → t.frz j = s.frz j := by
  have ct := conveys_tellDomain (v.updFrz i (fun e => { e with state := .frozen })) a
  refine ⟨ct.idles.2, (frz_of_freeze ct.freeze i).trans ?_, fun j hj => (frz_of_freeze ct.freeze j).trans ?_⟩
  · rw [frz_updFrz_self (by rw [hf]; exact hi), frz_of_freeze hf]
  · rw [frz_updFrz_ne v hj, frz_of_freeze hf]

/-- FREEZE_COMPLETE with nothing left to wait for: the entry is frozen. -/
theorem answers_freezeComplete {s v : State} {i : Nat} {e : FreezeEnt} (ha : s.arg.entry = i) (hz : s.frz i = e) (hi : i < s.freeze.length)
    (he : e.state = .freezing) (hk : shooting s (freezeShoot e) = false) (hst : storesInRange s e = false) (ht : e.thawWanted = false)
    (hp : publishFrozen (domainAct s (freezeAct i e)) i = (v, false)) (hf : v.freeze = s.freeze) (hs : v.Settled) :
    Answers .freezeComplete s (fun t => t.frz i = { e with state := .frozen } ∧ ∀ j, j ≠ i → t.frz j = s.frz j) := by
  obtain ⟨sched, h1, h2⟩ := frz_frozen hf hi (.frozen i e.gen)
  rw [hz] at h1
  refine answers_of_finish (u := tellDomain (v.updFrz i (fun e => { e with state := .frozen })) (.frozen i e.gen)) ?_
    ((congrArg Sched.raised sched).trans hs) ⟨h1, h2⟩
  show execFreezeComplete s = _
  unfold execFreezeComplete
  dsimp only
  rw [ha, hz, if_neg (by rw [he]; decide), hk, hst, if_neg (by decide), hp]
  dsimp only
  rw [if_neg Bool.false_ne_true, ht, if_neg Bool.false_ne_true]

/-- What a freeze publishes here leaves the freeze table. -/
theorem publishFrozen_eq {s u s1 s2 : State} {i : Nat} {e : FreezeEnt} {done : List FreezeEnt} {inside : Nat → Bool}
    (hu : u.freeze = s.freeze) (hz : s.frz i = e) (hd : done = (otherEntries s i).filter (fun x => x.state != .freezing))
    (h1 : s1 = readEntries u (e :: done))
    (hn : inside = fun p => inPages (entryPages s1 e) p && !inPages (pagesOfAll s1 done) p) (h2 : s2 = publishPages s1 inside) :
    publishFrozen u i = (s2, s2.coh.agents.any (fun a => a.wbBuf && inside (a.line / 512))) ∧ s2.freeze = s.freeze := by
  subst h2 hn h1 hd hz
  refine ⟨?_, (freeze_publishPages _ _).trans ?_⟩
  · unfold publishFrozen
    rw [frz_of_freeze hu i, otherEntries_congr hu i]
  · obtain ⟨m, w, h⟩ := reads_readEntries u (s.frz i :: (otherEntries s i).filter (fun x => x.state != .freezing))
    rw [h]
    exact hu

/-- The replicas of the lines that fall have left the L1s and the dies. -/
theorem dropReplicas_spec (s : State) (mine kept : List (Nat × Nat)) :
    let falls := fun (line : Nat) => inPages mine (line / 512) && !inPages kept (line / 512)
    let t := dropReplicas s mine kept
    (∀ k l, l ∈ (t.core k).l1 → l.kind = .replica → falls l.line = false) ∧ ∀ r ∈ t.coh.replicas, falls r.line = false := by
  intro falls t
  refine ⟨fun k l hl hk => ?_, fun r hr => ?_⟩
  · have hc : (t.core k) = Core.reset ∨ ∃ c : Core, (t.core k).l1 = c.l1.filter (fun l => !(l.kind == .replica && falls l.line)) := by
      show ((s.cores.map _).getD k Core.reset) = _ ∨ ∃ c : Core, ((s.cores.map _).getD k Core.reset).l1 = _
      rw [List.getD_eq_getElem?_getD, List.getElem?_map]
      cases s.cores[k]? with
      | none => exact .inl rfl
      | some c => exact .inr ⟨c, rfl⟩
    rcases hc with hc | ⟨c, hc⟩
    · rw [hc] at hl
      cases hl
    · rw [hc] at hl
      have := (List.mem_filter.1 hl).2
      rw [hk] at this
      simpa using this
  · simpa only [Bool.not_eq_true'] using (List.mem_filter.1 hr).2

/-- An invalidation drops translations, and no line of an L1. -/
theorem l1_shootDie (s : State) (d : Nat) (k : ShootKind) (n : Nat) : ((shootDie s d k).core n).l1 = (s.core n).l1 := by
  have drops : ∀ cs : List Nat, ((cs.foldl (fun s c => if (s.core c).tlb.isEmpty then s
      else s.updCore c (fun x => { x with tlb := x.tlb.filterMap (shootEntry k) })) s).core n).l1 = (s.core n).l1 := by
    intro cs
    refine foldl_field (fun s : State => (s.core n).l1) (fun s c => ?_) cs s
    split
    · rfl
    · rw [core_updCore]
      split
      next h => rw [h.1]
      · rfl
  unfold shootDie
  extract_lets s1 rt wc ws
  have e : (s1.core n).l1 = (s.core n).l1 := drops (dieCores d)
  clear_value s1 rt wc ws
  exact e

theorem l1_startShoot (s : State) (k : ShootKind) (n : Nat) : ((startShoot s k).2.core n).l1 = (s.core n).l1 := by
  have parts : ∀ (ds : List Nat) (i : Nat) (u : State), ((ds.foldl (fun s d =>
      ({ shootDie s d k with tr := { (shootDie s d k).tr with shoots := (shootDie s d k).tr.shoots ++ [Shoot.mk i d k] } } : State).post
        .shootdownComplete { die := d, shoot := i }) u).core n).l1 = (u.core n).l1 := by
    refine fun ds i u => foldl_field (fun s : State => (s.core n).l1) (fun s d => ?_) ds u
    have h := l1_shootDie s d k n
    generalize shootDie s d k = v at h ⊢
    exact h
  have e := parts (List.range 4) s.nextId { s with nextId := s.nextId + 1 }
  unfold startShoot State.fresh
  dsimp only
  rw [e]
  rfl

/-- Once the page tables have been read, a thaw whose first step is over everywhere drops the replicas here and begins its shootdown. -/
theorem beginThaw_spec {s : State} {i : Nat} (hi : i < s.freeze.length) : let t := beginThaw s i
    let falls := fun (line : Nat) => inPages (entryPages s (s.frz i)) (line / 512) && !inPages (pagesOfAll s (otherEntries s i)) (line / 512)
    Idles s t ∧ t.frz i = { s.frz i with thawWanted := true } ∧ (∀ j, j ≠ i → t.frz j = s.frz j) ∧
      (∀ k l, l ∈ (t.core k).l1 → l.kind = .replica → falls l.line = false) ∧ ∀ r ∈ t.coh.replicas, falls r.line = false := by
  intro t falls
  obtain ⟨hl, hr⟩ := dropReplicas_spec s (entryPages s (s.frz i)) (pagesOfAll s (otherEntries s i))
  have hd : Idles s (dropReplicas s (entryPages s (s.frz i)) (pagesOfAll s (otherEntries s i))) ∧
      (dropReplicas s (entryPages s (s.frz i)) (pagesOfAll s (otherEntries s i))).freeze = s.freeze := ⟨.refl s, rfl⟩
  unfold t beginThaw
  dsimp only
  generalize dropReplicas s (entryPages s (s.frz i)) (pagesOfAll s (otherEntries s i)) = u at hl hr hd ⊢
  have hk := l1_startShoot (u.updFrz i (fun e => { e with thawWanted := true })) (thawShoot (s.frz i))
  obtain ⟨-, cores, rt, wc, ws, net, e⟩ := startShoot_eq (u.updFrz i (fun e => { e with thawWanted := true })) (thawShoot (s.frz i))
  generalize (startShoot (u.updFrz i (fun e => { e with thawWanted := true })) (thawShoot (s.frz i))).2 = v at hk e ⊢
  have hf : v.freeze = (u.updFrz i (fun e => { e with thawWanted := true })).freeze := by rw [e]
  have hc : v.coh = u.coh := by rw [e]; rfl
  have hv : Idles u v := by rw [e]; exact .refl u
  refine ⟨hd.1.trans hv, ?_, fun j hj => ?_, fun k l h => hl k l ?_, ?_⟩
  · rw [frz_of_freeze hf, frz_updFrz_self (by rw [hd.2]; exact hi), frz_of_freeze hd.2]
  · rw [frz_of_freeze hf, frz_updFrz_ne u hj, frz_of_freeze hd.2]
  · rw [hk k] at h
    exact h
  · rw [hc]
    exact hr

theorem Reads.idles {s t : State} (h : Reads s t) : Idles s t ∧ t.freeze = s.freeze := by
  obtain ⟨m, w, rfl⟩ := h
  exact ⟨.refl s, rfl⟩

/-! ### The end of a thaw -/

/-- A state but for its cores' and its own translations. -/
def State.unmapped (s : State) : State := { s with
  tr := Trans.reset
  cores := [] }

theorem idles_of_unmapped {s t : State} (h : t.unmapped = s.unmapped) : Idles s t ∧ t.freeze = s.freeze :=
  ⟨⟨⟨(congrArg State.mem h :), (congrArg State.slices h :), (congrArg State.hatches h :), (congrArg State.ops h :)⟩,
    (congrArg State.sched h :)⟩, (congrArg State.freeze h :)⟩

theorem addFrozen_unmapped (s : State) (pa n : Nat) : (addFrozen s pa n).unmapped = s.unmapped := by
  unfold addFrozen
  dsimp only
  split <;> rfl

theorem clearThaw_unmapped (s : State) (i : Nat) : (clearThaw s i).unmapped = s.unmapped :=
  foldl_field State.unmapped (fun s (x : Nat × Nat) => addFrozen_unmapped s (x.1 * 65536) x.2) _ _

theorem shootNow_unmapped (s : State) (k : ShootKind) : (shootNow s k).unmapped = s.unmapped :=
  foldl_field State.unmapped (fun s d => by
    obtain ⟨cores, rt, wc, ws, e⟩ := shootDie_eq s d k
    rw [e]
    rfl) _ s

/-- The entry is free, and nothing that runs has changed. -/
theorem endThaw_spec {s : State} {i : Nat} (hi : i < s.freeze.length) : Idles s (endThaw s i) ∧
    (endThaw s i).frz i = { s.frz i with
      state := .free
      thawWanted := false } ∧ ∀ j, j ≠ i → (endThaw s i).frz j = s.frz j := by
  obtain ⟨w1, f1⟩ := idles_of_unmapped (clearThaw_unmapped s i)
  unfold endThaw
  dsimp only
  generalize clearThaw s i = u at w1 f1 ⊢
  obtain ⟨w2, f2⟩ := idles_of_unmapped (shootNow_unmapped (u.updFrz i (fun e => { e with
    state := .free
    thawWanted := false })) (thawShoot (s.frz i)))
  generalize shootNow _ _ = v at w2 f2 ⊢
  refine ⟨w1.trans w2, ?_, fun j hj => ?_⟩
  · rw [frz_of_freeze f2, frz_updFrz_self (by rw [f1]; exact hi), frz_of_freeze f1]
  · rw [frz_of_freeze f2, frz_updFrz_ne u hj, frz_of_freeze f1]

/-! ### THAW_COMPLETE -/

theorem Reads.domainDone {s t : State} (h : Reads s t) (a : DomainAct) : domainDone t a = domainDone s a := by
  obtain ⟨m, w, rfl⟩ := h
  rfl

theorem frz_dropAsk (s : State) (a : DomainAct) (i : Nat) : (dropAsk s a).frz i = s.frz i := rfl

theorem pagesOfAll_dropAsk (s : State) (a : DomainAct) (i : Nat) :
    pagesOfAll (dropAsk s a) (otherEntries (dropAsk s a) i) = pagesOfAll s (otherEntries s i) := by
  unfold pagesOfAll
  exact congrArg (fun f => (otherEntries s i).flatMap f) (funext (entryPages_asked s _))

/-- THAW_COMPLETE in the first step, with no package left to answer. -/
theorem exec_thawComplete_first {s : State} (he : (s.frz s.arg.entry).state = .thawing) (ht : (s.frz s.arg.entry).thawWanted = false)
    (hd : domainDone s (.thaw s.arg.entry (s.frz s.arg.entry).gen) = true) :
    let s3 := readEntries s (s.frz s.arg.entry :: otherEntries s s.arg.entry)
    exec .thawComplete s = .next (finish ((beginThaw (dropAsk s3 (.thaw s.arg.entry (s.frz s.arg.entry).gen)) s.arg.entry).post .thawComplete
      { entry := s.arg.entry })) := by
  intro s3
  have hd : domainDone s3 (.thaw s.arg.entry (s.frz s.arg.entry).gen) = true := ((reads_readEntries s _).domainDone _).trans hd
  show execThawComplete s = _
  unfold execThawComplete
  dsimp only
  rw [he, ht, if_neg (by decide), if_neg (by simp), if_pos (by decide)]
  unfold domainAct
  rw [if_pos hd]

/-- THAW_COMPLETE in the last step, with no package left to answer. -/
theorem exec_thawComplete_last {s : State} (he : (s.frz s.arg.entry).state = .thawing) (ht : (s.frz s.arg.entry).thawWanted = true)
    (hk : shooting s (thawShoot (s.frz s.arg.entry)) = false) (hd : domainDone s (.thawed s.arg.entry (s.frz s.arg.entry).gen) = true) :
    let s3 := readEntries s (s.frz s.arg.entry :: otherEntries s s.arg.entry)
    exec .thawComplete s = .next (finish (endThaw (dropAsk s3 (.thawed s.arg.entry (s.frz s.arg.entry).gen)) s.arg.entry)) := by
  intro s3
  have hd : domainDone s3 (.thawed s.arg.entry (s.frz s.arg.entry).gen) = true := ((reads_readEntries s _).domainDone _).trans hd
  show execThawComplete s = _
  unfold execThawComplete
  dsimp only
  rw [he, ht, hk, if_neg (by decide), if_neg (by decide), if_neg (by decide), if_pos hd]

/-- A freeze or a thaw whose shootdown or stores are not over is looked at again. -/
theorem exec_freezeComplete_waits {s : State} (he : (s.frz s.arg.entry).state = .freezing)
    (hw : shooting s (freezeShoot (s.frz s.arg.entry)) = true ∨ storesInRange s (s.frz s.arg.entry) = true) :
    exec .freezeComplete s = .next (s.park .freezeComplete) := by
  show execFreezeComplete s = _
  unfold execFreezeComplete
  dsimp only
  rw [he, if_neg (by decide), if_pos (by simpa using hw)]

theorem exec_thawComplete_waits {s : State} (he : (s.frz s.arg.entry).state = .thawing) (ht : (s.frz s.arg.entry).thawWanted = true)
    (hk : shooting s (thawShoot (s.frz s.arg.entry)) = true) : exec .thawComplete s = .next (s.park .thawComplete) := by
  show execThawComplete s = _
  unfold execThawComplete
  dsimp only
  rw [he, ht, hk, if_neg (by decide), if_pos (by decide)]

theorem mem_parked (s : State) (i : Instr) : (⟨i, s.arg⟩ : Event) ∈ (s.park i).parked := List.mem_append_right _ List.mem_cons_self

/-! ### What another package says -/

theorem exec_pub_act {s : State} {a : DomainAct} (h : s.arg.act = some a) : exec .pub s = .next (execDomain s a) := by
  show execPub s = _
  unfold execPub
  rw [h]

/-- The package that has answered is waited for no longer. -/
theorem answers_done {s : State} (hs : s.Settled) (h : s.arg.act = some .done) : Answers .pub s (fun t => SameWork s t ∧ t.freeze = s.freeze ∧
    ∀ x ∈ t.coh.asked, x.key = s.arg.op → ∀ c ∈ x.wait, Who.agent c 0 ≠ s.arg.who) := by
  refine Idles.answers (u := (serveDomain s .done).1) (.refl s) hs ((exec_pub_act h).trans ?_) ⟨rfl, fun x hx hk c hc => ?_⟩
  · unfold execDomain
    rw [show serveDomain s .done = ((serveDomain s .done).1, true) from rfl]
    dsimp only
    rw [if_pos (by simp)]
  · have hx : x ∈ updWhere (fun x : DomainAsk => x.key == s.arg.op)
      (fun x => { x with wait := x.wait.filter (fun c => Who.agent c 0 != s.arg.who) }) s.coh.asked := hx
    unfold updWhere at hx
    obtain ⟨y, hy, rfl⟩ := List.mem_map.1 hx
    by_cases hy : y.key == s.arg.op
    · rw [if_pos hy] at hc
      simpa using (List.mem_filter.1 hc).2
    · rw [if_neg hy] at hk
      exact absurd (beq_iff_eq.2 hk) hy

/-- A freeze that another package says is over is frozen here. -/
theorem answers_frozen {s : State} {i gen : Nat} (hs : s.Settled) (h : s.arg.act = some (.frozen i gen)) (h0 : s.arg.op = 0)
    (hi : i < s.freeze.length) (he : (s.frz i).state = .freezing) (hg : (s.frz i).gen = gen) (ht : (s.frz i).thawWanted = false) :
    Answers .pub s (fun t => SameWork s t ∧ t.frz i = { s.frz i with state := .frozen } ∧ ∀ j, j ≠ i → t.frz j = s.frz j) := by
  have hd : serveDomain s (.frozen i gen) = (s.updFrz i (fun e => { e with state := .frozen }), true) := by
    unfold serveDomain
    dsimp only
    rw [he, hg, ht, if_neg (by simp), if_neg (by decide)]
  refine Idles.answers (u := s.updFrz i (fun e => { e with state := .frozen })) (.refl s) hs ((exec_pub_act h).trans ?_)
    ⟨frz_updFrz_self hi (fun e => { e with state := .frozen }), fun j hj => frz_updFrz_ne s hj (fun e => { e with state := .frozen })⟩
  unfold execDomain
  rw [hd]
  dsimp only
  rw [if_pos (by rw [show (s.updFrz i (fun e => { e with state := .frozen })).arg.op = s.arg.op from rfl, h0]; rfl)]

/-- THAW_COMPLETE in its first step drops the replicas here and begins its shootdown. -/
theorem answers_thawComplete_first {s : State} {i : Nat} {e : FreezeEnt} (ha : s.arg.entry = i) (hz : s.frz i = e) (hi : i < s.freeze.length)
    (hs : s.Settled) (he : e.state = .thawing) (ht : e.thawWanted = false) (hd : domainDone s (.thaw i e.gen) = true) :
    let s3 := readEntries s (e :: otherEntries s i)
    let falls := fun (line : Nat) => inPages (entryPages s3 e) (line / 512) && !inPages (pagesOfAll s3 (otherEntries s3 i)) (line / 512)
    Answers .thawComplete s (fun t => SameWork s t ∧ t.frz i = { e with thawWanted := true } ∧ (∀ j, j ≠ i → t.frz j = s.frz j) ∧
      (∀ k l, l ∈ (t.core k).l1 → l.kind = .replica → falls l.line = false) ∧
      (∀ r ∈ t.coh.replicas, falls r.line = false) ∧ (⟨.thawComplete, { entry := i }⟩ : Event) ∈ t.net) := by
  subst ha hz
  intro s3 falls
  have hrf : Idles s s3 ∧ s3.freeze = s.freeze := (reads_readEntries s _).idles
  have hx : exec .thawComplete s = .next (finish ((beginThaw (dropAsk s3 (.thaw s.arg.entry (s.frz s.arg.entry).gen)) s.arg.entry).post
    .thawComplete { entry := s.arg.entry })) := exec_thawComplete_first he ht hd
  have hy : ∀ a, entryPages (dropAsk s3 a) = entryPages s3 := fun a => funext (entryPages_asked s3 _)
  obtain ⟨hr, hf⟩ := hrf
  clear_value s3
  have hl : s.arg.entry < (dropAsk s3 (.thaw s.arg.entry (s.frz s.arg.entry).gen)).freeze.length :=
    Nat.lt_of_lt_of_eq hi (congrArg List.length (hf.symm : s.freeze = s3.freeze))
  obtain ⟨w, h1, h2, h3, h4⟩ := beginThaw_spec hl
  rw [frz_dropAsk, frz_of_freeze hf, hy, pagesOfAll_dropAsk] at h3 h4
  rw [frz_dropAsk, frz_of_freeze hf] at h1
  have hj : ∀ j, (dropAsk s3 (.thaw s.arg.entry (s.frz s.arg.entry).gen)).frz j = s.frz j := frz_of_freeze hf
  have hw : Idles s3 (dropAsk s3 (.thaw s.arg.entry (s.frz s.arg.entry).gen)) := .refl s3
  generalize beginThaw _ _ = v at hx w h1 h2 h3 h4
  have hp : Idles v (v.post .thawComplete { entry := s.arg.entry }) := .refl v
  exact ((hr.trans hw).trans (w.trans hp)).answers hs hx ⟨h1, fun j hne => (h2 j hne).trans (hj j), h3, h4, mem_net_post v .thawComplete { entry := s.arg.entry }⟩

/-- THAW_COMPLETE in its last step frees the entry. -/
theorem answers_thawComplete_last {s : State} {i : Nat} {e : FreezeEnt} (ha : s.arg.entry = i) (hz : s.frz i = e) (hi : i < s.freeze.length)
    (hs : s.Settled) (he : e.state = .thawing) (ht : e.thawWanted = true) (hk : shooting s (thawShoot e) = false)
    (hd : domainDone s (.thawed i e.gen) = true) : Answers .thawComplete s (fun t => SameWork s t ∧ t.frz i = { e with
      state := .free
      thawWanted := false } ∧ ∀ j, j ≠ i → t.frz j = s.frz j) := by
  subst ha hz
  have hx := exec_thawComplete_last he ht hk hd
  obtain ⟨hr, hf⟩ := (reads_readEntries s (s.frz s.arg.entry :: otherEntries s s.arg.entry)).idles
  dsimp only at hx
  generalize readEntries s _ = s3 at hx hr hf
  have hl : s.arg.entry < (dropAsk s3 (.thawed s.arg.entry (s.frz s.arg.entry).gen)).freeze.length :=
    Nat.lt_of_lt_of_eq hi (congrArg List.length (hf.symm : s.freeze = s3.freeze))
  obtain ⟨w, h1, h2⟩ := endThaw_spec hl
  have hj : ∀ j, (dropAsk s3 (.thawed s.arg.entry (s.frz s.arg.entry).gen)).frz j = s.frz j := frz_of_freeze hf
  have hw : Idles s3 (dropAsk s3 (.thawed s.arg.entry (s.frz s.arg.entry).gen)) := .refl s3
  rw [hj] at h1
  generalize endThaw _ _ = v at hx w h1 h2
  refine ((hr.trans hw).trans w).answers hs hx ?_
  exact ⟨h1, fun j hne => (h2 j hne).trans (hj j)⟩

/-- FREEZE_COMPLETE, once what the range holds here is published and written back. -/
theorem answers_published {s : State} {i : Nat} {e : FreezeEnt} (ha : s.arg.entry = i) (hz : s.frz i = e) (hi : i < s.freeze.length) :
    let done := (otherEntries s i).filter (fun x => x.state != .freezing)
    let s1 := readEntries (domainAct s (freezeAct i e)) (e :: done)
    let inside := fun (p : Nat) => inPages (entryPages s1 e) p && !inPages (pagesOfAll s1 done) p
    let s2 := publishPages s1 inside
    e.state = .freezing → shooting s (freezeShoot e) = false → storesInRange s e = false → e.thawWanted = false → s2.Settled →
    s2.coh.agents.any (fun a => a.wbBuf && inside (a.line / 512)) = false →
    Answers .freezeComplete s (fun t => t.frz i = { e with state := .frozen } ∧ ∀ j, j ≠ i → t.frz j = s.frz j) := by
  intro done s1 inside s2 he hk hst ht h2 hb
  obtain ⟨hp, hf⟩ := publishFrozen_eq (s1 := s1) (s2 := s2) (inside := inside) (freeze_domainAct s (freezeAct i e)) hz rfl rfl rfl rfl
  clear_value s2
  rw [hb] at hp
  exact answers_freezeComplete ha hz hi he hk hst ht hp hf h2

end Sys2Proof.Machine

open Sys2Proof.Machine in
/-- Settles O41: each instruction by its check, and each event by the shootdown and the lines it waits for. -/
theorem freezes : Obligations.Freezes := by
  refine ⟨fun s c f hg => ?_, fun s hi => ?_, fun s hs => ?_⟩
  · intro base size h e
    refine ⟨fun hi hc hm hr => ?_, fun hi r hc => ⟨_, exec_freeze_trap hi hg hc, rfl⟩, fun hi hf he => ?_, fun hi h7 ht hz hgen hctx => ?_,
      fun hi hs => ⟨fun ha => ?_, fun ha hl he => ?_, fun ha he => ?_, fwaitAnswer_same⟩⟩
    · intro s1 free i s2
      have hx := exec_freeze hi hg hc hm hr
      refine ⟨fun hf he => ⟨_, hx, ?_⟩, fun hf he => ⟨_, hx, ?_⟩⟩
      · dsimp only
        rw [if_pos (List.isEmpty_iff.2 hf)]
        exact ended_of he
      · dsimp only
        rw [if_neg (by rw [List.isEmpty_iff]; exact hf), freezeHandle_freeze]
        exact startFreeze_ends (choose_lt (s := s1) (fun e => e.state == .free) _ hf) he
    · refine ⟨_, exec_thaw hi hg, ?_⟩
      dsimp only
      rw [if_pos]
      · exact ended_of he
      · rcases hf with hf | hf | hf | hf <;> simp [hf, h, e]
    · intro s1 he hlen
      refine ⟨_, exec_thaw hi hg, ?_⟩
      dsimp only
      have ok : handleOk (c.sval f.x 1) = true := by unfold handleOk; rw [h7]; rfl
      have hz : (s.frz (handleEntry (c.sval f.x 1))).state = .frozen := hz
      have hgen : (s.frz (handleEntry (c.sval f.x 1))).gen = handleGen (c.sval f.x 1) := hgen
      have hctx : (s.frz (handleEntry (c.sval f.x 1))).ctx = ctxOf s c.h := hctx
      have lt : handleEntry (c.sval f.x 1) < 64 := Nat.mod_lt _ (by decide)
      rw [if_neg (by simp [ok, show handleThaw (c.sval f.x 1) = false from ht, hz, hgen, hctx]), if_neg (by rw [hz]; decide),
        freezeHandle_thaw lt]
      exact startThaw_ends (v := markDirty s c.inst) hlen he
    · exact ⟨_, exec_fwait hi hg, by rw [ha]; exact stalled_stall hs⟩
    · exact ⟨_, exec_fwait hi hg, by rw [ha, hl]; exact ended_of he⟩
    · exact ⟨_, exec_fwait hi hg, by rw [ha]; exact ended_of he⟩
  · refine ⟨fun he hk hst ht h2 hb => ?_, fun hs he hw => ?_, fun hs he ht hd => ?_, fun hs he ht hk => ?_, fun hs he ht hk hd => ?_⟩
    · exact answers_published rfl rfl hi he hk hst ht h2 hb
    · exact ⟨_, exec_freezeComplete_waits he hw, ⟨rfl, rfl, rfl, rfl⟩, rfl, mem_parked s _⟩
    · exact answers_thawComplete_first rfl rfl hi hs he ht hd
    · exact ⟨_, exec_thawComplete_waits he ht hk, ⟨rfl, rfl, rfl, rfl⟩, rfl, mem_parked s _⟩
    · exact answers_thawComplete_last rfl rfl hi hs he ht hk hd
  · exact ⟨answers_done hs, fun i gen h h0 hi he hg ht => answers_frozen hs h h0 hi he hg ht⟩

end

section
/-! PROOFS. The statement of page walks and shootdowns. -/

namespace Sys2Proof.Machine

/-! ### A walk is over (R64, R67) -/

/-- No walk waits for one of the die's places: none is started. -/
theorem startQueued_none {s : State} {die : Nat} (h : ∀ x ∈ s.tr.walks, x.die = die → x.queued = false) : startQueued s die = s := by
  unfold startQueued
  rw [List.find?_eq_none.2 (fun x hx => ?_)]
  by_cases hd : x.die = die
  · simp [h x hx hd]
  · simp [hd]

theorem resolve_lane (s : State) (ctx : Nat) (a : LaneAcc) (x : XRes) :
    (a.resolve s ctx x).lane = a.lane ∧ (a.resolve s ctx x).va = a.va ∧ (a.resolve s ctx x).tr = true := by
  unfold LaneAcc.resolve
  split <;> exact ⟨rfl, rfl, rfl⟩

theorem mem_ids {s : State} {o : Op} {n : Nat} (h : s.op? n = some o) : n ∈ s.ops.map (·.id) :=
  List.mem_map.2 ⟨o, List.mem_of_find?_eq_some h, by simpa using List.find?_some h⟩

theorem MemKeeps.ids {s t : State} (h : MemKeeps s t) : t.ops.map (·.id) = s.ops.map (·.id) :=
  h.keeps (fun u => u.ops.map (·.id)) (fun u => (List.map_map (f := fun o : Op => { o with prog := 0 }) (g := Op.id) (l := u.ops)).trans rfl)

/-- An operation that is replaced by another of the same identifier. -/
theorem op?_updOp_const {s : State} {o : Op} {n : Nat} (h : n ∈ s.ops.map (·.id)) (ho : o.id = n) : (s.updOp n (fun _ => o)).op? n = some o := by
  obtain ⟨p, hp, hn⟩ := List.mem_map.1 h
  unfold State.op? State.updOp
  dsimp only
  rw [find?_updWhere_key Op.id (fun _ _ => ho) n]
  obtain ⟨q, hq⟩ : ∃ q, s.ops.find? (fun o => o.id == n) = some q :=
    Option.isSome_iff_exists.1 (List.find?_isSome.2 ⟨p, hp, beq_iff_eq.2 hn⟩)
  rw [hq]
  simp

/-- A store whose one lane has been translated to memory that this package caches asks for write permission. -/
theorem advanceOp_one {s : State} {o : Op} {b : LaneAcc} (hl : o.lanes = [b]) (ht : b.tr = true) (hf : b.fault = 0) (hp : b.pending = true)
    (hh : homeStore o b = false) : advanceOp s o =
      (s.updOp o.id (fun _ => o)).post .writePermissionRequest { op := o.id, line := b.line } := by
  have e : ({ o with lanes := [b] } : Op) = o := by rw [← hl]
  unfold advanceOp
  simp only [hl, resolveHits, ht, if_true, e]
  unfold dispatchStore linesOf
  simp [hl, ht, hf, hp, hh, dedup, tcPoison]

/-- The one lane of a store is translated. -/
theorem walkedLanes_one {u s1 : State} {o : Op} {a : LaneAcc} {x : XRes}
    (h : translateNow u o.core o.ctx (ctxKernel u o.ctx) .store a.va = (s1, x)) : walkedLanes u o [a] = (s1, [a.resolve s1 o.ctx x]) := by
  unfold walkedLanes
  rw [h]
  rfl

/-- WALK_COMPLETE where one store of one lane waits for the page. -/
theorem exec_walkComplete {s s1 : State} {w : Walk} {o : Op} {a : LaneAcc} {x : XRes}
    (h : s.tr.walks.find? (fun x => x.id == s.arg.walk) = some w) (hs : w.stale = false)
    (hb : s.tr.shoots.any (fun x => x.die == w.die && shootWalk x.kind w) = false) (ho : w.ops = [o.id]) (hm : w.misses = [])
    (hq : ∀ x ∈ s.tr.walks, x.id ≠ w.id → x.die = w.die → x.queued = false) (hf : s.op? o.id = some o) (hl : o.lanes = [a])
    (ht : a.tr = false) (hc : w.covers w.die w.ctx (a.va % 2 ^ 52) = true)
    (hx : translateNow { s with tr := { s.tr with walks := s.tr.walks.filter (fun x => x.id != w.id) } } o.core o.ctx
      (ctxKernel { s with tr := { s.tr with walks := s.tr.walks.filter (fun x => x.id != w.id) } } o.ctx) .store a.va = (s1, x)) :
    exec .walkComplete s = .next (finish (advanceOp s1 { o with lanes := [a.resolve s1 o.ctx x] })) := by
  obtain ⟨lane, va, -⟩ := resolve_lane s1 o.ctx a x
  show execWalkComplete s = _
  unfold execWalkComplete
  rw [h]
  dsimp only
  rw [if_neg (by simp [hs]), if_neg (by simp [hb]), startQueued_none fun x hx => ?_]
  · have hf : ({ s with tr := { s.tr with walks := s.tr.walks.filter (fun x => x.id != w.id) } } : State).op? o.id = some o := hf
    have hk : o.lanes.filter (fun a => !a.tr && w.covers w.die w.ctx (a.va % 2 ^ 52)) = [a] := by
      rw [hl]
      simp only [List.filter_cons, List.filter_nil, ht, hc, Bool.not_false, Bool.and_self, if_true]
    generalize ({ s with tr := { s.tr with walks := s.tr.walks.filter (fun x => x.id != w.id) } } : State) = u at hx hf ⊢
    rw [ho, hm, List.foldl_nil, List.foldl_cons, List.foldl_nil, hf]
    dsimp only
    rw [hk, walkedLanes_one hx, hl]
    dsimp only
    rw [List.map_cons, List.map_nil, List.find?_cons_of_pos (by simp [lane, va]), Option.getD_some]
  · obtain ⟨hx, hn⟩ := List.mem_filter.1 hx
    exact hq x hx (by simpa using hn)

/-- The lane of the store holds its translation, and its line asks for write permission. -/
theorem answers_walkComplete {s s1 : State} {w : Walk} {o : Op} {a : LaneAcc} {x : XRes}
    (he : exec .walkComplete s = .next (finish (advanceOp s1 { o with lanes := [a.resolve s1 o.ctx x] })))
    (hk : MemKeeps { s with tr := { s.tr with walks := s.tr.walks.filter (fun x => x.id != w.id) } } s1) (hf : s.op? o.id = some o)
    (hs : s1.Settled) (h0 : (a.resolve s1 o.ctx x).fault = 0) (hp : (a.resolve s1 o.ctx x).pending = true)
    (hh : homeStore o (a.resolve s1 o.ctx x) = false) :
    Answers .walkComplete s (fun t => (∃ q, t.op? o.id = some q ∧ q.lanes = [a.resolve s1 o.ctx x]) ∧
      (⟨.writePermissionRequest, { op := o.id, line := (a.resolve s1 o.ctx x).line }⟩ : Event) ∈ t.net ∧ ∀ y ∈ t.tr.walks, y.id ≠ w.id) := by
  rw [advanceOp_one (o := { o with lanes := [a.resolve s1 o.ctx x] }) rfl (resolve_lane _ _ _ _).2.2 h0 hp hh] at he
  have hw : s1.tr.walks = s.tr.walks.filter (fun x => x.id != w.id) := hk.keeps (fun u => u.tr.walks) (fun _ => rfl)
  have hi : o.id ∈ s1.ops.map (·.id) := by
    rw [hk.ids]
    exact mem_ids hf
  refine answers_of_finish he hs ⟨⟨_, op?_updOp_const hi rfl, rfl⟩, mem_net_post _ _ _, fun y hy => ?_⟩
  have hy : y ∈ s1.tr.walks := hy
  rw [hw] at hy
  simpa using (List.mem_filter.1 hy).2

/-- A stale walk starts again. -/
theorem answers_staleWalk {s : State} {w : Walk} (hs : s.Settled) (h : s.tr.walks.find? (fun x => x.id == s.arg.walk) = some w)
    (hw : w.stale = true) : Answers .walkComplete s (fun t => SameWork s t ∧ (⟨.walkComplete, { walk := w.id }⟩ : Event) ∈ t.net ∧
      ∀ x ∈ t.tr.walks, x.id = w.id → x.stale = false) := by
  refine Idles.answers (u := ({ s with tr := { s.tr with
    walks := updWhere (fun x => x.id == w.id) (fun x => { x with stale := false }) s.tr.walks } } : State).post .walkComplete
      { walk := w.id }) (.refl s) hs ?_ ⟨mem_net_post _ _ _, fun x hx hi => ?_⟩
  · show execWalkComplete s = _
    unfold execWalkComplete
    rw [h]
    dsimp only
    rw [if_pos hw]
  · obtain ⟨y, -, rfl⟩ := List.mem_map.1 (hx : x ∈ updWhere (fun x => x.id == w.id) (fun x => { x with stale := false }) s.tr.walks)
    by_cases hy : y.id == w.id
    · rw [if_pos hy]
    · rw [if_neg hy] at hi
      exact absurd (beq_iff_eq.2 hi) hy

/-! ### An invalidation is over on a die (R68, R315) -/

/-- SHOOTDOWN_COMPLETE with no walk of the die left to wait for. -/
theorem exec_shootdownComplete {s u : State} {x : Shoot} (h : s.tr.shoots.find? (fun y => y.die == s.arg.die && y.id == s.arg.shoot) = some x)
    (hw : s.tr.walks.any (fun w => w.die == s.arg.die && w.stale && shootWalk x.kind w) = false)
    (hu : u = { s with tr := { s.tr with shoots := s.tr.shoots.filter (fun y => !(y.die == s.arg.die && y.id == s.arg.shoot)) } }) :
    exec .shootdownComplete s = .next (finish (if u.tr.shoots.any (fun y => y.id == s.arg.shoot) then u
      else ((allPaths s).filter (fun y => y.2.2.wait == .shoot s.arg.shoot)).foldl (fun s y => retire s y.1.inst y.2.1 y.2.2.pc 8) u)) := by
  subst hu
  show execShootdownComplete s = _
  unfold execShootdownComplete
  dsimp only
  rw [h]
  dsimp only
  rw [hw, if_neg Bool.false_ne_true]
  rfl

/-- A path of the list is that of its hatch's slot. -/
theorem path?_of_mem {s : State} {h : Hatch} {slot : Nat} {p : Path} (hm : (h, slot, p) ∈ allPaths s) : h.path? slot = some p := by
  unfold allPaths at hm
  obtain ⟨g, -, hm⟩ := List.mem_flatMap.1 hm
  rcases List.mem_append.1 hm with hm | hm
  · cases h0 : g.slot0 with
    | none => rw [h0] at hm; cases hm
    | some q =>
      rw [h0] at hm
      cases List.mem_singleton.1 hm
      exact h0
  · cases h1 : g.slot1 with
    | none => rw [h1] at hm; cases hm
    | some q =>
      rw [h1] at hm
      cases List.mem_singleton.1 hm
      exact h1

/-- The path goes on to the next instruction. -/
theorem path_retire_at {s : State} {inst slot : Nat} {h : Hatch} {p : Path} (hh : s.hatch? inst = some h) (hp : h.path? slot = some p)
    (pc len : Nat) : ((retire s inst slot pc len).hatch? inst).bind (fun g => (g.path? slot).map (fun q => (q.pc, q.wait))) =
      some ((endCheck (wrap64 (pc + len)) p.loops).2, .none) := by
  have e := (noteIssue_spec (s.updPath inst slot (fun p => p.arrive (wrap64 (pc + len)))) inst slot).2
  rw [path_updPath, hh, Option.bind_some, hp] at e
  unfold retire
  cases hg : (noteIssue (s.updPath inst slot (fun p => p.arrive (wrap64 (pc + len)))) inst slot).hatch? inst with
  | none => rw [hg] at e; cases e
  | some g =>
    rw [hg] at e
    rw [Option.bind_some, show g.path? slot = _ from e]
    rfl

end Sys2Proof.Machine

open Sys2Proof.Machine in
/-- Settles O47: a walk serves the access that waits for it, and an invalidation ends with its last part. -/
theorem walksAndShootdowns : Obligations.WalksAndShootdowns := by
  refine fun s => ⟨fun w o a s1 x h => ?_, fun w hs h hw => answers_staleWalk hs h hw, fun x hs h hw => ⟨fun hl => ?_, fun i slot p hl hp hi => ?_⟩⟩
  · intro s0 b hs hb ho hm hq hf hl ht hc hx h1 h0 hp hh
    have hk := memKeeps_translateNow s0 o.core o.ctx (ctxKernel s0 o.ctx) .store a.va
    rw [hx] at hk
    exact answers_walkComplete (exec_walkComplete h hs hb ho hm hq hf hl ht hc hx) hk hf h1 h0 hp hh
  · refine (exec_shootdownComplete h hw rfl).trans ?_
    rw [if_pos hl]
    exact congrArg Host.Outcome.next (finish_settled hs)
  · obtain ⟨u, hu⟩ : ∃ u : State, u = { s with tr := { s.tr with
      shoots := s.tr.shoots.filter (fun y => !(y.die == s.arg.die && y.id == s.arg.shoot)) } } := ⟨_, rfl⟩
    have hm : (i, slot, p) ∈ allPaths s := (List.mem_filter.1 (hp ▸ List.mem_singleton.2 rfl)).1
    have e := exec_shootdownComplete h hw hu
    rw [if_neg (by rw [hu]; exact Bool.eq_false_iff.1 hl), hp, List.foldl_cons, List.foldl_nil] at e
    have hv : u.hatch? i.inst = some i := by rw [hu]; exact hi
    have hn := retire_near u i.inst slot p.pc 8
    have hsu : u.Settled := by rw [hu]; exact hs
    have hf : u.tr.shoots = s.tr.shoots.filter (fun y => !(y.die == s.arg.die && y.id == s.arg.shoot)) ∧ u.mem = s.mem := by
      rw [hu]
      exact ⟨rfl, rfl⟩
    exact answers_of_finish e (hn.settled hsu) ⟨(congrArg (fun v : State => v.tr.shoots) hn.1 :).trans hf.1,
      (congrArg State.mem hn.1 :).trans hf.2, path_retire_at hv (path?_of_mem hm) p.pc 8⟩

end

section
/-! PROOFS. Why the statement of loads and stores fails: `stiv` of a plain NaN sets a flag at its issue (R356, R383). -/

namespace Sys2Proof.Machine

/-- `stiv` of the `f32` points of v0 at the address in s32 and s33. -/
def nanForm : MForm :=
  ⟨0x00, 0x60, false, false, 0xD1, false, false, 0, 0, 5, 0, false, 0, 0, 0, 0, 0, 2, false, 0⟩

/-- A hatch whose registers hold the code of a NaN. -/
def nanHatch : Hatch := { newHatch 1 (newBlock 1 0 0 0 LaunchRec.zero 0) LaunchRec.zero 0 0 0 0 0 with
  slot0 := some (Path.start 0 1 0 false)
  s := List.replicate 128 0x7FC00000
  v := List.replicate 64 ⟨true, 0, List.replicate 96 0x7FC00000, List.replicate 96 0⟩ }

/-- Its path is about to issue. -/
def nanState : State := { State.reset with
  hatches := [nanHatch]
  cur := some ⟨1, 0⟩ }

def nanIss : Iss := ⟨nanHatch, Path.start 0 1 0 false, 0, LaunchRec.zero, false, 1⟩

theorem nanState_issues : IssuesF 0xAC nanForm nanState nanIss nanIss :=
  ⟨⟨nanIss, by decide +kernel, by decide +kernel, by decide +kernel⟩, by decide +kernel⟩

/-- The store has set INV. -/
theorem exec_stiv_nan : (match exec (.stiv nanForm) nanState with
    | .next t => (t.hatch? 1).map Hatch.fpflags
    | _ => none) = some flInv := by decide +kernel

/-- Refutes O33: the beginning of a store does not leave the sticky flags alone. A `stiv` of a plain NaN sets INV. -/
theorem not_loadsAndStoresBegin : ¬ Obligations.LoadsAndStoresBegin := by
  intro h
  obtain ⟨-, -, -, hstiv, -⟩ := h.2 nanState nanIss nanIss nanForm rfl
  obtain ⟨begins, -⟩ := hstiv nanState_issues (by decide +kernel) (by decide +kernel) (by decide +kernel)
  obtain ⟨t, ht, o, hb, -⟩ := begins (by decide +kernel) (.inl (by decide +kernel)) (by decide +kernel)
  have hx := exec_stiv_nan
  rw [ht] at hx
  obtain ⟨g, hg, hf⟩ := Option.map_eq_some_iff.1 hx
  have hs := hb.scalars
  rw [show nanIss.inst = 1 from rfl, hg, Option.map_some] at hs
  have hz : g.fpflags = nanIss.h.fpflags := congrArg (fun x => x.2.2.2) (Option.some.inj hs)
  rw [hf] at hz
  exact absurd hz (by decide)

end Sys2Proof.Machine
end

section
/-! PROOFS. The beginning of an operation (R179, R189): what the hatch that issues it is left with, whatever the operation. -/

namespace Sys2Proof.Machine

/-- An instruction whose operands agree in both copies goes on to its effect. -/
theorem issueMS_go {op : Nat} {f : MForm} {s : State} {c : Iss} (hi : IssuesM op f s c) (hs : c.shadowOk (mShape op f) = true)
    (eff : Iss → State → State) : issueMS op f eff s = .next (eff c s) := by
  unfold issueMS issueM
  rw [issueWith_go hi, if_pos hs]

/-! ### Hatches, but for the marks of issue choice -/

/-- A change of one hatch that the marks of issue choice do not bear on. -/
theorem stills_updHatch {f : Hatch → Hatch} (hf : ∀ h, (f h).still = f h.still) (s : State) (i : Nat) :
    (s.updHatch i f).stills = updWhere (fun h => h.inst == i) f s.stills := by
  unfold State.stills State.updHatch updWhere
  rw [List.map_map, List.map_map]
  refine List.map_congr_left (fun h _ => ?_)
  show Hatch.still (if h.inst == i then f h else h) = if h.inst == i then f h.still else h.still
  split
  · exact hf h
  · rfl

theorem stills_updHatch_congr {s t : State} (h : t.stills = s.stills) {f : Hatch → Hatch} (hf : ∀ h, (f h).still = f h.still) (i : Nat) :
    (t.updHatch i f).stills = (s.updHatch i f).stills := by
  rw [stills_updHatch hf, stills_updHatch hf, h]

/-! ### What an operation does to its hatch -/

/-- The hatch counts an operation. -/
def Hatch.noted (h : Hatch) (cls : Nat) (o : Op) : Hatch :=
  (if opPlain o.what && !h.handler then { h with stores := h.stores + 1 } else h).setCount cls (h.count cls ++ [o.id])

theorem Hatch.count_setCount (h : Hatch) (cls : Nat) (ids : List Nat) : (h.setCount cls ids).count cls = ids := by
  unfold Hatch.count Hatch.setCount
  split_ifs <;> rfl

theorem Hatch.noted_eq (h : Hatch) (cls : Nat) (o : Op) : ∃ n a b c d, h.noted cls o = { h with
    stores := n, c0 := a, c1 := b, c2 := c, c3 := d } := by
  unfold Hatch.noted Hatch.setCount
  split_ifs <;> exact ⟨_, _, _, _, _, rfl⟩

theorem Hatch.still_noted (h : Hatch) (cls : Nat) (o : Op) : (h.noted cls o).still = h.still.noted cls o := by
  unfold Hatch.noted Hatch.setCount Hatch.count Hatch.still
  dsimp only
  split_ifs <;> rfl

theorem addOp_eq (s : State) (cls : Nat) (o : Op) : addOp s cls o = { s with ops := s.ops ++ [o] }.updHatch o.hatch (fun h => h.noted cls o) := rfl

/-! ### Destinations that wait (R175, R179) -/

theorem mem_regRange {r w i : Nat} : i ∈ regRange r w ↔ r ≤ i ∧ i < r + w := by
  unfold regRange
  rw [List.mem_map]
  constructor
  · rintro ⟨k, hk, rfl⟩
    have := List.mem_range.1 hk
    omega
  · intro h
    exact ⟨i - r, List.mem_range.2 (by omega), by omega⟩

/-- One destination of an instruction that writes later is allocated. -/
theorem alloc_one (prot : Bool) (d : BitVec 8 × Nat) (h : Hatch) (p : Path) : ∃ v,
    (if isVec d.1 then [Write.reg d.1 d.2 (fun _ => 0)] else []).foldl (applyWrite prot 0) (h, p) = ({ h with v := v }, p) ∧
      ∀ r, r ∉ dstRegs [d] → ({ h with v := v } : Hatch).vreg r = h.vreg r := by
  unfold isVec
  cases hd : specKind d.1 with
  | v n =>
    refine ⟨(h.writeVs n d.2 0 (fun _ => 0)).v, ?_, fun r hr => ?_⟩
    · rw [if_pos rfl, List.foldl_cons, List.foldl_nil, applyWrite_vector hd, ← Hatch.writeVs_eq]
    · rw [← Hatch.writeVs_eq]
      refine Hatch.vreg_writeVs_out 0 _ ?_
      by_contra hc
      refine hr ?_
      unfold dstRegs
      rw [List.flatMap_cons, List.flatMap_nil, List.append_nil, hd]
      exact mem_regRange.2 (by omega)
  | _ => exact ⟨h.v, rfl, fun _ _ => rfl⟩

/-- The destinations of an instruction that writes later are allocated, and no other register changes. -/
theorem alloc_spec (prot : Bool) (sh : Shape) (h : Hatch) (p : Path) : ∃ v,
    (allocWrites sh false).foldl (applyWrite prot 0) (h, p) = ({ h with v := v }, p) ∧
      ∀ r, r ∉ dstRegs sh.dsts → ({ h with v := v } : Hatch).vreg r = h.vreg r := by
  unfold allocWrites
  generalize sh.dsts = ds
  induction ds generalizing h with
  | nil => exact ⟨h.v, rfl, fun _ _ => rfl⟩
  | cons d ds ih =>
    obtain ⟨v, e, out⟩ := alloc_one prot d h p
    obtain ⟨w, e', out'⟩ := ih { h with v := v }
    refine ⟨w, ?_, fun r hr => ?_⟩
    · rw [← e', ← e]
      cases hv : isVec d.1 <;> simp [hv]
    · have hr : r ∉ dstRegs [d] ∧ r ∉ dstRegs ds := by
        unfold dstRegs at hr ⊢
        rw [List.flatMap_cons] at hr
        simpa using hr
      exact (out' r hr.2).trans (out r hr.1)

theorem freeLast_none {sh : Shape} (hs : sh.srcs.all (fun u => !u.last) = true) (h : Hatch) : h.freeLast sh = h := by
  unfold Hatch.freeLast
  dsimp only
  refine List.foldlRecOn (motive := fun g : Hatch => g = h) sh.srcs _ rfl (fun g hg u hu => ?_)
  rw [if_pos (List.all_eq_true.1 hs u hu), hg]

/-- Sources used for the last time leave no other part of a hatch changed than its vector registers. -/
theorem freeLast_eq (h : Hatch) (sh : Shape) : ∃ v, h.freeLast sh = { h with v := v } := by
  have unmap : ∀ (g : Hatch) (i : Nat), ∃ v, g.unmap i = { g with v := v } := by
    intro g i
    unfold Hatch.unmap
    dsimp only
    split_ifs <;> exact ⟨_, rfl⟩
  unfold Hatch.freeLast
  dsimp only
  refine List.foldlRecOn (motive := fun g : Hatch => ∃ v, g = { h with v := v }) sh.srcs _ ⟨h.v, rfl⟩ (fun g hg u _ => ?_)
  split
  · exact hg
  · split
    next r _ =>
      refine List.foldlRecOn (motive := fun g : Hatch => ∃ v, g = { h with v := v }) (regRange r u.width) _ hg (fun g hg i _ => ?_)
      obtain ⟨v, rfl⟩ := hg
      split
      · exact ⟨v, rfl⟩
      · obtain ⟨w, e⟩ := unmap { h with v := v } i
        exact ⟨w, e⟩
    · exact hg

theorem markEmpty_eq (h : Hatch) (ds : List (BitVec 8 × Nat)) (on : Bool) : ∃ a b c, h.markEmpty ds on = { h with
    emptyV := a, emptyS := b, emptyP := c } := by
  unfold Hatch.markEmpty
  refine List.foldlRecOn (motive := fun g : Hatch => ∃ a b c, g = { h with emptyV := a, emptyS := b, emptyP := c }) ds _ ⟨_, _, _, rfl⟩
    (fun g hg d _ => ?_)
  obtain ⟨a, b, c, rfl⟩ := hg
  split <;> exact ⟨_, _, _, rfl⟩

/-- The bits of some registers. -/
theorem getLsbD_foldl_or {n : Nat} (xs : List Nat) (m : BitVec n) {i : Nat} (hi : i < n) :
    (xs.foldl (fun m i => m ||| BitVec.ofNat n (2 ^ i)) m).getLsbD i = (m.getLsbD i || xs.contains i) := by
  induction xs generalizing m with
  | nil => simp
  | cons x xs ih =>
    rw [List.foldl_cons, ih, BitVec.getLsbD_or, BitVec.getLsbD_ofNat, Nat.testBit_two_pow]
    by_cases hx : x = i
    · simp [hx, hi]
    · simp [hx, Ne.symm hx]

/-- One destination is marked empty. -/
theorem markEmpty_cons (h : Hatch) (d : BitVec 8 × Nat) (ds : List (BitVec 8 × Nat)) (on : Bool) :
    h.markEmpty (d :: ds) on = (h.markEmpty [d] on).markEmpty ds on := rfl

theorem specKind_p_lt {x : BitVec 8} {r : Nat} (h : specKind x = .p r) : r < 8 := by
  unfold specKind at h
  dsimp only at h
  split at h
  · cases h
  · split at h
    · cases h
    · split at h
      next hn =>
        have := SpecKind.p.inj h
        omega
      · (repeat' split at h) <;> cases h

theorem waitsFor_markEmpty_one (h : Hatch) (d : BitVec 8 × Nat) : (h.markEmpty [d] true).waitsFor d := by
  intro k hk
  unfold Hatch.markEmpty
  rw [List.foldl_cons, List.foldl_nil]
  refine ⟨fun r hr hl => ?_, fun r hr hl => ?_, fun r hr => ?_⟩
  · rw [hr]
    dsimp only
    rw [if_pos rfl, BitVec.getLsbD_or, getLsbD_foldl_or _ _ hl]
    simp [mem_regRange, hk]
  · rw [hr]
    dsimp only
    rw [if_pos rfl, BitVec.getLsbD_or, getLsbD_foldl_or _ _ hl]
    simp [mem_regRange, hk]
  · rw [hr]
    dsimp only
    rw [if_pos rfl, BitVec.getLsbD_or, BitVec.getLsbD_ofNat, Nat.testBit_two_pow]
    have : r < 8 := specKind_p_lt hr
    simp [this]

/-- What waits goes on to wait where more is marked empty. -/
theorem waitsFor_markEmpty {h : Hatch} {d : BitVec 8 × Nat} (hw : h.waitsFor d) (ds : List (BitVec 8 × Nat)) : (h.markEmpty ds true).waitsFor d := by
  unfold Hatch.markEmpty
  refine List.foldlRecOn (motive := fun g : Hatch => g.waitsFor d) ds _ hw (fun g hg e _ => ?_)
  intro k hk
  obtain ⟨v, s, p⟩ := hg k hk
  split
  · exact ⟨fun r hr hl => by dsimp only; rw [if_pos rfl, BitVec.getLsbD_or, v r hr hl, Bool.true_or], s, p⟩
  · exact ⟨v, fun r hr hl => by dsimp only; rw [if_pos rfl, BitVec.getLsbD_or, s r hr hl, Bool.true_or], p⟩
  · exact ⟨v, s, fun r hr => by dsimp only; rw [if_pos rfl, BitVec.getLsbD_or, p r hr, Bool.true_or]⟩
  · exact ⟨v, s, p⟩

/-- Every register of a destination waits. -/
theorem markEmpty_waits (h : Hatch) (ds : List (BitVec 8 × Nat)) : ∀ d ∈ ds, (h.markEmpty ds true).waitsFor d := by
  induction ds generalizing h with
  | nil => exact fun _ hd => (List.not_mem_nil hd).elim
  | cons e ds ih =>
    intro d hd
    rw [markEmpty_cons]
    rcases List.mem_cons.1 hd with rfl | hd
    · exact waitsFor_markEmpty (waitsFor_markEmpty_one h d) ds
    · exact ih _ d hd

/-! ### The beginning of an operation -/

/-- The hatch of an instruction that writes later, with its destinations allocated and waiting. -/
def Iss.awaiting (c : Iss) (sh : Shape) (ws : List Write) : Hatch :=
  (ws.foldl (applyWrite c.prot 0) (c.h.freeLast sh, c.p)).1.markEmpty sh.dsts true

/-- What an instruction allocates before it writes. -/
def Allocates (sh : Shape) (ws : List Write) : Prop := ws = [] ∨ ws = allocWrites sh false

/-- Nothing of the hatch has changed but the registers of the instruction. -/
theorem awaiting_spec {sh : Shape} {ws : List Write} (hw : Allocates sh ws) (c : Iss) :
    (∃ v x y z, c.awaiting sh ws = { c.h with v := v, emptyV := x, emptyS := y, emptyP := z }) ∧
      (∀ d ∈ sh.dsts, (c.awaiting sh ws).waitsFor d) ∧
      (sh.srcs.all (fun u => !u.last) = true → ∀ r, r ∉ dstRegs sh.dsts → (c.awaiting sh ws).vreg r = c.h.vreg r) := by
  have ha : ∃ v, (ws.foldl (applyWrite c.prot 0) (c.h.freeLast sh, c.p)).1 = { c.h.freeLast sh with v := v } ∧
      ∀ r, r ∉ dstRegs sh.dsts → ({ c.h.freeLast sh with v := v } : Hatch).vreg r = (c.h.freeLast sh).vreg r := by
    rcases hw with rfl | rfl
    · exact ⟨(c.h.freeLast sh).v, rfl, fun _ _ => rfl⟩
    · obtain ⟨v, e, out⟩ := alloc_spec c.prot sh (c.h.freeLast sh) c.p
      exact ⟨v, congrArg Prod.fst e, out⟩
  obtain ⟨v, hv, out⟩ := ha
  refine ⟨?_, markEmpty_waits _ _, fun hs r hr => ?_⟩
  · obtain ⟨u, hu⟩ := freeLast_eq c.h sh
    unfold Iss.awaiting
    rw [hv, hu]
    obtain ⟨x, y, z, e⟩ := markEmpty_eq { c.h with v := v } sh.dsts true
    exact ⟨v, x, y, z, e⟩
  · unfold Iss.awaiting
    rw [hv]
    refine (markEmpty_rest _ sh.dsts true (fun h => h.vreg r) (fun _ _ _ _ => rfl)).trans ((out r hr).trans ?_)
    rw [freeLast_none hs]

/-- The parts of a hatch that the beginning of an operation leaves alone, but for its destinations. -/
structure Hatch.Begins (c : Iss) (sh : Shape) (cls : Nat) (id : Nat) (g : Hatch) : Prop where
  inst : g.inst = c.inst
  counted : g.count cls = c.h.count cls ++ [id]
  empties : ∀ d ∈ sh.dsts, g.waitsFor d
  onward : g.path? c.slot = some (c.p.arrive (wrap64 (c.p.pc + 16)))
  scalars : (g.s, g.p, g.pstack, g.fpflags) = (c.h.s, c.h.p, c.h.pstack, c.h.fpflags)
  vectors : sh.srcs.all (fun u => !u.last) = true → ∀ r, r ∉ dstRegs sh.dsts → g.vreg r = c.h.vreg r

/-- An operation has begun where its hatch has, but for the marks of issue choice, and no other hatch has changed. -/
theorem began_of {s t : State} {c : Iss} {sh : Shape} {cls : Nat} {o : Op} {g : Hatch} (hg : g.Begins c sh cls o.id)
    (mine : (t.hatch? c.inst).map Hatch.still = some g.still)
    (others : ∀ i, i ≠ c.inst → (t.hatch? i).map Hatch.still = (s.hatch? i).map Hatch.still) (ho : o ∈ t.ops) (hid : o.id = s.nextId)
    (hold : ∀ q ∈ s.ops, q.id < s.nextId → ∃ r ∈ t.ops, r = { q with vecs := r.vecs })
    (hm : o.hatch = c.inst ∧ o.slot = c.slot ∧ o.core = c.h.core ∧ o.pc = c.p.pc) (hmem : t.mem = s.mem ∧ t.slices = s.slices) :
    Began s t c sh cls o := by
  obtain ⟨k, hk, e⟩ := Option.map_eq_some_iff.1 mine
  have same : ∀ {α : Type} (F : Hatch → α), (∀ h : Hatch, F h.still = F h) → F k = F g := fun F hF =>
    (hF k).symm.trans ((congrArg F e).trans (hF g))
  refine ⟨⟨ho, hid⟩, hold, hm, ?_, fun x hx d hd => ?_, ?_, ?_, fun x hx hs r hr => ?_, others, hmem⟩
  · rw [hk, Option.map_some, same (fun h => h.count cls) (fun _ => rfl), hg.counted]
  · cases hk.symm.trans hx
    have := same (fun h => (h.emptyV, h.emptyS, h.emptyP)) (fun _ => rfl)
    simp only [Prod.mk.injEq] at this
    intro j hj
    rw [this.1, this.2.1, this.2.2]
    exact hg.empties d hd j hj
  · have hp : (k.path? c.slot).map Path.still = some (c.p.arrive (wrap64 (c.p.pc + 16))).still := by
      rw [← Hatch.path?_still, e, Hatch.path?_still, hg.onward]
      rfl
    obtain ⟨p, hp, ep⟩ := Option.map_eq_some_iff.1 hp
    unfold WentOn
    rw [hk, Option.bind_some, hp, Option.map_some]
    have field : ∀ {α : Type} (F : Path → α), (∀ p : Path, F p.still = F p) → F p = F (c.p.arrive (wrap64 (c.p.pc + 16))) := fun F hF =>
      (hF p).symm.trans ((congrArg F ep).trans (hF _))
    exact congrArg some (field (fun p => (p.pc, p.loops, p.mask, p.domain)) (fun _ => rfl))
  · rw [hk, Option.map_some, same (fun h => (h.s, h.p, h.pstack, h.fpflags)) (fun _ => rfl), hg.scalars]
  · cases hk.symm.trans hx
    rw [same (fun h => h.vreg r) (fun _ => rfl)]
    exact hg.vectors hs r hr

/-- The hatches of a state after a change of one. -/
theorem hatch?_replaced {s t : State} {i : Nat} {g : Hatch} (hi : g.inst = i) (hh : (s.hatch? i).isSome = true)
    (ht : t.stills = (s.updHatch i (fun _ => g)).stills) : (t.hatch? i).map Hatch.still = some g.still ∧
      ∀ j, j ≠ i → (t.hatch? j).map Hatch.still = (s.hatch? j).map Hatch.still := by
  obtain ⟨h, hh⟩ := Option.isSome_iff_exists.1 hh
  refine ⟨?_, fun j hj => ?_⟩
  · rw [hatch?_still_congr ht, hatch?_updHatch s i (fun _ => g) (fun _ _ => hi), hh]
    rfl
  · have other : (s.updHatch i (fun _ => g)).hatch? j = s.hatch? j := by
      refine (find?_updWhere_key Hatch.inst (fun _ _ => hi) j s.hatches).trans ?_
      rw [if_neg hj]
      rfl
    rw [hatch?_still_congr ht, other]

/-! ### An instruction that writes later -/

/-- The state after the issue of an instruction that writes later, before its operation. -/
def Iss.issuedAs (c : Iss) (s : State) (sh : Shape) (ws : List Write) : State :=
  retire (putIssue (keepNewer s c.inst sh.dsts) c (c.awaiting sh ws, c.p)) c.inst c.slot c.p.pc 16

theorem beginAsync_ok {s : State} {c : Iss} {sh : Shape} {ws : List Write}
    (ha : allocTest s c (ws.foldl (applyWrite c.prot 0) (c.h.freeLast sh, c.p)).1 = .ok) (k : State → State) :
    beginAsync s c sh ws 16 k = finish (k (c.issuedAs s sh ws)) := by
  unfold beginAsync
  dsimp only
  rw [ha]
  rfl

/-- What the beginning of an operation does to its hatch beside counting it: the marks of what the hatch has stored. -/
structure Marks (post : Hatch → Hatch) : Prop where
  eq : ∀ h, ∃ x y, post h = { h with clean := x, fenceRel := y }
  still : ∀ h, (post h).still = post h.still

theorem marks_id : Marks (fun h => h) := ⟨fun h => ⟨h.clean, h.fenceRel, rfl⟩, fun _ => rfl⟩

/-- The hatch of an operation that has begun. -/
def Iss.begun (c : Iss) (sh : Shape) (ws : List Write) (post : Hatch → Hatch) (cls : Nat) (o : Op) : Hatch :=
  (post ((c.awaiting sh ws).setPath c.slot (some (c.p.arrive (wrap64 (c.p.pc + 16)))))).noted cls o

theorem setPath_eq (h : Hatch) (slot : Nat) (p : Option Path) : ∃ a b, h.setPath slot p = { h with slot0 := a, slot1 := b } := by
  unfold Hatch.setPath
  split <;> exact ⟨_, _, rfl⟩

theorem begun_begins {c : Iss} (hi : c.h.inst = c.inst) {sh : Shape} {ws : List Write} (hw : Allocates sh ws) {post : Hatch → Hatch}
    (hp : Marks post) (cls : Nat) (o : Op) : (c.begun sh ws post cls o).Begins c sh cls o.id := by
  obtain ⟨⟨v, x, y, z, e⟩, waits, keeps⟩ := awaiting_spec hw c
  obtain ⟨a, b, e1⟩ := setPath_eq (c.awaiting sh ws) c.slot (some (c.p.arrive (wrap64 (c.p.pc + 16))))
  have path := Hatch.setPath_path? (c.awaiting sh ws) c.slot (some (c.p.arrive (wrap64 (c.p.pc + 16))))
  obtain ⟨x2, y2, e2⟩ := hp.eq ((c.awaiting sh ws).setPath c.slot (some (c.p.arrive (wrap64 (c.p.pc + 16)))))
  obtain ⟨n, c0, c1, c2, c3, e3⟩ := Hatch.noted_eq (post ((c.awaiting sh ws).setPath c.slot (some (c.p.arrive (wrap64 (c.p.pc + 16)))))) cls o
  have hn : c.begun sh ws post cls o = _ := e3
  refine ⟨?_, ?_, fun d hd => ?_, ?_, ?_, fun hs r hr => ?_⟩
  · rw [hn, e2, e1, e]
    exact hi
  · unfold Iss.begun Hatch.noted
    rw [Hatch.count_setCount, e2, e1, e]
    rfl
  · rw [hn, e2, e1]
    exact waits d hd
  · rw [hn, e2]
    exact path
  · rw [hn, e2, e1, e]
  · rw [hn, e2, e1]
    exact keeps hs r hr

/-- The scalars that an instruction writes are noted with the launches before it, and nothing else of an operation changes. -/
theorem older_keepNewer (s : State) (i : Nat) (ds : List (BitVec 8 × Nat)) :
    ∀ q ∈ s.ops, ∃ r ∈ (keepNewer s i ds).ops, r = { q with vecs := r.vecs } := by
  intro q hq
  unfold keepNewer
  split
  · refine ⟨_, List.mem_map.2 ⟨q, hq, rfl⟩, ?_⟩
    split <;> rfl
  · exact ⟨q, hq, rfl⟩

/-- The issue of an instruction that writes later changes the issuing hatch, and the marks of issue choice. -/
theorem issuedAs_spec (s : State) {c : Iss} {sh : Shape} {ws : List Write} (hi : c.h.inst = c.inst) (hw : Allocates sh ws) : ∃ kept,
    (∀ q ∈ s.ops, ∃ r ∈ kept, r = { q with vecs := r.vecs }) ∧ (c.issuedAs s sh ws).rest = { s with ops := kept }.rest ∧
      (c.issuedAs s sh ws).stills =
        (s.updHatch c.inst (fun _ => (c.awaiting sh ws).setPath c.slot (some (c.p.arrive (wrap64 (c.p.pc + 16)))))).stills := by
  have older := older_keepNewer s c.inst sh.dsts
  have hinst : (c.awaiting sh ws).inst = c.inst := by
    obtain ⟨⟨v, x, y, z, e⟩, -, -⟩ := awaiting_spec hw c
    rw [e]
    exact hi
  unfold Iss.issuedAs
  obtain ⟨kept, e⟩ := keepNewer_eq s c.inst sh.dsts
  rw [e] at older ⊢
  obtain ⟨rest, stills⟩ := retire_near (putIssue { s with ops := kept } c (c.awaiting sh ws, c.p)) c.inst c.slot c.p.pc 16
  rw [putIssue_updPath _ c (c.awaiting sh ws) c.p (fun p => p.arrive (wrap64 (c.p.pc + 16))) hinst] at rest stills
  exact ⟨kept, older, rest, stills⟩

/-- The operation of an instruction that writes later has begun once the hatch counts it. -/
theorem began_async {s t : State} {c : Iss} {sh : Shape} {ws : List Write} {post : Hatch → Hatch} {cls : Nat} {o : Op} {n : Nat}
    (hh : (s.hatch? c.inst).isSome = true) (hi : c.h.inst = c.inst) (hw : Allocates sh ws) (hp : Marks post) (hid : o.id = s.nextId)
    (hm : o.hatch = c.inst ∧ o.slot = c.slot ∧ o.core = c.h.core ∧ o.pc = c.p.pc)
    (ht : SameWork (addOp ({ c.issuedAs s sh ws with nextId := n }.updHatch c.inst post) cls o) t) : Began s t c sh cls o := by
  have hg := begun_begins hi hw hp cls o
  obtain ⟨kept, older, rest, stills⟩ := issuedAs_spec s hi hw
  generalize c.issuedAs s sh ws = u at ht rest stills
  have known : ∀ {α : Type} (F : State → α), (∀ v : State, F v.rest = F v) → F u = F { s with ops := kept } := fun F hF =>
    (hF u).symm.trans ((congrArg F rest).trans (hF _))
  obtain ⟨mem, slices, hatches, ops⟩ := ht
  have hops : t.ops = kept ++ [o] := ops.trans (congrArg (· ++ [o]) (known State.ops (fun _ => rfl)))
  have replaced : t.stills = (s.updHatch c.inst (fun _ => c.begun sh ws post cls o)).stills := by
    have e : t.stills = ((u.updHatch c.inst post).updHatch c.inst (fun h => h.noted cls o)).stills := by
      have hatches : t.hatches = ((u.updHatch c.inst post).updHatch o.hatch (fun h => h.noted cls o)).hatches := hatches
      rw [hm.1] at hatches
      exact congrArg (List.map Hatch.still) hatches
    have inst : ∀ h : Hatch, (post h).inst = h.inst := fun h => by
      obtain ⟨x, y, e⟩ := hp.eq h
      rw [e]
    have keep : ∀ h : Hatch, h.inst = c.inst → ((c.awaiting sh ws).setPath c.slot (some (c.p.arrive (wrap64 (c.p.pc + 16))))).inst = c.inst := by
      intro h _
      rw [Hatch.setPath_inst]
      obtain ⟨⟨v, x, y, z, e⟩, -, -⟩ := awaiting_spec hw c
      rw [e]
      exact hi
    rw [e, stills_updHatch_congr (stills_updHatch_congr stills hp.still c.inst) (fun h => Hatch.still_noted h cls o) c.inst,
      updHatch_updHatch s c.inst _ post keep, updHatch_updHatch s c.inst _ _ (by intro h hh; exact (inst _).trans (keep h hh))]
    rfl
  obtain ⟨mine, others⟩ := hatch?_replaced hg.inst hh replaced
  refine began_of hg mine others (hops ▸ List.mem_append_right _ (List.mem_singleton.2 rfl)) hid (fun q hq _ => ?_) hm
    ⟨mem.trans (known State.mem (fun _ => rfl)), slices.trans (known State.slices (fun _ => rfl))⟩
  obtain ⟨r, hr, e⟩ := older q hq
  exact ⟨r, hops ▸ List.mem_append_left _ hr, e⟩

/-- What neither the hatches nor the operations bear on is as it was before the issue. -/
theorem issuedAs_field (s : State) {c : Iss} {sh : Shape} {ws : List Write} (hi : c.h.inst = c.inst) (hw : Allocates sh ws) {α : Type}
    (F : State → α) (hF : ∀ v : State, F v.rest = F v) (ho : ∀ v ops, F { v with ops := ops } = F v) : F (c.issuedAs s sh ws) = F s := by
  obtain ⟨kept, -, rest, -⟩ := issuedAs_spec s hi hw
  exact (hF _).symm.trans ((congrArg F rest).trans ((hF _).trans (ho s kept)))

end Sys2Proof.Machine
end

section
/-! PROOFS. The statement of launches. -/

namespace Sys2Proof.Machine

/-! ### `launch` (R416) -/

/-- The hatch of a launch that has begun from the path of a slot. -/
def Hatch.launching (h : Hatch) (slot pc : Nat) (o : Op) : Hatch :=
  let g := ({ h with clean := false } : Hatch).noted 3 o
  g.setPath slot ((g.path? slot).map (fun p => p.arrive (wrap64 (pc + 16))))

theorem still_launching (h : Hatch) (slot pc : Nat) (o : Op) : (h.launching slot pc o).still = h.still.launching slot pc o := by
  unfold Hatch.launching
  dsimp only
  rw [Hatch.still_setPath, show ({ h.still with clean := false } : Hatch) = ({ h with clean := false } : Hatch).still from rfl,
    ← Hatch.still_noted, Hatch.path?_still, Option.map_map, Option.map_map]
  rfl

theorem launching_inst (h : Hatch) (slot pc : Nat) (o : Op) : (h.launching slot pc o).inst = h.inst := by
  obtain ⟨n, c0, c1, c2, c3, e⟩ := Hatch.noted_eq { h with clean := false } 3 o
  unfold Hatch.launching
  dsimp only
  rw [Hatch.setPath_inst, e]

theorem launching_begins {c : Iss} (hi : c.h.inst = c.inst) (hp : c.h.path? c.slot = some c.p) (o : Op) :
    (c.h.launching c.slot c.p.pc o).Begins c {} 3 o.id := by
  have kept : ∀ {α : Type} (F : Hatch → α), (∀ (h : Hatch) x n a b d e, F { h with
      clean := x, stores := n, c0 := a, c1 := b, c2 := d, c3 := e } = F h) → F (({ c.h with clean := false } : Hatch).noted 3 o) = F c.h := by
    intro α F hF
    obtain ⟨n, c0, c1, c2, c3, e⟩ := Hatch.noted_eq { c.h with clean := false } 3 o
    rw [e]
    exact hF c.h false n c0 c1 c2 c3
  have path := (kept (fun h => h.path? c.slot) (fun _ _ _ _ _ _ _ => rfl)).trans hp
  have count : (({ c.h with clean := false } : Hatch).noted 3 o).count 3 = c.h.count 3 ++ [o.id] := Hatch.count_setCount _ _ _
  have inst := kept Hatch.inst (fun _ _ _ _ _ _ _ => rfl)
  have regs := kept (fun h => (h.s, h.p, h.pstack, h.fpflags)) (fun _ _ _ _ _ _ _ => rfl)
  have vecs := kept Hatch.v (fun _ _ _ _ _ _ _ => rfl)
  unfold Hatch.launching
  generalize Hatch.noted _ 3 o = g at path count inst regs vecs ⊢
  dsimp only
  rw [path]
  have onward := Hatch.setPath_path? g c.slot (some (c.p.arrive (wrap64 (c.p.pc + 16))))
  obtain ⟨a, b, e⟩ := setPath_eq g c.slot (some (c.p.arrive (wrap64 (c.p.pc + 16))))
  rw [Option.map_some]
  rw [e] at onward ⊢
  exact ⟨inst.trans hi, count, fun d hd => (List.not_mem_nil hd).elim, onward, regs,
    fun _ r _ => congrArg (fun v : List VReg => v.getD r VReg.unmapped) vecs⟩

/-- A launch has begun. -/
theorem began_launch {u t : State} {c : Iss} {o : Op} {n : Nat} (hh : (u.hatch? c.inst).map Hatch.still = some c.h.still)
    (hi : c.h.inst = c.inst) (hp : c.h.path? c.slot = some c.p) (hid : o.id = u.nextId)
    (hm : o.hatch = c.inst ∧ o.slot = c.slot ∧ o.core = c.h.core ∧ o.pc = c.p.pc)
    (ht : SameWork (retire (addOp (markDirty { u with nextId := n } c.inst) 3 o) c.inst c.slot c.p.pc 16) t) : Began u t c {} 3 o := by
  have hu : (addOp (markDirty { u with nextId := n } c.inst) 3 o).updPath c.inst c.slot (fun p => p.arrive (wrap64 (c.p.pc + 16))) =
      ({ u with ops := u.ops ++ [o], nextId := n } : State).updHatch c.inst (fun h => h.launching c.slot c.p.pc o) := by
    rw [addOp_eq, hm.1]
    unfold State.updPath markDirty
    have e1 := updHatch_updHatch { u with ops := u.ops ++ [o], nextId := n } c.inst (fun h => { h with clean := false })
      (fun h => h.noted 3 o) (fun _ e => e)
    have e2 := updHatch_updHatch { u with ops := u.ops ++ [o], nextId := n } c.inst
      ((fun h => h.noted 3 o) ∘ (fun h : Hatch => { h with clean := false })) (fun h => h.setPath c.slot ((h.path? c.slot).map
        (fun p => p.arrive (wrap64 (c.p.pc + 16))))) (fun h e => by
          obtain ⟨n, c0, c1, c2, c3, e'⟩ := Hatch.noted_eq { h with clean := false } 3 o
          rw [Function.comp_apply, e']
          exact e)
    rw [← e1] at e2
    exact e2
  obtain ⟨rest, stills⟩ := retire_near (addOp (markDirty { u with nextId := n } c.inst) 3 o) c.inst c.slot c.p.pc 16
  rw [hu] at rest stills
  generalize retire (addOp (markDirty { u with nextId := n } c.inst) 3 o) c.inst c.slot c.p.pc 16 = v at ht rest stills
  obtain ⟨mem, slices, hatches, ops⟩ := ht
  have known : ∀ {α : Type} (F : State → α), (∀ w : State, F w.rest = F w) → F v = F { u with ops := u.ops ++ [o], nextId := n } :=
    fun F hF => (hF v).symm.trans ((congrArg F rest).trans (hF { u with ops := u.ops ++ [o], nextId := n }))
  have hops : t.ops = u.ops ++ [o] := ops.trans (known State.ops (fun _ => rfl))
  have ht : t.stills = (u.updHatch c.inst (fun h => h.launching c.slot c.p.pc o)).stills :=
    (congrArg (List.map Hatch.still) hatches).trans stills
  refine began_of (launching_begins hi hp o) ?_ (fun i hne => ?_) (hops ▸ List.mem_append_right _ (List.mem_singleton.2 rfl)) hid
    (fun q hq _ => ⟨q, hops ▸ List.mem_append_left _ hq, rfl⟩) hm ⟨mem.trans (known State.mem (fun _ => rfl)), slices.trans (known State.slices (fun _ => rfl))⟩
  · obtain ⟨k, hk, e⟩ := Option.map_eq_some_iff.1 hh
    rw [hatch?_still_congr ht, hatch?_updHatch u c.inst _ (fun h e => (launching_inst h _ _ _).trans e), hk, Option.map_some, Option.map_some,
      still_launching, e, ← still_launching]
  · rw [hatch?_still_congr ht]
    refine congrArg (Option.map Hatch.still) ((find?_updWhere_key Hatch.inst (fun h e => (launching_inst h _ _ _).trans e) i u.hatches).trans ?_)
    rw [if_neg hne]
    rfl

/-- The operation of a launch. -/
def launchOp (u : State) (c : Iss) (f : MForm) : Op :=
  { newOp { u with nextId := u.nextId + 1 } c (.launchInsn f) u.nextId with
    vals := [baseImm c f]
    active := 1 }

/-- `launch` with room in its class, once its release is over. -/
theorem exec_launchInsn {s u : State} {c : Iss} {f : MForm} {o : Op} (hi : IssuesM 0xDC f s c) (hsh : c.shadowOk (mShape 0xDC f) = true)
    (hg : f.gsense = 0 ∨ c.act ≠ 0) (hc : c.h.countFull 3 = false) (hr : releaseReady s c.h = (s, true)) (hu : releaseAll s c.h = u)
    (ho : launchOp u c f = o) : exec (.launchInsn f) s = .next (finish ((retire (addOp (markDirty { u with nextId := u.nextId + 1 } c.inst) 3 o)
      c.inst c.slot c.p.pc 16).post .launchAccepted { op := o.id })) := by
  show execLaunchInsn f s = _
  unfold execLaunchInsn
  rw [issueMS_go hi hsh, runs_of hg, if_neg Bool.false_ne_true, hc, if_neg Bool.false_ne_true]
  unfold afterRelease
  rw [hr]
  subst hu ho
  rfl

theorem answers_launchInsn {s : State} {c : Iss} {f : MForm} (hi : IssuesM 0xDC f s c) (hsh : c.shadowOk (mShape 0xDC f) = true)
    (hg : f.gsense = 0 ∨ c.act ≠ 0) (hc : c.h.countFull 3 = false) (hr : releaseReady s c.h = (s, true)) (hs : (releaseAll s c.h).Settled) :
    Answers (.launchInsn f) s (fun t => ∃ o, Began (releaseAll s c.h) t c {} 3 o ∧ o.what = .launchInsn f ∧
      o.vals = [baseImm c f] ∧ (⟨.launchAccepted, { op := o.id }⟩ : Event) ∈ t.net) := by
  have hh : ((releaseAll s c.h).hatch? c.inst).map Hatch.still = some c.h.still := by
    exact (hatch?_still_congr (memKeeps_drainCore s c.h.core).stills c.inst).trans (congrArg (Option.map Hatch.still) (issues_hatch hi))
  obtain ⟨u, hu⟩ : ∃ u, releaseAll s c.h = u := ⟨_, rfl⟩
  obtain ⟨o, ho⟩ : ∃ o, launchOp u c f = o := ⟨_, rfl⟩
  have hx := exec_launchInsn hi hsh hg hc hr hu ho
  rw [hu] at hs hh ⊢
  have hid : o.id = u.nextId := by rw [← ho]; rfl
  have mine : o.hatch = c.inst ∧ o.slot = c.slot ∧ o.core = c.h.core ∧ o.pc = c.p.pc := by
    rw [← ho]
    exact ⟨rfl, rfl, rfl, rfl⟩
  have what : o.what = .launchInsn f ∧ o.vals = [baseImm c f] := by
    rw [← ho]
    exact ⟨rfl, rfl⟩
  have hn := retire_near (addOp (markDirty { u with nextId := u.nextId + 1 } c.inst) 3 o) c.inst c.slot c.p.pc 16
  have hb := fun (t : State) => began_launch (t := t) (n := u.nextId + 1) hh rfl (issues_path hi) hid mine
  generalize retire _ c.inst c.slot c.p.pc 16 = v at hx hn hb
  exact answers_of_finish hx (hn.settled hs) ⟨o, hb _ ⟨rfl, rfl, rfl, rfl⟩, what.1, what.2, mem_net_post v .launchAccepted { op := o.id }⟩

/-! ### LAUNCH_ACCEPTED (R416) -/

theorem specKind_next {d : BitVec 8} {x : Nat} (h : specKind d = .s x) (hx : x + 1 < 128) : specKind (d + 1) = .s (x + 1) := by
  have hd : d.toNat = 0x40 + x := by
    unfold specKind at h
    dsimp only at h
    split at h
    · cases h
    · split at h
      · have := SpecKind.s.inj h
        omega
      · (repeat' split at h) <;> cases h
  have hn : (d + 1).toNat = 0x40 + (x + 1) := by
    rw [BitVec.toNat_add, hd]
    show (0x40 + x + 1) % 256 = _
    omega
  unfold specKind
  dsimp only
  rw [hn, if_neg (by omega), if_pos (by omega), Nat.add_sub_cancel_left]

/-- The pair of a launch takes the two words of the answer. -/
theorem launchWrites_fold {o : Op} {d : BitVec 8} {x : Nat} (hv : o.vecs = []) (hd : specKind d = .s x) (hx : 4 ≤ x) (hx' : x + 1 < 128) (v : Nat)
    (prot : Bool) (m : LaneSet) (h : Hatch) (p : Path) : ∃ k, (launchWrites o d v).foldl (applyWrite prot m) (h, p) = ({ h with
      s := (h.s.set x (BitVec.ofNat 32 (v % 2 ^ 32))).set (x + 1) (BitVec.ofNat 32 (v / 2 ^ 32 % 2 ^ 32))
      shadow := k }, p) := by
  have hw : launchWrites o d v = [.reg d 1 (fun _ => v % 2 ^ 32), .reg (d + 1) 1 (fun _ => v / 2 ^ 32 % 2 ^ 32)] := by
    unfold launchWrites
    rw [hd, hv]
    simp [List.range_succ]
  rw [hw, List.foldl_cons, List.foldl_cons, List.foldl_nil, applyWrite_scalar hd, writeScalar_high _ _ hx,
    applyWrite_scalar (specKind_next hd hx'), writeScalar_high _ _ (by omega)]
  exact ⟨_, rfl⟩

/-- What the dispatcher answers, as the value of the pair. -/
def LaunchRes.pair : LaunchRes → Nat
  | .ok id => id
  | .fail code => code * 2 ^ 32

theorem exec_launchAccepted {s s1 : State} {o : Op} {f : MForm} {r : LaunchRes} (ho : s.op? s.arg.op = some o) (hw : o.what = .launchInsn f)
    (hl : startLaunch s o.core o.ctx (o.vals.getD 0 0) = (s1, r)) (ho1 : s1.op? o.id = some o) : ∃ prot m,
    exec .launchAccepted s = .next (finish (endOp (lateWrite s1 o prot m (launchWrites o f.d r.pair) {} 0) o)) := by
  refine ⟨(s1.hatch? o.hatch).elim false (hatchProt s1), if (s1.hatch? o.hatch).elim false (hatchProt s1) then 3 else 1, ?_⟩
  show execLaunchAccepted s = _
  unfold execLaunchAccepted
  rw [ho]
  dsimp only
  rw [hw]
  dsimp only
  rw [hl]
  dsimp only
  rw [ho1]
  cases r <;> rfl

/-- LAUNCH_ACCEPTED writes the answer to the pair, and the launch is over. -/
theorem answers_launchAccepted {s s1 : State} {o : Op} {f : MForm} {r : LaunchRes} {h : Hatch} {x : Nat} (ho : s.op? s.arg.op = some o)
    (hw : o.what = .launchInsn f) (hl : startLaunch s o.core o.ctx (o.vals.getD 0 0) = (s1, r)) (hs : s1.Settled)
    (hh : s1.hatch? o.hatch = some h) (hlen : h.s.length = 128) (ho1 : s1.op? o.id = some o) (hv : o.vecs = [])
    (hd : specKind f.d = .s x) (hx : 4 ≤ x) (hx' : x + 1 < 128) :
    Answers .launchAccepted s (fun t => t.op? o.id = none ∧ t.sched.launches = s1.sched.launches ∧ ∃ g, t.hatch? o.hatch = some g ∧
      g.s.getD x 0 = BitVec.ofNat 32 (r.pair % 2 ^ 32) ∧ g.s.getD (x + 1) 0 = BitVec.ofNat 32 (r.pair / 2 ^ 32 % 2 ^ 32) ∧
      (∀ y, y ≠ x → y ≠ x + 1 → g.s.getD y 0 = h.s.getD y 0) ∧ g.v = h.v ∧ g.p = h.p) := by
  obtain ⟨prot, m, hx1⟩ := exec_launchAccepted ho hw hl ho1
  obtain ⟨g, k, hg, gv, gs, gp, -⟩ := lateWrite_hatch hh prot m (launchWrites o f.d r.pair) {} 0
  obtain ⟨hs1, e⟩ := lateWrite_eq s1 o prot m (launchWrites o f.d r.pair) {} 0
  generalize lateWrite s1 o prot m (launchWrites o f.d r.pair) {} 0 = u at hx1 hg e
  obtain ⟨sh, hf⟩ := launchWrites_fold hv hd hx hx' r.pair prot m h ((h.path? o.slot).getD (Path.start 0 0 0 false))
  rw [hf] at gv gs gp
  have sched : (endOp u o).sched = s1.sched := (endOp_sched u o).1.trans (by rw [e])
  have files := endOp_files u o o.hatch
  rw [hg] at files
  obtain ⟨q, hq, hfiles⟩ := Option.map_eq_some_iff.1 files
  have regs : q.v = g.v ∧ q.s = g.s ∧ q.p = g.p ∧ q.emptyV = g.emptyV := by simpa [Hatch.files] using hfiles
  obtain ⟨qv, qs, qp, -⟩ := regs
  refine answers_of_finish hx1 ((congrArg Sched.raised sched).trans hs) ⟨op?_endOp u o, congrArg Sched.launches sched, q, hq, ?_, ?_,
    fun y hy hy' => ?_, qv.trans gv, qp.trans gp⟩
  · rw [qs, gs, getD_set_ne _ _ (by omega), getD_set_self _ _ (by omega)]
  · rw [qs, gs, getD_set_self _ _ (by rw [List.length_set]; omega)]
  · rw [qs, gs, getD_set_ne _ _ hy', getD_set_ne _ _ hy]

/-! ### `kwait` and `ktrig` (R417, R143) -/

theorem exec_kwait {s : State} {c : Iss} {f : MForm} (hi : IssuesM 0xDD f s c) : exec (.kwait f) s = .next
    (if (!((!c.rcd.dep || (s.block? c.h.block).elim true (·.triggered) || (launchOf s c.h).elim true (·.watched)) ||
      c.rcd.producers.all (producerDone s)) || !loadsDone s c.h) = true then stall s
    else finish (retire (acquireFence s c.inst) c.inst c.slot c.p.pc 16)) := by
  show execKwait f s = _
  unfold execKwait issueM
  rw [issueWith_go hi]

/-- What lets `kwait` go on. -/
theorem kwait_free {s : State} {c : Iss} (h : c.rcd.dep = false ∨ (s.block? c.h.block).map (·.triggered) = some true ∨
      c.rcd.producers.all (producerDone s) = true) :
    ((!c.rcd.dep || (s.block? c.h.block).elim true (·.triggered) || (launchOf s c.h).elim true (·.watched)) ||
      c.rcd.producers.all (producerDone s)) = true := by
  rcases h with h | h | h
  · simp [h]
  · obtain ⟨b, hb, ht⟩ := Option.map_eq_some_iff.1 h
    simp [hb, ht]
  · simp [h]

end Sys2Proof.Machine

open Sys2Proof.Machine in
/-- Settles O45: a launch by the answer that LAUNCH_ACCEPTED writes, `kwait` by its producers, `ktrig` by its block. -/
theorem launches : Obligations.Launches := by
  refine fun s c f => ⟨fun hi hsh hg hc hr hs => answers_launchInsn hi hsh hg hc hr hs,
    fun o s1 r h x ho hw hl hs hh hlen ho1 hv hd hx hx' => ?_, fun hi => ⟨fun hp hl hs => ?_, fun b l id hd hb hn hl hw hid hp hs => ?_⟩,
    fun hi hr => ?_⟩
  · obtain ⟨t, ht, hn, hq, g, hg, lo, hi, others⟩ := answers_launchAccepted ho hw hl hs hh hlen ho1 hv hd hx hx'
    refine ⟨t, ht, hn, hq, g, hg, fun id hr hid => ?_, fun code hr => ?_, others⟩
    · rw [lo, hi, hr]
      exact ⟨congrArg _ (Nat.mod_eq_of_lt hid), by rw [show (LaunchRes.ok id).pair / 2 ^ 32 = 0 from Nat.div_eq_of_lt hid]; rfl⟩
    · rw [lo, hi, hr]
      have low : (LaunchRes.fail code).pair % 2 ^ 32 = 0 := Nat.mul_mod_left code (2 ^ 32)
      have high : (LaunchRes.fail code).pair / 2 ^ 32 = code := Nat.mul_div_cancel code (by decide)
      rw [low, high]
      exact ⟨rfl, BitVec.eq_of_toNat_eq (by rw [BitVec.toNat_ofNat, BitVec.toNat_ofNat, Nat.mod_mod])⟩
  · refine ⟨_, exec_kwait hi, ?_⟩
    rw [if_neg (by rw [kwait_free hp, hl]; decide)]
    exact passed_of hs c 16
  · refine ⟨_, exec_kwait hi, ?_⟩
    have all : c.rcd.producers.all (producerDone s) = false :=
      List.all_eq_false.2 ⟨id, hid, by rw [hp]; decide⟩
    rw [if_pos (by rw [hd, hb, hl, all]; simp [hn, hw])]
    exact stalled_stall hs
  · intro s1 hs
    show ∃ t, execKtrig f s = .next t ∧ _
    unfold execKtrig issueM
    rw [issueWith_go hi]
    unfold afterRelease
    rw [hr]
    exact ⟨_, rfl, passed_of hs c 16⟩

end

section
/-! PROOFS. The statement of the media engines. -/

namespace Sys2Proof.Machine

/-! ### Engines -/

/-- A job that an engine runs is that of an engine there is. -/
theorem engine_lt {s : State} {e : Nat} (h : s.engine e ≠ Engine.reset) : e < s.media.length := by
  by_contra hn
  exact h (by unfold State.engine; rw [List.getD_eq_getElem?_getD, List.getElem?_eq_none (by omega)]; rfl)

theorem engine_lt_of_job {s : State} {e : Nat} {j : MediaJob} (h : (s.engine e).job = some j) : e < s.media.length :=
  engine_lt (fun hr => by rw [hr] at h; cases h)

/-- The job of an engine after a change of the job. -/
theorem job_updEngine (s : State) (e : Nat) {f : Engine → Engine} {g : MediaJob → MediaJob} (hf : ∀ x, (f x).job = x.job.map g) :
    ((s.updEngine e f).engine e).job = (s.engine e).job.map g := by
  by_cases h : e < s.media.length
  · rw [engine_updEngine f h, hf]
  · have out : ∀ t : State, t.media.length = s.media.length → (t.engine e).job = none := fun t ht => by
      by_contra hc
      obtain ⟨j, hj⟩ := Option.ne_none_iff_exists'.1 hc
      exact h (ht ▸ engine_lt_of_job hj)
    rw [out _ (List.length_modify _ _ _), out s rfl]
    rfl

/-- The end of a job is posted, with its status. -/
theorem endJob_spec (s : State) (e status : Nat) : Idles s (endJob s e status) ∧ (⟨.engineJobDone, { engine := e }⟩ : Event) ∈ (endJob s e status).wake.net ∧
    ((endJob s e status).engine e).job = (s.engine e).job.map (fun j => { j with status := status }) ∧
    (e < s.media.length → ((endJob s e status).engine e).state = .run) :=
  ⟨.refl s, mem_net_post _ _ _, job_updEngine s e (g := fun j => { j with status := status }) (fun _ => rfl), fun h =>
    congrArg Engine.state (engine_updEngine (s := s) (fun x => { x with
      state := .run
      job := x.job.map (fun j => { j with status := status }) }) h)⟩

/-! ### ENGINE_JOB_DISPATCH (R116, R117) -/

/-- A job record that has been read without poison begins the job. -/
theorem exec_engineJobDispatch {s u v1 v : State} {w : Watch} {lo hi : List Byte}
    (hu : s.updEngine s.arg.engine (fun x => { x with pending := x.pending.erase (s.arg.watch, s.arg.granule) }) = u)
    (hp : (s.arg.watch, s.arg.granule) ∈ (s.engine s.arg.engine).pending) (hi' : (s.engine s.arg.engine).state = .idle)
    (hw : u.watch? s.arg.watch = some w)
    (h1 : coherentRead (acquireLine u (lineOf (granulePa w s.arg.granule))) (granulePa w s.arg.granule) 32 = (v1, lo, false))
    (h2 : coherentRead v1 (granulePa w s.arg.granule + 32) 32 = (v, hi, false)) :
    exec .engineJobDispatch s = .next (finish (beginJob v s.arg.engine (newJob w (lo ++ hi)))) := by
  show execEngineJobDispatch s = _
  unfold execEngineJobDispatch
  extract_lets e want u1
  have h1' : u1 = u := hu
  clear_value u1
  subst h1'
  rw [if_neg (by simpa using hp), if_neg (by rw [hi']; decide), hw]
  dsimp only
  rw [h1]
  dsimp only
  rw [h2]
  dsimp only
  rw [if_neg Bool.false_ne_true, if_neg Bool.false_ne_true]

/-- What the engine says of reserved bytes changes no engine. -/
theorem reports_reservedMedia (s : State) (e : Nat) (b : Bool) : Reports s (reservedMedia s e b) :=
  reports_ite (reports_logError _ _ _ _ _ _ _).1 (.refl s)

/-- A job that breaks a limit ends with status 2. -/
theorem beginJob_bad {v : State} {e : Nat} {j : MediaJob} (he : e < v.media.length) (hj : jobOk j = false) :
    Idles v (beginJob v e j) ∧ ((beginJob v e j).engine e).job.map (·.status) = some 2 ∧ ((beginJob v e j).engine e).state = .run ∧
      (⟨.engineJobDone, { engine := e }⟩ : Event) ∈ (beginJob v e j).wake.net := by
  have hr := reports_reservedMedia v e (2 ≤ j.f 5 1 || j.f 6 2 != 0)
  have hm : (reservedMedia v e (2 ≤ j.f 5 1 || j.f 6 2 != 0)).media = v.media := hr.keeps State.media (fun _ _ => rfl)
  unfold beginJob
  dsimp only
  rw [hj, if_pos (by decide)]
  generalize reservedMedia v e (2 ≤ j.f 5 1 || j.f 6 2 != 0) = u at hr hm ⊢
  have hu : e < u.media.length := by rw [hm]; exact he
  obtain ⟨idles, net, job, state⟩ := endJob_spec (u.updEngine e (fun x => { x with
    state := .run
    job := some j })) e 2
  have hset := engine_updEngine (s := u) (fun x => { x with
    state := .run
    job := some j }) hu
  rw [hset] at job
  have hlen : e < (u.updEngine e (fun x => { x with
    state := .run
    job := some j })).media.length := by
    rw [show (u.updEngine e _).media.length = u.media.length from List.length_modify _ _ _]
    exact hu
  exact ⟨hr.idles.trans idles, by rw [job]; rfl, state hlen, net⟩

/-- A decode job with its input begins. -/
theorem beginJob_decode {v s1 : State} {e : Nat} {j : MediaJob} {input : List Byte} (hj : jobOk j = true) (hd : j.encodes = false)
    (h5 : j.f 5 1 < 2) (h6 : j.f 6 2 = 0) (hr : (readJob j).run v = .ok ([], input) s1) (he : e < s1.media.length) :
    Idles s1 (beginJob v e j) ∧ ((beginJob v e j).engine e).state = .run ∧
      (⟨.engineRowDone, { engine := e }⟩ : Event) ∈ (beginJob v e j).wake.net ∧
      ((beginJob v e j).engine e).job.map (fun y => (y.record, y.input, y.row)) = some (j.record, input, j.row) := by
  unfold beginJob
  dsimp only
  have quiet : reservedMedia v e (2 ≤ j.f 5 1 || j.f 6 2 != 0) = v := by
    unfold reservedMedia
    rw [if_neg (by rw [h6]; simp; omega)]
  rw [quiet, hj, if_neg (by decide), hr]
  dsimp only
  rw [hd]
  have quiet1 : reservedMedia s1 e (false && fieldAt [] 0xB 5 != 0) = s1 := rfl
  rw [quiet1, Bool.false_and, if_neg Bool.false_ne_true]
  generalize hs : natBytes 1 j.op ++ natBytes 1 (j.f 5 1 % 2) ++ (clampParams j.op []).take 11 = st
  have hset := engine_updEngine (s := s1) (fun x => { x with
    state := .run
    job := some { j with
      settings := st
      input := input } }) he
  refine ⟨.refl s1, congrArg Engine.state hset, mem_net_post _ _ _, ?_⟩
  exact (congrArg (fun x : Engine => x.job.map (fun y => (y.record, y.input, y.row))) hset).trans rfl

/-! ### ENGINE_ROW_DONE (R119) -/

theorem exec_engineRowDone {s : State} {j : MediaJob} (hj : (s.engine s.arg.engine).job = some j) (hr : (s.engine s.arg.engine).state = .run)
    (hc : j.toCount = false) : exec .engineRowDone s = .next (finish (nextRow s s.arg.engine j)) := by
  show execEngineRowDone s = _
  unfold execEngineRowDone
  dsimp only
  rw [hj]
  dsimp only
  rw [hr, hc, if_neg (by decide), if_neg (by simp)]

theorem nextRow_over {s : State} {e : Nat} {j : MediaJob} (hc : j.toCount = false) (h : Config.mediaRows j.settings j.input ≤ j.row) :
    nextRow s e j = endJob s e (Config.mediaStatus j.settings j.input % 3) := by
  unfold nextRow
  rw [hc, if_neg Bool.false_ne_true, if_pos h]

theorem nextRow_bad {s : State} {e : Nat} {j : MediaJob} (hc : j.toCount = false) (h : j.row < Config.mediaRows j.settings j.input)
    (hd : j.encodes = false) (hp : pictureOk j (Config.mediaPicture j.settings j.input j.row) = false) : nextRow s e j = endJob s e 2 := by
  unfold nextRow
  rw [hc, if_neg Bool.false_ne_true, if_neg (Nat.not_le.2 h), hd, hp, if_pos (by decide)]

/-- A row is made, and the job goes on or ends, as its samples fit. -/
theorem nextRow_makes {s s1 : State} {e : Nat} {j j2 : MediaJob} {ok : Bool} (hc : j.toCount = false)
    (h : j.row < Config.mediaRows j.settings j.input) (hp : j.encodes = true ∨ pictureOk j (Config.mediaPicture j.settings j.input j.row) = true)
    (hf : j.filter = false) (hm : (makeRow e j).run s = .ok (j2, ok) s1) :
    nextRow s e j = if ok then endRow s1 e j2 else endJob s1 e 4 := by
  have ready : (rowReady j).run s = .ok true s := by
    unfold rowReady rowNeeds
    rw [hf]
    rfl
  unfold nextRow
  rw [hc, if_neg Bool.false_ne_true, if_neg (Nat.not_le.2 h), if_neg (by rcases hp with hp | hp <;> simp [hp]), ready]
  dsimp only
  rw [hm]
  cases ok <;> rfl

/-- A sequence of accesses that has succeeded has done so in each of its parts. -/
theorem run_bind_ok {α β : Type} {m : AreaM α} {f : α → AreaM β} {s t : State} {b : β} (h : (m >>= f).run s = .ok b t) :
    ∃ a u, m.run s = .ok a u ∧ (f a).run u = .ok b t := by
  rw [EStateM.run_bind] at h
  split at h
  next a u hm => exact ⟨a, u, hm, h⟩
  · cases h

/-- What a row has read is all that a job takes from it. -/
theorem makeRow_record {s s1 : State} {e : Nat} {j j2 : MediaJob} {ok : Bool} (hm : (makeRow e j).run s = .ok (j2, ok) s1) :
    j2.record = j.record := by
  unfold makeRow at hm
  split at hm
  · cases hm
    rfl
  · obtain ⟨refs, u, -, h⟩ := run_bind_ok hm
    obtain ⟨fits, v, -, h⟩ := run_bind_ok h
    cases h
    rfl

/-- Without FILTER a row that has been made is followed by the next. -/
theorem endRow_next {s : State} {e : Nat} {j : MediaJob} (hf : j.filter = false) :
    Idles s (endRow s e j) ∧ (⟨.engineRowDone, { engine := e }⟩ : Event) ∈ (endRow s e j).wake.net ∧
    ((endRow s e j).engine e).job = (s.engine e).job.map (fun y => { y with
      row := j.row + 1
      refs := j.refs
      toCount := false }) := by
  unfold endRow
  dsimp only
  rw [hf, if_pos (by simp)]
  exact ⟨.refl s, mem_net_post _ _ _, job_updEngine s e (g := fun y => { y with
    row := j.row + 1
    refs := j.refs
    toCount := false }) (fun _ => rfl)⟩

/-! ### ENGINE_JOB_DONE (R118) -/

theorem exec_engineJobDone {s s1 : State} {j : MediaJob} (hj : (s.engine s.arg.engine).job = some j) (hr : (s.engine s.arg.engine).state = .run)
    (hw : farWaits s s.arg.engine = false) (hb : j.streams = false) (hd : (storeDone s.arg.engine j).run s = .ok () s1) :
    exec .engineJobDone s = .next (finish (idleEngine (s1.updEngine s.arg.engine (fun x => { x with
      lastStatus := j.status
      jobs := satInc x.jobs })) s.arg.engine)) := by
  show execEngineJobDone s = _
  unfold execEngineJobDone
  dsimp only
  rw [hj]
  dsimp only
  rw [hr, hw, hb, if_neg (by decide), if_neg Bool.false_ne_true, if_neg Bool.false_ne_true]
  unfold finishJob
  rw [hd]

theorem length_updEngine (s : State) (e : Nat) (f : Engine → Engine) : (s.updEngine e f).media.length = s.media.length :=
  List.length_modify _ _ _

/-- The engine that has stored its completion record is idle. -/
theorem idleEngine_spec {s : State} {e : Nat} (he : e < s.media.length) (status : Nat) :
    let t := (idleEngine (s.updEngine e (fun x => { x with
      lastStatus := status
      jobs := satInc x.jobs })) e).engine e
    t.state = .idle ∧ t.job = none ∧ t.lastStatus = status ∧ t.jobs = satInc (s.engine e).jobs := by
  intro t
  have h1 := engine_updEngine (s := s) (fun x => { x with
    lastStatus := status
    jobs := satInc x.jobs }) he
  have h2 := engine_updEngine (s := s.updEngine e (fun x => { x with
    lastStatus := status
    jobs := satInc x.jobs })) (fun x => { x with
      state := .idle
      job := none }) (by rw [length_updEngine]; exact he)
  have ht : t = _ := h2
  rw [ht, h1]
  exact ⟨rfl, rfl, rfl, rfl⟩

/-! ### ENGINE_FILT_WAKE (R119) -/

theorem exec_engineFiltWake {s s1 : State} {j : MediaJob} {ready : Bool} (hj : (s.engine s.arg.engine).job = some j)
    (hr : (s.engine s.arg.engine).state = .waitFilt) (hd : (rowReady j).run s = .ok ready s1) :
    exec .engineFiltWake s = .next (if ready then finish ((s1.updEngine s.arg.engine (fun x => { x with state := .run })).post .engineRowDone
      { engine := s.arg.engine }) else (settle s1).park .engineFiltWake) := by
  show execEngineFiltWake s = _
  unfold execEngineFiltWake
  dsimp only
  rw [hj]
  dsimp only
  rw [hr, if_neg (by decide), hd]
  cases ready <;> rfl

/-! ### Containment (R111) -/

/-- A fatal error of an engine holds it, and is counted. -/
theorem mediaFatal_spec {s : State} {e : Nat} (he : e < s.media.length) : Idles s (mediaFatal s e) ∧
    ((mediaFatal s e).engine e).state = .contained ∧ ((mediaFatal s e).engine e).job = none ∧
    (mediaFatal s e).host.errFatal = satInc s.host.errFatal := by
  have h1 : ((loseJob s e .contained).engine e).state = .contained ∧ ((loseJob s e .contained).engine e).job = none := by
    have := engine_updEngine (s := { s with
      net := s.net.filter (fun x => !jobStep e x)
      parked := s.parked.filter (fun x => !jobStep e x) }) (fun x => { x with
        state := .contained
        lastStatus := 0
        lost := if x.job.isSome || !x.pending.isEmpty then satInc x.lost else x.lost
        job := none
        pending := [] }) he
    have h : (loseJob s e .contained).engine e = _ := this
    rw [h]
    exact ⟨rfl, rfl⟩
  have w1 : Idles s (loseJob s e .contained) ∧ (loseJob s e .contained).host = s.host := ⟨.refl s, rfl⟩
  unfold mediaFatal
  generalize loseJob s e .contained = u at h1 w1 ⊢
  obtain ⟨r1, c1⟩ := reports_recordError u 2 5 0x0203 e 0 0
  obtain ⟨r2, c2⟩ := reports_aerSignal (recordError u 2 5 0x0203 e 0 0) (enginePort e) 2 0x0203
  have r := r1.trans r2
  have c := c2.trans c1
  generalize aerSignal (recordError u 2 5 0x0203 e 0 0) (enginePort e) 2 0x0203 = v at r c ⊢
  have hv : v.engine e = u.engine e := r.keeps (fun s => s.engine e) (fun _ _ => rfl)
  rw [hv]
  refine ⟨w1.1.trans r.idles, h1.1, h1.2, ?_⟩
  rw [← w1.2]
  exact congrArg (fun c => c.2.2) c

end Sys2Proof.Machine

open Sys2Proof.Machine in
/-- Settles O58: each event of a job by what the job's engine holds before and after it. -/
theorem mediaEvents : Obligations.MediaEvents := by
  intro s hs e x set
  refine ⟨fun w lo hi v1 v => ?_, fun j hj hr => ⟨fun hc => ?_, fun s1 hw hb hd h1 he => ?_⟩,
    fun j s1 hj hr h1 => ⟨fun hd he => ?_, fun hd => ?_⟩, fun he => ?_, fun hc => ?_⟩
  · intro u pa j hp hi' hw h1 h2 hv he
    have hx := exec_engineJobDispatch rfl hp hi' hw h1 h2
    refine ⟨fun hj => ?_, fun input s1 hj hd h5 h6 hr h1 he1 => ?_⟩
    · obtain ⟨idles, job, state, net⟩ := beginJob_bad he hj
      exact answers_of_finish hx (idles.settled hv) ⟨job, state, net⟩
    · obtain ⟨idles, state, net, job⟩ := beginJob_decode hj hd h5 h6 hr he1
      exact answers_of_finish hx (idles.settled h1) ⟨state, net, job⟩
  · intro picture
    have hx := exec_engineRowDone hj hr hc
    refine ⟨fun h => ?_, fun h hd hp => ?_, fun j2 s1 h hp hf h1 => ⟨fun hm => ?_, fun hm => ?_⟩⟩
    · rw [nextRow_over hc h] at hx
      obtain ⟨idles, net, job, -⟩ := endJob_spec s e (Sys2Proof.Config.mediaStatus j.settings j.input % 3)
      exact idles.answers hs hx ⟨job.trans (by rw [show (s.engine e).job = some j from hj]; rfl), net⟩
    · rw [nextRow_bad hc h hd hp] at hx
      obtain ⟨idles, net, job, -⟩ := endJob_spec s e 2
      exact idles.answers hs hx ⟨job.trans (by rw [show (s.engine e).job = some j from hj]; rfl), net⟩
    · rw [nextRow_makes hc h hp hf hm, if_pos rfl] at hx
      have hf2 : j2.filter = false := by
        unfold MediaJob.filter MediaJob.f at hf ⊢
        rw [makeRow_record hm]
        exact hf
      obtain ⟨idles, net, job⟩ := endRow_next (s := s1) (e := e) hf2
      exact answers_of_finish hx (idles.settled h1) ⟨job, net⟩
    · rw [nextRow_makes hc h hp hf hm, if_neg Bool.false_ne_true] at hx
      obtain ⟨idles, net, job, -⟩ := endJob_spec s1 e 4
      exact answers_of_finish hx (idles.settled h1) ⟨job, net⟩
  · exact answers_of_finish (exec_engineJobDone hj hr hw hb hd) h1 (idleEngine_spec he j.status)
  · have hx := exec_engineFiltWake hj hr hd
    rw [if_pos rfl] at hx
    exact answers_of_finish hx h1 ⟨congrArg Engine.state (engine_updEngine (fun x => { x with state := .run }) he), mem_net_post _ _ _⟩
  · have hx := exec_engineFiltWake hj hr hd
    rw [if_neg Bool.false_ne_true, settle_of_settled h1] at hx
    exact ⟨_, hx, rfl, mem_parked s1 _⟩
  · obtain ⟨idles, state, job, count⟩ := mediaFatal_spec he
    exact idles.answers hs rfl ⟨state, job, count⟩
  · have he : e < s.media.length := engine_lt (fun h => EngState.noConfusion ((congrArg Engine.state h).symm.trans hc))
    refine Idles.answers (u := idleEngine s e) ⟨⟨rfl, rfl, rfl, rfl⟩, rfl⟩ hs ?_ (congrArg Engine.state (engine_updEngine (fun x => { x with
      state := .idle
      job := none }) he))
    show execDpcStatusClear s = _
    unfold execDpcStatusClear
    rw [if_pos (by rw [show (s.engine s.arg.engine).state = .contained from hc]; rfl)]

end

section
/-! PROOFS. The statement of atomics: what they compute, and their beginning. -/

namespace Sys2Proof.Machine

/-! ### What an atomic computes (R389) -/

theorem atomNew_add (w : Nat) (sg : Bool) (old x : Nat) : ((atomNew 0 w sg old x : Nat) : Int) = ((old : Int) + x) % 2 ^ w := by
  show (((old + x) % 2 ^ w : Nat) : Int) = _
  push_cast
  rfl

theorem atomNew_sub {w old x : Nat} (sg : Bool) (hx : x < 2 ^ w) : ((atomNew 1 w sg old x : Nat) : Int) = ((old : Int) - x) % 2 ^ w := by
  show (((old + 2 ^ w - x) % 2 ^ w : Nat) : Int) = _
  rw [Int.natCast_mod, Int.ofNat_sub (by omega)]
  push_cast
  rw [show (old : Int) + 2 ^ w - x = old - x + 2 ^ w by ring, Int.add_emod_right]

theorem atomNew_min (w old x : Nat) : atomNew 2 w false old x = min old x := by
  show (if decide (x < old) = true then x else old) = _
  simp only [decide_eq_true_eq]
  split <;> omega

theorem atomNew_max (w old x : Nat) : atomNew 3 w false old x = max old x := by
  show (if decide (x < old) = true then old else x) = _
  simp only [decide_eq_true_eq]
  split <;> omega

theorem atomNew_smin (w old x : Nat) : sxt w (atomNew 2 w true old x) = min (sxt w old) (sxt w x) := by
  show sxt w (if decide (sxt w x < sxt w old) = true then x else old) = _
  simp only [decide_eq_true_eq]
  split <;> omega

theorem atomNew_smax (w old x : Nat) : sxt w (atomNew 3 w true old x) = max (sxt w old) (sxt w x) := by
  show sxt w (if decide (sxt w x < sxt w old) = true then old else x) = _
  simp only [decide_eq_true_eq]
  split <;> omega

theorem atomNew_dec (w : Nat) (sg : Bool) (old x : Nat) : atomNew 9 w sg old x = if old = 0 ∨ x < old then x else old - 1 := by
  show (if (old == 0 || decide (x < old)) = true then x else old - 1) = _
  simp only [Bool.or_eq_true, beq_iff_eq, decide_eq_true_eq]

/-- A compare-and-swap writes D where the old value is X. -/
theorem atomResult_cas {op : Nat} (h : op = 0xB9 ∨ op = 0xBA ∨ op = 0xBB) (f : MForm) (old x d : Nat) :
    atomResult op f old x d = if old = x then some d else none := by
  unfold atomResult
  rcases h with rfl | rfl | rfl <;> simp

/-! ### The beginning of an atomic (R377, R389) -/

theorem forM_eq (c : Iss) (op : Nat) (f : MForm) : ∃ a, c.forM op f = { c with act := a } := by
  unfold Iss.forM
  split
  · exact ⟨1, rfl⟩
  · exact ⟨c.act, rfl⟩

theorem faultLanes_none {c : Iss} {s : State} {once : Bool} {as : List LaneAcc} (h : ∀ a ∈ as, a.fault = 0) : c.faultLanes s once as = none := by
  unfold Iss.faultLanes
  have none : sameFault as = [] := by
    unfold sameFault
    rw [List.filter_eq_nil_iff.2 (fun a ha => by rw [h a ha]; decide)]
  rw [List.find?_eq_none.2 (fun a ha => by rw [h a ha]; decide)]
  unfold preciseFault
  rw [none]
  rfl

/-- A translated lane is not done. -/
theorem resolveLanes_done (core ctx : Nat) (kern : Bool) (k : AccKind) (ldc : Bool) (as : List LaneAcc) (h : ∀ a ∈ as, a.done = false)
    (s : State) : ∀ a ∈ (resolveLanes s core ctx kern k ldc as).2, a.done = false := by
  induction as generalizing s with
  | nil => exact fun a ha => (List.not_mem_nil ha).elim
  | cons x xs ih =>
    have one : ∀ (u : State) (r : XRes), (x.resolve u ctx r).done = false := by
      intro u r
      unfold LaneAcc.resolve
      split <;> exact h x List.mem_cons_self
    unfold resolveLanes
    intro a ha
    rcases List.mem_cons.1 ha with rfl | ha
    · dsimp only
      split
      · exact h x List.mem_cons_self
      · exact one _ _
    · exact ih (fun b hb => h b (List.mem_cons_of_mem _ hb)) _ a ha

/-- The marks that an atomic leaves in its hatch. -/
theorem marks_atomic : Marks (fun h => { h with clean := false, fenceRel := false }) := ⟨fun _ => ⟨false, false, rfl⟩, fun _ => rfl⟩

/-- The operation of an atomic. -/
def atomicOp (u : State) (c : Iss) (op : Nat) (f : MForm) (i : Instr) (lanes : List LaneAcc) : Op :=
  { newOp { u with nextId := u.nextId + 1 } c i u.nextId with
    lanes := lanes
    vals := [relOf f c]
    vecs := captured op f c }

/-- An aligned atomic whose lanes translate without a fault begins. -/
theorem exec_atomMem {op : Nat} {f : MForm} {i : Instr} {s s1 : State} {c0 c : Iss} {lanes : List LaneAcc} (he : exec i s = atomMem op f i s)
    (hi : IssuesF op f s c0 c) (ho : ownOp s c i = none) (hsh : c0.shadowOk (mShape op f) = true) (ha : c.act ≠ 0)
    (hc : c.h.countFull 2 = false) (hal : alignFault (atomBytes op f) (laneAddrs op f c) = none)
    (hr : f.releases = false ∨ releaseReady s c.h = (s, true))
    (hl : resolveLanes s c.h.core (ctxOf s c.h) c.kern .atomic false ((laneAddrs op f c).map (fun a => LaneAcc.start a.1 a.2 [])) = (s1, lanes))
    (hf : ∀ a ∈ lanes, a.fault = 0 ∧ a.mt ≠ 4)
    (hal2 : allocTest s1 c ((allocWrites (mShape op f) false).foldl (applyWrite c.prot 0) (c.h.freeLast (mShape op f), c.p)).1 = .ok) :
    let u := c.issuedAs s1 (mShape op f) (allocWrites (mShape op f) false)
    exec i s = .next (finish (postAtomic (addOp ((markDirty { u with nextId := u.nextId + 1 } c.inst).updHatch c.inst
      (fun h => { h with fenceRel := false })) 2 (atomicOp u c op f i lanes)) (atomicOp u c op f i lanes))) := by
  intro u
  obtain ⟨hi, rfl⟩ := hi
  have own : s.issuing.bind (fun c => ownOp s c i) = none := by
    obtain ⟨c1, h1, -, rfl⟩ := hi
    obtain ⟨x, hx⟩ := forM_eq { c1 with act := c1.guarded f.gidx f.gsense } op f
    rw [hx] at ho
    rw [h1]
    exact ho
  have mt4 : (op != 0xB6 && lanes.any (fun a => a.fault == 0 && a.mt == 4)) = false := by
    rw [List.any_eq_false.2 (fun a ha => by simp [(hf a ha).2]), Bool.and_false]
  have clean : lanes.any (fun a => a.fault != 0) = false := List.any_eq_false.2 (fun a ha => by simp [(hf a ha).1])
  rw [he]
  unfold atomMem issueOwn issueOwnBy
  rw [own]
  dsimp only
  rw [issueMS_go hi hsh]
  rw [if_neg (by simp), if_neg (by simpa using ha), hc, if_neg Bool.false_ne_true, hal]
  dsimp only
  rw [release_none hr]
  dsimp only
  rw [hl]
  dsimp only
  rw [mt4, faultLanes_none (fun a ha => (hf a ha).1), ite_self]
  dsimp only
  rw [if_neg Bool.false_ne_true, beginAsync_ok hal2, clean]
  rfl

/-- What an atomic leaves once its operation is counted. -/
theorem sameWork_postAtomic (s : State) (o : Op) : Idles s (postAtomic s o) := by
  unfold postAtomic
  split
  · exact .refl s
  · exact .refl s

theorem mem_postAtomic {s : State} {o : Op} {a : LaneAcc} (h : o.lanes.head? = some a) (hp : a.pending = true) :
    (⟨.storeCommit, { src := .op o.id a.line, op := o.id, line := a.line }⟩ : Event) ∈ (postAtomic s o).wake.net := by
  obtain ⟨as, hl⟩ := List.head?_eq_some_iff.1 h
  unfold postAtomic
  rw [hl, List.find?_cons_of_pos hp]
  exact mem_net_post _ _ _

/-- An aligned atomic whose lanes translate without a fault begins, and its commit is under way. -/
theorem answers_atomMem {op : Nat} {f : MForm} {i : Instr} {s s1 : State} {c0 c : Iss} {lanes : List LaneAcc} (he : exec i s = atomMem op f i s)
    (hi : IssuesF op f s c0 c) (ho : ownOp s c i = none) (hsh : c0.shadowOk (mShape op f) = true) (ha : c.act ≠ 0)
    (hc : c.h.countFull 2 = false) (hal : alignFault (atomBytes op f) (laneAddrs op f c) = none)
    (hr : f.releases = false ∨ releaseReady s c.h = (s, true)) (hs : s1.Settled) (hh : (s1.hatch? c.inst).isSome = true)
    (hl : resolveLanes s c.h.core (ctxOf s c.h) c.kern .atomic false ((laneAddrs op f c).map (fun a => LaneAcc.start a.1 a.2 [])) = (s1, lanes))
    (hf : ∀ a ∈ lanes, a.fault = 0 ∧ a.mt ≠ 4)
    (hal2 : allocTest s1 c ((allocWrites (mShape op f) false).foldl (applyWrite c.prot 0) (c.h.freeLast (mShape op f), c.p)).1 = .ok) :
    Answers i s (fun t => ∃ o, Began s1 t c (mShape op f) 2 o ∧ o.what = i ∧ o.lanes = lanes ∧ o.vecs = captured op f c ∧
      ∀ a, lanes.head? = some a → (⟨.storeCommit, { src := .op o.id a.line, op := o.id, line := a.line }⟩ : Event) ∈ t.net) := by
  have hx := exec_atomMem he hi ho hsh ha hc hal hr hl hf hal2
  have hinst : c.h.inst = c.inst := rfl
  have hw : Allocates (mShape op f) (allocWrites (mShape op f) false) := .inr rfl
  have sched := issuedAs_field s1 hinst hw State.sched (fun _ => rfl) (fun _ _ => rfl)
  have next := issuedAs_field s1 hinst hw State.nextId (fun _ => rfl) (fun _ _ => rfl)
  have pending : ∀ a ∈ lanes, a.pending = true := by
    intro a hm
    have hd := resolveLanes_done c.h.core (ctxOf s c.h) c.kern .atomic false ((laneAddrs op f c).map (fun a => LaneAcc.start a.1 a.2 []))
      (fun a ha => by obtain ⟨x, -, rfl⟩ := List.mem_map.1 ha; rfl) s a (by rw [hl]; exact hm)
    unfold LaneAcc.pending
    rw [hd, (hf a hm).1]
    rfl
  have hb := fun (t : State) (o : Op) => began_async (t := t) (o := o) (n := (c.issuedAs s1 (mShape op f)
    (allocWrites (mShape op f) false)).nextId + 1) (cls := 2) hh hinst hw marks_atomic
  dsimp only at hx
  generalize c.issuedAs s1 (mShape op f) (allocWrites (mShape op f) false) = u at hx sched next hb
  obtain ⟨o, hoe⟩ : ∃ o, atomicOp u c op f i lanes = o := ⟨_, rfl⟩
  have facts : o.id = u.nextId ∧ (o.hatch = c.inst ∧ o.slot = c.slot ∧ o.core = c.h.core ∧ o.pc = c.p.pc) ∧ o.what = i ∧ o.lanes = lanes ∧
      o.vecs = captured op f c := by
    rw [← hoe]
    exact ⟨rfl, ⟨rfl, rfl, rfl, rfl⟩, rfl, rfl, rfl⟩
  obtain ⟨hid, mine, what, hlanes, hvecs⟩ := facts
  rw [hoe] at hx
  have marks : (markDirty { u with nextId := u.nextId + 1 } c.inst).updHatch c.inst (fun h => { h with fenceRel := false }) =
      { u with nextId := u.nextId + 1 }.updHatch c.inst (fun h => { h with clean := false, fenceRel := false }) :=
    updHatch_updHatch _ c.inst _ _ (fun _ e => e)
  rw [marks] at hx
  have began : ∀ t, SameWork (addOp ({ u with nextId := u.nextId + 1 }.updHatch c.inst (fun h => { h with
      clean := false, fenceRel := false })) 2 o) t → Began s1 t c (mShape op f) 2 o := fun t ht => hb t o (hid.trans next) mine ht
  have raised : (addOp ({ u with nextId := u.nextId + 1 }.updHatch c.inst (fun h => { h with
    clean := false, fenceRel := false })) 2 o).sched = s1.sched := sched
  generalize addOp ({ u with nextId := u.nextId + 1 }.updHatch c.inst (fun h => { h with
    clean := false, fenceRel := false })) 2 o = v at hx began raised
  obtain ⟨work, sc⟩ := sameWork_postAtomic v o
  exact answers_of_finish hx ((congrArg Sched.raised (sc.trans raised)).trans hs) ⟨o, began _ work, what, hlanes, hvecs,
    fun a ha => mem_postAtomic (hlanes.symm ▸ ha) (pending a (List.mem_of_mem_head? ha))⟩

end Sys2Proof.Machine

open Sys2Proof.Machine in
/-- Settles O37: what an atomic computes is proved bit by bit or by order, and every atomic begins as `atomMem` does. -/
theorem atomicsBegin : Obligations.AtomicsBegin := by
  refine ⟨fun w old x hw ho hx => ⟨fun sg => ⟨atomNew_add w sg old x, atomNew_sub sg hx, fun k => Nat.testBit_and old x k,
    fun k => Nat.testBit_or old x k, fun k => Nat.testBit_xor old x k, rfl, rfl, atomNew_dec w sg old x⟩, atomNew_min w old x,
    atomNew_max w old x, atomNew_smin w old x, atomNew_smax w old x, fun f d => ⟨atomResult_cas (.inl rfl) f old x d,
      atomResult_cas (.inr (.inl rfl)) f old x d, atomResult_cas (.inr (.inr rfl)) f old x d⟩⟩, fun s s1 c0 c f lanes => ?_⟩
  have begins := fun (op : Nat) (i : Sys2Proof.Instr) (he : exec i s = atomMem op f i s) => answers_atomMem (s1 := s1) (c0 := c0) (c := c) (lanes := lanes) he
  refine ⟨?_, ?_, ?_, ?_, ?_⟩
  · exact begins 0xB3 (.atom f) rfl
  · exact begins 0xB4 (.atomf f) rfl
  · exact begins 0xB9 (.cas f) rfl
  · exact begins 0xBA (.cas128 f) rfl
  · exact begins 0xB6 (.atomflush f) rfl

end

section
/-! PROOFS. Local store (R180, R211): what a write of it leaves in every byte of the block, and what it leaves unchanged. -/

namespace Sys2Proof.Machine

/-! ### The ways of a block -/

/-- The block that owns a way. -/
def Way.owner : Way → Option Nat
  | .owned b _ _ => some b
  | _ => none

/-- The way that holds the i-th 64 KiB of a block's local store. -/
def State.ownWay (s : State) (core block i : Nat) : Way := (s.core core).ways.getD ((ownedWays s core block).getD i 16) .free

theorem localByte_eq (s : State) (core block a : Nat) :
    localByte s core block a = wayByte (s.ownWay core block (a / 65536)) (a % 65536) := rfl

/-- Which ways a block owns depends on the owners of the ways only. -/
theorem ownedWays_eq (s : State) (core block : Nat) :
    ownedWays s core block = (((s.core core).ways.map Way.owner).zipIdx.filter (fun x => x.1 == some block)).map (·.2) := by
  unfold ownedWays
  rw [List.zipIdx_map, List.filter_map, List.map_map]
  congr 1
  refine List.filter_congr (fun x _ => ?_)
  obtain ⟨w, i⟩ := x
  cases w with
  | owned b bs bad => exact (Option.some_beq_some (a := b) (b := block)).symm
  | l1 => rfl
  | free => rfl

theorem mem_ownedWays {s : State} {core block w : Nat} :
    w ∈ ownedWays s core block ↔ ∃ bs bad, (s.core core).ways[w]? = some (.owned block bs bad) := by
  rw [ownedWays_eq]
  simp only [List.mem_map, List.mem_filter, Prod.exists, exists_eq_right, List.mem_zipIdx_iff_getElem?, List.getElem?_map,
    beq_iff_eq, Option.map_eq_some_iff]
  constructor
  · rintro ⟨x, hx, hxo⟩
    cases x with
    | owned b bs bad => obtain rfl := Option.some.inj hxo; exact ⟨bs, bad, hx⟩
    | l1 => cases hxo
    | free => cases hxo
  · rintro ⟨bs, bad, h⟩
    exact ⟨_, h, rfl⟩

theorem nodup_ownedWays (s : State) (core block : Nat) : (ownedWays s core block).Nodup := by
  refine List.Sublist.nodup (List.Sublist.map _ (List.filter_sublist)) ?_
  rw [List.zipIdx_map_snd]
  exact List.nodup_range'

/-! ### A change of one way that leaves its owner -/

/-- The state in which a way of a core has changed. -/
def State.setWay (s : State) (core w : Nat) (up : Way → Way) : State := s.updCore core (fun k => { k with ways := k.ways.modify w up })

theorem core_setWay_ne {s : State} {core k : Nat} (w : Nat) (up : Way → Way) (h : k ≠ core) : (s.setWay core w up).core k = s.core k := by
  unfold State.setWay
  rw [core_updCore, if_neg (fun e => h e.1)]

theorem core_setWay_same {s : State} {core : Nat} (w : Nat) (up : Way → Way) (h : core < s.cores.length) :
    ((s.setWay core w up).core core).ways = (s.core core).ways.modify w up := by
  unfold State.setWay
  rw [core_updCore, if_pos ⟨rfl, h⟩]

theorem getElem?_modify_ite {α : Type} (up : α → α) (xs : List α) (w i : Nat) :
    (xs.modify w up)[i]? = (xs[i]?).map (fun x => if w = i then up x else x) := by
  rw [List.getElem?_modify]
  rfl

theorem map_modify_same {α β : Type} {f : α → β} {up : α → α} (h : ∀ x, f (up x) = f x) (xs : List α) (w : Nat) :
    (xs.modify w up).map f = xs.map f := by
  refine List.ext_getElem? (fun i => ?_)
  rw [List.getElem?_map, List.getElem?_map, getElem?_modify_ite, Option.map_map]
  refine congrArg (fun g => Option.map g xs[i]?) (funext fun x => ?_)
  rw [Function.comp_apply]
  split
  · exact h x
  · rfl

theorem ownedWays_setWay {up : Way → Way} (hu : ∀ x, (up x).owner = x.owner) {s : State} {core : Nat} (hc : core < s.cores.length) (w k block : Nat) :
    ownedWays (s.setWay core w up) k block = ownedWays s k block := by
  by_cases h : k = core
  · subst h
    rw [ownedWays_eq, core_setWay_same w up hc, map_modify_same hu, ← ownedWays_eq]
  · rw [ownedWays_eq, core_setWay_ne w up h, ← ownedWays_eq]

/-- The ways of the block after the i-th of them has changed. -/
theorem ownWay_setWay {up : Way → Way} (hu : ∀ x, (up x).owner = x.owner) {s : State} {core block i j : Nat} (hc : core < s.cores.length)
    (hi : i < (ownedWays s core block).length) (hj : j < (ownedWays s core block).length) :
    (s.setWay core ((ownedWays s core block).getD i 16) up).ownWay core block j =
      if j = i then up (s.ownWay core block i) else s.ownWay core block j := by
  unfold State.ownWay
  rw [ownedWays_setWay hu hc, core_setWay_same _ up hc]
  have at_ : ∀ n, (hn : n < (ownedWays s core block).length) → (ownedWays s core block).getD n 16 = (ownedWays s core block)[n] := fun n hn => by
    rw [List.getD_eq_getElem?_getD, List.getElem?_eq_getElem hn]; rfl
  rw [at_ i hi, at_ j hj]
  obtain ⟨bs, bad, hw⟩ := mem_ownedWays.1 (List.getElem_mem hj)
  rw [List.getD_eq_getElem?_getD, getElem?_modify_ite, List.getD_eq_getElem?_getD, List.getD_eq_getElem?_getD]
  by_cases e : j = i
  · subst e
    rw [if_pos rfl, hw]
    simp
  · rw [if_neg e, hw, Option.map_some, if_neg (fun h => e ((nodup_ownedWays s core block).getElem_inj_iff.1 h).symm)]

/-! ### Writing one byte -/

/-- The core is there, and the bytes of every way of it are in their one form. -/
def State.LocalOk (s : State) (core : Nat) : Prop := core < s.cores.length ∧
  ∀ b cells bad, Way.owned b cells bad ∈ (s.core core).ways → Memory.wf cells = true

theorem owner_waySet (i : Nat) (v : Byte) (x : Way) : (waySet x i v).owner = x.owner := by
  cases x <;> rfl

/-- The i-th way of a block holds bytes in their one form. -/
theorem ownWay_spec {s : State} {core block i : Nat} (h : s.LocalOk core) (hi : i < (ownedWays s core block).length) :
    ∃ bs bad, s.ownWay core block i = .owned block bs bad ∧ Memory.wf bs = true := by
  obtain ⟨bs, bad, hw⟩ := mem_ownedWays.1 (List.getElem_mem hi)
  refine ⟨bs, bad, ?_, h.2 _ _ _ (List.mem_of_getElem? hw)⟩
  unfold State.ownWay
  rw [List.getD_eq_getElem?_getD, List.getD_eq_getElem?_getD, List.getElem?_eq_getElem hi, Option.getD_some, hw]
  rfl

theorem localOk_setWay {s : State} {core : Nat} (h : s.LocalOk core) {up : Way → Way}
    (hu : ∀ b bs bad, Memory.wf bs = true → ∃ cs bad', up (.owned b bs bad) = .owned b cs bad' ∧ Memory.wf cs = true)
    (ho : ∀ x, (up x).owner = x.owner) (w : Nat) : (s.setWay core w up).LocalOk core := by
  obtain ⟨hc, hw⟩ := h
  refine ⟨by unfold State.setWay State.updCore; simpa using hc, fun b cells bad hm => ?_⟩
  rw [core_setWay_same w up hc] at hm
  obtain ⟨i, hi⟩ := List.mem_iff_getElem?.1 hm
  rw [getElem?_modify_ite] at hi
  obtain ⟨x, hx, e⟩ := Option.map_eq_some_iff.1 hi
  split at e
  · have own := ho x
    rw [e] at own
    cases x with
    | owned b' bs bad' =>
      obtain ⟨cs, d, h1, h2⟩ := hu b' bs bad' (hw _ _ _ (List.mem_of_getElem? hx))
      rw [h1] at e
      obtain ⟨-, rfl, -⟩ := Way.owned.inj e
      exact h2
    | l1 => cases own
    | free => cases own
  · exact hw _ _ _ (List.mem_of_getElem? (hx.trans (congrArg some e)))

/-- What a write of a core's local store leaves unchanged: only the ways of the core and the waits of paths may change. -/
structure LocalFrame (core : Nat) (s t : State) : Prop where
  eq : ∃ cs hs, t = { s with cores := cs, hatches := hs }
  stills : t.stills = s.stills
  others : ∀ k, k ≠ core → t.core k = s.core k

theorem LocalFrame.refl (core : Nat) (s : State) : LocalFrame core s s := ⟨⟨s.cores, s.hatches, rfl⟩, rfl, fun _ _ => rfl⟩

theorem LocalFrame.trans {core : Nat} {s t u : State} (h : LocalFrame core s t) (g : LocalFrame core t u) : LocalFrame core s u := by
  refine ⟨?_, g.stills.trans h.stills, fun k hk => (g.others k hk).trans (h.others k hk)⟩
  obtain ⟨a, b, ht⟩ := h.eq
  obtain ⟨a', b', hu⟩ := g.eq
  exact ⟨a', b', by rw [hu, ht]⟩

theorem localFrame_foldl {α : Type} {core : Nat} {f : State → α → State} (h : ∀ s x, LocalFrame core s (f s x)) (xs : List α) (s : State) :
    LocalFrame core s (xs.foldl f s) := by
  induction xs generalizing s with
  | nil => exact .refl core s
  | cons x xs ih => exact (h s x).trans (ih _)

theorem localFrame_setWay (s : State) (core w : Nat) (up : Way → Way) : LocalFrame core s (s.setWay core w up) :=
  ⟨⟨_, s.hatches, rfl⟩, rfl, fun _ hk => core_setWay_ne w up hk⟩

theorem localFrame_write (s : State) (core block a : Nat) (bs : List Byte) : LocalFrame core s (localWrite s core block a bs) := by
  have bytes := localFrame_foldl (fun s (x : Byte × Nat) => localFrame_setWay s core ((ownedWays s core block).getD ((a + x.2) / 65536) 16)
    (fun w => waySet w ((a + x.2) % 65536) x.1)) bs.zipIdx s
  unfold localWrite
  refine bytes.trans ((localFrame_foldl (fun u q => ?_) _ _).trans ⟨⟨_, _, rfl⟩, (memKeeps_wakePaths _ _ _).stills, fun _ _ => rfl⟩)
  exact localFrame_setWay u core _ _

/-- A block's ways stay its own, and their bytes in their one form. -/
structure LocalKeeps (core : Nat) (s t : State) : Prop where
  owned : ∀ k block, ownedWays t k block = ownedWays s k block
  ok : t.LocalOk core

theorem LocalKeeps.refl {core : Nat} {s : State} (h : s.LocalOk core) : LocalKeeps core s s := ⟨fun _ _ => rfl, h⟩

theorem LocalKeeps.trans {core : Nat} {s t u : State} (h : LocalKeeps core s t) (g : LocalKeeps core t u) : LocalKeeps core s u :=
  ⟨fun k b => (g.owned k b).trans (h.owned k b), g.ok⟩

theorem localKeeps_setWay {s : State} {core : Nat} (h : s.LocalOk core) {up : Way → Way}
    (hu : ∀ b bs bad, Memory.wf bs = true → ∃ cs bad', up (.owned b bs bad) = .owned b cs bad' ∧ Memory.wf cs = true)
    (ho : ∀ x, (up x).owner = x.owner) (w : Nat) : LocalKeeps core s (s.setWay core w up) :=
  ⟨fun k b => ownedWays_setWay ho h.1 w k b, localOk_setWay h hu ho w⟩

theorem localKeeps_setByte {s : State} {core : Nat} (h : s.LocalOk core) (block a : Nat) (v : Byte) :
    LocalKeeps core s (localSetByte s core block a v) :=
  localKeeps_setWay h (fun _ _ bad hb => ⟨_, bad, rfl, cellSet_wf _ v hb⟩) (owner_waySet _ v) _

/-- A written byte of local store reads back, and every other byte of the block reads as before. -/
theorem localByte_setByte {s : State} {core block a x : Nat} (h : s.LocalOk core) (ha : a < 65536 * (ownedWays s core block).length)
    (hx : x < 65536 * (ownedWays s core block).length) (v : Byte) :
    localByte (localSetByte s core block a v) core block x = if x = a then v else localByte s core block x := by
  have hi : a / 65536 < (ownedWays s core block).length := by omega
  have hj : x / 65536 < (ownedWays s core block).length := by omega
  rw [localByte_eq, localByte_eq]
  show wayByte ((s.setWay core _ _).ownWay core block _) _ = _
  rw [ownWay_setWay (owner_waySet _ v) h.1 hi hj]
  by_cases e : x / 65536 = a / 65536
  · obtain ⟨bs, bad, hw, hf⟩ := ownWay_spec h hi
    rw [if_pos e, e, hw]
    unfold Memory.wf at hf
    rw [Bool.and_eq_true] at hf
    show cellGet _ (cellSet _ v bs) = if _ then v else cellGet _ bs
    rw [cellGet_cellSet _ _ v bs 0 hf.1]
    exact ite_congr (propext ⟨fun h => by omega, fun h => by omega⟩) (fun _ => rfl) (fun _ => rfl)
  · rw [if_neg e, if_neg (fun h => e (by rw [h]))]

/-! ### Writing bytes -/

theorem localKeeps_setBytes {s : State} {core : Nat} (h : s.LocalOk core) (block a : Nat) (xs : List (Byte × Nat)) :
    LocalKeeps core s (xs.foldl (fun s x => localSetByte s core block (a + x.2) x.1) s) := by
  induction xs generalizing s with
  | nil => exact .refl h
  | cons x xs ih =>
    have one := localKeeps_setByte h block (a + x.2) x.1
    exact one.trans (ih one.ok)

/-- Bytes written at successive addresses. -/
theorem localByte_setBytes {s : State} {core block a x : Nat} (h : s.LocalOk core) (bs : List Byte) (n : Nat)
    (ha : a + n + bs.length ≤ 65536 * (ownedWays s core block).length) (hx : x < 65536 * (ownedWays s core block).length) :
    localByte ((bs.zipIdx n).foldl (fun s x => localSetByte s core block (a + x.2) x.1) s) core block x =
      if a + n ≤ x ∧ x < a + n + bs.length then bs.getD (x - (a + n)) 0 else localByte s core block x := by
  induction bs generalizing s n with
  | nil => rw [if_neg (by simp only [List.length_nil]; omega)]; rfl
  | cons b bs ih =>
    rw [List.length_cons] at ha
    have one := localKeeps_setByte h block (a + n) b
    rw [List.zipIdx_cons, List.foldl_cons, ih one.ok (n + 1) (by rw [one.owned]; omega) (by rw [one.owned]; exact hx),
      localByte_setByte h (by omega) hx, List.length_cons]
    by_cases e : x = a + n
    · rw [if_neg (by omega), if_pos e, if_pos (by omega), e, Nat.sub_self]; rfl
    · rw [if_neg e]
      refine ite_congr (propext ⟨fun h => by omega, fun h => by omega⟩) (fun hr => ?_) (fun _ => rfl)
      rw [show x - (a + n) = (x - (a + (n + 1))) + 1 by omega]
      rfl

/-- Clearing or setting the poison of sectors changes no byte. -/
theorem localMark_spec {s : State} {core : Nat} (h : s.LocalOk core) (block x q : Nat) (on : Bool) :
    LocalKeeps core s (localMark s core block q on) ∧
      localByte (localMark s core block q on) core block x = localByte s core block x := by
  obtain ⟨up, hup, hu⟩ : ∃ up : Way → Way, localMark s core block q on = s.setWay core ((ownedWays s core block).getD (q / 2048) 16) up ∧
      (∀ b bs bad, ∃ bad', up (.owned b bs bad) = .owned b bs bad') ∧ ∀ y, y.owner = none → up y = y :=
    ⟨_, rfl, fun b bs bad => ⟨_, rfl⟩, fun y hy => by cases y with
      | owned b _ _ => cases hy
      | l1 => rfl
      | free => rfl⟩
  obtain ⟨hu1, hu2⟩ := hu
  have own : ∀ y, (up y).owner = y.owner := fun y => by
    cases y with
    | owned b bs bad => obtain ⟨_, e⟩ := hu1 b bs bad; rw [e]; rfl
    | l1 => rw [hu2 _ rfl]
    | free => rw [hu2 _ rfl]
  have byte : ∀ y i, wayByte (up y) i = wayByte y i := fun y i => by
    cases y with
    | owned b bs bad => obtain ⟨_, e⟩ := hu1 b bs bad; rw [e]; rfl
    | l1 => rw [hu2 _ rfl]
    | free => rw [hu2 _ rfl]
  rw [hup]
  refine ⟨localKeeps_setWay h (fun b bs bad hb => ?_) own _, ?_⟩
  · obtain ⟨d, e⟩ := hu1 b bs bad
    exact ⟨bs, d, e, hb⟩
  · rw [localByte_eq, localByte_eq]
    unfold State.ownWay
    rw [ownedWays_setWay own h.1, core_setWay_same _ up h.1]
    rw [List.getD_eq_getElem?_getD, getElem?_modify_ite, List.getD_eq_getElem?_getD (l := (s.core core).ways)]
    cases (s.core core).ways[(ownedWays s core block).getD (x / 65536) 16]? with
    | none => rfl
    | some y =>
      simp only [Option.map_some, Option.getD_some]
      split
      · exact byte y _
      · rfl

theorem localMarks_spec {s : State} {core : Nat} (h : s.LocalOk core) (block x : Nat) (qs : List Nat) (on : Bool) :
    LocalKeeps core s (qs.foldl (fun s q => localMark s core block q on) s) ∧
      localByte (qs.foldl (fun s q => localMark s core block q on) s) core block x = localByte s core block x := by
  induction qs generalizing s with
  | nil => exact ⟨.refl h, rfl⟩
  | cons q qs ih =>
    obtain ⟨k1, b1⟩ := localMark_spec h block x q on
    obtain ⟨k2, b2⟩ := ih k1.ok
    exact ⟨k1.trans k2, b2.trans b1⟩

theorem localKeeps_write {s : State} {core : Nat} (h : s.LocalOk core) (block a : Nat) (bs : List Byte) :
    LocalKeeps core s (localWrite s core block a bs) := by
  have k1 := localKeeps_setBytes h block a (bs.zipIdx 0)
  unfold localWrite
  generalize bs.zipIdx.foldl (fun s x => localSetByte s core block (a + x.2) x.1) s = u at k1 ⊢
  have k2 := (localMarks_spec k1.ok block 0 ((sectorsWhole a bs.length).filter (fun q => localPoison u core block (32 * q) 1)) false).1
  exact ⟨fun k b => (k1.trans k2).owned k b, k2.ok⟩

/-- A write of local store leaves its bytes there, and every other byte of the block as it was. -/
theorem localByte_write {s : State} {core block a x : Nat} (h : s.LocalOk core) (bs : List Byte)
    (ha : a + bs.length ≤ 65536 * (ownedWays s core block).length) (hx : x < 65536 * (ownedWays s core block).length) :
    localByte (localWrite s core block a bs) core block x =
      if a ≤ x ∧ x < a + bs.length then bs.getD (x - a) 0 else localByte s core block x := by
  have k1 := localKeeps_setBytes h block a (bs.zipIdx 0)
  have b1 := localByte_setBytes (x := x) h bs 0 ha hx
  unfold localWrite
  generalize bs.zipIdx.foldl (fun s x => localSetByte s core block (a + x.2) x.1) s = u at k1 b1 ⊢
  exact (localMarks_spec k1.ok block x _ false).2.trans b1

end Sys2Proof.Machine
end

section
/-! PROOFS. The registers that hatches hold (R175 to R177): what the test of an allocation looks at, and the hatch and path that
an instruction leaves that has written its registers. -/

namespace Sys2Proof.Machine

/-! ### What the test of an allocation looks at -/

/-- What an allocation looks at in a hatch. -/
def Hatch.claim (h : Hatch) : Nat × Nat × Nat × Nat × Nat × Nat := (h.inst, h.core, h.partition, h.block, h.age, h.held)

theorem recOf_congr {s t : State} (hs : t.sched = s.sched) {h g : Hatch} (hb : g.block = h.block) : recOf t g = recOf s h := by
  unfold recOf launchOf State.block? State.launch?
  rw [hs, hb]

theorem poolFreeRegs_congr {s t : State} (hs : t.sched = s.sched) (hh : t.hatches.map Hatch.claim = s.hatches.map Hatch.claim) (core part : Nat) :
    poolFreeRegs t core part = poolFreeRegs s core part := by
  have key : ∀ u : State, poolFreeRegs u core part =
      256 - ((u.hatches.map Hatch.claim).filter (fun x => x.2.1 == core && x.2.2.1 == part)).foldl
        (fun a x => a + max x.2.2.2.2.2 ((u.block? x.2.2.2.1).elim LaunchRec.zero (fun b => (u.launch? b.launch).elim LaunchRec.zero (·.rcd))).floor) 0 := by
    intro u
    rw [List.filter_map, List.foldl_map]
    unfold poolFreeRegs
    refine congrArg (256 - ·) (congrArg (fun f => List.foldl f 0 _) (funext fun a => funext fun x => ?_))
    unfold recOf launchOf Hatch.claim
    cases u.block? x.block <;> rfl
  rw [key, key, hh]
  unfold State.block? State.launch?
  rw [hs]

theorem olderDry_congr {s t : State} (hd : t.dry = s.dry) (hh : t.hatches.map Hatch.claim = s.hatches.map Hatch.claim) {h g : Hatch}
    (hg : g.claim = h.claim) : olderDry t g = olderDry s h := by
  have key : ∀ u : State, ∀ k : Hatch, olderDry u k = u.dry.any (fun r => ((u.hatches.map Hatch.claim).find? (fun x => x.1 == r.hatch)).elim false
      (fun x => x.1 != k.claim.1 && x.2.1 == k.claim.2.1 && x.2.2.1 == k.claim.2.2.1 && decide (x.2.2.2.2.1 < k.claim.2.2.2.2.1))) := by
    intro u k
    unfold olderDry
    refine congrArg (u.dry.any) (funext fun r => ?_)
    rw [List.find?_map]
    unfold State.hatch?
    show _ = (Option.map Hatch.claim (u.hatches.find? (fun h => h.inst == r.hatch))).elim _ _
    cases u.hatches.find? (fun h => h.inst == r.hatch) <;> rfl
  rw [key, key, hd, hh, hg]

/-- The test of an allocation comes out the same where hatches claim the same. -/
theorem allocTest_congr {s t : State} {c d : Iss} (hs : t.sched = s.sched) (hd : t.dry = s.dry)
    (hh : t.hatches.map Hatch.claim = s.hatches.map Hatch.claim) (hr : d.rcd = c.rcd) (hc : d.h.claim = c.h.claim) {g k : Hatch} (hg : g.held = k.held) :
    allocTest t d g = allocTest s c k := by
  have parts := hc
  unfold Hatch.claim at parts
  simp only [Prod.mk.injEq] at parts
  obtain ⟨-, h1, h2, -, -, h3⟩ := parts
  unfold allocTest
  rw [hg, hr, h3, h1, h2, poolFreeRegs_congr hs hh, olderDry_congr hd hh hc]

theorem claims_of_stills {s t : State} (h : t.stills = s.stills) : t.hatches.map Hatch.claim = s.hatches.map Hatch.claim := by
  have key : ∀ u : State, u.stills.map Hatch.claim = u.hatches.map Hatch.claim := fun u => by
    unfold State.stills
    rw [List.map_map]
    rfl
  rw [← key, h, key]

theorem claims_updHatch (s : State) (i : Nat) {f : Hatch → Hatch} (hf : ∀ h, (f h).claim = h.claim) :
    (s.updHatch i f).hatches.map Hatch.claim = s.hatches.map Hatch.claim := by
  unfold State.updHatch updWhere
  rw [List.map_map]
  refine List.map_congr_left (fun h _ => ?_)
  rw [Function.comp_apply]
  split
  · exact hf h
  · rfl

/-! ### The registers that writes map -/

/-- Which of a hatch's registers are mapped, and how. -/
def Hatch.maps (h : Hatch) : List (Bool × Nat) := h.v.map (fun r => (r.mapped, r.tag))

theorem held_of_maps {h g : Hatch} (e : g.maps = h.maps) : g.held = h.held := by
  have key : ∀ k : Hatch, k.held = k.maps.foldl (fun a x => a + (if !x.1 then 0 else if x.2 == 0 then 1 else 2)) 0 := fun k => by
    unfold Hatch.held Hatch.maps
    rw [List.foldl_map]
  rw [key, key, e]

/-- The words of a function of register and lane written to n registers from r. -/
def Hatch.putVs (h : Hatch) (r n : Nat) (m : LaneSet) (g : Nat → Nat → Word) : Hatch :=
  (List.range n).foldl (fun h k => h.writeV (r + k) m (g k)) h

theorem Hatch.putVs_succ (h : Hatch) (r n : Nat) (m : LaneSet) (g : Nat → Nat → Word) :
    h.putVs r (n + 1) m g = (h.putVs r n m g).writeV (r + n) m (g n) := by
  unfold Hatch.putVs
  rw [List.range_succ, List.foldl_append]
  rfl

/-- Which registers a write maps does not depend on what it writes, nor on the lanes. -/
theorem maps_putVs (h : Hatch) (r n : Nat) (m m' : LaneSet) (g g' : Nat → Nat → Word) :
    (h.putVs r n m g).maps = (h.putVs r n m' g').maps := by
  have step : ∀ (k : Hatch) (j : Nat) (m : LaneSet) (f : Nat → Word), (k.writeV j m f).maps = k.maps.set j (true, 0) := fun k j m f => by
    unfold Hatch.maps Hatch.writeV
    rw [List.map_set]
  induction n with
  | zero => rfl
  | succ n ih => rw [Hatch.putVs_succ, Hatch.putVs_succ, step, step, ih]

/-- What a write of n registers leaves: its words in its lanes, the other lanes and the other registers as they were. -/
theorem putVs_spec (h : Hatch) (r n : Nat) (m : LaneSet) (g : Nat → Nat → Word) :
    ∃ vs, h.putVs r n m g = { h with v := vs } ∧ vs.length = h.v.length ∧
      (∀ k l, k < n → r + k < h.v.length → l < 96 → (h.putVs r n m g).vword (r + k) l = if m.getLsbD l then g k l else h.vword (r + k) l) ∧
      ∀ j, (j < r ∨ r + n ≤ j) → (h.putVs r n m g).vreg j = h.vreg j := by
  induction n with
  | zero => exact ⟨h.v, rfl, rfl, fun k _ hk => absurd hk (Nat.not_lt_zero k), fun _ _ => rfl⟩
  | succ n ih =>
    obtain ⟨vs, e, hl, hin, hout⟩ := ih
    rw [Hatch.putVs_succ]
    have len : (h.putVs r n m g).v.length = h.v.length := by rw [e]; exact hl
    refine ⟨((h.putVs r n m g).writeV (r + n) m (g n)).v, by rw [e]; rfl, (Hatch.length_writeV _ _ _ _).trans len, fun k l hk hr hl => ?_,
      fun j hj => ?_⟩
    · by_cases ek : k = n
      · subst ek
        rw [Hatch.vword_writeV_same _ _ (by rw [len]; exact hr) hl]
        refine ite_congr rfl (fun _ => rfl) (fun _ => ?_)
        unfold Hatch.vword
        rw [hout _ (by omega)]
      · have same : ((h.putVs r n m g).writeV (r + n) m (g n)).vword (r + k) l = (h.putVs r n m g).vword (r + k) l := by
          unfold Hatch.vword
          rw [Hatch.vreg_writeV_ne _ _ (by omega)]
        rw [same, hin k l (by omega) hr hl]
    · rw [Hatch.vreg_writeV_ne _ _ (by omega), hout j (by omega)]

/-! ### The end of an instruction that has written its registers -/

/-- A path that is c's, moved on, has gone on. -/
theorem wentOn_of {t : State} {c : Iss} {k g : Hatch} {p : Path} (hk : t.hatch? c.inst = some k)
    (e : k.still = (g.setPath c.slot (some (p.arrive (wrap64 (c.p.pc + 16))))).still)
    (hp : (p.loops, p.mask, p.domain) = (c.p.loops, c.p.mask, c.p.domain)) : WentOn t c 16 := by
  have path : (k.path? c.slot).map Path.still = some (p.arrive (wrap64 (c.p.pc + 16))).still := by
    rw [← Hatch.path?_still, e, Hatch.path?_still, Hatch.setPath_path?]
    rfl
  obtain ⟨q, hq, eq⟩ := Option.map_eq_some_iff.1 path
  have field : ∀ {α : Type} (F : Path → α), (∀ p : Path, F p.still = F p) → F q = F (p.arrive (wrap64 (c.p.pc + 16))) := fun F hF =>
    (hF q).symm.trans ((congrArg F eq).trans (hF _))
  simp only [Prod.mk.injEq] at hp
  obtain ⟨hl, hm, hd⟩ := hp
  unfold WentOn
  rw [hk, Option.bind_some, hq, Option.map_some, field (fun p => (p.pc, p.loops, p.mask, p.domain)) (fun _ => rfl), ← hl, ← hm, ← hd]
  rfl

theorem ways_rest (s : State) (k : Nat) : (s.rest.core k).ways = (s.core k).ways := by
  show ((s.cores.map _).getD k Core.reset).ways = (s.cores.getD k Core.reset).ways
  rw [List.getD_eq_getElem?_getD, List.getD_eq_getElem?_getD, List.getElem?_map]
  cases s.cores[k]? <;> rfl

/-- The hatch that a finished instruction leaves; memory and local store are as they were. -/
theorem finished_spec {s t : State} {c : Iss} {sh : Shape} {g : Hatch} {p : Path} {len : Nat} (h : Finished s t c sh g p len)
    (hi : g.inst = c.inst) (hh : (s.hatch? c.inst).isSome = true) : (∃ k, t.hatch? c.inst = some k ∧
      k.still = ((g.late sh).setPath c.slot (some (p.arrive (wrap64 (c.p.pc + len))))).still) ∧
    t.mem = s.mem ∧ t.slices = s.slices ∧ ∀ j, (t.core j).ways = (s.core j).ways := by
  obtain ⟨hr, hs, -⟩ := h
  obtain ⟨ops, e⟩ := keepNewer_eq s c.inst sh.dsts
  rw [e] at hr hs
  have inst : ((g.late sh).setPath c.slot (some (p.arrive (wrap64 (c.p.pc + len))))).inst = c.inst := by
    rw [Hatch.setPath_inst, Hatch.late_inst, hi]
  obtain ⟨mine, -⟩ := hatch?_replaced (s := { s with ops := ops }) inst hh hs
  obtain ⟨k, hk, ek⟩ := Option.map_eq_some_iff.1 mine
  refine ⟨⟨k, hk, ek⟩, (congrArg State.mem hr :), (congrArg State.slices hr :), fun j => ?_⟩
  rw [← ways_rest t, hr, ways_rest]
  rfl

theorem late_files (h : Hatch) (sh : Shape) : (h.late sh).v = h.v ∧ (h.late sh).s = h.s ∧ (h.late sh).p = h.p := by
  unfold Hatch.late
  split
  · obtain ⟨a, b, d, e⟩ := markEmpty_eq h sh.dsts true
    unfold Hatch.markLate
    rw [e]
    exact ⟨rfl, rfl, rfl⟩
  · exact ⟨rfl, rfl, rfl⟩

/-- An instruction that ends in a state whose hatches claim what they claimed at its issue, and writes n registers from r. -/
theorem complete_writes {s u : State} {c : Iss} {sh : Shape} {m : LaneSet} {ws : List Write} {r w : Nat} {g g0 : Nat → Nat → Word} {h : Hatch}
    (hs : u.Settled) (hm : m ≠ 0) (hl : sh.srcs.all (fun x => !x.last) = true) (hsched : u.sched = s.sched) (hdry : u.dry = s.dry)
    (hcl : u.hatches.map Hatch.claim = s.hatches.map Hatch.claim) (hc : s.hatch? c.inst = some c.h) (hh : u.hatch? c.inst = some h)
    (hv : h.v = c.h.v) (hws : ∀ m hp, ws.foldl (applyWrite c.prot m) hp = (hp.1.putVs r w m g, hp.2))
    (ha : allocTest s c (c.h.putVs r w 0 g0) = .ok) : let t := complete u (c.refresh u) sh m ws 0 16
    WentOn t c 16 ∧ t.mem = u.mem ∧ (∀ j, (t.core j).ways = (u.core j).ways) ∧ ∃ k, t.hatch? c.inst = some k ∧ k.s = h.s ∧ k.p = h.p ∧
      (∀ j l, j < w → r + j < c.h.v.length → l < 96 → k.vword (r + j) l = if m.getLsbD l then g j l else c.h.vword (r + j) l) ∧
      ∀ j, (j < r ∨ r + w ≤ j) → k.vreg j = c.h.vreg j := by
  intro t
  have ref : c.refresh u = { c with h := h } := by unfold Iss.refresh; rw [hh]; rfl
  have claim : h.claim = c.h.claim := by
    have key : ∀ x : State, (x.hatches.map Hatch.claim).find? (fun y => y.1 == c.inst) = (x.hatch? c.inst).map Hatch.claim := fun x => List.find?_map ..
    have := (key u).symm.trans ((congrArg (fun xs => xs.find? (fun y : Nat × Nat × Nat × Nat × Nat × Nat => y.1 == c.inst)) hcl).trans (key s))
    rw [hh, hc] at this
    exact Option.some.inj this
  have held : (h.putVs r w m g).held = (c.h.putVs r w 0 g0).held := by
    refine held_of_maps ((maps_putVs h r w m 0 g g0).trans ?_)
    rw [show h = { h with v := c.h.v } by rw [← hv]]
    have step : ∀ n, ({ h with v := c.h.v } : Hatch).putVs r n 0 g0 = { h with v := (c.h.putVs r n 0 g0).v } := fun n => by
      induction n with
      | zero => rfl
      | succ n ih => rw [Hatch.putVs_succ, Hatch.putVs_succ, ih]; rfl
    rw [step]
    rfl
  have writes : ws.foldl (applyWrite (c.refresh u).prot m) ((c.refresh u).h.freeLast sh, (c.refresh u).p) = (h.putVs r w m g, c.p) := by
    rw [ref, freeLast_none hl]
    exact hws m (h, c.p)
  have fin := complete_spec (c := c.refresh u) hs sh m ws 0 16 hm (by
    rw [writes]
    refine (allocTest_congr (c := c) hsched hdry hcl ?_ ?_ held).trans ha
    · rw [ref]
    · rw [ref]; exact claim)
  rw [writes] at fin
  obtain ⟨vs, e, -, hin, hout⟩ := putVs_spec h r w m g
  have inst : h.inst = c.inst := hatch?_inst hh
  have cp : (c.refresh u).inst = c.inst ∧ (c.refresh u).slot = c.slot ∧ (c.refresh u).p = c.p := by rw [ref]; exact ⟨inst, rfl, rfl⟩
  obtain ⟨⟨k, hk, ek⟩, hmem, -, hways⟩ := finished_spec fin (by rw [cp.1]; show (h.putVs r w m g).inst = _; rw [e]; exact inst)
    (by rw [cp.1, hh]; rfl)
  obtain ⟨ci, cs, cp⟩ := cp
  rw [ci] at hk
  rw [cs, cp] at ek
  obtain ⟨lv, ls, lp⟩ := late_files { h.putVs r w m g with fpflags := (h.putVs r w m g).fpflags ||| 0 } sh
  have same : ∀ {α : Type} (F : Hatch → α), (∀ x : Hatch, F x.still = F x) → (∀ (x : Hatch) y z, F { x with slot0 := y, slot1 := z } = F x) →
      F k = F (({ h.putVs r w m g with fpflags := (h.putVs r w m g).fpflags ||| 0 } : Hatch).late sh) := fun F hF hS => by
    obtain ⟨y, z, es⟩ := setPath_eq (({ h.putVs r w m g with fpflags := (h.putVs r w m g).fpflags ||| 0 } : Hatch).late sh) c.slot
      (some (c.p.arrive (wrap64 (c.p.pc + 16))))
    rw [← hF k, ek, hF, es, hS]
  have kv : k.v = (h.putVs r w m g).v := (same Hatch.v (fun _ => rfl) (fun _ _ _ => rfl)).trans lv
  refine ⟨wentOn_of hk ek rfl, hmem, hways, k, hk, ?_, ?_, fun j l hj hr hl => ?_, fun j hj => ?_⟩
  · refine (same Hatch.s (fun _ => rfl) (fun _ _ _ => rfl)).trans (ls.trans ?_)
    show (h.putVs r w m g).s = _
    rw [e]
  · refine (same Hatch.p (fun _ => rfl) (fun _ _ _ => rfl)).trans (lp.trans ?_)
    show (h.putVs r w m g).p = _
    rw [e]
  · have := hin j l hj (by rw [hv]; exact hr) hl
    unfold Hatch.vword Hatch.vreg at this ⊢
    rw [kv, this, hv]
  · have := hout j hj
    unfold Hatch.vreg at this ⊢
    rw [kv, this, hv]

end Sys2Proof.Machine
end

section
/-! PROOFS. The statement of local-store loads and stores. -/

namespace Sys2Proof.Machine

/-! ### The path of an instruction that goes on -/

/-- The path in a slot of a hatch, but for the marks of issue choice. -/
def State.pathStill (s : State) (i slot : Nat) : Option Path := (s.hatch? i).bind (fun h => (h.path? slot).map Path.still)

theorem pathStill_of_stills {s t : State} (h : t.stills = s.stills) (i slot : Nat) : t.pathStill i slot = s.pathStill i slot := by
  have key : ∀ u : State, u.pathStill i slot = ((u.hatch? i).map Hatch.still).bind (fun h => h.path? slot) := fun u => by
    unfold State.pathStill
    cases u.hatch? i with
    | none => rfl
    | some h => exact (Hatch.path?_still h slot).symm
  rw [key, key, hatch?_still_congr h]

theorem pathStill_updHatch {f : Hatch → Hatch} (hi : ∀ h, (f h).inst = h.inst) {slot : Nat} (hp : ∀ h, (f h).path? slot = h.path? slot)
    (s : State) (i : Nat) : (s.updHatch i f).pathStill i slot = s.pathStill i slot := by
  unfold State.pathStill
  rw [hatch?_updHatch s i f (fun h e => (hi h).trans e)]
  cases s.hatch? i with
  | none => rfl
  | some h => exact congrArg (Option.map Path.still) (hp h)

/-- A path that an instruction leaves as it was goes on; memory and local store are as the instruction left them. -/
theorem passed_wentOn {s t : State} {c : Iss} (h : Passed s t c 16) (hp : s.pathStill c.inst c.slot = some c.p.still) :
    WentOn t c 16 ∧ t.mem = s.mem ∧ t.slices = s.slices ∧ ∀ j, (t.core j).ways = (s.core j).ways := by
  obtain ⟨hr, hs, -⟩ := h
  refine ⟨?_, (congrArg State.mem hr :), (congrArg State.slices hr :), fun j => ?_⟩
  · unfold State.pathStill at hp
    obtain ⟨g, hg, ep⟩ := Option.bind_eq_some_iff.1 hp
    obtain ⟨p, hq, ep⟩ := Option.map_eq_some_iff.1 ep
    have still := hatch?_still_congr hs c.inst
    rw [hatch?_updPath, hg, Option.map_some, hq] at still
    obtain ⟨k, hk, ek⟩ := Option.map_eq_some_iff.1 still
    have field : ∀ {α : Type} (F : Path → α), (∀ p : Path, F p.still = F p) → F p = F c.p := fun F hF =>
      (hF p).symm.trans ((congrArg F ep).trans (hF _))
    exact wentOn_of hk ek (field (fun p => (p.loops, p.mask, p.domain)) (fun _ => rfl))
  · rw [← ways_rest t, hr, ways_rest]
    rfl

theorem path?_setCount (h : Hatch) (slot cls : Nat) (ids : List Nat) : (h.setCount cls ids).path? slot = h.path? slot := by
  unfold Hatch.setCount
  split_ifs <;> rfl

theorem inst_setCount (h : Hatch) (cls : Nat) (ids : List Nat) : (h.setCount cls ids).inst = h.inst := by
  unfold Hatch.setCount
  split_ifs <;> rfl

/-- A hatch whose counts have lost the operations at their front that are over. -/
def Hatch.trimmed (live : List Nat) (h : Hatch) : Hatch :=
  { h with
    c0 := h.c0.dropWhile (fun i => !live.contains i)
    c1 := h.c1.dropWhile (fun i => !live.contains i)
    c2 := h.c2.dropWhile (fun i => !live.contains i)
    c3 := h.c3.dropWhile (fun i => !live.contains i) }

theorem noteDone_eq (s : State) (i cls : Nat) : noteDone s i cls =
    (s.fresh.2.updHatch i (fun h => h.setCount cls (h.count cls ++ [s.nextId]))).updHatch i (Hatch.trimmed (s.ops.map (·.id))) := rfl

theorem pathStill_noteDone (s : State) (i cls slot : Nat) : (noteDone s i cls).pathStill i slot = s.pathStill i slot := by
  rw [noteDone_eq]
  refine (pathStill_updHatch (f := Hatch.trimmed (s.ops.map (·.id))) (fun _ => rfl) (fun _ => rfl) _ i).trans ?_
  exact pathStill_updHatch (fun h => inst_setCount h _ _) (fun h => path?_setCount h slot _ _) _ i

theorem claim_setCount (h : Hatch) (cls : Nat) (ids : List Nat) : (h.setCount cls ids).claim = h.claim := by
  unfold Hatch.setCount
  split_ifs <;> rfl

theorem claims_noteDone (s : State) (i cls : Nat) : (noteDone s i cls).hatches.map Hatch.claim = s.hatches.map Hatch.claim := by
  rw [noteDone_eq]
  refine (claims_updHatch _ i (f := Hatch.trimmed (s.ops.map (·.id))) (fun _ => rfl)).trans ?_
  exact claims_updHatch _ i (fun h => claim_setCount h _ _)

/-- The hatch of an access that is over at once is counted; its registers are as they were. -/
theorem noteDone_hatch {s : State} {i : Nat} {h : Hatch} (hh : s.hatch? i = some h) (cls : Nat) :
    ∃ a b c d, (noteDone s i cls).hatch? i = some { h with
      c0 := a
      c1 := b
      c2 := c
      c3 := d } := by
  rw [noteDone_eq, hatch?_updHatch _ i (Hatch.trimmed (s.ops.map (·.id))) (fun _ e => e), hatch?_updHatch _ i _ (fun h e => (inst_setCount h _ _).trans e)]
  rw [show (s.fresh.2).hatch? i = some h from hh]
  simp only [Option.map_some]
  unfold Hatch.setCount Hatch.trimmed
  split_ifs <;> exact ⟨_, _, _, _, rfl⟩

/-! ### Local-store loads (R379 to R381) -/

theorem alignFault_none {n : Nat} {as : List (Nat × Nat)} (h : ∀ a ∈ as, a.2 % n = 0) : alignFault n as = none := by
  unfold alignFault
  rw [List.filter_eq_nil_iff.2 (fun a ha => by rw [h a ha]; decide)]

theorem localFaults_nil {rcd : LaunchRec} {n : Nat} {as : List (Nat × Nat)} (h : ∀ a ∈ as, localOk rcd a.2 n = true) : localFaults rcd n as = [] := by
  unfold localFaults
  rw [List.filterMap_eq_nil_iff]
  exact fun a ha => if_pos (h a ha)

/-- An aligned load of local store in range, that finds its registers, ends at once. -/
theorem exec_localLoad {op n align : Nat} {f : MForm} {i : Instr} {s : State} {c0 c : Iss} {addrs : Iss → List (Nat × Nat)} {val : State → Iss → List Write}
    (he : exec i s = localLoad op f n align addrs val s) (hi : IssuesF op f s c0 c) (ha : c.act ≠ 0) (hc : c.h.countFull 2 = false)
    (hq : f.acquires = false) (hl : (mShape op f).srcs.all (fun u => !u.last) = true)
    (hal : ∀ a ∈ addrs c, a.2 % align = 0 ∧ localOk c.rcd a.2 n = true ∧ localPoison s c.h.core c.h.block a.2 n = false)
    (ht : allocTest s c ((val s c).foldl (applyWrite c.prot 0) (c.h, c.p)).1 = .ok) :
    exec i s = .next (complete (noteDone s c.inst 2) (c.refresh (noteDone s c.inst 2)) (mShape op f) (physMask c.prot c.act)
      (val (noteDone s c.inst 2) c) 0 16) := by
  obtain ⟨hi, rfl⟩ := hi
  rw [he]
  unfold localLoad issueM
  rw [issueWith_go hi, if_neg (by simpa using ha), if_neg (by rw [hc]; exact Bool.false_ne_true)]
  dsimp only
  rw [alignFault_none (fun a h => (hal a h).1)]
  dsimp only
  rw [localFaults_nil (fun a h => (hal a h).2.1)]
  have clean : (addrs (c0.forM op f)).any (fun a => localPoison s (c0.forM op f).h.core (c0.forM op f).h.block a.2 n) = false :=
    List.any_eq_false.2 (fun a h => by rw [(hal a h).2.2]; exact Bool.false_ne_true)
  show Host.Outcome.next (if _ then _ else _) = _
  rw [clean, if_neg Bool.false_ne_true, hq, freeLast_none hl, if_neg Bool.false_ne_true, ht]

/-- The test of the allocation of a vector destination. -/
theorem allocTest_putVs {op w : Nat} {f : MForm} {s : State} {c : Iss} (hd : f.d.toNat < 64) (hds : (mShape op f).dsts = [(f.d, w)])
    (ht : allocTest s c ((allocWrites (mShape op f) false).foldl (applyWrite false 0) (c.h, c.p)).1 = .ok) :
    allocTest s c (c.h.putVs f.d.toNat w 0 (fun _ _ => 0)) = .ok := by
  have vec : specKind f.d = .v f.d.toNat := specKind_of_lt hd
  have ws : allocWrites (mShape op f) false = [.reg f.d w (fun _ => 0)] := by
    unfold allocWrites
    rw [hds]
    have : isVec f.d = true := by unfold isVec; rw [vec]
    simp only [List.filterMap_cons, this, List.filterMap_nil]
    rfl
  rw [ws, List.foldl_cons, List.foldl_nil, applyWrite_vector vec] at ht
  refine (allocTest_congr rfl rfl rfl rfl rfl (held_of_maps ?_)).trans ht
  exact maps_putVs _ _ _ _ _ _ _

theorem answers_localLoad {op n align w : Nat} {f : MForm} {i : Instr} {s : State} {c0 c : Iss} {addrs : Iss → List (Nat × Nat)}
    {val : State → Iss → List Write} {g : Nat → Nat → Word} (he : exec i s = localLoad op f n align addrs val s) (hs : s.Settled)
    (hp : c.prot = false) (ha : c.act ≠ 0) (hc : c.h.countFull 2 = false) (hi : IssuesF op f s c0 c)
    (hq : f.acquires = false) (hl : (mShape op f).srcs.all (fun u => !u.last) = true) (hlen : c.h.v.length = 64) (hd : f.d.toNat < 64)
    (hw : f.d.toNat + w ≤ 64)
    (hal : ∀ a ∈ addrs c, a.2 % align = 0 ∧ localOk c.rcd a.2 n = true ∧ localPoison s c.h.core c.h.block a.2 n = false)
    (hds : (mShape op f).dsts = [(f.d, w)])
    (ht : allocTest s c ((allocWrites (mShape op f) false).foldl (applyWrite false 0) (c.h, c.p)).1 = .ok)
    (hv : val (noteDone s c.inst 2) c = val s c)
    (hws : ∀ m hp, (val s c).foldl (applyWrite false m) hp = (hp.1.putVs f.d.toNat w m g, hp.2)) :
    Answers i s (fun t => WentOn t c 16 ∧ t.mem = s.mem ∧ (∀ k, (t.core k).ways = (s.core k).ways) ∧
      ∃ h, t.hatch? c.inst = some h ∧ h.s = c.h.s ∧ h.p = c.h.p ∧
        (∀ k l, k < w → l < 96 → h.vword (f.d.toNat + k) l = if c.act.getLsbD l then g k l else c.h.vword (f.d.toNat + k) l) ∧
        (∀ r, (r < f.d.toNat ∨ f.d.toNat + w ≤ r) → h.vreg r = c.h.vreg r)) := by
  have hh : s.hatch? c.inst = some c.h := by
    obtain ⟨hi, rfl⟩ := hi
    obtain ⟨a, e⟩ := forM_eq c0 op f
    rw [e]
    exact (issues_hatch hi : s.hatch? c0.inst = some c0.h)
  have alloc := allocTest_putVs hd hds ht
  have test : allocTest s c ((val s c).foldl (applyWrite c.prot 0) (c.h, c.p)).1 = .ok := by
    rw [hp, hws]
    exact (allocTest_congr rfl rfl rfl rfl rfl (held_of_maps (maps_putVs _ _ _ _ _ _ _))).trans alloc
  obtain ⟨a, b, d, e, hn⟩ := noteDone_hatch hh 2
  have run := exec_localLoad he hi ha hc hq hl hal test
  rw [hv, hp] at run
  obtain ⟨h1, h2, h3, k, hk, h4, h5, h6, h7⟩ := complete_writes (sh := mShape op f) (m := physMask false c.act) (ws := val s c) (w := w) (r := f.d.toNat)
    (g := g) (s := s) (u := noteDone s c.inst 2) (c := c) hs ha hl rfl rfl (claims_noteDone s _ 2) hh hn rfl
    (by rw [hp]; exact hws) alloc
  exact ⟨_, run, h1, h2, h3, k, hk, h4, h5, fun j l hj hl => h6 j l hj (by omega) hl, h7⟩

/-! ### Local-store stores (R180, R380) -/

theorem localByte_congr {s t : State} {core : Nat} (h : (t.core core).ways = (s.core core).ways) (block a : Nat) :
    localByte t core block a = localByte s core block a := by
  unfold localByte ownedWays
  rw [h]

/-- The bytes of lanes written one after the other. -/
def writeLanes (core block : Nat) (at_ : Nat → Nat) (data : Nat → List Byte) (s : State) (ls : List Nat) : State :=
  ls.foldl (fun s j => localWrite s core block (at_ j) (data j)) s

section Lanes
variable {core block n : Nat} {at_ : Nat → Nat} {data : Nat → List Byte} (hn : ∀ j, (data j).length = n)

include hn

/-- A byte that no lane covers is as it was. -/
theorem localByte_writeLanes_off {s : State} (h : s.LocalOk core) {ls : List Nat} {x : Nat}
    (hr : ∀ j ∈ ls, at_ j + n ≤ 65536 * (ownedWays s core block).length) (hx : x < 65536 * (ownedWays s core block).length)
    (ho : ∀ j ∈ ls, ¬ (at_ j ≤ x ∧ x < at_ j + n)) : localByte (writeLanes core block at_ data s ls) core block x = localByte s core block x := by
  induction ls generalizing s with
  | nil => rfl
  | cons j ls ih =>
    have one := localKeeps_write h block (at_ j) (data j)
    have byte := localByte_write h (data j) (a := at_ j) (by rw [hn]; exact hr j List.mem_cons_self) hx
    rw [hn, if_neg (ho j List.mem_cons_self)] at byte
    refine (ih one.ok (fun k hk => ?_) ?_ (fun k hk => ho k (List.mem_cons_of_mem _ hk))).trans byte
    · rw [one.owned]; exact hr k (List.mem_cons_of_mem _ hk)
    · rw [one.owned]; exact hx

/-- A byte holds the data of the last lane that covers it. -/
theorem localByte_writeLanes_last {s : State} (h : s.LocalOk core) {ls : List Nat} (hs : ls.Pairwise (· < ·)) {x j : Nat}
    (hr : ∀ j ∈ ls, at_ j + n ≤ 65536 * (ownedWays s core block).length) (hx : x < 65536 * (ownedWays s core block).length)
    (hj : j ∈ ls) (hc : at_ j ≤ x ∧ x < at_ j + n) (ho : ∀ k ∈ ls, j < k → ¬ (at_ k ≤ x ∧ x < at_ k + n)) :
    localByte (writeLanes core block at_ data s ls) core block x = (data j).getD (x - at_ j) 0 := by
  induction ls generalizing s with
  | nil => cases hj
  | cons k ls ih =>
    obtain ⟨hk, hs⟩ := List.pairwise_cons.1 hs
    have one := localKeeps_write h block (at_ k) (data k)
    have rest : ∀ i ∈ ls, at_ i + n ≤ 65536 * (ownedWays (localWrite s core block (at_ k) (data k)) core block).length := fun i hi => by
      rw [one.owned]; exact hr i (List.mem_cons_of_mem _ hi)
    have room : x < 65536 * (ownedWays (localWrite s core block (at_ k) (data k)) core block).length := by rw [one.owned]; exact hx
    rcases List.mem_cons.1 hj with rfl | hj
    · have byte := localByte_write h (data j) (a := at_ j) (by rw [hn]; exact hr j List.mem_cons_self) hx
      rw [hn, if_pos hc] at byte
      exact (localByte_writeLanes_off hn one.ok rest room (fun k hk' => ho k (List.mem_cons_of_mem _ hk') (hk k hk'))).trans byte
    · exact ih one.ok hs rest room hj (fun i hi => ho i (List.mem_cons_of_mem _ hi))

end Lanes

theorem writeLanes_frame (core block : Nat) (at_ : Nat → Nat) (data : Nat → List Byte) (s : State) (ls : List Nat) :
    LocalFrame core s (writeLanes core block at_ data s ls) := localFrame_foldl (fun s j => localFrame_write s core block (at_ j) (data j)) ls s

theorem pairwise_lanesOf (m : LaneSet) : (lanesOf m).Pairwise (· < ·) := by
  unfold lanesOf
  exact List.pairwise_lt_range.filter _

/-- The state that a store to local store in range leaves before its path goes on. -/
def Iss.storedLocal (c : Iss) (op : Nat) (f : MForm) (u : State) : State :=
  (noteDone u c.inst 2).updHatch c.inst (fun h => ({ h with clean := h.clean && !f.releases } : Hatch).freeLast (mShape op f))

/-- A store to local store in range is made at once. -/
theorem exec_localStore {op n align : Nat} {f : MForm} {i what : Instr} {s : State} {c0 c : Iss} {at_ : Iss → Nat → Nat} {data : Iss → Nat → List Byte}
    (he : exec i s = localStore op f what n align (fun c => (lanesOf c.act).map (fun j => (j, at_ c j))) data s) (hi : IssuesF op f s c0 c)
    (hsh : c0.shadowOk (mShape op f) = true) (ha : c.act ≠ 0) (hc : c.h.countFull 2 = false) (hw : (s.core c.h.core).sfrWait = [])
    (hr : f.releases = false ∨ releaseReady s c.h = (s, true))
    (hal : ∀ j ∈ lanesOf c.act, at_ c j % align = 0 ∧ localOk c.rcd (at_ c j) n = true) :
    exec i s = .next (finish (retire (c.storedLocal op f (writeLanes c.h.core c.h.block (at_ c) (data c) s (lanesOf c.act))) c.inst c.slot c.p.pc 16)) := by
  obtain ⟨hi, rfl⟩ := hi
  have all : ∀ a ∈ (lanesOf (c0.forM op f).act).map (fun j => (j, at_ (c0.forM op f) j)),
      a.2 % align = 0 ∧ localOk (c0.forM op f).rcd a.2 n = true := fun a h => by
    obtain ⟨j, hj, rfl⟩ := List.mem_map.1 h
    exact hal j hj
  have ready : (if f.releases then releaseReady s (c0.forM op f).h else (s, true)) = (s, true) := by
    rcases hr with h | h
    · rw [h]; rfl
    · rw [h]; split <;> rfl
  rw [he]
  unfold localStore
  rw [issueMS_go hi hsh, if_neg (by simpa using ha), if_neg (by rw [hc, hw]; exact Bool.false_ne_true)]
  dsimp only
  rw [alignFault_none (fun a h => (all a h).1)]
  dsimp only
  rw [ready]
  dsimp only
  rw [localFaults_nil (fun a h => (all a h).2), List.filter_eq_self.2 (fun a h => (all a h).2), List.foldl_map]
  rfl

theorem storedLocal_path (c : Iss) (op : Nat) (f : MForm) (u : State) :
    (c.storedLocal op f u).pathStill c.inst c.slot = u.pathStill c.inst c.slot := by
  unfold Iss.storedLocal
  refine (pathStill_updHatch (f := fun h => ({ h with clean := h.clean && !f.releases } : Hatch).freeLast (mShape op f))
    (fun h => Hatch.freeLast_inst _ _) (fun h => ?_) _ _).trans (pathStill_noteDone u c.inst 2 c.slot)
  obtain ⟨v, e⟩ := freeLast_eq { h with clean := h.clean && !f.releases } (mShape op f)
  rw [e]
  rfl

theorem answers_localStore {op n align : Nat} {f : MForm} {i what : Instr} {s : State} {c0 c : Iss} {at_ : Iss → Nat → Nat} {data : Iss → Nat → List Byte}
    (he : exec i s = localStore op f what n align (fun c => (lanesOf c.act).map (fun j => (j, at_ c j))) data s) (hs : s.Settled)
    (hi : IssuesF op f s c0 c) (hsh : c0.shadowOk (mShape op f) = true) (ha : c.act ≠ 0) (hc : c.h.countFull 2 = false)
    (hw : (s.core c.h.core).sfrWait = []) (hr : f.releases = false ∨ releaseReady s c.h = (s, true)) (hk : s.LocalOk c.h.core)
    (hl : c.rcd.local_ ≤ 65536 * (ownedWays s c.h.core c.h.block).length) (hn : ∀ j, (data c j).length = n)
    (hal : ∀ j ∈ lanesOf c.act, at_ c j % align = 0 ∧ localOk c.rcd (at_ c j) n = true) :
    Answers i s (fun t => WentOn t c 16 ∧ t.mem = s.mem ∧ t.slices = s.slices ∧
      (∀ a j, a < c.rcd.local_ → j ∈ lanesOf c.act → at_ c j ≤ a → a < at_ c j + n →
        (∀ k ∈ lanesOf c.act, j < k → ¬ (at_ c k ≤ a ∧ a < at_ c k + n)) →
        localByte t c.h.core c.h.block a = (data c j).getD (a - at_ c j) 0) ∧
      (∀ a, a < c.rcd.local_ → (∀ k ∈ lanesOf c.act, ¬ (at_ c k ≤ a ∧ a < at_ c k + n)) →
        localByte t c.h.core c.h.block a = localByte s c.h.core c.h.block a) ∧
      (∀ k, k ≠ c.h.core → (t.core k).ways = (s.core k).ways)) := by
  have run := exec_localStore he hi hsh ha hc hw hr hal
  obtain ⟨hh, hpath⟩ : s.hatch? c.inst = some c.h ∧ c.h.path? c.slot = some c.p := by
    obtain ⟨hi, rfl⟩ := hi
    obtain ⟨a, e⟩ := forM_eq c0 op f
    rw [e]
    exact (⟨issues_hatch hi, issues_path hi⟩ : s.hatch? c0.inst = some c0.h ∧ c0.h.path? c0.slot = some c0.p)
  have room : ∀ j ∈ lanesOf c.act, at_ c j + n ≤ 65536 * (ownedWays s c.h.core c.h.block).length := fun j hj => by
    have := (hal j hj).2
    unfold localOk at this
    have := of_decide_eq_true this
    omega
  have frame := writeLanes_frame c.h.core c.h.block (at_ c) (data c) s (lanesOf c.act)
  have last := fun x j => localByte_writeLanes_last (block := c.h.block) (x := x) (j := j) hn hk (pairwise_lanesOf c.act) room
  have off := fun x => localByte_writeLanes_off (block := c.h.block) (x := x) hn hk room
  generalize writeLanes c.h.core c.h.block (at_ c) (data c) s (lanesOf c.act) = u at run frame last off
  obtain ⟨cs, hs', eq⟩ := frame.eq
  have settled : (c.storedLocal op f u).Settled := by
    show u.sched.raised = []
    rw [eq]
    exact hs
  have path : (c.storedLocal op f u).pathStill c.inst c.slot = some c.p.still := by
    rw [storedLocal_path, pathStill_of_stills frame.stills]
    unfold State.pathStill
    rw [hh, Option.bind_some, hpath]
    rfl
  have done := passed_wentOn (passed_of settled c 16) path
  generalize finish (retire (c.storedLocal op f u) c.inst c.slot c.p.pc 16) = t at run done
  obtain ⟨went, hmem, hslices, hways⟩ := done
  have hways : ∀ j, (t.core j).ways = (u.core j).ways := hways
  refine ⟨t, run, went, ?_, ?_, fun a j hr hj h1 h2 h3 => ?_, fun a hr h1 => ?_, fun k hk' => ?_⟩
  · exact hmem.trans (by show u.mem = s.mem; rw [eq])
  · exact hslices.trans (by show u.slices = s.slices; rw [eq])
  · rw [localByte_congr (hways _)]
    exact last a j (by omega) hj ⟨h1, h2⟩ h3
  · rw [localByte_congr (hways _)]
    exact off a (by omega) h1
  · rw [hways, frame.others k hk']

/-! ### The instructions -/

theorem exec_ldl (f : MForm) (s : State) : exec (.ldl f) s = localLoad 0xA3 f (twfBytes f.twf.toNat) (twfBytes f.twf.toNat)
    (fun c => (lanesOf c.act).map (fun j => (j, localAddr c f j)))
    (fun s c => [.reg f.d (mRule 0xA3 f).d.width (fun l =>
      extend f.twf.toNat (localBytesOf s c (localAddr c f (visLane c.prot l)) (twfBytes f.twf.toNat)))]) s := rfl

theorem exec_ldlb (f : MForm) (s : State) : exec (.ldlb f) s = localLoad 0xA5 f (twfBytes f.twf.toNat) (twfBytes f.twf.toNat)
    (fun c => (lanesOf c.act).map (fun j => (j, localAddr c f 0)))
    (fun s c => [.reg f.d (mRule 0xA5 f).d.width (fun _ =>
      extend f.twf.toNat (localBytesOf s c (localAddr c f 0) (twfBytes f.twf.toNat)))]) s := rfl

theorem exec_ldlx (f : MForm) (s : State) : exec (.ldlx f) s = localLoad 0xA6 f (4 * groupCount f) 4
    (fun c => (lanesOf c.act).map (fun j => (j, laneMajor c f j)))
    (fun s c => (List.range (groupCount f)).map (fun k => Write.reg (f.d + BitVec.ofNat 8 k) 1 (fun l =>
      bytesNat (localBytesOf s c (laneMajor c f (visLane c.prot l) + 4 * k) 4)))) s := rfl

theorem exec_stl (f : MForm) (s : State) : exec (.stl f) s = localStore 0xA4 f (.stl f) (twfBytes f.twf.toNat) (twfBytes f.twf.toNat)
    (fun c => (lanesOf c.act).map (fun j => (j, localAddr c f j)))
    (fun c j => natBytes (twfBytes f.twf.toNat) (c.val f.d (mRule 0xA4 f).d.width 0 0 (physLane c.prot 0 j))) s := rfl

theorem exec_stlx (f : MForm) (s : State) : exec (.stlx f) s = localStore 0xA7 f (.stlx f) (4 * groupCount f) 4
    (fun c => (lanesOf c.act).map (fun j => (j, laneMajor c f j)))
    (fun c j => natBytes (4 * groupCount f) (c.val f.d (groupCount f) 0 0 (physLane c.prot 0 j))) s := rfl

/-- A value written to a vector register and those after it. -/
theorem write_putVs {f : MForm} (hd : f.d.toNat < 64) (w : Nat) (val : Nat → Nat) (m : LaneSet) (hp : Hatch × Path) :
    [Write.reg f.d w val].foldl (applyWrite false m) hp = (hp.1.putVs f.d.toNat w m (fun k l => wordOf (val l) k), hp.2) :=
  applyWrite_vector (specKind_of_lt hd)

/-- Values written each to its own vector register. -/
theorem writes_putVs {f : MForm} {n : Nat} (hn : f.d.toNat + n ≤ 64) (val : Nat → Nat → Nat) (m : LaneSet) (hp : Hatch × Path) :
    ((List.range n).map (fun k => Write.reg (f.d + BitVec.ofNat 8 k) 1 (val k))).foldl (applyWrite false m) hp =
      (hp.1.putVs f.d.toNat n m (fun k l => BitVec.ofNat 32 (val k l)), hp.2) := by
  induction n with
  | zero => rfl
  | succ n ih =>
    have at_ : (f.d + BitVec.ofNat 8 n).toNat = f.d.toNat + n := by
      rw [BitVec.toNat_add, BitVec.toNat_ofNat]
      omega
    have vec : specKind (f.d + BitVec.ofNat 8 n) = .v (f.d.toNat + n) := by rw [specKind_of_lt (by omega), at_]
    rw [List.range_succ, List.map_append, List.foldl_append, ih (by omega), List.map_singleton, List.foldl_cons, List.foldl_nil,
      applyWrite_vector vec, Hatch.putVs_succ]
    show (((hp.1.putVs f.d.toNat n m _).writeV (f.d.toNat + n) m (fun l => wordOf (val n l) 0)), hp.2) = _
    simp only [wordOf_zero]

/-- Settles O36: a load reads the bytes of local store as its hatch's registers take them, and a store writes lane after lane. -/
theorem localAccesses : Obligations.LocalAccesses := by
  unfold Obligations.LocalAccesses
  intro s c0 c f hs hp ha hc hw hcore hlim hform size lanes loads word stores
  have vis : ∀ l, visLane c.prot l = l := fun l => by rw [hp]; rfl
  have phys : ∀ j, physLane c.prot 0 j = j := fun j => by rw [hp]; rfl
  have each : ∀ {P : Nat × Nat → Prop} {at_ : Nat → Nat}, (∀ j ∈ lanes, P (j, at_ j)) → ∀ a ∈ (lanesOf c.act).map (fun j => (j, at_ j)), P a :=
    fun h a ha => by obtain ⟨j, hj, rfl⟩ := List.mem_map.1 ha; exact h j hj
  refine ⟨?ldl, ?ldlb, ?ldlx, ?stl, ?stlx⟩
  case ldl =>
    intro hi hq hl hlen hd hw hal hall
    have run := answers_localLoad (exec_ldl f s) hs hp ha hc hi hq hl hlen hd hw (each hal) rfl hall rfl (fun m hq => write_putVs hd _ _ m hq)
    simp only [vis] at run
    exact run
  case ldlb =>
    intro hi hq hl hlen hd hw hal hall
    exact answers_localLoad (exec_ldlb f s) hs hp ha hc hi hq hl hlen hd hw (each hal) rfl hall rfl (fun m hq => write_putVs hd _ _ m hq)
  case ldlx =>
    intro hi hq hl hlen hd hw hal hall
    have run := answers_localLoad (exec_ldlx f s) hs hp ha hc hi hq hl hlen hd hw (each hal) rfl hall rfl (fun m hq => writes_putVs hw _ m hq)
    simp only [vis] at run
    simp only [word, Nat.mul_zero, Nat.pow_zero, Nat.div_one]
    exact run
  case stl =>
    intro hi hsh hr hal
    have run := answers_localStore (exec_stl f s) hs hi hsh ha hc hw hr ⟨hcore, hform⟩ hlim (fun j => length_natBytes _ _) hal
    simp only [phys] at run
    exact run
  case stlx =>
    intro hi hsh hr hal
    have run := answers_localStore (exec_stlx f s) hs hi hsh ha hc hw hr ⟨hcore, hform⟩ hlim (fun j => length_natBytes _ _) hal
    simp only [phys] at run
    exact run

end Sys2Proof.Machine
end

section
/-! PROOFS. The statement of atomics on local store and of contributions. -/

namespace Sys2Proof.Machine

/-! ### The order of contributions (R219) -/

theorem Contrib.before_iff (a b : Contrib) : a.before b = true ↔ a.blockIdx < b.blockIdx ∨ a.blockIdx = b.blockIdx ∧
    (a.hatchIdx < b.hatchIdx ∨ a.hatchIdx = b.hatchIdx ∧ (a.lane < b.lane ∨ a.lane = b.lane ∧ a.arrival < b.arrival)) := by
  unfold Contrib.before
  simp only [bne_iff_ne, ne_eq, ite_not]
  split_ifs <;> simp only [decide_eq_true_eq] <;> omega

theorem Contrib.not_before_iff (a b : Contrib) : a.before b = false ↔ ¬ (a.blockIdx < b.blockIdx ∨ a.blockIdx = b.blockIdx ∧
    (a.hatchIdx < b.hatchIdx ∨ a.hatchIdx = b.hatchIdx ∧ (a.lane < b.lane ∨ a.lane = b.lane ∧ a.arrival < b.arrival))) := by
  rw [← Contrib.before_iff, Bool.not_eq_true]

theorem Contrib.before_asymm {a b : Contrib} (h : a.before b = true) : b.before a = false := by
  rw [Contrib.before_iff] at h
  rw [Contrib.not_before_iff]
  omega

theorem Contrib.not_before_trans {a b c : Contrib} (h : a.before b = false) (g : b.before c = false) : a.before c = false := by
  rw [Contrib.not_before_iff] at h g ⊢
  omega

theorem contribInsert_perm (x : Contrib) (xs : List Contrib) : (contribInsert x xs).Perm (x :: xs) := by
  induction xs with
  | nil => exact .refl _
  | cons y xs ih =>
    unfold contribInsert
    split
    · exact (ih.cons y).trans (.swap x y xs)
    · exact .refl _

theorem contribInsert_pairwise (x : Contrib) {xs : List Contrib} (h : xs.Pairwise (fun a b => b.before a = false)) :
    (contribInsert x xs).Pairwise (fun a b => b.before a = false) := by
  induction xs with
  | nil => exact List.pairwise_singleton _ _
  | cons y xs ih =>
    obtain ⟨hy, hxs⟩ := List.pairwise_cons.1 h
    unfold contribInsert
    split
    next hb =>
      refine List.pairwise_cons.2 ⟨fun z hz => ?_, ih hxs⟩
      rcases List.mem_cons.1 ((contribInsert_perm x xs).mem_iff.1 hz) with rfl | hz
      · exact Contrib.before_asymm hb
      · exact hy z hz
    next hb =>
      have hb : y.before x = false := by simpa using hb
      refine List.pairwise_cons.2 ⟨fun z hz => ?_, h⟩
      rcases List.mem_cons.1 hz with rfl | hz
      · exact hb
      · exact Contrib.not_before_trans (hy z hz) hb

theorem contribSort_spec (cs : List Contrib) : (contribSort cs).Perm cs ∧ (contribSort cs).Pairwise (fun a b => b.before a = false) := by
  induction cs with
  | nil => exact ⟨.refl _, List.Pairwise.nil⟩
  | cons c cs ih => exact ⟨(contribInsert_perm c (contribSort cs)).trans (ih.1.cons c), contribInsert_pairwise c ih.2⟩

/-! ### Atomics on local store (R389 to R391) -/

theorem localAtoms_frame (op : Nat) (f : MForm) (c : Iss) (as : List (Nat × Nat)) (s : State) :
    LocalFrame c.h.core s (localAtoms op f c s as).1 := by
  induction as generalizing s with
  | nil => exact .refl _ s
  | cons a as ih =>
    unfold localAtoms
    refine LocalFrame.trans ?_ (ih _)
    split
    · exact .refl _ s
    · exact localFrame_write s _ _ _ _

/-- The lanes of a local access with their addresses. -/
def Iss.localLanes (c : Iss) (f : MForm) : List (Nat × Nat) := (lanesOf c.act).map (fun j => (j, localAddr c f j))

/-- The state of an atomic on local store before its end, and the old values of its lanes. -/
def Iss.atomsDone (c : Iss) (op : Nat) (f : MForm) (s : State) : State × List (Nat × Nat) :=
  let r := localAtoms op f c s (c.localLanes f)
  (noteDone (markDirty r.1 c.inst) c.inst 2, r.2)

/-- The old value that a lane of an atomic on local store has read. -/
def oldOf (prot : Bool) (olds : List (Nat × Nat)) (l : Nat) : Nat := ((olds.find? (fun x => x.1 == visLane prot l)).map (·.2)).getD 0

theorem exec_atomLocal {op : Nat} {f : MForm} {i what : Instr} {s : State} {c0 c : Iss} (he : exec i s = atomLocal op f what s) (hi : IssuesF op f s c0 c)
    (hsh : c0.shadowOk (mShape op f) = true) (ha : c.act ≠ 0) (hc : c.h.countFull 2 = false) (hw : (s.core c.h.core).sfrWait = [])
    (hr : f.releases = false) (hq : f.acquires = false) (hd : hasDst op f = true) (hl : (mShape op f).srcs.all (fun u => !u.last) = true)
    (hal : ∀ a ∈ c.localLanes f, a.2 % atomBytes op f = 0 ∧ localOk c.rcd a.2 (atomBytes op f) = true ∧
      localPoison s c.h.core c.h.block a.2 (atomBytes op f) = false)
    (ht : allocTest s c ((allocWrites (mShape op f) false).foldl (applyWrite c.prot 0) (c.h, c.p)).1 = .ok) :
    exec i s = .next (complete (c.atomsDone op f s).1 (c.refresh (c.atomsDone op f s).1) (mShape op f) (physMask c.prot c.act)
      [.reg f.d (mRule op f).d.width (oldOf c.prot (c.atomsDone op f s).2)] 0 16) := by
  obtain ⟨hi, rfl⟩ := hi
  rw [he]
  unfold atomLocal
  rw [issueMS_go hi hsh]
  dsimp only
  rw [if_neg (by simpa using ha), if_neg (by rw [hc, hw]; exact Bool.false_ne_true)]
  have clean : (c0.forM op f |>.localLanes f).any (fun a => localOk (c0.forM op f).rcd a.2 (atomBytes op f) &&
      localPoison s (c0.forM op f).h.core (c0.forM op f).h.block a.2 (atomBytes op f)) = false :=
    List.any_eq_false.2 (fun a h => by rw [(hal a h).2.2, Bool.and_false]; exact Bool.false_ne_true)
  have lanes : (lanesOf (c0.forM op f).act).map (fun j => (j, localAddr (c0.forM op f) f j)) = (c0.forM op f).localLanes f := rfl
  rw [lanes, alignFault_none (fun a h => (hal a h).1)]
  dsimp only
  rw [localFaults_nil (fun a h => (hal a h).2.1), if_pos hd]
  show Host.Outcome.next (if _ then _ else _) = _
  rw [clean, if_neg Bool.false_ne_true, hr, if_neg Bool.false_ne_true]
  dsimp only
  rw [hq, freeLast_none hl, if_neg Bool.false_ne_true, ht]
  dsimp only
  rw [if_pos hd, List.filter_eq_self.2 (fun a h => (hal a h).2.1)]
  unfold Iss.atomsDone oldOf
  generalize localAtoms op f (c0.forM op f) s ((c0.forM op f).localLanes f) = r
  rfl

/-- An atomic on local store that names a vector register gives each of its lanes the old value. -/
theorem answers_atomLocal {op : Nat} {f : MForm} {i what : Instr} {s : State} {c0 c : Iss} (he : exec i s = atomLocal op f what s) (hs : s.Settled)
    (hi : IssuesF op f s c0 c) (hsh : c0.shadowOk (mShape op f) = true) (ha : c.act ≠ 0) (hc : c.h.countFull 2 = false)
    (hw : (s.core c.h.core).sfrWait = []) (hr : f.releases = false) (hq : f.acquires = false) (hp : c.prot = false) (hd : hasDst op f = true)
    (hf : f.d.toNat < 64) (hlen : c.h.v.length = 64) (hl : (mShape op f).srcs.all (fun u => !u.last) = true)
    (hal : ∀ a ∈ c.localLanes f, a.2 % atomBytes op f = 0 ∧ localOk c.rcd a.2 (atomBytes op f) = true ∧
      localPoison s c.h.core c.h.block a.2 (atomBytes op f) = false)
    (ht : allocTest s c ((allocWrites (mShape op f) false).foldl (applyWrite false 0) (c.h, c.p)).1 = .ok)
    (hds : (mShape op f).dsts = [(f.d, (mRule op f).d.width)]) (hpos : 0 < (mRule op f).d.width) :
    Answers i s (fun t => WentOn t c 16 ∧ t.mem = s.mem ∧ (∀ k, (t.core k).ways = ((localAtoms op f c s (c.localLanes f)).1.core k).ways) ∧
      ∃ g, t.hatch? c.inst = some g ∧ ∀ l, l < 96 → g.vword f.d.toNat l =
        if c.act.getLsbD l then BitVec.ofNat 32 ((((localAtoms op f c s (c.localLanes f)).2.find? (fun x => x.1 == l)).map (·.2)).getD 0)
        else c.h.vword f.d.toNat l) := by
  have hh : s.hatch? c.inst = some c.h := by
    obtain ⟨hi, rfl⟩ := hi
    obtain ⟨a, e⟩ := forM_eq c0 op f
    rw [e]
    exact (issues_hatch hi : s.hatch? c0.inst = some c0.h)
  have alloc := allocTest_putVs hf hds ht
  have run := exec_atomLocal he hi hsh ha hc hw hr hq hd hl hal (by rw [hp]; exact ht)
  have frame := localAtoms_frame op f c (c.localLanes f) s
  unfold Iss.atomsDone at run
  generalize localAtoms op f c s (c.localLanes f) = r at run frame ⊢
  dsimp only at run
  have still := hatch?_still_congr frame.stills c.inst
  rw [hh] at still
  obtain ⟨h1, e1, s1⟩ := Option.map_eq_some_iff.1 still
  have e2 : (markDirty r.1 c.inst).hatch? c.inst = some { h1 with clean := false } := by
    unfold markDirty
    rw [hatch?_updHatch _ _ (fun h => { h with clean := false }) (fun _ e => e), e1]
    rfl
  obtain ⟨a, b, d, e, e3⟩ := noteDone_hatch e2 2
  have same : h1.v = c.h.v := (congrArg Hatch.v s1 :)
  obtain ⟨cs, hs', eq⟩ := frame.eq
  have fields : r.1.sched = s.sched ∧ r.1.dry = s.dry ∧ r.1.mem = s.mem := by rw [eq]; exact ⟨rfl, rfl, rfl⟩
  obtain ⟨hsched, hdry, hmem⟩ := fields
  have claims : (noteDone (markDirty r.1 c.inst) c.inst 2).hatches.map Hatch.claim = s.hatches.map Hatch.claim :=
    (claims_noteDone _ _ 2).trans ((claims_updHatch (f := fun h => { h with clean := false }) _ _ (fun _ => rfl)).trans (claims_of_stills frame.stills))
  rw [hp] at run
  obtain ⟨g1, g2, g3, k, hk, -, -, g4, -⟩ := complete_writes (sh := mShape op f) (m := physMask false c.act) (r := f.d.toNat)
    (ws := [.reg f.d (mRule op f).d.width (oldOf false r.2)]) (s := s) (u := noteDone (markDirty r.1 c.inst) c.inst 2) (c := c)
    (show r.1.sched.raised = [] by rw [hsched]; exact hs) ha hl hsched hdry claims hh e3 same
    (by rw [hp]; exact fun m hq => write_putVs hf _ _ m hq) alloc
  refine ⟨_, run, g1, g2.trans hmem, g3, k, hk, fun l hl => ?_⟩
  have := g4 0 l hpos (by omega) hl
  rw [Nat.add_zero, wordOf_zero] at this
  exact this

/-! ### Contributions (R219, R392) -/

/-- The state that an `atomd` leaves before its path goes on. -/
def Iss.gave (c : Iss) (f : MForm) (s : State) : State :=
  (noteDone (markDirty s c.inst) c.inst 2).updHatch c.inst (fun h => h.freeLast (mShape 0xB5 f))

/-- An `atomd` whose lanes translate, and whose contributions find room, hands them over. -/
theorem exec_atomd {f : MForm} {s s1 s2 : State} {c0 c : Iss} {lanes : List LaneAcc} (hi : IssuesF 0xB5 f s c0 c)
    (hsh : c0.shadowOk (mShape 0xB5 f) = true) (ha : c.act ≠ 0) (hc : c.h.countFull 2 = false) (hw : (s.core c.h.core).sfrWait = [])
    (hal : alignFault (atomBytes 0xB5 f) (laneAddrs 0xB5 f c) = none)
    (hl : resolveLanes s c.h.core (ctxOf s c.h) c.kern .atomic false ((laneAddrs 0xB5 f c).map (fun a => LaneAcc.start a.1 a.2 [])) = (s1, lanes))
    (hf : ∀ a ∈ lanes, a.fault = 0)
    (hh : holdAll c c.h.core (ctxOf s c.h) c.rcd.spill s1.fresh.2
      (lanes.map (fun a => (a, { contribOf s1.fresh.2 c f a with arrival := s1.nextId }))) = (s2, true)) :
    exec (.atomd f) s = .next (finish (retire (c.gave f s2) c.inst c.slot c.p.pc 16)) := by
  obtain ⟨hi, rfl⟩ := hi
  have he : exec (.atomd f) s = execAtomd f s := rfl
  have clean : lanes.find? (fun a => a.fault == tcPoison) = none := List.find?_eq_none.2 (fun a h => by rw [hf a h]; decide)
  have good : lanes.filter (fun a => a.fault == 0) = lanes := List.filter_eq_self.2 (fun a h => by rw [hf a h]; rfl)
  have bad : lanes.filter (fun a => a.fault != 0) = [] := List.filter_eq_nil_iff.2 (fun a h => by rw [hf a h]; decide)
  rw [he]
  unfold execAtomd
  rw [issueMS_go hi hsh]
  dsimp only
  rw [if_neg (by simpa using ha), if_neg (by rw [hc, hw]; exact Bool.false_ne_true), hal]
  dsimp only
  rw [hl]
  dsimp only
  rw [clean]
  dsimp only
  rw [good]
  rw [show s1.fresh = (s1.nextId, s1.fresh.2) from rfl]
  dsimp only
  rw [hh]
  dsimp only
  rw [bad]
  rfl

theorem gave_path (c : Iss) (f : MForm) (s : State) : (c.gave f s).pathStill c.inst c.slot = s.pathStill c.inst c.slot := by
  unfold Iss.gave
  refine (pathStill_updHatch (fun h => Hatch.freeLast_inst _ _) (fun h => ?_) _ _).trans ((pathStill_noteDone _ c.inst 2 c.slot).trans ?_)
  · obtain ⟨v, e⟩ := freeLast_eq h (mShape 0xB5 f)
    rw [e]
    rfl
  · exact pathStill_updHatch (f := fun h => { h with clean := false }) (fun _ => rfl) (fun _ => rfl) s c.inst

theorem tyRegs_pos (t : Nat) : 0 < tyRegs t := by
  unfold tyRegs
  split <;> decide

/-- Settles O38, lane by lane for the atomics, and for the order of contributions by the insertion of one into a list in order. -/
theorem localAtomics : Obligations.LocalAtomics := by
  unfold Obligations.LocalAtomics
  intro s c0 c f hs locals
  refine ⟨?atoml, ?atomfl, ?casl, ?atomd, contribSort_spec⟩
  case atoml =>
    intro hi hsh ha hc hw hr hq hp hd hf hlen hl hal hall
    exact answers_atomLocal (op := 0xB7) (what := .atoml f) rfl hs hi hsh ha hc hw hr hq hp hd hf hlen hl hal hall rfl (tyRegs_pos _)
  case atomfl =>
    intro hi hsh ha hc hw hr hq hp hd hf hlen hl hal hall
    exact answers_atomLocal (op := 0xB8) (what := .atomfl f) rfl hs hi hsh ha hc hw hr hq hp hd hf hlen hl hal hall rfl (tyRegs_pos _)
  case casl =>
    intro hi hsh ha hc hw hr hq hp hd hf hlen hl hal hall
    exact answers_atomLocal (op := 0xBB) (what := .casl f) rfl hs hi hsh ha hc hw hr hq hp hd hf hlen hl hal hall rfl (tyRegs_pos _)
  case atomd =>
    intro s1 s2 lanes hi hsh ha hc hw hal hl hf hh hs2 hc2
    have run := exec_atomd hi hsh ha hc hw hal hl hf hh
    have path : (c.gave f s2).pathStill c.inst c.slot = some c.p.still := by
      rw [gave_path]
      unfold State.pathStill
      rw [hc2, Option.bind_some]
      obtain ⟨hi, rfl⟩ := hi
      obtain ⟨a, e⟩ := forM_eq c0 0xB5 f
      rw [e]
      show (c0.h.path? c0.slot).map Path.still = some c0.p.still
      rw [issues_path hi]
      rfl
    have settled : (c.gave f s2).Settled := hs2
    have passed := passed_of settled c 16
    obtain ⟨went, hmem, hslices, -⟩ := passed_wentOn passed path
    exact ⟨_, run, went, (congrArg (fun u : State => u.sched.contribs) passed.rest :), hmem, hslices⟩

end Sys2Proof.Machine
end

section
/-! PROOFS. The statement of copies. -/

namespace Sys2Proof.Machine

/-! ### The beginning of a copy (R412, R413) -/

/-- The operation of a copy. -/
def copyOp (u s : State) (c : Iss) (op : Nat) (f : MForm) (what : Instr) : Op :=
  { newOp { u with nextId := u.nextId + 1 } c what u.nextId with
    vals := copyVals op f c ++ [(copyCore s c op f).getD 0, c.sval f.d 1, 0]
    vecs := [gatherSrcs f c, []] }

theorem length_copyVals (op : Nat) (f : MForm) (c : Iss) : (copyVals op f c).length = 6 := by
  unfold copyVals
  split_ifs <;> rfl

section Begins
variable {op : Nat} {f : MForm} {i : Instr} {s : State} {c : Iss} (he : exec i s = copyExec op f i s) (hi : IssuesM op f s c)
  (hsh : c.shadowOk (mShape op f) = true) (ha : c.act ≠ 0 ∨ op ≠ 0xD5 ∧ f.gsense = 0) (hc : c.h.countFull 0 = false)
  (hn : copiesOn s c.h.core < 512)

include he hi hsh ha hc hn

/-- A copy that issues is checked. -/
theorem exec_copy : ∃ k : State → State, exec i s = .next ((copyCheck s c op f).elim (beginAsync s c (mShape op f) [] 16 k) (c.trap s)) ∧
    ∀ u, k u = (addOp { u with nextId := u.nextId + 1 } 0 (copyOp u s c op f i)).post .copyComplete { op := u.nextId } := by
  have runs : (c.act == 0 && (op == 0xD5 || f.gsense != 0)) = false := by
    rcases ha with h | ⟨h, g⟩
    · rw [beq_eq_false_iff_ne.2 h]; rfl
    · rw [g, beq_eq_false_iff_ne.2 h]; exact Bool.and_false _
  refine ⟨_, ?_, fun u => rfl⟩
  rw [he]
  unfold copyExec
  rw [issueMS_go hi hsh, runs, if_neg Bool.false_ne_true, hc, if_neg (by simpa using hn)]
  cases copyCheck s c op f <;> rfl

theorem copy_traps {r : TrapReport} (hk : copyCheck s c op f = some r) : Answers i s (fun t => Trapped s t c r) := by
  obtain ⟨k, run, -⟩ := exec_copy he hi hsh ha hc hn
  rw [hk] at run
  exact ⟨_, run, rfl⟩

theorem copy_begins (hs : s.Settled) (hk : copyCheck s c op f = none) (ht : allocTest s c (c.h.freeLast (mShape op f)) = .ok) :
    Answers i s (fun t => ∃ o, Began s t c (mShape op f) 0 o ∧ o.what = i ∧ o.vals.take 6 = copyVals op f c ∧
      (⟨.copyComplete, { op := o.id }⟩ : Event) ∈ t.net) := by
  obtain ⟨k, run, hk'⟩ := exec_copy he hi hsh ha hc hn
  rw [hk] at run
  have run := run.trans (congrArg Host.Outcome.next (beginAsync_ok (ws := []) ht k))
  rw [hk'] at run
  have hinst : c.h.inst = c.inst := rfl
  have hw : Allocates (mShape op f) [] := .inl rfl
  have sched := issuedAs_field s hinst hw State.sched (fun _ => rfl) (fun _ _ => rfl)
  have next := issuedAs_field s hinst hw State.nextId (fun _ => rfl) (fun _ _ => rfl)
  have hb := fun (t : State) (o : Op) => began_async (t := t) (o := o) (n := (c.issuedAs s (mShape op f) []).nextId + 1) (cls := 0)
    (by rw [issues_hatch hi]; rfl) hinst hw marks_id
  generalize c.issuedAs s (mShape op f) [] = u at run sched next hb
  obtain ⟨o, hoe⟩ : ∃ o, copyOp u s c op f i = o := ⟨_, rfl⟩
  have facts : o.id = u.nextId ∧ (o.hatch = c.inst ∧ o.slot = c.slot ∧ o.core = c.h.core ∧ o.pc = c.p.pc) ∧ o.what = i ∧
      o.vals = copyVals op f c ++ [(copyCore s c op f).getD 0, c.sval f.d 1, 0] := by
    rw [← hoe]
    exact ⟨rfl, ⟨rfl, rfl, rfl, rfl⟩, rfl, rfl⟩
  obtain ⟨hid, mine, what, hvals⟩ := facts
  rw [hoe] at run
  have plain : ({ u with nextId := u.nextId + 1 } : State).updHatch c.inst (fun h => h) = { u with nextId := u.nextId + 1 } := updHatch_id _ _
  have began : ∀ t, SameWork (addOp { u with nextId := u.nextId + 1 } 0 o) t → Began s t c (mShape op f) 0 o := fun t ht => by
    refine hb t o (hid.trans next) mine ?_
    show SameWork (addOp (({ u with nextId := u.nextId + 1 } : State).updHatch c.inst (fun h => h)) 0 o) t
    rw [plain]
    exact ht
  have raised : (addOp { u with nextId := u.nextId + 1 } 0 o).sched = s.sched := sched
  generalize addOp { u with nextId := u.nextId + 1 } 0 o = v at run began raised
  refine answers_of_finish run ((congrArg Sched.raised raised).trans hs) ⟨o, began _ ⟨rfl, rfl, rfl, rfl⟩, what, ?_, hid ▸ mem_net_post _ _ _⟩
  rw [hvals, List.take_left' (length_copyVals op f c)]

end Begins

/-! ### The end of a copy (R414, R415) -/

/-- A copy of one sector from local store to local store of its own core. -/
structure LocalCopy (s : State) (o : Op) (f : MForm) (src dst len word : Nat) : Prop where
  what : o.what = .cpy f
  op : s.op? s.arg.op = some o
  from_ : srcLocal f = true
  to_ : dstLocal f = true
  vals : o.vals = [src, dst, len, 1, 0, 0, o.core, word, 0]
  fresh : o.prog = 0 ∧ o.done = false
  short : 0 < len ∧ len ≤ 32 - dst % 32
  bounds : src + len < 2 ^ 32 ∧ dst + len < 2 ^ 32
  clean : localPoison s o.core o.block src len = false
  free : (s.core o.core).sfrWait = []

/-- The state of a copy that has written its only sector. -/
def Op.copied (o : Op) (s : State) (src dst len : Nat) : State :=
  (localWrite s o.core o.block dst (localRead s o.core o.block src len)).updOp o.id (fun o => { o with
    prog := 0
    vals := o.vals.set 8 1 })

theorem length_localRead (s : State) (core block a n : Nat) : (localRead s core block a n).length = n := by
  unfold localRead
  rw [List.length_map, List.length_range]

theorem copyStep_local {s : State} {o : Op} {f : MForm} {src dst len word : Nat} (h : LocalCopy s o f src dst len word) :
    copyStep s o 0xD3 f = (endCopy (o.copied s src dst len) o f, true) := by
  obtain ⟨hwhat, hop, hf, ht, hv, ⟨hp, hd⟩, ⟨hl, hn⟩, ⟨hb1, hb2⟩, hclean, hfree⟩ := h
  have row : copyRow 0xD3 f o.vals (o.vecs.getD 0 []) o.active 0 = ⟨src, dst, len, 0⟩ := by
    unfold copyRow
    rw [hv, hf, ht]
    simp [spaceMod]
    omega
  have h8 : o.vals.getD 8 0 = 0 := by rw [hv]; rfl
  have h3 : o.vals.getD 3 0 = 1 := by rw [hv]; rfl
  have h6 : o.vals.getD 6 0 = o.core := by rw [hv]; rfl
  have read : copyRead s o 0xD3 f ⟨src, dst, len, 0⟩ 0 len = (s, .data (localRead s o.core o.block src len) none) := by
    unfold copyRead
    dsimp only
    rw [if_pos (by decide), hf, if_pos rfl, Nat.add_zero, Nat.mod_eq_of_lt (by omega), hclean]
    rfl
  have write : copyWrite s o 0xD3 f ⟨src, dst, len, 0⟩ 0 (localRead s o.core o.block src len) (none : Option Nat).isSome =
      (localWrite s o.core o.block dst (localRead s o.core o.block src len), .data [] none) := by
    unfold copyWrite
    dsimp only
    rw [ht, hfree, h6, Nat.add_zero, Nat.mod_eq_of_lt (by omega)]
    rfl
  have known : (s.op? o.id).getD o = o := by
    have : o.id = s.arg.op := by simpa using List.find?_some hop
    rw [this, hop]
    rfl
  unfold copyStep
  dsimp only
  rw [h8, row, h3, hp, if_neg (by dsimp only; omega)]
  dsimp only
  rw [Nat.sub_zero, Nat.add_zero, Nat.min_eq_left hn, read]
  dsimp only
  rw [show ((0xD3 == 0xD7) && (o.vecs.getD 1 []).isEmpty) = false from rfl, if_neg Bool.false_ne_true, known, write]
  dsimp only
  rw [if_neg (show ¬ 0 + len < len by omega)]
  rfl


theorem ways_endOp (s : State) (o : Op) (k : Nat) : ((endOp s o).core k).ways = (s.core k).ways := by
  unfold endOp
  extract_lets s1
  show (s1.core k).ways = _
  unfold s1
  split
  · rw [core_updCore]
    split
    next h => rw [h.1]
    · rfl
  · rfl

/-- The state of a copy whose completion word is written, where it asks for one. -/
def Op.worded (o : Op) (s : State) (f : MForm) (word : Nat) : State :=
  if f.cwe then localWrite s o.core o.block f.imm.toNat (natBytes 4 word) else s

theorem worded_frame (o : Op) (s : State) (f : MForm) (word : Nat) : LocalFrame o.core s (o.worded s f word) := by
  unfold Op.worded
  split
  · exact localFrame_write _ _ _ _ _
  · exact .refl _ _

theorem localByte_worded {s : State} {o : Op} {f : MForm} (word : Nat) {a : Nat} (hk : s.LocalOk o.core)
    (ha : a < 65536 * (ownedWays s o.core o.block).length) (hw : f.cwe = true → f.imm.toNat + 4 ≤ 65536 * (ownedWays s o.core o.block).length) :
    localByte (o.worded s f word) o.core o.block a = if f.cwe = true ∧ f.imm.toNat ≤ a ∧ a < f.imm.toNat + 4
      then (natBytes 4 word).getD (a - f.imm.toNat) 0 else localByte s o.core o.block a := by
  unfold Op.worded
  split
  next h =>
    rw [localByte_write hk _ (by rw [length_natBytes]; exact hw h) ha, length_natBytes]
    exact ite_congr (propext ⟨fun x => ⟨h, x⟩, And.right⟩) (fun _ => rfl) (fun _ => rfl)
  next h => rw [if_neg (fun x => h x.1)]

/-- What the end of a copy leaves in local store: the bytes copied, and the completion word over them. -/
theorem endCopy_spec {s : State} {o : Op} {f : MForm} {src dst len word : Nat} (h : LocalCopy s o f src dst len word) (hk : s.LocalOk o.core)
    (hd : dst + len ≤ 65536 * (ownedWays s o.core o.block).length)
    (hw : f.cwe = true → f.imm.toNat + 4 ≤ 65536 * (ownedWays s o.core o.block).length) : let u := endCopy (o.copied s src dst len) o f
    u.op? o.id = none ∧ u.sched = s.sched ∧ u.mem = s.mem ∧ u.slices = s.slices ∧
      ∀ a, a < 65536 * (ownedWays s o.core o.block).length → localByte u o.core o.block a =
        if f.cwe = true ∧ f.imm.toNat ≤ a ∧ a < f.imm.toNat + 4 then (natBytes 4 word).getD (a - f.imm.toNat) 0
        else if dst ≤ a ∧ a < dst + len then localByte s o.core o.block (src + (a - dst))
        else localByte s o.core o.block a := by
  obtain ⟨-, -, -, -, hv, ⟨-, hdone⟩, -, -, -, -⟩ := h
  have h6 : o.vals.getD 6 0 = o.core := by rw [hv]; rfl
  have h7 : o.vals.getD 7 0 = word := by rw [hv]; rfl
  have ends : endCopy (o.copied s src dst len) o f = endOp (o.worded (o.copied s src dst len) f word) o := by
    unfold endCopy Op.worded
    rw [h6, h7, hdone, Bool.not_false, Bool.and_true]
  intro u
  have frame := (localFrame_write s o.core o.block dst (localRead s o.core o.block src len)).eq
  have keeps := localKeeps_write hk o.block dst (localRead s o.core o.block src len)
  have byte := fun a => localByte_write hk (localRead s o.core o.block src len) (x := a) (block := o.block) (a := dst)
    (by rw [length_localRead]; exact hd)
  have same : ∀ {α : Type} (F : State → α), (∀ v cs hs os, F { v with cores := cs, hatches := hs, ops := os } = F v) →
      F (o.copied s src dst len) = F s := fun F hF => by
    obtain ⟨cs, hs, e⟩ := frame
    unfold Op.copied
    rw [e]
    exact hF s _ _ _
  have copied : ∀ a, localByte (o.copied s src dst len) o.core o.block a =
    localByte (localWrite s o.core o.block dst (localRead s o.core o.block src len)) o.core o.block a := fun _ => rfl
  have ok : (o.copied s src dst len).LocalOk o.core := keeps.ok
  have owned : ownedWays (o.copied s src dst len) o.core o.block = ownedWays s o.core o.block := keeps.owned o.core o.block
  obtain ⟨cs, hs, eq⟩ := (worded_frame o (o.copied s src dst len) f word).eq
  have worded : ∀ {α : Type} (F : State → α), (∀ v cs hs, F { v with cores := cs, hatches := hs } = F v) →
      F (o.worded (o.copied s src dst len) f word) = F (o.copied s src dst len) := fun F hF => by rw [eq, hF]
  obtain ⟨es, em, -⟩ := endOp_sched (o.worded (o.copied s src dst len) f word) o
  have eu : u = endOp (o.worded (o.copied s src dst len) f word) o := ends
  rw [eu]
  refine ⟨op?_endOp _ o, es.trans ((worded State.sched (fun _ _ _ => rfl)).trans (same State.sched (fun _ _ _ _ => rfl))),
    em.trans ((worded State.mem (fun _ _ _ => rfl)).trans (same State.mem (fun _ _ _ _ => rfl))),
    (endOp_slices _ o).trans ((worded State.slices (fun _ _ _ => rfl)).trans (same State.slices (fun _ _ _ _ => rfl))), fun a ha => ?_⟩
  rw [localByte_congr (ways_endOp _ o _), localByte_worded word ok (by rw [owned]; exact ha) (by rw [owned]; exact hw), copied, byte a ha, length_localRead]
  refine ite_congr rfl (fun _ => rfl) (fun _ => ite_congr rfl (fun h => ?_) (fun _ => rfl))
  unfold localRead
  rw [List.getD_eq_getElem?_getD, List.getElem?_map, List.getElem?_range (by omega)]
  rfl

end Sys2Proof.Machine

open Sys2Proof.Machine in
/-- Settles O44: every copy begins or traps as `copyExec` does, and COPY_COMPLETE moves one sector. -/
theorem copies : Obligations.Copies := by
  intro s c f hs
  have begins := fun (op : Nat) (i : Sys2Proof.Instr) (he : exec i s = copyExec op f i s) => fun hi hsh ha hc hn =>
    And.intro (copy_begins (c := c) he hi hsh ha hc hn hs) (fun r => copy_traps (c := c) (r := r) he hi hsh ha hc hn)
  refine ⟨begins 0xD3 (.cpy f) rfl, begins 0xD4 (.cpy2 f) rfl, begins 0xD5 (.cpyg f) rfl, begins 0xD6 (.cpyd f) rfl, begins 0xD7 (.cpyf f) rfl,
    begins 0xD8 (.cpyr f) rfl, begins 0xD9 (.cpymx f) rfl, fun hi hg => ⟨fun h => ?_, fun h => ?_⟩, fun hi hg he => ?_, ?_⟩
  · show ∃ t, execCwait f s = .next t ∧ _
    unfold execCwait issueM
    rw [issueWith_go hi, runs_of hg, if_neg Bool.false_ne_true, if_pos h]
    exact ⟨_, rfl, passed_of hs c 16⟩
  · show ∃ t, execCwait f s = .next t ∧ _
    unfold execCwait issueM
    rw [issueWith_go hi, runs_of hg, if_neg Bool.false_ne_true, if_neg (by omega)]
    exact ⟨_, rfl, stalled_stall hs⟩
  · show ∃ t, execCcnt f s = .next t ∧ _
    unfold execCcnt issueM
    rw [issueWith_go hi, runs_of hg, if_neg Bool.false_ne_true]
    have same : c.refresh s = c := by
      unfold Iss.refresh
      rw [issues_hatch hi]
      rfl
    have ended := ended_of he
    rw [same] at ended
    exact ⟨_, rfl, ended⟩
  · intro o src dst len word hop hwhat hf ht hv hp hd hl hn hr hw hb1 hb2 hc hclean hfree hform
    have copy : LocalCopy s o f src dst len word := ⟨hwhat, hop, hf, ht, hv, ⟨hp, hd⟩, ⟨hl, hn⟩, ⟨hb1, hb2⟩, hclean, hfree⟩
    have run : exec .copyComplete s = .next (finish (endCopy (o.copied s src dst len) o f)) := by
      show execCopyComplete s = _
      unfold execCopyComplete
      rw [hop]
      dsimp only
      rw [hwhat]
      show Host.Outcome.next (match copyStep s o 0xD3 f with | _ => _) = _
      rw [copyStep_local copy]
    obtain ⟨gone, sched, mem, slices, byte⟩ := endCopy_spec copy ⟨hc, hform⟩ hr hw
    exact answers_of_finish run ((congrArg Sched.raised sched).trans hs) ⟨gone, mem, slices, byte⟩
end

section
/-! PROOFS. Why the statement of store events fails: the message of another package that withdraws its wait at a word is a
STORE_COMMIT as well, and stores nothing (R135). -/

namespace Sys2Proof.Machine

/-- A STORE_COMMIT of a byte at address 0 from another package, which withdraws a wait. -/
def withdrawing : State := { State.reset with arg := { src := .remote 0 [1] 0, withdrawn := true } }

theorem homeReady_withdrawing : homeReady withdrawing (lineOf 0) = (withdrawing, true) := by
  unfold homeReady
  rw [if_neg (by decide +kernel), if_neg (by decide +kernel), if_neg (by decide +kernel)]

/-- The byte has not been stored. -/
theorem exec_withdrawing : (match exec .storeCommit withdrawing with
    | .next t => some ((homeRead t (lineOf 0)).getD 0 0)
    | _ => none) = some 0 := by decide +kernel

/-- Refutes O35: the clause of a remote store does not say that its message withdraws no wait. -/
theorem not_storeEvents : ¬ Obligations.StoreEvents := by
  intro h
  obtain ⟨-, hr⟩ := (h.2 withdrawing)
  obtain ⟨t, ht, bytes, -⟩ := hr 0 [1] 0 rfl rfl homeReady_withdrawing (by decide +kernel) (by decide +kernel) (by decide +kernel) (by decide +kernel)
    (by decide +kernel) (show _ = [] by decide +kernel) (by decide +kernel)
  have hx := exec_withdrawing
  rw [ht] at hx
  have stored := bytes 0 (by decide)
  rw [if_pos (by decide)] at stored
  exact absurd (stored.symm.trans (Option.some.inj hx)) (by decide)

end Sys2Proof.Machine
end

section
/-! PROOFS. The statement of what the matrix engine computes. -/

namespace Sys2Proof.Machine

/-! ### Tiles -/

theorem getD_rangeMap {α : Type} (g : Nat → α) (d : α) {k n : Nat} (h : n < k) : ((List.range k).map g).getD n d = g n := by
  rw [List.getD_eq_getElem?_getD, List.getElem?_map, List.getElem?_range h]
  rfl

theorem getD_tileRow (h : Hatch) (t l : Nat) {n : Nat} (hn : n < 64) :
    (h.tileRow t l).getD n 0 = (((h.tiles.getD t []).getD l []).getD n 0).toNat := getD_rangeMap _ 0 hn

/-- The rows of a tile after some of them are replaced. -/
theorem tileRow_setRows (h : Hatch) {d : Nat} (m : LaneSet) (row : Nat → List Nat) (hd : d < h.tiles.length) {l n : Nat} (hl : l < 96) (hn : n < 64)
    {v : Nat} (hv : (row l)[n]? = some v) :
    ((h.setRows d m row).tileRow d l).getD n 0 = if m.getLsbD l then v % 2 ^ 32 else (h.tileRow d l).getD n 0 := by
  rw [getD_tileRow _ _ _ hn, getD_tileRow _ _ _ hn]
  unfold Hatch.setRows
  dsimp only
  rw [getD_set_self _ _ hd, getD_rangeMap _ _ hl]
  split
  · rw [List.getD_eq_getElem?_getD, List.getElem?_map, hv]
    exact BitVec.toNat_ofNat v 32
  · rfl

theorem tiles_setRows_ne (h : Hatch) {d x : Nat} (m : LaneSet) (row : Nat → List Nat) (hx : x ≠ d) :
    (h.setRows d m row).tiles.getD x [] = h.tiles.getD x [] := getD_set_ne _ _ hx

/-! ### The end of an engine's operation -/

/-- The hatch of an operation that has ended. -/
theorem hatch?_endOp (s : State) (o : Op) : ∃ live, (endOp s o).hatch? o.hatch = (s.hatch? o.hatch).map (Hatch.trimmed live) := by
  unfold endOp
  extract_lets s1
  refine ⟨(s1.dropOp o.id).ops.map (·.id), ?_⟩
  have e : s1.hatch? o.hatch = s.hatch? o.hatch := by
    unfold s1
    split <;> rfl
  rw [← e]
  exact hatch?_updHatch _ _ _ (fun _ h => h)

/-- The cores after the end of an operation, but for the order of matrix operations. -/
theorem endOp_core (s : State) (o : Op) (k : Nat) : ∃ q, (endOp s o).core k = { s.core k with mqueue := q } := by
  unfold endOp
  extract_lets s1
  show ∃ q, s1.core k = _
  unfold s1
  split
  · rw [core_updCore]
    split
    next h => obtain ⟨rfl, -⟩ := h; exact ⟨_, rfl⟩
    · exact ⟨(s.core k).mqueue, rfl⟩
  · exact ⟨(s.core k).mqueue, rfl⟩

theorem endOp_tiles (s : State) (o : Op) : (endOp s o).hatches.map Hatch.tiles = s.hatches.map Hatch.tiles := by
  have keep : ∀ (u : State) (f : Hatch → Hatch), (∀ h, (f h).tiles = h.tiles) → (u.updHatch o.hatch f).hatches.map Hatch.tiles = u.hatches.map Hatch.tiles := by
    intro u f hf
    unfold State.updHatch updWhere
    rw [List.map_map]
    refine List.map_congr_left (fun h _ => ?_)
    rw [Function.comp_apply]
    split
    · exact hf h
    · rfl
  unfold endOp
  extract_lets s1
  refine (keep _ (Hatch.trimmed ((s1.dropOp o.id).ops.map (·.id))) (fun _ => rfl)).trans ?_
  show s1.hatches.map _ = _
  unfold s1
  split <;> rfl

/-- What state v has of state s: all but one hatch, one core's engine and the operations. -/
structure EngineKeeps (s v : State) : Prop where
  sched : v.sched = s.sched
  mem : v.mem = s.mem
  ways : ∀ k, (v.core k).ways = (s.core k).ways

theorem EngineKeeps.refl (s : State) : EngineKeeps s s := ⟨rfl, rfl, fun _ => rfl⟩

theorem EngineKeeps.endOp {s v : State} (h : EngineKeeps s v) (o : Op) : EngineKeeps s (endOp v o) := by
  obtain ⟨es, em, -⟩ := endOp_sched v o
  exact ⟨es.trans h.sched, em.trans h.mem, fun k => (ways_endOp v o k).trans (h.ways k)⟩

theorem EngineKeeps.served {s : State} (core n : Nat) : EngineKeeps s (s.updCore core (fun k => { k with lastServed := n })) := by
  refine ⟨rfl, rfl, fun k => ?_⟩
  rw [core_updCore]
  split
  next h => rw [h.1]
  · rfl

/-! ### Which instruction the engine executes (R184, R185) -/

theorem step_tile {s : State} {o : Op} (ha : queueHeads (queueOps s s.arg.core) = [o]) (hn : isArray o.what = false) (hd : o.done = false)
    (hr : headReady s s.arg.core o = true) : exec .matrixEngineStep s = .next (finish (runMatrix s o).1) := by
  show execMatrixEngineStep s = _
  unfold execMatrixEngineStep
  dsimp only
  rw [ha, List.find?_cons_of_pos (by rw [hn, hd, hr]; rfl)]

theorem step_array {s v : State} {o : Op} (ha : queueHeads (queueOps s s.arg.core) = [o]) (hn : isArray o.what = true)
    (ho : (s.core s.arg.core).owner = some o.block)
    (hv : runMatrix (s.updCore s.arg.core (fun k => { k with lastServed := opIndex s o })) o = (v, true)) :
    exec .matrixEngineStep s = .next (finish v) := by
  have own : takeEngine s s.arg.core = s := by
    unfold takeEngine
    rw [ho]
    rfl
  have next : nextArray s s.arg.core [o] = some o := by
    unfold nextArray
    by_cases hp : (o.prog != 0) = true
    · rw [List.find?_cons_of_pos (p := fun o : Op => o.prog != 0) hp]
    · rw [List.find?_cons_of_neg (p := fun o : Op => o.prog != 0) hp, List.find?_nil]
      by_cases hl : decide ((s.core s.arg.core).lastServed < opIndex s o) = true
      · dsimp only
        rw [List.filter_cons_of_pos (p := fun q => decide ((s.core s.arg.core).lastServed < opIndex s q)) hl]
        rfl
      · dsimp only
        rw [List.filter_cons_of_neg (p := fun q => decide ((s.core s.arg.core).lastServed < opIndex s q)) hl]
        rfl
  show execMatrixEngineStep s = _
  unfold execMatrixEngineStep
  dsimp only
  rw [ha, List.find?_cons_of_neg (by rw [hn]; exact Bool.false_ne_true), List.find?_nil]
  dsimp only
  rw [own, List.filter_cons_of_pos (by rw [hn, ho]; simp), List.filter_nil, next]
  dsimp only
  rw [hv]

/-! ### Instructions that change a tile (R407, R408) -/

/-- What an instruction that gives the rows of a tile new values leaves. -/
def Tiled (s : State) (o : Op) (h : Hatch) (d : Nat) (val : Nat → Nat → Nat) (t : State) : Prop :=
  t.op? o.id = none ∧ ∃ g, t.hatch? o.hatch = some g ∧
    (∀ l n, l < 96 → n < 64 → (g.tileRow d l).getD n 0 = if o.active.getLsbD l then val l n % 2 ^ 32 else (h.tileRow d l).getD n 0) ∧
    (∀ x, x ≠ d → g.tiles.getD x [] = h.tiles.getD x []) ∧ g.v = h.v ∧ g.s = h.s ∧ g.p = h.p ∧ t.mem = s.mem ∧
    (∀ k, (t.core k).ways = (s.core k).ways)

theorem tiled_of {s w : State} {o : Op} {h k : Hatch} {d : Nat} {row : Nat → List Nat} {val : Nat → Nat → Nat} (hw : EngineKeeps s w)
    (hk : w.hatch? o.hatch = some k) (ht : k.tiles = (h.setRows d o.active row).tiles) (hf : k.v = h.v ∧ k.s = h.s ∧ k.p = h.p)
    (hd : d < h.tiles.length) (hv : ∀ l n, n < 64 → (row l)[n]? = some (val l n)) : Tiled s o h d val (endOp w o).wake := by
  obtain ⟨live, e⟩ := hatch?_endOp w o
  rw [hk] at e
  obtain ⟨-, mem, ways⟩ := hw.endOp o
  obtain ⟨fv, fs, fp⟩ := hf
  refine ⟨op?_endOp w o, _, e, fun l n hl hn => ?_, fun x hx => ?_, fv, fs, fp, mem, ways⟩
  · have same : ∀ g : Hatch, g.tiles = (h.setRows d o.active row).tiles → (g.tileRow d l).getD n 0 =
        ((h.setRows d o.active row).tileRow d l).getD n 0 := fun g hg => by rw [getD_tileRow _ _ _ hn, getD_tileRow _ _ _ hn, hg]
    exact (same _ ht).trans (tileRow_setRows h o.active row hd hl hn (hv l n hn))
  · exact (congrArg (fun ts => ts.getD x []) ht).trans (tiles_setRows_ne h o.active row hx)

/-- The row that a function of a word's place makes. -/
theorem getElem?_rowOf (g : Nat → Nat) {n : Nat} (hn : n < 64) : ((List.range 64).map g)[n]? = some (g n) := by
  rw [List.getElem?_map, List.getElem?_range hn]
  rfl

theorem setRows_inst (h : Hatch) (d : Nat) (m : LaneSet) (row : Nat → List Nat) : (h.setRows d m row).inst = h.inst := rfl

/-- Rows given to a tile of an operation's hatch. -/
theorem tiled_updHatch {s w : State} {o : Op} {h : Hatch} {d : Nat} {row : Hatch → Nat → List Nat} {val : Nat → Nat → Nat} (hw : EngineKeeps s w)
    (hk : w.hatch? o.hatch = some h) (hd : d < h.tiles.length) (hv : ∀ l n, n < 64 → (row h l)[n]? = some (val l n)) :
    Tiled s o h d val (endOp (w.updHatch o.hatch (fun h => h.setRows d o.active (row h))) o).wake := by
  refine tiled_of (w := w.updHatch o.hatch (fun h => h.setRows d o.active (row h))) ⟨hw.sched, hw.mem, hw.ways⟩ ?_ rfl ⟨rfl, rfl, rfl⟩ hd hv
  rw [hatch?_updHatch w o.hatch (fun h => h.setRows d o.active (row h)) (fun _ e => e), hk]
  rfl

/-- The opcodes of the instructions that only change a tile. -/
def IsTile (op : Nat) : Prop := op = 0xCC ∨ op = 0xCE ∨ op = 0xD0 ∨ op = 0xD1 ∨ op = 0xD2

theorem runMatrix_tile {s : State} {o : Op} {h : Hatch} {op : Nat} {f : MForm} (hi : instrForm o.what = some (op, f)) (ho : IsTile op)
    (hh : s.hatch? o.hatch = some h) : runMatrix s o = (runTile s o op f, true) := by
  unfold runMatrix
  rw [hi]
  dsimp only
  rw [hh]
  rcases ho with rfl | rfl | rfl | rfl | rfl <;> rfl

/-- Words that come late to vector registers. -/
theorem lateWrite_putVs {s : State} {o : Op} {h : Hatch} {r n : Nat} {m : LaneSet} {g : Nat → Nat → Word} {ws : List Write}
    (hh : s.hatch? o.hatch = some h) (hw : ∀ hp, ws.foldl (applyWrite false m) hp = (hp.1.putVs r n m g, hp.2)) (sh : Shape) (fl : FpFlags) :
    ∃ k, (lateWrite s o false m ws sh fl).hatch? o.hatch = some k ∧ k.tiles = h.tiles ∧ k.v = (h.putVs r n m g).v := by
  obtain ⟨vs, e, -⟩ := putVs_spec h r n m g
  unfold lateWrite
  rw [hh]
  dsimp only
  rw [hw, e]
  dsimp only
  generalize hk : ({ h with
    v := vs
    fpflags := h.fpflags ||| fl } : Hatch) = k
  have inst : k.inst = o.hatch := by rw [← hk]; exact (hatch?_inst hh : h.inst = o.hatch)
  rw [updHatch_known _ hh (fun _ _ => by rw [Hatch.setPath_inst, Hatch.markEmpty_inst, inst])]
  have kept : ∀ {α : Type} (F : Hatch → α) (x : Option Path), (∀ z y w, F { z with slot0 := y, slot1 := w } = F z) →
      F ((k.markEmpty sh.dsts false).setPath o.slot x) = F (k.markEmpty sh.dsts false) := fun F x hF => by
    obtain ⟨y, w, es⟩ := setPath_eq (k.markEmpty sh.dsts false) o.slot x
    rw [es, hF]
  refine ⟨_, rfl, (kept Hatch.tiles _ (fun _ _ _ => rfl)).trans ?_, (kept Hatch.v _ (fun _ _ _ => rfl)).trans ?_⟩
  · exact (markEmpty_rest k sh.dsts false Hatch.tiles (fun _ _ _ _ => rfl)).trans (by rw [← hk])
  · exact (markEmpty_rest k sh.dsts false Hatch.v (fun _ _ _ _ => rfl)).trans (by rw [← hk])

section Engine
variable {s : State} {o : Op} {f : MForm} {h : Hatch} (hs : s.Settled) (ha : queueHeads (queueOps s s.arg.core) = [o])
  (hh : s.hatch? o.hatch = some h) (hd : accOf f.d < h.tiles.length)

include hs ha hh hd

/-- An accumulator instruction changes its tile. -/
theorem does_tile {op : Nat} {row : Hatch → Nat → List Nat} {val : Nat → Nat → Nat} (hi : instrForm o.what = some (op, f)) (ho : IsTile op)
    (hn : isArray o.what = false) (hr : headReady s s.arg.core o = true) (hdone : o.done = false)
    (ht : runTile s o op f = endOp (s.updHatch o.hatch (fun h => h.setRows (accOf f.d) o.active (row h))) o)
    (hv : ∀ l n, n < 64 → (row h l)[n]? = some (val l n)) : Answers .matrixEngineStep s (Tiled s o h (accOf f.d) val) := by
  have run := step_tile ha hn hdone hr
  rw [runMatrix_tile hi ho hh, ht] at run
  refine answers_of_finish run ?_ (tiled_updHatch (.refl s) hh hd hv)
  exact (congrArg Sched.raised (endOp_sched _ o).1).trans hs

/-- `mred` adds the sums of its columns to a tile. -/
theorem does_mred (hwhat : o.what = .mred f) (ho : (s.core s.arg.core).owner = some o.block) :
    Answers .matrixEngineStep s (Tiled s o h (accOf f.d) (fun l n =>
      addCell (f.sub % 2 == 1) ((h.tileRow (accOf f.d) l).getD n 0) (columnSum f h o.active n))) := by
  have hi : instrForm o.what = some (0xD0, f) := by rw [hwhat]; rfl
  have served : EngineKeeps s (s.updCore s.arg.core (fun k => { k with lastServed := opIndex s o })) := .served _ _
  have known : (s.updCore s.arg.core (fun k => { k with lastServed := opIndex s o })).hatch? o.hatch = some h := hh
  generalize hu : s.updCore s.arg.core (fun k => { k with lastServed := opIndex s o }) = u at served known
  have run := step_array ha (by rw [hwhat]; rfl) ho ((congrArg (fun x => runMatrix x o) hu).trans (runMatrix_tile hi (.inr (.inr (.inl rfl))) known))
  refine answers_of_finish run ?_ (tiled_updHatch (row := fun h l => (List.range 64).map (fun n =>
    addCell (f.sub % 2 == 1) ((h.tileRow (accOf f.d) l).getD n 0) (columnSum f h o.active n))) served known hd (fun l n hn => getElem?_rowOf _ hn))
  exact (congrArg Sched.raised (endOp_sched _ o).1).trans ((congrArg Sched.raised served.sched).trans hs)

omit hd in
/-- `mrd` brings words of a tile to registers. -/
theorem does_mrd (hwhat : o.what = .mrd f) (hdone : o.done = false) (hp : hatchProt s h = false) (hlen : h.v.length = 64)
    (hr : f.d.toNat + groupCount f ≤ 64) : Answers .matrixEngineStep s (fun t => t.op? o.id = none ∧ ∃ g, t.hatch? o.hatch = some g ∧ g.tiles = h.tiles ∧
      ∀ i l, i < groupCount f → l < 96 → g.vword (f.d.toNat + i) l =
        if o.active.getLsbD l then BitVec.ofNat 32 ((h.tileRow (accOf f.x) l).getD (f.imm.toNat + i) 0) else h.vword (f.d.toNat + i) l) := by
  have run := step_tile ha (by rw [hwhat]; rfl) hdone (by unfold headReady; rw [hwhat])
  have hm : runMatrix s o = (runMrd s o f h, true) := by
    unfold runMatrix
    rw [show instrForm o.what = some (0xCD, f) by rw [hwhat]; rfl]
    dsimp only
    rw [hh]
    rfl
  rw [hm] at run
  unfold runMrd at run
  rw [hp] at run
  dsimp only at run
  have late := lateWrite_putVs hh (writes_putVs hr (fun i l => (h.tileRow (accOf f.x) (visLane false l)).getD (f.imm.toNat + i) 0)
    (physMask false o.active)) { dsts := [(f.d, groupCount f)] } 0
  obtain ⟨hs', eq⟩ := lateWrite_eq s o false (physMask false o.active) ((List.range (groupCount f)).map (fun i => Write.reg (f.d + BitVec.ofNat 8 i) 1
    (fun l => (h.tileRow (accOf f.x) (visLane false l)).getD (f.imm.toNat + i) 0))) { dsts := [(f.d, groupCount f)] } 0
  generalize lateWrite s o false (physMask false o.active) _ { dsts := [(f.d, groupCount f)] } 0 = u at run late eq
  obtain ⟨k, hk, ht, hv⟩ := late
  obtain ⟨live, e⟩ := hatch?_endOp u o
  rw [hk] at e
  refine answers_of_finish run ?_ ⟨op?_endOp u o, _, e, ht, fun i l hi hl => ?_⟩
  · exact (congrArg Sched.raised (endOp_sched _ o).1).trans (by rw [eq]; exact hs)
  · obtain ⟨-, -, -, hin, -⟩ := putVs_spec h f.d.toNat (groupCount f) (physMask false o.active)
      (fun i l => BitVec.ofNat 32 ((h.tileRow (accOf f.x) (visLane false l)).getD (f.imm.toNat + i) 0))
    refine (congrArg (fun v : List VReg => (v.getD (f.d.toNat + i) VReg.unmapped).lo.getD l 0) hv).trans (hin i l hi (by omega) hl)

end Engine

/-! ### The banks (R402 to R404) -/

/-- The engine's state for the array instruction that it serves. -/
def State.serving (s : State) (o : Op) : State := s.updCore s.arg.core (fun k => { k with lastServed := opIndex s o })

theorem serving_core {s : State} (o : Op) (hc : s.arg.core < s.cores.length) :
    (s.serving o).core s.arg.core = { s.core s.arg.core with lastServed := opIndex s o } := by
  unfold State.serving
  rw [core_updCore, if_pos ⟨rfl, hc⟩]

theorem length_serving (s : State) (o : Op) : (s.serving o).cores.length = s.cores.length := by
  unfold State.serving State.updCore
  exact List.length_set ..

/-- `mswap` exchanges the banks. -/
theorem does_mswap {s : State} {o : Op} {f : MForm} (hs : s.Settled) (ha : queueHeads (queueOps s s.arg.core) = [o]) (hoc : o.core = s.arg.core)
    (hc : s.arg.core < s.cores.length) (hwhat : o.what = .mswap f) (ho : (s.core s.arg.core).owner = some o.block) :
    Answers .matrixEngineStep s (fun t => t.op? o.id = none ∧ (t.core s.arg.core).active = (s.core s.arg.core).inactive ∧
      (t.core s.arg.core).inactive = (s.core s.arg.core).active ∧ t.hatches.map (·.tiles) = s.hatches.map (·.tiles)) := by
  have hm : runMatrix (s.serving o) o = (runSwap (s.serving o) o, true) := by
    unfold runMatrix
    rw [show instrForm o.what = some (0xC6, f) by rw [hwhat]; rfl]
    rfl
  have run := step_array ha (by rw [hwhat]; rfl) ho hm
  have core := serving_core o hc
  have len := length_serving s o
  have tiles : (s.serving o).hatches = s.hatches := rfl
  have sched : (s.serving o).sched = s.sched := rfl
  generalize s.serving o = u at run core len tiles sched
  unfold runSwap at run
  rw [hoc] at run
  obtain ⟨q, e⟩ := endOp_core (u.updCore s.arg.core (fun k => { k with active := k.inactive, inactive := k.active })) o s.arg.core
  rw [core_updCore, if_pos ⟨rfl, by omega⟩, core] at e
  have tile := endOp_tiles (u.updCore s.arg.core (fun k => { k with active := k.inactive, inactive := k.active })) o
  have raised := (endOp_sched (u.updCore s.arg.core (fun k => { k with active := k.inactive, inactive := k.active })) o).1
  have gone := op?_endOp (u.updCore s.arg.core (fun k => { k with active := k.inactive, inactive := k.active })) o
  generalize endOp (u.updCore s.arg.core (fun k => { k with active := k.inactive, inactive := k.active })) o = v at run e tile raised gone
  refine answers_of_finish run ((congrArg Sched.raised (raised.trans sched)).trans hs) ⟨gone, (congrArg Core.active e :), (congrArg Core.inactive e :), ?_⟩
  exact tile.trans (congrArg (List.map Hatch.tiles) tiles)

theorem localByte_serving {s : State} (o : Op) : ∀ core block a, localByte (s.serving o) core block a = localByte s core block a :=
  fun core block a => localByte_congr (EngineKeeps.ways (.served _ _) core) block a

theorem localRead_serving {s : State} (o : Op) (core block a n : Nat) : localRead (s.serving o) core block a n = localRead s core block a n := by
  unfold localRead
  refine List.map_congr_left (fun i _ => localByte_serving o core block (a + i))

theorem localPoison_serving {s : State} (o : Op) (core block a n : Nat) : localPoison (s.serving o) core block a n = localPoison s core block a n := by
  unfold localPoison ownedWays
  rw [EngineKeeps.ways (s := s) (v := s.serving o) (.served _ _) core]

/-- `mload` from local store fills the inactive bank. -/
theorem does_mload {s : State} {o : Op} {f : MForm} {h : Hatch} (hs : s.Settled) (ha : queueHeads (queueOps s s.arg.core) = [o])
    (hoc : o.core = s.arg.core) (hh : s.hatch? o.hatch = some h)
    (hc : s.arg.core < s.cores.length) (hwhat : o.what = .mload f) (ho : (s.core s.arg.core).owner = some o.block) (hl : f.opx.getLsbD 0 = true)
    (hok : localOk (recOf s h) (o.vals.getD 1 0) (o.vals.getD 2 0) = true)
    (hp : localPoison s s.arg.core o.block (o.vals.getD 1 0) (o.vals.getD 2 0) = false) :
    Answers .matrixEngineStep s (fun t => t.op? o.id = none ∧ (t.core s.arg.core).active = (s.core s.arg.core).active ∧
      (t.core s.arg.core).inactive = bankOf f.twf.toNat (o.vals.getD 3 0) (localRead s s.arg.core o.block (o.vals.getD 1 0) (o.vals.getD 2 0))) := by
  have hm : runMatrix (s.serving o) o = (imageDone (s.serving o) o 0xC5 f (localRead (s.serving o) o.core o.block (o.vals.getD 1 0) (o.vals.getD 2 0)), true) := by
    unfold runMatrix
    rw [show instrForm o.what = some (0xC5, f) by rw [hwhat]; rfl]
    dsimp only
    rw [if_pos (by rfl)]
    unfold runImage
    dsimp only
    rw [if_neg (by simp), hl, if_pos rfl, show (s.serving o).hatch? o.hatch = some h from hh]
    dsimp only
    rw [if_pos (show (0xC5 == 0xC5) = true from rfl), show recOf (s.serving o) h = recOf s h from rfl, hok, if_neg (by decide), localPoison_serving,
      hoc, hp, if_neg Bool.false_ne_true]
  have run := step_array ha (by rw [hwhat]; rfl) ho hm
  rw [localRead_serving, hoc] at run
  have core := serving_core o hc
  have len := length_serving s o
  have sched : (s.serving o).sched = s.sched := rfl
  generalize s.serving o = u at run core len sched
  generalize localRead s s.arg.core o.block (o.vals.getD 1 0) (o.vals.getD 2 0) = bs at run ⊢
  have done : imageDone u o 0xC5 f bs = endOp (u.updCore s.arg.core (fun k => { k with inactive := bankOf f.twf.toNat (o.vals.getD 3 0) bs })) o := by
    rw [← hoc]
    rfl
  rw [done] at run
  obtain ⟨q, e⟩ := endOp_core (u.updCore s.arg.core (fun k => { k with inactive := bankOf f.twf.toNat (o.vals.getD 3 0) bs })) o s.arg.core
  rw [core_updCore, if_pos ⟨rfl, by omega⟩, core] at e
  have raised := (endOp_sched (u.updCore s.arg.core (fun k => { k with inactive := bankOf f.twf.toNat (o.vals.getD 3 0) bs })) o).1
  have gone := op?_endOp (u.updCore s.arg.core (fun k => { k with inactive := bankOf f.twf.toNat (o.vals.getD 3 0) bs })) o
  generalize endOp (u.updCore s.arg.core (fun k => { k with inactive := bankOf f.twf.toNat (o.vals.getD 3 0) bs })) o = v at run e raised gone
  exact answers_of_finish run ((congrArg Sched.raised (raised.trans sched)).trans hs) ⟨gone, (congrArg Core.active e :), (congrArg Core.inactive e :)⟩

/-! ### Products (R406) -/

/-- The flag of a product changes neither tiles nor registers. -/
theorem hatch?_setTern {s : State} {o : Op} {h : Hatch} (hh : s.hatch? o.hatch = some h) (on : Bool) :
    ∃ x, (setTern s o on).hatch? o.hatch = some { h with fpflags := x } := by
  unfold setTern
  split
  · rw [hatch?_updHatch s o.hatch (fun h => { h with fpflags := h.fpflags ||| flTern }) (fun _ e => e), hh]
    exact ⟨_, rfl⟩
  · exact ⟨h.fpflags, hh⟩

/-- `mmul` of a dense bank adds to each active row the products of its activation row. -/
theorem does_mmul {s : State} {o : Op} {f : MForm} {h : Hatch} {b : Bank} {len : Nat} (hs : s.Settled) (ha : queueHeads (queueOps s s.arg.core) = [o])
    (hoc : o.core = s.arg.core) (hh : s.hatch? o.hatch = some h) (hd : accOf f.d < h.tiles.length)
    (hc : s.arg.core < s.cores.length) (hwhat : o.what = .mmul f) (ho : (s.core s.arg.core).owner = some o.block)
    (hb : (s.core s.arg.core).active = b) (hm : b.metaN = 0) (hx : mfIsMx f.twf.toNat = false) (hlen : b.keff * mfBits f.twf.toNat / 8 = len)
    (hr : ∀ l ∈ lanesOf o.active, localOk (recOf s h) ((o.vecs.getD 0 []).getD l 0) len = true ∧
      localPoison s s.arg.core o.block ((o.vecs.getD 0 []).getD l 0) len = false ∧
      localPoison s s.arg.core o.block (f.opx.toNat + l * (b.keff / 32)) 0 = false) :
    Answers .matrixEngineStep s (Tiled s o h (accOf f.d) (fun l n => (productRow b f.twf.toNat
      (localRead s s.arg.core o.block ((o.vecs.getD 0 []).getD l 0) len) [] (h.tileRow (accOf f.d) l)).getD n 0)) := by
  obtain ⟨tern, hprod⟩ : ∃ tern, runMatrix (s.serving o) o = (endOp (setTern ((s.serving o).updHatch o.hatch (fun k => k.setRows (accOf f.d) o.active
      (fun j => productRow b f.twf.toNat (localRead s s.arg.core o.block ((o.vecs.getD 0 []).getD j 0) len) [] (k.tileRow (accOf f.d) j)))) o tern) o, true) := by
    have bank : ((s.serving o).core s.arg.core).active = b := by rw [serving_core o hc]; exact hb
    have fits : (lanesOf o.active).any (fun j => !localOk (recOf s h) ((o.vecs.getD 0 []).getD j 0) len ||
        mfIsMx f.twf.toNat && !localOk (recOf s h) (f.opx.toNat + j * (b.keff / 32)) 0) = false :=
      List.any_eq_false.2 (fun j hj => by rw [(hr j hj).1, hx]; exact Bool.false_ne_true)
    have clean : (lanesOf o.active).any (fun j => localPoison (s.serving o) s.arg.core o.block ((o.vecs.getD 0 []).getD j 0) len ||
        localPoison (s.serving o) s.arg.core o.block (f.opx.toNat + j * (b.keff / 32)) 0) = false :=
      List.any_eq_false.2 (fun j hj => by rw [localPoison_serving, localPoison_serving, (hr j hj).2.1, (hr j hj).2.2]; decide)
    refine ⟨b.tern || f.twf.toNat == 12 && (lanesOf o.active).any (fun j => (List.range b.keff).any (fun k =>
      rowElem 12 (localRead s s.arg.core o.block ((o.vecs.getD 0 []).getD j 0) len) k == 2)), ?_⟩
    unfold runMatrix
    rw [show instrForm o.what = some (0xC7, f) by rw [hwhat]; rfl]
    dsimp only
    rw [show (s.serving o).hatch? o.hatch = some h from hh]
    dsimp only
    rw [if_neg (by decide), if_neg (by decide), if_pos (by decide)]
    unfold runProduct
    dsimp only
    rw [hoc, bank, hm, hx, hlen, if_neg (by decide), if_neg Bool.false_ne_true, show recOf (s.serving o) h = recOf s h from rfl]
    rw [hx] at fits
    simp only [show ((0xC7 == 0xC7 || 0xC7 == 0xC9) = true) = True from eq_self true, if_true]
    rw [if_neg (by rw [fits]; exact Bool.false_ne_true), if_neg (by rw [clean]; exact Bool.false_ne_true)]
    simp only [localRead_serving]
    rfl
  have run := step_array ha (by rw [hwhat]; rfl) ho hprod
  have keeps : EngineKeeps s (s.serving o) := .served _ _
  have known : (s.serving o).hatch? o.hatch = some h := hh
  generalize s.serving o = u at run keeps known
  obtain ⟨row, hrow⟩ : ∃ row : Hatch → Nat → List Nat, row = fun k j => productRow b f.twf.toNat
    (localRead s s.arg.core o.block ((o.vecs.getD 0 []).getD j 0) len) [] (k.tileRow (accOf f.d) j) := ⟨_, rfl⟩
  have run : exec .matrixEngineStep s = .next (finish (endOp (setTern (u.updHatch o.hatch (fun k => k.setRows (accOf f.d) o.active (row k))) o tern) o)) := by
    rw [hrow]
    exact run
  have written : (u.updHatch o.hatch (fun k => k.setRows (accOf f.d) o.active (row k))).hatch? o.hatch = some (h.setRows (accOf f.d) o.active (row h)) := by
    rw [hatch?_updHatch u o.hatch (fun k => k.setRows (accOf f.d) o.active (row k)) (fun _ e => e), known]
    rfl
  obtain ⟨x, hk⟩ := hatch?_setTern written tern
  have kept : EngineKeeps s (setTern (u.updHatch o.hatch (fun k => k.setRows (accOf f.d) o.active (row k))) o tern) := by
    unfold setTern
    split
    · exact ⟨keeps.sched, keeps.mem, keeps.ways⟩
    · exact ⟨keeps.sched, keeps.mem, keeps.ways⟩
  have raised := (kept.endOp o).sched
  refine answers_of_finish run ((congrArg Sched.raised raised).trans hs) (tiled_of (row := row h) kept hk rfl ⟨rfl, rfl, rfl⟩ hd (fun l n hn => ?_))
  have long : (row h l).length = 64 := by
    rw [hrow]
    unfold productRow
    rw [List.length_map, List.length_range]
  rw [List.getElem?_eq_getElem (by omega)]
  rw [← List.getElem_eq_getD (h := by rw [hrow] at long; rw [long]; exact hn) 0]
  subst hrow
  rfl

end Sys2Proof.Machine

open Sys2Proof.Machine in
/-- Settles O43, instruction by instruction. -/
theorem matrixExecutes : Obligations.MatrixExecutes := by
  intro s o f h hs core d at_ tiled int alone does ha hh hoc hc
  refine ⟨fun hw hn hd => ?_, fun hw hn hd => ?_, fun hw ho hd => does_mred hs ha hh hd hw ho, fun hw hn hd => ?_, fun hw hn hd => ?_,
    fun hw hn hp hlen hr _ => does_mrd hs ha hh hw hn hp hlen hr, fun hw ho => does_mswap hs ha hoc hc hw ho,
    fun hw ho hl hok hp => does_mload hs ha hoc hh hc hw ho hl hok hp,
    fun hw ho hm hx hr hd => does_mmul hs ha hoc hh hd hc hw ho rfl hm hx rfl hr⟩
  · exact does_tile hs ha hh hd (row := fun _ _ => List.replicate 64 0) (by rw [hw]; rfl) (.inl rfl) (by rw [hw]; rfl) (by unfold headReady; rw [hw]) hn rfl
      (fun l n hn => List.getElem?_replicate_of_lt hn)
  · exact does_tile hs ha hh hd (row := fun h l => (List.range 64).map (fun n =>
      if f.imm.toNat ≤ n ∧ n - f.imm.toNat < groupCount f then (o.vecs.getD (n - f.imm.toNat) []).getD l 0 else (h.tileRow (accOf f.d) l).getD n 0))
      (by rw [hw]; rfl) (.inr (.inl rfl)) (by rw [hw]; rfl) (by unfold headReady; rw [hw]) hn rfl (fun l n hn => getElem?_rowOf _ hn)
  · exact does_tile hs ha hh hd (row := fun h l => (List.range 64).map (fun n =>
      addCell (f.sub % 2 == 1) ((h.tileRow (accOf f.d) l).getD n 0) ((h.tileRow (accOf f.x) l).getD n 0)))
      (by rw [hw]; rfl) (.inr (.inr (.inr (.inr rfl)))) (by rw [hw]; rfl) (by unfold headReady; rw [hw]) hn rfl (fun l n hn => getElem?_rowOf _ hn)
  · exact does_tile hs ha hh hd (row := fun h l => (List.range 64).map (fun n =>
      (fMul fmtF32 (Rm.ofCode f.rm) false ((h.tileRow (accOf f.d) l).getD n 0) ((o.vecs.getD 0 []).getD (if f.sub % 2 == 1 then n else l) 0)).1))
      (by rw [hw]; rfl) (.inr (.inr (.inr (.inl rfl)))) (by rw [hw]; rfl) (by unfold headReady; rw [hw]) hn rfl (fun l n hn => getElem?_rowOf _ hn)
end

section
/-! PROOFS. The statement of spawns. -/

namespace Sys2Proof.Machine

/-! ### Taking a slot of a pool (R125) -/

/-- An access to an area that changes no hatch but the waits of its paths. -/
def AreaM.Stills {α : Type} (m : AreaM α) : Prop := ∀ s, (m.left s).stills = s.stills

theorem AreaM.Keeps.stills {α : Type} {m : AreaM α} (h : m.Keeps) : m.Stills := fun s => (h s).stills

theorem AreaM.Stills.bind {α β : Type} {m : AreaM α} {f : α → AreaM β} (hm : m.Stills) (hf : ∀ a, (f a).Stills) : (m >>= f).Stills := by
  intro s
  have h := hm s
  cases e : m.run s with
  | ok a t =>
    rw [left_of_ok e] at h
    have run : (m >>= f).left s = (f a).left t := by
      unfold AreaM.left
      rw [EStateM.run_bind, e]
    rw [run, hf a t, h]
  | error a t =>
    have run : (m >>= f).run s = .error a t := by rw [EStateM.run_bind, e]
    rw [left_of_error run]
    rwa [left_of_error e] at h

/-- A free choice within an access. -/
theorem stills_choose {α : Type} (n : Nat) {f : Nat → AreaM α} (hf : ∀ i, (f i).Stills) :
    AreaM.Stills (do
      let s ← get
      let (i, s) := s.choose n
      set s
      f i) := fun s => hf (s.choose n).1 { s with draws := s.draws + 1 }

theorem stills_poolTake (c ctx pool : Nat) : ∀ n, (poolTake c ctx pool n).Stills
  | 0 => AreaM.Keeps.stills (.pure _)
  | n + 1 => by
    unfold poolTake
    refine AreaM.Stills.bind (keeps_poolFree c ctx pool).stills (fun x => ?_)
    obtain ⟨k, fs⟩ := x
    have rest : ∀ i, AreaM.Stills (do
        poolMark c ctx pool (fs.getD i 0) true (fs.length - 1)
        let rest ← poolTake c ctx pool n
        return rest.map (fun r => slotAddr pool k (fs.getD i 0) :: r)) := fun i =>
      (keeps_poolMark _ _ _ _ _ _).stills.bind (fun _ => (stills_poolTake c ctx pool n).bind (fun _ => AreaM.Keeps.stills (.pure _)))
    dsimp only
    split
    · exact AreaM.Keeps.stills (.pure _)
    · exact stills_choose fs.length rest

/-! ### A spawn that is checked (R364, R418) -/

theorem checked_handler {c : Iss} {s : State} (h : c.p.handler = true) (len n : Nat) (peak : Bool) (go : State → State) :
    spawnChecked c s len n peak go = c.trap s { code := 0x02, info := 0x13 } := by
  unfold spawnChecked
  rw [if_pos h]
  rfl

section Checked
variable {c : Iss} {s : State} (h : c.p.handler = false)
include h

theorem checked_idle (ha : c.act = 0) (len n : Nat) (peak : Bool) (go : State → State) :
    spawnChecked c s len n peak go = finish (retire s c.inst c.slot c.p.pc len) := by
  unfold spawnChecked
  rw [h, if_neg Bool.false_ne_true, if_pos (by simpa using ha)]

variable (ha : c.act ≠ 0)
include ha

theorem checked_many {n : Nat} (hn : 9 < n) (len : Nat) (peak : Bool) (go : State → State) :
    spawnChecked c s len n peak go = c.trap s { code := 0x02, info := 0x13 } := by
  unfold spawnChecked
  rw [h, if_neg Bool.false_ne_true, if_neg (by simpa using ha), if_pos hn]
  rfl

theorem checked_full {n : Nat} {s1 : State} (hn : n ≤ 9) (hr : spawnRoom s c = .ok false s1) (len : Nat) (go : State → State) :
    spawnChecked c s len n false go = c.trap s1 { code := 0x1C } := by
  unfold spawnChecked
  rw [h, if_neg Bool.false_ne_true, if_neg (by simpa using ha), if_neg (by omega), Bool.false_and, if_neg Bool.false_ne_true, hr]
  rfl

theorem checked_goes {n : Nat} {s1 : State} {peak : Bool} (hn : n ≤ 9) (hp : peak = true → n ≤ c.rcd.peak) (hr : spawnRoom s c = .ok true s1)
    (hc : c.h.countFull 3 = false) (hq : releaseReady s1 c.h = (s1, true)) (len : Nat) (go : State → State) :
    spawnChecked c s len n peak go = go (releaseAll s1 c.h) := by
  have low : (peak && decide (c.rcd.peak < n)) = false := by
    cases peak with
    | false => rfl
    | true => have := hp rfl; simpa using this
  unfold spawnChecked
  rw [h, if_neg Bool.false_ne_true, if_neg (by simpa using ha), if_neg (by omega), low, if_neg Bool.false_ne_true, hr]
  dsimp only
  rw [hc, if_neg Bool.false_ne_true]
  unfold afterRelease
  rw [hq]

end Checked

/-! ### The continuation (R146) -/

/-- The block of a continuation is queued, the spawn is counted, and its placement is under way. -/
def Queued (c : Iss) (l : Launch) (area : Nat) (regs : List (Nat × Nat)) (t : State) : Prop :=
  (∃ b ∈ t.sched.blocks, b.spawnArea = some area ∧ b.launch = l.id ∧ b.sole = 384 + l.spawnSerial ∧ b.phase = .queued ∧
    b.depth = c.h.depth ∧ b.spawnRegs = regs) ∧
  (t.hatch? c.inst).map (fun h => (h.count 3).length) = some ((c.h.count 3).length + 1) ∧
  (⟨.spawnPlacement, { core := c.h.core }⟩ : Event) ∈ t.net

theorem count_addOp {s u : State} {i : Nat} {h : Hatch} {o : Op} (hs : s.hatch? i = some h) (hi : o.hatch = i) (hu : u.hatches = s.hatches := by rfl) :
    ((addOp (markDirty u i) 3 o).hatch? i).map (fun h => (h.count 3).length) = some ((h.count 3).length + 1) := by
  subst hi
  have inst : ∀ h : Hatch, h.inst = o.hatch → (h.noted 3 o).inst = o.hatch := fun h e => by
    obtain ⟨_, _, _, _, _, en⟩ := Hatch.noted_eq h 3 o
    rw [en]
    exact e
  have dirty : (markDirty u o.hatch).hatch? o.hatch = some { h with clean := false } := by
    unfold markDirty
    rw [hatch?_updHatch u o.hatch (fun h => { h with clean := false }) (fun _ e => e), show u.hatch? o.hatch = some h by unfold State.hatch?; rw [hu]; exact hs]
    rfl
  rw [addOp_eq, hatch?_updHatch _ o.hatch (fun h => h.noted 3 o) inst,
    show ({ markDirty u o.hatch with ops := (markDirty u o.hatch).ops ++ [o] } : State).hatch? o.hatch = some { h with clean := false } from dirty,
    Option.map_some, Option.map_some]
  have count : (({ h with clean := false } : Hatch).noted 3 o).count 3 = h.count 3 ++ [o.id] := Hatch.count_setCount _ _ _
  rw [count, List.length_append]
  rfl

theorem queued_queueSpawn {s : State} {c : Iss} (hh : (s.hatch? c.inst).map Hatch.still = some c.h.still) (what : Instr) (pb : Block) (l : Launch)
    (regs : List (Nat × Nat)) (area : Nat) : Queued c l area regs (queueSpawn s c what pb l regs area) := by
  obtain ⟨h, hs, eh⟩ := Option.map_eq_some_iff.1 hh
  have count : h.count 3 = c.h.count 3 := (congrArg (fun h : Hatch => h.count 3) eh :)
  refine ⟨⟨_, List.mem_append_right _ (List.mem_singleton.2 rfl), rfl, rfl, rfl, rfl, rfl, rfl⟩, ?_,
    List.mem_append_right _ (List.mem_singleton.2 rfl)⟩
  rw [← count]
  exact count_addOp hs rfl

theorem Queued.keeps {c : Iss} {l : Launch} {area : Nat} {regs : List (Nat × Nat)} {s t : State} (h : Queued c l area regs s) (k : MemKeeps s t) :
    Queued c l area regs t := by
  obtain ⟨hb, hc, hn⟩ := h
  have blocks : t.sched.blocks = s.sched.blocks := k.keeps (fun u => u.sched.blocks) (fun _ => rfl)
  refine ⟨by rw [blocks]; exact hb, ?_, k.net _ hn rfl⟩
  have key : ∀ u : State, (u.hatch? c.inst).map (fun h => (h.count 3).length) = ((u.hatch? c.inst).map Hatch.still).map (fun h => (h.count 3).length) :=
    fun u => by rw [Option.map_map]; rfl
  rw [key, hatch?_still_congr k.stills, ← key, hc]

/-- What a queued continuation's spawn still has once it has gone on. -/
theorem Queued.onward {c : Iss} {l : Launch} {area : Nat} {regs : List (Nat × Nat)} {s t : State} (h : Queued c l area regs s)
    (hs : t.sched.blocks = s.sched.blocks) (hc : (t.hatch? c.inst).map (fun h => (h.count 3).length) = (s.hatch? c.inst).map (fun h => (h.count 3).length))
    (hn : ∀ e ∈ s.net, e ∈ t.net) : Queued c l area regs t := by
  obtain ⟨blocks, count, net⟩ := h
  exact ⟨by rw [hs]; exact blocks, hc.trans count, hn _ net⟩

/-- What a spawn takes and writes. -/
structure Spawned (s s1 s3 s4 : State) (c : Iss) (what : Instr) (pc : Nat) (h : Hatch) (pb : Block) (l : Launch) (area : Nat) (regs : List (Nat × Nat)) : Prop where
  settled : s4.Settled
  room : spawnRoom s c = .ok true s1
  block : (releaseAll s1 c.h).block? c.h.block = some pb
  launch : launchOf (releaseAll s1 c.h) c.h = some l
  slot : (poolTake c.h.core (ctxOf (releaseAll s1 c.h) c.h) c.rcd.pool 1).run (releaseAll s1 c.h) = .ok (some [area]) s3
  image : (devWrite c.h.core (ctxOf (releaseAll s1 c.h) c.h) area (spawnImage h (spawnPath c pc) c.prot (spawnScalars c pb.index l.spawnSerial) regs)).run
    (queueSpawn s3 c what pb l regs area) = .ok () s4

theorem doSpawn_eq {s s1 s3 s4 : State} {c : Iss} {what : Instr} {pc : Nat} {h : Hatch} {pb : Block} {l : Launch} {area : Nat} {regs : List (Nat × Nat)}
    (k : Spawned s s1 s3 s4 c what pc h pb l area regs) : doSpawn c (releaseAll s1 c.h) what pc h regs = s4 := by
  obtain ⟨-, -, hb, hl, hp, hi⟩ := k
  unfold doSpawn
  rw [hb, hl]
  dsimp only
  rw [hp]
  dsimp only
  unfold withArea
  rw [show ([area] : List Nat).getD 0 0 = area from rfl, hi]

theorem queued_spawned {s s1 s3 s4 : State} {c : Iss} {what : Instr} {pc : Nat} {h : Hatch} {pb : Block} {l : Launch} {area : Nat} {regs : List (Nat × Nat)}
    (k : Spawned s s1 s3 s4 c what pc h pb l area regs) (hh : s.hatch? c.inst = some c.h) : Queued c l area regs s4 := by
  obtain ⟨-, hr, -, -, hp, hi⟩ := k
  have s1s : s1.stills = s.stills := by
    unfold spawnRoom at hr
    have free := (keeps_poolFree c.h.core (ctxOf s c.h) c.rcd.pool).stills s
    cases e : (poolFree c.h.core (ctxOf s c.h) c.rcd.pool).run s with
    | ok x t =>
      rw [e] at hr
      rw [left_of_ok e] at free
      obtain ⟨_, rfl⟩ := EStateM.Result.ok.inj hr
      exact free
    | error x t => rw [e] at hr; cases hr
  have s2s : (releaseAll s1 c.h).stills = s.stills := (memKeeps_drainCore s1 c.h.core).stills.trans s1s
  have s3s : s3.stills = s.stills := by
    have take := stills_poolTake c.h.core (ctxOf (releaseAll s1 c.h) c.h) c.rcd.pool 1 (releaseAll s1 c.h)
    rw [left_of_ok hp] at take
    exact take.trans s2s
  have queued := queued_queueSpawn ((hatch?_still_congr s3s c.inst).trans (congrArg (Option.map Hatch.still) hh)) what pb l regs area
  have keeps := keeps_devWrite c.h.core (ctxOf (releaseAll s1 c.h) c.h) area
    (spawnImage h (spawnPath c pc) c.prot (spawnScalars c pb.index l.spawnSerial) regs) (queueSpawn s3 c what pb l regs area)
  rw [left_of_ok hi] at keeps
  exact queued.keeps keeps

/-- A spawn that goes on leaves its continuation queued. -/
theorem queued_passed {s : State} {c : Iss} {l : Launch} {area : Nat} {regs : List (Nat × Nat)} (h : Queued c l area regs s) (hs : s.Settled) :
    Queued c l area regs (finish (retire s c.inst c.slot c.p.pc 16)) := by
  obtain ⟨rest, stills, -⟩ := passed_of hs c 16
  have key : ∀ u : State, (u.hatch? c.inst).map (fun h => (h.count 3).length) = ((u.hatch? c.inst).map Hatch.still).map (fun h => (h.count 3).length) :=
    fun u => by rw [Option.map_map]; rfl
  refine h.onward (congrArg (fun u : State => u.sched.blocks) rest :) ?_ (fun e he => ?_)
  · rw [key, hatch?_still_congr stills, ← key, hatch?_updPath, Option.map_map]
    refine congrArg (fun f => Option.map f (s.hatch? c.inst)) (funext fun g => ?_)
    obtain ⟨x, y, e⟩ := setPath_eq g c.slot ((g.path? c.slot).map (fun p => p.arrive (wrap64 (c.p.pc + 16))))
    show ((Hatch.setPath g c.slot _).count 3).length = _
    rw [e]
    rfl
  · refine mem_net_finish ((retire_near s c.inst c.slot c.p.pc 16).settled hs) ?_
    unfold retire
    rw [noteIssue_net]
    exact he

/-- Writing an interval changes vector registers only. -/
theorem applyWrite_ivl (prot : Bool) (m : LaneSet) (hp : Hatch × Path) (x : BitVec 8) (w : Nat) (val : Nat → Ivl) :
    ∃ v, (applyWrite prot m hp (.ivl x w val)).1 = { hp.1 with v := v } := by
  have fold : ∀ (ks : List Nat) (g : Hatch) (k : Nat → Nat) (tg : Nat → Nat) (lo hi : Nat → Nat → Word),
      ∃ v, ks.foldl (fun h i => h.writeIvl (k i) (tg i) m (lo i) (hi i)) g = { g with v := v } := by
    intro ks g k tg lo hi
    induction ks generalizing g with
    | nil => exact ⟨g.v, rfl⟩
    | cons i ks ih =>
      obtain ⟨v, e⟩ := ih (g.writeIvl (k i) (tg i) m (lo i) (hi i))
      exact ⟨v, e⟩
  cases e : specKind x with
  | v r =>
    simp only [applyWrite, e]
    exact fold (List.range w) hp.1 (fun k => r + k) (fun k => if w == 1 then 1 else 2 + k) (fun k l => wordOf (val l).lo k)
      (fun k l => wordOf (val l).hi k)
  | s r => exact ⟨hp.1.v, by simp only [applyWrite, e]⟩
  | p r => exact ⟨hp.1.v, by simp only [applyWrite, e]⟩
  | acc r => exact ⟨hp.1.v, by simp only [applyWrite, e]⟩
  | zero => exact ⟨hp.1.v, by simp only [applyWrite, e]⟩
  | ones => exact ⟨hp.1.v, by simp only [applyWrite, e]⟩
  | imm => exact ⟨hp.1.v, by simp only [applyWrite, e]⟩
  | lane => exact ⟨hp.1.v, by simp only [applyWrite, e]⟩
  | reserved => exact ⟨hp.1.v, by simp only [applyWrite, e]⟩
  | null => exact ⟨hp.1.v, by simp only [applyWrite, e]⟩

theorem count_late (h : Hatch) (sh : Shape) (cls : Nat) : (h.late sh).count cls = h.count cls := by
  unfold Hatch.late
  split
  · obtain ⟨_, _, _, e⟩ := markEmpty_eq h sh.dsts true
    unfold Hatch.markLate
    rw [e]
    rfl
  · rfl

/-- An `ibisect` that gives D the lower half leaves its continuation queued. -/
theorem queued_finished {s : State} {c : Iss} {l : Launch} {area : Nat} {regs : List (Nat × Nat)} {sh : Shape} {m : LaneSet} {x : BitVec 8} {w : Nat}
    {val : Nat → Ivl} {fl : FpFlags} {len : Nat} (h : Queued c l area regs s) (hs : s.Settled) (hm : m ≠ 0)
    (ha : allocTest s (c.refresh s) (applyWrite (c.refresh s).prot m ((c.refresh s).h.freeLast sh, (c.refresh s).p) (.ivl x w val)).1 = .ok) :
    Queued c l area regs (complete s (c.refresh s) sh m [.ivl x w val] fl len) := by
  obtain ⟨g, hg, -⟩ : ∃ g, s.hatch? c.inst = some g ∧ True := by
    cases e : s.hatch? c.inst with
    | none => have := h.2.1; rw [e] at this; cases this
    | some g => exact ⟨g, rfl, trivial⟩
  have ref : c.refresh s = { c with h := g } := by unfold Iss.refresh; rw [hg]; rfl
  have inst : g.inst = c.inst := hatch?_inst hg
  have fin := complete_spec (c := c.refresh s) hs sh m [.ivl x w val] fl len hm ha
  have net := fun (e : Event) (he : e ∈ s.net) => mem_net_complete hs sh m [.ivl x w val] fl len ha he
  generalize complete s (c.refresh s) sh m [.ivl x w val] fl len = t at fin net
  have wrote : (applyWrite (c.refresh s).prot m ((c.refresh s).h.freeLast sh, (c.refresh s).p) (.ivl x w val)).1.inst = c.inst ∧
      (applyWrite (c.refresh s).prot m ((c.refresh s).h.freeLast sh, (c.refresh s).p) (.ivl x w val)).1.count 3 = g.count 3 := by
    obtain ⟨v1, e1⟩ := freeLast_eq (c.refresh s).h sh
    obtain ⟨v2, e2⟩ := applyWrite_ivl (c.refresh s).prot m ((c.refresh s).h.freeLast sh, (c.refresh s).p) x w val
    rw [e2, e1, ref]
    exact ⟨inst, rfl⟩
  simp only [List.foldl_cons, List.foldl_nil] at fin
  obtain ⟨inst1, count1⟩ := wrote
  generalize applyWrite (c.refresh s).prot m ((c.refresh s).h.freeLast sh, (c.refresh s).p) (.ivl x w val) = q at fin inst1 count1
  have ci : (c.refresh s).inst = c.inst := by rw [ref]; exact inst
  obtain ⟨⟨k, hk, ek⟩, -⟩ := finished_spec fin (inst1.trans ci.symm) (by rw [ci, hg]; rfl)
  have blocks : t.sched.blocks = s.sched.blocks := by
    obtain ⟨ops, e⟩ := keepNewer_eq s (c.refresh s).inst sh.dsts
    have rest := fin.rest
    rw [e] at rest
    exact (congrArg (fun u : State => u.sched.blocks) rest :)
  rw [ci] at hk
  refine h.onward blocks ?_ net
  rw [hk, hg, Option.map_some, Option.map_some]
  have count : k.count 3 = g.count 3 := by
    have c1 : k.count 3 = k.still.count 3 := rfl
    obtain ⟨y, z, es⟩ := setPath_eq (Hatch.late { q.1 with fpflags := q.1.fpflags ||| fl } sh) (c.refresh s).slot
      (some (q.2.arrive (wrap64 ((c.refresh s).p.pc + len))))
    rw [c1, ek, es]
    show (Hatch.late { q.1 with fpflags := q.1.fpflags ||| fl } sh).count 3 = _
    rw [count_late]
    exact count1
  rw [count]

/-- A `spawn` whose registers are ready is checked (R418). -/
theorem exec_spawn {f : MForm} {s : State} {c : Iss} (hi : IssuesM 0xDF f s c) (hsh : c.shadowOk (mShape 0xDF f) = true)
    (hw : copyWaits c (namedRegs (c.sval f.x 2)) = false) :
    exec (.spawn f) s = .next (spawnChecked c s 16 (imageRegs c.h (namedRegs (c.sval f.x 2))).length false (fun s =>
      finish (retire (doSpawn c s (.spawn f) (wrapN 64 ((c.p.pc : Int) + 4 * sxt 32 f.imm.toNat)) c.h
        (imageRegs c.h (namedRegs (c.sval f.x 2)))) c.inst c.slot c.p.pc 16))) := by
  show execSpawn f s = _
  unfold execSpawn
  rw [issueMS_go hi hsh]
  dsimp only
  rw [hw, if_neg Bool.false_ne_true]

/-- The registers that an `ibisect` names besides its destination. -/
def bisectNames (c : Iss) (f : AForm) : List Nat :=
  (namedRegs (c.sval f.srcb 2)).filter (fun r => !(regRange (vecReg f.dst) (tyRegs f.tyN)).contains r)

/-- The hatch as the continuation of an `ibisect` has it: D holds the upper half. -/
def bisectUp (c : Iss) (f : AForm) : Hatch :=
  (applyWrite c.prot (physMask c.prot c.act) (c.h, c.p) (.ivl f.dst (tyRegs f.tyN) (fun l => (halves (fmtOf f.tyN) (ivlA c f l).1).2))).1

/-- The registers that an `ibisect` hands over. -/
def bisectRegs (c : Iss) (f : AForm) : List (Nat × Nat) :=
  imageRegs (bisectUp c f) (regRange (vecReg f.dst) (tyRegs f.tyN)) ++ imageRegs c.h (bisectNames c f)

/-- What an `ibisect` writes to D. -/
def bisectLow (c : Iss) (f : AForm) : Write := .ivl f.dst (tyRegs f.tyN) (fun l => (halves (fmtOf f.tyN) (ivlA c f l).1).1)

/-- The hatch and the path once D holds the lower half. -/
def bisectWrite (c : Iss) (f : AForm) (k : Iss) : Hatch × Path :=
  applyWrite k.prot (physMask c.prot c.act) (k.h.freeLast (aShape 0x8F (aRule c.fieldCtx 0x8F f) f), k.p) (bisectLow c f)

/-- What an `ibisect` that passes its checks does after its release. -/
def bisectGo (c : Iss) (f : AForm) (s : State) : State :=
  match allocTest s c (bisectWrite c f c).1 with
  | .dry => stallDry s
  | .peak => c.trap s { code := tcIllegalOperand, info := 0x100 }
  | .ok =>
    let s := doSpawn c s (.ibisect f) (wrap64 (c.p.pc + f.len)) (bisectUp c f) (bisectRegs c f)
    complete s (c.refresh s) (aShape 0x8F (aRule c.fieldCtx 0x8F f) f) (physMask c.prot c.act) [bisectLow c f]
      ((lanesOf (physMask c.prot c.act)).foldl (fun a l => a ||| (ivlA c f l).2) 0) f.len

/-- An `ibisect` whose registers are ready is checked as a spawn is, and goes on with D written (R364, R365). -/
theorem exec_ibisect {f : AForm} {s : State} {c : Iss} (hi : IssuesA 0x8F f s c) (hw : copyWaits c (bisectNames c f) = false) :
    exec (.ibisect f) s = .next (spawnChecked c s f.len (bisectRegs c f).length true (bisectGo c f)) := by
  unfold bisectNames at hw
  show execIbisect f s = _
  unfold execIbisect issueA
  rw [issueWith_go hi]
  dsimp only
  rw [hw, if_neg Bool.false_ne_true]
  rfl

theorem bisectGo_eq {c : Iss} {f : AForm} {s s4 : State} (ha : allocTest s c (bisectWrite c f c).1 = .ok)
    (hd : doSpawn c s (.ibisect f) (wrap64 (c.p.pc + f.len)) (bisectUp c f) (bisectRegs c f) = s4) :
    bisectGo c f s = complete s4 (c.refresh s4) (aShape 0x8F (aRule c.fieldCtx 0x8F f) f) (physMask c.prot c.act) [bisectLow c f]
      ((lanesOf (physMask c.prot c.act)).foldl (fun a l => a ||| (ivlA c f l).2) 0) f.len := by
  unfold bisectGo
  rw [ha, hd]

end Sys2Proof.Machine

open Sys2Proof.Machine in
/-- Settles O46: a spawn and an `ibisect` run the same checks in the same order; what passes them takes a slot, queues its
continuation and counts in c3, and that is kept by what completes the instruction. -/
theorem spawns : Obligations.Spawns := by
  unfold Obligations.Spawns
  intro s s1 s3 s4 c pb l area s2 ready imaged queued
  have spawned : ∀ (what : Sys2Proof.Instr) (pc : Nat) (h : Hatch) (regs : List (Nat × Nat)), ready → imaged what pc h regs →
      Spawned s s1 s3 s4 c what pc h pb l area regs := by
    rintro what pc h regs ⟨-, hr, -, -, hb, hl, hp, h4⟩ him
    exact ⟨h4, hr, hb, hl, hp, him⟩
  constructor
  · intro f hi hsh names regs hw
    have ran := exec_spawn hi hsh hw
    refine ⟨fun hh => ⟨_, ran.trans (congrArg Host.Outcome.next (checked_handler hh _ _ _ _)), rfl⟩,
      fun hh ha hs => ⟨_, ran.trans (congrArg Host.Outcome.next (checked_idle hh ha _ _ _ _)), passed_of hs c 16⟩,
      fun hh ha hn => ⟨_, ran.trans (congrArg Host.Outcome.next (checked_many hh ha hn _ _ _)), rfl⟩,
      fun hh ha hn hr => ⟨_, ran.trans (congrArg Host.Outcome.next (checked_full hh ha hn hr _ _)), rfl⟩,
      fun hh ha hn hready him => ?_⟩
    have did := spawned _ _ _ _ hready him
    obtain ⟨-, hr, hc, hq, -⟩ := hready
    refine ⟨_, ran.trans (congrArg Host.Outcome.next (checked_goes hh ha hn (fun h => absurd h Bool.false_ne_true) hr hc hq _ _)), ?_⟩
    rw [doSpawn_eq did]
    exact ⟨passed_of did.settled c 16, queued_passed (queued_spawned did (issues_hatch hi)) did.settled⟩
  · intro f hi w m half ds names up regs sh low fl hw
    have ran := exec_ibisect hi hw
    refine ⟨fun hh ha hn => ⟨_, ran.trans (congrArg Host.Outcome.next (checked_many hh ha hn _ _ _)), rfl⟩,
      fun hh ha hm hn hp hready him h2 h4 => ?_⟩
    have did := spawned _ _ _ _ hready him
    obtain ⟨-, hr, hc, hq, -⟩ := hready
    refine ⟨_, ran.trans (congrArg Host.Outcome.next ((checked_goes hh ha hn (fun _ => hp) hr hc hq _ _).trans
      (bisectGo_eq h2 (doSpawn_eq did)))), ?_, ?_⟩
    · exact queued_finished (queued_spawned did (issues_hatch hi)) did.settled hm h4
    · exact complete_spec did.settled _ _ _ _ _ hm h4

end

section
/-! PROOFS. The end of a hatch, of its block and of its launch, and the triggers of a step, make no hatch (R155, R169, R173). -/

namespace Sys2Proof.Machine

theorem noNewHatch_foldl {α : Type} (f : State → α → State) (hf : ∀ s a, NoNewHatch s (f s a)) (xs : List α) (s : State) :
    NoNewHatch s (xs.foldl f s) := by
  induction xs generalizing s with
  | nil => exact .refl s
  | cons x xs ih => exact (hf s x).trans (ih _)

theorem noNewHatch_ite {b : Prop} [Decidable b] {s t u : State} (ht : NoNewHatch s t) (hu : NoNewHatch s u) : NoNewHatch s (if b then t else u) := by
  split <;> assumption

/-- A change of some hatches that keeps what they are. -/
theorem noNewHatch_updWhere (s : State) (p : Hatch → Bool) {f : Hatch → Hatch} (hi : ∀ h, (f h).inst = h.inst) (hb : ∀ h, (f h).block = h.block) :
    NoNewHatch s { s with hatches := updWhere p f s.hatches } := by
  intro h hm
  obtain ⟨g, hg, e⟩ := List.mem_map.1 hm
  refine ⟨g, hg, ?_⟩
  rw [← e]
  split
  · exact ⟨(hi g).symm, (hb g).symm⟩
  · exact ⟨rfl, rfl⟩

theorem MemKeeps.noNewHatch {s t : State} (h : MemKeeps s t) : NoNewHatch s t := h.sheds.hatches

theorem noNewHatch_logError (s : State) (a b c d e f : Nat) : NoNewHatch s (logError s a b c d e f) :=
  noNewHatch_of_eq ((reports_logError s a b c d e f).1.keeps State.hatches (fun _ _ => rfl))

/-- An access to memory, whatever it answers. -/
theorem AreaM.Keeps.noNewHatch_ok {α : Type} {m : AreaM α} (h : m.Keeps) {s t : State} {a : α} (e : m.run s = .ok a t) : NoNewHatch s t := by
  have k := h s
  rw [left_of_ok e] at k
  exact k.noNewHatch

theorem AreaM.Keeps.noNewHatch_error {α : Type} {m : AreaM α} (h : m.Keeps) {s t : State} {x : Nat × Nat} (e : m.run s = .error x t) :
    NoNewHatch s t := by
  have k := h s
  rw [left_of_error e] at k
  exact k.noNewHatch

/-! ### Held contributions -/

theorem noNewHatch_unspill (c ctx buf : Nat) (xs : List Contrib) (s : State) : NoNewHatch s (unspill s c ctx buf xs).1 := by
  induction xs with
  | nil => exact .refl s
  | cons x xs ih =>
    rw [unspill]
    dsimp only
    generalize unspill s c ctx buf xs = r at ih ⊢
    cases x.spilled with
    | none => exact ih
    | some i =>
      dsimp only
      cases e : (devRead c ctx (spillAt buf i) 32).run r.1 with
      | ok bs t => exact ih.trans ((keeps_devRead c ctx _ 32).noNewHatch_ok e)
      | error p t => exact ih.trans ((keeps_devRead c ctx _ 32).noNewHatch_error e)

theorem noNewHatch_logLost (s : State) (lost : List (Contrib × Nat)) : NoNewHatch s (logLost s lost) :=
  noNewHatch_foldl _ (fun s _ => noNewHatch_logError s _ _ _ _ _ _) _ s

theorem noNewHatch_flushOne (s : State) (core pa mt : Nat) (f64 : Bool) (cs : List Contrib) (depth : Nat) (src : Option Raiser) :
    NoNewHatch s (flushOne s core pa mt f64 cs depth src) := by
  unfold flushOne
  extract_lets n line sum
  refine noNewHatch_ite (noNewHatch_of_eq rfl) (noNewHatch_ite ?_ ?_)
  · have h := (memKeeps_freshMt4 s core line).noNewHatch
    generalize freshMt4 s core line = r at h ⊢
    exact h.trans (memKeeps_emit r.1 _).noNewHatch
  · have h := ((memKeeps_takeLine s line).trans (memKeeps_coherentRead _ pa n)).noNewHatch
    generalize coherentRead (takeLine s line) pa n = r at h ⊢
    exact noNewHatch_ite (h.trans (noNewHatch_logError _ _ _ _ _ _ _)) (noNewHatch_ite h (h.trans (memKeeps_pokePa r.1 _ _ _).noNewHatch))

theorem noNewHatch_flushContribs (s : State) (launch core : Nat) (p : Contrib → Bool) (depth : Nat) (src : Option Raiser) :
    NoNewHatch s (flushContribs s launch core p depth src) := by
  unfold flushContribs
  extract_lets mine rest sched s1
  clear_value mine
  cases mine with
  | nil => exact .refl s
  | cons x mine =>
    clear_value rest
    have h1 : NoNewHatch s s1 := noNewHatch_of_eq rfl
    clear_value s1
    dsimp only
    generalize (s.launch? launch).elim (0, 0) (fun l => (l.ctx, l.rcd.spill)) = place
    have h2 := h1.trans (noNewHatch_unspill core place.1 place.2 (x :: mine) s1)
    generalize unspill s1 core place.1 place.2 (x :: mine) = r at h2 ⊢
    have h3 := h2.trans (noNewHatch_logLost r.1 r.2.2)
    generalize logLost r.1 r.2.2 = u at h3 ⊢
    exact (noNewHatch_ite (h3.trans (sheds_setUsed u _ _ _ _).hatches) h3).trans (noNewHatch_foldl _ (fun s _ => noNewHatch_flushOne s _ _ _ _ _ _ _) _ _)

/-! ### Barriers, blocks and launches -/

theorem depart_inst (which : Nat) (h : Hatch) : (h.depart which).inst = h.inst ∧ (h.depart which).block = h.block := by
  unfold Hatch.depart
  extract_lets st f waits
  split <;> exact ⟨rfl, rfl⟩

theorem noNewHatch_tryDepart (s : State) (binst which : Nat) : NoNewHatch s (tryDepart s binst which) := by
  have departs : ∀ p, NoNewHatch s { s with hatches := updWhere p (Hatch.depart which) s.hatches } := fun p =>
    noNewHatch_updWhere s p (fun h => (depart_inst which h).1) (fun h => (depart_inst which h).2)
  unfold tryDepart
  split
  · exact .refl s
  · split
    · exact .refl s
    · exact noNewHatch_ite (.refl s) (noNewHatch_ite ((departs _).trans (noNewHatch_of_eq rfl)) ((departs _).trans (noNewHatch_of_eq rfl)))

theorem noNewHatch_departAround (s : State) (b : Block) : NoNewHatch s (departAround s b) := by
  have all : NoNewHatch s (departAll s b.inst) := by
    unfold departAll
    split
    · exact .refl s
    · exact noNewHatch_foldl _ (fun s _ => noNewHatch_tryDepart s _ _) _ s
  exact all.trans (noNewHatch_foldl _ (fun s _ => noNewHatch_tryDepart s _ _) _ _)

theorem noNewHatch_completeLaunch (s : State) (id : Nat) : NoNewHatch s (completeLaunch s id) := by
  unfold completeLaunch
  split
  · exact .refl s
  next l _ =>
    refine noNewHatch_ite (.refl s) ?_
    extract_lets s1 s2
    have drains : ∀ s, NoNewHatch s ((List.range 256).foldl (fun s c => if (s.core c).l1.isEmpty then s else drainCore s c) s) := fun s =>
      noNewHatch_foldl _ (fun s c => noNewHatch_ite (.refl s) (memKeeps_drainCore s c).noNewHatch) _ s
    have h1 : NoNewHatch s s1 := noNewHatch_ite (.refl s) (noNewHatch_flushContribs s id 0 (fun _ => true) 0 none)
    have h2 : NoNewHatch s1 s2 := drains s1
    clear_value s2
    exact h1.trans (h2.trans (noNewHatch_of_eq rfl))

theorem noNewHatch_endBlock (s : State) (b : Block) : NoNewHatch s (endBlock s b) := by
  unfold endBlock
  extract_lets s1 c s2 q s3
  have h1 : NoNewHatch s s1 := (sheds_freeWays s b).hatches
  have h2 : NoNewHatch s1 s2 := by
    unfold s2
    split
    · exact .refl s1
    next l _ =>
      have areas := noNewHatch_foldl (fun s a => AreaM.orElseState (poolRelease c l.ctx l.rcd.pool a) s)
        (fun s a => ((keeps_poolRelease c l.ctx l.rcd.pool a).sheds s).hatches) b.areas s1
      exact noNewHatch_ite (areas.trans (noNewHatch_flushContribs _ _ _ _ _ _)) areas
  have h3 : NoNewHatch s2 s3 := noNewHatch_of_eq rfl
  exact h1.trans (h2.trans (h3.trans (noNewHatch_completeLaunch s3 b.launch)))

/-! ### Hatches -/

section Kill
variable {kill : State → Nat → Nat → Nat → State} (hk : ∀ s i code pa, NoNewHatch s (kill s i code pa))
include hk

theorem noNewHatch_countGroupWith (s : State) (binst which : Nat) : NoNewHatch s (countGroupWith kill s binst which) := by
  unfold countGroupWith
  split
  · exact .refl s
  next b _ =>
    split
    · exact .refl s
    next l _ =>
      refine noNewHatch_ite (.refl s) ?_
      dsimp only
      generalize groupCounter l.rcd (which - 1) = g
      generalize he : (devWrite _ _ _ _).run s = r
      cases r with
      | ok a t => exact (keeps_devWrite _ _ _ _).noNewHatch_ok he
      | error x t =>
        have h := (keeps_devWrite _ _ _ _).noNewHatch_error he
        dsimp only
        split
        · exact h.trans (noNewHatch_logError _ _ _ _ _ _ _)
        · exact h.trans (hk _ _ _ _)

/-- A hatch that ends is gone, and no other comes. -/
theorem noNewHatch_endHatchWith (s : State) (inst : Nat) (killed : Bool) :
    NoNewHatch { s with hatches := s.hatches.filter (fun x => x.inst != inst) } (endHatchWith kill s inst killed) := by
  unfold endHatchWith
  split
  next hn =>
    intro h hm
    rw [State.hatch?, List.find?_eq_none] at hn
    exact ⟨h, List.mem_filter.2 ⟨hm, by simpa using hn h hm⟩, rfl, rfl⟩
  next h _ =>
    extract_lets s1 s2 s3 rcd groups
    have h3 : NoNewHatch { s with hatches := s.hatches.filter (fun x => x.inst != inst) } s3 := by
      refine noNewHatch_of_eq ?_
      unfold s3 s2
      split <;> rfl
    clear_value s3
    split
    · exact h3
    next b _ =>
      extract_lets s4 s5 s6 s7
      have h4 : NoNewHatch s3 s4 := noNewHatch_of_eq rfl
      have h5 : NoNewHatch s4 s5 := noNewHatch_ite (noNewHatch_updWhere s4 _ (fun _ => rfl) (fun _ => rfl)) (.refl s4)
      have h6 : NoNewHatch s5 s6 := noNewHatch_foldl _ (fun s g => noNewHatch_countGroupWith hk s b.inst (barGroup g)) _ s5
      have h7 : NoNewHatch s6 s7 := noNewHatch_departAround s6 b
      have all := h3.trans (h4.trans (h5.trans (h6.trans h7)))
      clear_value s7
      refine noNewHatch_ite all ?_
      split
      · exact all
      next b _ => exact all.trans (noNewHatch_endBlock s7 b)

end Kill

theorem noNewHatch_killFrame (h : Hatch) (ctx code pc : Nat) (s : State) : NoNewHatch s (killFrame h ctx code pc s) := by
  have w : ∀ (s : State) (off : Nat) (bs : List Byte), NoNewHatch s (AreaM.orElseState (devWrite h.core ctx (h.area + frameAt + off) bs) s) :=
    fun s off bs => ((keeps_devWrite _ _ _ _).sheds s).hatches
  unfold killFrame
  extract_lets w1 s1 s2 rd
  have r : ∀ (s : State) (off n : Nat), NoNewHatch s (rd s off n).1 := by
    intro s off n
    unfold rd
    cases e : (devRead h.core ctx (h.area + frameAt + off) n).run s with
    | ok bs t => exact (keeps_devRead _ _ _ _).noNewHatch_ok e
    | error x t => exact (keeps_devRead _ _ _ _).noNewHatch_error e
  have h2 : NoNewHatch s s2 := (w s _ _).trans (w s1 _ _)
  clear_value rd s2
  have h3 := h2.trans (r s2 0x3FC 4)
  generalize rd s2 0x3FC 4 = x at h3 ⊢
  obtain ⟨s3, n⟩ := x
  have last : ∀ s4, NoNewHatch s s4 → NoNewHatch s (match rd s4 0x001 1 with
      | (s, f) => match f with
        | some f => w1 s 0x001 (natBytes 1 (if bitAt f 1 then f else f + 2))
        | none => s) := by
    intro s4 h4
    have h5 := h4.trans (r s4 0x001 1)
    generalize rd s4 0x001 1 = y at h5 ⊢
    obtain ⟨s5, f⟩ := y
    cases f with
    | none => exact h5
    | some f => exact h5.trans (w s5 _ _)
  cases n with
  | none => exact last s3 h3
  | some n => exact last _ (h3.trans (w s3 _ _))

theorem noNewHatch_faultKill : ∀ n s i code pa, NoNewHatch s (faultKill n s i code pa)
  | 0, s, _, _, _ => .refl s
  | n + 1, s, i, code, pa => by
    unfold faultKill
    split
    · exact .refl s
    next h _ =>
      exact (noNewHatch_logError s _ _ _ _ _ _).trans ((noNewHatch_killFrame h _ code _ _).trans
        ((sheds_filter _ _).hatches.trans (noNewHatch_endHatchWith (noNewHatch_faultKill n) _ i true)))

/-- A hatch that ends is gone (R169). -/
theorem hatch?_endHatch (s : State) (inst : Nat) (killed : Bool) : (endHatch s inst killed).hatch? inst = none := by
  refine (noNewHatch_endHatchWith (noNewHatch_faultKill _) s inst killed).gone ?_
  rw [State.hatch?, List.find?_eq_none]
  intro h hm
  simpa using (List.mem_filter.1 hm).2

/-! ### Triggers -/

theorem noNewHatch_enterSweep (s : State) (w : Watch) (die depth : Nat) : NoNewHatch s (enterSweep s w die depth) := by
  unfold enterSweep
  exact noNewHatch_ite (noNewHatch_of_eq rfl) ((noNewHatch_logError _ _ _ _ _ _ _).trans (noNewHatch_of_eq rfl))

theorem noNewHatch_tellDispatcher (s : State) (die slice : Nat) (t : TriggerSource) : NoNewHatch s (tellDispatcher s die slice t) :=
  noNewHatch_of_eq ((conveys_send s _ _ _ _ _ _).keeps State.hatches (fun _ _ _ _ => rfl))

theorem noNewHatch_read (s : State) (pa n : Nat) : NoNewHatch s (coherentRead (takeLine s (lineOf pa)) pa n).1 :=
  ((memKeeps_takeLine s _).trans (memKeeps_coherentRead _ pa n)).noNewHatch

theorem noNewHatch_bitmapReady (s : State) (w : Watch) (die pa : Nat) : NoNewHatch s (bitmapReady s w die pa) := by
  have h := noNewHatch_read s pa 1
  unfold bitmapReady
  dsimp only
  generalize coherentRead (takeLine s (lineOf pa)) pa 1 = r at h ⊢
  exact noNewHatch_ite h (h.trans ((memKeeps_pokePa r.1 _ _ _).noNewHatch.trans ((noNewHatch_logError _ _ _ _ _ _ _).trans (noNewHatch_enterSweep _ _ _ _))))

theorem noNewHatch_bitSwap (s : State) (w : Watch) (g : Nat) (on : Bool) : NoNewHatch s (bitSwap s w g on).2 := by
  unfold bitSwap
  extract_lets pa s1 b old new
  have h : NoNewHatch s s1 := noNewHatch_bitmapReady s w _ pa
  exact noNewHatch_ite h (h.trans (memKeeps_pokePa s1 _ _ _).noNewHatch)

theorem noNewHatch_ringPush (s : State) (w : Watch) (die : Nat) (e : TrigEntry) : NoNewHatch s (ringPush s w die e).2 := by
  unfold ringPush
  split
  · exact .refl s
  · have h := noNewHatch_read s (w.ring + 8 * (w.wr % w.ringN)) 8
    dsimp only
    generalize coherentRead (takeLine s (lineOf (w.ring + 8 * (w.wr % w.ringN)))) (w.ring + 8 * (w.wr % w.ringN)) 8 = r at h ⊢
    split
    · exact h.trans (noNewHatch_logError _ _ _ _ _ _ _)
    · have g := h.trans (memKeeps_pokePa r.1 (w.ring + 8 * (w.wr % w.ringN)) (natBytes 8 (trigWord e)) none).noNewHatch
      generalize pokePa r.1 (w.ring + 8 * (w.wr % w.ringN)) (natBytes 8 (trigWord e)) none = u at g ⊢
      exact g.trans (.trans (t := u.updWatch w.id (fun w => { w with wr := w.wr + 1 })) (noNewHatch_of_eq rfl) (noNewHatch_tellDispatcher _ _ _ _))

theorem noNewHatch_settleOne (s : State) (r : Raise) : NoNewHatch s (settleOne s r) := by
  unfold settleOne
  split
  · exact .refl s
  next w hw =>
    dsimp only
    split
    · have h := noNewHatch_logError s 1 2 0x0104 (granuleHome s w r.granule).1 w.id r.pa
      split
      · exact h
      next x _ =>
        refine h.trans ?_
        unfold pushSfr
        exact noNewHatch_ite (.refl _) (noNewHatch_of_eq rfl)
    · have h := noNewHatch_bitSwap s w r.granule true
      generalize bitSwap s w r.granule true = b at h ⊢
      refine noNewHatch_ite h ?_
      split
      · exact h
      next w2 _ =>
        have told : ∀ q, NoNewHatch b.2 (tellDispatcher { b.2 with sched := q } (granuleHome s w r.granule).1 (granuleHome s w r.granule).2
            (.queue (granuleHome s w r.granule).1 (granuleHome s w r.granule).2)) := fun q =>
          .trans (t := { b.2 with sched := q }) (noNewHatch_of_eq rfl) (noNewHatch_tellDispatcher _ _ _ _)
        refine noNewHatch_ite (h.trans (noNewHatch_enterSweep _ _ _ _)) (noNewHatch_ite (h.trans (told _)) ?_)
        have g := noNewHatch_ringPush b.2 w2 (granuleHome s w r.granule).1 ⟨w2.id, r.depth, r.granule⟩
        exact noNewHatch_ite (h.trans g) (h.trans (g.trans (noNewHatch_enterSweep _ _ _ _)))

theorem noNewHatch_finish (s : State) : NoNewHatch s (finish s) := by
  have settles : NoNewHatch s (settle s) := by
    unfold settle
    split
    · exact .refl s
    next rs _ =>
      extract_lets t _
      have h : NoNewHatch s t := noNewHatch_foldl settleOne noNewHatch_settleOne _ s
      exact h.trans (noNewHatch_of_eq rfl)
  exact settles.trans (noNewHatch_of_eq rfl)

end Sys2Proof.Machine
end

section
/-! PROOFS. The statement of `region`, `exit`, `tlbinv`, `cachectl`, `lsconv`, `probe` and `errinj`. -/

namespace Sys2Proof.Machine

/-! ### `region` (R147, R311) -/

theorem answers_region {s s1 : State} {c : Iss} {f : AForm} (hi : IssuesA 0x15 f s c) (hh : c.p.handler = false) (hp : c.h.pathCount ≤ 1)
    (hk : c.h.pstack = []) (hn : (regionNames c f.srca).length ≤ 16) (hc : c.h.c0 = [] ∧ c.h.c1 = [] ∧ c.h.c2 = [] ∧ c.h.c3 = [])
    (hd : drained s c.h = true) (he : c.h.emptyS = 0)
    (hw : (areaWrite c.inst 0x1C00 (regionRecord c (endCheck (wrap64 (c.p.pc + f.len)) c.p.loops).2
      (endCheck (wrap64 (c.p.pc + f.len)) c.p.loops).1 (regionNames c f.srca))).run s = .ok () s1) (hs : s1.Settled) :
    Answers (.region f) s (fun t => Changed s1 t c (fun h => { h with clean := true, regionDone := true, stores := 0, repeats := 0 })
      (fun p => p.arrive (wrap64 (c.p.pc + f.len)))) := by
  obtain ⟨h0, h1, h2, h3⟩ := hc
  have names : (regionNames c f.srca).any (fun n => c.h.emptyS.getLsbD n) = false := by
    rw [he, List.any_eq_false]
    intro n _
    simp
  have ran : exec (.region f) s =
      .next (moveOn c s1 f.len (fun h => { h with clean := true, regionDone := true, stores := 0, repeats := 0 })) := by
    show execRegion f s = _
    unfold execRegion issueA
    rw [issueWith_go hi]
    dsimp only
    rw [hh, if_neg Bool.false_ne_true, if_neg (by omega), hk, if_neg (by exact Bool.false_ne_true), if_neg (by omega), h0, h1, h2, h3, hd, names,
      if_neg (by exact Bool.false_ne_true)]
    unfold withArea
    rw [show regionAt = 0x1C00 from rfl, hw]
  exact ⟨_, ran, moveOn_changed hs c f.len (fun _ => rfl) (fun _ => rfl)⟩

/-! ### `exit` (R169, R308) -/

/-- The hatch as it is when its only path ends: nothing waits on its divergence stack, and its slots are as at the issue. -/
structure Vacates (c : Iss) (h : Hatch) : Prop where
  stack : h.dstack = []
  slot0 : h.slot0.isSome = c.h.slot0.isSome
  slot1 : h.slot1.isSome = c.h.slot1.isSome

/-- The hatch of the issuing path is still there, and would be vacated. -/
def Vacating (c : Iss) (s : State) : Prop := ∃ h, s.hatch? c.inst = some h ∧ Vacates c h

theorem Vacating.stills {c : Iss} {s t : State} (h : Vacating c s) (e : t.stills = s.stills) : Vacating c t := by
  obtain ⟨g, hg, stack, s0, s1⟩ := h
  have kept := hatch?_still_congr e c.inst
  rw [hg] at kept
  obtain ⟨k, hk, ek⟩ := Option.map_eq_some_iff.1 kept
  refine ⟨k, hk, (congrArg Hatch.dstack ek :).trans stack, ?_, ?_⟩
  · have e0 : k.slot0.map Path.still = g.slot0.map Path.still := (congrArg Hatch.slot0 ek :)
    rw [← s0, ← Option.isSome_map (f := Path.still), e0, Option.isSome_map]
  · have e1 : k.slot1.map Path.still = g.slot1.map Path.still := (congrArg Hatch.slot1 ek :)
    rw [← s1, ← Option.isSome_map (f := Path.still), e1, Option.isSome_map]

theorem Vacating.updHatch {c : Iss} {s : State} (h : Vacating c s) {f : Hatch → Hatch} (hi : ∀ h, (f h).inst = h.inst)
    (hf : ∀ h, Vacates c h → Vacates c (f h)) : Vacating c (s.updHatch c.inst f) := by
  obtain ⟨g, hg, v⟩ := h
  refine ⟨f g, ?_, hf g v⟩
  rw [hatch?_updHatch s c.inst f (fun h e => (hi h).trans e), hg]
  rfl

theorem vacates_mapPath {c : Iss} {h : Hatch} (v : Vacates c h) (slot : Nat) (f : Path → Path) :
    Vacates c (h.setPath slot ((h.path? slot).map f)) := by
  obtain ⟨stack, s0, s1⟩ := v
  unfold Hatch.setPath Hatch.path?
  split
  · exact ⟨stack, by rw [Option.isSome_map]; exact s0, s1⟩
  · exact ⟨stack, s0, by rw [Option.isSome_map]; exact s1⟩

/-- A hatch whose only path ends goes with it. -/
theorem hatch?_endPath {c : Iss} {s : State} (h : Vacating c s) (hp : c.h.path? c.slot = some c.p) (hx : c.h.slot0.isSome ≠ c.h.slot1.isSome)
    (pc : Nat) : (endPath s c.inst c.slot pc).hatch? c.inst = none := by
  obtain ⟨g, hg, stack, s0, s1⟩ := h
  have there : (s.updHatch c.inst (fun h => h.setPath c.slot none)).hatch? c.inst = some (g.setPath c.slot none) := by
    rw [hatch?_updHatch s c.inst (fun h => h.setPath c.slot none) (fun h e => (Hatch.setPath_inst _ _ _).trans e), hg]
    rfl
  have free : (freeSlot c.inst c.slot).run s = .ok () (s.updHatch c.inst (fun h => h.setPath c.slot none)) := by
    have stack' : (g.setPath c.slot none).dstack = [] := by
      unfold Hatch.setPath
      split <;> exact stack
    unfold freeSlot
    rw [EStateM.run_bind]
    show (divLoad c.inst c.slot).run (s.updHatch c.inst (fun h => h.setPath c.slot none)) = _
    unfold divLoad
    rw [EStateM.run_bind]
    have get : (getHatch c.inst).run (s.updHatch c.inst (fun h => h.setPath c.slot none)) =
        .ok (g.setPath c.slot none) (s.updHatch c.inst (fun h => h.setPath c.slot none)) := by
      show getHatch c.inst _ = _
      unfold getHatch
      rw [there]
    rw [get]
    dsimp only
    rw [stack']
    rfl
  have vacant : (g.setPath c.slot none).slot0 = none ∧ (g.setPath c.slot none).slot1 = none := by
    unfold Hatch.path? at hp
    unfold Hatch.setPath
    split at hp
    next h0 =>
      rw [if_pos h0]
      rw [hp] at s0 hx
      refine ⟨rfl, ?_⟩
      rw [← Option.not_isSome_iff_eq_none, s1]
      exact fun h => hx h.symm
    next h0 =>
      rw [if_neg h0]
      rw [hp] at s1 hx
      refine ⟨?_, rfl⟩
      rw [← Option.not_isSome_iff_eq_none, s0]
      exact hx
  obtain ⟨v0, v1⟩ := vacant
  unfold endPath withArea
  rw [free]
  dsimp only
  rw [there]
  dsimp only
  rw [v0, v1, if_pos (by exact rfl)]
  exact hatch?_endHatch _ _ _

/-- A release with nothing of the hatch in flight is made at once (R192). -/
theorem releaseReady_done {s : State} {h : Hatch} (hd : drained s h = true) (hl : loadsDone s h = true) (hm : h.mt4Ports = 0) :
    releaseReady s h = (s, true) := by
  unfold releaseReady
  rw [hd, hl, hm]
  rfl

theorem answers_exit {s : State} {c : Iss} {f : AForm} (hi : IssuesA 0x12 f s c) (hg : f.gsense = 0) (hr : releaseReady s c.h = (s, true))
    (hx : c.h.slot0.isSome ≠ c.h.slot1.isSome) (hk : c.h.dstack = []) (hp : c.p.split = none) :
    Answers (.exit f) s (fun t => t.hatch? c.inst = none) := by
  have whole : exitLanes c (f.gsense != 0) = c.p.domain := by
    rw [hg]
    rfl
  have ends : (c.p.domain &&& ~~~c.p.domain == 0) = true := by simp
  have v0 : Vacating c s := ⟨c.h, issues_hatch hi, hk, rfl, rfl⟩
  have v1 : Vacating c (releaseAll s c.h) := v0.stills (memKeeps_drainCore s c.h.core).stills
  have v2 : Vacating c (markDirty (releaseAll s c.h) c.inst) := v1.updHatch (fun _ => rfl) (fun _ ⟨a, b, d⟩ => ⟨a, b, d⟩)
  obtain ⟨u, hu⟩ : ∃ u, markDirty (releaseAll s c.h) c.inst = u := ⟨_, rfl⟩
  rw [hu] at v2
  have leave : ∃ v, withArea u c.inst c.p.pc (leaveLanes c c.p.domain) = v ∧ Vacating c v := by
    refine ⟨_, rfl, ?_⟩
    unfold withArea leaveLanes
    rw [hp]
    exact v2.updHatch (fun h => Hatch.setPath_inst _ _ _) (fun h v => vacates_mapPath v c.slot _)
  obtain ⟨v, hv, v3⟩ := leave
  have v4 : Vacating c (noteIssue v c.inst c.slot) := v3.stills (noteIssue_spec v c.inst c.slot).1.2
  have ran : exec (.exit f) s = .next (finish (endPath (noteIssue v c.inst c.slot) c.inst c.slot c.p.pc)) := by
    show execExit f s = _
    unfold execExit issueA
    rw [issueWith_go hi]
    dsimp only
    rw [whole, show (f.gsense != 0) = false by rw [hg]; rfl, Bool.false_and, if_neg Bool.false_ne_true]
    unfold afterRelease
    rw [hr]
    dsimp only
    rw [hu, hv, if_pos ends]
  exact ⟨_, ran, (noNewHatch_finish _).gone (hatch?_endPath v4 (issues_path hi) hx c.p.pc)⟩

/-! ### `tlbinv` and `cachectl` (R315, R316) -/

theorem guard_runs {act : LaneSet} {g : BitVec 2} (h : g = 0 ∨ act ≠ 0) : (g != 0 && act == 0) = false := by
  rw [Bool.and_comm]
  exact runs_of h

theorem bind_map_path {α : Type} (o : Option Hatch) (slot : Nat) (g : Path → α) :
    o.bind (fun h => (h.path? slot).map g) = (o.bind (fun h => h.path? slot)).map g := by
  cases o <;> rfl

theorem answers_tlbinv {s : State} {c : Iss} {f : AForm} (hi : IssuesA 0x1B f s c) (hg : f.gsense = 0 ∨ c.act ≠ 0)
    (hr : releaseReady s c.h = (s, true)) (hs : (releaseAll s c.h).Settled) :
    Answers (.tlbinv f) s (fun t => ∃ n,
      (t.hatch? c.inst).bind (fun h => (h.path? c.slot).map (fun p => p.wait)) = some (.shoot n) ∧
      ∀ d, d < 4 → ∃ x ∈ t.tr.shoots, x.die = d ∧ x.id = n ∧ x.kind = tlbinvKind c f) := by
  obtain ⟨u, hu⟩ : ∃ u, markDirty (releaseAll s c.h) c.inst = u := ⟨_, rfl⟩
  have settled : u.Settled := by rw [← hu]; exact hs
  have mine : u.pathStill c.inst c.slot = some c.p.still := by
    rw [← hu]
    refine (pathStill_updHatch (f := fun h => { h with clean := false }) (fun _ => rfl) (fun _ => rfl) _ _).trans ?_
    rw [pathStill_of_stills (show (releaseAll s c.h).stills = s.stills from (memKeeps_drainCore s c.h.core).stills)]
    unfold State.pathStill
    rw [issues_hatch hi, Option.bind_some, issues_path hi, Option.map_some]
  obtain ⟨num, cores, rt, wc, ws, net, e⟩ := startShoot_eq u (tlbinvKind c f)
  have ran : exec (.tlbinv f) s = .next (finish ((startShoot u (tlbinvKind c f)).2.updPath c.inst c.slot
      (fun p => { p with wait := .shoot u.nextId }))) := by
    show execTlbinv f s = _
    unfold execTlbinv issueA
    rw [issueWith_go hi]
    dsimp only
    rw [guard_runs hg, if_neg Bool.false_ne_true]
    unfold afterRelease
    rw [hr]
    dsimp only
    rw [hu, num]
  refine ⟨_, ran, u.nextId, ?_, fun d hd => ?_⟩
  · rw [e, finish_settled (by exact settled)]
    unfold State.pathStill at mine
    have wait : ∀ v : State, v.hatches = u.hatches → ((v.updPath c.inst c.slot (fun p => { p with wait := .shoot u.nextId })).hatch? c.inst).bind
        (fun h => (h.path? c.slot).map (fun p => p.wait)) = some (.shoot u.nextId) := by
      intro v hv
      have same : v.hatch? c.inst = u.hatch? c.inst := by unfold State.hatch?; rw [hv]
      rw [bind_map_path, path_updPath, same, Option.map_map]
      rw [bind_map_path] at mine
      obtain ⟨p, hp, -⟩ := Option.map_eq_some_iff.1 mine
      rw [hp]
      rfl
    exact wait _ rfl
  · rw [e, finish_settled (by exact settled)]
    exact ⟨⟨u.nextId, d, tlbinvKind c f⟩, List.mem_append_right _ (List.mem_map.2 ⟨d, List.mem_range.2 hd, rfl⟩), rfl, rfl, rfl⟩

/-- `cachectl` of every line, with no copy left that waits for its home, goes on. -/
theorem answers_cachectl {s : State} {c : Iss} {f : AForm} (hi : IssuesA 0x1C f s c) (hg : f.gsense = 0 ∨ c.act ≠ 0) (h2 : 2 ≤ f.sub)
    (hs : (ctlAll s c.h.core (f.sub == 3) f.rm).Settled)
    (hw : 2 ≤ f.rm → (ctlAll s c.h.core (f.sub == 3) f.rm).coh.agents.all (fun a => !a.wbBuf) = true) :
    Answers (.cachectl f) s (fun t => Passed (ctlAll s c.h.core (f.sub == 3) f.rm) t c f.len) := by
  have inv : (f.sub == 1 || f.sub == 3) = (f.sub == 3) := by
    rw [show (f.sub == 1) = false from beq_eq_false_iff_ne.2 (by omega), Bool.false_or]
  have kept : ¬ (2 ≤ f.rm && (ctlAll s c.h.core (f.sub == 3) f.rm).coh.agents.any (·.wbBuf)) = true := by
    rw [Bool.and_eq_true, decide_eq_true_eq, List.any_eq_true]
    rintro ⟨hm, a, ha, hb⟩
    have := List.all_eq_true.1 (hw hm) a ha
    rw [hb] at this
    cases this
  have ran : exec (.cachectl f) s = .next (finish (retire (ctlAll s c.h.core (f.sub == 3) f.rm) c.inst c.slot c.p.pc f.len)) := by
    show execCachectl f s = _
    unfold execCachectl issueA
    rw [issueWith_go hi]
    dsimp only
    rw [guard_runs hg, if_neg Bool.false_ne_true, if_pos h2, inv]
    unfold ctlEnd
    rw [if_neg kept]
  exact ⟨_, ran, passed_of hs c f.len⟩

/-! ### `lsconv`, `probe` and `errinj` (R317 to R319) -/

theorem answers_lsconv {s : State} {c : Iss} {f : AForm} (hi : IssuesA 0x1D f s c) (hg : f.gsense = 0 ∨ c.act ≠ 0) (h0 : f.sub ≠ 0) (hs : s.Settled)
    (ho : c.execMask true (f.gsense != 0) ≠ 0) :
    let n := min f.aux.toNat (min ((s.core c.h.core).ways.filter isFreeWay).length (lsWays (s.core c.h.core) - 2))
    let s1 := s.updCore c.h.core (fun k => { k with ways := convertWays isFreeWay .l1 n k.ways })
    Answers (.lsconv f) s (fun t => Wrote s1 t c 0x1D f (c.execMask true (f.gsense != 0)) [.reg f.dst 1 (fun _ => n)]) := by
  intro n s1
  refine ⟨complete s1 c (aShape 0x1D (aRule c.fieldCtx 0x1D f) f) (c.execMask true (f.gsense != 0)) [.reg f.dst 1 (fun _ => n)] 0 f.len, ?_,
    fun ha => complete_result (s := s1) hs ho ha⟩
  show execLsconv f s = _
  unfold execLsconv issueA
  rw [issueWith_go hi]
  dsimp only
  have sub : (f.sub == 0) = false := beq_eq_false_iff_ne.2 h0
  rw [guard_runs hg, if_neg Bool.false_ne_true, sub]
  rfl

theorem answers_probe {s : State} {c : Iss} {f : AForm} (hi : IssuesA 0x1E f s c) (hg : f.gsense = 0 ∨ c.act ≠ 0)
    (hv : canonical (c.sval f.srca 2) = false) (hs : s.Settled) (ho : c.execMask true (f.gsense != 0) ≠ 0) :
    Answers (.probe f) s (fun t => Wrote s t c 0x1E f (c.execMask true (f.gsense != 0)) [.reg f.dst 2 (fun _ => 0x100)]) := by
  refine ⟨complete s c (aShape 0x1E (aRule c.fieldCtx 0x1E f) f) (c.execMask true (f.gsense != 0)) [.reg f.dst 2 (fun _ => 0x100)] 0 f.len, ?_,
    fun ha => complete_result hs ho ha⟩
  show execProbe f s = _
  unfold execProbe issueA
  rw [issueWith_go hi]
  dsimp only
  rw [guard_runs hg, if_neg Bool.false_ne_true, hv, if_pos (by exact rfl)]

theorem answers_errinj {s s1 : State} {c : Iss} {f : AForm} {pa mt : Nat} {w : Bool} {z r} (hi : IssuesA 0x1F f s c) (hg : f.gsense = 0 ∨ c.act ≠ 0)
    (hx : translate s c.h.core (ctxOf s c.h) c.kern .store (c.sval f.srcb 2) = (s1, .ok pa mt w z r)) (hm : mt < 3)
    (hc : c.sval f.srca 1 % 65536 = 0x0101) (hs : (injectSector s1 pa 0x0101).Settled) (ho : c.execMask true (f.gsense != 0) ≠ 0) :
    Answers (.errinj f) s (fun t => Wrote (injectSector s1 pa 0x0101) t c 0x1F f (c.execMask true (f.gsense != 0)) [.reg f.dst 1 (fun _ => 0)]) := by
  refine ⟨complete (injectSector s1 pa 0x0101) c (aShape 0x1F (aRule c.fieldCtx 0x1F f) f) (c.execMask true (f.gsense != 0))
    [.reg f.dst 1 (fun _ => 0)] 0 f.len, ?_, fun ha => complete_result hs ho ha⟩
  have ok : ((c.sval f.srca 1 % 65536 == 0x0001 || c.sval f.srca 1 % 65536 == 0x0101) && decide (mt < 3)) = true := by
    rw [hc, decide_eq_true hm]
    rfl
  show execErrinj f s = _
  unfold execErrinj issueA
  rw [issueWith_go hi]
  dsimp only
  rw [guard_runs hg, if_neg Bool.false_ne_true, hx]
  dsimp only
  rw [ok, if_pos rfl, hc]
  rfl

end Sys2Proof.Machine

open Sys2Proof.Machine in
/-- Settles O24: each clause is the one branch of its instruction that its hypotheses leave; what an `exit` leaves is that no hatch
comes when one ends. -/
theorem systemControls : Obligations.SystemControls := by
  unfold Obligations.SystemControls
  intro s c f hg on once
  refine ⟨fun s1 hi hh hp hk hn h0 h1 h2 h3 hd he hw hs => answers_region hi hh hp hk hn ⟨h0, h1, h2, h3⟩ hd he hw hs,
    fun hi hg hd hl hm hx hk hp => answers_exit hi hg (releaseReady_done hd hl hm) hx hk hp,
    fun hi hd hl hm hs => ?_,
    fun hi h2 hs hw => answers_cachectl hi hg h2 hs hw,
    fun hi h0 hs ho => ?_,
    fun hi hv hs ho _ => answers_probe hi hg hv hs ho,
    fun s1 pa mt w z r hi hx hm hc hs ho _ => answers_errinj hi hg hx hm hc hs ho⟩
  · have kind : tlbinvKind c f = if f.sub = 0 then .page (c.sval f.srcb 1) (c.sval f.srca 2 % 2 ^ 52)
        else if f.sub = 1 then .ctx (c.sval f.srcb 1) else .all := by
      unfold tlbinvKind
      simp only [beq_iff_eq]
    rw [← kind]
    exact answers_tlbinv hi hg (releaseReady_done hd hl hm) hs
  · exact fun _ => answers_lsconv hi hg h0 hs ho

end
